-- ==== Sys2Proof/Word.lean ====
section
/-!
DEFINITION. The word types of the machine and their plainest arithmetic (R2 to R4).
-/

namespace Sys2Proof

/-- A scalar register's content, a slot word of a bundle (R63, R93). -/
abbrev Word := BitVec 64

abbrev Byte := BitVec 8

/-- The list f 0, f 1, …, f (n - 1), starting the count at `k`. -/
def tabFrom {α : Type} (f : Nat → α) : Nat → Nat → List α
  | _, 0 => []
  | k, n + 1 => f k :: tabFrom f (k + 1) n

/-- The list f 0, …, f (n - 1). -/
def tab {α : Type} (n : Nat) (f : Nat → α) : List α := tabFrom f 0 n

theorem length_tabFrom {α : Type} (f : Nat → α) (k n : Nat) : (tabFrom f k n).length = n := by
  induction n generalizing k with
  | zero => rfl
  | succ n ih => simp [tabFrom, ih]

@[simp] theorem length_tab {α : Type} (n : Nat) (f : Nat → α) : (tab n f).length = n :=
  length_tabFrom f 0 n

theorem getElem?_tabFrom {α : Type} (f : Nat → α) (k n i : Nat) :
    (tabFrom f k n)[i]? = if i < n then some (f (k + i)) else none := by
  induction n generalizing k i with
  | zero => simp [tabFrom]
  | succ n ih =>
    cases i with
    | zero => simp [tabFrom]
    | succ i =>
      simp only [tabFrom, List.getElem?_cons_succ, ih]
      simp [Nat.add_assoc, Nat.add_comm 1 i]

theorem getElem?_tab {α : Type} (n : Nat) (f : Nat → α) (i : Nat) :
    (tab n f)[i]? = if i < n then some (f i) else none := by
  simp [tab, getElem?_tabFrom]

/-- The vector whose entry i is f i. -/
def gen {α : Type} (n : Nat) (f : Nat → α) : Vector α n := ⟨⟨tab n f⟩, by simp⟩

/-- Entry i of a vector, or a default beyond its end. -/
def vget {α : Type} {n : Nat} (d : α) (v : Vector α n) (i : Nat) : α := v.toArray.toList.getD i d

/-- The vector with entry i replaced; unchanged when i lies beyond its end. -/
def vset {α : Type} {n : Nat} (v : Vector α n) (i : Nat) (x : α) : Vector α n :=
  ⟨⟨v.toArray.toList.set i x⟩, by simp⟩

@[simp] theorem vget_gen {α : Type} (n : Nat) (f : Nat → α) (d : α) (i : Nat) :
    vget d (gen n f) i = if i < n then f i else d := by
  simp only [vget, gen, List.getD_eq_getElem?_getD, getElem?_tab]
  split <;> rfl

theorem vget_vset_same {α : Type} {n : Nat} (d : α) (v : Vector α n) (i : Nat) (x : α) (h : i < n) :
    vget d (vset v i x) i = x := by
  have : i < v.toArray.toList.length := by simpa using h
  simp [vget, vset, List.getD_eq_getElem?_getD, h]

theorem vget_vset_ne {α : Type} {n : Nat} (d : α) (v : Vector α n) (i j : Nat) (x : α) (h : i ≠ j) :
    vget d (vset v i x) j = vget d v j := by
  simp [vget, vset, List.getD_eq_getElem?_getD, h]

/-- The vector with f applied to entry i. -/
def vmod {α : Type} {n : Nat} (d : α) (v : Vector α n) (i : Nat) (f : α → α) : Vector α n :=
  vset v i (f (vget d v i))

end Sys2Proof
end

