-- ==== Sys2Proof/Syntax.lean ====
section
/-!
DEFINITION. The one inductive of operations and events: one constructor for each row of the opcode
table. Rows that are slot words carry their predicate (R94) and the operands of their format (R95, R96);
rows that are events of the part carry what names the thing they act on.
-/

namespace Sys2Proof

/-- The predicate part of a slot word (R93): PNEG and PRED. -/
structure Pd where
  neg : Bool
  reg : BitVec 4
  deriving DecidableEq, Repr

/-- Compare conditions of R114, codes 0 to 9. -/
inductive Cond where
  | eq | ne | lt | ge | ltu | geu | gt | le | gtu | leu
  deriving DecidableEq, Repr

/-- Compare conditions of the immediate forms (R114): codes 0 to 7. -/
inductive CondI where
  | eq | ne | lt | ge | ltu | geu | gt | le
  deriving DecidableEq, Repr

/-- FP32 compare conditions of R145, codes 0 to 7. -/
inductive FCond where
  | eq | ne | lt | ge | un | or | gt | le
  deriving DecidableEq, Repr

/-- Kinds of `cvt` (R147). -/
inductive CvtKind where
  | fi | if' | ff
  deriving DecidableEq, Repr

/-- Rounding modes (R51), codes 0 to 4. -/
inductive RMode where
  | rne | rtz | rup | rdn | rna
  deriving DecidableEq, Repr

/-- Reduction operators of R157, codes 0 to 10. -/
inductive RedOp where
  | fsum | fmax | fmin | isum | imax | imin | umax | umin | and' | or' | xor'
  deriving DecidableEq, Repr

/-- Key types of the scan unit (R184), codes 0 to 2. -/
inductive KeyT where
  | f32 | i32 | u32
  deriving DecidableEq, Repr

/-- Batched-atomic operators (R233), codes 0x0 to 0xC. -/
inductive AtomOp where
  | add | and' | or' | xor' | smin | smax | umin | umax | swap | cas | fadd | cadd | cclr
  deriving DecidableEq, Repr

/-- Phase scopes (R133, R244), codes 0 to 5. -/
inductive Scope where
  | core | ring | span | pkg | pod | sys
  deriving DecidableEq, Repr

/-- Who issues bundles: core `r` of troupe `t` (R13), or management core `m`, 0 on far-tier die 8 and 1 on
far-tier die 9 (R262). -/
inductive Agent where
  | core (t r : Nat)
  | mgmt (m : Nat)
  deriving DecidableEq, Repr

/-- Who counts cycles together: a troupe (R18), or a management core (R403). -/
inductive Party where
  | troupe (t : Nat)
  | mgmt (m : Nat)
  deriving DecidableEq, Repr

/-- A Nudar message (R349): the header's fields and its data flits. -/
structure Msg where
  inl  : BitVec 352
  rsv  : BitVec 13
  pln  : BitVec 2
  rpl  : Bool
  agt  : BitVec 16
  addr : BitVec 64
  seq  : BitVec 16
  dpkg : BitVec 16
  spkg : BitVec 16
  sdie : BitVec 4
  ddie : BitVec 4
  typ  : BitVec 4
  ndat : BitVec 4
  data : List (BitVec 8)
  deriving DecidableEq, Repr

/-- What is learnt of a piece of a copy command that left the core (R217, R218): it is done, the host's IOMMU
refused it (R278), the far package refused it (R230), or a CXL read returned poison (R371). `data` is what a
read of another package returned; the other reads take their data from the model's own memories. -/
inductive PieceRes where
  | done (data : List (BitVec 8))
  | iommu
  | refused
  | poison
  deriving DecidableEq, Repr

/-- What a die's monitors read (R402): temperatures in 1/16 degree, each with the working bit of its sensor; of each
droop monitor the supplies in 0.25 mV since the sample before, oldest first; ring-oscillator counts. -/
structure MonSample where
  temp   : List (Bool × BitVec 16)
  supply : List (List (BitVec 16))
  rosc   : List (BitVec 32)
  deriving DecidableEq, Repr

/-- What one entry of a topology command finds when it comes up (R363, R364): each lane's measure of its eye, and the
package at the far end. -/
structure FarEnd where
  eyes : List (BitVec 32)
  peer : BitVec 16
  deriving DecidableEq, Repr

/-- An error of R384: its kind, the die that counts it, and whether it was corrected. -/
structure SoftError where
  kind : BitVec 4
  die : BitVec 4
  corrected : Bool
  deriving DecidableEq, Repr

/-- An inbound access of the host or of a CXL peer to device G (R244, R369). -/
structure HostAccess where
  peer : Bool
  asid : BitVec 14
  va   : BitVec 57
  write : Bool
  data : List (BitVec 8)
  len  : Nat
  deriving DecidableEq, Repr

abbrev SReg := BitVec 6
abbrev VRegN := BitVec 5
abbrev PReg := BitVec 4
abbrev FReg := BitVec 3
abbrev XReg := BitVec 3
abbrev KReg := BitVec 3
abbrev AReg := BitVec 2
abbrev WReg := BitVec 1
abbrev QReg := BitVec 3
abbrev Lvl := BitVec 3
/-- Access size code (R96): 1, 2, 4 or 8 bytes. -/
abbrev Size := BitVec 2
/-- Alias class (R88). -/
abbrev ACls := BitVec 2


inductive Instr where
  /-- BUNDLE_ISSUE. R274: agent `a` issues the bundle at its pc. -/
  | bundleIssue (a : Agent)
  /-- IDLE_BUNDLE. R99: the all-zero bundle. -/
  | idleBundle (a : Agent)
  /-- NOP (R93). -/
  | nop
  /-- RESULT_PERFORMS. R19: everything of `w` that is due in this cycle performs. -/
  | resultPerforms (w : Party)
  /-- ADD (R112), format SA, OP 0x01. -/
  | add (pd : Pd) (d : SReg) (a : SReg) (b : SReg)
  /-- SUB (R112), format SA, OP 0x02. -/
  | sub (pd : Pd) (d : SReg) (a : SReg) (b : SReg)
  /-- MUL (R112), format SA, OP 0x03. -/
  | mul (pd : Pd) (d : SReg) (a : SReg) (b : SReg)
  /-- MULH (R112), format SA, OP 0x04. -/
  | mulh (pd : Pd) (d : SReg) (a : SReg) (b : SReg)
  /-- MULHU (R112), format SA, OP 0x05. -/
  | mulhu (pd : Pd) (d : SReg) (a : SReg) (b : SReg)
  /-- DIV (R113), format SA, OP 0x06. -/
  | div (pd : Pd) (d : SReg) (a : SReg) (b : SReg)
  /-- DIVU (R113), format SA, OP 0x07. -/
  | divu (pd : Pd) (d : SReg) (a : SReg) (b : SReg)
  /-- REM (R113), format SA, OP 0x08. -/
  | rem_ (pd : Pd) (d : SReg) (a : SReg) (b : SReg)
  /-- REMU (R113), format SA, OP 0x09. -/
  | remu (pd : Pd) (d : SReg) (a : SReg) (b : SReg)
  /-- AND (R112), format SA, OP 0x0A. -/
  | and_ (pd : Pd) (d : SReg) (a : SReg) (b : SReg)
  /-- OR (R112), format SA, OP 0x0B. -/
  | or_ (pd : Pd) (d : SReg) (a : SReg) (b : SReg)
  /-- XOR (R112), format SA, OP 0x0C. -/
  | xor_ (pd : Pd) (d : SReg) (a : SReg) (b : SReg)
  /-- ANDN (R112), format SA, OP 0x0D. -/
  | andn (pd : Pd) (d : SReg) (a : SReg) (b : SReg)
  /-- MIN (R112), format SA, OP 0x0E. -/
  | min_ (pd : Pd) (d : SReg) (a : SReg) (b : SReg)
  /-- MAX (R112), format SA, OP 0x0F. -/
  | max_ (pd : Pd) (d : SReg) (a : SReg) (b : SReg)
  /-- MINU (R112), format SA, OP 0x10. -/
  | minu (pd : Pd) (d : SReg) (a : SReg) (b : SReg)
  /-- MAXU (R112), format SA, OP 0x11. -/
  | maxu (pd : Pd) (d : SReg) (a : SReg) (b : SReg)
  /-- SHL (R112), format SA, OP 0x12. -/
  | shl (pd : Pd) (d : SReg) (a : SReg) (b : SReg)
  /-- SHR (R112), format SA, OP 0x13. -/
  | shr (pd : Pd) (d : SReg) (a : SReg) (b : SReg)
  /-- SAR (R112), format SA, OP 0x14. -/
  | sar (pd : Pd) (d : SReg) (a : SReg) (b : SReg)
  /-- ROL (R112), format SA, OP 0x15. -/
  | rol (pd : Pd) (d : SReg) (a : SReg) (b : SReg)
  /-- CLZ (R112), format SA, OP 0x16. -/
  | clz (pd : Pd) (d : SReg) (a : SReg)
  /-- CTZ (R112), format SA, OP 0x17. -/
  | ctz (pd : Pd) (d : SReg) (a : SReg)
  /-- POPC (R112), format SA, OP 0x18. -/
  | popc (pd : Pd) (d : SReg) (a : SReg)
  /-- SEL (R115), format SA, OP 0x19. -/
  | sel (pd : Pd) (d : SReg) (a : SReg) (b : SReg) (c : PReg)
  /-- CMP (R115), format SA, OP 0x1A. -/
  | cmp (pd : Pd) (cc : Cond) (d : SReg) (a : SReg) (b : SReg)
  /-- CMPP (R115), format SA, OP 0x1B. -/
  | cmpp (pd : Pd) (cc : Cond) (d : PReg) (a : SReg) (b : SReg)
  /-- ADDI (R116), format SI, OP 0x20. -/
  | addi (pd : Pd) (d : SReg) (a : SReg) (imm : BitVec 32)
  /-- ANDI (R116), format SI, OP 0x21. -/
  | andi (pd : Pd) (d : SReg) (a : SReg) (imm : BitVec 32)
  /-- ORI (R116), format SI, OP 0x22. -/
  | ori (pd : Pd) (d : SReg) (a : SReg) (imm : BitVec 32)
  /-- XORI (R116), format SI, OP 0x23. -/
  | xori (pd : Pd) (d : SReg) (a : SReg) (imm : BitVec 32)
  /-- SHLI (R116), format SI, OP 0x24. -/
  | shli (pd : Pd) (d : SReg) (a : SReg) (n : BitVec 6)
  /-- SHRI (R116), format SI, OP 0x25. -/
  | shri (pd : Pd) (d : SReg) (a : SReg) (n : BitVec 6)
  /-- SARI (R116), format SI, OP 0x26. -/
  | sari (pd : Pd) (d : SReg) (a : SReg) (n : BitVec 6)
  /-- MULI (R116), format SI, OP 0x27. -/
  | muli (pd : Pd) (d : SReg) (a : SReg) (imm : BitVec 32)
  /-- CMPI (R116), format SI, OP 0x28. -/
  | cmpi (pd : Pd) (cc : CondI) (d : SReg) (a : SReg) (imm : BitVec 32)
  /-- CMPPI (R116), format SI, OP 0x29. -/
  | cmppi (pd : Pd) (cc : CondI) (d : PReg) (a : SReg) (imm : BitVec 32)
  /-- LI (R116), format SI, OP 0x2A. -/
  | li (pd : Pd) (d : SReg) (imm : BitVec 32)
  /-- LUI (R116), format SI, OP 0x2B. -/
  | lui (pd : Pd) (d : SReg) (a : SReg) (imm : BitVec 32)
  /-- FMT (R117), format SI, OP 0x2C. -/
  | fmt (pd : Pd) (f : FReg) (a : SReg) (imm : BitVec 32)
  /-- BR (R118), format SB, OP 0x30. -/
  | br (pd : Pd) (disp : BitVec 32)
  /-- JR (R118), format SB, OP 0x31. -/
  | jr (pd : Pd) (a : SReg)
  /-- CALL (R118), format SB, OP 0x32. -/
  | call (pd : Pd) (d : SReg) (disp : BitVec 32)
  /-- CALLR (R118), format SB, OP 0x33. -/
  | callr (pd : Pd) (d : SReg) (a : SReg)
  /-- RET (R118), format SB, OP 0x34. -/
  | ret (pd : Pd) (a : SReg)
  /-- LOOP (R120), format SB, OP 0x35. -/
  | loop (pd : Pd) (lvl : Lvl) (disp : BitVec 32)
  /-- LDB (R122), format SL, OP 0x40. -/
  | ldb (pd : Pd) (d : SReg) (a : SReg) (off : BitVec 24) (sz : Size) (sx : Bool) (rv : Bool)
  /-- STB (R122), format SL, OP 0x41. -/
  | stb (pd : Pd) (d : SReg) (a : SReg) (off : BitVec 24) (sz : Size) (rv : Bool)
  /-- LDT (R122), format SL, OP 0x42. -/
  | ldt (pd : Pd) (d : SReg) (a : SReg) (off : BitVec 24) (sz : Size) (sx : Bool)
  /-- STT (R122), format SL, OP 0x43. -/
  | stt (pd : Pd) (d : SReg) (a : SReg) (off : BitVec 24) (sz : Size)
  /-- LDG (R123), format SL, OP 0x44. -/
  | ldg (pd : Pd) (d : SReg) (a : SReg) (off : BitVec 24) (sz : Size) (sx : Bool) (ac : ACls)
  /-- STG (R125), format SL, OP 0x45. -/
  | stg (pd : Pd) (d : SReg) (a : SReg) (off : BitVec 24) (sz : Size) (ac : ACls)
  /-- CADD (R127), format SM, OP 0x50. -/
  | cadd (pd : Pd) (a : SReg) (b : SReg)
  /-- CWAIT (R129), format SM, OP 0x51. -/
  | cwait (pd : Pd) (d : SReg) (a : SReg) (b : SReg) (dl : BitVec 16)
  /-- CWAIT_ARMED (R129), format SM, OP 0x51. -/
  | cwaitArmed (pd : Pd) (d : SReg) (a : SReg) (dl : BitVec 16)
  /-- CARM (R130), format SM, OP 0x52. -/
  | carm (pd : Pd) (a : SReg) (b : SReg)
  /-- CREAD (R131), format SM, OP 0x53. -/
  | cread (pd : Pd) (d : SReg) (a : SReg)
  /-- HGIVE (R132), format SM, OP 0x54. -/
  | hgive (pd : Pd) (a : SReg) (b : SReg)
  /-- HTAKE (R132), format SM, OP 0x55. -/
  | htake (pd : Pd) (a : SReg)
  /-- HQUERY (R132), format SM, OP 0x56. -/
  | hquery (pd : Pd) (d : SReg) (a : SReg)
  /-- PHASE (R133), format SM, OP 0x57. -/
  | phase (pd : Pd) (scope : Scope)
  /-- REALIGN (R29), format SM, OP 0x58. -/
  | realign (pd : Pd)
  /-- LOCQ (R135), format SM, OP 0x59. -/
  | locq (pd : Pd) (d : SReg) (a : SReg)
  /-- CSRR (R136), format SC, OP 0x60. -/
  | csrr (pd : Pd) (d : SReg) (csr : BitVec 12)
  /-- CSRW (R136), format SC, OP 0x61. -/
  | csrw (pd : Pd) (csr : BitVec 12) (a : SReg)
  /-- TRAP (R137), format SY, OP 0x70. -/
  | trap (pd : Pd) (code : BitVec 16) (a : SReg)
  /-- SYSC_RETIRE (R138), format SY, OP 0x71. -/
  | syscRetire (pd : Pd) (a : SReg)
  /-- SYSC_CALL (R138), format SY, OP 0x71. -/
  | syscCall (pd : Pd) (d : SReg) (code : BitVec 16) (a : SReg)
  /-- SPRD (R139), format SY, OP 0x78. -/
  | sprd (pd : Pd) (d : SReg) (code : BitVec 16)
  /-- SPWR (R139), format SY, OP 0x79. -/
  | spwr (pd : Pd) (code : BitVec 16) (a : SReg)
  /-- ERET (R273), format SY, OP 0x7A. -/
  | eret (pd : Pd)
  /-- HALT (R273), format SY, OP 0x7B. -/
  | halt (pd : Pd)
  /-- HALT_WAKE. R273: a halted management core continues. -/
  | haltWake (m : Nat)
  /-- VADD (R143), format VA, OP 0x01. -/
  | vadd (pd : Pd) (d : VRegN) (a : VRegN) (b : VRegN)
  /-- VSUB (R143), format VA, OP 0x02. -/
  | vsub (pd : Pd) (d : VRegN) (a : VRegN) (b : VRegN)
  /-- VMUL (R143), format VA, OP 0x03. -/
  | vmul (pd : Pd) (d : VRegN) (a : VRegN) (b : VRegN)
  /-- VFMA (R143), format VA, OP 0x04. -/
  | vfma (pd : Pd) (d : VRegN) (a : VRegN) (b : VRegN) (c : VRegN)
  /-- VFNMA (R143), format VA, OP 0x05. -/
  | vfnma (pd : Pd) (d : VRegN) (a : VRegN) (b : VRegN) (c : VRegN)
  /-- VMIN (R144), format VA, OP 0x06. -/
  | vmin (pd : Pd) (d : VRegN) (a : VRegN) (b : VRegN)
  /-- VMAX (R144), format VA, OP 0x07. -/
  | vmax (pd : Pd) (d : VRegN) (a : VRegN) (b : VRegN)
  /-- VABS (R144), format VA, OP 0x08. -/
  | vabs (pd : Pd) (d : VRegN) (a : VRegN)
  /-- VNEG (R144), format VA, OP 0x09. -/
  | vneg (pd : Pd) (d : VRegN) (a : VRegN)
  /-- VCMP (R145), format VA, OP 0x0A. -/
  | vcmp (pd : Pd) (cc : FCond) (d : PReg) (a : VRegN) (b : VRegN)
  /-- FCLASS (R146), format VA, OP 0x0B. -/
  | fclass (pd : Pd) (d : VRegN) (a : VRegN)
  /-- CVT (R147), format VA, OP 0x0C. -/
  | cvt (pd : Pd) (kind : CvtKind) (mode : RMode) (d : VRegN) (a : VRegN) (f : FReg)
  /-- VIADD (R148), format VA, OP 0x10. -/
  | viadd (pd : Pd) (d : VRegN) (a : VRegN) (b : VRegN)
  /-- VISUB (R148), format VA, OP 0x11. -/
  | visub (pd : Pd) (d : VRegN) (a : VRegN) (b : VRegN)
  /-- VIMUL (R148), format VA, OP 0x12. -/
  | vimul (pd : Pd) (d : VRegN) (a : VRegN) (b : VRegN)
  /-- VIMIN (R148), format VA, OP 0x13. -/
  | vimin (pd : Pd) (d : VRegN) (a : VRegN) (b : VRegN)
  /-- VIMAX (R148), format VA, OP 0x14. -/
  | vimax (pd : Pd) (d : VRegN) (a : VRegN) (b : VRegN)
  /-- VIMINU (R148), format VA, OP 0x15. -/
  | viminu (pd : Pd) (d : VRegN) (a : VRegN) (b : VRegN)
  /-- VIMAXU (R148), format VA, OP 0x16. -/
  | vimaxu (pd : Pd) (d : VRegN) (a : VRegN) (b : VRegN)
  /-- VAND (R148), format VA, OP 0x17. -/
  | vand (pd : Pd) (d : VRegN) (a : VRegN) (b : VRegN)
  /-- VOR (R148), format VA, OP 0x18. -/
  | vor (pd : Pd) (d : VRegN) (a : VRegN) (b : VRegN)
  /-- VXOR (R148), format VA, OP 0x19. -/
  | vxor (pd : Pd) (d : VRegN) (a : VRegN) (b : VRegN)
  /-- VSHL (R148), format VA, OP 0x1A. -/
  | vshl (pd : Pd) (d : VRegN) (a : VRegN) (b : VRegN)
  /-- VSHR (R148), format VA, OP 0x1B. -/
  | vshr (pd : Pd) (d : VRegN) (a : VRegN) (b : VRegN)
  /-- VSAR (R148), format VA, OP 0x1C. -/
  | vsar (pd : Pd) (d : VRegN) (a : VRegN) (b : VRegN)
  /-- VICMP (R149), format VA, OP 0x1D. -/
  | vicmp (pd : Pd) (cc : Cond) (d : PReg) (a : VRegN) (b : VRegN)
  /-- VSEL (R149), format VA, OP 0x1E. -/
  | vsel (pd : Pd) (d : VRegN) (a : VRegN) (b : VRegN) (ps : PReg)
  /-- VEXP2 (R153), format VF, OP 0x20. -/
  | vexp2 (pd : Pd) (d : VRegN) (a : VRegN)
  /-- VLOG2 (R153), format VF, OP 0x21. -/
  | vlog2 (pd : Pd) (d : VRegN) (a : VRegN)
  /-- VRCP (R153), format VF, OP 0x22. -/
  | vrcp (pd : Pd) (d : VRegN) (a : VRegN)
  /-- VRSQRT (R153), format VF, OP 0x23. -/
  | vrsqrt (pd : Pd) (d : VRegN) (a : VRegN)
  /-- VSQRT (R153), format VF, OP 0x24. -/
  | vsqrt (pd : Pd) (d : VRegN) (a : VRegN)
  /-- VSIN (R153), format VF, OP 0x25. -/
  | vsin (pd : Pd) (d : VRegN) (a : VRegN)
  /-- VCOS (R153), format VF, OP 0x26. -/
  | vcos (pd : Pd) (d : VRegN) (a : VRegN)
  /-- VTANH (R154), format VF, OP 0x27. -/
  | vtanh (pd : Pd) (d : VRegN) (a : VRegN)
  /-- VSIGM (R154), format VF, OP 0x28. -/
  | vsigm (pd : Pd) (d : VRegN) (a : VRegN)
  /-- VGELU (R154), format VF, OP 0x29. -/
  | vgelu (pd : Pd) (d : VRegN) (a : VRegN)
  /-- VERF (R154), format VF, OP 0x2A. -/
  | verf (pd : Pd) (d : VRegN) (a : VRegN)
  /-- ROTR (R156), format VI, OP 0x30. -/
  | rotr (pd : Pd) (d : VRegN) (a : VRegN) (s : SReg) (imm : BitVec 16)
  /-- ROTC (R156), format VI, OP 0x31. -/
  | rotc (pd : Pd) (d : VRegN) (a : VRegN) (s : SReg) (imm : BitVec 16)
  /-- BCR (R156), format VI, OP 0x32. -/
  | bcr (pd : Pd) (d : VRegN) (a : VRegN) (s : SReg) (imm : BitVec 16)
  /-- BCC (R156), format VI, OP 0x33. -/
  | bcc (pd : Pd) (d : VRegN) (a : VRegN) (s : SReg) (imm : BitVec 16)
  /-- REDR (R157), format VI, OP 0x34. -/
  | redr (pd : Pd) (op : RedOp) (d : VRegN) (a : VRegN)
  /-- REDC (R157), format VI, OP 0x35. -/
  | redc (pd : Pd) (op : RedOp) (d : VRegN) (a : VRegN)
  /-- VSPLAT (R158), format VI, OP 0x36. -/
  | vsplat (pd : Pd) (d : VRegN) (s : SReg) (imm : BitVec 16)
  /-- VSPLAT_Q (R158), format VI, OP 0x36. -/
  | vsplatQ (pd : Pd) (d : VRegN) (q : QReg)
  /-- VEXT (R158), format VI, OP 0x37. -/
  | vext (pd : Pd) (sx : Bool) (d : VRegN) (a : VRegN) (s : SReg) (imm : BitVec 16)
  /-- VEXT_Q (R158), format VI, OP 0x37. -/
  | vextQ (pd : Pd) (d : VRegN) (q : QReg)
  /-- VINS (R158), format VI, OP 0x38. -/
  | vins (pd : Pd) (d : VRegN) (a : VRegN) (s : SReg) (idx : BitVec 10)
  /-- PCNT (R159), format VI, OP 0x39. -/
  | pcnt (pd : Pd) (d : PReg) (a : PReg) (s : SReg) (imm : BitVec 16)
  /-- PPOP (R159), format VI, OP 0x3A. -/
  | ppop (pd : Pd) (d : VRegN) (a : PReg)
  /-- PAND (R160), format VA, OP 0x40. -/
  | pand (pd : Pd) (d : PReg) (a : PReg) (b : PReg)
  /-- POR (R160), format VA, OP 0x41. -/
  | por (pd : Pd) (d : PReg) (a : PReg) (b : PReg)
  /-- PXOR (R160), format VA, OP 0x42. -/
  | pxor (pd : Pd) (d : PReg) (a : PReg) (b : PReg)
  /-- PANDN (R160), format VA, OP 0x43. -/
  | pandn (pd : Pd) (d : PReg) (a : PReg) (b : PReg)
  /-- PNOT (R160), format VA, OP 0x44. -/
  | pnot (pd : Pd) (d : PReg) (a : PReg)
  /-- VLD (R161), format VM, OP 0x50. -/
  | vld (pd : Pd) (d : VRegN) (net : Bool) (row : SReg) (f : FReg) (s : SReg)
  /-- VST (R161), format VM, OP 0x51. -/
  | vst (pd : Pd) (d : VRegN) (row : SReg) (f : FReg) (s : SReg)
  /-- VLDT (R164), format VM, OP 0x52. -/
  | vldt (pd : Pd) (d : VRegN) (s : SReg) (col : Bool)
  /-- VSTT (R164), format VM, OP 0x53. -/
  | vstt (pd : Pd) (d : VRegN) (s : SReg) (col : Bool)
  /-- VLDG (R165), format VM, OP 0x54. -/
  | vldg (pd : Pd) (d : VRegN) (f : FReg) (ac : ACls) (s : SReg)
  /-- VLDG_FF (R166), format VM, OP 0x54. -/
  | vldgFf (pd : Pd) (d : VRegN) (cnt : SReg) (f : FReg) (ac : ACls) (s : SReg)
  /-- VSTG (R167), format VM, OP 0x55. -/
  | vstg (pd : Pd) (d : VRegN) (f : FReg) (ac : ACls) (s : SReg)
  /-- SOLVE (R168), format VQ, OP 0x60. -/
  | solve (pd : Pd) (q : Bool) (d : PReg) (a : VRegN) (cnt : SReg) (slot : BitVec 3)
  /-- SORT (R188), format VQ, OP 0x61. -/
  | sort (pd : Pd) (kt : KeyT) (asc : Bool) (d : VRegN) (a : VRegN) (cnt : SReg) (qd : Bool) (qn : Bool)
  /-- TOPK (R188), format VQ, OP 0x62. -/
  | topk (pd : Pd) (kt : KeyT) (asc : Bool) (d : VRegN) (a : VRegN) (cnt : SReg) (qd : Bool) (qn : Bool) (k : BitVec 10)
  /-- CNTOFF (R189), format VQ, OP 0x63. -/
  | cntoff (pd : Pd) (d : VRegN) (a : VRegN) (cnt : SReg) (qd : Bool) (qn : Bool) (k : BitVec 10)
  /-- PFX (R190), format VQ, OP 0x64. -/
  | pfx (pd : Pd) (kt : KeyT) (exc : Bool) (d : VRegN) (a : VRegN) (cnt : SReg) (qd : Bool) (qn : Bool)
  /-- COMP (R191), format VQ, OP 0x65. -/
  | comp (pd : Pd) (kt : KeyT) (d : VRegN) (a : VRegN) (cnt : SReg) (qd : Bool) (qn : Bool)
  /-- RADD (R178), format VX, OP 0x70. -/
  | radd (pd : Pd) (d : VRegN) (a : VRegN) (b : VRegN)
  /-- RMUL (R179), format VX, OP 0x71. -/
  | rmul (pd : Pd) (d : VRegN) (a : VRegN) (b : VRegN)
  /-- RNAR (R180), format VX, OP 0x72. -/
  | rnar (pd : Pd) (d : VRegN) (a : VRegN)
  /-- RSHR (R181), format VX, OP 0x73. -/
  | rshr (pd : Pd) (d : VRegN) (a : VRegN) (n : BitVec 5)
  /-- RLEAK (R182), format VX, OP 0x74. -/
  | rleak (pd : Pd) (d : VRegN) (a : VRegN) (n : BitVec 5) (f : FReg)
  /-- RMARK (R183), format VX, OP 0x75. -/
  | rmark (pd : Pd) (s : SReg)
  /-- UADD (R178), format VX, OP 0x78. -/
  | uadd (pd : Pd) (d : VRegN) (a : VRegN) (b : VRegN)
  /-- UMUL (R179), format VX, OP 0x79. -/
  | umul (pd : Pd) (d : VRegN) (a : VRegN) (b : VRegN)
  /-- UNAR (R180), format VX, OP 0x7A. -/
  | unar (pd : Pd) (d : VRegN) (a : VRegN)
  /-- USHR (R181), format VX, OP 0x7B. -/
  | ushr (pd : Pd) (d : VRegN) (a : VRegN) (n : BitVec 5)
  /-- ULEAK (R182), format VX, OP 0x7C. -/
  | uleak (pd : Pd) (d : VRegN) (a : VRegN) (n : BitVec 5) (f : FReg)
  /-- UCHECK (R183), format VX, OP 0x7D. -/
  | ucheck (pd : Pd) (s : SReg)
  /-- MLDW (R196), format MA, OP 0x01. -/
  | mldw (pd : Pd) (wb : WReg) (a : SReg) (f : FReg) (rows : BitVec 7)
  /-- MLDWT (R197), format MA, OP 0x02. -/
  | mldwt (pd : Pd) (wb : WReg) (a : SReg) (f : FReg) (rows : BitVec 7) (col : Bool)
  /-- MZERO (R203), format MA, OP 0x03. -/
  | mzero (pd : Pd) (acc : AReg)
  /-- MZERO_INT (R203), format MA, OP 0x03. -/
  | mzeroInt (pd : Pd) (acc : AReg) (f : FReg)
  /-- MACC (R199), format MA, OP 0x04. -/
  | macc (pd : Pd) (acc : AReg) (wb : WReg) (a : SReg) (f : FReg) (rows : BitVec 7) (xa : XReg) (xb : XReg) (sc : Bool) (sp : Bool)
  /-- MACCP (R200), format MA, OP 0x05. -/
  | maccp (pd : Pd) (acc : AReg) (wb : WReg) (a : SReg) (f : FReg) (rows : BitVec 7) (xa : XReg) (xb : XReg) (sc : Bool)
  /-- MSCALE (R203), format MA, OP 0x06. -/
  | mscale (pd : Pd) (acc : AReg) (a : SReg)
  /-- MSWAP (R203), format MA, OP 0x07. -/
  | mswap (pd : Pd)
  /-- MCOMP (R198), format MA, OP 0x08. -/
  | mcomp (pd : Pd) (wb : WReg) (a : SReg) (f : FReg)
  /-- MDRAIN (R204), format MD, OP 0x10. -/
  | mdrain (pd : Pd) (acc : AReg) (a : SReg) (f : FReg) (rows : BitVec 7) (res : Bool) (r : SReg) (drp : Bool) (ks : KReg) (ko : KReg)
  /-- MDRAIN_REV (R206), format MD, OP 0x10. -/
  | mdrainRev (pd : Pd) (acc : AReg) (a : SReg) (f : FReg) (rows : BitVec 7) (r : SReg)
  /-- MDRAIN_UNDO (R207), format MD, OP 0x10. -/
  | mdrainUndo (pd : Pd) (acc : AReg) (a : SReg) (f : FReg) (rows : BitVec 7) (r : SReg)
  /-- MSAVE (R208), format MD, OP 0x11. -/
  | msave (pd : Pd) (acc : AReg) (a : SReg) (rows : BitVec 7)
  /-- MRSTR (R208), format MD, OP 0x12. -/
  | mrstr (pd : Pd) (acc : AReg) (a : SReg) (rows : BitVec 7)
  /-- MCALL (R210), format MP, OP 0x20. -/
  | mcall (pd : Pd) (entry : BitVec 12) (k : KReg) (a : SReg)
  /-- MSET (R211), format MP, OP 0x21. -/
  | mset (pd : Pd) (k : KReg) (a : SReg)
  /-- MGEMV (R212), format MP, OP 0x22. -/
  | mgemv (pd : Pd) (k : KReg) (a : SReg) (b : SReg) (f : FReg)
  /-- MEND (R210), format MP, OP 0x23. -/
  | mend (pd : Pd)
  /-- MGEMV_BLOCK_LANDING. R212: the next block of product `id` lands. -/
  | mgemvBlockLanding (t r id : Nat)
  /-- XCPY (R221), format CT, OP 0x01. -/
  | xcpy (pd : Pd) (d : SReg) (a : SReg) (n : SReg) (pat : BitVec 9) (dly : BitVec 12)
  /-- XFILL (R222), format CT, OP 0x02. -/
  | xfill (pd : Pd) (d : SReg) (a : SReg) (n : SReg) (h : Bool) (ac : ACls) (dly : BitVec 12)
  /-- XSTORE (R222), format CT, OP 0x03. -/
  | xstore (pd : Pd) (d : SReg) (a : SReg) (n : SReg) (h : Bool) (ac : ACls) (dly : BitVec 12)
  /-- XTLD (R223), format CT, OP 0x04. -/
  | xtld (pd : Pd) (d : SReg) (a : SReg) (n : SReg) (f : FReg) (ac : ACls) (dly : BitVec 12)
  /-- XTST (R223), format CT, OP 0x05. -/
  | xtst (pd : Pd) (d : SReg) (a : SReg) (n : SReg) (f : FReg) (ac : ACls) (dly : BitVec 12)
  /-- XRSP (R234), format CT, OP 0x06. -/
  | xrsp (pd : Pd) (a : SReg) (n : SReg) (ac : ACls) (dly : BitVec 12)
  /-- XRFL (R234), format CT, OP 0x07. -/
  | xrfl (pd : Pd) (a : SReg) (n : SReg) (ac : ACls) (dly : BitVec 12)
  /-- XMIG (R235), format CT, OP 0x08. -/
  | xmig (pd : Pd) (a : SReg) (n : SReg) (kind : FReg) (dly : BitVec 12)
  /-- XSCL (R225), format CT, OP 0x09. -/
  | xscl (pd : Pd) (x : XReg) (a : SReg) (dly : BitVec 12)
  /-- XWIN (R226), format CW, OP 0x10. -/
  | xwin (pd : Pd) (d : SReg) (a : SReg) (map : SReg) (cm : Bool) (f : FReg) (ac : ACls) (dly : BitVec 12)
  /-- XROWS (R227), format CW, OP 0x11. -/
  | xrows (pd : Pd) (d : SReg) (a : SReg) (map : SReg) (ac : ACls) (dly : BitVec 12)
  /-- XROWS_SC (R227), format CW, OP 0x11. -/
  | xrowsSc (pd : Pd) (d : SReg) (a : SReg) (map : SReg) (ac : ACls) (dly : BitVec 12)
  /-- XMCAST (R229), format CF, OP 0x20. -/
  | xmcast (pd : Pd) (d : SReg) (a : SReg) (n : SReg) (ctr : SReg) (dly : BitVec 12)
  /-- XSEND (R230), format CF, OP 0x21. -/
  | xsend (pd : Pd) (d : SReg) (a : SReg) (n : SReg) (ctr : SReg) (ac : ACls) (dly : BitVec 12)
  /-- XSEND_MSG (R231), format CF, OP 0x21. -/
  | xsendMsg (pd : Pd) (a : SReg) (rcv : SReg) (ch : BitVec 2) (dly : BitVec 12)
  /-- XGET (R230), format CF, OP 0x22. -/
  | xget (pd : Pd) (d : SReg) (a : SReg) (n : SReg) (ctr : SReg) (ac : ACls) (dly : BitVec 12)
  /-- XRTS (R236), format CF, OP 0x23. -/
  | xrts (pd : Pd) (a : SReg) (n : SReg) (ctr : SReg) (dly : BitVec 12)
  /-- XBAT (R232), format CA, OP 0x30. -/
  | xbat (pd : Pd) (aop : AtomOp) (a : SReg) (n : SReg) (ctr : SReg) (ac : ACls) (dly : BitVec 12)
  /-- XENQ (R237), format CA, OP 0x31. -/
  | xenq (pd : Pd) (a : SReg) (q : SReg) (ctr : SReg) (ac : ACls) (dly : BitVec 12)
  /-- CDRIVE (R238), format CB, OP 0x40. -/
  | cdrive (pd : Pd) (a : SReg)
  /-- CCATCH (R238), format CB, OP 0x41. -/
  | ccatch (pd : Pd) (a : SReg) (pos : BitVec 3)
  /-- COPY_START. R214: command `id` begins in its start cycle. -/
  | copyStart (a : Agent) (id : Nat)
  /-- COPY_PIECE_ARRIVAL. R217: a piece read from G, H or N arrives, or its failure is known. -/
  | copyPieceArrival (a : Agent) (id : Nat) (piece : Nat) (res : PieceRes)
  /-- STORE_BUFFER_ACCEPT. R217: memory accepts an engine write. -/
  | storeBufferAccept (a : Agent) (id : Nat) (piece : Nat) (res : PieceRes)
  /-- COPY_DEFERRED_FAILURE. R218: the failure of a running command is taken. -/
  | copyDeferredFailure (a : Agent) (id : Nat)
  /-- ARRIVAL_RECEIVED. R228: granule `id` in flight is received. -/
  | arrivalReceived (id : Nat)
  /-- STOLEN_BANK_CYCLE. R228: a steal of one wall cycle under cause 0x6. -/
  | stolenBankCycle (t : Nat)
  /-- COUNTER_OPERATION. R241: counter operation `id` applies at its home engine. -/
  | counterOperation (id : Nat)
  /-- COUNTER_REFUSAL. R405: counter operation `id` is refused at its home engine. -/
  | counterRefusal (id : Nat)
  /-- COUNTER_REPORT. R129: the home engine's report reaches the waiting agent. -/
  | counterReport (a : Agent)
  /-- CWAIT_DEADLINE_EXPIRY. R129: the deadline of the agent's wait expires. -/
  | cwaitDeadlineExpiry (a : Agent)
  /-- ROUTE_SWAP. R236: trigger `id` fires. -/
  | routeSwap (id : Nat)
  /-- BATCHED_ATOMIC_EXECUTE. R233: the batched-atomic entry `id` executes at its engine. -/
  | batchedAtomicExecute (id : Nat)
  /-- MESSAGE_DELIVERY. R231: inbound message `id` is appended to its queue. -/
  | messageDelivery (id : Nat)
  /-- LOAD_DATA_ARRIVAL. R123: the data of fetch `id` arrives. -/
  | loadDataArrival (a : Agent) (id : Nat)
  /-- WALK_COMPLETE. R336: the walks of fetch `id` finish; `cached`: a TLB entry may serve (R339). -/
  | walkComplete (a : Agent) (id : Nat) (cached : Bool)
  /-- DEFERRED_FAULT. R124: a failed access reaches its due cycle. -/
  | deferredFault (a : Agent)
  /-- PHASE_COMPLETE. R247: the agent's phase completes. -/
  | phaseComplete (a : Agent)
  /-- STORE_PATH_DRAIN. R248: the store path drains its oldest entry. -/
  | storePathDrain (a : Agent)
  /-- HOLD_END. R22: every hold cause of the troupe has cleared. -/
  | holdEnd (t : Nat)
  /-- HOLD_LIMIT_FAULT. R26: the hold run reaches LIMIT + 1. -/
  | holdLimitFault (t : Nat)
  /-- SAFE_POINT_DISTANCE_FAULT. R37: the safe-point distance reaches D + 1. -/
  | safePointDistanceFault (t : Nat)
  /-- FRAME_TICK. R27: the package-wide frame tick. -/
  | frameTick
  /-- REALIGN_RELABEL. R29: the VCC is relabelled at the tick. -/
  | realignRelabel (t : Nat)
  /-- PREEMPTION_TAKEN. R38: pre-emption at a troupe safe point. -/
  | preemptionTaken (t : Nat)
  /-- SAVE_PHASE_END. R284: every save routine has ended. -/
  | savePhaseEnd (t : Nat)
  /-- RESTORE_PHASE_END. R285: every restore routine has ended. -/
  | restorePhaseEnd (t : Nat)
  /-- ROUTINE_END. R283: one core's routine reaches the stream end. -/
  | routineEnd (t r : Nat)
  /-- TASK_RETIRE. R39: the task retires normally. -/
  | taskRetire (t : Nat)
  /-- FAULT_RECORD_WRITE. R280: the oldest waiting record of the partition is written, or finds the queue full. -/
  | faultRecordWrite (part : Nat)
  /-- INTERRUPT_TAKEN. R272: a pending enabled interrupt enters its handler. -/
  | interruptTaken (m : Nat)
  /-- RESUME. R271, R276: TRP_CTL command 0x01. -/
  | resume (t : Nat)
  /-- RETIRE. R271, R281: TRP_CTL command 0x02. -/
  | retire (t : Nat) (status : BitVec 16)
  /-- REQUEST_PREEMPTION. R282: request with cause 0x40 + `cause`. -/
  | requestPreemption (t : Nat) (cause : Fin 5)
  /-- WITHDRAW_REQUEST. R271: TRP_CTL command 0x04 from supervisor or hypervisor level. -/
  | withdrawRequest (t : Nat) (hyp : Bool)
  /-- HV_PART_WRITE. R264: a write of HV_PART performs. -/
  | hvPartWrite (m : Nat) (v : BitVec 64)
  /-- SYSTEM_REGISTER_WRITE. R265: a write of a system register performs. -/
  | systemRegisterWrite (m : Nat) (code : BitVec 16) (v : BitVec 64) (lvl : BitVec 2)
  /-- KEEPER_CHARGE. R295: the keeper applies `c` units of 2^-48 J to a VF. -/
  | keeperCharge (vf : Nat) (c : Nat)
  /-- SETTLEMENT. R298: the shared pool of the interval is divided. -/
  | settlement
  /-- EN_QUOTA_WRITE. R301: a write of EN_QUOTA performs. -/
  | enQuotaWrite (v : BitVec 64)
  /-- EN_CTL_WRITE. R301: a write of EN_CTL performs. -/
  | enCtlWrite (v : BitVec 64)
  /-- DISTRIBUTOR_ROUND. R320: one round of the launch distributor. -/
  | distributorRound
  /-- TROUPE_START. R323: the VCC starts on a frame tick. -/
  | troupeStart (t : Nat)
  /-- LAUNCH_WAIT_EXPIRED. R323: the wait of a queue's head expires. -/
  | launchWaitExpired (vf q : Nat)
  /-- QUEUE_DOORBELL. R311: a host write of a queue doorbell. -/
  | queueDoorbell (vf q : Nat) (t : BitVec 32)
  /-- CT_ALLOCATE. R315: CT_CTL OP 0b01. -/
  | ctAllocate (m : Nat) (v : BitVec 64)
  /-- CT_FREE. R315: CT_CTL OP 0b10. -/
  | ctFree (m : Nat) (v : BitVec 64)
  /-- TOPOLOGY_COMMAND. R364: the oldest topology command begins. -/
  | topologyCommand
  /-- TOPOLOGY_GO. R364: GO is reached; what training and the peers answer. -/
  | topologyGo (held : List (List Bool)) (ends : List FarEnd)
  /-- TOPOLOGY_GO_EXPIRED. R364: GDL passes. -/
  | topologyGoExpired
  /-- CREATE. R326: PT_CMD CREATE. -/
  | create (addr : BitVec 52)
  /-- RESIZE. R326: PT_CMD RESIZE. -/
  | resize (addr : BitVec 52)
  /-- REMOVE. R326: PT_CMD REMOVE. -/
  | remove (addr : BitVec 52)
  /-- DESTROY. R326: PT_CMD DESTROY. -/
  | destroy (addr : BitVec 52) (force : Bool)
  /-- MODE. R326: PT_CMD MODE. -/
  | mode_ (addr : BitVec 52) (force : Bool)
  /-- PARTITION_CHANGE_APPLIED. R327: the pending change is applied. -/
  | partitionChangeApplied
  /-- PT_RES_READ. R326: a read of PT_RES into s[d]. -/
  | ptResRead (m : Nat) (d : BitVec 6)
  /-- INVALIDATE_RANGE. R340: TR_INV OP 0b01. -/
  | invalidateRange (m : Nat) (asid : BitVec 14) (npg : BitVec 32) (lvl : BitVec 2)
  /-- INVALIDATE_ASID. R340: TR_INV OP 0b10. -/
  | invalidateAsid (m : Nat) (asid : BitVec 14) (lvl : BitVec 2)
  /-- INVALIDATE_PARTITION. R340: TR_INV OP 0b11. -/
  | invalidatePartition (m : Nat)
  /-- INVALIDATION_COMPLETE. R340: BSY clears. -/
  | invalidationComplete (part : Nat)
  /-- MIGRATION_CLAIM. R346 step 1: the engine takes the next command of a partition's ring. -/
  | migrationClaim (part : Nat)
  /-- MIGRATION_COPY. R346 step 3. -/
  | migrationCopy (id : Nat)
  /-- MIGRATION_SWITCH. R346 step 4. -/
  | migrationSwitch (id : Nat)
  /-- MIGRATION_END. R345, R346 step 5: STATUS and DONE are written and the counter receives 1. -/
  | migrationEnd (id : Nat)
  /-- MIGRATION_HINT. R344: the oldest xmig hint is appended or dropped. -/
  | migrationHint
  /-- MIGRATION_TAKEOVER. R342: far-tier die 0's engine takes the odd partitions. -/
  | migrationTakeover
  /-- WRITE_MESSAGE. R349: a write message reaches this package through a port, or a die of it. -/
  | writeMessage (m : Msg) (via : Option Nat)
  /-- READ_REQUEST. R349: a read request is served here. -/
  | readRequest (m : Msg) (via : Option Nat)
  /-- READ_RESPONSE. R349: a read response delivers its data. -/
  | readResponse (m : Msg) (via : Option Nat)
  /-- FENCE_MARKER. R355: a fence marker is acknowledged. -/
  | fenceMarker (m : Msg) (via : Option Nat)
  /-- MARKER_ACKNOWLEDGEMENT. R355: a marker acknowledgement reaches its phase. -/
  | markerAcknowledgement (m : Msg) (via : Option Nat)
  /-- ACKNOWLEDGEMENT. R351: an acknowledgement frees the replay buffer. -/
  | acknowledgement (m : Msg) (via : Option Nat)
  /-- REFUSAL. R349: a refusal reaches its source. -/
  | refusal (m : Msg) (via : Option Nat)
  /-- PLANE_DOWN. R359: a plane-down message arrives. -/
  | planeDown (m : Msg) (via : Option Nat)
  /-- RESEND_TIMEOUT. R352: RT passes for unacknowledged message `id`. -/
  | resendTimeout (id : Nat)
  /-- ACK_TIMEOUT. R356: TMO passes for unacknowledged message `id`. -/
  | ackTimeout (id : Nat)
  /-- LINK_DOWN. R356: a UCIe link goes down and fails to retrain. -/
  | linkDown (edge : Nat) (plane : BitVec 2)
  /-- QUIESCE_DRAIN_DONE. R357 steps 3 to 5. -/
  | quiesceDrainDone
  /-- QUIESCE_TIMEOUT. R357 step 2: the drain exceeds QTMO. -/
  | quiesceTimeout
  /-- KILL. R354: FB_CMD KILL. -/
  | kill (plane : BitVec 2)
  /-- REVIVE. R354: FB_CMD REVIVE. -/
  | revive (plane : BitVec 2)
  /-- LASER_ON. R362: OP_CMD 0x1. -/
  | laserOn (port : BitVec 4)
  /-- LOCK. R362: OP_CMD 0x2. -/
  | lock_ (port : BitVec 4) (wl : BitVec 4)
  /-- TRAIN. R362: OP_CMD 0x3. -/
  | train (port : BitVec 4) (wl : BitVec 4)
  /-- MAP. R362: OP_CMD 0x4. -/
  | map_ (port : BitVec 4)
  /-- ENABLE. R362: OP_CMD 0x5. -/
  | enable (port : BitVec 4)
  /-- DRAIN. R362: OP_CMD 0x6. -/
  | drain (port : BitVec 4)
  /-- DISABLE. R362: OP_CMD 0x7. -/
  | disable (port : BitVec 4)
  /-- LASER_OFF. R362: OP_CMD 0x8. -/
  | laserOff (port : BitVec 4)
  /-- OPTICAL_COMMAND_END. R362: the running command ends; what the optics answer. -/
  | opticalCommandEnd (port : BitVec 4) (locked : Bool) (eyew eyeh : BitVec 16) (peer : BitVec 16)
  /-- LOSS_OF_SIGNAL. R362: a wavelength loses its signal. -/
  | lossOfSignal (port : BitVec 4) (wl : BitVec 4)
  /-- RT_DATA_WRITE. R366: a write of RT_DATA performs. -/
  | rtDataWrite (m : Nat) (v : BitVec 64)
  /-- COUNTER_MOVE. R372: SE_RHM OP 1. -/
  | counterMove (src dst : BitVec 4)
  /-- COUNTER_MOVE_COMPLETE. R373: the move ends. -/
  | counterMoveComplete
  /-- CXL_POISON. R371: a CXL read of fetch `id` returns poison. -/
  | cxlPoison (a : Agent) (id : Nat)
  /-- CXL_LINK_DOWN. R371: a CXL port's link goes down. -/
  | cxlLinkDown (port : BitVec 3)
  /-- MEMORY_ERROR. R278, R384: an uncorrectable soft error of kind 0x1 to 0x5 is found on a read; or an error that raises
  no cause is counted: a corrected one, or one of kind 0x6 or 0x7 (log 63). -/
  | memoryError (a : Agent) (e : SoftError) (word : BitVec 3)
  /-- TRACE_SAMPLE. R381: a sample record for each core. -/
  | traceSample (t : Nat)
  /-- DB_PROF_WRITE. R387: a write of DB_PROF performs. -/
  | dbProfWrite (m : Nat) (v : BitVec 64)
  /-- DB_GRANT_WRITE. R387: a write of DB_GRANT performs. -/
  | dbGrantWrite (m : Nat) (v : BitVec 64)
  /-- OP_DIG_WRITE. R385: a write of OP_DIG performs. -/
  | opDigWrite (port : BitVec 4) (v : BitVec 64)
  /-- POWER_ON_RESET. R388. -/
  | powerOnReset
  /-- PACKAGE_RESET. R388. -/
  | packageReset
  /-- HOST_PORT_RESET. R388: a reset at the port of far-tier die 1. -/
  | hostPortReset
  /-- MAILBOX_DOORBELL. R393: the host writes the mailbox's RW fields, and then the doorbell where `ring` says so. -/
  | mailboxDoorbell (cmd : BitVec 64) (args : Vector (BitVec 64) 8) (ring : Bool)
  /-- LOAD. R394: mailbox command 0x01. -/
  | load
  /-- BOOT. R389, R394: mailbox command 0x02. -/
  | boot
  /-- COMMIT. R394: mailbox command 0x03. -/
  | commit
  /-- SETF. R396: mailbox command 0x10. -/
  | setf
  /-- SETV. R396: mailbox command 0x11. -/
  | setv
  /-- POWER_STATE_REACHED. R396: every die is in the new state. -/
  | powerStateReached
  /-- GATE. R398: mailbox command 0x12. -/
  | gate
  /-- UNGATE. R398: mailbox command 0x13. -/
  | ungate
  /-- RESETD. R399: mailbox command 0x14. -/
  | resetd
  /-- ATTEST. R392: mailbox command 0x20. -/
  | attest
  /-- FWD. R394: mailbox command 0x30. -/
  | fwd
  /-- MB_RESP_WRITE. R394: a write of MB_RESP performs. -/
  | mbRespWrite (v : BitVec 64)
  /-- BT_CTL_RELEASE. R389: a write of BT_CTL performs. -/
  | btCtlRelease (v : BitVec 64)
  /-- CLAMP. R401: the emergency clamp. -/
  | clamp
  /-- THERMAL_TRIP. R401: the thermal trip. -/
  | thermalTrip
  /-- MONITOR_SAMPLE. R402: a die's monitors are sampled. -/
  | monitorSample (die : Fin 10) (smp : MonSample)
  /-- DROOP_VMIN_WRITE. R402: a write of VMIN. -/
  | droopVminWrite (die : Fin 10) (j : Fin 8)
  /-- CXL_LINK_UP. R371: a CXL port's link returns. -/
  | cxlLinkUp (port : BitVec 3)
  /-- UCIE_LINK_RETRAINED. R348: a UCIe link trains again. -/
  | ucieLinkRetrained (edge : Nat) (plane : BitVec 2) (old : Bool)
  /-- HOST_PORT_LINK_CHANGE. R369: a host port's link changes. -/
  | hostPortLinkChange (port : Fin 2) (gen : BitVec 4) (wid : BitVec 4)
  /-- HOST_MEMORY_ACCESS. R347, R369: an inbound access of the host or a CXL peer. -/
  | hostMemoryAccess (acc : HostAccess)
  /-- UNGATE_COMPLETE. R398: the unit being ungated is powered. -/
  | ungateComplete
  /-- DIE_RESET_COMPLETE. R399: the die under RESETD is back. -/
  | dieResetComplete
  deriving DecidableEq, Repr

end Sys2Proof
end

