-- ==== Sys2Proof/Config.lean ====
section
/-!
DEFINITION. What an implementation of the architecture fixes, and the free values: constants without a body, so
that nothing can be proved about the values the spec leaves open. Each names its entry in the assumption log.
-/

namespace Sys2Proof.Config

/-! ## Skadelyn figures (R1) -/

/-- Wall cycles between frame ticks (R27). -/
def tick : Nat := 4096

/-- Wall cycles of a settlement interval (R297). -/
def settle : Nat := 2 ^ 20

/-! ## Free values -/

/-- Which of two allowed values a 64-byte granule takes: in the alias race of R253 (log 9) and in an observation
outside a publication's scope (R250, log 8). The argument is the model's counter of free values. -/
opaque pick : Nat → Bool

/-- Whether an entry of a translation cache serves a lookup, or the entry in memory does (R338, R339, log 42): by the
counter of free values and the position of the cached entry among those that could serve. -/
opaque stale : Nat → Nat → Bool

/-- What a read of a physical address that is no memory returns (R331, R403, log 54): by the counter of free values and
the address. -/
opaque noMemory : Nat → Nat → Byte

/-- Base cost B of a class of R292 on a die, as fused at test (R293, log 12). -/
opaque costB : Nat → Nat → BitVec 32

/-- Correction K of a die in an operating state for a group (R293, log 12). -/
opaque costK : Nat → Nat → Nat → BitVec 16

/-- A firmware key slot is fused and not revoked (R390, log 13). -/
opaque slotLive : Nat → Bool

/-- The key hash fused in a slot (R390, log 13). -/
opaque slotHash : Nat → List Byte

/-- Byte i of the identity certificate with its padding (R391, log 13). -/
opaque certByte : Nat → Byte

/-- Byte i of the fused device secret, 48 bytes (R391, log 13). -/
opaque secretByte : Nat → Byte

/-- Bytes that HKDF gives for a key (R391, log 61). -/
opaque hkdfLen : Nat

/-- The nonce of a signature, by the counter of free values (R391, R392, log 61). -/
opaque sigNonce : Nat → Nat

/-- The physical address of the hypervisor's host-command buffer (R394, log 62). -/
opaque hostCmd : Nat

/-- The package id of this package, which no rule states (R86, R230, log 13). -/
opaque pkgId : BitVec 16

/-- The hypervisor assigned a VF to the second host root (R369, log 59). -/
opaque secondRoot : Nat → Bool

/-- The ASID that the hypervisor assigned to a CXL peer (R369, log 59). -/
opaque peerAsid : BitVec 14

/-- Bytes installed behind a CXL port, up to 2^40 (R331, log 13). -/
opaque farBytes : Nat → Nat

end Sys2Proof.Config
end

