-- ==== Sys2Proof/Machine/Crypto.lean ====
section
/-!
DEFINITION. The cryptography that R390 to R392 name: SHA-384 (FIPS 180-4), HMAC and HKDF on it (RFC 2104, RFC 5869), and ECDSA
on brainpoolP384r1 (RFC 5639, SEC 1). Octet strings are lists of bytes in the order of their standards, numbers big-endian.
-/

namespace Sys2Proof.Machine

/-- The number that big-endian bytes spell. -/
def beNat (b : List Byte) : Nat := b.foldl (fun n x => n * 256 + x.toNat) 0

/-- The n big-endian bytes of a number. -/
def beBytes (n v : Nat) : List Byte := tab n fun i => BitVec.ofNat 8 (v / 256 ^ (n - 1 - i))

/-! ## SHA-384 -/

/-- The eight words of a hash in progress. -/
structure Sha where
  a : Word
  b : Word
  c : Word
  d : Word
  e : Word
  f : Word
  g : Word
  h : Word
  deriving DecidableEq, Repr

/-- The initial value of SHA-384. -/
def Sha.init : Sha :=
  ⟨0xCBBB9D5DC1059ED8, 0x629A292A367CD507, 0x9159015A3070DD17, 0x152FECD8F70E5939,
   0x67332667FFC00B31, 0x8EB44A8768581511, 0xDB0C2E0D64F98FA7, 0x47B5481DBEFA4FA4⟩

/-- The round constants of SHA-512. -/
def shaK : List Word :=
  [0x428A2F98D728AE22, 0x7137449123EF65CD, 0xB5C0FBCFEC4D3B2F, 0xE9B5DBA58189DBBC, 0x3956C25BF348B538,
   0x59F111F1B605D019, 0x923F82A4AF194F9B, 0xAB1C5ED5DA6D8118, 0xD807AA98A3030242, 0x12835B0145706FBE,
   0x243185BE4EE4B28C, 0x550C7DC3D5FFB4E2, 0x72BE5D74F27B896F, 0x80DEB1FE3B1696B1, 0x9BDC06A725C71235,
   0xC19BF174CF692694, 0xE49B69C19EF14AD2, 0xEFBE4786384F25E3, 0x0FC19DC68B8CD5B5, 0x240CA1CC77AC9C65] ++
  [0x2DE92C6F592B0275, 0x4A7484AA6EA6E483, 0x5CB0A9DCBD41FBD4, 0x76F988DA831153B5, 0x983E5152EE66DFAB,
   0xA831C66D2DB43210, 0xB00327C898FB213F, 0xBF597FC7BEEF0EE4, 0xC6E00BF33DA88FC2, 0xD5A79147930AA725,
   0x06CA6351E003826F, 0x142929670A0E6E70, 0x27B70A8546D22FFC, 0x2E1B21385C26C926, 0x4D2C6DFC5AC42AED,
   0x53380D139D95B3DF, 0x650A73548BAF63DE, 0x766A0ABB3C77B2A8, 0x81C2C92E47EDAEE6, 0x92722C851482353B] ++
  [0xA2BFE8A14CF10364, 0xA81A664BBC423001, 0xC24B8B70D0F89791, 0xC76C51A30654BE30, 0xD192E819D6EF5218,
   0xD69906245565A910, 0xF40E35855771202A, 0x106AA07032BBD1B8, 0x19A4C116B8D2D0C8, 0x1E376C085141AB53,
   0x2748774CDF8EEB99, 0x34B0BCB5E19B48A8, 0x391C0CB3C5C95A63, 0x4ED8AA4AE3418ACB, 0x5B9CCA4F7763E373,
   0x682E6FF3D6B2B8A3, 0x748F82EE5DEFB2FC, 0x78A5636F43172F60, 0x84C87814A1F0AB72, 0x8CC702081A6439EC] ++
  [0x90BEFFFA23631E28, 0xA4506CEBDE82BDE9, 0xBEF9A3F7B2C67915, 0xC67178F2E372532B, 0xCA273ECEEA26619C,
   0xD186B8C721C0C207, 0xEADA7DD6CDE0EB1E, 0xF57D4F7FEE6ED178, 0x06F067AA72176FBA, 0x0A637DC5A2C898A6,
   0x113F9804BEF90DAE, 0x1B710B35131C471B, 0x28DB77F523047D84, 0x32CAAB7B40C72493, 0x3C9EBE0A15C9BEBC,
   0x431D67C49C100D4C, 0x4CC5D4BECB3E42B6, 0x597F299CFC657E2A, 0x5FCB6FAB3AD6FAEC, 0x6C44198C4A475817]

def rotr (x : Word) (n : Nat) : Word := x >>> n ||| x <<< (64 - n)

/-- One round with the round constant k and the schedule word w. -/
def Sha.round (s : Sha) (k w : Word) : Sha :=
  let t1 := s.h + (rotr s.e 14 ^^^ rotr s.e 18 ^^^ rotr s.e 41) + (s.e &&& s.f ^^^ ~~~s.e &&& s.g) + k + w
  let t2 := (rotr s.a 28 ^^^ rotr s.a 34 ^^^ rotr s.a 39) + (s.a &&& s.b ^^^ s.a &&& s.c ^^^ s.b &&& s.c)
  ⟨t1 + t2, s.a, s.b, s.c, s.d + t1, s.e, s.f, s.g⟩

/-- The next word of the message schedule: `win` holds the sixteen words before it, oldest first. -/
def shaNext (win : List Word) : Word :=
  let w (i : Nat) : Word := win.getD i 0
  (rotr (w 14) 19 ^^^ rotr (w 14) 61 ^^^ w 14 >>> 6) + w 9 + (rotr (w 1) 1 ^^^ rotr (w 1) 8 ^^^ w 1 >>> 7) + w 0

/-- The rounds of one block, with the schedule's next sixteen words. -/
def Sha.rounds (s : Sha) : List Word → List Word → Sha
  | [], _ => s
  | k :: ks, win => (s.round k (win.headD 0)).rounds ks (win.drop 1 ++ [shaNext win])

/-- One block of 128 bytes. -/
def Sha.block (s : Sha) (b : List Byte) : Sha :=
  let r := s.rounds shaK (tab 16 fun i => BitVec.ofNat 64 (beNat ((b.drop (8 * i)).take 8)))
  ⟨s.a + r.a, s.b + r.b, s.c + r.c, s.d + r.d, s.e + r.e, s.f + r.f, s.g + r.g, s.h + r.h⟩

/-- The next n blocks. -/
def Sha.blocks (s : Sha) : Nat → List Byte → Sha
  | 0, _ => s
  | n + 1, b => (s.block (b.take 128)).blocks n (b.drop 128)

/-- A message with its padding: a one bit, zeros, and the length in bits in sixteen bytes. -/
def shaPad (b : List Byte) : List Byte :=
  b ++ [0x80] ++ tab ((239 - b.length % 128) % 128) (fun _ => 0) ++ beBytes 16 (8 * b.length)

/-- SHA-384. -/
def sha384 (b : List Byte) : List Byte :=
  let p := shaPad b
  let s := Sha.init.blocks (p.length / 128) p
  [s.a, s.b, s.c, s.d, s.e, s.f].flatMap fun w => beBytes 8 w.toNat

theorem length_sha384 (b : List Byte) : (sha384 b).length = 48 := by simp [sha384, beBytes]

/-! ## HMAC and HKDF -/

/-- HMAC-SHA-384. -/
def hmac (key msg : List Byte) : List Byte :=
  let k0 := if 128 < key.length then sha384 key else key
  let k := k0 ++ tab (128 - k0.length) fun _ => 0
  sha384 (k.map (· ^^^ 0x5C) ++ sha384 (k.map (· ^^^ 0x36) ++ msg))

/-- The blocks T(i), T(i + 1), … of HKDF-Expand after the block `t`: n of them. -/
def hkdfBlocks (prk info : List Byte) : Nat → Nat → List Byte → List Byte
  | 0, _, _ => []
  | n + 1, i, t =>
    let t' := hmac prk (t ++ info ++ [BitVec.ofNat 8 i])
    t' ++ hkdfBlocks prk info n (i + 1) t'

/-- HKDF-SHA-384 without a salt; the length of its output is free (log 61). -/
def hkdf (secret info : List Byte) : List Byte :=
  (hkdfBlocks (hmac (tab 48 fun _ => 0) secret) info ((Config.hkdfLen + 47) / 48) 1 []).take Config.hkdfLen

/-! ## brainpoolP384r1 -/

def bpP : Nat := 0x8CB91E82A3386D280F5D6F7E50E641DF152F7109ED5456B412B1DA197FB71123ACD3A729901D1A71874700133107EC53
def bpA : Nat := 0x7BC382C63D8C150C3C72080ACE05AFA0C2BEA28E4FB22787139165EFBA91F90F8AA5814A503AD4EB04A8C7DD22CE2826
def bpB : Nat := 0x04A8C7DD22CE28268B39B55416F0447C2FB77DE107DCD2A62E880EA53EEB62D57CB4390295DBC9943AB78696FA504C11
def bpN : Nat := 0x8CB91E82A3386D280F5D6F7E50E641DF152F7109ED5456B31F166E6CAC0425A7CF3AB6AF6B7FC3103B883202E9046565

/-- A point of the curve; none: the point at infinity. -/
abbrev Point : Type := Option (Nat × Nat)

/-- The base point. -/
def bpG : Point :=
  some (0x1D1C64F068CF45FFA2A63A81B7C13F6B8847A3E77EF14FE3DB7FCAFE0CBD10E8E826E03436D646AAEF87B2E247D4AF1E,
        0x8ABE1D7520F9C2A45CB1EB8E95CFD55262B70B29FEEC5864E19C054FF99129280E4646217791811142820341263C5315)

/-- b ^ e modulo m over the low n bits of e. -/
def powMod (m : Nat) : Nat → Nat → Nat → Nat
  | 0, _, _ => 1
  | n + 1, b, e => (if e % 2 = 1 then b else 1) * powMod m n (b * b % m) (e / 2) % m

/-- The inverse modulo a prime of 384 bits (Fermat). -/
def invMod (m x : Nat) : Nat := powMod m 384 (x % m) (m - 2)

/-- The equation of the curve. -/
def onCurve (x y : Nat) : Bool := x < bpP && y < bpP && y * y % bpP == (x * x * x + bpA * x + bpB) % bpP

/-- The sum of two points. -/
def Point.add : Point → Point → Point
  | none, q => q
  | p, none => p
  | some (x1, y1), some (x2, y2) =>
    if x1 = x2 && (y1 + y2) % bpP = 0 then none
    else
      let l := (if x1 = x2 then (3 * x1 * x1 + bpA) * invMod bpP (2 * y1)
        else (y2 + bpP - y1) * invMod bpP (x2 + bpP - x1)) % bpP
      let x3 := (l * l + 2 * bpP - x1 - x2) % bpP
      some (x3, (l * (x1 + bpP - x3) + bpP - y1) % bpP)

/-- The multiple of a point by the low n bits of k. -/
def Point.mul (p : Point) : Nat → Nat → Point
  | 0, _ => none
  | n + 1, k =>
    let q := Point.mul (p.add p) n (k / 2)
    if k % 2 = 1 then p.add q else q

/-- The uncompressed point 0x04 ‖ X ‖ Y. -/
def Point.bytes : Point → List Byte
  | none => [0]
  | some (x, y) => 0x04 :: (beBytes 48 x ++ beBytes 48 y)

/-- A public key of 97 bytes: a point of the curve. -/
def Point.ofBytes (b : List Byte) : Option (Nat × Nat) :=
  let x := beNat ((b.drop 1).take 48)
  let y := beNat ((b.drop 49).take 48)
  if b.length = 97 && b.headD 0 == 0x04 && onCurve x y then some (x, y) else none

/-- The public key of a private scalar. -/
def publicKey (d : Nat) : List Byte := (Point.mul bpG 384 d).bytes

/-! ## ECDSA -/

/-- The x coordinate of a point modulo the order; 0 at infinity. -/
def Point.xN : Point → Nat
  | none => 0
  | some (x, _) => x % bpN

/-- A signature r ‖ s of 96 bytes over a hash verifies under a public key. -/
def ecdsaVerify (pub sig hash : List Byte) : Bool :=
  let r := beNat (sig.take 48)
  let s := beNat ((sig.drop 48).take 48)
  match Point.ofBytes pub with
  | none => false
  | some q =>
    let w := invMod bpN s
    sig.length == 96 && 0 < r && r < bpN && 0 < s && s < bpN &&
      ((Point.mul bpG 384 (beNat hash * w % bpN)).add (Point.mul (some q) 384 (r * w % bpN))).xN == r

/-- The parts of the signature of a hash by the scalar d with the nonce k. -/
def ecdsaParts (d k : Nat) (hash : List Byte) : Nat × Nat :=
  let r := (Point.mul bpG 384 k).xN
  (r, invMod bpN k * (beNat hash + r * d) % bpN)

/-- The signature of a hash by the scalar d: the nonce is the first of the free values from the count `free` on that leaves
neither part zero (log 61). -/
def ecdsaSign (d : Nat) (hash : List Byte) (free : Nat) : List Byte :=
  let try_ (i : Nat) : Nat × Nat := ecdsaParts d (1 + Config.sigNonce (free + i) % (bpN - 1)) hash
  let rs := ((tab 8 try_).find? fun q => q.1 != 0 && q.2 != 0).getD (0, 0)
  beBytes 48 rs.1 ++ beBytes 48 rs.2

/-! ## The keys of R391 -/

/-- The bytes of a text. -/
def ascii (l : List Char) : List Byte := l.map fun c => BitVec.ofNat 8 c.toNat

/-- The scalar that a secret gives for an info string (R391). -/
def keyScalar (secret info : List Byte) : Nat := 1 + beNat (hkdf secret info) % (bpN - 1)

def infoId : List Byte := ascii ['E', 'F', 'Z', '-', 'I', 'D']
def infoAk (m : List Byte) : List Byte := ascii ['E', 'F', 'Z', '-', 'A', 'K'] ++ m

end Sys2Proof.Machine
end

