-- ==== Sys2Proof/WellFormed.lean ====
section
/-!
DEFINITION. Which slot a row of the table is a word of, and the limits that R97 and the instructions' own
descriptions set on the operands of a word.
-/

namespace Sys2Proof

/-- The slots of a bundle (R89), `any` for `nop`, `event` for the rows that are no slot words. -/
inductive Slot where
  | S | V | M | C | any | event
  deriving DecidableEq, Repr

/-- The slot of a row (R100 to R103). -/
def Instr.slot : Instr → Slot
  | .add .. => .S
  | .sub .. => .S
  | .mul .. => .S
  | .mulh .. => .S
  | .mulhu .. => .S
  | .div .. => .S
  | .divu .. => .S
  | .rem_ .. => .S
  | .remu .. => .S
  | .and_ .. => .S
  | .or_ .. => .S
  | .xor_ .. => .S
  | .andn .. => .S
  | .min_ .. => .S
  | .max_ .. => .S
  | .minu .. => .S
  | .maxu .. => .S
  | .shl .. => .S
  | .shr .. => .S
  | .sar .. => .S
  | .rol .. => .S
  | .clz .. => .S
  | .ctz .. => .S
  | .popc .. => .S
  | .sel .. => .S
  | .cmp .. => .S
  | .cmpp .. => .S
  | .addi .. => .S
  | .andi .. => .S
  | .ori .. => .S
  | .xori .. => .S
  | .shli .. => .S
  | .shri .. => .S
  | .sari .. => .S
  | .muli .. => .S
  | .cmpi .. => .S
  | .cmppi .. => .S
  | .li .. => .S
  | .lui .. => .S
  | .fmt .. => .S
  | .br .. => .S
  | .jr .. => .S
  | .call .. => .S
  | .callr .. => .S
  | .ret .. => .S
  | .loop .. => .S
  | .ldb .. => .S
  | .stb .. => .S
  | .ldt .. => .S
  | .stt .. => .S
  | .ldg .. => .S
  | .stg .. => .S
  | .cadd .. => .S
  | .cwait .. => .S
  | .cwaitArmed .. => .S
  | .carm .. => .S
  | .cread .. => .S
  | .hgive .. => .S
  | .htake .. => .S
  | .hquery .. => .S
  | .phase .. => .S
  | .realign .. => .S
  | .locq .. => .S
  | .csrr .. => .S
  | .csrw .. => .S
  | .trap .. => .S
  | .syscRetire .. => .S
  | .syscCall .. => .S
  | .sprd .. => .S
  | .spwr .. => .S
  | .eret .. => .S
  | .halt .. => .S
  | .vadd .. => .V
  | .vsub .. => .V
  | .vmul .. => .V
  | .vfma .. => .V
  | .vfnma .. => .V
  | .vmin .. => .V
  | .vmax .. => .V
  | .vabs .. => .V
  | .vneg .. => .V
  | .vcmp .. => .V
  | .fclass .. => .V
  | .cvt .. => .V
  | .viadd .. => .V
  | .visub .. => .V
  | .vimul .. => .V
  | .vimin .. => .V
  | .vimax .. => .V
  | .viminu .. => .V
  | .vimaxu .. => .V
  | .vand .. => .V
  | .vor .. => .V
  | .vxor .. => .V
  | .vshl .. => .V
  | .vshr .. => .V
  | .vsar .. => .V
  | .vicmp .. => .V
  | .vsel .. => .V
  | .vexp2 .. => .V
  | .vlog2 .. => .V
  | .vrcp .. => .V
  | .vrsqrt .. => .V
  | .vsqrt .. => .V
  | .vsin .. => .V
  | .vcos .. => .V
  | .vtanh .. => .V
  | .vsigm .. => .V
  | .vgelu .. => .V
  | .verf .. => .V
  | .rotr .. => .V
  | .rotc .. => .V
  | .bcr .. => .V
  | .bcc .. => .V
  | .redr .. => .V
  | .redc .. => .V
  | .vsplat .. => .V
  | .vsplatQ .. => .V
  | .vext .. => .V
  | .vextQ .. => .V
  | .vins .. => .V
  | .pcnt .. => .V
  | .ppop .. => .V
  | .pand .. => .V
  | .por .. => .V
  | .pxor .. => .V
  | .pandn .. => .V
  | .pnot .. => .V
  | .vld .. => .V
  | .vst .. => .V
  | .vldt .. => .V
  | .vstt .. => .V
  | .vldg .. => .V
  | .vldgFf .. => .V
  | .vstg .. => .V
  | .solve .. => .V
  | .sort .. => .V
  | .topk .. => .V
  | .cntoff .. => .V
  | .pfx .. => .V
  | .comp .. => .V
  | .radd .. => .V
  | .rmul .. => .V
  | .rnar .. => .V
  | .rshr .. => .V
  | .rleak .. => .V
  | .rmark .. => .V
  | .uadd .. => .V
  | .umul .. => .V
  | .unar .. => .V
  | .ushr .. => .V
  | .uleak .. => .V
  | .ucheck .. => .V
  | .mldw .. => .M
  | .mldwt .. => .M
  | .mzero .. => .M
  | .mzeroInt .. => .M
  | .macc .. => .M
  | .maccp .. => .M
  | .mscale .. => .M
  | .mswap .. => .M
  | .mcomp .. => .M
  | .mdrain .. => .M
  | .mdrainRev .. => .M
  | .mdrainUndo .. => .M
  | .msave .. => .M
  | .mrstr .. => .M
  | .mcall .. => .M
  | .mset .. => .M
  | .mgemv .. => .M
  | .mend .. => .M
  | .xcpy .. => .C
  | .xfill .. => .C
  | .xstore .. => .C
  | .xtld .. => .C
  | .xtst .. => .C
  | .xrsp .. => .C
  | .xrfl .. => .C
  | .xmig .. => .C
  | .xscl .. => .C
  | .xwin .. => .C
  | .xrows .. => .C
  | .xrowsSc .. => .C
  | .xmcast .. => .C
  | .xsend .. => .C
  | .xsendMsg .. => .C
  | .xget .. => .C
  | .xrts .. => .C
  | .xbat .. => .C
  | .xenq .. => .C
  | .cdrive .. => .C
  | .ccatch .. => .C
  | .nop => .any
  | .bundleIssue .. => .event
  | .idleBundle .. => .event
  | .resultPerforms .. => .event
  | .haltWake .. => .event
  | .mgemvBlockLanding .. => .event
  | .copyStart .. => .event
  | .copyPieceArrival .. => .event
  | .storeBufferAccept .. => .event
  | .copyDeferredFailure .. => .event
  | .arrivalReceived .. => .event
  | .stolenBankCycle .. => .event
  | .counterOperation .. => .event
  | .counterRefusal .. => .event
  | .counterReport .. => .event
  | .cwaitDeadlineExpiry .. => .event
  | .routeSwap .. => .event
  | .batchedAtomicExecute .. => .event
  | .messageDelivery .. => .event
  | .loadDataArrival .. => .event
  | .walkComplete .. => .event
  | .deferredFault .. => .event
  | .phaseComplete .. => .event
  | .storePathDrain .. => .event
  | .holdEnd .. => .event
  | .holdLimitFault .. => .event
  | .safePointDistanceFault .. => .event
  | .realignRelabel .. => .event
  | .preemptionTaken .. => .event
  | .savePhaseEnd .. => .event
  | .restorePhaseEnd .. => .event
  | .routineEnd .. => .event
  | .taskRetire .. => .event
  | .faultRecordWrite .. => .event
  | .interruptTaken .. => .event
  | .resume .. => .event
  | .retire .. => .event
  | .requestPreemption .. => .event
  | .withdrawRequest .. => .event
  | .hvPartWrite .. => .event
  | .systemRegisterWrite .. => .event
  | .keeperCharge .. => .event
  | .enQuotaWrite .. => .event
  | .enCtlWrite .. => .event
  | .troupeStart .. => .event
  | .launchWaitExpired .. => .event
  | .queueDoorbell .. => .event
  | .ctAllocate .. => .event
  | .ctFree .. => .event
  | .topologyGo .. => .event
  | .create .. => .event
  | .resize .. => .event
  | .remove .. => .event
  | .destroy .. => .event
  | .mode_ .. => .event
  | .ptResRead .. => .event
  | .invalidateRange .. => .event
  | .invalidateAsid .. => .event
  | .invalidatePartition .. => .event
  | .invalidationComplete .. => .event
  | .migrationClaim .. => .event
  | .migrationCopy .. => .event
  | .migrationSwitch .. => .event
  | .migrationEnd .. => .event
  | .writeMessage .. => .event
  | .readRequest .. => .event
  | .readResponse .. => .event
  | .fenceMarker .. => .event
  | .markerAcknowledgement .. => .event
  | .acknowledgement .. => .event
  | .refusal .. => .event
  | .planeDown .. => .event
  | .resendTimeout .. => .event
  | .ackTimeout .. => .event
  | .linkDown .. => .event
  | .kill .. => .event
  | .revive .. => .event
  | .laserOn .. => .event
  | .lock_ .. => .event
  | .train .. => .event
  | .map_ .. => .event
  | .enable .. => .event
  | .drain .. => .event
  | .disable .. => .event
  | .laserOff .. => .event
  | .opticalCommandEnd .. => .event
  | .lossOfSignal .. => .event
  | .rtDataWrite .. => .event
  | .counterMove .. => .event
  | .cxlPoison .. => .event
  | .cxlLinkDown .. => .event
  | .memoryError .. => .event
  | .traceSample .. => .event
  | .dbProfWrite .. => .event
  | .dbGrantWrite .. => .event
  | .opDigWrite .. => .event
  | .mailboxDoorbell .. => .event
  | .mbRespWrite .. => .event
  | .btCtlRelease .. => .event
  | .monitorSample .. => .event
  | .droopVminWrite .. => .event
  | .cxlLinkUp .. => .event
  | .ucieLinkRetrained .. => .event
  | .hostPortLinkChange .. => .event
  | .hostMemoryAccess .. => .event
  | .frameTick => .event
  | .settlement => .event
  | .distributorRound => .event
  | .topologyCommand => .event
  | .topologyGoExpired => .event
  | .partitionChangeApplied => .event
  | .migrationHint => .event
  | .migrationTakeover => .event
  | .quiesceDrainDone => .event
  | .quiesceTimeout => .event
  | .counterMoveComplete => .event
  | .powerOnReset => .event
  | .packageReset => .event
  | .hostPortReset => .event
  | .load => .event
  | .boot => .event
  | .commit => .event
  | .setf => .event
  | .setv => .event
  | .powerStateReached => .event
  | .gate => .event
  | .ungate => .event
  | .resetd => .event
  | .attest => .event
  | .fwd => .event
  | .clamp .. => .event
  | .thermalTrip => .event
  | .ungateComplete => .event
  | .dieResetComplete => .event

/-- A slot word, rather than an event. -/
def Instr.isWord (i : Instr) : Bool := i.slot != .event

/-- Destination fields of a scan operation: with QD the destination register is 0, without it QN is 0 and the
first register of a pair is even (R184, R186; the two sub-causes are log 15). -/
def scanWf (pair qd qn : Bool) (d : VRegN) : Bool :=
  if qd then d == 0 else !qn && (!pair || d.toNat % 2 == 0)

/-- The operators whose target is a counter: their `xbat` makes no G access, so its AC is 0 (R220, R233). -/
def AtomOp.onCounter (op : AtomOp) : Bool := op == .cadd || op == .cclr

/-- The operand limits of R97 (sub-cause 0x5) and of the rules that name a form's fields. -/
def Instr.wf : Instr → Bool
  | .loop _ _ disp => 1 ≤ disp.toInt
  | .cwait _ _ _ _ dl => dl.toNat % 2048 ≠ 0
  | .cwaitArmed _ _ _ dl => dl.toNat % 2048 ≠ 0
  | .syscCall _ _ code _ => code ≠ 0
  | .sort _ _ _ d _ _ qd qn => scanWf true qd qn d
  | .topk _ _ _ d _ _ qd qn _ => scanWf true qd qn d
  | .cntoff _ d _ _ qd qn k => scanWf true qd qn d && decide (k.toNat ≤ 255)
  | .pfx _ _ _ d _ _ qd qn => scanWf false qd qn d
  | .comp _ kt d _ _ qd qn => scanWf false qd qn d && decide (kt ≠ .u32)
  | .macc _ _ _ _ _ _ xa xb sc _ => !sc || (xa.toNat % 2 == 0 && xb.toNat % 2 == 0)
  | .mdrain _ _ _ _ _ res r drp ks ko => (res || r == 0) && (drp || (ks == 0 && ko == 0))
  | .mcall _ _ k a => a ≠ 0 || k == 0
  | .mgemv _ k _ _ _ => k.toNat % 2 == 0
  | .xcpy _ _ _ _ pat _ => pat.toNat ≤ 263
  | .xsend _ d _ n _ _ _ => d ≠ 0 || n ≠ 0
  | .xrts _ _ _ ctr _ => ctr ≠ 0
  | .xbat _ op _ _ _ ac _ => !op.onCounter || ac == 0
  | .xenq _ _ _ ctr _ _ => ctr ≠ 0
  | _ => true

/-- A well-formed instruction. -/
abbrev Instr.WellFormed (i : Instr) : Prop := i.wf = true

end Sys2Proof
end

