-- ==== Sys2Proof/Decode.lean ====
section
/-!
DEFINITION. The decoder of slot words and bundles (R89 to R103), total on any word, and the encoder written
from the same tables.
-/

namespace Sys2Proof

/-! ## Codes of the enumerated fields -/

def Cond.code : Cond → Nat
  | .eq => 0
  | .ne => 1
  | .lt => 2
  | .ge => 3
  | .ltu => 4
  | .geu => 5
  | .gt => 6
  | .le => 7
  | .gtu => 8
  | .leu => 9

def Cond.ofCode : Nat → Cond
  | 0 => .eq
  | 1 => .ne
  | 2 => .lt
  | 3 => .ge
  | 4 => .ltu
  | 5 => .geu
  | 6 => .gt
  | 7 => .le
  | 8 => .gtu
  | _ => .leu

def CondI.code : CondI → Nat
  | .eq => 0
  | .ne => 1
  | .lt => 2
  | .ge => 3
  | .ltu => 4
  | .geu => 5
  | .gt => 6
  | .le => 7

def CondI.ofCode : Nat → CondI
  | 0 => .eq
  | 1 => .ne
  | 2 => .lt
  | 3 => .ge
  | 4 => .ltu
  | 5 => .geu
  | 6 => .gt
  | _ => .le

def FCond.code : FCond → Nat
  | .eq => 0
  | .ne => 1
  | .lt => 2
  | .ge => 3
  | .un => 4
  | .or => 5
  | .gt => 6
  | .le => 7

def FCond.ofCode : Nat → FCond
  | 0 => .eq
  | 1 => .ne
  | 2 => .lt
  | 3 => .ge
  | 4 => .un
  | 5 => .or
  | 6 => .gt
  | _ => .le

def CvtKind.code : CvtKind → Nat
  | .fi => 0
  | .if' => 1
  | .ff => 2

def CvtKind.ofCode : Nat → CvtKind
  | 0 => .fi
  | 1 => .if'
  | _ => .ff

def RMode.code : RMode → Nat
  | .rne => 0
  | .rtz => 1
  | .rup => 2
  | .rdn => 3
  | .rna => 4

def RMode.ofCode : Nat → RMode
  | 0 => .rne
  | 1 => .rtz
  | 2 => .rup
  | 3 => .rdn
  | _ => .rna

def RedOp.code : RedOp → Nat
  | .fsum => 0
  | .fmax => 1
  | .fmin => 2
  | .isum => 3
  | .imax => 4
  | .imin => 5
  | .umax => 6
  | .umin => 7
  | .and' => 8
  | .or' => 9
  | .xor' => 10

def RedOp.ofCode : Nat → RedOp
  | 0 => .fsum
  | 1 => .fmax
  | 2 => .fmin
  | 3 => .isum
  | 4 => .imax
  | 5 => .imin
  | 6 => .umax
  | 7 => .umin
  | 8 => .and'
  | 9 => .or'
  | _ => .xor'

def KeyT.code : KeyT → Nat
  | .f32 => 0
  | .i32 => 1
  | .u32 => 2

def KeyT.ofCode : Nat → KeyT
  | 0 => .f32
  | 1 => .i32
  | _ => .u32

def AtomOp.code : AtomOp → Nat
  | .add => 0
  | .and' => 1
  | .or' => 2
  | .xor' => 3
  | .smin => 4
  | .smax => 5
  | .umin => 6
  | .umax => 7
  | .swap => 8
  | .cas => 9
  | .fadd => 10
  | .cadd => 11
  | .cclr => 12

def AtomOp.ofCode : Nat → AtomOp
  | 0 => .add
  | 1 => .and'
  | 2 => .or'
  | 3 => .xor'
  | 4 => .smin
  | 5 => .smax
  | 6 => .umin
  | 7 => .umax
  | 8 => .swap
  | 9 => .cas
  | 10 => .fadd
  | 11 => .cadd
  | _ => .cclr

def Scope.code : Scope → Nat
  | .core => 0
  | .ring => 1
  | .span => 2
  | .pkg => 3
  | .pod => 4
  | .sys => 5

def Scope.ofCode : Nat → Scope
  | 0 => .core
  | 1 => .ring
  | 2 => .span
  | 3 => .pkg
  | 4 => .pod
  | _ => .sys

/-! ## Fields -/

/-- Bits [lo+n-1:lo] of a word (R2). -/
def fld (w lo n : Nat) : Nat := w / 2 ^ lo % 2 ^ n

/-- The same bits as a bit vector. -/
def bv (w lo n : Nat) : BitVec n := BitVec.ofNat n (w / 2 ^ lo)

def bit (b : Bool) : Nat := if b then 1 else 0

/-- The predicate fields of R93. -/
def pdOf (w : Nat) : Pd := { neg := fld w 55 1 == 1, reg := bv w 51 4 }

/-- No bit of [50:0] is set outside the listed fields (R96). -/
def clean (w : Nat) (fs : List (Nat × Nat)) : Bool :=
  w % 2 ^ 51 == (fs.map fun f => fld w f.1 f.2 * 2 ^ f.1).sum

/-- What a word decodes to: an instruction, or a sub-cause of R97. -/
inductive Dec where
  | ok (i : Instr)
  | bad (sub : Nat)
  deriving DecidableEq, Repr

/-- A word whose form names the fields `fs`: sub-cause 0x4 outside them, then 0x5 for a field outside its range
(R97; which of the two a point takes where the spec does not say is log 15). -/
def form (w : Nat) (fs : List (Nat × Nat)) (lim : Bool) (i : Instr) : Dec :=
  if clean w fs then (if lim && i.wf then .ok i else .bad 5) else .bad 4

/-! ## The opcode maps -/

/-- The scalar slot map (R100). -/
def decodeOpS (w : Nat) : Dec :=
  match w / 2 ^ 56 with
  | 0x00 => if w = 0 then .ok .nop else .bad 4
  | 0x01 => form w ([(45, 6), (39, 6), (33, 6)]) (true) (.add (pdOf w) (bv w 45 6) (bv w 39 6) (bv w 33 6))
  | 0x02 => form w ([(45, 6), (39, 6), (33, 6)]) (true) (.sub (pdOf w) (bv w 45 6) (bv w 39 6) (bv w 33 6))
  | 0x03 => form w ([(45, 6), (39, 6), (33, 6)]) (true) (.mul (pdOf w) (bv w 45 6) (bv w 39 6) (bv w 33 6))
  | 0x04 => form w ([(45, 6), (39, 6), (33, 6)]) (true) (.mulh (pdOf w) (bv w 45 6) (bv w 39 6) (bv w 33 6))
  | 0x05 => form w ([(45, 6), (39, 6), (33, 6)]) (true) (.mulhu (pdOf w) (bv w 45 6) (bv w 39 6) (bv w 33 6))
  | 0x06 => form w ([(45, 6), (39, 6), (33, 6)]) (true) (.div (pdOf w) (bv w 45 6) (bv w 39 6) (bv w 33 6))
  | 0x07 => form w ([(45, 6), (39, 6), (33, 6)]) (true) (.divu (pdOf w) (bv w 45 6) (bv w 39 6) (bv w 33 6))
  | 0x08 => form w ([(45, 6), (39, 6), (33, 6)]) (true) (.rem_ (pdOf w) (bv w 45 6) (bv w 39 6) (bv w 33 6))
  | 0x09 => form w ([(45, 6), (39, 6), (33, 6)]) (true) (.remu (pdOf w) (bv w 45 6) (bv w 39 6) (bv w 33 6))
  | 0x0A => form w ([(45, 6), (39, 6), (33, 6)]) (true) (.and_ (pdOf w) (bv w 45 6) (bv w 39 6) (bv w 33 6))
  | 0x0B => form w ([(45, 6), (39, 6), (33, 6)]) (true) (.or_ (pdOf w) (bv w 45 6) (bv w 39 6) (bv w 33 6))
  | 0x0C => form w ([(45, 6), (39, 6), (33, 6)]) (true) (.xor_ (pdOf w) (bv w 45 6) (bv w 39 6) (bv w 33 6))
  | 0x0D => form w ([(45, 6), (39, 6), (33, 6)]) (true) (.andn (pdOf w) (bv w 45 6) (bv w 39 6) (bv w 33 6))
  | 0x0E => form w ([(45, 6), (39, 6), (33, 6)]) (true) (.min_ (pdOf w) (bv w 45 6) (bv w 39 6) (bv w 33 6))
  | 0x0F => form w ([(45, 6), (39, 6), (33, 6)]) (true) (.max_ (pdOf w) (bv w 45 6) (bv w 39 6) (bv w 33 6))
  | 0x10 => form w ([(45, 6), (39, 6), (33, 6)]) (true) (.minu (pdOf w) (bv w 45 6) (bv w 39 6) (bv w 33 6))
  | 0x11 => form w ([(45, 6), (39, 6), (33, 6)]) (true) (.maxu (pdOf w) (bv w 45 6) (bv w 39 6) (bv w 33 6))
  | 0x12 => form w ([(45, 6), (39, 6), (33, 6)]) (true) (.shl (pdOf w) (bv w 45 6) (bv w 39 6) (bv w 33 6))
  | 0x13 => form w ([(45, 6), (39, 6), (33, 6)]) (true) (.shr (pdOf w) (bv w 45 6) (bv w 39 6) (bv w 33 6))
  | 0x14 => form w ([(45, 6), (39, 6), (33, 6)]) (true) (.sar (pdOf w) (bv w 45 6) (bv w 39 6) (bv w 33 6))
  | 0x15 => form w ([(45, 6), (39, 6), (33, 6)]) (true) (.rol (pdOf w) (bv w 45 6) (bv w 39 6) (bv w 33 6))
  | 0x16 => form w ([(45, 6), (39, 6)]) (true) (.clz (pdOf w) (bv w 45 6) (bv w 39 6))
  | 0x17 => form w ([(45, 6), (39, 6)]) (true) (.ctz (pdOf w) (bv w 45 6) (bv w 39 6))
  | 0x18 => form w ([(45, 6), (39, 6)]) (true) (.popc (pdOf w) (bv w 45 6) (bv w 39 6))
  | 0x19 => form w ([(45, 6), (39, 6), (33, 6), (28, 5)]) (fld w 32 1 == 0) (.sel (pdOf w) (bv w 45 6) (bv w 39 6) (bv w 33 6) (bv w 28 4))
  | 0x1A => form w ([(28, 5), (45, 6), (39, 6), (33, 6)]) (fld w 28 5 < 10) (.cmp (pdOf w) (Cond.ofCode (fld w 28 5)) (bv w 45 6) (bv w 39 6) (bv w 33 6))
  | 0x1B => form w ([(28, 5), (45, 6), (39, 6), (33, 6)]) (fld w 49 2 == 0 && fld w 28 5 < 10) (.cmpp (pdOf w) (Cond.ofCode (fld w 28 5)) (bv w 45 4) (bv w 39 6) (bv w 33 6))
  | 0x20 => form w ([(45, 6), (39, 6), (7, 32)]) (true) (.addi (pdOf w) (bv w 45 6) (bv w 39 6) (bv w 7 32))
  | 0x21 => form w ([(45, 6), (39, 6), (7, 32)]) (true) (.andi (pdOf w) (bv w 45 6) (bv w 39 6) (bv w 7 32))
  | 0x22 => form w ([(45, 6), (39, 6), (7, 32)]) (true) (.ori (pdOf w) (bv w 45 6) (bv w 39 6) (bv w 7 32))
  | 0x23 => form w ([(45, 6), (39, 6), (7, 32)]) (true) (.xori (pdOf w) (bv w 45 6) (bv w 39 6) (bv w 7 32))
  | 0x24 => form w ([(45, 6), (39, 6), (7, 32)]) (fld w 13 26 == 0) (.shli (pdOf w) (bv w 45 6) (bv w 39 6) (bv w 7 6))
  | 0x25 => form w ([(45, 6), (39, 6), (7, 32)]) (fld w 13 26 == 0) (.shri (pdOf w) (bv w 45 6) (bv w 39 6) (bv w 7 6))
  | 0x26 => form w ([(45, 6), (39, 6), (7, 32)]) (fld w 13 26 == 0) (.sari (pdOf w) (bv w 45 6) (bv w 39 6) (bv w 7 6))
  | 0x27 => form w ([(45, 6), (39, 6), (7, 32)]) (true) (.muli (pdOf w) (bv w 45 6) (bv w 39 6) (bv w 7 32))
  | 0x28 => form w ([(4, 3), (45, 6), (39, 6), (7, 32)]) (true) (.cmpi (pdOf w) (CondI.ofCode (fld w 4 3)) (bv w 45 6) (bv w 39 6) (bv w 7 32))
  | 0x29 => form w ([(4, 3), (45, 6), (39, 6), (7, 32)]) (fld w 49 2 == 0) (.cmppi (pdOf w) (CondI.ofCode (fld w 4 3)) (bv w 45 4) (bv w 39 6) (bv w 7 32))
  | 0x2A => form w ([(45, 6), (7, 32)]) (true) (.li (pdOf w) (bv w 45 6) (bv w 7 32))
  | 0x2B => form w ([(45, 6), (39, 6), (7, 32)]) (true) (.lui (pdOf w) (bv w 45 6) (bv w 39 6) (bv w 7 32))
  | 0x2C => form w ([(4, 3), (39, 6), (7, 32)]) (true) (.fmt (pdOf w) (bv w 4 3) (bv w 39 6) (bv w 7 32))
  | 0x30 => form w ([(7, 32)]) (true) (.br (pdOf w) (bv w 7 32))
  | 0x31 => form w ([(39, 6)]) (true) (.jr (pdOf w) (bv w 39 6))
  | 0x32 => form w ([(45, 6), (7, 32)]) (true) (.call (pdOf w) (bv w 45 6) (bv w 7 32))
  | 0x33 => form w ([(45, 6), (39, 6)]) (true) (.callr (pdOf w) (bv w 45 6) (bv w 39 6))
  | 0x34 => form w ([(39, 6)]) (true) (.ret (pdOf w) (bv w 39 6))
  | 0x35 => form w ([(4, 3), (7, 32)]) (true) (.loop (pdOf w) (bv w 4 3) (bv w 7 32))
  | 0x40 => form w ([(45, 6), (39, 6), (15, 24), (13, 2), (12, 1), (9, 1)]) (true) (.ldb (pdOf w) (bv w 45 6) (bv w 39 6) (bv w 15 24) (bv w 13 2) (fld w 12 1 == 1) (fld w 9 1 == 1))
  | 0x41 => form w ([(45, 6), (39, 6), (15, 24), (13, 2), (9, 1)]) (true) (.stb (pdOf w) (bv w 45 6) (bv w 39 6) (bv w 15 24) (bv w 13 2) (fld w 9 1 == 1))
  | 0x42 => form w ([(45, 6), (39, 6), (15, 24), (13, 2), (12, 1)]) (true) (.ldt (pdOf w) (bv w 45 6) (bv w 39 6) (bv w 15 24) (bv w 13 2) (fld w 12 1 == 1))
  | 0x43 => form w ([(45, 6), (39, 6), (15, 24), (13, 2)]) (true) (.stt (pdOf w) (bv w 45 6) (bv w 39 6) (bv w 15 24) (bv w 13 2))
  | 0x44 => form w ([(45, 6), (39, 6), (15, 24), (13, 2), (12, 1), (10, 2)]) (true) (.ldg (pdOf w) (bv w 45 6) (bv w 39 6) (bv w 15 24) (bv w 13 2) (fld w 12 1 == 1) (bv w 10 2))
  | 0x45 => form w ([(45, 6), (39, 6), (15, 24), (13, 2), (10, 2)]) (true) (.stg (pdOf w) (bv w 45 6) (bv w 39 6) (bv w 15 24) (bv w 13 2) (bv w 10 2))
  | 0x50 => form w ([(39, 6), (33, 6)]) (true) (.cadd (pdOf w) (bv w 39 6) (bv w 33 6))
  | 0x51 => if fld w 12 5 == 1 then form w ([(45, 6), (39, 6), (17, 16), (12, 5)]) (true) (.cwaitArmed (pdOf w) (bv w 45 6) (bv w 39 6) (bv w 17 16))
    else form w ([(45, 6), (39, 6), (33, 6), (17, 16), (12, 5)]) (fld w 12 5 == 0) (.cwait (pdOf w) (bv w 45 6) (bv w 39 6) (bv w 33 6) (bv w 17 16))
  | 0x52 => form w ([(39, 6), (33, 6)]) (true) (.carm (pdOf w) (bv w 39 6) (bv w 33 6))
  | 0x53 => form w ([(45, 6), (39, 6)]) (true) (.cread (pdOf w) (bv w 45 6) (bv w 39 6))
  | 0x54 => form w ([(39, 6), (33, 6)]) (true) (.hgive (pdOf w) (bv w 39 6) (bv w 33 6))
  | 0x55 => form w ([(39, 6)]) (true) (.htake (pdOf w) (bv w 39 6))
  | 0x56 => form w ([(45, 6), (39, 6)]) (true) (.hquery (pdOf w) (bv w 45 6) (bv w 39 6))
  | 0x57 => form w ([(12, 5)]) (fld w 12 5 < 6) (.phase (pdOf w) (Scope.ofCode (fld w 12 5)))
  | 0x58 => form w ([]) (true) (.realign (pdOf w))
  | 0x59 => form w ([(45, 6), (39, 6)]) (true) (.locq (pdOf w) (bv w 45 6) (bv w 39 6))
  | 0x60 => form w ([(45, 6), (27, 12)]) (true) (.csrr (pdOf w) (bv w 45 6) (bv w 27 12))
  | 0x61 => form w ([(27, 12), (39, 6)]) (true) (.csrw (pdOf w) (bv w 27 12) (bv w 39 6))
  | 0x70 => form w ([(23, 16), (39, 6)]) (true) (.trap (pdOf w) (bv w 23 16) (bv w 39 6))
  | 0x71 => if fld w 23 16 == 0 then form w ([(39, 6)]) (true) (.syscRetire (pdOf w) (bv w 39 6))
    else form w ([(45, 6), (23, 16), (39, 6)]) (true) (.syscCall (pdOf w) (bv w 45 6) (bv w 23 16) (bv w 39 6))
  | 0x78 => form w ([(45, 6), (23, 16)]) (true) (.sprd (pdOf w) (bv w 45 6) (bv w 23 16))
  | 0x79 => form w ([(23, 16), (39, 6)]) (true) (.spwr (pdOf w) (bv w 23 16) (bv w 39 6))
  | 0x7A => form w ([]) (true) (.eret (pdOf w))
  | 0x7B => form w ([]) (true) (.halt (pdOf w))
  | _ => .bad 3

/-- The vector slot map (R101). -/
def decodeOpV (w : Nat) : Dec :=
  match w / 2 ^ 56 with
  | 0x00 => if w = 0 then .ok .nop else .bad 4
  | 0x01 => form w ([(46, 5), (41, 5), (36, 5)]) (true) (.vadd (pdOf w) (bv w 46 5) (bv w 41 5) (bv w 36 5))
  | 0x02 => form w ([(46, 5), (41, 5), (36, 5)]) (true) (.vsub (pdOf w) (bv w 46 5) (bv w 41 5) (bv w 36 5))
  | 0x03 => form w ([(46, 5), (41, 5), (36, 5)]) (true) (.vmul (pdOf w) (bv w 46 5) (bv w 41 5) (bv w 36 5))
  | 0x04 => form w ([(46, 5), (41, 5), (36, 5), (31, 5)]) (true) (.vfma (pdOf w) (bv w 46 5) (bv w 41 5) (bv w 36 5) (bv w 31 5))
  | 0x05 => form w ([(46, 5), (41, 5), (36, 5), (31, 5)]) (true) (.vfnma (pdOf w) (bv w 46 5) (bv w 41 5) (bv w 36 5) (bv w 31 5))
  | 0x06 => form w ([(46, 5), (41, 5), (36, 5)]) (true) (.vmin (pdOf w) (bv w 46 5) (bv w 41 5) (bv w 36 5))
  | 0x07 => form w ([(46, 5), (41, 5), (36, 5)]) (true) (.vmax (pdOf w) (bv w 46 5) (bv w 41 5) (bv w 36 5))
  | 0x08 => form w ([(46, 5), (41, 5)]) (true) (.vabs (pdOf w) (bv w 46 5) (bv w 41 5))
  | 0x09 => form w ([(46, 5), (41, 5)]) (true) (.vneg (pdOf w) (bv w 46 5) (bv w 41 5))
  | 0x0A => form w ([(23, 5), (19, 4), (41, 5), (36, 5)]) (fld w 23 5 < 8) (.vcmp (pdOf w) (FCond.ofCode (fld w 23 5)) (bv w 19 4) (bv w 41 5) (bv w 36 5))
  | 0x0B => form w ([(46, 5), (41, 5)]) (true) (.fclass (pdOf w) (bv w 46 5) (bv w 41 5))
  | 0x0C => form w ([(23, 5), (46, 5), (41, 5), (28, 3)]) (fld w 26 2 < 3 && fld w 23 3 < 5) (.cvt (pdOf w) (CvtKind.ofCode (fld w 26 2)) (RMode.ofCode (fld w 23 3)) (bv w 46 5) (bv w 41 5) (bv w 28 3))
  | 0x10 => form w ([(46, 5), (41, 5), (36, 5)]) (true) (.viadd (pdOf w) (bv w 46 5) (bv w 41 5) (bv w 36 5))
  | 0x11 => form w ([(46, 5), (41, 5), (36, 5)]) (true) (.visub (pdOf w) (bv w 46 5) (bv w 41 5) (bv w 36 5))
  | 0x12 => form w ([(46, 5), (41, 5), (36, 5)]) (true) (.vimul (pdOf w) (bv w 46 5) (bv w 41 5) (bv w 36 5))
  | 0x13 => form w ([(46, 5), (41, 5), (36, 5)]) (true) (.vimin (pdOf w) (bv w 46 5) (bv w 41 5) (bv w 36 5))
  | 0x14 => form w ([(46, 5), (41, 5), (36, 5)]) (true) (.vimax (pdOf w) (bv w 46 5) (bv w 41 5) (bv w 36 5))
  | 0x15 => form w ([(46, 5), (41, 5), (36, 5)]) (true) (.viminu (pdOf w) (bv w 46 5) (bv w 41 5) (bv w 36 5))
  | 0x16 => form w ([(46, 5), (41, 5), (36, 5)]) (true) (.vimaxu (pdOf w) (bv w 46 5) (bv w 41 5) (bv w 36 5))
  | 0x17 => form w ([(46, 5), (41, 5), (36, 5)]) (true) (.vand (pdOf w) (bv w 46 5) (bv w 41 5) (bv w 36 5))
  | 0x18 => form w ([(46, 5), (41, 5), (36, 5)]) (true) (.vor (pdOf w) (bv w 46 5) (bv w 41 5) (bv w 36 5))
  | 0x19 => form w ([(46, 5), (41, 5), (36, 5)]) (true) (.vxor (pdOf w) (bv w 46 5) (bv w 41 5) (bv w 36 5))
  | 0x1A => form w ([(46, 5), (41, 5), (36, 5)]) (true) (.vshl (pdOf w) (bv w 46 5) (bv w 41 5) (bv w 36 5))
  | 0x1B => form w ([(46, 5), (41, 5), (36, 5)]) (true) (.vshr (pdOf w) (bv w 46 5) (bv w 41 5) (bv w 36 5))
  | 0x1C => form w ([(46, 5), (41, 5), (36, 5)]) (true) (.vsar (pdOf w) (bv w 46 5) (bv w 41 5) (bv w 36 5))
  | 0x1D => form w ([(23, 5), (19, 4), (41, 5), (36, 5)]) (fld w 23 5 < 10) (.vicmp (pdOf w) (Cond.ofCode (fld w 23 5)) (bv w 19 4) (bv w 41 5) (bv w 36 5))
  | 0x1E => form w ([(46, 5), (41, 5), (36, 5), (19, 4)]) (true) (.vsel (pdOf w) (bv w 46 5) (bv w 41 5) (bv w 36 5) (bv w 19 4))
  | 0x20 => form w ([(46, 5), (41, 5)]) (true) (.vexp2 (pdOf w) (bv w 46 5) (bv w 41 5))
  | 0x21 => form w ([(46, 5), (41, 5)]) (true) (.vlog2 (pdOf w) (bv w 46 5) (bv w 41 5))
  | 0x22 => form w ([(46, 5), (41, 5)]) (true) (.vrcp (pdOf w) (bv w 46 5) (bv w 41 5))
  | 0x23 => form w ([(46, 5), (41, 5)]) (true) (.vrsqrt (pdOf w) (bv w 46 5) (bv w 41 5))
  | 0x24 => form w ([(46, 5), (41, 5)]) (true) (.vsqrt (pdOf w) (bv w 46 5) (bv w 41 5))
  | 0x25 => form w ([(46, 5), (41, 5)]) (true) (.vsin (pdOf w) (bv w 46 5) (bv w 41 5))
  | 0x26 => form w ([(46, 5), (41, 5)]) (true) (.vcos (pdOf w) (bv w 46 5) (bv w 41 5))
  | 0x27 => form w ([(46, 5), (41, 5)]) (true) (.vtanh (pdOf w) (bv w 46 5) (bv w 41 5))
  | 0x28 => form w ([(46, 5), (41, 5)]) (true) (.vsigm (pdOf w) (bv w 46 5) (bv w 41 5))
  | 0x29 => form w ([(46, 5), (41, 5)]) (true) (.vgelu (pdOf w) (bv w 46 5) (bv w 41 5))
  | 0x2A => form w ([(46, 5), (41, 5)]) (true) (.verf (pdOf w) (bv w 46 5) (bv w 41 5))
  | 0x30 => form w ([(46, 5), (41, 5), (35, 6), (19, 16)]) (true) (.rotr (pdOf w) (bv w 46 5) (bv w 41 5) (bv w 35 6) (bv w 19 16))
  | 0x31 => form w ([(46, 5), (41, 5), (35, 6), (19, 16)]) (true) (.rotc (pdOf w) (bv w 46 5) (bv w 41 5) (bv w 35 6) (bv w 19 16))
  | 0x32 => form w ([(46, 5), (41, 5), (35, 6), (19, 16)]) (true) (.bcr (pdOf w) (bv w 46 5) (bv w 41 5) (bv w 35 6) (bv w 19 16))
  | 0x33 => form w ([(46, 5), (41, 5), (35, 6), (19, 16)]) (true) (.bcc (pdOf w) (bv w 46 5) (bv w 41 5) (bv w 35 6) (bv w 19 16))
  | 0x34 => form w ([(11, 5), (46, 5), (41, 5)]) (fld w 11 5 < 11) (.redr (pdOf w) (RedOp.ofCode (fld w 11 5)) (bv w 46 5) (bv w 41 5))
  | 0x35 => form w ([(11, 5), (46, 5), (41, 5)]) (fld w 11 5 < 11) (.redc (pdOf w) (RedOp.ofCode (fld w 11 5)) (bv w 46 5) (bv w 41 5))
  | 0x36 => if fld w 11 5 == 1 then form w ([(46, 5), (19, 16), (11, 5)]) (fld w 22 13 == 0) (.vsplatQ (pdOf w) (bv w 46 5) (bv w 19 3))
    else form w ([(46, 5), (35, 6), (19, 16), (11, 5)]) (fld w 11 5 == 0) (.vsplat (pdOf w) (bv w 46 5) (bv w 35 6) (bv w 19 16))
  | 0x37 => if fld w 11 5 == 2 then form w ([(46, 5), (19, 16), (11, 5)]) (fld w 22 13 == 0) (.vextQ (pdOf w) (bv w 46 5) (bv w 19 3))
    else form w ([(11, 5), (46, 5), (41, 5), (35, 6), (19, 16)]) (fld w 11 5 ≤ 1) (.vext (pdOf w) (fld w 11 1 == 1) (bv w 46 5) (bv w 41 5) (bv w 35 6) (bv w 19 16))
  | 0x38 => form w ([(46, 5), (41, 5), (35, 6), (19, 16), (11, 5)]) (fld w 29 6 == 0 && fld w 11 5 == 0) (.vins (pdOf w) (bv w 46 5) (bv w 41 5) (bv w 35 6) (bv w 19 10))
  | 0x39 => form w ([(46, 5), (41, 5), (35, 6), (19, 16)]) (fld w 50 1 == 0 && fld w 45 1 == 0) (.pcnt (pdOf w) (bv w 46 4) (bv w 41 4) (bv w 35 6) (bv w 19 16))
  | 0x3A => form w ([(46, 5), (41, 5)]) (fld w 45 1 == 0) (.ppop (pdOf w) (bv w 46 5) (bv w 41 4))
  | 0x40 => form w ([(46, 5), (41, 5), (36, 5)]) (fld w 50 1 == 0 && fld w 45 1 == 0 && fld w 40 1 == 0) (.pand (pdOf w) (bv w 46 4) (bv w 41 4) (bv w 36 4))
  | 0x41 => form w ([(46, 5), (41, 5), (36, 5)]) (fld w 50 1 == 0 && fld w 45 1 == 0 && fld w 40 1 == 0) (.por (pdOf w) (bv w 46 4) (bv w 41 4) (bv w 36 4))
  | 0x42 => form w ([(46, 5), (41, 5), (36, 5)]) (fld w 50 1 == 0 && fld w 45 1 == 0 && fld w 40 1 == 0) (.pxor (pdOf w) (bv w 46 4) (bv w 41 4) (bv w 36 4))
  | 0x43 => form w ([(46, 5), (41, 5), (36, 5)]) (fld w 50 1 == 0 && fld w 45 1 == 0 && fld w 40 1 == 0) (.pandn (pdOf w) (bv w 46 4) (bv w 41 4) (bv w 36 4))
  | 0x44 => form w ([(46, 5), (41, 5)]) (fld w 50 1 == 0 && fld w 45 1 == 0) (.pnot (pdOf w) (bv w 46 4) (bv w 41 4))
  | 0x50 => form w ([(46, 5), (45, 1), (39, 6), (36, 3), (28, 6)]) (true) (.vld (pdOf w) (bv w 46 5) (fld w 45 1 == 1) (bv w 39 6) (bv w 36 3) (bv w 28 6))
  | 0x51 => form w ([(46, 5), (39, 6), (36, 3), (28, 6)]) (true) (.vst (pdOf w) (bv w 46 5) (bv w 39 6) (bv w 36 3) (bv w 28 6))
  | 0x52 => form w ([(46, 5), (28, 6), (27, 1)]) (true) (.vldt (pdOf w) (bv w 46 5) (bv w 28 6) (fld w 27 1 == 1))
  | 0x53 => form w ([(46, 5), (28, 6), (27, 1)]) (true) (.vstt (pdOf w) (bv w 46 5) (bv w 28 6) (fld w 27 1 == 1))
  | 0x54 => if fld w 26 1 == 1 then form w ([(46, 5), (39, 6), (36, 3), (34, 2), (28, 6), (26, 1)]) (true) (.vldgFf (pdOf w) (bv w 46 5) (bv w 39 6) (bv w 36 3) (bv w 34 2) (bv w 28 6))
    else form w ([(46, 5), (36, 3), (34, 2), (28, 6)]) (true) (.vldg (pdOf w) (bv w 46 5) (bv w 36 3) (bv w 34 2) (bv w 28 6))
  | 0x55 => form w ([(46, 5), (36, 3), (34, 2), (28, 6)]) (true) (.vstg (pdOf w) (bv w 46 5) (bv w 36 3) (bv w 34 2) (bv w 28 6))
  | 0x60 => form w ([(40, 1), (46, 5), (41, 5), (33, 6), (20, 3)]) (fld w 50 1 == 0) (.solve (pdOf w) (fld w 40 1 == 1) (bv w 46 4) (bv w 41 5) (bv w 33 6) (bv w 20 3))
  | 0x61 => form w ([(17, 3), (46, 5), (41, 5), (33, 6), (40, 1), (20, 3)] ++ (if fld w 40 1 == 1 then [(39, 1)] else [])) (fld w 20 3 == 0 && fld w 17 2 < 3) (.sort (pdOf w) (KeyT.ofCode (fld w 17 2)) (fld w 19 1 == 1) (bv w 46 5) (bv w 41 5) (bv w 33 6) (fld w 40 1 == 1) (fld w 39 1 == 1))
  | 0x62 => form w ([(17, 3), (46, 5), (41, 5), (33, 6), (40, 1), (23, 10), (20, 3)] ++ (if fld w 40 1 == 1 then [(39, 1)] else [])) (fld w 20 3 == 0 && fld w 17 2 < 3) (.topk (pdOf w) (KeyT.ofCode (fld w 17 2)) (fld w 19 1 == 1) (bv w 46 5) (bv w 41 5) (bv w 33 6) (fld w 40 1 == 1) (fld w 39 1 == 1) (bv w 23 10))
  | 0x63 => form w ([(46, 5), (41, 5), (33, 6), (40, 1), (23, 10), (20, 3)] ++ (if fld w 40 1 == 1 then [(39, 1)] else [])) (fld w 20 3 == 0) (.cntoff (pdOf w) (bv w 46 5) (bv w 41 5) (bv w 33 6) (fld w 40 1 == 1) (fld w 39 1 == 1) (bv w 23 10))
  | 0x64 => form w ([(17, 3), (46, 5), (41, 5), (33, 6), (40, 1), (20, 3)] ++ (if fld w 40 1 == 1 then [(39, 1)] else [])) (fld w 20 3 == 0 && fld w 17 2 < 3) (.pfx (pdOf w) (KeyT.ofCode (fld w 17 2)) (fld w 19 1 == 1) (bv w 46 5) (bv w 41 5) (bv w 33 6) (fld w 40 1 == 1) (fld w 39 1 == 1))
  | 0x65 => form w ([(17, 3), (46, 5), (41, 5), (33, 6), (40, 1), (20, 3)] ++ (if fld w 40 1 == 1 then [(39, 1)] else [])) (fld w 20 3 == 0 && fld w 19 1 == 0 && fld w 17 2 < 3) (.comp (pdOf w) (KeyT.ofCode (fld w 17 2)) (bv w 46 5) (bv w 41 5) (bv w 33 6) (fld w 40 1 == 1) (fld w 39 1 == 1))
  | 0x70 => form w ([(46, 5), (41, 5), (36, 5)]) (true) (.radd (pdOf w) (bv w 46 5) (bv w 41 5) (bv w 36 5))
  | 0x71 => form w ([(46, 5), (41, 5), (36, 5)]) (true) (.rmul (pdOf w) (bv w 46 5) (bv w 41 5) (bv w 36 5))
  | 0x72 => form w ([(46, 5), (41, 5)]) (true) (.rnar (pdOf w) (bv w 46 5) (bv w 41 5))
  | 0x73 => form w ([(46, 5), (41, 5), (31, 5)]) (true) (.rshr (pdOf w) (bv w 46 5) (bv w 41 5) (bv w 31 5))
  | 0x74 => form w ([(46, 5), (41, 5), (31, 5), (28, 3)]) (true) (.rleak (pdOf w) (bv w 46 5) (bv w 41 5) (bv w 31 5) (bv w 28 3))
  | 0x75 => form w ([(22, 6)]) (true) (.rmark (pdOf w) (bv w 22 6))
  | 0x78 => form w ([(46, 5), (41, 5), (36, 5)]) (true) (.uadd (pdOf w) (bv w 46 5) (bv w 41 5) (bv w 36 5))
  | 0x79 => form w ([(46, 5), (41, 5), (36, 5)]) (true) (.umul (pdOf w) (bv w 46 5) (bv w 41 5) (bv w 36 5))
  | 0x7A => form w ([(46, 5), (41, 5)]) (true) (.unar (pdOf w) (bv w 46 5) (bv w 41 5))
  | 0x7B => form w ([(46, 5), (41, 5), (31, 5)]) (true) (.ushr (pdOf w) (bv w 46 5) (bv w 41 5) (bv w 31 5))
  | 0x7C => form w ([(46, 5), (41, 5), (31, 5), (28, 3)]) (true) (.uleak (pdOf w) (bv w 46 5) (bv w 41 5) (bv w 31 5) (bv w 28 3))
  | 0x7D => form w ([(22, 6)]) (true) (.ucheck (pdOf w) (bv w 22 6))
  | _ => .bad 3

/-- The matrix slot map (R102). A reversible drain names KSD and KOR among its fields (R194), and R204 asks 0 of them
only where DRP and RV are both 0: with RV set they are accepted and select nothing. -/
def decodeOpM (w : Nat) : Dec :=
  match w / 2 ^ 56 with
  | 0x00 => if w = 0 then .ok .nop else .bad 4
  | 0x01 => form w ([(50, 1), (42, 6), (29, 3), (35, 7)]) (true) (.mldw (pdOf w) (bv w 50 1) (bv w 42 6) (bv w 29 3) (bv w 35 7))
  | 0x02 => form w ([(50, 1), (42, 6), (29, 3), (35, 7), (20, 1)]) (true) (.mldwt (pdOf w) (bv w 50 1) (bv w 42 6) (bv w 29 3) (bv w 35 7) (fld w 20 1 == 1))
  | 0x03 => if fld w 22 1 == 1 then form w ([(48, 2), (32, 3), (22, 1)]) (true) (.mzeroInt (pdOf w) (bv w 48 2) (bv w 32 3))
    else form w ([(48, 2)]) (true) (.mzero (pdOf w) (bv w 48 2))
  | 0x04 => form w ([(48, 2), (50, 1), (42, 6), (32, 3), (35, 7), (26, 3), (23, 3), (22, 1), (21, 1)]) (true) (.macc (pdOf w) (bv w 48 2) (bv w 50 1) (bv w 42 6) (bv w 32 3) (bv w 35 7) (bv w 26 3) (bv w 23 3) (fld w 22 1 == 1) (fld w 21 1 == 1))
  | 0x05 => form w ([(48, 2), (50, 1), (42, 6), (32, 3), (35, 7), (26, 3), (23, 3), (22, 1)]) (true) (.maccp (pdOf w) (bv w 48 2) (bv w 50 1) (bv w 42 6) (bv w 32 3) (bv w 35 7) (bv w 26 3) (bv w 23 3) (fld w 22 1 == 1))
  | 0x06 => form w ([(48, 2), (42, 6)]) (true) (.mscale (pdOf w) (bv w 48 2) (bv w 42 6))
  | 0x07 => form w ([]) (true) (.mswap (pdOf w))
  | 0x08 => form w ([(50, 1), (42, 6), (29, 3)]) (true) (.mcomp (pdOf w) (bv w 50 1) (bv w 42 6) (bv w 29 3))
  | 0x10 => if fld w 31 1 == 1 && fld w 32 1 == 1 then form w ([(49, 2), (43, 6), (34, 3), (18, 7), (37, 6), (31, 1), (32, 1), (33, 1), (28, 3), (25, 3)]) (fld w 33 1 == 1) (.mdrainUndo (pdOf w) (bv w 49 2) (bv w 43 6) (bv w 34 3) (bv w 18 7) (bv w 37 6))
    else if fld w 31 1 == 1 then form w ([(49, 2), (43, 6), (34, 3), (18, 7), (37, 6), (31, 1), (32, 1), (33, 1), (28, 3), (25, 3)]) (fld w 33 1 == 1) (.mdrainRev (pdOf w) (bv w 49 2) (bv w 43 6) (bv w 34 3) (bv w 18 7) (bv w 37 6))
    else form w ([(49, 2), (43, 6), (34, 3), (18, 7), (33, 1), (32, 1), (31, 1)] ++ (if fld w 33 1 == 1 then [(37, 6)] else []) ++ (if fld w 32 1 == 1 then [(28, 3)] else []) ++ (if fld w 32 1 == 1 then [(25, 3)] else [])) (true) (.mdrain (pdOf w) (bv w 49 2) (bv w 43 6) (bv w 34 3) (bv w 18 7) (fld w 33 1 == 1) (bv w 37 6) (fld w 32 1 == 1) (bv w 28 3) (bv w 25 3))
  | 0x11 => form w ([(49, 2), (43, 6), (18, 7)]) (true) (.msave (pdOf w) (bv w 49 2) (bv w 43 6) (bv w 18 7))
  | 0x12 => form w ([(49, 2), (43, 6), (18, 7)]) (true) (.mrstr (pdOf w) (bv w 49 2) (bv w 43 6) (bv w 18 7))
  | 0x20 => form w ([(24, 12), (48, 3), (42, 6)]) (true) (.mcall (pdOf w) (bv w 24 12) (bv w 48 3) (bv w 42 6))
  | 0x21 => form w ([(48, 3), (42, 6)]) (true) (.mset (pdOf w) (bv w 48 3) (bv w 42 6))
  | 0x22 => form w ([(48, 3), (42, 6), (36, 6), (21, 3)]) (true) (.mgemv (pdOf w) (bv w 48 3) (bv w 42 6) (bv w 36 6) (bv w 21 3))
  | 0x23 => form w ([]) (true) (.mend (pdOf w))
  | _ => .bad 3

/-- The copy slot map (R103). -/
def decodeOpC (w : Nat) : Dec :=
  match w / 2 ^ 56 with
  | 0x00 => if w = 0 then .ok .nop else .bad 4
  | 0x01 => form w ([(33, 6), (27, 6), (21, 6), (12, 9), (39, 12)]) (true) (.xcpy (pdOf w) (bv w 33 6) (bv w 27 6) (bv w 21 6) (bv w 12 9) (bv w 39 12))
  | 0x02 => form w ([(33, 6), (27, 6), (21, 6), (12, 9), (10, 2), (39, 12)]) (fld w 13 8 == 0) (.xfill (pdOf w) (bv w 33 6) (bv w 27 6) (bv w 21 6) (fld w 12 1 == 1) (bv w 10 2) (bv w 39 12))
  | 0x03 => form w ([(33, 6), (27, 6), (21, 6), (12, 9), (10, 2), (39, 12)]) (fld w 13 8 == 0) (.xstore (pdOf w) (bv w 33 6) (bv w 27 6) (bv w 21 6) (fld w 12 1 == 1) (bv w 10 2) (bv w 39 12))
  | 0x04 => form w ([(33, 6), (27, 6), (21, 6), (7, 3), (10, 2), (39, 12)]) (true) (.xtld (pdOf w) (bv w 33 6) (bv w 27 6) (bv w 21 6) (bv w 7 3) (bv w 10 2) (bv w 39 12))
  | 0x05 => form w ([(33, 6), (27, 6), (21, 6), (7, 3), (10, 2), (39, 12)]) (true) (.xtst (pdOf w) (bv w 33 6) (bv w 27 6) (bv w 21 6) (bv w 7 3) (bv w 10 2) (bv w 39 12))
  | 0x06 => form w ([(27, 6), (21, 6), (10, 2), (39, 12)]) (true) (.xrsp (pdOf w) (bv w 27 6) (bv w 21 6) (bv w 10 2) (bv w 39 12))
  | 0x07 => form w ([(27, 6), (21, 6), (10, 2), (39, 12)]) (true) (.xrfl (pdOf w) (bv w 27 6) (bv w 21 6) (bv w 10 2) (bv w 39 12))
  | 0x08 => form w ([(27, 6), (21, 6), (7, 3), (39, 12)]) (true) (.xmig (pdOf w) (bv w 27 6) (bv w 21 6) (bv w 7 3) (bv w 39 12))
  | 0x09 => form w ([(33, 6), (27, 6), (39, 12)]) (fld w 36 3 == 0) (.xscl (pdOf w) (bv w 33 3) (bv w 27 6) (bv w 39 12))
  | 0x10 => form w ([(33, 6), (27, 6), (21, 6), (20, 1), (15, 3), (18, 2), (39, 12)]) (true) (.xwin (pdOf w) (bv w 33 6) (bv w 27 6) (bv w 21 6) (fld w 20 1 == 1) (bv w 15 3) (bv w 18 2) (bv w 39 12))
  | 0x11 => if fld w 20 1 == 1 then form w ([(33, 6), (27, 6), (21, 6), (18, 2), (39, 12), (20, 1)]) (true) (.xrowsSc (pdOf w) (bv w 33 6) (bv w 27 6) (bv w 21 6) (bv w 18 2) (bv w 39 12))
    else form w ([(33, 6), (27, 6), (21, 6), (18, 2), (39, 12)]) (true) (.xrows (pdOf w) (bv w 33 6) (bv w 27 6) (bv w 21 6) (bv w 18 2) (bv w 39 12))
  | 0x20 => form w ([(33, 6), (27, 6), (21, 6), (15, 6), (39, 12), (13, 2)]) (fld w 13 2 == 0) (.xmcast (pdOf w) (bv w 33 6) (bv w 27 6) (bv w 21 6) (bv w 15 6) (bv w 39 12))
  | 0x21 => if fld w 33 6 == 0 && fld w 21 6 == 0 then form w ([(27, 6), (15, 6), (13, 2), (39, 12)]) (true) (.xsendMsg (pdOf w) (bv w 27 6) (bv w 15 6) (bv w 13 2) (bv w 39 12))
    else form w ([(33, 6), (27, 6), (21, 6), (15, 6), (11, 2), (39, 12), (13, 2)]) (fld w 13 2 == 0) (.xsend (pdOf w) (bv w 33 6) (bv w 27 6) (bv w 21 6) (bv w 15 6) (bv w 11 2) (bv w 39 12))
  | 0x22 => form w ([(33, 6), (27, 6), (21, 6), (15, 6), (11, 2), (39, 12), (13, 2)]) (fld w 13 2 == 0) (.xget (pdOf w) (bv w 33 6) (bv w 27 6) (bv w 21 6) (bv w 15 6) (bv w 11 2) (bv w 39 12))
  | 0x23 => form w ([(27, 6), (21, 6), (15, 6), (39, 12), (13, 2)]) (fld w 13 2 == 0) (.xrts (pdOf w) (bv w 27 6) (bv w 21 6) (bv w 15 6) (bv w 39 12))
  | 0x30 => form w ([(17, 4), (33, 6), (27, 6), (21, 6), (39, 12)] ++ (if (AtomOp.ofCode (fld w 17 4)).onCounter then [] else [(15, 2)])) (fld w 17 4 < 13) (.xbat (pdOf w) (AtomOp.ofCode (fld w 17 4)) (bv w 33 6) (bv w 27 6) (bv w 21 6) (bv w 15 2) (bv w 39 12))
  | 0x31 => form w ([(33, 6), (27, 6), (21, 6), (15, 2), (39, 12)]) (true) (.xenq (pdOf w) (bv w 33 6) (bv w 27 6) (bv w 21 6) (bv w 15 2) (bv w 39 12))
  | 0x40 => form w ([(33, 6)]) (true) (.cdrive (pdOf w) (bv w 33 6))
  | 0x41 => form w ([(33, 6), (30, 3)]) (true) (.ccatch (pdOf w) (bv w 33 6) (bv w 30 3))
  | _ => .bad 3

/-- A scan operation (R97, R101): row 0x6_ without `solve`. -/
def Instr.isScan : Instr → Bool
  | .sort .. | .topk .. | .cntoff .. | .pfx .. | .comp .. => true
  | _ => false

/-- Word `n` of a bundle by the map of its slot, with the slot restrictions of R97. -/
def decodeSlot (n w : Nat) : Dec :=
  match n with
  | 2 => decodeOpS w
  | 3 => match decodeOpV w with
    | .ok i => if i.isScan then .bad 6 else .ok i
    | d => d
  | 4 => decodeOpV w
  | 5 => match decodeOpM w with
    | .ok (.mend _) => .bad 6
    | d => d
  | _ => decodeOpC w

/-- A word of the routine store, where `mend` is legal (R102, R210). -/
def decodeRoutine (w : Nat) : Dec := decodeOpM w

/-! ## Bundles -/

/-- The header word's own check (R90, R97). -/
def headBad (h : Nat) : Option Nat :=
  if h / 2 ^ 21 = 0 && (fld h 8 1 == 1 || fld h 9 12 == 0) then none else some 1

/-- The network word's own check (R92, R97). -/
def netBad (w : Nat) : Option Nat :=
  if w / 2 ^ 54 = 0 && fld w 0 9 ≤ 263 && fld w 18 9 ≤ 263 && fld w 36 9 ≤ 263 then none else some 2

/-- Two loads on one network, or two stores (R97 sub-cause 0x7). -/
def netConflict : Instr → Instr → Bool
  | .vld _ _ n _ _ _, .vld _ _ n' _ _ _ => n == n'
  | .vst .., .vst .. => true
  | _, _ => false

/-- Sub-cause of slot word `n`, if it breaks a rule. -/
def slotBad (mgmt : Bool) (n w v0 : Nat) : Option Nat :=
  match decodeSlot n w with
  | .bad b => some b
  | .ok i =>
    if mgmt && (n == 3 || n == 4 || n == 5) && w != 0 then some 6
    else if n = 4 then
      match decodeSlot 3 v0 with
      | .ok j => if netConflict j i then some 7 else none
      | .bad _ => none
    else none

/-- The first word of a bundle that breaks a rule, with its sub-cause (R97). The arguments are words 0 to 7. -/
def bundleBad (mgmt : Bool) (h n s v0 v1 m c0 c1 : Nat) : Option (Nat × Nat) :=
  match headBad h with
  | some b => some (0, b)
  | none =>
  match (if mgmt && n != 0 && (netBad n).isNone then some 6 else netBad n) with
  | some b => some (1, b)
  | none =>
  match slotBad mgmt 2 s 0 with
  | some b => some (2, b)
  | none =>
  match slotBad mgmt 3 v0 0 with
  | some b => some (3, b)
  | none =>
  match slotBad mgmt 4 v1 v0 with
  | some b => some (4, b)
  | none =>
  match slotBad mgmt 5 m 0 with
  | some b => some (5, b)
  | none =>
  match slotBad mgmt 6 c0 0 with
  | some b => some (6, b)
  | none => (slotBad mgmt 7 c1 0).map fun b => (7, b)

/-! ## Bytes (R4) -/

/-- The number held by bytes, the lowest address lowest. -/
def leNat : List Byte → Nat
  | [] => 0
  | b :: l => b.toNat + 256 * leNat l

/-- n bytes of a number, the lowest address lowest. -/
def leBytes (n v : Nat) : List Byte := tab n fun i => BitVec.ofNat 8 (v / 2 ^ (8 * i))

/-! ## The encoder -/

/-- OP, PNEG and PRED (R93). -/
def head (pd : Pd) (op : Nat) : Nat := op * 2 ^ 56 + bit pd.neg * 2 ^ 55 + pd.reg.toNat * 2 ^ 51

/-- A slot word with the given values at the given lowest bits. -/
def word (pd : Pd) (op : Nat) (fs : List (Nat × Nat)) : Nat :=
  head pd op + (fs.map fun f => f.1 * 2 ^ f.2).sum

/-- The slot word of an instruction (R93 to R103); 0 for `nop` and for the rows that are no words. -/
def encode : Instr → Nat
  | .add pd d a b => word pd 0x01 [(d.toNat, 45), (a.toNat, 39), (b.toNat, 33)]
  | .sub pd d a b => word pd 0x02 [(d.toNat, 45), (a.toNat, 39), (b.toNat, 33)]
  | .mul pd d a b => word pd 0x03 [(d.toNat, 45), (a.toNat, 39), (b.toNat, 33)]
  | .mulh pd d a b => word pd 0x04 [(d.toNat, 45), (a.toNat, 39), (b.toNat, 33)]
  | .mulhu pd d a b => word pd 0x05 [(d.toNat, 45), (a.toNat, 39), (b.toNat, 33)]
  | .div pd d a b => word pd 0x06 [(d.toNat, 45), (a.toNat, 39), (b.toNat, 33)]
  | .divu pd d a b => word pd 0x07 [(d.toNat, 45), (a.toNat, 39), (b.toNat, 33)]
  | .rem_ pd d a b => word pd 0x08 [(d.toNat, 45), (a.toNat, 39), (b.toNat, 33)]
  | .remu pd d a b => word pd 0x09 [(d.toNat, 45), (a.toNat, 39), (b.toNat, 33)]
  | .and_ pd d a b => word pd 0x0A [(d.toNat, 45), (a.toNat, 39), (b.toNat, 33)]
  | .or_ pd d a b => word pd 0x0B [(d.toNat, 45), (a.toNat, 39), (b.toNat, 33)]
  | .xor_ pd d a b => word pd 0x0C [(d.toNat, 45), (a.toNat, 39), (b.toNat, 33)]
  | .andn pd d a b => word pd 0x0D [(d.toNat, 45), (a.toNat, 39), (b.toNat, 33)]
  | .min_ pd d a b => word pd 0x0E [(d.toNat, 45), (a.toNat, 39), (b.toNat, 33)]
  | .max_ pd d a b => word pd 0x0F [(d.toNat, 45), (a.toNat, 39), (b.toNat, 33)]
  | .minu pd d a b => word pd 0x10 [(d.toNat, 45), (a.toNat, 39), (b.toNat, 33)]
  | .maxu pd d a b => word pd 0x11 [(d.toNat, 45), (a.toNat, 39), (b.toNat, 33)]
  | .shl pd d a b => word pd 0x12 [(d.toNat, 45), (a.toNat, 39), (b.toNat, 33)]
  | .shr pd d a b => word pd 0x13 [(d.toNat, 45), (a.toNat, 39), (b.toNat, 33)]
  | .sar pd d a b => word pd 0x14 [(d.toNat, 45), (a.toNat, 39), (b.toNat, 33)]
  | .rol pd d a b => word pd 0x15 [(d.toNat, 45), (a.toNat, 39), (b.toNat, 33)]
  | .clz pd d a => word pd 0x16 [(d.toNat, 45), (a.toNat, 39)]
  | .ctz pd d a => word pd 0x17 [(d.toNat, 45), (a.toNat, 39)]
  | .popc pd d a => word pd 0x18 [(d.toNat, 45), (a.toNat, 39)]
  | .sel pd d a b c => word pd 0x19 [(d.toNat, 45), (a.toNat, 39), (b.toNat, 33), (c.toNat, 28)]
  | .cmp pd cc d a b => word pd 0x1A [(cc.code, 28), (d.toNat, 45), (a.toNat, 39), (b.toNat, 33)]
  | .cmpp pd cc d a b => word pd 0x1B [(cc.code, 28), (d.toNat, 45), (a.toNat, 39), (b.toNat, 33)]
  | .addi pd d a imm => word pd 0x20 [(d.toNat, 45), (a.toNat, 39), (imm.toNat, 7)]
  | .andi pd d a imm => word pd 0x21 [(d.toNat, 45), (a.toNat, 39), (imm.toNat, 7)]
  | .ori pd d a imm => word pd 0x22 [(d.toNat, 45), (a.toNat, 39), (imm.toNat, 7)]
  | .xori pd d a imm => word pd 0x23 [(d.toNat, 45), (a.toNat, 39), (imm.toNat, 7)]
  | .shli pd d a n => word pd 0x24 [(d.toNat, 45), (a.toNat, 39), (n.toNat, 7)]
  | .shri pd d a n => word pd 0x25 [(d.toNat, 45), (a.toNat, 39), (n.toNat, 7)]
  | .sari pd d a n => word pd 0x26 [(d.toNat, 45), (a.toNat, 39), (n.toNat, 7)]
  | .muli pd d a imm => word pd 0x27 [(d.toNat, 45), (a.toNat, 39), (imm.toNat, 7)]
  | .cmpi pd cc d a imm => word pd 0x28 [(cc.code, 4), (d.toNat, 45), (a.toNat, 39), (imm.toNat, 7)]
  | .cmppi pd cc d a imm => word pd 0x29 [(cc.code, 4), (d.toNat, 45), (a.toNat, 39), (imm.toNat, 7)]
  | .li pd d imm => word pd 0x2A [(d.toNat, 45), (imm.toNat, 7)]
  | .lui pd d a imm => word pd 0x2B [(d.toNat, 45), (a.toNat, 39), (imm.toNat, 7)]
  | .fmt pd f a imm => word pd 0x2C [(f.toNat, 4), (a.toNat, 39), (imm.toNat, 7)]
  | .br pd disp => word pd 0x30 [(disp.toNat, 7)]
  | .jr pd a => word pd 0x31 [(a.toNat, 39)]
  | .call pd d disp => word pd 0x32 [(d.toNat, 45), (disp.toNat, 7)]
  | .callr pd d a => word pd 0x33 [(d.toNat, 45), (a.toNat, 39)]
  | .ret pd a => word pd 0x34 [(a.toNat, 39)]
  | .loop pd lvl disp => word pd 0x35 [(lvl.toNat, 4), (disp.toNat, 7)]
  | .ldb pd d a off sz sx rv => word pd 0x40 [(d.toNat, 45), (a.toNat, 39), (off.toNat, 15), (sz.toNat, 13), (bit sx, 12), (bit rv, 9)]
  | .stb pd d a off sz rv => word pd 0x41 [(d.toNat, 45), (a.toNat, 39), (off.toNat, 15), (sz.toNat, 13), (bit rv, 9)]
  | .ldt pd d a off sz sx => word pd 0x42 [(d.toNat, 45), (a.toNat, 39), (off.toNat, 15), (sz.toNat, 13), (bit sx, 12)]
  | .stt pd d a off sz => word pd 0x43 [(d.toNat, 45), (a.toNat, 39), (off.toNat, 15), (sz.toNat, 13)]
  | .ldg pd d a off sz sx ac => word pd 0x44 [(d.toNat, 45), (a.toNat, 39), (off.toNat, 15), (sz.toNat, 13), (bit sx, 12), (ac.toNat, 10)]
  | .stg pd d a off sz ac => word pd 0x45 [(d.toNat, 45), (a.toNat, 39), (off.toNat, 15), (sz.toNat, 13), (ac.toNat, 10)]
  | .cadd pd a b => word pd 0x50 [(a.toNat, 39), (b.toNat, 33)]
  | .cwait pd d a b dl => word pd 0x51 [(d.toNat, 45), (a.toNat, 39), (b.toNat, 33), (dl.toNat, 17)]
  | .cwaitArmed pd d a dl => word pd 0x51 [(d.toNat, 45), (a.toNat, 39), (dl.toNat, 17), (1, 12)]
  | .carm pd a b => word pd 0x52 [(a.toNat, 39), (b.toNat, 33)]
  | .cread pd d a => word pd 0x53 [(d.toNat, 45), (a.toNat, 39)]
  | .hgive pd a b => word pd 0x54 [(a.toNat, 39), (b.toNat, 33)]
  | .htake pd a => word pd 0x55 [(a.toNat, 39)]
  | .hquery pd d a => word pd 0x56 [(d.toNat, 45), (a.toNat, 39)]
  | .phase pd scope => word pd 0x57 [(scope.code, 12)]
  | .realign pd => word pd 0x58 []
  | .locq pd d a => word pd 0x59 [(d.toNat, 45), (a.toNat, 39)]
  | .csrr pd d csr => word pd 0x60 [(d.toNat, 45), (csr.toNat, 27)]
  | .csrw pd csr a => word pd 0x61 [(csr.toNat, 27), (a.toNat, 39)]
  | .trap pd code a => word pd 0x70 [(code.toNat, 23), (a.toNat, 39)]
  | .syscRetire pd a => word pd 0x71 [(a.toNat, 39)]
  | .syscCall pd d code a => word pd 0x71 [(d.toNat, 45), (code.toNat, 23), (a.toNat, 39)]
  | .sprd pd d code => word pd 0x78 [(d.toNat, 45), (code.toNat, 23)]
  | .spwr pd code a => word pd 0x79 [(code.toNat, 23), (a.toNat, 39)]
  | .eret pd => word pd 0x7A []
  | .halt pd => word pd 0x7B []
  | .vadd pd d a b => word pd 0x01 [(d.toNat, 46), (a.toNat, 41), (b.toNat, 36)]
  | .vsub pd d a b => word pd 0x02 [(d.toNat, 46), (a.toNat, 41), (b.toNat, 36)]
  | .vmul pd d a b => word pd 0x03 [(d.toNat, 46), (a.toNat, 41), (b.toNat, 36)]
  | .vfma pd d a b c => word pd 0x04 [(d.toNat, 46), (a.toNat, 41), (b.toNat, 36), (c.toNat, 31)]
  | .vfnma pd d a b c => word pd 0x05 [(d.toNat, 46), (a.toNat, 41), (b.toNat, 36), (c.toNat, 31)]
  | .vmin pd d a b => word pd 0x06 [(d.toNat, 46), (a.toNat, 41), (b.toNat, 36)]
  | .vmax pd d a b => word pd 0x07 [(d.toNat, 46), (a.toNat, 41), (b.toNat, 36)]
  | .vabs pd d a => word pd 0x08 [(d.toNat, 46), (a.toNat, 41)]
  | .vneg pd d a => word pd 0x09 [(d.toNat, 46), (a.toNat, 41)]
  | .vcmp pd cc d a b => word pd 0x0A [(cc.code, 23), (d.toNat, 19), (a.toNat, 41), (b.toNat, 36)]
  | .fclass pd d a => word pd 0x0B [(d.toNat, 46), (a.toNat, 41)]
  | .cvt pd kind mode d a f => word pd 0x0C [(kind.code, 26), (mode.code, 23), (d.toNat, 46), (a.toNat, 41), (f.toNat, 28)]
  | .viadd pd d a b => word pd 0x10 [(d.toNat, 46), (a.toNat, 41), (b.toNat, 36)]
  | .visub pd d a b => word pd 0x11 [(d.toNat, 46), (a.toNat, 41), (b.toNat, 36)]
  | .vimul pd d a b => word pd 0x12 [(d.toNat, 46), (a.toNat, 41), (b.toNat, 36)]
  | .vimin pd d a b => word pd 0x13 [(d.toNat, 46), (a.toNat, 41), (b.toNat, 36)]
  | .vimax pd d a b => word pd 0x14 [(d.toNat, 46), (a.toNat, 41), (b.toNat, 36)]
  | .viminu pd d a b => word pd 0x15 [(d.toNat, 46), (a.toNat, 41), (b.toNat, 36)]
  | .vimaxu pd d a b => word pd 0x16 [(d.toNat, 46), (a.toNat, 41), (b.toNat, 36)]
  | .vand pd d a b => word pd 0x17 [(d.toNat, 46), (a.toNat, 41), (b.toNat, 36)]
  | .vor pd d a b => word pd 0x18 [(d.toNat, 46), (a.toNat, 41), (b.toNat, 36)]
  | .vxor pd d a b => word pd 0x19 [(d.toNat, 46), (a.toNat, 41), (b.toNat, 36)]
  | .vshl pd d a b => word pd 0x1A [(d.toNat, 46), (a.toNat, 41), (b.toNat, 36)]
  | .vshr pd d a b => word pd 0x1B [(d.toNat, 46), (a.toNat, 41), (b.toNat, 36)]
  | .vsar pd d a b => word pd 0x1C [(d.toNat, 46), (a.toNat, 41), (b.toNat, 36)]
  | .vicmp pd cc d a b => word pd 0x1D [(cc.code, 23), (d.toNat, 19), (a.toNat, 41), (b.toNat, 36)]
  | .vsel pd d a b ps => word pd 0x1E [(d.toNat, 46), (a.toNat, 41), (b.toNat, 36), (ps.toNat, 19)]
  | .vexp2 pd d a => word pd 0x20 [(d.toNat, 46), (a.toNat, 41)]
  | .vlog2 pd d a => word pd 0x21 [(d.toNat, 46), (a.toNat, 41)]
  | .vrcp pd d a => word pd 0x22 [(d.toNat, 46), (a.toNat, 41)]
  | .vrsqrt pd d a => word pd 0x23 [(d.toNat, 46), (a.toNat, 41)]
  | .vsqrt pd d a => word pd 0x24 [(d.toNat, 46), (a.toNat, 41)]
  | .vsin pd d a => word pd 0x25 [(d.toNat, 46), (a.toNat, 41)]
  | .vcos pd d a => word pd 0x26 [(d.toNat, 46), (a.toNat, 41)]
  | .vtanh pd d a => word pd 0x27 [(d.toNat, 46), (a.toNat, 41)]
  | .vsigm pd d a => word pd 0x28 [(d.toNat, 46), (a.toNat, 41)]
  | .vgelu pd d a => word pd 0x29 [(d.toNat, 46), (a.toNat, 41)]
  | .verf pd d a => word pd 0x2A [(d.toNat, 46), (a.toNat, 41)]
  | .rotr pd d a s imm => word pd 0x30 [(d.toNat, 46), (a.toNat, 41), (s.toNat, 35), (imm.toNat, 19)]
  | .rotc pd d a s imm => word pd 0x31 [(d.toNat, 46), (a.toNat, 41), (s.toNat, 35), (imm.toNat, 19)]
  | .bcr pd d a s imm => word pd 0x32 [(d.toNat, 46), (a.toNat, 41), (s.toNat, 35), (imm.toNat, 19)]
  | .bcc pd d a s imm => word pd 0x33 [(d.toNat, 46), (a.toNat, 41), (s.toNat, 35), (imm.toNat, 19)]
  | .redr pd op d a => word pd 0x34 [(op.code, 11), (d.toNat, 46), (a.toNat, 41)]
  | .redc pd op d a => word pd 0x35 [(op.code, 11), (d.toNat, 46), (a.toNat, 41)]
  | .vsplat pd d s imm => word pd 0x36 [(d.toNat, 46), (s.toNat, 35), (imm.toNat, 19)]
  | .vsplatQ pd d q => word pd 0x36 [(d.toNat, 46), (q.toNat, 19), (1, 11)]
  | .vext pd sx d a s imm => word pd 0x37 [(bit sx, 11), (d.toNat, 46), (a.toNat, 41), (s.toNat, 35), (imm.toNat, 19)]
  | .vextQ pd d q => word pd 0x37 [(d.toNat, 46), (q.toNat, 19), (2, 11)]
  | .vins pd d a s idx => word pd 0x38 [(d.toNat, 46), (a.toNat, 41), (s.toNat, 35), (idx.toNat, 19)]
  | .pcnt pd d a s imm => word pd 0x39 [(d.toNat, 46), (a.toNat, 41), (s.toNat, 35), (imm.toNat, 19)]
  | .ppop pd d a => word pd 0x3A [(d.toNat, 46), (a.toNat, 41)]
  | .pand pd d a b => word pd 0x40 [(d.toNat, 46), (a.toNat, 41), (b.toNat, 36)]
  | .por pd d a b => word pd 0x41 [(d.toNat, 46), (a.toNat, 41), (b.toNat, 36)]
  | .pxor pd d a b => word pd 0x42 [(d.toNat, 46), (a.toNat, 41), (b.toNat, 36)]
  | .pandn pd d a b => word pd 0x43 [(d.toNat, 46), (a.toNat, 41), (b.toNat, 36)]
  | .pnot pd d a => word pd 0x44 [(d.toNat, 46), (a.toNat, 41)]
  | .vld pd d net row f s => word pd 0x50 [(d.toNat, 46), (bit net, 45), (row.toNat, 39), (f.toNat, 36), (s.toNat, 28)]
  | .vst pd d row f s => word pd 0x51 [(d.toNat, 46), (row.toNat, 39), (f.toNat, 36), (s.toNat, 28)]
  | .vldt pd d s col => word pd 0x52 [(d.toNat, 46), (s.toNat, 28), (bit col, 27)]
  | .vstt pd d s col => word pd 0x53 [(d.toNat, 46), (s.toNat, 28), (bit col, 27)]
  | .vldg pd d f ac s => word pd 0x54 [(d.toNat, 46), (f.toNat, 36), (ac.toNat, 34), (s.toNat, 28)]
  | .vldgFf pd d cnt f ac s => word pd 0x54 [(d.toNat, 46), (cnt.toNat, 39), (f.toNat, 36), (ac.toNat, 34), (s.toNat, 28), (1, 26)]
  | .vstg pd d f ac s => word pd 0x55 [(d.toNat, 46), (f.toNat, 36), (ac.toNat, 34), (s.toNat, 28)]
  | .solve pd q d a cnt slot => word pd 0x60 [(bit q, 40), (d.toNat, 46), (a.toNat, 41), (cnt.toNat, 33), (slot.toNat, 20)]
  | .sort pd kt asc d a cnt qd qn => word pd 0x61 [(kt.code, 17), (bit asc, 19), (d.toNat, 46), (a.toNat, 41), (cnt.toNat, 33), (bit qd, 40), (bit qn, 39)]
  | .topk pd kt asc d a cnt qd qn k => word pd 0x62 [(kt.code, 17), (bit asc, 19), (d.toNat, 46), (a.toNat, 41), (cnt.toNat, 33), (bit qd, 40), (bit qn, 39), (k.toNat, 23)]
  | .cntoff pd d a cnt qd qn k => word pd 0x63 [(d.toNat, 46), (a.toNat, 41), (cnt.toNat, 33), (bit qd, 40), (bit qn, 39), (k.toNat, 23)]
  | .pfx pd kt exc d a cnt qd qn => word pd 0x64 [(kt.code, 17), (bit exc, 19), (d.toNat, 46), (a.toNat, 41), (cnt.toNat, 33), (bit qd, 40), (bit qn, 39)]
  | .comp pd kt d a cnt qd qn => word pd 0x65 [(kt.code, 17), (d.toNat, 46), (a.toNat, 41), (cnt.toNat, 33), (bit qd, 40), (bit qn, 39)]
  | .radd pd d a b => word pd 0x70 [(d.toNat, 46), (a.toNat, 41), (b.toNat, 36)]
  | .rmul pd d a b => word pd 0x71 [(d.toNat, 46), (a.toNat, 41), (b.toNat, 36)]
  | .rnar pd d a => word pd 0x72 [(d.toNat, 46), (a.toNat, 41)]
  | .rshr pd d a n => word pd 0x73 [(d.toNat, 46), (a.toNat, 41), (n.toNat, 31)]
  | .rleak pd d a n f => word pd 0x74 [(d.toNat, 46), (a.toNat, 41), (n.toNat, 31), (f.toNat, 28)]
  | .rmark pd s => word pd 0x75 [(s.toNat, 22)]
  | .uadd pd d a b => word pd 0x78 [(d.toNat, 46), (a.toNat, 41), (b.toNat, 36)]
  | .umul pd d a b => word pd 0x79 [(d.toNat, 46), (a.toNat, 41), (b.toNat, 36)]
  | .unar pd d a => word pd 0x7A [(d.toNat, 46), (a.toNat, 41)]
  | .ushr pd d a n => word pd 0x7B [(d.toNat, 46), (a.toNat, 41), (n.toNat, 31)]
  | .uleak pd d a n f => word pd 0x7C [(d.toNat, 46), (a.toNat, 41), (n.toNat, 31), (f.toNat, 28)]
  | .ucheck pd s => word pd 0x7D [(s.toNat, 22)]
  | .mldw pd wb a f rows => word pd 0x01 [(wb.toNat, 50), (a.toNat, 42), (f.toNat, 29), (rows.toNat, 35)]
  | .mldwt pd wb a f rows col => word pd 0x02 [(wb.toNat, 50), (a.toNat, 42), (f.toNat, 29), (rows.toNat, 35), (bit col, 20)]
  | .mzero pd acc => word pd 0x03 [(acc.toNat, 48)]
  | .mzeroInt pd acc f => word pd 0x03 [(acc.toNat, 48), (f.toNat, 32), (1, 22)]
  | .macc pd acc wb a f rows xa xb sc sp => word pd 0x04 [(acc.toNat, 48), (wb.toNat, 50), (a.toNat, 42), (f.toNat, 32), (rows.toNat, 35), (xa.toNat, 26), (xb.toNat, 23), (bit sc, 22), (bit sp, 21)]
  | .maccp pd acc wb a f rows xa xb sc => word pd 0x05 [(acc.toNat, 48), (wb.toNat, 50), (a.toNat, 42), (f.toNat, 32), (rows.toNat, 35), (xa.toNat, 26), (xb.toNat, 23), (bit sc, 22)]
  | .mscale pd acc a => word pd 0x06 [(acc.toNat, 48), (a.toNat, 42)]
  | .mswap pd => word pd 0x07 []
  | .mcomp pd wb a f => word pd 0x08 [(wb.toNat, 50), (a.toNat, 42), (f.toNat, 29)]
  | .mdrain pd acc a f rows res r drp ks ko => word pd 0x10 [(acc.toNat, 49), (a.toNat, 43), (f.toNat, 34), (rows.toNat, 18), (bit res, 33), (r.toNat, 37), (bit drp, 32), (ks.toNat, 28), (ko.toNat, 25)]
  | .mdrainRev pd acc a f rows r => word pd 0x10 [(acc.toNat, 49), (a.toNat, 43), (f.toNat, 34), (rows.toNat, 18), (r.toNat, 37), (1, 31), (1, 33)]
  | .mdrainUndo pd acc a f rows r => word pd 0x10 [(acc.toNat, 49), (a.toNat, 43), (f.toNat, 34), (rows.toNat, 18), (r.toNat, 37), (1, 31), (1, 32), (1, 33)]
  | .msave pd acc a rows => word pd 0x11 [(acc.toNat, 49), (a.toNat, 43), (rows.toNat, 18)]
  | .mrstr pd acc a rows => word pd 0x12 [(acc.toNat, 49), (a.toNat, 43), (rows.toNat, 18)]
  | .mcall pd entry k a => word pd 0x20 [(entry.toNat, 24), (k.toNat, 48), (a.toNat, 42)]
  | .mset pd k a => word pd 0x21 [(k.toNat, 48), (a.toNat, 42)]
  | .mgemv pd k a b f => word pd 0x22 [(k.toNat, 48), (a.toNat, 42), (b.toNat, 36), (f.toNat, 21)]
  | .mend pd => word pd 0x23 []
  | .xcpy pd d a n pat dly => word pd 0x01 [(d.toNat, 33), (a.toNat, 27), (n.toNat, 21), (pat.toNat, 12), (dly.toNat, 39)]
  | .xfill pd d a n h ac dly => word pd 0x02 [(d.toNat, 33), (a.toNat, 27), (n.toNat, 21), (bit h, 12), (ac.toNat, 10), (dly.toNat, 39)]
  | .xstore pd d a n h ac dly => word pd 0x03 [(d.toNat, 33), (a.toNat, 27), (n.toNat, 21), (bit h, 12), (ac.toNat, 10), (dly.toNat, 39)]
  | .xtld pd d a n f ac dly => word pd 0x04 [(d.toNat, 33), (a.toNat, 27), (n.toNat, 21), (f.toNat, 7), (ac.toNat, 10), (dly.toNat, 39)]
  | .xtst pd d a n f ac dly => word pd 0x05 [(d.toNat, 33), (a.toNat, 27), (n.toNat, 21), (f.toNat, 7), (ac.toNat, 10), (dly.toNat, 39)]
  | .xrsp pd a n ac dly => word pd 0x06 [(a.toNat, 27), (n.toNat, 21), (ac.toNat, 10), (dly.toNat, 39)]
  | .xrfl pd a n ac dly => word pd 0x07 [(a.toNat, 27), (n.toNat, 21), (ac.toNat, 10), (dly.toNat, 39)]
  | .xmig pd a n kind dly => word pd 0x08 [(a.toNat, 27), (n.toNat, 21), (kind.toNat, 7), (dly.toNat, 39)]
  | .xscl pd x a dly => word pd 0x09 [(x.toNat, 33), (a.toNat, 27), (dly.toNat, 39)]
  | .xwin pd d a map cm f ac dly => word pd 0x10 [(d.toNat, 33), (a.toNat, 27), (map.toNat, 21), (bit cm, 20), (f.toNat, 15), (ac.toNat, 18), (dly.toNat, 39)]
  | .xrows pd d a map ac dly => word pd 0x11 [(d.toNat, 33), (a.toNat, 27), (map.toNat, 21), (ac.toNat, 18), (dly.toNat, 39)]
  | .xrowsSc pd d a map ac dly => word pd 0x11 [(d.toNat, 33), (a.toNat, 27), (map.toNat, 21), (ac.toNat, 18), (dly.toNat, 39), (1, 20)]
  | .xmcast pd d a n ctr dly => word pd 0x20 [(d.toNat, 33), (a.toNat, 27), (n.toNat, 21), (ctr.toNat, 15), (dly.toNat, 39)]
  | .xsend pd d a n ctr ac dly => word pd 0x21 [(d.toNat, 33), (a.toNat, 27), (n.toNat, 21), (ctr.toNat, 15), (ac.toNat, 11), (dly.toNat, 39)]
  | .xsendMsg pd a rcv ch dly => word pd 0x21 [(a.toNat, 27), (rcv.toNat, 15), (ch.toNat, 13), (dly.toNat, 39)]
  | .xget pd d a n ctr ac dly => word pd 0x22 [(d.toNat, 33), (a.toNat, 27), (n.toNat, 21), (ctr.toNat, 15), (ac.toNat, 11), (dly.toNat, 39)]
  | .xrts pd a n ctr dly => word pd 0x23 [(a.toNat, 27), (n.toNat, 21), (ctr.toNat, 15), (dly.toNat, 39)]
  | .xbat pd aop a n ctr ac dly => word pd 0x30 [(aop.code, 17), (a.toNat, 33), (n.toNat, 27), (ctr.toNat, 21), (ac.toNat, 15), (dly.toNat, 39)]
  | .xenq pd a q ctr ac dly => word pd 0x31 [(a.toNat, 33), (q.toNat, 27), (ctr.toNat, 21), (ac.toNat, 15), (dly.toNat, 39)]
  | .cdrive pd a => word pd 0x40 [(a.toNat, 33)]
  | .ccatch pd a pos => word pd 0x41 [(a.toNat, 33), (pos.toNat, 30)]
  | _ => 0

/-- The words of a bundle, as a number of 512 bits (R4, R89). -/
def bundleOf (ws : List Nat) : Nat := ws.foldr (fun w acc => w % 2 ^ 64 + 2 ^ 64 * acc) 0

/-! ## One instruction of the opcode table -/

/-- What the decoder reads from the bits of one row: a lone 64-bit word is a word of the scalar slot; longer bits
are a bundle, of which the first slot word that is not zero is the row's. An all-zero bundle is the idle bundle of
R99. -/
def decodeTableWord (nbits w : Nat) : Option Instr :=
  if nbits ≤ 64 then
    match decodeSlot 2 (w % 2 ^ 64) with
    | .ok i => some i
    | .bad _ => none
  else
    let at' (n : Nat) : Nat := w / 2 ^ (64 * n) % 2 ^ 64
    if w % 2 ^ 512 = 0 then some (.idleBundle (.core 0 0))
    else
      match bundleBad false (at' 0) (at' 1) (at' 2) (at' 3) (at' 4) (at' 5) (at' 6) (at' 7) with
      | some _ => none
      | none =>
        match [2, 3, 4, 5, 6, 7].find? (fun n => at' n != 0) with
        | none => some .nop
        | some n => match decodeSlot n (at' n) with
          | .ok i => some i
          | .bad _ => none

end Sys2Proof
end

