-- ==== Sys2Proof/Machine/State.lean ====
section
/-!
DEFINITION. The state of one Skadelyn package, as plain data, the ways a step can stop, and the state after
reset. Each field's docstring names the rule of the spec that gives it, and its reset value.
-/

namespace Sys2Proof.Machine

/-- A byte memory in canonical form: addresses strictly rising, no listed byte 0. An unlisted byte reads 0
(R65 for the core's arrays, R246 for G; DESIGN CHOICE, log 7, for H). -/
abbrev Mem := List Host.Cell

/-- The canonical form of a memory. -/
def Mem.wf : Mem → Bool
  | [] => true
  | [c] => c.2 ≠ 0
  | c :: d :: m => c.2 ≠ 0 && c.1 < d.1 && Mem.wf (d :: m)

/-- A vector register: 1,024 elements of 32 bits (R8, R63). -/
abbrev VReg := Vector (BitVec 32) 1024

/-! ## Core-private structures -/

/-- A Carousel pattern (R73): switch bits, group selects, and for a dynamic slot the row offsets and the echo
vector. -/
structure Pattern where
  /-- SW, bit s × 512 + j -/
  sw : BitVec 9728
  /-- GS[b] at [2b+1:2b] -/
  gs : BitVec 2048
  /-- OFF[b] at [9b+8:9b]; 0 in a static pattern -/
  off : BitVec 9216
  /-- EV[e] -/
  ev : BitVec 1024
  /-- ES[e] at [10e+9:10e] -/
  es : BitVec 10240
  deriving DecidableEq, Repr

/-- The identity pattern of pattern 0 (R75). -/
def Pattern.identity : Pattern := { sw := 0, gs := 0, off := 0, ev := 0, es := 0 }

/-- An accumulator (R58, R193, R208). An element is the 34-bit VAL image of R208: in float mode sign, 10-bit
exponent with bias 511 and 23-bit fraction; in integer mode bit 32 the NaN marker and [31:0] the INT32. -/
structure Acc where
  /-- integer mode -/
  int : Bool
  /-- the activation fraction F, 0 or 9 -/
  frac : BitVec 5
  /-- row scale codes RS -/
  rs : Vector (BitVec 8) 128
  /-- column scale codes CS -/
  cs : Vector (BitVec 8) 128
  el : Vector (Vector (BitVec 34) 128) 128
  deriving DecidableEq, Repr

/-- Every element +0, float mode (R63, R193); RS and CS 127 (R203, R208). -/
def Acc.zero : Acc :=
  { int := false, frac := 0, rs := gen 128 fun _ => 127, cs := gen 128 fun _ => 127,
    el := gen 128 fun _ => gen 128 fun _ => 0 }

/-- A weight buffer (R192). A cell holds the decoded value, as an FP32 code for the float formats and as an
INT32 for INT8 and BPI; `none` is a position that a sparse tile drops. Rows at or above KL are empty. -/
structure WBuf where
  /-- WF: the format code of R49 -/
  wf : BitVec 4
  /-- SGN of the cells -/
  sgn : Bool
  /-- KP: planes read -/
  kp : Nat
  /-- KL: loaded rows -/
  kl : Nat
  /-- SPA: a 2:4-compressed tile of depth 256 -/
  spa : Bool
  cells : List (List (Option (BitVec 32)))
  deriving DecidableEq, Repr

/-- The launch value of a weight buffer (R63, R192): BF16 zeros, KP 8, KL 128, SPA 0. -/
def WBuf.launch : WBuf :=
  { wf := 1, sgn := false, kp := 8, kl := 128, spa := false, cells := tab 128 fun _ => tab 128 fun _ => some 0 }

/-- One loop level's state beside LOOPC (R120). -/
structure Level where
  active : Bool
  start : Nat
  fin : Nat
  deriving DecidableEq, Repr

/-- A store of the core in its egress buffer or its store path (R125, R167, R248). -/
structure Egress where
  /-- virtual G address, bytes stored -/
  va : Nat
  bytes : List (Option (BitVec 8))
  ac : BitVec 2
  /-- VCC advance of the issue; the word and bundle that stored -/
  iss : Nat
  word : Nat
  baddr : Nat
  /-- entries of the buffer it takes (R125, R167) -/
  cap : Nat
  /-- handed to the store path by a `phase.core` -/
  inPath : Bool
  /-- a failed check of R335 found when it was drained -/
  failed : Option (BitVec 8)
  /-- published to the core by the `phase.core` that handed it over (R247) -/
  pub : Bool := false
  /-- its place in egress order among the entries of its phase; its place in the list is that of coherence order where
  stores of several alias classes overlap (R248, R253) -/
  ord : Nat := 0
  /-- number of the phase that handed it over, among those still in the path (R253) -/
  ph : Nat := 0
  /-- a store that comes after it in coherence order has been accepted over some of its bytes, which are none here (R246,
  R253) -/
  cut : Bool := false
  deriving DecidableEq, Repr

/-- Progress of an access to G that needs translation (R123, R165, R336). -/
inductive FetchSt where
  | walking
  | ready (data : List (BitVec 8))
  | failed (cause sub : BitVec 8) (elem : Nat) (addr : Nat)
  | arrived (data : List (BitVec 8))
  deriving DecidableEq, Repr

/-- What an outstanding access to G is for. -/
inductive FetchKind where
  /-- `ldg` into s[d], `sz` bytes, sign-extended when `sx` (R123) -/
  | ldg (d : BitVec 6) (sz : Nat) (sx : Bool)
  /-- `vldg` or `vldg.ff` into v[d] through descriptor value `f` (R165, R166) -/
  | vldg (d : BitVec 5) (f : BitVec 32) (mask : BitVec 1024) (cnt : Option (BitVec 6))
  /-- `locq` into s[d] (R135) -/
  | locq (d : BitVec 6)
  /-- the translation of a `vstg` at issue+6 (R167) -/
  | vstg (f : BitVec 32) (mask : BitVec 1024)
  deriving DecidableEq, Repr

/-- An outstanding access of the core's scalar or vector slots to G. -/
structure Fetch where
  id : Nat
  kind : FetchKind
  va : Nat
  ac : BitVec 2
  iss : Nat
  due : Nat
  word : Nat
  baddr : Nat
  /-- the snapshot in force at issue (R249) -/
  snap : Mem
  /-- the core's own stores then in its egress buffer and store path (R125) -/
  own : List Egress
  st : FetchSt
  deriving DecidableEq, Repr

/-- A pass running in the matrix array (R199 to R202), with the operands it read at issue. -/
structure Pass where
  id : Nat
  iss : Nat
  int : Bool
  acc : Nat
  wbi : Nat
  wb : WBuf
  addr : Nat
  fda : BitVec 32
  rows : Nat
  /-- x[XSA], x[XSA+1], x[XSB], x[XSB+1] where SCL = 1 -/
  scale : Option (List (BitVec 8) × List (BitVec 8))
  lanes : Nat
  /-- last entry cycle -/
  lastEntry : Nat
  deriving DecidableEq, Repr

/-- A drain, save or restore of an accumulator that still has rows due (R204 to R208). -/
structure Drain where
  id : Nat
  iss : Nat
  acc : Nat
  /-- 0 `mdrain`, 1 `.rev`, 2 `.undo`, 3 `msave`, 4 `mrstr` -/
  mode : Nat
  addr : Nat
  res : Option Nat
  f : BitVec 32
  rows : Nat
  drp : Option (BitVec 64 × BitVec 64)
  /-- stack position of a drain record, its tag, and the record that an undo popped -/
  stk : Nat
  tag : BitVec 128
  popped : List (BitVec 8)
  deriving DecidableEq, Repr

/-- A weight load in progress (R196 to R198), with the rows read so far. -/
structure WLoad where
  iss : Nat
  wbi : Nat
  /-- 0 `mldw`, 1 `mldwt`, 2 `mcomp` -/
  mode : Nat
  addr : Nat
  f : BitVec 32
  rows : Nat
  col : Bool
  lastRead : Nat
  got : List (List (BitVec 32))
  codes : List (BitVec 8)
  flags : BitVec 7
  deriving DecidableEq, Repr

/-- An outstanding `mgemv` (R212). -/
structure Gemv where
  id : Nat
  iss : Nat
  baddr : Nat
  rem : Bool
  land : Nat
  nb : Nat
  k : Nat
  ctr : BitVec 32
  a : Nat
  bva : Nat
  f : BitVec 32
  /-- blocks of A read so far, as bytes -/
  abytes : List (BitVec 8)
  /-- store index of the routine word it came from (R210) -/
  rtn : Option Nat := none
  /-- blocks of the product that are here -/
  arrived : Nat
  snap : Mem
  own : List Egress
  st : FetchSt
  next : Nat
  deriving DecidableEq, Repr

/-- What a copy command does, with its operands as read at issue (R220). -/
inductive CopyOp where
  | xcpy (dst src n : Nat) (pat : Nat)
  | xfill (h : Bool) (dst src len : Nat)
  | xstore (h : Bool) (dst src len : Nat)
  | xtld (t ga : Nat) (shp : BitVec 64) (f : BitVec 32)
  | xtst (ga t : Nat) (shp : BitVec 64) (f : BitVec 32)
  | xrsp (ga seg : Nat)
  | xrfl (ga seg : Nat)
  | xmig (ga len : Nat) (far : Bool)
  | xscl (x : Nat) (src : Nat)
  | xwin (dst src map : Nat) (cm : Bool) (f : BitVec 32)
  | xrows (sc : Bool) (dst src map : Nat)
  | xmcast (dst : BitVec 64) (src len : Nat) (ctr : Option (BitVec 32))
  | xsend (dst src len : Nat) (ctr : BitVec 64)
  | xsendMsg (src : Nat) (rcv : BitVec 64) (ch : Nat)
  | xget (dst src len : Nat) (ctr : BitVec 64)
  | xrts (target : BitVec 64) (ports : BitVec 16) (ctr : BitVec 32)
  | xbat (op : AtomOp) (src n : Nat) (ctr : Option (BitVec 32))
  | xenq (src q : Nat) (ctr : BitVec 32)
  deriving DecidableEq, Repr

/-- One piece of a copy command that has left or will reach the core (R217). -/
structure Piece where
  idx : Nat
  /-- the bytes fetched and buffered -/
  data : Option (List (BitVec 8))
  /-- a walk for it is unfinished; a cached entry may serve it (R339) -/
  walking : Bool
  cached : Bool
  failed : Option (BitVec 8 × BitVec 8 × Nat)
  deriving DecidableEq, Repr

/-- A copy command accepted by an engine and not yet finished (R214, R215, R219). -/
structure Cmd where
  id : Nat
  op : CopyOp
  /-- word 6 or 7, bundle address, issue and start cycle -/
  word : Nat
  baddr : Nat
  iss : Nat
  start : Nat
  ac : BitVec 2
  started : Bool
  /-- the snapshot in force in the start cycle (R249) -/
  snap : Mem
  own : List Egress
  /-- progress index: the next piece not yet performed -/
  next : Nat
  /-- number of pieces, once known -/
  total : Nat
  pieces : List Piece
  /-- bytes of maps and lists, or of a segment, read so far (R226, R227, R232) -/
  aux : List (BitVec 8)
  /-- the pattern of an `xcpy` as it stood in S, and whether it is dynamic (R221) -/
  pat : Option (Pattern × Bool)
  /-- entries of the store buffer not yet accepted: piece, address, bytes (R217) -/
  buf : List (Nat × Nat × List (BitVec 8))
  /-- old values to be returned to q7, by list index (R232) -/
  rets : List (Nat × BitVec 64)
  /-- writes handed out and not yet accepted or acknowledged, counter adds not yet applied -/
  outstanding : Nat
  /-- a failure not tied to a due cycle: cause, sub-cause, progress index, address; and whether it was taken -/
  failed : Option (BitVec 8 × BitVec 8 × Nat × Nat)
  reported : Bool
  /-- level and MC_XASID at issue, for a management core's command (R403) -/
  xasid : BitVec 64
  /-- partition of the issuing context, whose ring takes a hint (R344) -/
  part : Nat
  deriving DecidableEq, Repr

/-- What a home engine reports of a `cwait` or `cread` (R129, R131). -/
inductive CtrRep where
  | value (v : BitVec 64)
  | orphan
  | overrun (target : BitVec 64) (ovr : BitVec 32)
  /-- `.armed` found the counter idle: its TARGET and VALUE -/
  | notArmed (target v : BitVec 64)
  /-- the home die of the counter of a `cread` was reset (R131) -/
  | homeLost
  /-- the deadline expired with this value and target (R129) -/
  | expired (target v : BitVec 64)
  deriving DecidableEq, Repr

/-- A fence marker that is awaited (R355): of a package's die, the plane, the die and the marker's SEQ; of another package, the
message that carries it. -/
structure Mark where
  out : Option Nat
  plane : Nat
  die : Nat
  seq : BitVec 16
  /-- the wall cycle in which the marker was ready -/
  sent : Nat
  deriving DecidableEq, Repr

/-- A wait that holds the agent (R129, R131, R133). -/
inductive WaitKind where
  | target (v : BitVec 64)
  | armed
  | read
  | phase (scope : Nat)
  deriving DecidableEq, Repr

structure Wait where
  kind : WaitKind
  d : BitVec 6
  handle : BitVec 32
  /-- DL, for the fresh deadline of a repeated wait -/
  dl : BitVec 16
  /-- frame ticks still to pass -/
  ticks : Nat
  baddr : Nat
  /-- the wall cycle in which the count of ticks began -/
  since : Nat
  /-- the report as the engine formed it, and once it is here -/
  formed : Option CtrRep
  report : Option CtrRep
  /-- VCC advance of the issue -/
  iss : Nat
  /-- identifier of the counter operation it awaits -/
  op : Nat
  /-- markers a phase still waits for (R355) -/
  markers : List Mark
  /-- its markers have left -/
  sent : Bool := false
  deriving DecidableEq, Repr

/-- An operation's later effect, with everything it needs that was read at issue (R19). -/
inductive Act where
  | wS (d : BitVec 6) (v : BitVec 64)
  | wP (d : BitVec 4) (v : BitVec 1024)
  | wV (d : BitVec 5) (v : VReg) (mask : BitVec 1024)
  | wF (f : BitVec 3) (v : BitVec 32)
  | wK (k : BitVec 3) (v : BitVec 64)
  | wX (x : BitVec 3) (v : List (BitVec 8))
  /-- flags only (R57) -/
  | flagsOnly
  | csrFlags (v : BitVec 64)
  /-- a `csrr` of FLAGS takes the value at the end of its issue cycle (R57) -/
  | readFlags (d : BitVec 6)
  | csrRsp (v : BitVec 64)
  | csrQstat (v : BitVec 64)
  | loopc (n : BitVec 3) (v : BitVec 32)
  | top (v : Nat)
  | res (seg : Nat) (b : Bool)
  | holder (owner n new : Nat)
  | sys (code : BitVec 16) (v : BitVec 64) (lvl : BitVec 2)
  /-- bank and array cycles of the scalar slot (R122); `c` the ring core, `none` local -/
  | ldb (d : BitVec 6) (a size : Nat) (sx : Bool) (c : Option Nat)
  | stb (v : BitVec 64) (a size : Nat) (c : Option Nat)
  | ldt (d : BitVec 6) (a size : Nat) (sx : Bool)
  | stt (v : BitVec 64) (a size : Nat)
  /-- bank and array cycles of the vector slots (R162, R164) -/
  | vld (d : BitVec 5) (pat : Pattern) (dyn : Bool) (row : Nat) (f : BitVec 32) (sub : Nat) (mask : BitVec 1024)
  | vst (v : VReg) (pat : Pattern) (dyn : Bool) (row : Nat) (f : BitVec 32) (sub : Nat) (mask : BitVec 1024)
  | vldt (d : BitVec 5) (j : Nat) (col : Bool) (mask : BitVec 1024)
  | vstt (v : VReg) (j : Nat) (col : Bool) (mask : BitVec 1024)
  | dyn (slot : BitVec 3) (p : Pattern)
  | push (q : Nat) (e : List (BitVec 32))
  /-- a `phase.core` of the cycle before: hands over the egress entries, renews the snapshot (R248, R249) -/
  | phaseCore
  | stk (a : Nat) (bytes : List (BitVec 8))
  /-- matrix rows -/
  | wRow (k : Nat)
  | wDone (wbi : Nat) (w : WBuf)
  | aRow (pass i : Nat)
  | accRow (pass i : Nat) (a : List (BitVec 32))
  | mzero (acc : Nat) (a : Acc)
  | mscale (acc : Nat) (s : Int)
  | mtags (acc : Nat) (rs cs : List (BitVec 8))
  | mswap
  | dAcc (drain j : Nat)
  | dRes (drain j : Nat) (row : List (BitVec 64))
  | dOut (drain j : Nat) (bytes : List (BitVec 8)) (stkBytes : List (BitVec 8)) (esc : BitVec 128) (flags : BitVec 7)
  | rRow (drain j : Nat)
  | rDone (drain j : Nat) (img : List (BitVec 64))
  | gemvA (id c : Nat)
  /-- the next cycle of a copy command: `ph` tells its reads from its writes -/
  | cmd (id : Nat) (ph i : Nat)
  | xcpyOut (id i : Nat) (v : VReg)
  | bankW (a : Nat) (bytes : List (BitVec 8))
  /-- a caught Calliope record reaches its block (R238) -/
  | catch' (a die wall : Nat) (own : Bool)
  deriving DecidableEq, Repr

/-- An effect that performs in cycle `due` (R19), with the issue it came from (R20, R70). -/
structure Pend where
  due : Nat
  iss : Nat
  word : Nat
  baddr : Nat
  act : Act
  /-- sticky flags raised when it performs (R57) -/
  flags : BitVec 7
  /-- store index of the routine word it came from (R210) -/
  rtn : Option Nat
  deriving DecidableEq, Repr

/-- A scheduled access of this cycle to the bank wall (R70): one bank row of a group, the banks touched, and
who made it. -/
structure Access where
  grp : Nat
  row : Nat
  banks : BitVec 1024
  write : Bool
  iss : Nat
  word : Nat
  baddr : Nat
  rtn : Option Nat
  /-- position in the troupe of the core whose word made it -/
  own : Nat
  /-- the landing of a block of a product, which the reads of its row in its cycle see (R212; log 56) -/
  land : Bool := false
  deriving DecidableEq, Repr

/-- A scheduled access of this cycle to the Switchback array (R78): its kind (0 cell, 1 pair, 2 quad, 3 line)
and the cells it names. -/
structure TAccess where
  kind : Nat
  a : Nat
  col : Bool
  len : Nat
  write : Bool
  iss : Nat
  word : Nat
  baddr : Nat
  /-- the store index of a routine word's access (R210) -/
  rtn : Option Nat := none
  deriving DecidableEq, Repr

/-- A whole-register write of this cycle (R20, R111): the location, and the issue it came from. -/
structure Wr where
  loc : Nat × Nat
  iss : Nat
  word : Nat
  baddr : Nat
  rtn : Option Nat
  deriving DecidableEq, Repr

/-- A fault raised in this cycle (R274, R279). -/
structure Raised where
  cause : BitVec 8
  sub : BitVec 8
  word : Option Nat
  deferred : Bool
  done : BitVec 8
  baddr : Nat
  addr : BitVec 64
  aux0 : BitVec 64
  aux1 : BitVec 64
  hnd : BitVec 32
  code : BitVec 16
  hcs : BitVec 4
  rtnw : Bool
  /-- fatal whatever its cause and DEF say: a check of R226 or R227 that fails at S (R278) -/
  kill : Bool
  deriving DecidableEq, Repr

/-- A compute core, or the core of a management core (R13, R63 to R84). -/
structure Core where
  /-- rank, local rank and span position (R15), fixed at binding -/
  rank : Nat
  lrank : Nat
  spos : Nat
  /-- physical near-tier die and local core index (R14); fixed at binding -/
  die : Nat
  loc : Nat
  /-- s0 to s63 (R63); launch values of R63 -/
  s : Vector (BitVec 64) 64
  /-- v0 to v31 (R63); launch value all zero -/
  v : Vector VReg 32
  /-- p0 to p15 (R63, R64); p0 all ones, others zero -/
  p : Vector (BitVec 1024) 16
  /-- acc0 to acc3 (R58, R63, R193) -/
  acc : Vector Acc 4
  /-- w0, w1 (R63, R192) -/
  w : Vector WBuf 2
  /-- k0 to k7 (R63): 0 -/
  k : Vector (BitVec 64) 8
  /-- f0 to f7 (R49, R50) -/
  f : Vector (BitVec 32) 8
  /-- x0 to x7 (R48, R63): every code 0x7F -/
  x : Vector (List (BitVec 8)) 8
  /-- q0 to q7 (R79): entries as 32-bit words, oldest first; empty -/
  q : Vector (List (List (BitVec 32))) 8
  /-- the EP bits of QSTAT (R81): 0 -/
  ep : BitVec 8
  /-- FLAGS (R56): 0 -/
  flags : BitVec 7
  /-- COORD0 to COORD7 (R33, R66) -/
  coord : Vector (BitVec 64) 8
  /-- LOOPC0 to LOOPC7 (R66, R120): 0 -/
  loopc : Vector (BitVec 32) 8
  /-- active, start and end of the loop levels (R120) -/
  lvl : Vector Level 8
  /-- TOP of RSP (R84): 0 -/
  top : Nat
  /-- RES of RSEG (R84): 0xFFFF -/
  rseg : BitVec 16
  /-- bundle address of the next bundle (R89): 0 -/
  pc : Nat
  /-- a taken transfer's remaining delay bundles and its target (R118) -/
  xfer : Option (Nat × Nat)
  /-- the pending target is an `eret`'s: the ECAUSE it read (R273) -/
  eret : Option (BitVec 64)
  /-- the bank wall, 8 MiB (R65, R69) -/
  bank : Mem
  /-- the Switchback array, 256 KiB (R65, R77) -/
  tarr : Mem
  /-- the remainder stack, 1 MiB (R65, R84) -/
  stk : Mem
  /-- holder of each of the core's own buffers, as a core index of its ring (R82) -/
  holder : Vector Nat 128
  /-- dynamic pattern slots 256 to 263 (R73, R75) -/
  dyn : Vector Pattern 8
  /-- a running routine's next store index (R210) -/
  rtn : Option Nat
  /-- the store index that word 5 of the bundle being issued runs (R210) -/
  rtnOn : Option Nat
  /-- the N word of the bundle being issued (R92) -/
  netw : BitVec 64
  /-- the DONE mask of the bundle being issued (R275) -/
  done : BitVec 8
  /-- the bundle being issued is a re-issue (R276) -/
  reissue : Bool
  /-- words that must wait: a word of this bundle has faulted (R274 step 3) -/
  failed : Bool
  /-- a breakpoint stopped this core before this word (R377) -/
  stop : Option Nat
  /-- the bundle's Calliope words wait for the words of every other bundle of the wall cycle (R30, R239): none; else the
  words that fault there, each with its cause -/
  late : Option (List (Nat × Nat))
  /-- scheduled effects (R19) -/
  pend : List Pend
  /-- the accesses of this VCC cycle to the bank wall, latest first (R70), and to the Switchback array (R78); how many of the
  first came before a suspension in this cycle (R276) -/
  acc70 : List Access
  acc78 : List TAccess
  old70 : Nat
  /-- the whole-register writes that have performed in this VCC cycle (R20, R111) -/
  wrote : List Wr
  /-- issue cycles and words of the last special-function, `solve` and scan issue (R150, R169, R185) -/
  sfu : Option (Nat × Nat)
  solv : Option (Nat × Nat)
  scan : Option (Nat × Nat × Nat)
  /-- issue cycle of the last push or pop of the remainder stack (R171) -/
  stkUse : Option Nat
  /-- the matrix array's passes, drains, weight load and products in progress (R196 to R212) -/
  passes : List Pass
  drains : List Drain
  wload : Option WLoad
  gemv : List Gemv
  /-- commands of engines 0 and 1 (R214, R215) -/
  cmds : List Cmd
  fetches : List Fetch
  egress : List Egress
  /-- the core's snapshot of G (R249) -/
  snap : Mem
  /-- own stores that memory has accepted and that no completed phase has published yet: the core's loads see them (R125,
  R249) -/
  accd : List Egress
  /-- writes of `xrsp` accepted since the snapshot was renewed: an `xrfl` of the same address returns them (R234) -/
  spills : List Egress
  wait : Option Wait
  /-- markers that the publication of the task's saving or end still awaits (R255); none: it has not begun -/
  pubMarks : Option (List Mark)
  /-- `realign` issued (R29) -/
  realign : Bool
  /-- exit status once the core has finished through the retire service (R39, R138) -/
  fin : Option (BitVec 32)
  /-- finished its save or restore routine (R283) -/
  routineDone : Bool
  /-- the fault, if any, that this core raised in this cycle -/
  raised : List Raised
  /-- a supervisor call awaiting its reply: SDST (R138) -/
  sysc : Option (BitVec 6)
  /-- TRP_REPLY (R271): 0 -/
  reply : BitVec 64
  /-- charges of this cycle: die, class of R292, number of events -/
  chg : List (Nat × Nat × Nat)
  /-- leaves, as base and size, whose tables the core's accesses have been charged for (R289; log 23) -/
  walked : List (Nat × Nat)
  /-- the next identifier of the core's own things in flight: the model's own -/
  nextId : Nat
  deriving DecidableEq, Repr

/-- The launch values of the format descriptors (R50). -/
def launchF : Vector (BitVec 32) 8 :=
  ⟨#[0x00000000, 0x00000001, 0x00000002, 0x00000003, 0x00000004, 0x00000016, 0x00000018, 0x00003319], rfl⟩

/-- A core as it stands at binding, before the launch values of s1 and s8 to s15 (R63, R65). -/
def Core.launch : Core :=
  { rank := 0, lrank := 0, spos := 0, die := 0, loc := 0,
    s := gen 64 fun _ => 0, v := gen 32 fun _ => gen 1024 fun _ => 0,
    p := gen 16 fun i => if i = 0 then BitVec.allOnes 1024 else 0,
    acc := gen 4 fun _ => Acc.zero, w := gen 2 fun _ => WBuf.launch,
    k := gen 8 fun _ => 0, f := launchF, x := gen 8 fun _ => tab 256 fun _ => 0x7F,
    q := gen 8 fun _ => [], ep := 0, flags := 0, coord := gen 8 fun _ => 0,
    loopc := gen 8 fun _ => 0, lvl := gen 8 fun _ => ⟨false, 0, 0⟩,
    top := 0, rseg := 0xFFFF, pc := 0, xfer := none, eret := none,
    bank := [], tarr := [], stk := [], holder := gen 128 fun _ => 0,
    dyn := gen 8 fun _ => Pattern.identity, rtn := none, rtnOn := none, netw := 0, done := 0, reissue := false,
    failed := false, stop := none, late := none, pend := [], acc70 := [], acc78 := [], old70 := 0, wrote := [],
    sfu := none, solv := none, scan := none, stkUse := none, passes := [], drains := [], wload := none,
    gemv := [], cmds := [], fetches := [], egress := [], snap := [], accd := [], spills := [], wait := none, pubMarks := none, realign := false,
    fin := none, routineDone := false, raised := [], sysc := none, reply := 0, chg := [], walked := [], nextId := 0 }

/-! ## Kernels and troupes -/

/-- One code stream of an image (R89, R314). -/
structure Stream where
  ranks : BitVec 256
  code : Mem
  bundles : Nat
  /-- safe-point table: save and restore addresses -/
  sps : List (Nat × Nat)
  /-- bank data: B address and bytes -/
  bank : List (Nat × List (BitVec 8))
  deriving DecidableEq, Repr

/-- A kernel image as loaded (R314). -/
structure Image where
  shape : Nat
  m : Nat
  dmax : Nat
  loop : Vector (BitVec 64) 8
  streams : List Stream
  pats : List (Nat × Pattern)
  /-- the routine store, 32 KiB (R209) -/
  routines : Mem
  deriving DecidableEq, Repr

/-- The fields of a launch record (R312). -/
structure Launch where
  tag : BitVec 64
  wtgt : BitVec 64
  stat : BitVec 64
  kimg : BitVec 64
  sigamt : BitVec 32
  sigc : BitVec 32
  waitc : BitVec 32
  mbx : BitVec 16
  nctr : Nat
  wdl : BitVec 16
  m : Nat
  shape : Nat
  npar : Nat
  prio : Nat
  sv : Bool
  wv : Bool
  typ : Nat
  params : List (BitVec 64)
  deriving DecidableEq, Repr

/-- ST of TRP_STAT (R270). -/
inductive TSt where
  | unbound | running | held | suspended | saving | preempted | restoring | retiring
  deriving DecidableEq, Repr

/-- An active cause of a hold (R24, R383): code, rank, source bundle and slot. -/
structure Hold where
  code : Nat
  rank : Nat
  baddr : Nat
  slot : Option Nat
  deriving DecidableEq, Repr

/-- A fault or pre-emption record (R279), as its 64 bytes. -/
abbrev Rec := BitVec 512

/-- A task and its troupe (R13), from its selection to its end. -/
structure Troupe where
  /-- troupe number (R319) -/
  num : Nat
  vf : Nat
  queue : Nat
  part : Nat
  launch : Launch
  image : Image
  /-- context slot (R317), first task counter handle -/
  slot : Nat
  ctr0 : BitVec 32
  /-- priority at binding, wall cycle of the pre-emption (R320, R321) -/
  prio : Nat
  since : Nat
  st : TSt
  /-- loading (R323): no bundle yet; the wall cycle in which loading completes -/
  loading : Bool
  loadedAt : Nat
  vcc : BitVec 64
  /-- VCC advances since binding: the unit of every due cycle (R29) -/
  adv : Nat
  /-- the routine count of a save or restore phase (R283) -/
  rcount : Nat
  rsmd : Bool
  unal : Bool
  /-- VCC advance from which the safe-point distance counts (R37) -/
  n0 : Nat
  /-- active hold causes of this wall cycle -/
  holds : List Hold
  /-- consecutive held wall cycles counted against LIMIT (R26) -/
  run : Nat
  /-- the deviation run in progress: its charge, its length and first wall cycle (R383) -/
  dev : Option (Hold × Nat × Nat)
  heldTotal : Nat
  /-- TRP_HOLDLIM.LIMIT (R26): 0x0001_0000 -/
  limit : BitVec 32
  /-- PRQ of TRP_STAT (R270) -/
  prq : BitVec 5
  cref : Bool
  /-- waiting records and the record count (R279, R280) -/
  recs : List Rec
  seq : Nat
  /-- a record of the suspension carries a cause that may not be resumed (R271) -/
  noResume : Bool
  /-- a stop by breakpoint or step, not a fault (R377) -/
  stopped : Bool
  /-- wall cycle in which a resumption begins (R276) -/
  resumeAt : Option Nat
  /-- the next cycle is VCC n once more (R276) -/
  resuming : Bool
  /-- waiting in `realign` (R29) -/
  realign : Bool
  spix : Nat
  bp : Vector (BitVec 64) 4
  dbStep : BitVec 2
  /-- the task accumulator T (R294) -/
  en : Nat
  /-- direct charges not yet old enough for ENMTR: VCC and amount (R296) -/
  recent : List (Nat × Nat)
  /-- the last settled share: wall cycle and amount (R296) -/
  share : Nat × Nat
  /-- reserved core-cycles of this settlement interval (R297) -/
  reserved : Nat
  cores : List Core
  /-- STATUS of the task's end (R323): of a failed publication while the end waits, and of a retirement until the
  distributor has ended the task -/
  status : Option (BitVec 16)
  /-- the end is a normal retirement (R323) -/
  normal : Bool
  /-- what ST returns to on the next resumption: running, saving or restoring (R286) -/
  back : TSt
  /-- step mode of the resumption under way (R378); 0 off -/
  stepNow : BitVec 2
  /-- per rank the bundle address and the exit status: of a pre-empted task, and of a retired one (R38, R323; log 34) -/
  kept : List (Nat × Option (BitVec 32))
  /-- cause of the pre-emption being taken (R282) -/
  preCause : Option Nat
  /-- VCC advance of a resumed n, and the requests made during its routine phase, which wait past n (R286) -/
  noPre : Option (Nat × BitVec 5)
  /-- trace records of the present VCC value not yet in the ring: order key and record (R382) -/
  trec : List (Nat × BitVec 256)
  /-- reserved core-cycles of the interval before (R297) -/
  reservedLast : Nat
  deriving DecidableEq, Repr

/-! ## Package units -/

/-- A synchronisation counter (R240). -/
structure Counter where
  /-- handle: home die and index (R87) -/
  handle : BitVec 32
  value : BitVec 64
  target : BitVec 64
  /-- ST: 0 idle, 1 armed, 2 open -/
  st : BitVec 2
  ovb : Bool
  ovr : BitVec 32
  /-- owning VF, and the owning task, if a task owns it (R315) -/
  vf : Nat
  task : Option Nat
  /-- its home was reset (R374) -/
  lost : Bool
  deriving DecidableEq, Repr

/-- What an operation asks of a counter's home engine (R126, R241). -/
inductive CtrKind where
  | add (amt : BitVec 64)
  | arm (b : BitVec 32)
  | wait (target : BitVec 64)
  | waitArmed
  | read
  | clear
  deriving DecidableEq, Repr

/-- Where an operation comes from, for refusals (R405). -/
inductive CtrSrc where
  /-- an agent's word: word number and bundle address -/
  | slot (a : Agent) (word baddr : Nat)
  | cmd (a : Agent) (id : Nat)
  | system
  deriving DecidableEq, Repr

/-- A counter operation on its way to its home engine (R126). -/
structure CtrOp where
  id : Nat
  handle : BitVec 32
  kind : CtrKind
  src : CtrSrc
  /-- a wait that has reached its engine and stands there (R129) -/
  stands : Bool := false
  /-- the wall cycle in which it was ready at its source, and on its present plane (R356) -/
  sent : Nat := 0
  deriving DecidableEq, Repr

/-- A batched-atomic entry on its way to its engine (R232). -/
structure AtomicE where
  id : Nat
  agent : Agent
  cmd : Nat
  idx : Nat
  op : AtomOp
  tgt : Nat
  /-- physical address of a G word; none: its leaf was moving when the entry was checked (R347) -/
  pa : Option Nat
  opnd : BitVec 64
  ret : Bool
  /-- as of a counter operation -/
  sent : Nat := 0
  deriving DecidableEq, Repr

/-- A granule in flight to a core's wall (R228). -/
structure Granule where
  id : Nat
  dst : Agent
  addr : Nat
  data : List (BitVec 8)
  ctr : Option (BitVec 32)
  amt : Nat
  src : CtrSrc
  /-- VCC advance in which it became eligible, once received -/
  since : Option Nat
  /-- the block of a remote product that it belongs to: the block's add follows its last granule (R212) -/
  blk : Option Nat := none
  deriving DecidableEq, Repr

/-- An inbound message for a mailbox task (R231). -/
structure InMsg where
  id : Nat
  trp : Nat
  rank : Nat
  ch : Nat
  data : List (BitVec 32)
  src : CtrSrc
  deriving DecidableEq, Repr

/-- A store accepted at the memory that homes it and not yet visible everywhere (R246, R250). -/
structure GWrite where
  pa : Nat
  bytes : List (Option (BitVec 8))
  /-- a phase that covers it has completed; until then no other agent observes it (R247) -/
  pub : Bool
  /-- scope code to which it is published: 0 to 2 (a wider one is in `gmem`) -/
  scope : Nat
  die : Nat
  loc : Nat
  /-- agents outside the scope that have observed it, as die × 32 + core (R250, log 8) -/
  seen : List Nat
  deriving DecidableEq, Repr

/-- A cached entry of a page table, or of the ASID table (R338). -/
structure Tlb where
  die : Nat
  asid : Nat
  /-- the partition that the ASID's entry named at the walk -/
  part : Nat
  /-- level of the entry; 5: the entry of the ASID table -/
  level : Nat
  /-- what the entry maps; of an ASID table entry 0 and 0 -/
  base : Nat
  size : Nat
  pte : BitVec 64
  /-- the tables on the way to it, its own included -/
  tables : List Nat
  deriving DecidableEq, Repr

/-- A launch queue (R310, R311, R320). -/
structure LQueue where
  en : Bool
  bad : Bool
  base : Nat
  lsz : Nat
  prod : Bool
  spc : Bool
  head : BitVec 32
  tail : BitVec 32
  /-- tasks that wait to resume (R321) -/
  resume : List Nat
  /-- the held head, and the wall cycle in which its record first became the head (R407) -/
  held : Option (Launch × Nat)
  /-- the record at HEAD has become the head, and the wall cycle in which it first did (R320) -/
  led : Bool
  since : Nat
  /-- an earlier round found the counter that the present head waits for live (R320, R323) -/
  waited : Bool
  deriving DecidableEq, Repr

/-- A virtual function (R307, R308, R300). -/
structure Vf where
  en : Bool
  /-- partition 0 to 11; 0xF none -/
  part : BitVec 4
  job : BitVec 16
  asid : BitVec 14
  lqt : BitVec 57
  ctx : BitVec 57
  nslot : BitVec 16
  sav : BitVec 57
  q : BitVec 48
  used : BitVec 64
  loww : BitVec 48
  lctr : BitVec 32
  exh : Bool
  low : Bool
  stopd : Bool
  ovd : BitVec 48
  len : Bool
  qen : Bool
  /-- the fraction F (R294) -/
  frac : Nat
  /-- reserved core-cycles of the present interval and of the one before (R297) -/
  reserved : Nat
  reservedLast : Nat
  /-- reserved core-cycles of tasks that ended, by the interval in which they were reserved (R298) -/
  doneRes : List Nat
  doneLast : List Nat
  /-- charges formed and not yet applied by the keeper (R295): 0 -/
  pend : Nat
  queues : List LQueue
  deriving DecidableEq, Repr

/-- A partition's resources (R325). -/
structure Part where
  exist : Bool
  rings : BitVec 64
  ports : BitVec 16
  vfs : BitVec 96
  near : List (Nat × Nat)
  far : List (Nat × Nat)
  desc : BitVec 512
  deriving DecidableEq, Repr

/-- The registers banked per partition (R265), each reset 0 unless stated. -/
structure Bank where
  mcEpc : BitVec 64
  mcEcause : BitVec 64
  mcEaddr : BitVec 64
  mcEvec : BitVec 64
  /-- MC_XASID (R403) -/
  xasid : BitVec 64
  /-- bits [7:0] of MC_IP and MC_IE (R268) -/
  ip : BitVec 8
  ie : BitVec 8
  tsel : BitVec 64
  frqBase : BitVec 64
  /-- LSZ of FRQ_SIZE: 4 -/
  frqLsz : BitVec 5
  frqHead : BitVec 32
  frqTail : BitVec 32
  /-- the oldest waiting record has found the queue full (R280): no -/
  frqStuck : Bool
  ctCtl : BitVec 64
  invVa : BitVec 64
  invBsy : Bool
  invErr : Bool
  /-- the invalidation in progress: ASID (none: all of the partition), first page, pages (0: all) -/
  inv : Option (Option Nat × Nat × Nat)
  mgCq : BitVec 64
  mgCHead : BitVec 32
  mgCTail : BitVec 32
  mgHq : BitVec 64
  mgHHead : BitVec 32
  mgHTail : BitVec 32
  mgDrop : BitVec 32
  rtSel : BitVec 64
  rtCref : Bool
  dbTrb : BitVec 64
  dbDrop : BitVec 32
  dbSper : BitVec 5
  dbEn : BitVec 6
  dbLsz : BitVec 5
  dbHead : BitVec 32
  dbTail : BitVec 32
  dbProf : BitVec 64
  dbGrant : BitVec 2
  dbNtf : BitVec 64
  /-- GR of EN_GRACE (R300): 0x10_0000 -/
  grace : BitVec 21
  deriving DecidableEq, Repr

def Bank.reset : Bank :=
  { mcEpc := 0, mcEcause := 0, mcEaddr := 0, mcEvec := 0, xasid := 0, ip := 0, ie := 0, tsel := 0,
    frqBase := 0, frqLsz := 4, frqHead := 0, frqTail := 0, frqStuck := false, ctCtl := 0, invVa := 0, invBsy := false,
    invErr := false, inv := none, mgCq := 0, mgCHead := 0, mgCTail := 0, mgHq := 0, mgHHead := 0, mgHTail := 0,
    mgDrop := 0, rtSel := 0, rtCref := false, dbTrb := 0, dbDrop := 0, dbSper := 0, dbEn := 0, dbLsz := 0,
    dbHead := 0, dbTail := 0, dbProf := 0, dbGrant := 0, dbNtf := 0, grace := 0x100000 }

/-- What a handler's entry keeps for the `eret` that returns to its EPC (R272, R273; log 16): the address, a transfer whose
delay bundles are outstanding, and the failed accesses to be repeated. -/
structure Kept where
  epc : Nat
  xfer : Option (Nat × Nat)
  eret : Option (BitVec 64)
  fetches : List Fetch
  wait : Option Wait
  /-- further failures of the due count, which enter a handler after the return -/
  raised : List Raised
  deriving DecidableEq, Repr

/-- A management core (R262, R403). -/
structure Mgmt where
  /-- held in reset until BOOT (R389) -/
  run : Bool
  /-- stopped by a double fault (R272) -/
  dead : Bool
  halted : Bool
  /-- LVL, IEN, SEXL, HEXL of MC_STAT (R266): 0b10, 0, 0, 0 -/
  lvl : BitVec 2
  ien : Bool
  sexl : Bool
  hexl : Bool
  hvEpc : BitVec 64
  hvEcause : BitVec 64
  hvEaddr : BitVec 64
  hvEvec : BitVec 64
  /-- kept by the entry of each handler: none -/
  keptHv : Option Kept
  keptSv : Option Kept
  /-- HV_PART (R264): 0 -/
  part : BitVec 4
  /-- the hypervisor's bits 4, 5, 8 and 9 of MC_IP and of MC_IE (R268; log 16): 0 -/
  ipHv : BitVec 10
  ieHv : BitVec 10
  stream : Stream
  /-- the loop table of its image (R31) -/
  loop : Vector (BitVec 64) 8
  /-- its own count of wall cycles, in which issue+n is counted (R403) -/
  adv : Nat
  /-- the wall cycle before which no bundle issues (R272) -/
  stall : Nat
  core : Core
  deriving DecidableEq, Repr

/-- An optical port (R361, R362, R365, R385). -/
structure Port where
  /-- ST: 0 OFF, 1 LIT, 2 LINKUP, 3 ACTIVE, 4 DRAINING, 5 FAILED -/
  st : BitVec 4
  /-- the running command and its wavelength, and the wall cycle in which it began -/
  busy : Option (BitVec 4 × BitVec 4)
  began : Nat
  cerr : Bool
  los : Bool
  peer : BitVec 16
  lmap : BitVec 32
  /-- the lane map in force, once MAP applied it -/
  lanes : BitVec 32
  wst : BitVec 27
  eye : Vector (BitVec 32) 9
  /-- route banks A and B: entries other than 0 -/
  rtA : List (Nat × BitVec 64)
  rtB : List (Nat × BitVec 64)
  /-- active bank is B -/
  act : Bool
  dig : BitVec 64
  dcnt : BitVec 64
  deriving DecidableEq, Repr

def Port.reset : Port :=
  { st := 0, busy := none, began := 0, cerr := false, los := false, peer := 0, lmap := 0x76543210, lanes := 0x76543210,
    wst := 0, eye := gen 9 fun _ => 0, rtA := [], rtB := [], act := false, dig := 0, dcnt := 0 }

/-- A registered route trigger (R236). -/
structure Trig where
  id : Nat
  handle : BitVec 32
  target : BitVec 64
  ports : BitVec 16
  deriving DecidableEq, Repr

/-- A message of this package in its replay buffer, or waiting at its source (R351, R356). -/
structure OutMsg where
  id : Nat
  msg : Msg
  /-- the plane it travels on; the sender's partition, none for a message passed on (R365) -/
  plane : BitVec 2
  part : Option Nat
  injected : Bool
  /-- the ports it has been sent through, the latest first (R362, R367) -/
  ports : List Nat
  first : Nat
  last : Nat
  src : CtrSrc
  /-- word, bundle address and progress index that a fault about the message names (R218, R230) -/
  rep : Nat × Nat × Nat := (0, 0, 0)
  deriving DecidableEq, Repr

/-- A running move command (R345, R346). -/
structure Mig where
  id : Nat
  part : Nat
  /-- the far-tier die whose engine has taken it (R342) -/
  die : Nat
  /-- address of the command in G, by ASID of its ring -/
  ringAsid : Nat
  cmdVa : Nat
  asid : Nat
  va : Nat
  dst : Nat
  ctr : BitVec 32
  ptePa : Nat
  size : Nat
  old : Nat
  /-- 1 claimed, 3 copied, 4 switched, 0x10 + status when it is to end -/
  stage : Nat
  deriving DecidableEq, Repr

/-- A topology command in hand (R364). -/
structure Topo where
  id : Nat
  vf : Nat
  launch : Launch
  asid : Nat
  body : List (BitVec 8)
  since : Nat
  started : Bool
  /-- its ports are being drained -/
  draining : Bool := false
  deriving DecidableEq, Repr

/-- A pending partition command (R326, R327). -/
structure PtCmd where
  op : Nat
  id : Nat
  descs : List (BitVec 512)
  /-- the troupes bound at its write have their requests -/
  asked : Bool := false
  deriving DecidableEq, Repr

/-- One die's monitors (R402). -/
structure Mon where
  temp : List (BitVec 64)
  droop : List (BitVec 64)
  proc : List (BitVec 64)
  /-- droop monitors whose last supply lay below 0.9 × the state voltage -/
  low : List Bool
  deriving DecidableEq, Repr

/-- A record driven on a span's Calliope bus (R238, R277). -/
structure BusRec where
  die : Nat
  trp : Nat
  rank : Nat
  adv : Nat
  wall : Nat
  data : List (BitVec 8)
  /-- the driving word: word number and bundle address -/
  word : Nat
  baddr : Nat
  deriving DecidableEq, Repr

/-- What the package tells the host (R272, R311, R368, R393, R401): kept in order, and read by no rule of the package. -/
inductive HostNote where
  /-- an MSI-X vector of the physical function -/
  | msix (vector : Nat)
  /-- a management core stopped on a double fault (R272) -/
  | doubleFault (m : Nat)
  /-- the bytes that an inbound read returned; none: the read was refused -/
  | data (va : Nat) (bytes : Option (List (BitVec 8)))
  /-- a surprise link down of the host port (R401) -/
  | linkDown
  deriving DecidableEq, Repr

/-! ## Stops -/

/-- Why the machine stops. -/
inductive Fault where
  /-- Raised by a step after the thermal trip (R401) when no power-on reset is among the inputs to come: the core rails are
  off and only a power-on reset recovers. Safe: the hardware stops too. -/
  | railsOff
  deriving DecidableEq, Repr

/-- Why an operation has no meaning in a state. -/
inductive Refusal where
  /-- Raised by the dispatch of a row without a meaning. Safe. -/
  | notModelled (mnemonic : String)
  /-- Raised by a slot word when no agent is issuing a word. Safe: the machine never runs a word then. -/
  | noIssuer
  /-- Raised by an event whose condition the state does not meet: such an event does not happen in this state.
  Safe: the model takes no step where the machine takes none. -/
  | notEnabled (row : String)
  deriving DecidableEq, Repr

/-! ## The package -/

/-- What moves next. -/
inductive Cursor where
  /-- between wall cycles: inputs land -/
  | idle
  /-- the package's own events of the wall cycle, stage k -/
  | auto (k : Nat)
  /-- the cycle of management core `m` begins -/
  | mgmt (m : Nat)
  /-- a management core's word -/
  | mword (m w : Nat)
  /-- the cycle of troupe `t` (by position in the list) begins -/
  | troupe (t : Nat)
  /-- the due results of the troupe at this position perform -/
  | perf (t : Nat)
  /-- the bundles of the troupe at this position issue: core `r` next -/
  | bundle (t r : Nat)
  | word (t r w : Nat)
  /-- the troupe's cycle ends -/
  | fin (t : Nat)
  /-- after the troupes: the Calliope words that wait are judged (0), run (1), and the cycle of troupe k - 2 ends -/
  | late (k : Nat)
  deriving DecidableEq, Repr

/-- The whole package and what stands around it. -/
structure State where
  /-- what moves next, in the model's order of one wall cycle (log 1) -/
  cursor : Cursor
  /-- wall cycles since the release of cores (R18, R27): 0 -/
  wall : Nat
  /-- inputs from outside, each with the wall cycle in which it lands (log 2): none -/
  script : List (Nat × Instr)
  /-- the counter of free values (log 8): the model's own -/
  free : Nat
  /-- the next identifier of things in flight: the model's own -/
  nextId : Nat
  troupes : List Troupe
  mgmt : Vector Mgmt 2
  banks : Vector Bank 12
  parts : Vector Part 12
  vfs : Vector Vf 96
  /-- EN_VFSEL, VF_SEL (R300, R308): 0 -/
  enVfSel : BitVec 7
  vfSel : BitVec 7
  enCsel : BitVec 12
  nset : BitVec 64
  unatt : BitVec 64
  /-- the shared pool P of the interval, and the one being settled (R297, R298) -/
  pool : Nat
  poolLast : Nat
  /-- LAST of each partition (R320): 63 -/
  last : Vector Nat 12
  /-- PT_CMD and PT_RES (R326) -/
  ptCmd : Option PtCmd
  ptSt : BitVec 2
  ptLost : Bool
  ptRes : BitVec 4
  /-- physical memory, near and far tiers, as every agent of the package sees it (R246, R331): zero -/
  gmem : Mem
  /-- accepted writes not yet visible everywhere, oldest first (R250) -/
  ghist : List GWrite
  tlbs : List Tlb
  /-- TR_ATBASE (R334): 0 -/
  atBase : BitVec 64
  migs : List Mig
  /-- xmig hints not yet appended (R344): partition, record -/
  hints : List (Nat × BitVec 128)
  /-- far-tier die 0's engine serves the odd partitions (R342) -/
  migOdd : Bool
  /-- host memory by IOVA (R85), of the first host root and of a second one (R369): the environment's -/
  hmem : Mem
  hmem2 : Mem
  ctrs : List Counter
  ctrOps : List CtrOp
  atoms : List AtomicE
  flight : List Granule
  inMsgs : List InMsg
  trigs : List Trig
  bus : List BusRec
  /-- DIR of SE_RDIR and its CREF; the move in progress (R372) -/
  dir : Vector (BitVec 4) 10
  seCref : Bool
  move : Option (BitVec 4 × BitVec 4)
  /-- fabric controller (R354) -/
  nreh : BitVec 32
  /-- UCIe links trained at 1.1: edge and plane (R348): none -/
  linksOld : List (Nat × BitVec 2)
  planeFail : BitVec 4
  fbCref : Bool
  /-- a quiesce in progress: the planes that die and those that revive; the wall cycle in which its drain began, and the one
  of its declaration, from which on no source injects -/
  qs : Option (BitVec 4 × BitVec 4)
  qsAt : Nat
  qsFrom : Nat
  live : BitVec 4
  pmap : Vector (BitVec 2) 64
  qtmo : BitVec 32
  tmo : BitVec 32
  /-- UCIe links of a plane that are down: edge and plane -/
  linksDown : List (Nat × BitVec 2)
  out : List OutMsg
  /-- acknowledged messages that a refusal may still name, one for each stream and SEQ (R230) -/
  acked : List OutMsg
  /-- next expected SEQ per source package, die and agent, destination die and PLN (R350, R352) -/
  expect : List ((BitVec 16 × BitVec 4 × BitVec 16 × BitVec 4 × BitVec 2) × BitVec 16)
  /-- next SEQ given per agent, destination package and die, and PLN (R349) -/
  nextSeq : List ((BitVec 4 × BitVec 16 × BitVec 16 × BitVec 4 × BitVec 2) × BitVec 16)
  ports : Vector Port 16
  opSel : BitVec 12
  topo : List Topo
  /-- HP_CFG, whether die 1's port has trained since the reset, HP_LNK (R369) -/
  hpCfg : BitVec 2
  hpSet : Bool
  hpLnk : BitVec 32
  cxlDown : BitVec 8
  /-- DB_ESEL and the error counts by die and kind (R384) -/
  dbEsel : BitVec 12
  errs : List ((Nat × Nat) × (BitVec 32 × BitVec 32))
  /-- boot stage: 0 ROM waits for LOAD or BOOT, 1 firmware runs (R389) -/
  booted : Bool
  released : Bool
  kslot : BitVec 8
  sram : Mem
  sramLen : Option Nat
  svn : Nat
  measure : List (BitVec 8)
  /-- blown thermometer fuses (R390): part of the fuses, kept by every reset -/
  minSvn : Nat
  /-- the device secret is locked; the attestation key's scalar and the 352 bytes of the AK statement (R391) -/
  secretLocked : Bool
  ak : Nat
  akStmt : List (BitVec 8)
  /-- the mailbox's RW fields as the host last wrote them (R393) -/
  hostCmd : BitVec 64
  hostArgs : Vector (BitVec 64) 8
  /-- the mailbox's command, taken at its doorbell (R393, log 64), and RESP -/
  mbDone : Bool
  mbStatus : BitVec 16
  mbCmd : BitVec 64
  mbArgs : Vector (BitVec 64) 8
  mbBusy : Bool
  /-- CMD and the ARGs last forwarded to the hypervisor (R394) -/
  hcb : Option (BitVec 64 × Vector (BitVec 64) 8)
  /-- operating state (R395), the clamp: in force, still to act, and the first wall cycle in which its trigger lies more than 1 ms back -/
  fi : BitVec 2
  vi : Vector (BitVec 2) 10
  clmp : Bool
  clampDue : Bool
  clampTill : Nat
  /-- thermal trip (R397): kept by all but a power-on reset -/
  trip : Bool
  gateRing : BitVec 64
  gateStk : BitVec 8
  gatePort : BitVec 16
  gateFt1 : Bool
  gateNear : BitVec 8
  /-- the die that RESETD holds in reset, and the unit being ungated with its wait (R398, R399): none -/
  resetting : Option Nat
  mons : Vector Mon 10
  /-- what the host has been told, oldest first: nothing -/
  hostOut : List HostNote
  deriving DecidableEq, Repr

/-! ## Reset -/

def Vf.reset : Vf :=
  { en := false, part := 0xF, job := 0, asid := 0, lqt := 0, ctx := 0, nslot := 0, sav := 0, q := 0, used := 0,
    loww := 0, lctr := 0, exh := false, low := false, stopd := false, ovd := 0, len := false, qen := false,
    frac := 0, reserved := 0, reservedLast := 0, doneRes := [], doneLast := [], pend := 0, queues := [] }

def Part.none : Part :=
  { exist := false, rings := 0, ports := 0, vfs := 0, near := [], far := [], desc := 0 }

def Mgmt.reset : Mgmt :=
  { run := false, dead := false, halted := false, lvl := 2, ien := false, sexl := false, hexl := false,
    hvEpc := 0, hvEcause := 0, hvEaddr := 0, hvEvec := 0, keptHv := none, keptSv := none, part := 0, ipHv := 0, ieHv := 0,
    stream := { ranks := 0, code := [], bundles := 0, sps := [], bank := [] },
    loop := gen 8 fun _ => 0, adv := 0, stall := 0, core := Core.launch }

def Mon.reset : Mon :=
  { temp := tab 64 fun _ => 0, droop := tab 8 fun _ => 0xFFFF, proc := tab 4 fun _ => 0, low := tab 8 fun _ => false }

/-- The package after a power-on reset and the ROM's step 2 (R388, R389, log 37): the die-0 host port is trained, the ROM waits
for the host, cores are not released, no partition exists. -/
def State.reset : State :=
  { cursor := .idle, wall := 0, script := [], free := 0, nextId := 1, troupes := [],
    mgmt := gen 2 fun _ => Mgmt.reset, banks := gen 12 fun _ => Bank.reset, parts := gen 12 fun _ => Part.none,
    vfs := gen 96 fun _ => Vf.reset, enVfSel := 0, vfSel := 0, enCsel := 0, nset := 0, unatt := 0, pool := 0,
    poolLast := 0, last := gen 12 fun _ => 63, ptCmd := none, ptSt := 0, ptLost := false, ptRes := 0,
    gmem := [], ghist := [], tlbs := [], atBase := 0, migs := [], hints := [], migOdd := false, hmem := [], hmem2 := [],
    ctrs := [], ctrOps := [], atoms := [], flight := [], inMsgs := [], trigs := [], bus := [],
    dir := gen 10 fun i => BitVec.ofNat 4 i, seCref := false, move := none, nreh := 0, linksOld := [], planeFail := 0,
    fbCref := false, qs := none, qsAt := 0, qsFrom := 0, live := 0xF, pmap := gen 64 fun b => BitVec.ofNat 2 b,
    qtmo := 0x00100000, tmo := 0x00100000, linksDown := [], out := [], acked := [], expect := [], nextSeq := [],
    ports := gen 16 fun _ => Port.reset, opSel := 0, topo := [], hpCfg := 0, hpSet := false, hpLnk := 0x74,
    cxlDown := 0, dbEsel := 0, errs := [], booted := false, released := false, kslot := 0, sram := [],
    sramLen := none, svn := 0, measure := [], minSvn := 0, secretLocked := false, ak := 0, akStmt := [], hostCmd := 0,
    hostArgs := gen 8 fun _ => 0, mbDone := true, mbStatus := 0, mbCmd := 0,
    mbArgs := gen 8 fun _ => 0, mbBusy := false, hcb := none, fi := 0, vi := gen 10 fun _ => 0, clmp := false,
    clampDue := false, clampTill := 0, trip := false, gateRing := 0, gateStk := 0, gatePort := 0, gateFt1 := false, gateNear := 0, resetting := none,
    mons := gen 10 fun _ => Mon.reset, hostOut := [] }

end Sys2Proof.Machine
end

