-- ==== Sys2Proof/Machine/Flags.lean ====
section
/-!
DEFINITION. The number formats, exact values, rounding and every sticky-flag computation of R41 to R62.
-/

namespace Sys2Proof

/-! ## Comparisons (R114, R145) -/

/-- The integer conditions of R114. -/
def Cond.holds {n : Nat} (c : Cond) (a b : BitVec n) : Bool :=
  match c with
  | .eq => a == b
  | .ne => a != b
  | .lt => a.slt b
  | .ge => !a.slt b
  | .ltu => a.ult b
  | .geu => !a.ult b
  | .gt => b.slt a
  | .le => !b.slt a
  | .gtu => b.ult a
  | .leu => !b.ult a

/-- The condition of an immediate compare (R114, R116). -/
def CondI.toCond : CondI → Cond
  | .eq => .eq | .ne => .ne | .lt => .lt | .ge => .ge | .ltu => .ltu | .geu => .geu | .gt => .gt | .le => .le

end Sys2Proof

namespace Sys2Proof.Machine

/-! ## Sticky flags (R56) -/

abbrev Fl := BitVec 7

def IV : Fl := 0x01
def OF : Fl := 0x02
def UF : Fl := 0x04
def NX : Fl := 0x08
def NFP : Fl := 0x10
def NFC : Fl := 0x20
def SOF : Fl := 0x40

/-- Flags combine by OR (R57). -/
def orFl (l : List Fl) : Fl := l.foldl (· ||| ·) 0

def flagIf (b : Bool) (f : Fl) : Fl := if b then f else 0

/-! ## Float formats (R41 to R43, R58) -/

/-- The float formats of R41 and the accumulator format of R58. -/
inductive FF where
  | fp32 | bf16 | fp16 | e4m3 | e5m2 | e2m1 | acc
  deriving DecidableEq, Repr

/-- Exponent width. -/
def FF.eb : FF → Nat
  | .fp32 => 8 | .bf16 => 8 | .fp16 => 5 | .e4m3 => 4 | .e5m2 => 5 | .e2m1 => 2 | .acc => 10

/-- Fraction width. -/
def FF.mb : FF → Nat
  | .fp32 => 23 | .bf16 => 7 | .fp16 => 10 | .e4m3 => 3 | .e5m2 => 2 | .e2m1 => 1 | .acc => 23

def FF.bias : FF → Nat
  | .fp32 => 127 | .bf16 => 127 | .fp16 => 15 | .e4m3 => 7 | .e5m2 => 15 | .e2m1 => 1 | .acc => 511

def FF.width (f : FF) : Nat := 1 + f.eb + f.mb

/-- Precision p. -/
def FF.prec (f : FF) : Nat := f.mb + 1

def FF.emin (f : FF) : Int := 1 - f.bias

/-- Exponent of the largest finite value. -/
def FF.emax (f : FF) : Int :=
  match f with
  | .e4m3 => 8
  | .e2m1 => 2
  | _ => (2 ^ f.eb - 2 : Nat) - (f.bias : Int)

/-- Significand of the largest finite value, as an integer of p bits. -/
def FF.maxSig (f : FF) : Nat :=
  match f with
  | .e4m3 => 14
  | _ => 2 ^ f.prec - 1

def FF.hasInf : FF → Bool
  | .e4m3 | .e2m1 => false
  | _ => true

/-- The canonical NaN of R43; E2M1 has none. R58 gives the accumulator format one NaN and no code for it: the model's is
sign 0 with the top fraction bit (log 50). -/
def FF.canon : FF → Nat
  | .fp32 => 0x7FC00000 | .bf16 => 0x7FC0 | .fp16 => 0x7E00 | .e4m3 => 0x7F | .e5m2 => 0x7E | .e2m1 => 0
  | .acc => 0x1FFC00000

/-- The code of infinity, for the formats that have one. -/
def FF.infCode (f : FF) (neg : Bool) : Nat :=
  bit neg * 2 ^ (f.eb + f.mb) + (2 ^ f.eb - 1) * 2 ^ f.mb

/-- The code of the largest finite value with a sign. -/
def FF.maxCode (f : FF) (neg : Bool) : Nat :=
  bit neg * 2 ^ (f.eb + f.mb) + (f.emax + f.bias).toNat * 2 ^ f.mb + (f.maxSig - 2 ^ f.mb)

/-! ## Exact values (R52) -/

/-- An exact real num / den × 2^exp with a sign (a signed zero when num = 0), an infinity, or NaN. -/
inductive Num where
  | nan
  | inf (neg : Bool)
  | fin (neg : Bool) (num den : Nat) (exp : Int)
  deriving DecidableEq, Repr

def Num.zero (neg : Bool) : Num := .fin neg 0 1 0

def Num.ofInt (i : Int) : Num := .fin (decide (i < 0)) i.natAbs 1 0

def Num.isNan : Num → Bool
  | .nan => true
  | _ => false

def Num.isInf : Num → Bool
  | .inf _ => true
  | _ => false

def Num.finite : Num → Bool
  | .fin .. => true
  | _ => false

def Num.isZero : Num → Bool
  | .fin _ 0 _ _ => true
  | _ => false

def Num.neg : Num → Num
  | .nan => .nan
  | .inf n => .inf !n
  | .fin n a d e => .fin (!n) a d e

def Num.sign : Num → Bool
  | .nan => false
  | .inf n => n
  | .fin n _ _ _ => n

/-- Scaling by a power of two, exact. -/
def Num.scale (x : Num) (k : Int) : Num :=
  match x with
  | .fin n a d e => .fin n a d (e + k)
  | y => y

/-- NFC of one operand (R52 nfc). -/
def nfc (x : Num) : Fl := flagIf (!x.finite) NFC

/-- The signed numerator over the denominator `d1 * d2` at exponent `m`. -/
def Num.at (n : Bool) (a d : Nat) (e m : Int) : Int :=
  let v : Int := a * d * 2 ^ (e - m).toNat
  if n then -v else v

/-- The exact sum; a sum of opposite infinities is NaN with IV, an exact zero is −0 only if both terms are −0
(R59, R143). -/
def Num.add (x y : Num) : Num × Fl :=
  match x, y with
  | .nan, _ => (.nan, 0)
  | _, .nan => (.nan, 0)
  | .inf a, .inf b => if a = b then (.inf a, 0) else (.nan, IV)
  | .inf a, _ => (.inf a, 0)
  | _, .inf b => (.inf b, 0)
  | .fin n a d e, .fin n' a' d' e' =>
    let m := min e e'
    let v := Num.at n a d' e m + Num.at n' a' d e' m
    if v = 0 then (.fin (n && n') 0 1 0, 0)
    else (.fin (decide (v < 0)) v.natAbs (d * d') m, 0)

/-- The exact product; 0 × inf is NaN with IV (R59, R143). -/
def Num.mul (x y : Num) : Num × Fl :=
  match x, y with
  | .nan, _ => (.nan, 0)
  | _, .nan => (.nan, 0)
  | .inf a, .inf b => (.inf (a != b), 0)
  | .inf a, .fin n k _ _ => if k = 0 then (.nan, IV) else (.inf (a != n), 0)
  | .fin n k _ _, .inf b => if k = 0 then (.nan, IV) else (.inf (n != b), 0)
  | .fin n a d e, .fin n' a' d' e' => (.fin (n != n') (a * a') (d * d') (e + e'), 0)

/-- A sum holds both infinities, which sets IV whatever else it holds (R59). -/
def Num.opposed (l : List Num) : Bool := l.contains (.inf false) && l.contains (.inf true)

/-- The exact sum of a list, with the special cases of R59, each of which applies whenever its own condition holds:
the result does not depend on the order of the terms. -/
def Num.sum (l : List Num) : Num × Fl :=
  if l.any Num.isNan || Num.opposed l then (.nan, flagIf (Num.opposed l) IV)
  else match l with
    | [] => (Num.zero false, 0)
    | x :: t => (t.foldl (fun a b => (Num.add a b).1) x, 0)

/-- The exact quotient of finite values, the divisor not 0. -/
def Num.div (x y : Num) : Num :=
  match x, y with
  | .fin n a d e, .fin n' a' d' e' => .fin (n != n') (a * d') (d * a') (e - e')
  | _, _ => .nan

/-- Comparison of two values that are not NaN: the sign of x − y, zeros equal. -/
def Num.cmp (x y : Num) : Int :=
  match x, y with
  | .nan, _ => 0
  | _, .nan => 0
  | .inf a, .inf b => if a = b then 0 else if a then -1 else 1
  | .inf a, _ => if a then -1 else 1
  | _, .inf b => if b then 1 else -1
  | .fin n a d e, .fin n' a' d' e' =>
    let m := min e e'
    (Num.at n a d' e m - Num.at n' a' d e' m).sign

/-! ## Decoding codes -/

/-- A NaN code of R43. -/
def FF.isNanCode (f : FF) (b : Nat) : Bool :=
  match f with
  | .e2m1 => false
  | .e4m3 => b % 128 == 127
  | _ => b / 2 ^ f.mb % 2 ^ f.eb == 2 ^ f.eb - 1 && b % 2 ^ f.mb != 0

/-- A signalling NaN code of R43. -/
def FF.isSnan (f : FF) (b : Nat) : Bool :=
  match f with
  | .e2m1 | .e4m3 | .acc => false
  | _ => f.isNanCode b && b / 2 ^ (f.mb - 1) % 2 == 0

/-- decode of R52 for a float format. -/
def FF.decode (f : FF) (b : Nat) : Num :=
  let s := b / 2 ^ (f.eb + f.mb) % 2 == 1
  let e := b / 2 ^ f.mb % 2 ^ f.eb
  let m := b % 2 ^ f.mb
  if f.isNanCode b then .nan
  else if f.hasInf && e == 2 ^ f.eb - 1 then .inf s
  else if e = 0 then .fin s m 1 (f.emin - f.mb)
  else .fin s (m + 2 ^ f.mb) 1 ((e : Int) - f.bias - f.mb)

/-- decode of an integer code of `w` bits. -/
def intVal (w : Nat) (signed : Bool) (b : Nat) : Int :=
  let v := b % 2 ^ w
  if signed && 2 ^ (w - 1) ≤ v then (v : Int) - 2 ^ w else v

/-- NFC and IV of reading a float code as an operand (R44, R142, R204). -/
def FF.readFl (f : FF) (b : Nat) : Fl := nfc (f.decode b) ||| flagIf (f.isSnan b) IV

/-! ## Rounding -/

/-- rnd_int of R52 for the quotient num / den. -/
def rndInt (num den : Nat) (mode : RMode) (neg : Bool) : Nat :=
  let f := num / den
  let r := num % den
  let up := match mode with
    | .rne => den < 2 * r || (2 * r == den && f % 2 == 1)
    | .rna => den ≤ 2 * r
    | .rtz => false
    | .rup => r != 0 && !neg
    | .rdn => r != 0 && neg
  if up then f + 1 else f

/-- floor(log2(num / den)) for positive num and den. -/
def floorLog2 (num den : Nat) : Int :=
  let k : Int := (Nat.log2 num : Int) - Nat.log2 den
  if num * 2 ^ (-k).toNat < den * 2 ^ k.toNat then k - 1 else k

/-- The modes of R53 whose overflow gives the largest finite value. -/
def overflowMax (mode : RMode) (neg : Bool) : Bool :=
  match mode with
  | .rtz => true
  | .rup => neg
  | .rdn => !neg
  | _ => false

/-- round_to of R52: a code of float format F and the flags raised. -/
def roundTo (x : Num) (f : FF) (mode : RMode) (sat : Bool) : Nat × Fl :=
  match x with
  | .nan => (f.canon, 0)
  | .inf n =>
    if f.hasInf then (f.infCode n, NFP)
    else if sat then (f.maxCode n, IV)
    else (f.canon, IV ||| NFP)
  | .fin n num den exp =>
    if num = 0 then (bit n * 2 ^ (f.eb + f.mb), 0)
    else
      let e := max (floorLog2 num den + exp) f.emin
      let sh := exp - (e - f.mb)
      let a := num * 2 ^ sh.toNat
      let d := den * 2 ^ (-sh).toNat
      let r := rndInt a d mode n
      let nx := r * d != a
      let (r', e') := if r = 2 ^ f.prec then (2 ^ f.mb, e + 1) else (r, e)
      if f.emax < e' || (e' == f.emax && f.maxSig < r') then
        if sat || overflowMax mode n then (f.maxCode n, OF ||| NX)
        else if f.hasInf then (f.infCode n, OF ||| NX ||| NFP)
        else (f.canon, OF ||| NX ||| NFP)
      else
        let tiny := r' < 2 ^ f.mb
        let code := if tiny then r' else (e' + f.bias).toNat * 2 ^ f.mb + (r' - 2 ^ f.mb)
        (bit n * 2 ^ (f.eb + f.mb) + code, flagIf nx NX ||| flagIf (nx && tiny) UF)

/-- FP32 arithmetic rounds once, RNE (R62). -/
def round32 (x : Num) : BitVec 32 × Fl :=
  let r := roundTo x .fp32 .rne false
  (BitVec.ofNat 32 r.1, r.2)

def intMin (w : Nat) (signed : Bool) : Int := if signed then -(2 ^ (w - 1)) else 0

def intMax (w : Nat) (signed : Bool) : Int := if signed then 2 ^ (w - 1) - 1 else 2 ^ w - 1

/-- Two's-complement code of an integer in w bits. -/
def intCode (w : Nat) (i : Int) : Nat := (i % 2 ^ w).toNat

/-- sat_int of R52: a code of an integer format of width w. -/
def satInt (x : Num) (w : Nat) (signed : Bool) (mode : RMode) : Nat × Fl :=
  match x with
  | .nan => (0, IV)
  | .inf n => (intCode w (if n then intMin w signed else intMax w signed), IV)
  | .fin n num den exp =>
    let a := num * 2 ^ exp.toNat
    let d := den * 2 ^ (-exp).toNat
    let m := rndInt a d mode n
    let i : Int := if n then -(m : Int) else m
    if i < intMin w signed then (intCode w (intMin w signed), IV)
    else if intMax w signed < i then (intCode w (intMax w signed), IV)
    else (intCode w i, flagIf (m * d != a) NX)

/-- Integer to integer (R54): clamped to the destination's limits, with OF. -/
def clampInt (i : Int) (w : Nat) (signed : Bool) : Nat × Fl :=
  if i < intMin w signed then (intCode w (intMin w signed), OF)
  else if intMax w signed < i then (intCode w (intMax w signed), OF)
  else (intCode w i, 0)

/-! ## Format descriptors (R49, R50) -/

/-- The descriptor formats with a fixed meaning of a memory code. -/
inductive Fmt where
  | flt (f : FF)
  | int (w : Nat) (signed : Bool)
  | bpi (w k : Nat) (signed : Bool)
  deriving DecidableEq, Repr

/-- FMT with SGN, WID and PLN; the reserved codes cannot be written (R50). -/
def fmtOf (f : BitVec 32) : Fmt :=
  let sgn := f[4]
  match (f.extractLsb' 0 4).toNat with
  | 0 => .flt .fp32
  | 1 => .flt .bf16
  | 2 => .flt .fp16
  | 3 => .flt .e4m3
  | 4 => .flt .e5m2
  | 5 => .flt .e2m1
  | 6 => .int 8 sgn
  | 7 => .int 16 sgn
  | 8 => .int 32 sgn
  | _ => .bpi ((f.extractLsb' 8 3).toNat + 1) ((f.extractLsb' 12 3).toNat + 1) sgn

def fmtSat (f : BitVec 32) : Bool := f[18]

def fmtRnd (f : BitVec 32) : RMode := RMode.ofCode (f.extractLsb' 15 3).toNat

def fmtSubm (f : BitVec 32) : Nat := (f.extractLsb' 20 2).toNat

/-- Width of a memory code. -/
def Fmt.width : Fmt → Nat
  | .flt f => f.width
  | .int w _ => w
  | .bpi w _ _ => w

/-- The rules of R50 that a descriptor value must keep. -/
def fmtLegal (f : BitVec 32) : Bool :=
  let c := (f.extractLsb' 0 4).toNat
  f.extractLsb' 22 10 == 0 && !f[19] && !f[11] && f.extractLsb' 5 3 == 0 && decide (c ≤ 9) &&
  decide ((f.extractLsb' 15 3).toNat ≤ 4) && fmtSubm f != 3 &&
  (!f[4] || decide (6 ≤ c)) &&
  (if c = 9 then f.extractLsb' 8 3 != 0 && f.extractLsb' 12 3 != 0
   else f.extractLsb' 8 3 == 0 && f.extractLsb' 12 3 == 0)

/-- decode of R52 for a descriptor format, without flags. -/
def Fmt.decode (f : Fmt) (b : Nat) : Num :=
  match f with
  | .flt f => f.decode b
  | .int w s => Num.ofInt (intVal w s b)
  | .bpi w k s => Num.ofInt (Int.fdiv (intVal w s b) (2 ^ (w - k)))

/-- NFC and IV of reading a code of a descriptor format: integers raise nothing (R44, R56). -/
def Fmt.readFl (f : Fmt) (b : Nat) : Fl :=
  match f with
  | .flt g => g.readFl b
  | _ => 0

/-- A float code widened to FP32, a NaN code replaced as SUBM says (R54, R55). -/
def widenFlt (f : BitVec 32) (g : FF) (b : Nat) : BitVec 32 × Fl :=
  if g.isNanCode b then
    let neg := b / 2 ^ (g.width - 1) % 2 == 1
    let fl := NFC ||| flagIf (g.isSnan b) IV
    match fmtSubm f with
    | 0 => (0x7FC00000, fl)
    | 1 => ((round32 (Num.zero neg)).1, fl)
    | _ => ((round32 (g.decode (g.maxCode neg))).1, fl)
  else
    let v := g.decode b
    ((round32 v).1, nfc v)

/-- An FP32 element narrowed to a float format by round_to with the descriptor's RND and SAT (R54). -/
def narrowFlt (f : BitVec 32) (g : FF) (x : BitVec 32) : Nat × Fl :=
  let r := roundTo (FF.fp32.decode x.toNat) g (fmtRnd f) (fmtSat f)
  (r.1, r.2 ||| FF.fp32.readFl x.toNat)

/-- A widening load through a descriptor (R54, R55, R161): FP32 for the float formats, INT32 for the integers.
FP32 lines move unchanged (R161). -/
def widen (f : BitVec 32) (b : Nat) : BitVec 32 × Fl :=
  match fmtOf f with
  | .flt .fp32 => (BitVec.ofNat 32 b, 0)
  | .flt g => widenFlt f g b
  | .int w s => (BitVec.ofInt 32 (intVal w s b), 0)
  | .bpi w k s => (BitVec.ofInt 32 (Int.fdiv (intVal w s b) (2 ^ (w - k))), 0)

/-- A narrowing store of a register element through a descriptor (R53, R54): the register holds FP32 for the
float formats and INT32 of the descriptor's SGN for the integers. FP32 lines move unchanged (R161). -/
def narrow (f : BitVec 32) (x : BitVec 32) : Nat × Fl :=
  match fmtOf f with
  | .flt .fp32 => (x.toNat, 0)
  | .flt g => narrowFlt f g x
  | .int 32 _ => (x.toNat, 0)
  | .int w s => clampInt (intVal 32 s x.toNat) w s
  | .bpi w _ _ => (x.toNat % 2 ^ w, 0)

/-- A row element of `xtld`: every format, FP32 too, is converted with the substitution of R55 (R223). -/
def widenLine (f : BitVec 32) (b : Nat) : BitVec 32 × Fl :=
  match fmtOf f with
  | .flt g => widenFlt f g b
  | _ => widen f b

/-- A row element of `xtst`: every format, FP32 too, is narrowed by round_to (R223). -/
def narrowLine (f : BitVec 32) (x : BitVec 32) : Nat × Fl :=
  match fmtOf f with
  | .flt g => narrowFlt f g x
  | _ => narrow f x

end Sys2Proof.Machine
end

