-- ==== Sys2Proof/Machine/Operands.lean ====
section
/-!
DEFINITION. The operand forms: register files, predicates, immediates, the network word, patterns and their
routes, latches and addresses.
-/

namespace Sys2Proof.Machine

/-! ## Register files (R63, R64) -/

/-- s[r]; s0 reads 0 (R64). -/
def Core.rs (c : Core) (r : BitVec 6) : BitVec 64 := if r = 0 then 0 else vget 0 c.s r.toNat

/-- A write of s[r]; a write of s0 is discarded (R64). -/
def Core.ws (c : Core) (r : BitVec 6) (v : BitVec 64) : Core :=
  if r = 0 then c else { c with s := vset c.s r.toNat v }

/-- p[r]; p0 reads all ones (R64). -/
def Core.rp (c : Core) (r : BitVec 4) : BitVec 1024 := if r = 0 then BitVec.allOnes 1024 else vget 0 c.p r.toNat

def Core.wp (c : Core) (r : BitVec 4) (v : BitVec 1024) : Core :=
  if r = 0 then c else { c with p := vset c.p r.toNat v }

def VReg.zero : VReg := gen 1024 fun _ => 0

def Core.rv (c : Core) (r : BitVec 5) : VReg := vget VReg.zero c.v r.toNat

/-- Element e of a register image. -/
def el (v : VReg) (e : Nat) : BitVec 32 := vget 0 v e

/-- A write of v[r]: an element outside the mask keeps its value (R140). -/
def Core.wv (c : Core) (r : BitVec 5) (x : VReg) (mask : BitVec 1024) : Core :=
  let old := c.rv r
  { c with v := vset c.v r.toNat (gen 1024 fun e => if mask.getLsbD e then el x e else el old e) }

def Core.rf (c : Core) (r : BitVec 3) : BitVec 32 := vget 0 c.f r.toNat
def Core.rk (c : Core) (r : BitVec 3) : BitVec 64 := vget 0 c.k r.toNat
def Core.rx (c : Core) (r : BitVec 3) : List (BitVec 8) := vget [] c.x r.toNat

/-- The predicate of a word, bit e for element e (R94). -/
def Core.mask (c : Core) (pd : Pd) : BitVec 1024 := if pd.neg then ~~~ (c.rp pd.reg) else c.rp pd.reg

/-- The whole word is active (R94). -/
def Core.on (c : Core) (pd : Pd) : Bool := (c.mask pd).getLsbD 0

/-! ## Immediates -/

def sext32 (i : BitVec 32) : BitVec 64 := i.signExtend 64
def sext24 (i : BitVec 24) : BitVec 64 := i.signExtend 64
def sext16 (i : BitVec 16) : BitVec 64 := i.signExtend 64

/-- Bytes of an access (R96). -/
def szBytes (sz : BitVec 2) : Nat := 2 ^ sz.toNat

/-- The value of `n` bytes taken by a load into a register (R121). -/
def extend (n : Nat) (sx : Bool) (v : Nat) : BitVec 64 :=
  if sx && 2 ^ (8 * n - 1) ≤ v % 2 ^ (8 * n) then BitVec.ofInt 64 ((v % 2 ^ (8 * n) : Nat) - (2 : Int) ^ (8 * n))
  else BitVec.ofNat 64 (v % 2 ^ (8 * n))

/-- DL as frame ticks (R128). -/
def dlTicks (dl : BitVec 16) : Nat := dl.toNat % 2048 * 2 ^ (dl.toNat / 2048)

/-! ## The network word (R92) -/

/-- Pattern index and base row of network A (0), B (1) or W (2). -/
def netPat (n : BitVec 64) (k : Nat) : Nat := fld n.toNat (18 * k) 9
def netRow (n : BitVec 64) (k : Nat) : Nat := fld n.toNat (18 * k + 9) 9

/-! ## Carousel routes (R72 to R74) -/

/-- d(s). -/
def stageD (s : Nat) : Nat := if s ≤ 9 then 9 - s else s - 9

/-- The switch of stage s that line p meets. -/
def switchOf (s p : Nat) : Nat := p / 2 ^ (stageD s + 1) * 2 ^ stageD s + p % 2 ^ stageD s

/-- Line p's partner in stage s. -/
def partner (s p : Nat) : Nat :=
  if p / 2 ^ stageD s % 2 = 0 then p + 2 ^ stageD s else p - 2 ^ stageD s

/-- The port from which a load through `sw` delivers line e, which is also the port that a store sends element e to
(R74). -/
def portOf (sw : BitVec 9728) (e : Nat) : Nat :=
  (tab 19 fun i => 18 - i).foldl (fun p s => if sw.getLsbD (s * 512 + switchOf s p) then partner s p else p) e

def Pattern.group (p : Pattern) (b : Nat) : Nat := fld p.gs.toNat (2 * b) 2
def Pattern.rowOff (p : Pattern) (b : Nat) : Nat := fld p.off.toNat (9 * b) 9
def Pattern.echo (p : Pattern) (e : Nat) : Bool := p.ev.getLsbD e
def Pattern.echoSrc (p : Pattern) (e : Nat) : Nat := fld p.es.toNat (10 * e) 10

/-- The bank row that port b reaches under base row r (R74). -/
def Pattern.rowAt (p : Pattern) (dyn : Bool) (r b : Nat) : Nat := if dyn then (r + p.rowOff b) % 512 else r % 512

/-- The local address of port b's bank word. -/
def Pattern.addr (p : Pattern) (dyn : Bool) (r b : Nat) : Nat :=
  p.rowAt dyn r b * 16384 + p.group b * 4096 + b * 4

/-- Pattern index i: a static pattern of the image, or a dynamic slot of the core (R75). -/
def Core.pattern (c : Core) (img : Image) (i : Nat) : Pattern × Bool :=
  if 256 ≤ i then (vget Pattern.identity c.dyn (i - 256), true)
  else (((img.pats.find? fun x => x.1 == i).map (·.2)).getD Pattern.identity, false)

/-! ## Latches (R79, R81) -/

/-- Depth of queue n. -/
def qDepth (n : Nat) : Nat := if n ≤ 1 then 4 else if n ≤ 5 then 64 else if n = 6 then 8 else 16

/-- The head entry as 32-bit words; an empty queue reads zero. -/
def Core.qhead (c : Core) (n : Nat) : List (BitVec 32) := (vget [] c.q n).headD []

/-- The head as a register image, padded with zeros. -/
def Core.qimage (c : Core) (n : Nat) : VReg :=
  let h := c.qhead n
  gen 1024 fun e => h.getD e 0

/-- Bits [63:0] of the head. -/
def Core.qword (c : Core) (n : Nat) : BitVec 64 :=
  let h := c.qhead n
  BitVec.ofNat 64 ((h.getD 0 0).toNat + 2 ^ 32 * (h.getD 1 0).toNat)

/-- QSTAT (R81). -/
def Core.qstat (c : Core) : BitVec 64 :=
  BitVec.ofNat 64 ((tab 8 fun n => ((vget [] c.q n).length + 128 * bit (c.ep.getLsbD n)) * 2 ^ (8 * n)).sum)

/-! ## Element order -/

/-- The vector whose element e is f e. -/
def vmap (f : Nat → BitVec 32) : VReg := gen 1024 f

/-- Number of set bits of a predicate. -/
def popcount (m : BitVec 1024) : Nat := ((tab 1024 fun e => bit (m.getLsbD e))).sum

/-- The lowest set bit of a predicate. -/
def firstSet (m : BitVec 1024) : Option Nat := (tab 1024 id).find? fun e => m.getLsbD e

/-- A predicate from a test on each element. -/
def pmap (f : Nat → Bool) : BitVec 1024 := BitVec.ofNat 1024 ((tab 1024 fun e => bit (f e) * 2 ^ e).sum)

end Sys2Proof.Machine
end

