-- ==== Sys2Proof/Machine/Ops.lean ====
section
/-!
DEFINITION. The operations over memories, cores and records that the meanings share: byte memories, the issuing
word, scheduling, exceptions and their records, handler entry and return, suspension and resumption.
-/

namespace Sys2Proof.Machine

/-! ## Byte memories -/

/-- The byte at an address; an unlisted one is 0. -/
def Mem.get : Mem → Nat → Byte
  | [], _ => 0
  | c :: m, a => if c.1 = a then c.2 else Mem.get m a

/-- A write of one byte, in canonical form. -/
def Mem.set : Mem → Nat → Byte → Mem
  | [], a, b => if b = 0 then [] else [(a, b)]
  | c :: m, a, b =>
    if a < c.1 then (if b = 0 then c :: m else (a, b) :: c :: m)
    else if a = c.1 then (if b = 0 then m else (a, b) :: m)
    else c :: Mem.set m a b

def Mem.read (m : Mem) (a n : Nat) : List Byte := tab n fun i => m.get (a + i)

def Mem.write : Mem → Nat → List Byte → Mem
  | m, _, [] => m
  | m, a, b :: l => Mem.write (m.set a b) (a + 1) l

/-- A write of the bytes that are present. -/
def Mem.writeO : Mem → Nat → List (Option Byte) → Mem
  | m, _, [] => m
  | m, a, none :: l => Mem.writeO m (a + 1) l
  | m, a, some b :: l => Mem.writeO (m.set a b) (a + 1) l

/-- A little-endian number of n bytes (R4). -/
def Mem.num (m : Mem) (a n : Nat) : Nat := leNat (m.read a n)

def Mem.putNum (m : Mem) (a n v : Nat) : Mem := m.write a (leBytes n v)

/-! ## Reaching a core -/

def State.troupe? (s : State) (t : Nat) : Option Troupe := s.troupes[t]?

def State.setTroupe (s : State) (t : Nat) (x : Troupe) : State := { s with troupes := s.troupes.set t x }

def State.modTroupe (s : State) (t : Nat) (f : Troupe → Troupe) : State :=
  match s.troupe? t with
  | none => s
  | some x => s.setTroupe t (f x)

def State.mg (s : State) (m : Nat) : Mgmt := vget Mgmt.reset s.mgmt m

def State.setMg (s : State) (m : Nat) (x : Mgmt) : State := { s with mgmt := vset s.mgmt m x }

/-- The core an agent names. -/
def State.core? (s : State) : Agent → Option Core
  | .core t r => (s.troupe? t).bind fun x => x.cores[r]?
  | .mgmt m => if m < 2 then some (s.mg m).core else none

def State.setCore (s : State) (a : Agent) (c : Core) : State :=
  match a with
  | .core t r => s.modTroupe t fun x => { x with cores := x.cores.set r c }
  | .mgmt m => s.setMg m { s.mg m with core := c }

def State.modCore (s : State) (a : Agent) (f : Core → Core) : State :=
  match s.core? a with
  | none => s
  | some c => s.setCore a (f c)

/-- The count in which the agent's issue+n is measured: VCC advances of its troupe (R19, R29), wall cycles of a
management core (R403). -/
def State.now (s : State) : Agent → Nat
  | .core t _ => ((s.troupe? t).map (·.adv)).getD 0
  | .mgmt m => (s.mg m).adv

/-- The code stream an agent's core issues from. -/
def Troupe.streamOf (x : Troupe) (rank : Nat) : Stream :=
  (x.image.streams.find? fun st => st.ranks.getLsbD rank).getD
    { ranks := 0, code := [], bundles := 0, sps := [], bank := [] }

def State.stream (s : State) (a : Agent) : Stream :=
  match a with
  | .core t r => match s.troupe? t with
    | some x => x.streamOf ((x.cores[r]?.map (·.rank)).getD 0)
    | none => { ranks := 0, code := [], bundles := 0, sps := [], bank := [] }
  | .mgmt m => (s.mg m).stream

/-- Word w of the bundle at address pc. -/
def Stream.word (st : Stream) (pc w : Nat) : Nat := st.code.num (pc + 8 * w) 8

/-! ## The issuing word -/

/-- The agent, word number, issue cycle and core of the word that issues. -/
structure Iss where
  ag : Agent
  w : Nat
  now : Nat
  core : Core
  deriving DecidableEq, Repr

/-- The word that issues now. -/
def State.issuer (s : State) : Option Iss :=
  match s.cursor with
  | .word t r w => (s.core? (.core t r)).map fun c => ⟨.core t r, w, s.now (.core t r), c⟩
  | .mword m w => (s.core? (.mgmt m)).map fun c => ⟨.mgmt m, w, s.now (.mgmt m), c⟩
  | _ => none

/-- The cursor at the next word. -/
def Cursor.nextWord : Cursor → Cursor
  | .word t r w => .word t r (w + 1)
  | .mword m w => .mword m (w + 1)
  | c => c

def State.nextWord (s : State) : State := { s with cursor := s.cursor.nextWord }

/-- Word w of the current bundle has taken effect (R274, R275). -/
def Core.tookEffect (c : Core) (w : Nat) : Core := { c with done := c.done ||| BitVec.ofNat 8 (2 ^ w) }

/-- The word takes effect, leaving core `c` (R274). -/
def State.did (s : State) (x : Iss) (c : Core) : State := (s.setCore x.ag (c.tookEffect x.w)).nextWord

/-- Schedule an effect to perform at issue+n (R19). -/
def Core.sched (c : Core) (x : Iss) (n : Nat) (act : Act) (fl : Fl := 0) : Core :=
  let p : Pend := { due := x.now + n, iss := x.now, word := x.w, baddr := c.pc, act := act, flags := fl,
                    rtn := if x.w = 5 then c.rtnOn else none }
  { c with pend := c.pend ++ [p] }

/-- A charge of class `cls` on the core's own die (R288). -/
def Core.charge (c : Core) (cls n : Nat) : Core := { c with chg := c.chg ++ [(c.die, cls, n)] }

/-! ## Causes (R278) -/

/-- What an exception of the issue cycle carries (R279). -/
structure Exc where
  cause : Nat
  sub : Nat := 0
  addr : Nat := 0
  aux0 : BitVec 64 := 0
  aux1 : BitVec 64 := 0
  hnd : BitVec 32 := 0
  code : BitVec 16 := 0
  deriving DecidableEq, Repr

def illegalOperand : Exc := { cause := 0x03 }
def privilege : Exc := { cause := 0x02 }
def structural : Exc := { cause := 0x04 }
def misaligned (a : Nat) : Exc := { cause := 0x09, addr := a }
def addressFault (a : Nat) : Exc := { cause := 0x08, addr := a }
def handleFault (a : Nat) : Exc := { cause := 0x0C, addr := a }
def counterHandle : Exc := { cause := 0x10 }

/-- The Resume column. -/
inductive Resume where
  | yes | no | fatal
  deriving DecidableEq, Repr

def resumeOf (cause sub : Nat) (deferred : Bool) : Resume :=
  match cause with
  | 0x05 => if sub = 1 then .yes else .no
  | 0x08 => if deferred then .yes else .no
  | 0x0A | 0x0B | 0x11 | 0x12 | 0x14 | 0x20 | 0x21 => .yes
  | 0x13 => .no
  | _ => .fatal

/-! ## Interrupts (R268) -/

def State.bank (s : State) (p : Nat) : Bank := vget Bank.reset s.banks p

def State.modBank (s : State) (p : Nat) (f : Bank → Bank) : State := { s with banks := vmod Bank.reset s.banks p f }

/-- A hypervisor bit becomes pending on both management cores (log 5). -/
def State.setHvIp (s : State) (i : Nat) : State :=
  { s with mgmt := gen 2 fun m => { s.mg m with ipHv := (s.mg m).ipHv ||| BitVec.ofNat 10 (2 ^ i) } }

/-- A supervisor bit of partition p becomes pending; a management core whose HV_PART names another partition also
gets PATN (R268). -/
def State.setIp (s : State) (p i : Nat) : State :=
  let s := s.modBank p fun b => { b with ip := b.ip ||| BitVec.ofNat 8 (2 ^ i) }
  { s with mgmt := gen 2 fun m =>
      let x := s.mg m
      if x.part.toNat = p then x else { x with ipHv := x.ipHv ||| 0x100 } }

/-- MC_IP and MC_IE of a management core. -/
def State.mcIp (s : State) (m : Nat) : BitVec 10 :=
  let x := s.mg m
  ((s.bank x.part.toNat).ip.zeroExtend 10 &&& 0x04F) ||| (x.ipHv &&& 0x330)

def State.mcIe (s : State) (m : Nat) : BitVec 10 :=
  let x := s.mg m
  ((s.bank x.part.toNat).ie.zeroExtend 10 &&& 0x04F) ||| (x.ieHv &&& 0x330)

/-! ## Entry to a handler, and the return (R272, R273) -/

/-- ECAUSE (R267). -/
def ecause (cause sub plvl : Nat) (dfr pien int : Bool) (done slot : Nat) : BitVec 64 :=
  BitVec.ofNat 64 (cause % 256 + sub % 256 * 2 ^ 8 + plvl % 4 * 2 ^ 16 + bit dfr * 2 ^ 18 + bit pien * 2 ^ 19 +
    bit int * 2 ^ 20 + done % 256 * 2 ^ 24 + slot % 8 * 2 ^ 32)

/-- The package tells the host something. -/
def State.tell (s : State) (n : HostNote) : State := { s with hostOut := s.hostOut ++ [n] }

/-- Entry to the handler of the hypervisor or of the current partition's supervisor: the pc and the cause are
saved, the level and IEN change, and the bundle at EVEC issues 3 cycles later. A second entry to the hypervisor's
handler stops the core and is reported to the host (R272). -/
def State.enter (s : State) (m : Nat) (hyp : Bool) (epc : Nat) (ec : BitVec 64) (ea : BitVec 64) : State :=
  let x := s.mg m
  if hyp && x.hexl then (s.setMg m { x with dead := true }).tell (.doubleFault m)
  else
    let c := x.core
    let vec := if hyp then x.hvEvec else (s.bank x.part.toNat).mcEvec
    let again (f : Fetch) : Bool := decide (f.due ≤ x.adv) && f.st == .walking
    let stale (w : Wait) : Bool := w.op == 0 && w.report.isNone
    let dfr := ec[18]
    let kept : Kept := { epc := epc, xfer := c.xfer, eret := c.eret,
                         fetches := if dfr then c.fetches.filter again else [],
                         wait := if dfr && c.wait.any stale then c.wait else none,
                         raised := if dfr then c.raised.drop 1 else c.raised }
    let core : Core :=
      { c with pc := vec.toNat, xfer := none, eret := none, done := 0, failed := false, raised := [], reissue := false,
               fetches := if dfr then c.fetches.filter fun f => !again f else c.fetches,
               wait := if kept.wait.isSome then none else c.wait }
    let y : Mgmt :=
      { x with lvl := if hyp then 2 else 1, ien := false, hexl := x.hexl || hyp, sexl := x.sexl || !hyp, halted := false,
               stall := s.wall + 3, core := core }
    if hyp then s.setMg m { y with hvEpc := BitVec.ofNat 64 epc, hvEcause := ec, hvEaddr := ea, keptHv := some kept }
    else (s.setMg m { y with keptSv := some kept }).modBank x.part.toNat fun b =>
      { b with mcEpc := BitVec.ofNat 64 epc, mcEcause := ec, mcEaddr := ea }

/-- Whether a fault on management core m enters the hypervisor's handler (R272). -/
def Mgmt.toHyp (x : Mgmt) (cause : Nat) : Bool := cause == 0x02 || x.lvl == 2 || x.sexl

/-- A fault on a management core enters its handler (R272). -/
def State.mgmtFault (s : State) (m : Nat) (cause sub slot done : Nat) (dfr : Bool) (ea : BitVec 64) : State :=
  let x := s.mg m
  s.enter m (x.toHyp cause) x.core.pc (ecause cause sub x.lvl.toNat dfr x.ien false done slot) ea

/-- The cursor at the end of a management core's cycle, once its words are over. -/
def Cursor.afterMgmt (m : Nat) : Cursor := .mword m 9

/-- The cursor after a management core's cycle: the other one, then the quota keeper, then the troupes (log 1). -/
def Cursor.pastMgmt (m : Nat) : Cursor := if m = 0 then .mgmt 1 else .auto 20

/-- What a fault of the issue cycle leaves on a compute core: the record's content, and no later word of the
bundle (R274, R275). -/
def Core.raise (c : Core) (w : Nat) (e : Exc) (dfr : Bool) (done : BitVec 8) (baddr : Nat)
    (rtn : Option Nat := none) : Core :=
  { c with failed := true,
           raised := c.raised ++ [
            { cause := BitVec.ofNat 8 e.cause, sub := BitVec.ofNat 8 e.sub, word := some w, deferred := dfr,
              done := done, baddr := baddr, addr := BitVec.ofNat 64 (rtn.getD e.addr), aux0 := e.aux0,
              aux1 := e.aux1, hnd := e.hnd, code := e.code, hcs := 0, rtnw := rtn.isSome, kill := false }] }

/-- TAKING AN EXCEPTION: the word that issues raises a cause in its issue cycle. A compute core records it and the
troupe suspends or retires at the cycle's end (R274, R275); a management core enters its handler (R272). -/
def State.except (s : State) (x : Iss) (c : Core) (e : Exc) : State :=
  let done := c.done ||| 2
  match x.ag with
  | .core _ _ => (s.setCore x.ag (c.raise x.w e false done c.pc (if x.w = 5 then c.rtnOn else none))).nextWord
  | .mgmt m =>
    { (s.setCore x.ag c).mgmtFault m e.cause e.sub x.w done.toNat false (BitVec.ofNat 64 e.addr) with
        cursor := .afterMgmt m }

/-- What a word's meaning yields: the core after it took effect, or the cause it raises. -/
inductive Res where
  | done (c : Core)
  | exc (e : Exc)
  /-- takes effect and then raises (R137, R138) -/
  | doneExc (c : Core) (e : Exc)
  deriving DecidableEq, Repr

/-- A word's result becomes the state's. -/
def State.finish (s : State) (x : Iss) : Res → State
  | .done c => s.did x c
  | .exc e => s.except x x.core e
  | .doneExc c e => s.except x (c.tookEffect x.w) e

/-- A word of S, M, C0 or C1, governed as a whole by bit 0 of its predicate (R94): its meaning sees the issuing
word and answers the core afterwards or a cause. `cls` is its class of R292, if it has one. -/
def coreWord (pd : Pd) (cls : Option Nat) (s : State) (f : Iss → Res) : Host.Outcome State Fault Refusal :=
  match s.issuer with
  | none => .refused .noIssuer
  | some x =>
    if x.core.on pd then
      match cls with
      | some k => .next (s.finish x (f { x with core := x.core.charge k 1 }))
      | none => .next (s.finish x (f x))
    else .next (s.did x x.core)

/-- A word of V0 or V1, governed element by element (R94); it is inactive when no element is active. -/
def vecWord (pd : Pd) (cls : Option Nat) (s : State) (f : Iss → BitVec 1024 → Res) :
    Host.Outcome State Fault Refusal :=
  match s.issuer with
  | none => .refused .noIssuer
  | some x =>
    let m := x.core.mask pd
    match cls with
    | some k => if m = 0 then .next (s.finish x (f x m))
                else .next (s.finish x (f { x with core := x.core.charge k 1 } m))
    | none => .next (s.finish x (f x m))

/-- A word whose effect reaches beyond its core: the meaning answers the whole state, or a cause. -/
def pkgWord (pd : Pd) (s : State) (f : Iss → State ⊕ Exc) : Host.Outcome State Fault Refusal :=
  match s.issuer with
  | none => .refused .noIssuer
  | some x =>
    if x.core.on pd then
      match f { x with core := x.core.charge 0x01 1 } with
      | .inl s' => .next s'
      | .inr e => .next (s.except x x.core e)
    else .next (s.did x x.core)

/-! ## Fault records (R279) -/

/-- The 64 bytes of a record as a number. -/
def Raised.pack (f : Raised) (tr : Troupe) (rank wall : Nat) (rout : Bool) : Rec :=
  BitVec.ofNat 512 (f.cause.toNat + f.done.toNat * 2 ^ 8 + tr.seq % 2 ^ 16 * 2 ^ 16 + f.sub.toNat * 2 ^ 32 +
    f.word.getD 0 * 2 ^ 48 + bit f.word.isSome * 2 ^ 53 + bit f.deferred * 2 ^ 54 + bit f.rtnw * 2 ^ 55 +
    bit rout * 2 ^ 56 + rank % 256 * 2 ^ 72 + tr.num % 2 ^ 16 * 2 ^ 80 + f.baddr % 2 ^ 28 * 2 ^ 100 +
    tr.vcc.toNat * 2 ^ 128 + f.hnd.toNat * 2 ^ 192 + f.hcs.toNat * 2 ^ 236 +
    f.code.toNat * 2 ^ 240 + f.addr.toNat * 2 ^ 256 + f.aux0.toNat * 2 ^ 320 +
    (if rout then tr.rcount else f.aux1.toNat) * 2 ^ 384 + wall % 2 ^ 64 * 2 ^ 448)

/-- A troupe is in a save or restore routine (R283, R285). -/
def Troupe.inRoutine (tr : Troupe) : Bool :=
  tr.st == .saving || tr.st == .restoring || (tr.st == .suspended && (tr.back == .saving || tr.back == .restoring))

/-- Pre-emption requests are made, bit i for cause 0x40 + i; those that are made after a restore phase count at the resumed
n (R282, R286). -/
def Troupe.request (tr : Troupe) (bits : BitVec 5) : Troupe :=
  { tr with prq := tr.prq ||| bits, noPre := tr.noPre.map fun q => (q.1, q.2 &&& ~~~ bits) }

/-- The requests that a troupe safe point in the present cycle takes: at a resumed n not those of its routine phase. -/
def Troupe.asked (tr : Troupe) : BitVec 5 :=
  match tr.noPre with
  | some (n, m) => if n = tr.adv then tr.prq &&& ~~~ m else tr.prq
  | none => tr.prq

/-- Append the record of one raised cause. -/
def Troupe.addRec (tr : Troupe) (rank wall : Nat) (f : Raised) : Troupe :=
  { tr with recs := tr.recs ++ [f.pack tr rank wall tr.inRoutine], seq := tr.seq + 1,
            noResume := tr.noResume || resumeOf f.cause.toNat f.sub.toNat f.deferred == .no }

/-- The raised causes of a troupe in rank order. -/
def Troupe.raisedAll (tr : Troupe) : List (Nat × Raised) :=
  tr.cores.flatMap fun c => c.raised.map fun f => (c.rank, f)

/-- A cause that retires the troupe at once (R278, R286). -/
def Troupe.fatal (tr : Troupe) (f : Raised) : Bool :=
  f.kill || resumeOf f.cause.toNat f.sub.toNat f.deferred == .fatal ||
  (tr.inRoutine && resumeOf f.cause.toNat f.sub.toNat f.deferred != .yes)

/-- The troupe retires by a fault, a command or a stop (R281): nothing pending is performed, the egress entries
are discarded, the cores are freed; the end is reported with `status`. -/
def Troupe.retireWith (tr : Troupe) (status : BitVec 16) : Troupe :=
  { tr with st := .retiring, status := some status, kept := tr.cores.map (fun c => (c.pc, c.fin)), cores := [],
            holds := [], resumeAt := none, realign := false }

/-- SUSPENSION AT THE END OF A CYCLE: every raised cause gives one record, in rank order; a fatal one retires the
troupe with its status, any other suspends it and leaves it unaligned (R275, R278, R28). -/
def Troupe.settle (tr : Troupe) (wall : Nat) : Troupe :=
  match tr.raisedAll with
  | [] => tr
  | fs =>
    let tr' : Troupe := fs.foldl (fun t f => t.addRec f.1 wall f.2) tr
    let tr' : Troupe := { tr' with cores := tr'.cores.map fun c => { c with raised := [], failed := false } }
    match fs.find? fun f => tr.fatal f.2 with
    | some f => tr'.retireWith (f.2.cause ++ f.2.sub)
    | none => { tr' with st := .suspended, back := if tr.st == .saving || tr.st == .restoring then tr.st else if tr.st == .suspended then tr.back else .running,
                         unal := true, run := 0, holds := [] }

/-! ## Planes (R353, R357, R358) -/

/-- The bucket of a plane address (R353). -/
def bucketOf (a : Nat) : Nat :=
  (tab 10 fun i => a / 512 / 2 ^ (6 * i) % 64).foldl (fun x y => x ^^^ y) 0

def State.planeOf (s : State) (a : Nat) : BitVec 2 := vget 0 s.pmap (bucketOf a)

/-- What travels within the package under a plane address, ready at its source since wall cycle `sent`, can be accepted: its
plane lives; in a quiesce it was injected before the declaration, and on a plane that stays (R357, R358; log 57). -/
def State.planeOpen (s : State) (a sent : Nat) : Bool :=
  let p := (s.planeOf a).toNat
  s.live.getLsbD p && match s.qs with
    | none => true
    | some (kill, _) => !kill.getLsbD p && decide (sent < s.qsFrom)

/-- The same of what is injected only as memory accepts it (log 57): none of it in a quiesce. -/
def State.planeFree (s : State) (a : Nat) : Bool := s.qs.isNone && s.live.getLsbD (s.planeOf a).toNat

/-- The plane address of a counter's operations (R353). -/
def ctrAddr (h : BitVec 32) : Nat := h.toNat * 2 ^ 9

/-! ## Counter operations on their way (R126) -/

def State.fresh (s : State) : State := { s with nextId := s.nextId + 1 }

/-- An operation leaves for the counter's home engine. -/
def State.postCtr (s : State) (h : BitVec 32) (k : CtrKind) (src : CtrSrc) : State :=
  { s.fresh with ctrOps := s.ctrOps ++ [{ id := s.nextId, handle := h, kind := k, src := src, sent := s.wall }] }

/-- A unit's add of 1 to the counter of a handle leaves for its home (R345): dropped where it cannot apply (R405). -/
def State.postSignal (s : State) (h : BitVec 32) : State := s.postCtr h (.add 1) .system

/-! ## Vfs, partitions, dies -/

def State.vf (s : State) (v : Nat) : Vf := vget Vf.reset s.vfs v

def State.modVf (s : State) (v : Nat) (f : Vf → Vf) : State := { s with vfs := vmod Vf.reset s.vfs v f }

def State.part (s : State) (p : Nat) : Part := vget Part.none s.parts p

def State.modPart (s : State) (p : Nat) (f : Part → Part) : State := { s with parts := vmod Part.none s.parts p f }

/-- An event that the state does not meet (log 2). -/
def notEnabled (row : String) : Host.Outcome State Fault Refusal := .refused (.notEnabled row)

/-! ## Commands that are over (R219) -/

/-- The command is over (R219): started, every piece performed, the scale register of an `xscl` among them, nothing in its
store buffer, every write and add acknowledged. -/
def Core.cmdOver (c : Core) (k : Cmd) : Bool :=
  k.started && decide (k.total ≤ k.next) && k.buf.isEmpty && k.outstanding == 0 && k.failed.isNone &&
  !c.pend.any fun p => match p.act with
    | .cmd j _ _ => j == k.id
    | .xcpyOut j _ _ => j == k.id
    | .wX .. => p.word == k.word && p.iss == k.iss
    | _ => false

def Core.sweep (c : Core) : Core := { c with cmds := c.cmds.filter fun k => !c.cmdOver k }

end Sys2Proof.Machine
end

