-- ==== Sys2Proof/Machine/Translate.lean ====
section
/-!
DEFINITION. Physical memory, page tables, the checks of R335 and the translation caches (R331 to R340), and the
memory G as its agents see it (R244 to R253).
-/

namespace Sys2Proof.Machine

/-! ## Memory homes (R331) -/

/-- The near-tier stack or far-tier port (8 + p) that homes a physical address. -/
def homeOf (pa : Nat) : Option Nat :=
  if pa < 2 ^ 40 then (if pa % 2 ^ 37 < 96 * 10 ^ 9 then some (pa / 2 ^ 37) else none)
  else if 2 ^ 43 ≤ pa && pa < 2 ^ 43 + 8 * 2 ^ 40 then
    (if (pa - 2 ^ 43) % 2 ^ 40 < Config.farBytes ((pa - 2 ^ 43) / 2 ^ 40) then some (8 + (pa - 2 ^ 43) / 2 ^ 40)
     else none)
  else none

def isFar (pa : Nat) : Bool := 2 ^ 43 ≤ pa

/-- The die at which an access to a physical address is priced and served: near-tier die, or the far-tier die of
the port (ports 0 to 3 on die 8, 4 to 7 on die 9, log 17). -/
def dieOf (pa : Nat) : Nat := if isFar pa then 8 + (pa - 2 ^ 43) / 2 ^ 40 / 4 else pa / 2 ^ 37

/-- A frame is wholly installed. -/
def frameInstalled (far : Bool) (f : Nat) : Bool :=
  let b := if far then 2 ^ 43 + f * 2 ^ 30 else f * 2 ^ 30
  (homeOf b).isSome && (homeOf (b + 2 ^ 30 - 1)).isSome

/-- A physical address lies in a frame of the partition (R325). -/
def Part.holds (p : Part) (pa : Nat) : Bool :=
  if isFar pa then p.far.any fun r => r.1 ≤ (pa - 2 ^ 43) / 2 ^ 30 && (pa - 2 ^ 43) / 2 ^ 30 < r.1 + r.2
  else p.near.any fun r => r.1 ≤ pa / 2 ^ 30 && pa / 2 ^ 30 < r.1 + r.2

/-- The byte of physical memory at an address; one that is no memory reads as a free byte (log 54). -/
def Mem.cell (m : Mem) (free pa : Nat) : Byte := if (homeOf pa).isSome then m.get pa else Config.noMemory free pa

/-- A page's accesses wait: its CXL port is down, its stack or far-tier die is gated, or its die is in reset (R371, R398,
R399). -/
def State.portDown (s : State) (pa : Nat) : Bool :=
  (isFar pa && (s.cxlDown.getLsbD ((pa - 2 ^ 43) / 2 ^ 40) || (s.gateFt1 && dieOf pa == 9))) ||
  (!isFar pa && s.gateStk.getLsbD (dieOf pa)) || s.resetting == some (dieOf pa)

/-- Every granule of the page at a physical address has a plane that carries it (R353, R358). -/
def State.pageFree (s : State) (pa : Nat) : Bool :=
  s.qs.isNone && (s.live == 0xF || (tab 8 id).all fun i => s.planeFree (pa / 4096 * 4096 + 512 * i))

/-! ## Host memory (R85, R369) -/

/-- The second host root presents a VF: the mode of far-tier die 1's host port, and the hypervisor's assignment, for which the
spec names no register (log 59). -/
def State.secondRoot (s : State) (v : Option Nat) : Bool := s.hpCfg == 1 && v.any Config.secondRoot

/-- The memory of the host that presents a VF; the first root's for a management core (R369). -/
def State.hostMem (s : State) (v : Option Nat) : Mem := if s.secondRoot v then s.hmem2 else s.hmem

def State.hostWrite (s : State) (v : Option Nat) (a : Nat) (l : List Byte) : State :=
  if s.secondRoot v then { s with hmem2 := s.hmem2.write a l } else { s with hmem := s.hmem.write a l }

/-- Every granule of an IOVA range has a plane that carries it (R353, R358). -/
def State.hostFree (s : State) (a n : Nat) : Bool := s.qs.isNone && (tab (n / 512 + 2) fun i => a / 512 * 512 + 512 * i).all fun g => decide (a + n ≤ g) || s.planeFree g

/-! ## What is accepted, and what each core sees (R246, R249, R250) -/

/-- The latest accepted content of G: what the agents without a snapshot read, which is no store still unpublished
(R252). -/
def State.latest (s : State) : Mem := (s.ghist.filter fun w => w.pub).foldl (fun m w => m.writeO w.pa w.bytes) s.gmem

/-- Die and local index under which an agent's stores and snapshots stand; a management core is alone on its far-tier die
(R244, R262). -/
def Core.site (c : Core) (a : Agent) : Nat × Nat :=
  match a with
  | .core _ _ => (c.die, c.loc)
  | .mgmt m => (8 + m, 0)

/-- A core lies in the scope of a write (R244). -/
def GWrite.within (w : GWrite) (die loc : Nat) : Bool :=
  w.die == die && (w.scope == 2 || (w.scope == 1 && w.loc / 4 == loc / 4) || w.loc == loc)

/-- The snapshot of a core that is renewed now: the writes published to a scope that holds it, and of the others
those that a free choice lets it observe (R250); a store that no phase has published yet is none of them (R247). The
second result is the history with those observations noted. -/
def snapOf (die loc free : Nat) : Mem → List GWrite → Mem × List GWrite × Nat
  | m, [] => (m, [], free)
  | m, w :: l =>
    let me := die * 32 + loc
    if !w.pub then
      let (m', l', n) := snapOf die loc free m l
      (m', w :: l', n)
    else if w.within die loc || w.seen.contains me then
      let (m', l', n) := snapOf die loc free (m.writeO w.pa w.bytes) l
      (m', w :: l', n)
    else if Config.pick free then
      let (m', l', n) := snapOf die loc (free + 1) (m.writeO w.pa w.bytes) l
      (m', { w with seen := me :: w.seen } :: l', n)
    else
      let (m', l', n) := snapOf die loc (free + 1) m l
      (m', w :: l', n)

/-- Renewal of an agent's snapshot (R249). -/
def State.renew (s : State) (a : Agent) : State :=
  match s.core? a with
  | none => s
  | some c =>
    let (m, h, n) := snapOf (c.site a).1 (c.site a).2 s.free s.gmem s.ghist
    { s.setCore a { c with snap := m, spills := [] } with ghist := h, free := n }

/-- The bytes of a later write take the place of an earlier one's (R246). -/
def GWrite.under (w : GWrite) (pa : Nat) (bs : List (Option Byte)) : GWrite :=
  { w with bytes := w.bytes.mapIdx fun i b =>
      if pa ≤ w.pa + i && (bs.getD (w.pa + i - pa) none).isSome then none else b }

/-- What stays of earlier writes under a later one. -/
def hidden (l : List GWrite) (pa : Nat) (bs : List (Option Byte)) : List GWrite :=
  (l.map fun w => w.under pa bs).filter fun w => w.bytes.any Option.isSome

/-- A write is accepted and visible to every agent: an engine's, an atomic's, the host's, or a store published to
the package or wider (R246, R251). -/
def State.acceptWide (s : State) (pa : Nat) (bs : List (Option Byte)) : State :=
  if (homeOf pa).isNone then s
  else { s with gmem := s.gmem.writeO pa bs, ghist := hidden s.ghist pa bs }

/-- A batched atomic is accepted (R252): like every write, but a store that is not published yet comes after it in
coherence order. -/
def State.acceptAtomic (s : State) (pa : Nat) (bs : List (Option Byte)) : State :=
  if (homeOf pa).isNone then s
  else { s with gmem := s.gmem.writeO pa bs,
                ghist := (s.ghist.map fun w => if w.pub then w.under pa bs else w).filter fun w => w.bytes.any Option.isSome }

/-- A core's store is accepted before any phase of package scope publishes it. -/
def State.acceptNarrow (s : State) (pa : Nat) (bs : List (Option Byte)) (pub : Bool) (die loc : Nat) : State :=
  if (homeOf pa).isNone || bs.all Option.isNone then s
  else { s with ghist := s.ghist ++ [{ pa := pa, bytes := bs, pub := pub, scope := 0, die := die, loc := loc, seen := [] }] }

/-- Accepted writes that a test names become visible everywhere; what they follow in coherence order gives way (R246):
memory, and the writes that stay narrow, oldest first. -/
def settleWide (mine : GWrite → Bool) : Mem → List GWrite → List GWrite → Mem × List GWrite
  | m, kept, [] => (m, kept)
  | m, kept, w :: l =>
    if mine w then
      settleWide mine (m.writeO w.pa w.bytes) (hidden kept w.pa w.bytes) l
    else settleWide mine m (kept ++ [w]) l

/-- A phase of scope x publishes the accepted writes of its core (R247). -/
def State.publish (s : State) (die loc x : Nat) : State :=
  let mine (w : GWrite) : Bool := w.die == die && w.loc == loc
  if x < 3 then
    { s with ghist := s.ghist.map fun w => if mine w then { w with pub := true, scope := max w.scope x } else w }
  else
    let (m, l) := settleWide mine s.gmem [] s.ghist
    { s with gmem := m, ghist := l }

/-- Apply a change of physical memory to every snapshot, those of the loads that a handler's entry keeps among them (a page
move changes no value that a read returns, R252, R347). -/
def State.mapSnaps (s : State) (f : Mem → Mem) : State :=
  let g (c : Core) : Core :=
    { c with snap := f c.snap, fetches := c.fetches.map fun x => { x with snap := f x.snap },
             cmds := c.cmds.map fun x => { x with snap := f x.snap },
             gemv := c.gemv.map fun x => { x with snap := f x.snap } }
  let kept (k : Kept) : Kept := { k with fetches := k.fetches.map fun x => { x with snap := f x.snap } }
  { s with troupes := s.troupes.map fun t => { t with cores := t.cores.map g },
           mgmt := gen 2 fun m =>
             let x := s.mg m
             { x with core := g x.core, keptHv := x.keptHv.map kept, keptSv := x.keptSv.map kept } }

/-! ## Page-table entries (R333) -/

def pteV (e : BitVec 64) : Bool := e[0]
def pteLeaf (e : BitVec 64) : Bool := e[1]
def pteC64 (e : BitVec 64) : Bool := e[2]
def pteRd (e : BitVec 64) : Bool := e[3]
def pteW (e : BitVec 64) : Bool := e[4]
def pteSo (e : BitVec 64) : Bool := e[5]
def pteAm (e : BitVec 64) (ac : Nat) : Bool := e.getLsbD (6 + ac)
def pteMs (e : BitVec 64) : Nat := fld e.toNat 10 2
def pteFrame (e : BitVec 64) : Nat := fld e.toNat 12 40 * 4096
def pteTier (e : BitVec 64) : Bool := e[52]

/-- A move has switched the leaf that maps an address and its last invalidation is not complete: a read may still go to the
old frame, and no write performs (R346, R347). -/
def State.switching (s : State) (pa : Nat) : Bool :=
  s.migs.any fun g => g.stage == 4 && decide (g.dst ≤ pa) && decide (pa < g.dst + g.size)

/-- A write to a page waits: the page is moving (R347), or nothing reaches it (R371). -/
def State.writeWaits (s : State) (pa : Nat) (pte : BitVec 64) : Bool := pteMs pte == 1 || s.switching pa || s.portDown pa

/-- A write by a unit of the package, which R347 does not make wait: while a move has copied the page and not released it,
both frames take it (log 55). -/
def State.acceptUnit (s : State) (pa : Nat) (bs : List (Option Byte)) : State :=
  s.migs.foldl (fun s g =>
    if g.stage = 3 && g.old ≤ pa && pa < g.old + g.size then s.acceptWide (pa - g.old + g.dst) bs
    else if g.stage = 4 && g.dst ≤ pa && pa < g.dst + g.size then s.acceptWide (pa - g.dst + g.old) bs
    else s) (s.acceptWide pa bs)

/-- Bytes mapped by an entry of a level. -/
def leafSize (level : Nat) (c64 : Bool) : Nat :=
  if level = 2 then 2 ^ 30 else if level = 3 then 2 ^ 21 else if c64 then 2 ^ 16 else 2 ^ 12

/-- A valid entry breaks a rule of R333. `head`: it is the head of a group of 16. -/
def pteBad (e : BitVec 64) (level : Nat) (head : Bool) : Bool :=
  let leaf := pteLeaf e
  let f := pteFrame e
  fld e.toNat 53 11 != 0 ||
  (if level ≤ 1 then leaf else if level = 4 then !leaf else false) ||
  (pteC64 e && (level != 4 || !head)) ||
  (if leaf then
    pteMs e == 2 || (pteTier e != isFar f) || (homeOf f).isNone ||
    (f % leafSize level (pteC64 e) != 0)
  else fld e.toNat 3 9 != 0 || pteTier e)

/-- A found leaf: the entry, its address in memory, the virtual start and the size of what it maps, the tables on the
way, the partition of its ASID, and the entries that this walk read: level, entry, tables. -/
structure Leaf where
  pte : BitVec 64
  at' : Nat
  base : Nat
  size : Nat
  tables : List Nat
  part : Nat
  read : List (Nat × BitVec 64 × List Nat)
  /-- the addresses of the entries that this walk read: at level 4 the head of the group, and where that is no leaf of 64 KiB
  the entry at the index (R332) -/
  touched : List Nat
  deriving DecidableEq, Repr

/-- The walk from a level's table (R332), with what it has read so far; an error is an entry that is invalid or malformed
(step 2 of R335), with the addresses read. -/
def walkFrom (word : Nat → BitVec 64) (va part : Nat) : List Nat → Nat → List Nat → List (Nat × BitVec 64 × List Nat) →
    List Nat → Except (List Nat) Leaf
  | [], _, _, _, touched => .error touched
  | lv :: rest, tbl, seen, read, touched =>
    let idx := va / 2 ^ (48 - 9 * lv) % 512
    let hd := tbl + 8 * (idx / 16 * 16)
    let h := word hd
    let useHead := lv == 4 && pteV h && pteC64 h
    let at' := if useHead then hd else tbl + 8 * idx
    let e := word at'
    let seen := seen ++ [tbl]
    let touched := touched ++ (if lv == 4 && at' != hd then [hd] else []) ++ [at']
    if !pteV e || pteBad e lv (idx % 16 == 0 || useHead) then .error touched
    else
      let read := read ++ [(lv, e, seen)]
      if pteLeaf e then
        let sz := leafSize lv (pteC64 e)
        .ok { pte := e, at' := at', base := va / sz * sz, size := sz, tables := seen, part := part, read := read,
              touched := touched }
      else walkFrom word va part rest (pteFrame e) seen read touched

/-- The 64-bit word at a physical address, as a walk reads it (R336). -/
def State.ptWord (s : State) (pa : Nat) : BitVec 64 :=
  let m := s.latest
  BitVec.ofNat 64 (leNat (tab 8 fun i => m.cell s.free (pa + i)))

/-- The entry of an ASID in the table (R334). -/
def State.asidWord (s : State) (asid : Nat) : BitVec 64 := s.ptWord (fld s.atBase.toNat 17 35 * 2 ^ 17 + 8 * asid)

/-- Root table and partition of an ASID table entry, when it is live and well formed (R334). -/
def asidEntry (e : BitVec 64) : Option (Nat × Nat) :=
  let n := e.toNat
  if n % 2 = 1 && fld n 1 7 == 0 && fld n 52 12 == 0 && fld n 8 4 < 12 then some (fld n 12 40 * 4096, fld n 8 4) else none

/-- The PART field of an ASID's table entry, whatever its V (R340, R403). -/
def State.asidPart (s : State) (asid : Nat) : Nat := fld (s.asidWord asid).toNat 8 4

/-- Who translates: ASID, level at least supervisor, physical addressing (R334, R403). -/
structure Ctx where
  asid : Nat
  sup : Bool
  phy : Bool
  die : Nat
  deriving DecidableEq, Repr

/-- What an access needs of its leaf (R335). -/
inductive Need where
  | rd | wr | rdwr | any
  deriving DecidableEq, Repr

def Need.ok (n : Need) (e : BitVec 64) : Bool :=
  match n with
  | .rd => pteRd e
  | .wr => pteW e
  | .rdwr => pteRd e && pteW e
  | .any => true

/-- Where a translation may take its entries from (R338, R339). -/
inductive Lookup where
  /-- from the tables in memory only -/
  | tables
  /-- a walk, which cached entries above the leaf may shorten -/
  | walk
  /-- any cached entry may serve -/
  | any
  /-- a cached leaf serves, if there is one -/
  | cached
  deriving DecidableEq, Repr

/-- How an access that waited for a walk, or for no walk, translates. -/
def Lookup.of (cached : Bool) : Lookup := if cached then .cached else .walk

/-- A cached entry is a leaf. -/
def Tlb.leaf (t : Tlb) : Bool := t.level < 5 && pteLeaf t.pte

/-- A cached entry lies on the way to an address. -/
def Tlb.covers (t : Tlb) (cx : Ctx) (va : Nat) : Bool :=
  t.die == cx.die && t.asid == cx.asid && (t.level == 5 || (t.base ≤ va && va < t.base + t.size))

/-- The cached entry that serves a lookup, the deepest first: which of several does, and whether one does where memory may,
is free (R339; log 42). -/
def State.hit (s : State) (cx : Ctx) (va : Nat) (how : Lookup) : Option Tlb :=
  let mine := s.tlbs.filter fun t => t.covers cx va
  let leaves := mine.filter Tlb.leaf
  let upper := [4, 3, 2, 1, 0, 5].flatMap fun lv => mine.filter fun t => t.level == lv && !t.leaf
  let some' (l : List Tlb) : Option Tlb := ((l.mapIdx fun i t => (i, t)).find? fun q => Config.stale s.free q.1).map (·.2)
  match how with
  | .tables => none
  | .walk => some' upper
  | .any => some' (leaves ++ upper)
  | .cached => (some' (leaves.drop 1)).or (leaves.head?.or (some' upper))

/-- The leaf a translation uses: of a walk, or of a cached entry that is still valid (R338, R339); an error names the tables
read. -/
def State.findLeaf (s : State) (cx : Ctx) (va : Nat) (how : Lookup) : Except (List Nat) Leaf :=
  let root (e : BitVec 64) : Except (List Nat) Leaf := match asidEntry e with
    | none => .error []
    | some (tbl, p) => walkFrom s.ptWord va p [0, 1, 2, 3, 4] tbl [] [(5, e, [])] []
  match s.hit cx va how with
  | none => root (s.asidWord cx.asid)
  | some t =>
    if t.level = 5 then root t.pte
    else if t.leaf then
      .ok { pte := t.pte, at' := 0, base := t.base, size := t.size, tables := t.tables, part := t.part, read := [], touched := [] }
    else walkFrom s.ptWord va t.part ([0, 1, 2, 3, 4].drop (t.level + 1)) (pteFrame t.pte) t.tables [] []

/-- Steps 2 to 6 of R335 for one address: its physical address and leaf entry, or the sub-cause of cause 0x0A. With
physical addressing no check is made; an address that is no memory takes no write and reads as a free byte (R403; log
54). -/
def State.translate (s : State) (cx : Ctx) (va : Nat) (need : Need) (ac : Option (BitVec 2)) (how : Lookup) :
    Except Nat (Nat × BitVec 64) :=
  if cx.phy then .ok (va, 0)
  else
    match s.findLeaf cx va how with
    | .error _ => .error 1
    | .ok l =>
      let p := s.part l.part
      if !((l.tables.all fun t => p.holds t) && p.holds (pteFrame l.pte)) then .error 2
      else if pteSo l.pte && !cx.sup then .error 2
      else if !need.ok l.pte then .error 2
      else if !((ac.map fun a => pteAm l.pte a.toNat).getD true) then .error 3
      else .ok (pteFrame l.pte + (va - l.base), l.pte)

/-- A table that a walk would read lies behind a port that is down, in a gated stack, or on no plane that carries it (R358,
R371, R398). -/
def State.tablesDown (s : State) (cx : Ctx) (va : Nat) (how : Lookup) : Bool :=
  let down (pa : Nat) : Bool := s.portDown pa || !s.pageFree pa
  !cx.phy && match s.findLeaf cx va how with
    | .ok l => l.touched.any down || ((l.read.any fun e => e.1 == 5) && down (fld s.atBase.toNat 17 35 * 2 ^ 17 + 8 * cx.asid))
    | .error ts => ts.any down

/-- The entries that a walk read enter the span's cache (R338). -/
def State.fill (s : State) (cx : Ctx) (va : Nat) (how : Lookup) : State :=
  if cx.phy then s
  else match s.findLeaf cx va how with
    | .error _ => s
    | .ok l => l.read.foldl (fun s e =>
        let sz := if e.1 = 5 then 0 else if pteLeaf e.2.1 then l.size else 2 ^ (48 - 9 * e.1)
        let t : Tlb := { die := cx.die, asid := cx.asid, part := l.part, level := e.1,
                         base := if e.1 = 5 then 0 else va / sz * sz, size := sz, pte := e.2.1, tables := e.2.2 }
        if s.tlbs.contains t then s else { s with tlbs := t :: s.tlbs }) s

/-- The context in which an agent's G accesses translate (R307, R403). -/
def State.ctx (s : State) (a : Agent) : Ctx :=
  match a with
  | .core t r =>
    let tr := s.troupe? t
    { asid := ((tr.map fun x => (s.vf x.vf).asid).getD 0).toNat, sup := false, phy := false,
      die := ((tr.bind fun x => x.cores[r]?).map (·.die)).getD 0 }
  | .mgmt m =>
    let x := (s.bank (s.mg m).part.toNat).xasid
    { asid := fld x.toNat 0 14, sup := true, phy := x[63], die := 8 + m }

/-! ## Own stores (R125, R248, R253) -/

/-- Bytes of one store that fall on the range of a read. -/
def Egress.byteAt (e : Egress) (va : Nat) : Option Byte :=
  if e.va ≤ va && va < e.va + e.bytes.length then (e.bytes.getD (va - e.va) none) else none

/-- One byte of a read: the snapshot's, then the core's own stores that the snapshot contains, then those of its
egress buffer of the same class, and those of another class where a free choice per 64-byte granule and read says so. -/
def ownByte (own : List Egress) (ac : BitVec 2) (free va : Nat) (b : Byte) : Byte :=
  own.foldl (fun b e =>
    if e.inPath || e.ac == ac || Config.pick ((free + 1) * 2 ^ 51 + va / 64 % 2 ^ 51) then (e.byteAt va).getD b else b) b

/-- The bytes a read of n bytes at va returns; `pa` translates each address (none: not read). -/
def readOwn (snap : Mem) (own : List Egress) (ac : BitVec 2) (free va n : Nat) (pa : Nat → Option Nat) : List Byte :=
  tab n fun i => match pa (va + i) with
    | none => 0
    | some p => ownByte own ac free (va + i) (snap.cell free p)

end Sys2Proof.Machine
end

