-- ==== Sys2Proof/Machine/Meter.lean ====
section
/-!
DEFINITION. The dies and the routes between them (R348), the prices of events (R292, R293), and what an access to G is
charged (R288 to R292).
-/

namespace Sys2Proof.Machine

/-! ## Dies and routes (R348) -/

/-- The dies that an edge joins (R348): ring edges 0 to 7, far edges 8 to 15, the bridge 16. -/
def edgeDies (e : Nat) : Nat × Nat :=
  if e < 8 then (e, (e + 1) % 8) else if e < 16 then (8 + (e - 8) / 4, e - 8) else (8, 9)

/-- The dies that an edge joins to a die, ascending. -/
def dieLinks (d : Nat) : List Nat :=
  (tab 10 id).filter fun e => (tab 17 id).any fun k => edgeDies k == (d, e) || edgeDies k == (e, d)

/-- A die is at most k edges from another. -/
def dieReach : Nat → Nat → Nat → Bool
  | 0, a, b => a == b
  | k + 1, a, b => a == b || (dieLinks a).any fun c => dieReach k c b

/-- The length in edges of the shortest path between two dies. -/
def dieHops (a b : Nat) : Nat := ((tab 10 id).find? fun k => dieReach k a b).getD 0

/-- The dies that a flit leaves on the route from a die to another: a shortest path, and of several the one whose first hop
leads to the lower die number (R348). -/
def dieRoute : Nat → Nat → Nat → List Nat
  | 0, _, _ => []
  | k + 1, a, b =>
    if a = b then []
    else a :: (match (dieLinks a).find? fun c => dieHops c b + 1 == dieHops a b with
      | some c => dieRoute k c b
      | none => [])

/-! ## Prices (R292, R293) -/

/-- The group of a class. -/
def costGroup (cls : Nat) : Nat :=
  match cls with
  | 0x0B | 0x0D | 0x22 | 0x24 => 1
  | 0x0E | 0x0F | 0x10 | 0x11 | 0x26 => 2
  | 0x20 => 3
  | _ => 0

/-- A class of the tables of R292. -/
def classListed (cls : Nat) : Bool := cls ≤ 0x15 || (0x20 ≤ cls && cls ≤ 0x26)

/-- The operating state of a die (R395): 4 × the frequency index plus its own voltage index. -/
def State.opState (s : State) (die : Nat) : Nat := 4 * s.fi.toNat + (vget 0 s.vi die).toNat

/-- The effective cost of a class on a die in its current state; 0 for an unlisted class (R300). -/
def State.cost (s : State) (die cls : Nat) : Nat :=
  if classListed cls then
    (Config.costB die cls).toNat * (Config.costK die (s.opState die) (costGroup cls)).toNat / 2 ^ 14 % 2 ^ 32
  else 0

/-- The price of a list of charges: die, class, number of events. -/
def State.price (s : State) (l : List (Nat × Nat × Nat)) : Nat := (l.map fun e => e.2.2 * s.cost e.1 e.2.1).sum

/-- Shared events of a class on a die join the interval's pool (R297). -/
def State.poolAdd (s : State) (die cls n : Nat) : State :=
  if s.released then { s with pool := s.pool + n * s.cost die cls } else s

/-- A direct charge to a VF, which the keeper will apply (R288, R295). -/
def State.chargeOwner (s : State) (v : Nat) (l : List (Nat × Nat × Nat)) : State :=
  s.modVf v fun x => { x with pend := x.pend + s.price l }

/-! ## Charges of accesses (R289, R292; log 23) -/

def Core.addCharges (c : Core) (l : List (Nat × Nat × Nat)) : Core := { c with chg := c.chg ++ l }

/-- 64-byte granules that n bytes at a touch. -/
def granulesOf (a n : Nat) : Nat := if n = 0 then 0 else (a + n - 1) / 64 - a / 64 + 1

/-- The pieces of n bytes at va, cut at pages of 4 KiB. -/
def pageRuns (va n : Nat) : List (Nat × Nat) :=
  if n = 0 then []
  else tab ((va + n - 1) / 4096 - va / 4096 + 1) fun i =>
    let lo := max va ((va / 4096 + i) * 4096)
    (lo, min (va + n) ((va / 4096 + i) * 4096 + 4096) - lo)

/-- n flits cross the edges of the route between two dies, each edge priced on the die that the flit leaves. -/
def crossings (a b n : Nat) : List (Nat × Nat × Nat) := (dieRoute 9 a b).map fun d => (d, 0x10, n)

/-- The messages that move n granules from an address on: one for each aligned 512 bytes (R349). -/
def messagesOf (a n : Nat) : Nat := if n = 0 then 0 else (a / 64 + n - 1) / 8 - a / 64 / 8 + 1

/-- The crossings of n granules between a core on `die` and their home: the header and data flits of each message, and of what
is read the header of its request too (R349; log 23). -/
def travel (rd : Bool) (die home a n : Nat) : List (Nat × Nat × Nat) :=
  let m := messagesOf a n
  if rd then crossings die home m ++ crossings home die (m + n) else crossings die home (m + n)

/-- The charges of n granules of physical memory for a core on `die`: the tier's class on the home die, and the crossings. -/
def memCharge (rd : Bool) (die pa n : Nat) : List (Nat × Nat × Nat) :=
  if (homeOf pa).isNone then []
  else (dieOf pa, if isFar pa then 0x0E else 0x0D, n) :: travel rd die (dieOf pa) pa n

/-- The flit of an operation on a counter from a core on `die`, and of its answer (R292, R349). -/
def State.counterFlits (s : State) (die : Nat) (h : BitVec 32) (answer : Bool) : List (Nat × Nat × Nat) :=
  let e := (vget 0 s.dir (h.toNat / 2 ^ 28)).toNat
  crossings die e 1 ++ if answer then crossings e die 1 else []

/-- Runs of bytes joined where one goes on where the one before ends. -/
def joinRuns : List (Nat × Nat) → List (Nat × Nat)
  | [] => []
  | r :: l => match joinRuns l with
    | [] => [r]
    | q :: l => if r.1 + r.2 = q.1 then (r.1, r.2 + q.2) :: l else r :: q :: l

/-- The granules of several runs of one piece, each once, as runs. -/
def pieceRuns (l : List (Nat × Nat)) : List (Nat × Nat) :=
  match joinRuns l with
  | [] => []
  | [r] => [r]
  | l => joinRuns (((l.flatMap fun r => tab (granulesOf r.1 r.2) fun i => r.1 / 64 + i).eraseDups).map fun g => (64 * g, 64))

/-- The entries that the walk of an access reads, a granule each: each leaf's once for a core, in the cycle of the first access that needs
it, since direct charges do not depend on what a cache holds at the time (R289, R291). -/
def State.payWalk (s : State) (cx : Ctx) (va : Nat) (c : Core) : Core :=
  if cx.phy then c
  else
    let reads (ts : List Nat) : List (Nat × Nat × Nat) := ts.flatMap fun t => memCharge true cx.die t 1
    match s.findLeaf cx va .tables with
    | .error ts => c.addCharges (reads ts)
    | .ok l => if c.walked.contains (l.base, l.size) then c
      else { c.addCharges (reads l.touched) with walked := (l.base, l.size) :: c.walked }

/-- What a core pays for an access to G: for each run within a page its walk, and its granules where the access is permitted.
A management core pays nothing: its energy is shared (R292). -/
def State.payG (s : State) (a : Agent) (cx : Ctx) (need : Need) (runs : List (Nat × Nat)) (c : Core) : Core :=
  match a with
  | .mgmt _ => c
  | .core _ _ => runs.foldl (fun c r =>
      let c := s.payWalk cx r.1 c
      match s.translate cx r.1 need none .tables with
      | .ok (pa, _) => c.addCharges (memCharge (need != .wr) cx.die pa (granulesOf r.1 r.2))
      | .error _ => c) c

end Sys2Proof.Machine
end

