-- ==== Sys2Proof/Machine/Counters.lean ====
section
/-!
DEFINITION. Synchronisation counters at their home engines: handles, operations, reports and refusals, moves
between engines, allocation (R87, R126 to R131, R240 to R243, R315, R316, R372 to R374, R405).
-/

namespace Sys2Proof.Machine

/-! ## Handles -/

def State.ctr? (s : State) (h : BitVec 32) : Option Counter := s.ctrs.find? fun c => c.handle == h

def State.setCtr (s : State) (c : Counter) : State :=
  { s with ctrs := s.ctrs.map fun d => if d.handle == c.handle then c else d }

/-- The VF an agent acts for; a management core acts for the VFs of its current partition,
at hypervisor level for every VF (log 19). -/
def State.mayName (s : State) (a : Agent) (c : Counter) : Bool :=
  match a with
  | .core t _ => ((s.troupe? t).map fun x => x.vf == c.vf).getD false
  | .mgmt m => (s.mg m).lvl == 2 || (s.vf c.vf).part == (s.mg m).part

/-- The check of a handle in a 64-bit register (R87, R126, R316). -/
def State.handleOk (s : State) (a : Agent) (h : BitVec 64) : Bool :=
  decide (h.toNat < 2 ^ 32) && decide (h.toNat / 2 ^ 28 ≤ 9) &&
  ((s.ctr? (h.truncate 32)).map fun c => s.mayName a c).getD false

/-! ## What an operation does at the home engine (R241) -/

/-- An add: saturating, with the strict-mode overrun. -/
def Counter.add (c : Counter) (amt : Nat) : Counter :=
  let v := min (c.value.toNat + amt) (2 ^ 64 - 1)
  let past := c.st != 0 && c.target.toNat < v
  { c with value := BitVec.ofNat 64 v,
           ovb := c.ovb || past,
           ovr := if past then BitVec.ofNat 32 (min (v - c.target.toNat) (2 ^ 32 - 1)) else c.ovr,
           st := if c.st = 1 && c.target.toNat ≤ v then 2 else c.st }

/-- Arming is refused while armed and not open, or with the overrun bit set (R130). -/
def Counter.armRefused (c : Counter) : Bool := c.st == 1 || c.ovb

def Counter.arm (c : Counter) (b : BitVec 32) : Counter :=
  { c with st := 1, target := c.value + b.zeroExtend 64 }

/-- `.cclr` (R241). -/
def Counter.clear (c : Counter) : Counter := { c with ovb := false, ovr := 0, st := 0 }

/-- A fault of a `cadd` or `carm` that its engine refuses: raised before the next bundle (R127, R130, R405). -/
def Core.raiseLate (c : Core) (w baddr : Nat) (e : Exc) : Core :=
  { (c.raise w e true 0xFF baddr) with failed := c.failed }

/-- The engine's refusal of an operation reaches its source (R127, R405). -/
def State.refuseCtr (s : State) (o : CtrOp) (cause : Nat) : State :=
  match o.src with
  | .system => s
  | .slot a w b => s.modCore a fun c => c.raiseLate w b { cause := cause, hnd := o.handle }
  | .cmd a id => s.modCore a fun c =>
    match c.cmds.find? fun k => k.id == id with
    | none => c
    | some k =>
      { (c.raiseLate k.word k.baddr { cause := cause, hnd := o.handle }) with
          cmds := c.cmds.map fun j => if j.id == id then { j with outstanding := j.outstanding - 1 } else j }

/-- The operation is done with. -/
def State.dropCtr (s : State) (o : CtrOp) : State := { s with ctrOps := s.ctrOps.filter fun p => p.id != o.id }

/-- An engine's add has been applied: its command has one write fewer outstanding (R219). -/
def State.appliedFor (s : State) (src : CtrSrc) : State :=
  match src with
  | .cmd a id => s.modCore a fun c =>
    { c with cmds := c.cmds.map fun j => if j.id == id then { j with outstanding := j.outstanding - 1 } else j }
  | _ => s

def CtrSrc.agent : CtrSrc → Option Agent
  | .slot a _ _ => some a
  | .cmd a _ => some a
  | .system => none

def CtrKind.isWait : CtrKind → Bool
  | .wait _ | .waitArmed | .read => true
  | _ => false

/-- The source within which operations on one counter keep their order: an agent's scalar slot (R126), one product, or
one engine command (R242). Adds of different sources, and the package's own signals, are unordered. -/
def CtrSrc.ordered : CtrSrc → CtrSrc → Bool
  | .slot a w b, .slot a' w' b' => a == a' && w == w' && (w == 2 || b == b')
  | .cmd a i, .cmd a' i' => a == a' && i == i'
  | _, _ => false

/-- The die whose engine serves a handle (R372). -/
def State.engineDie (s : State) (h : BitVec 32) : Nat := (vget 0 s.dir (h.toNat / 2 ^ 28)).toNat

/-- Operations of one source go to their engine in their order, on one counter (R126, R242) and on one plane to one die
(R350); a wait that stands at the engine holds no later operation back. -/
def State.ctrFirst (s : State) (o : CtrOp) : Bool :=
  let same (p : CtrOp) : Bool := p.handle == o.handle ||
    (s.engineDie p.handle == s.engineDie o.handle && s.planeOf (ctrAddr p.handle) == s.planeOf (ctrAddr o.handle))
  match s.ctrOps.find? fun p => p.id == o.id || (!p.kind.isWait && p.src.ordered o.src && same p) with
  | some p => p.id == o.id
  | none => false

/-- The counter's engine is giving its counters away: operations wait at their senders (R373). -/
def State.ctrMoving (s : State) (h : BitVec 32) : Bool :=
  match s.move with
  | some (src, _) => vget 0 s.dir (h.toNat / 2 ^ 28) == src
  | none => false

/-- The die of a source: its core's, its management core's, or the fabric controller's. -/
def State.srcDie (s : State) (x : CtrSrc) : Nat :=
  match x.agent with
  | some (.mgmt m) => 8 + m
  | some a => ((s.core? a).map (·.die)).getD 8
  | none => 8

/-- An operation has a place in its die's replay buffer of its plane, and so is injected; the 16,385th waits (R351). -/
def State.inBuffer (s : State) (o : CtrOp) : Bool :=
  let way (p : CtrOp) : Nat × BitVec 2 := (s.srcDie p.src, s.planeOf (ctrAddr p.handle))
  decide (((s.ctrOps.takeWhile fun p => p.id != o.id).filter fun p => !p.stands && way p == way o).length < 16384)

/-- The engine that serves a handle is off with its gated near-tier die (R398). -/
def State.engineOff (s : State) (h : BitVec 32) : Bool := s.engineDie h < 8 && s.gateNear.getLsbD (s.engineDie h)

/-- An operation can reach its engine: its plane carries it (R353, R357, R358), and the engine runs. -/
def State.ctrOpen (s : State) (o : CtrOp) : Bool :=
  s.planeOpen (ctrAddr o.handle) o.sent && s.inBuffer o && !s.engineOff o.handle

/-- The report reaches the wait it belongs to. -/
def State.formReport (s : State) (o : CtrOp) (r : CtrRep) : State :=
  match o.src.agent with
  | none => s
  | some a => s.modCore a fun c => { c with wait := c.wait.map fun w =>
      if w.op == o.id then { w with formed := some r } else w }

/-- A wait's outcome at the engine, if it has one now (R129, R131). A counter whose home die was reset gives a `cwait` the
orphan-counter fault (R129) and a `cread` the counter home lost fault (R131, R278). -/
def Counter.waitOutcome (c : Counter) (k : CtrKind) : Option CtrRep :=
  if c.lost then some (if k = .read then .homeLost else .orphan)
  else match k with
  | .wait t =>
    if c.ovb then some (.overrun c.target c.ovr)
    else if t.toNat ≤ c.value.toNat then some (.value c.value) else none
  | .waitArmed =>
    if c.ovb then some (.overrun c.target c.ovr)
    else if c.st = 0 then some (.notArmed c.target c.value)
    else if c.target.toNat ≤ c.value.toNat then some (.value c.value) else none
  | .read => some (.value c.value)
  | _ => none

/-- An operation of the engine that serves a counter: a shared event on its die (R292). -/
def State.engineOp (s : State) (h : BitVec 32) : State := s.poolAdd (vget 0 s.dir (h.toNat / 2 ^ 28)).toNat 0x23 1

/-- A signal add of the distributor, a low-water add, or a stop or notice add applies in its wall cycle; where it cannot
apply it is dropped (R302, R323, R379, R387, R405); to a counter that moves it waits at its sender (R373). -/
def State.signal (s : State) (h : BitVec 32) (amt : Nat) : State :=
  if s.ctrMoving h then s.postCtr h (.add (BitVec.ofNat 64 amt)) .system
  else match s.ctr? h with
  | some c => if c.lost then s else (s.setCtr (c.add amt)).engineOp h
  | none => s

/-- A wait that its counter does not satisfy on arrival stands at the engine; `.armed` waits there for the target that
it found (R129). -/
def State.standCtr (s : State) (o : CtrOp) (c : Counter) : State :=
  let kind : CtrKind := if o.kind = .waitArmed then .wait c.target else o.kind
  { s with ctrOps := s.ctrOps.map fun p => if p.id == o.id then { p with kind := kind, stands := true } else p }

/-- COUNTER_OPERATION (R241, R126): the operation applies at its home engine. -/
def execCounterOperation (id : Nat) (s : State) : Host.Outcome State Fault Refusal :=
  match s.ctrOps.find? fun o => o.id == id with
  | none => notEnabled "COUNTER_OPERATION"
  | some o =>
    match s.ctr? o.handle with
    | none => notEnabled "COUNTER_OPERATION"
    | some c =>
      if !s.ctrFirst o || s.ctrMoving o.handle || (!o.stands && !s.ctrOpen o) then notEnabled "COUNTER_OPERATION"
      else if o.kind.isWait then
        match c.waitOutcome o.kind with
        | none => if o.stands then notEnabled "COUNTER_OPERATION" else .next ((s.standCtr o c).engineOp o.handle)
        | some r => .next ((if o.stands then s.dropCtr o else (s.dropCtr o).engineOp o.handle).formReport o r)
      else if c.lost then notEnabled "COUNTER_OPERATION"
      else match o.kind with
        | .add amt => .next ((((s.dropCtr o).setCtr (c.add amt.toNat)).engineOp o.handle).appliedFor o.src)
        | .arm b =>
          if c.armRefused then .next (((s.dropCtr o).engineOp o.handle).refuseCtr o 0x03)
          else .next (((s.dropCtr o).setCtr (c.arm b)).engineOp o.handle)
        | _ => .next (((s.dropCtr o).setCtr c.clear).engineOp o.handle)

/-- An agent's core is away: its task waits for its resumption, and what is addressed to it waits in the fabric (R231,
R284). -/
def State.away (s : State) (a : Agent) : Bool :=
  match a with
  | .core t _ => (s.core? a).isNone && (s.troupe? t).any fun tr => tr.st == .preempted
  | .mgmt _ => false

/-- COUNTER_REFUSAL (R405, R127): the operation reaches its engine when the counter is not live, or its home was
reset, and applies nothing; while the engine gives its counters away it waits at its sender (R373). -/
def execCounterRefusal (id : Nat) (s : State) : Host.Outcome State Fault Refusal :=
  match s.ctrOps.find? fun o => o.id == id with
  | none => notEnabled "COUNTER_REFUSAL"
  | some o =>
    if !s.ctrFirst o || s.ctrMoving o.handle || (!o.stands && !s.ctrOpen o) || o.src.agent.any s.away then notEnabled "COUNTER_REFUSAL"
    else match s.ctr? o.handle with
    | none =>
      if o.kind.isWait then .next ((s.dropCtr o).formReport o .orphan)
      else .next ((s.dropCtr o).refuseCtr o 0x13)
    | some c =>
      if c.lost && !o.kind.isWait then .next ((s.dropCtr o).refuseCtr o 0x11)
      else notEnabled "COUNTER_REFUSAL"

/-- COUNTER_REPORT (R129, R131): what the engine formed reaches the waiting agent, over a plane that carries it (R358). -/
def execCounterReport (a : Agent) (s : State) : Host.Outcome State Fault Refusal :=
  match (s.core? a).bind (·.wait) with
  | some w =>
    match w.formed, w.report with
    | some r, none =>
      if s.planeFree (ctrAddr w.handle) then .next (s.modCore a fun c => { c with wait := some { w with report := some r } })
      else notEnabled "COUNTER_REPORT"
    | _, _ => notEnabled "COUNTER_REPORT"
  | none => notEnabled "COUNTER_REPORT"

/-- The target of a wait as its record carries it (R279). -/
def Wait.target (w : Wait) (c : Option Counter) : BitVec 64 :=
  match w.kind with
  | .target t => t
  | _ => (c.map (·.target)).getD 0

/-- CWAIT_DEADLINE_EXPIRY (R128, R129): the last of the wait's frame ticks has passed without a report. -/
def execCwaitDeadlineExpiry (a : Agent) (s : State) : Host.Outcome State Fault Refusal :=
  match (s.core? a).bind (·.wait) with
  | some w =>
    if w.op ≠ 0 && w.ticks = 0 && w.report.isNone && (match w.kind with | .target _ => true | .armed => true | _ => false) then
      let c := s.ctr? w.handle
      let r := CtrRep.expired (w.target c) ((c.map (·.value)).getD 0)
      let s := { s with ctrOps := s.ctrOps.filter fun o => o.id != w.op }
      .next (s.modCore a fun k => { k with wait := some { w with report := some r } })
    else notEnabled "CWAIT_DEADLINE_EXPIRY"
  | none => notEnabled "CWAIT_DEADLINE_EXPIRY"

/-! ## Allocation (R315) -/

/-- The lowest first index of `n` consecutive free indices on a die: the candidates are 1 and the index after
each allocated one. -/
def State.freeRun (s : State) (die n : Nat) : Option Nat :=
  let used := (s.ctrs.filter fun c => c.handle.toNat / 2 ^ 28 == die).map fun c => c.handle.toNat % 2 ^ 28
  let cands := 1 :: used.map (· + 1)
  let ok (i : Nat) : Bool := i + n ≤ 2 ^ 28 - 1 && used.all fun u => u < i || i + n ≤ u
  (cands.filter ok).foldl (fun m i => match m with | none => some i | some j => some (min i j)) none

/-- New counters at their reset values (R240). -/
def State.allocCtrs (s : State) (die first n vf : Nat) (task : Option Nat) : State :=
  { s with ctrs := s.ctrs ++ tab n fun i =>
      { handle := BitVec.ofNat 32 (die * 2 ^ 28 + first + i), value := 0, target := 0, st := 0, ovb := false,
        ovr := 0, vf := vf, task := task, lost := false } }

/-- The waits on a counter that goes away are orphaned, and its triggers cancelled (R129, R236, R405). -/
def State.freeCtrs (s : State) (gone : Counter → Bool) : State :=
  let hs := (s.ctrs.filter gone).map (·.handle)
  { s with ctrs := s.ctrs.filter fun c => !gone c, trigs := s.trigs.filter fun t => !hs.contains t.handle }

/-- CT_CTL's register view after a command: INDEX replaced. -/
def ctWithIndex (v : BitVec 64) (i : Nat) : BitVec 64 := BitVec.ofNat 64 (fld v.toNat 28 34 * 2 ^ 28 + i % 2 ^ 28)

/-- A CT_CTL command (R315): allocate or free for a VF of the current partition; a die whose engine is off gives no counter
(R398; log 57). -/
def State.ctCommand (s : State) (p : Nat) (v : BitVec 64) : State :=
  let op := fld v.toNat 62 2
  let die := fld v.toNat 56 4
  let n := fld v.toNat 40 16
  let vf := fld v.toNat 32 7
  let idx := fld v.toNat 0 28
  let keep := BitVec.ofNat 64 (die * 2 ^ 56 + n * 2 ^ 40 + vf * 2 ^ 32 + idx)
  let put (s : State) (i : Nat) : State := s.modBank p fun b => { b with ctCtl := ctWithIndex keep i }
  if op ≠ 1 && op ≠ 2 then s.modBank p fun b => { b with ctCtl := keep }
  else if 96 ≤ vf || (s.vf vf).part.toNat ≠ p then put s 0xFFFFFFF
  else if op = 1 then
    match (if n = 0 || 9 < die || s.engineOff (BitVec.ofNat 32 (die * 2 ^ 28)) then none else s.freeRun die n) with
    | none => put s 0xFFFFFFF
    | some i => put (s.allocCtrs die i n vf none) i
  else
    let mine (c : Counter) : Bool :=
      c.handle.toNat / 2 ^ 28 == die && idx ≤ c.handle.toNat % 2 ^ 28 && c.handle.toNat % 2 ^ 28 < idx + n &&
      c.vf == vf && c.task.isNone
    if (s.ctrs.filter mine).length < n then put (s.freeCtrs mine) 0xFFFFFFF
    else put (s.freeCtrs mine) idx

/-! ## Moves between engines (R372, R373) -/

/-- A die is gated or held in reset (R398, R399). -/
def State.dieDown (s : State) (d : Nat) : Bool :=
  (d == 9 && s.gateFt1) || (d < 8 && s.gateNear.getLsbD d) || s.resetting == some d

/-- An SE_RHM command (R372). -/
def State.moveCommand (s : State) (v : BitVec 64) : State :=
  let src := fld v.toNat 4 4
  let dst := fld v.toNat 0 4
  if fld v.toNat 60 4 ≠ 1 || s.move.isSome || src = dst || 9 < src || 9 < dst || s.dieDown dst ||
      !(s.dir.toArray.toList.any fun d => d.toNat == src) then
    { s with seCref := true }
  else { s with move := some (BitVec.ofNat 4 src, BitVec.ofNat 4 dst) }

/-- COUNTER_MOVE_COMPLETE (R373 steps 2 to 4): every entry of DIR equal to SRC becomes DST. -/
def execCounterMoveComplete (s : State) : Host.Outcome State Fault Refusal :=
  match s.move with
  | none => notEnabled "COUNTER_MOVE_COMPLETE"
  | some (src, dst) =>
    .next { s with dir := gen 10 fun d => if vget 0 s.dir d = src then dst else vget 0 s.dir d, move := none }

/-- A reset of a die loses every counter that it serves, and those of a move it takes part in (R374). -/
def State.loseCounters (s : State) (die : Nat) : State :=
  let d4 := BitVec.ofNat 4 die
  let inMove := match s.move with
    | some (a, b) => a = d4 || b = d4
    | none => false
  let served (c : Counter) : Bool :=
    let d := vget 0 s.dir (c.handle.toNat / 2 ^ 28)
    d == d4 || (inMove && (s.move.map (·.1)) == some d)
  let gone (t : Trig) : Bool := s.ctrs.any fun c => c.handle == t.handle && served c
  let s := { s with ctrs := s.ctrs.map fun c => if served c then { c with lost := true } else c,
                    trigs := s.trigs.filter fun t => !gone t }
  match s.move with
  | some (a, b) =>
    if inMove then { s with move := none, dir := gen 10 fun d => if vget 0 s.dir d = a then b else vget 0 s.dir d }
    else s
  | none => s

end Sys2Proof.Machine
end

