-- ==== Sys2Proof/Machine/Scalar.lean ====
section
/-!
DEFINITION. The scalar slot's arithmetic, immediates, control transfer, loads and stores of single values, and
special registers (R110 to R125, R136 to R138).
-/

namespace Sys2Proof.Machine

/-- A word that writes s[d] at issue+lat with a value of its operands (R110). -/
def scalarOp (pd : Pd) (d : SReg) (lat : Nat) (s : State) (f : Core → BitVec 64) :
    Host.Outcome State Fault Refusal :=
  coreWord pd (some 0x01) s fun x => .done (x.core.sched x lat (.wS d (f x.core)))

/-! ## Integer arithmetic and logic (R112, R113)

R45 says that scalar integer arithmetic wraps modulo 2^32, and R112 that scalar operations work on 64-bit patterns and
wrap modulo 2^64; the model follows R112, the rule of the operations themselves (log 46). -/

/-- The high half of the signed product. -/
def mulHigh (a b : BitVec 64) : BitVec 64 := BitVec.ofInt 64 (Int.fdiv (a.toInt * b.toInt) (2 ^ 64))

def mulHighU (a b : BitVec 64) : BitVec 64 := BitVec.ofNat 64 (a.toNat * b.toNat / 2 ^ 64)

/-- Signed quotient, truncated toward zero, with the edge cases of R113. -/
def divS (a b : BitVec 64) : BitVec 64 := if b = 0 then BitVec.allOnes 64 else BitVec.ofInt 64 (Int.tdiv a.toInt b.toInt)

def divU (a b : BitVec 64) : BitVec 64 := if b = 0 then BitVec.allOnes 64 else BitVec.ofNat 64 (a.toNat / b.toNat)

def remS (a b : BitVec 64) : BitVec 64 := if b = 0 then a else BitVec.ofInt 64 (Int.tmod a.toInt b.toInt)

def remU (a b : BitVec 64) : BitVec 64 := if b = 0 then a else BitVec.ofNat 64 (a.toNat % b.toNat)

/-- Leading zero bits of an n-bit pattern. -/
def leadZeros (a : BitVec 64) : Nat := if a = 0 then 64 else 63 - Nat.log2 a.toNat

/-- Trailing zero bits. -/
def trailZeros (a : BitVec 64) : Nat := if a = 0 then 64 else Nat.log2 (a.toNat &&& (2 ^ 64 - a.toNat))

def ones64 (a : BitVec 64) : Nat := ((tab 64 fun i => bit (a.getLsbD i))).sum

def execAdd (pd : Pd) (d a b : SReg) (s : State) := scalarOp pd d 1 s fun c => c.rs a + c.rs b
def execSub (pd : Pd) (d a b : SReg) (s : State) := scalarOp pd d 1 s fun c => c.rs a - c.rs b
def execMul (pd : Pd) (d a b : SReg) (s : State) := scalarOp pd d 3 s fun c => c.rs a * c.rs b
def execMulh (pd : Pd) (d a b : SReg) (s : State) := scalarOp pd d 3 s fun c => mulHigh (c.rs a) (c.rs b)
def execMulhu (pd : Pd) (d a b : SReg) (s : State) := scalarOp pd d 3 s fun c => mulHighU (c.rs a) (c.rs b)
def execDiv (pd : Pd) (d a b : SReg) (s : State) := scalarOp pd d 20 s fun c => divS (c.rs a) (c.rs b)
def execDivu (pd : Pd) (d a b : SReg) (s : State) := scalarOp pd d 20 s fun c => divU (c.rs a) (c.rs b)
def execRem (pd : Pd) (d a b : SReg) (s : State) := scalarOp pd d 20 s fun c => remS (c.rs a) (c.rs b)
def execRemu (pd : Pd) (d a b : SReg) (s : State) := scalarOp pd d 20 s fun c => remU (c.rs a) (c.rs b)
def execAnd (pd : Pd) (d a b : SReg) (s : State) := scalarOp pd d 1 s fun c => c.rs a &&& c.rs b
def execOr (pd : Pd) (d a b : SReg) (s : State) := scalarOp pd d 1 s fun c => c.rs a ||| c.rs b
def execXor (pd : Pd) (d a b : SReg) (s : State) := scalarOp pd d 1 s fun c => c.rs a ^^^ c.rs b
def execAndn (pd : Pd) (d a b : SReg) (s : State) := scalarOp pd d 1 s fun c => c.rs a &&& ~~~ (c.rs b)
def execMin (pd : Pd) (d a b : SReg) (s : State) :=
  scalarOp pd d 1 s fun c => if (c.rs a).slt (c.rs b) then c.rs a else c.rs b
def execMax (pd : Pd) (d a b : SReg) (s : State) :=
  scalarOp pd d 1 s fun c => if (c.rs a).slt (c.rs b) then c.rs b else c.rs a
def execMinu (pd : Pd) (d a b : SReg) (s : State) :=
  scalarOp pd d 1 s fun c => if (c.rs a).ult (c.rs b) then c.rs a else c.rs b
def execMaxu (pd : Pd) (d a b : SReg) (s : State) :=
  scalarOp pd d 1 s fun c => if (c.rs a).ult (c.rs b) then c.rs b else c.rs a
def execShl (pd : Pd) (d a b : SReg) (s : State) := scalarOp pd d 1 s fun c => c.rs a <<< ((c.rs b).toNat % 64)
def execShr (pd : Pd) (d a b : SReg) (s : State) := scalarOp pd d 1 s fun c => c.rs a >>> ((c.rs b).toNat % 64)
def execSar (pd : Pd) (d a b : SReg) (s : State) :=
  scalarOp pd d 1 s fun c => (c.rs a).sshiftRight ((c.rs b).toNat % 64)
def execRol (pd : Pd) (d a b : SReg) (s : State) :=
  scalarOp pd d 1 s fun c => (c.rs a).rotateLeft ((c.rs b).toNat % 64)
def execClz (pd : Pd) (d a : SReg) (s : State) :=
  scalarOp pd d 1 s fun c => BitVec.ofNat 64 (leadZeros (c.rs a))
def execCtz (pd : Pd) (d a : SReg) (s : State) :=
  scalarOp pd d 1 s fun c => BitVec.ofNat 64 (trailZeros (c.rs a))
def execPopc (pd : Pd) (d a : SReg) (s : State) :=
  scalarOp pd d 1 s fun c => BitVec.ofNat 64 (ones64 (c.rs a))

/-! ## Compare and select (R114, R115) -/

def execSel (pd : Pd) (d a b : SReg) (pc : PReg) (s : State) :=
  scalarOp pd d 1 s fun c => if (c.rp pc).getLsbD 0 then c.rs a else c.rs b

def execCmp (pd : Pd) (cc : Cond) (d a b : SReg) (s : State) :=
  scalarOp pd d 1 s fun c => BitVec.ofNat 64 (bit (cc.holds (c.rs a) (c.rs b)))

/-- A compare whose result fills a predicate at issue+1 (R115). -/
def predOp (pd : Pd) (d : PReg) (s : State) (f : Core → Bool) : Host.Outcome State Fault Refusal :=
  coreWord pd (some 0x01) s fun x =>
    .done (x.core.sched x 1 (.wP d (if f x.core then BitVec.allOnes 1024 else 0)))

def execCmpp (pd : Pd) (cc : Cond) (d : PReg) (a b : SReg) (s : State) :=
  predOp pd d s fun c => cc.holds (c.rs a) (c.rs b)

/-! ## Immediates and descriptors (R116, R117) -/

def execAddi (pd : Pd) (d a : SReg) (imm : BitVec 32) (s : State) := scalarOp pd d 1 s fun c => c.rs a + sext32 imm
def execAndi (pd : Pd) (d a : SReg) (imm : BitVec 32) (s : State) := scalarOp pd d 1 s fun c => c.rs a &&& sext32 imm
def execOri (pd : Pd) (d a : SReg) (imm : BitVec 32) (s : State) := scalarOp pd d 1 s fun c => c.rs a ||| sext32 imm
def execXori (pd : Pd) (d a : SReg) (imm : BitVec 32) (s : State) := scalarOp pd d 1 s fun c => c.rs a ^^^ sext32 imm
def execShli (pd : Pd) (d a : SReg) (n : BitVec 6) (s : State) := scalarOp pd d 1 s fun c => c.rs a <<< n.toNat
def execShri (pd : Pd) (d a : SReg) (n : BitVec 6) (s : State) := scalarOp pd d 1 s fun c => c.rs a >>> n.toNat
def execSari (pd : Pd) (d a : SReg) (n : BitVec 6) (s : State) :=
  scalarOp pd d 1 s fun c => (c.rs a).sshiftRight n.toNat
def execMuli (pd : Pd) (d a : SReg) (imm : BitVec 32) (s : State) := scalarOp pd d 3 s fun c => c.rs a * sext32 imm
def execCmpi (pd : Pd) (cc : CondI) (d a : SReg) (imm : BitVec 32) (s : State) :=
  scalarOp pd d 1 s fun c => BitVec.ofNat 64 (bit (cc.toCond.holds (c.rs a) (sext32 imm)))
def execCmppi (pd : Pd) (cc : CondI) (d : PReg) (a : SReg) (imm : BitVec 32) (s : State) :=
  predOp pd d s fun c => cc.toCond.holds (c.rs a) (sext32 imm)
def execLi (pd : Pd) (d : SReg) (imm : BitVec 32) (s : State) := scalarOp pd d 1 s fun _ => sext32 imm
def execLui (pd : Pd) (d a : SReg) (imm : BitVec 32) (s : State) :=
  scalarOp pd d 1 s fun c => imm ++ (c.rs a).truncate 32

/-- R117: f[FD] := (a + imm)[31:0] at issue+4; a value that breaks R50 faults. -/
def execFmt (pd : Pd) (f : FReg) (a : SReg) (imm : BitVec 32) (s : State) :=
  coreWord pd (some 0x01) s fun x =>
    let v : BitVec 32 := (x.core.rs a + sext32 imm).truncate 32
    if fmtLegal v then .done (x.core.sched x 4 (.wF f v)) else .exc illegalOperand

/-! ## Control transfer (R118 to R120) -/

/-- Length of the issuing core's stream in bytes: E of R89. -/
def State.streamEnd (s : State) (a : Agent) : Nat := (s.stream a).bundles * 64

/-- The agent runs a save or restore routine (R283). -/
def State.inRoutine (s : State) : Agent → Bool
  | .core t _ => ((s.troupe? t).map (·.inRoutine)).getD false
  | .mgmt _ => false

/-- The bundle at pc, or one of its two delay bundles, ends an active loop level (R119). -/
def Core.nearLoopEnd (c : Core) : Bool :=
  c.lvl.toArray.toList.any fun l => l.active && (l.fin == c.pc || l.fin == c.pc + 64 || l.fin == c.pc + 128)

/-- The fault of a taken transfer, if any (R119, R283). Where its target is bad and its place is wrong too, the address
fault is raised: R119 gives no order, and this one is the model's (log 47). -/
def State.transferFault (s : State) (x : Iss) (target : Nat) : Option Exc :=
  let e := s.streamEnd x.ag
  let rout := s.inRoutine x.ag
  if target % 64 ≠ 0 || (e ≤ target && !(rout && target == e)) then some (addressFault target)
  else if x.core.xfer.isSome then some illegalOperand
  else if !rout && x.core.nearLoopEnd then some illegalOperand
  else none

/-- A taken transfer: the target follows two delay bundles, and a level whose body it leaves is deactivated
(R118, R119); within a routine the levels are frozen (R283). -/
def Core.transfer (c : Core) (target : Nat) (rout : Bool) : Core :=
  { c with xfer := some (3, target),
           lvl := if rout then c.lvl else gen 8 fun i =>
             let l := vget ⟨false, 0, 0⟩ c.lvl i
             if l.active && !(l.start ≤ target && target ≤ l.fin) then { l with active := false } else l }

/-- A branch word: its target from the operands, and for a call the link at issue+1. -/
def branchOp (pd : Pd) (s : State) (link : Option SReg) (target : Core → Nat) : Host.Outcome State Fault Refusal :=
  coreWord pd (some 0x01) s fun x =>
    let t := target x.core
    match s.transferFault x t with
    | some e => .exc e
    | none =>
      let c := x.core.transfer t (s.inRoutine x.ag)
      match link with
      | none => .done c
      | some d => .done (c.sched x 1 (.wS d (BitVec.ofNat 64 (x.core.pc + 192))))

/-- PC + DISP32 × 64, modulo 2^64. -/
def relTarget (pc : Nat) (disp : BitVec 32) : Nat := (BitVec.ofNat 64 pc + sext32 disp * 64).toNat

def execBr (pd : Pd) (disp : BitVec 32) (s : State) := branchOp pd s none fun c => relTarget c.pc disp
def execJr (pd : Pd) (a : SReg) (s : State) := branchOp pd s none fun c => (c.rs a).toNat
def execCall (pd : Pd) (d : SReg) (disp : BitVec 32) (s : State) := branchOp pd s (some d) fun c => relTarget c.pc disp
def execCallr (pd : Pd) (d a : SReg) (s : State) := branchOp pd s (some d) fun c => (c.rs a).toNat
def execRet (pd : Pd) (a : SReg) (s : State) := branchOp pd s none fun c => (c.rs a).toNat

/-- Trip count of a temporal level (R31, R34). -/
def State.tripCount (s : State) (a : Agent) (lvl : Nat) : Option Nat :=
  let count (e : BitVec 64) (ps : List (BitVec 64)) : Option Nat :=
    if fld e.toNat 62 2 ≠ 1 then none
    else if e[61] then some (fld (ps.getD (fld e.toNat 0 8) 0).toNat 0 32) else some (fld e.toNat 0 32)
  match a with
  | .core t _ => (s.troupe? t).bind fun x => count (vget 0 x.image.loop lvl) x.launch.params
  | .mgmt m => count (vget 0 (s.mg m).loop lvl) []

/-- LOOP (R120). -/
def execLoop (pd : Pd) (lvl : Lvl) (disp : BitVec 32) (s : State) : Host.Outcome State Fault Refusal :=
  coreWord pd (some 0x01) s fun x =>
    let e := relTarget x.core.pc disp
    if s.inRoutine x.ag || x.core.xfer.isSome then .exc illegalOperand
    else match s.tripCount x.ag lvl.toNat with
      | none => .exc illegalOperand
      | some 0 => .done { x.core with xfer := some (1, e + 64) }
      | some (t + 1) =>
        let c := { x.core with lvl := vset x.core.lvl lvl.toNat ⟨true, x.core.pc + 64, e⟩ }
        .done (c.sched x 1 (.loopc lvl (BitVec.ofNat 32 t)))

/-! ## Loads and stores (R121 to R125) -/

/-- addr := a + sext(OFF24), checked for width and alignment (R86, R69, R121); where both fail the address fault is
raised, in the order in which R121 names them (log 47). -/
def effAddr (c : Core) (a : SReg) (off : BitVec 24) (sz : Size) (width : Nat) : Except Exc Nat :=
  let v := (c.rs a + sext24 off).toNat
  if 2 ^ width ≤ v then .error (addressFault v)
  else if v % szBytes sz ≠ 0 then .error (misaligned v)
  else .ok v

/-- The ring core of a ring-view address and the local address (R83). -/
def ringSplit (rv : Bool) (v : Nat) : Option Nat × Nat := if rv then (some (v / 2 ^ 23), v % 2 ^ 23) else (none, v)

def bWidth (rv : Bool) : Nat := if rv then 25 else 23

/-- LDB: the bank cycle is issue+2 (R122). -/
def execLdb (pd : Pd) (d a : SReg) (off : BitVec 24) (sz : Size) (sx rv : Bool) (s : State) :=
  coreWord pd (some 0x01) s fun x =>
    match effAddr x.core a off sz (bWidth rv) with
    | .error e => .exc e
    | .ok v => .done (x.core.sched x 2 (.ldb d (ringSplit rv v).2 (szBytes sz) sx (ringSplit rv v).1))

def execStb (pd : Pd) (d a : SReg) (off : BitVec 24) (sz : Size) (rv : Bool) (s : State) :=
  coreWord pd (some 0x01) s fun x =>
    match effAddr x.core a off sz (bWidth rv) with
    | .error e => .exc e
    | .ok v => .done (x.core.sched x 2 (.stb (x.core.rs d) (ringSplit rv v).2 (szBytes sz) (ringSplit rv v).1))

def execLdt (pd : Pd) (d a : SReg) (off : BitVec 24) (sz : Size) (sx : Bool) (s : State) :=
  coreWord pd (some 0x01) s fun x =>
    match effAddr x.core a off sz 18 with
    | .error e => .exc e
    | .ok v => .done (x.core.sched x 2 (.ldt d v (szBytes sz) sx))

def execStt (pd : Pd) (d a : SReg) (off : BitVec 24) (sz : Size) (s : State) :=
  coreWord pd (some 0x01) s fun x =>
    match effAddr x.core a off sz 18 with
    | .error e => .exc e
    | .ok v => .done (x.core.sched x 2 (.stt (x.core.rs d) v (szBytes sz)))

/-- A read of G leaves the core: it keeps the snapshot and the own stores of its issue cycle (R125, R249). -/
def Core.fetch (c : Core) (x : Iss) (lat : Nat) (k : FetchKind) (va : Nat) (ac : BitVec 2) (st : FetchSt := .walking) :
    Core :=
  { c with nextId := c.nextId + 1,
           fetches := c.fetches ++
            [{ id := c.nextId, kind := k, va := va, ac := ac, iss := x.now, due := x.now + lat, word := x.w,
               baddr := c.pc, snap := c.snap, own := c.accd ++ c.egress.filter fun e => e.iss < x.now, st := st }] }

/-- LDG: the value performs at issue+640 (R123). -/
def execLdg (pd : Pd) (d a : SReg) (off : BitVec 24) (sz : Size) (sx : Bool) (ac : ACls) (s : State) :=
  coreWord pd (some 0x01) s fun x =>
    match effAddr x.core a off sz 57 with
    | .error e => .exc e
    | .ok v =>
      .done (s.payG x.ag (s.ctx x.ag) .rd (pageRuns v (szBytes sz)) (x.core.fetch x 640 (.ldg d (szBytes sz) sx) v ac))

/-- Entries of the egress buffer in use (R125). -/
def Core.egressUsed (c : Core) : Nat := ((c.egress.filter fun e => !e.inPath).map (·.cap)).sum

/-- STG: one entry of the egress buffer (R125). -/
def execStg (pd : Pd) (d a : SReg) (off : BitVec 24) (sz : Size) (ac : ACls) (s : State) :=
  coreWord pd (some 0x01) s fun x =>
    match effAddr x.core a off sz 57 with
    | .error e => .exc e
    | .ok v =>
      if 8192 ≤ x.core.egressUsed then .exc { cause := 0x0D, addr := v }
      else .done { x.core with egress := x.core.egress ++
        [{ va := v, bytes := (leBytes (szBytes sz) (x.core.rs d).toNat).map some, ac := ac, iss := x.now, word := x.w,
           baddr := x.core.pc, cap := 1, inPath := false, failed := none }] }

/-! ## Special registers (R66 to R68, R136) -/

/-- PLACE (R68). -/
def Core.place (c : Core) (shape m : Nat) : BitVec 64 :=
  BitVec.ofNat 64 (c.spos + c.lrank * 2 ^ 8 + c.rank * 2 ^ 16 + (if shape = 6 then m - 1 else 0) * 2 ^ 26 + shape * 2 ^ 32)

/-- ENMTR at VCC n in a wall cycle (R296): charges of the last 64 cycles, and a share applied in this wall cycle, are not
yet in it. -/
def Troupe.enmtr (tr : Troupe) (wall : Nat) : BitVec 64 :=
  let late := (tr.recent.filter fun r => tr.vcc.toNat < r.1 + 64).map (·.2)
  BitVec.ofNat 64 ((tr.en - late.sum - if tr.share.1 = wall then tr.share.2 else 0) / 2 ^ 8)

/-- A compute core's `csrr` names FLAGS, whose value includes the flags that the words of its own cycle raise (R57). -/
def readsFlags (x : Iss) (n : Nat) : Bool :=
  match x.ag with
  | .core _ _ => n == 0x000
  | .mgmt _ => false

/-- The value of a user special register (R66); `none`: not listed, or not one of a management core (log 20). -/
def State.csr (s : State) (x : Iss) (n : Nat) : Option (BitVec 64) :=
  let c := x.core
  let loopc := if 0x018 ≤ n && n ≤ 0x01F then some ((vget 0 c.loopc (n - 0x018)).zeroExtend 64) else none
  match x.ag with
  | .mgmt _ => if n = 0x002 then some (BitVec.ofNat 64 s.wall) else loopc
  | .core t _ =>
    match s.troupe? t with
    | none => none
    | some tr =>
      if n = 0x000 then some (c.flags.zeroExtend 64)
      else if n = 0x001 then some tr.vcc
      else if n = 0x002 then some (BitVec.ofNat 64 s.wall)
      else if n = 0x003 then some (BitVec.ofNat 64 (bit tr.unal + 2 * bit tr.rsmd))
      else if n = 0x004 then some (c.place tr.image.shape tr.image.m)
      else if 0x010 ≤ n && n ≤ 0x017 then some (vget 0 c.coord (n - 0x010))
      else if n = 0x020 then some (tr.enmtr s.wall)
      else if n = 0x030 then some (BitVec.ofNat 64 c.top)
      else if n = 0x031 then some (c.rseg.zeroExtend 64)
      else if n = 0x040 then some c.qstat
      else loopc

/-- CSRR (R136): d at issue+1, from the value of the issue cycle. -/
def execCsrr (pd : Pd) (d : SReg) (csr : BitVec 12) (s : State) :=
  coreWord pd (some 0x01) s fun x =>
    match s.csr x csr.toNat with
    | none => .exc illegalOperand
    | some v =>
      if readsFlags x csr.toNat then .done (x.core.sched x 0 (.readFlags d)) else .done (x.core.sched x 1 (.wS d v))

/-- CSRW (R136): FLAGS, LOOPC0 to LOOPC7, RSP and QSTAT are written; the others fault (R66). -/
def execCsrw (pd : Pd) (csr : BitVec 12) (a : SReg) (s : State) :=
  coreWord pd (some 0x01) s fun x =>
    let n := csr.toNat
    let v := x.core.rs a
    let user := match x.ag with
      | .core _ _ => true
      | .mgmt _ => false
    if user && n == 0x000 then .done (x.core.sched x 1 (.csrFlags v))
    else if 0x018 ≤ n && n ≤ 0x01F then .done (x.core.sched x 1 (.loopc (BitVec.ofNat 3 (n - 0x018)) (v.truncate 32)))
    else if user && n == 0x030 then
      let top := v.toNat % 2 ^ 21
      if top % 16 ≠ 0 || 2 ^ 20 < top then .exc illegalOperand
      else .done (x.core.sched x 1 (.csrRsp (BitVec.ofNat 64 top)))
    else if user && n == 0x040 then .done (x.core.sched x 1 (.csrQstat v))
    else .exc illegalOperand

/-! ## Traps and services (R137, R138) -/

def execTrap (pd : Pd) (code : BitVec 16) (a : SReg) (s : State) :=
  coreWord pd (some 0x01) s fun x => .doneExc x.core { cause := 0x20, aux0 := x.core.rs a, code := code }

/-- SYSC 0x0000: the core finishes with exit status a[31:0] (R39, R138). -/
def execSyscRetire (pd : Pd) (a : SReg) (s : State) :=
  coreWord pd (some 0x01) s fun x => .done { x.core with fin := some ((x.core.rs a).truncate 32) }

/-- A supervisor call (R138); the codes 0x0001 to 0x00FF are reserved. -/
def execSyscCall (pd : Pd) (d : SReg) (code : BitVec 16) (a : SReg) (s : State) :=
  coreWord pd (some 0x01) s fun x =>
    if code.toNat < 0x100 then .exc illegalOperand
    else .doneExc { x.core with sysc := some d } { cause := 0x21, aux0 := x.core.rs a, code := code }

end Sys2Proof.Machine
end

