-- ==== Sys2Proof/Machine/Sync.lean ====
section
/-!
DEFINITION. The scalar slot's counter operations, buffer handles, phases, `realign` and `locq` (R126 to R135).
-/

namespace Sys2Proof.Machine

/-! ## Counter operations (R126 to R131) -/

def Iss.src (x : Iss) : CtrSrc := .slot x.ag x.w x.core.pc

/-- The flits of an operation that a word posts, and of its answer, are paid at its issue (R292). -/
def State.payCtr (s : State) (x : Iss) (h : BitVec 64) (answer : Bool) : Core :=
  match x.ag with
  | .mgmt _ => x.core
  | .core _ _ => x.core.addCharges (s.counterFlits x.core.die (h.truncate 32) answer)

/-- CADD: posted (R127). -/
def execCadd (pd : Pd) (a b : SReg) (s : State) : Host.Outcome State Fault Refusal :=
  pkgWord pd s fun x =>
    let h := x.core.rs a
    if !s.handleOk x.ag h then .inr counterHandle
    else .inl ((s.postCtr (h.truncate 32) (.add (x.core.rs b)) x.src).did x (s.payCtr x h false))

/-- A wait begins: the operation leaves for the home engine and the agent is held from issue+1 (R129, R131). -/
def State.beginWait (s : State) (x : Iss) (h : BitVec 64) (d : SReg) (kind : WaitKind) (op : CtrKind)
    (dl : BitVec 16) : State :=
  let w : Wait := { kind := kind, d := d, handle := h.truncate 32, dl := dl, ticks := dlTicks dl,
                    baddr := x.core.pc, since := s.wall, formed := none, report := none, iss := x.now,
                    op := s.nextId, markers := [] }
  (s.postCtr (h.truncate 32) op x.src).did x { s.payCtr x h true with wait := some w }

def execCwait (pd : Pd) (d a b : SReg) (dl : BitVec 16) (s : State) : Host.Outcome State Fault Refusal :=
  pkgWord pd s fun x =>
    let h := x.core.rs a
    if !s.handleOk x.ag h then .inr counterHandle
    else .inl (s.beginWait x h d (.target (x.core.rs b)) (.wait (x.core.rs b)) dl)

def execCwaitArmed (pd : Pd) (d a : SReg) (dl : BitVec 16) (s : State) : Host.Outcome State Fault Refusal :=
  pkgWord pd s fun x =>
    let h := x.core.rs a
    if !s.handleOk x.ag h then .inr counterHandle
    else .inl (s.beginWait x h d .armed .waitArmed dl)

/-- CARM (R130): b = 0 and b above 2^32 − 1 fault at issue; the engine judges the rest. -/
def execCarm (pd : Pd) (a b : SReg) (s : State) : Host.Outcome State Fault Refusal :=
  pkgWord pd s fun x =>
    let h := x.core.rs a
    let v := (x.core.rs b).toNat
    if !s.handleOk x.ag h then .inr counterHandle
    else if v = 0 || 2 ^ 32 ≤ v then .inr illegalOperand
    else .inl ((s.postCtr (h.truncate 32) (.arm (BitVec.ofNat 32 v)) x.src).did x (s.payCtr x h false))

/-- CREAD (R131): no deadline. -/
def execCread (pd : Pd) (d a : SReg) (s : State) : Host.Outcome State Fault Refusal :=
  pkgWord pd s fun x =>
    let h := x.core.rs a
    if !s.handleOk x.ag h then .inr counterHandle
    else .inl (s.beginWait x h d .read .read 0)

/-! ## Buffer handles (R82, R132) -/

/-- The position, in the troupe's list, of ring core `i` of the ring that holds a core (R17, R83). -/
def Troupe.ringCore (tr : Troupe) (die loc i : Nat) : Option Nat :=
  tr.cores.findIdx? fun c => c.die == die && c.loc == loc / 4 * 4 + i

/-- The core of the issuing agent's ring with index i, with its agent. -/
def State.ringCore (s : State) (a : Agent) (c : Core) (i : Nat) : Option (Agent × Core) :=
  match a with
  | .core t _ => (s.troupe? t).bind fun tr =>
      (tr.ringCore c.die c.loc i).bind fun r => (tr.cores[r]?).map fun k => (.core t r, k)
  | .mgmt _ => if i = c.loc % 4 then some (a, c) else none

/-- The holder of buffer n of ring core o, as a ring index; a core outside the troupe holds its own (R82). -/
def State.holderOf (s : State) (a : Agent) (c : Core) (o n : Nat) : Nat :=
  match s.ringCore a c o with
  | some (_, k) => vget o k.holder n
  | none => o

/-- A buffer id and, for `hgive`, a destination, within range (R132). -/
def bufOk (id : BitVec 64) : Bool := decide (id.toNat < 2 ^ 9)

def execHquery (pd : Pd) (d a : SReg) (s : State) : Host.Outcome State Fault Refusal :=
  coreWord pd (some 0x01) s fun x =>
    let id := x.core.rs a
    if !bufOk id then .exc illegalOperand
    else .done (x.core.sched x 1
      (.wS d (BitVec.ofNat 64 (s.holderOf x.ag x.core (id.toNat / 128) (id.toNat % 128)))))

/-! ## Phase, realign and locq (R133 to R135) -/

/-- Scope codes (R133). -/
def Scope.num (x : Scope) : Nat := x.code

/-- The egress entries that a phase covers are paid at its issue, a granule each (R289); one of inactive elements only is
no granule. -/
def State.payEgress (s : State) (a : Agent) (c : Core) : Core :=
  s.payG a (s.ctx a) .wr ((c.egress.filter fun e => !e.inPath && e.bytes.any Option.isSome).map fun e =>
    (e.va, e.bytes.length)) c

/-- The active bank of a port. -/
def Port.active (p : Port) : List (Nat × BitVec 64) := if p.act then p.rtB else p.rtA

def State.port (s : State) (q : Nat) : Port := vget Port.reset s.ports q

/-- The partition an agent acts in. -/
def State.partOf (s : State) (a : Agent) : Nat :=
  match a with
  | .core t _ => ((s.troupe? t).map (·.part)).getD 0
  | .mgmt m => (s.mg m).part.toNat

/-- The pairs of a live optical plane and a package that the active route tables of a partition's ports reach: what the
package knows of the pod (log 31). -/
def State.podPairs (s : State) (part : Nat) : List (Nat × BitVec 16) :=
  ((tab 16 id).flatMap fun q =>
    if (s.part part).ports.getLsbD q && s.live.getLsbD (q % 4) then
      (s.port q).active.filterMap fun e => if e.2[63] then some (q % 4, (e.2.truncate 16 : BitVec 16)) else none
    else []).eraseDups

/-- The markers that an agent awaits, of its phase or of its task's publication. -/
def Core.marks (c : Core) : List Mark := ((c.wait.map (·.markers)).getD []) ++ c.pubMarks.getD []

/-- Every marker of a phase of scope k has left and is acknowledged (R355). -/
def Wait.marked (w : Wait) (k : Nat) : Bool := (w.sent || decide (k < 3)) && w.markers.isEmpty

/-- PHASE (R133, R247, R248): core scope completes at the end of its issue cycle and never holds; a wider one holds at issue+1 until it completes. -/
def execPhase (pd : Pd) (scope : Scope) (s : State) : Host.Outcome State Fault Refusal :=
  coreWord pd (some 0x01) s fun x =>
    let k := Scope.num scope
    let c := s.payEgress x.ag x.core
    if k = 0 then .done (c.sched x 0 .phaseCore)
    else
      let w : Wait := { kind := .phase k, d := 0, handle := 0, dl := 0, ticks := 0, baddr := c.pc, since := s.wall,
                        formed := none, report := none, iss := x.now, op := 0, markers := [] }
      .done { c with wait := some w }

/-- REALIGN (R29, R134). -/
def execRealign (pd : Pd) (s : State) : Host.Outcome State Fault Refusal :=
  coreWord pd (some 0x01) s fun x => .done { x.core with realign := true }

/-- LOCQ (R135): translates, and performs at issue+8. -/
def execLocq (pd : Pd) (d a : SReg) (s : State) : Host.Outcome State Fault Refusal :=
  coreWord pd (some 0x01) s fun x =>
    let v := (x.core.rs a).toNat
    if 2 ^ 57 ≤ v then .exc (addressFault v)
    else .done (s.payG x.ag (s.ctx x.ag) .any [(v, 0)] (x.core.fetch x 8 (.locq d) v 0))

/-- The report of `locq` on a translated page (R135). -/
def locqValue (pa : Nat) (pte : BitVec 64) (size : Nat) : Nat :=
  let leaf := if size = 2 ^ 30 then 3 else if size = 2 ^ 21 then 2 else if size = 2 ^ 16 then 1 else 0
  2 ^ 15 + bit (isFar pa) * 2 ^ 14 + bit (pteMs pte == 1) * 2 ^ 13 + leaf * 2 ^ 11 +
    (if isFar pa then (pa - 2 ^ 43) / 2 ^ 40 * 2 ^ 8 else pa / 2 ^ 37)

end Sys2Proof.Machine
end

