-- ==== Sys2Proof/Machine/Vector.lean ====
section
/-!
DEFINITION. The vector slots: FP32 and INT32 arithmetic, conversion, rearrangement, predicates, loads and stores
(R140 to R149, R156 to R167).
-/

namespace Sys2Proof.Machine

/-- A scalar register named by a 5-bit vector field (R158, R159). -/
def sOfV (r : BitVec 5) : BitVec 6 := r.zeroExtend 6

/-- A word that writes v[d] at issue+lat: element e of the active ones receives f e and raises its flags (R140,
R142). -/
def elemOp (pd : Pd) (d : VRegN) (lat : Nat) (s : State) (f : Core → Nat → BitVec 32 × Fl) :
    Host.Outcome State Fault Refusal :=
  vecWord pd (some 0x02) s fun x m =>
    let g := f x.core
    .done (x.core.sched x lat (.wV d (vmap fun e => (g e).1) m)
      (orFl ((tab 1024 id).map fun e => if m.getLsbD e then (g e).2 else 0)))

/-- A word that writes p[d] at issue+lat; an inactive bit receives 0 (R140). -/
def predElemOp (pd : Pd) (d : PReg) (lat : Nat) (s : State) (f : Core → Nat → Bool × Fl) :
    Host.Outcome State Fault Refusal :=
  vecWord pd (some 0x02) s fun x m =>
    let g := f x.core
    .done (x.core.sched x lat (.wP d (pmap fun e => m.getLsbD e && (g e).1))
      (orFl ((tab 1024 id).map fun e => if m.getLsbD e then (g e).2 else 0)))

/-! ## FP32 arithmetic (R143, R144) -/

def f32 (b : BitVec 32) : Num := FF.fp32.decode b.toNat

/-- Flags of reading FP32 operands (R142). -/
def readFl (l : List (BitVec 32)) : Fl := orFl (l.map fun b => FF.fp32.readFl b.toNat)

def canon32 : BitVec 32 := 0x7FC00000

/-- One rounding of the exact sum of a product and an addend, with the tests of R143 in their order. -/
def fmaExact (neg : Bool) (a b : Num) (c : Option Num) : BitVec 32 × Fl :=
  let (p, fp) := Num.mul a b
  let p := if neg then p.neg else p
  if fp ≠ 0 then (canon32, IV ||| NFP)
  else if p.isNan || (c.map Num.isNan).getD false then (canon32, 0)
  else match c with
    | none => round32 p
    | some c =>
      let (t, ft) := Num.add p c
      if ft ≠ 0 then (canon32, IV ||| NFP) else round32 t

def addExact (a b : Num) : BitVec 32 × Fl :=
  if a.isNan || b.isNan then (canon32, 0)
  else
    let (t, ft) := Num.add a b
    if ft ≠ 0 then (canon32, IV ||| NFP) else round32 t

/-- Raise further flags. -/
def withFl (fl : Fl) (r : BitVec 32 × Fl) : BitVec 32 × Fl := (r.1, r.2 ||| fl)

def fadd32 (a b : BitVec 32) : BitVec 32 × Fl := withFl (readFl [a, b]) (addExact (f32 a) (f32 b))
def fsub32 (a b : BitVec 32) : BitVec 32 × Fl := withFl (readFl [a, b]) (addExact (f32 a) (f32 b).neg)
def fmul32 (a b : BitVec 32) : BitVec 32 × Fl := withFl (readFl [a, b]) (fmaExact false (f32 a) (f32 b) none)
def ffma32 (neg : Bool) (a b c : BitVec 32) : BitVec 32 × Fl :=
  withFl (readFl [a, b, c]) (fmaExact neg (f32 a) (f32 b) (some (f32 c)))

/-- The lesser (or greater) of two FP32 values, −0 below +0, a NaN giving way (R144). -/
def fminmax (greater : Bool) (a b : BitVec 32) : BitVec 32 :=
  let x := f32 a
  let y := f32 b
  if x.isNan && y.isNan then canon32
  else if x.isNan then b
  else if y.isNan then a
  else
    let k := Num.cmp x y
    let less := k < 0 || (k == 0 && x.sign && !y.sign)
    if less != greater then a else b

def execVadd (pd : Pd) (d a b : VRegN) (s : State) :=
  elemOp pd d 4 s fun c e => fadd32 (el (c.rv a) e) (el (c.rv b) e)
def execVsub (pd : Pd) (d a b : VRegN) (s : State) :=
  elemOp pd d 4 s fun c e => fsub32 (el (c.rv a) e) (el (c.rv b) e)
def execVmul (pd : Pd) (d a b : VRegN) (s : State) :=
  elemOp pd d 4 s fun c e => fmul32 (el (c.rv a) e) (el (c.rv b) e)
def execVfma (pd : Pd) (d a b k : VRegN) (s : State) :=
  elemOp pd d 4 s fun c e => ffma32 false (el (c.rv a) e) (el (c.rv b) e) (el (c.rv k) e)
def execVfnma (pd : Pd) (d a b k : VRegN) (s : State) :=
  elemOp pd d 4 s fun c e => ffma32 true (el (c.rv a) e) (el (c.rv b) e) (el (c.rv k) e)
def execVmin (pd : Pd) (d a b : VRegN) (s : State) :=
  elemOp pd d 2 s fun c e =>
    (fminmax false (el (c.rv a) e) (el (c.rv b) e), readFl [el (c.rv a) e, el (c.rv b) e])
def execVmax (pd : Pd) (d a b : VRegN) (s : State) :=
  elemOp pd d 2 s fun c e =>
    (fminmax true (el (c.rv a) e) (el (c.rv b) e), readFl [el (c.rv a) e, el (c.rv b) e])

/-- A sign operation: a NaN gives the canonical NaN (R144). -/
def signOp (f : BitVec 32 → BitVec 32) (a : BitVec 32) : BitVec 32 × Fl :=
  (if (f32 a).isNan then canon32 else f a, readFl [a])

def execVabs (pd : Pd) (d a : VRegN) (s : State) :=
  elemOp pd d 2 s fun c e => signOp (· &&& 0x7FFFFFFF) (el (c.rv a) e)
def execVneg (pd : Pd) (d a : VRegN) (s : State) :=
  elemOp pd d 2 s fun c e => signOp (· ^^^ 0x80000000) (el (c.rv a) e)

/-! ## Compare, class, conversion (R145 to R147) -/

/-- The FP32 conditions of R145. -/
def fcondHolds (cc : FCond) (a b : Num) : Bool :=
  let un := a.isNan || b.isNan
  let k := Num.cmp a b
  match cc with
  | .eq => !un && k == 0
  | .ne => un || k != 0
  | .lt => !un && k < 0
  | .ge => !un && 0 ≤ k
  | .un => un
  | .or => !un
  | .gt => !un && 0 < k
  | .le => !un && k ≤ 0

/-- Conditions that raise IV on a quiet NaN. -/
def fcondSignals : FCond → Bool
  | .lt | .ge | .gt | .le => true
  | _ => false

def execVcmp (pd : Pd) (cc : FCond) (d : PReg) (a b : VRegN) (s : State) :=
  predElemOp pd d 2 s fun c e =>
    let x := el (c.rv a) e
    let y := el (c.rv b) e
    (fcondHolds cc (f32 x) (f32 y),
     readFl [x, y] ||| flagIf (fcondSignals cc && ((f32 x).isNan || (f32 y).isNan)) IV)

/-- The class bit of R146. -/
def fclassOf (b : BitVec 32) : BitVec 32 :=
  let v := f32 b
  let neg := b[31]
  let expo := fld b.toNat 23 8
  let k : Nat := match v with
    | .nan => if FF.fp32.isSnan b.toNat then 8 else 9
    | .inf n => if n then 0 else 7
    | .fin _ num _ _ =>
      if num = 0 then (if neg then 3 else 4)
      else if expo = 0 then (if neg then 2 else 5)
      else (if neg then 1 else 6)
  BitVec.ofNat 32 (2 ^ k)

def execFclass (pd : Pd) (d a : VRegN) (s : State) :=
  elemOp pd d 2 s fun c e => (fclassOf (el (c.rv a) e), 0)

/-- One converted element (R147, R54), or `none` where the descriptor does not suit the kind. -/
def cvtElem (kind : CvtKind) (mode : RMode) (f : BitVec 32) : Option (BitVec 32 → BitVec 32 × Fl) :=
  match kind, fmtOf f with
  | .fi, .int w sg => some fun a =>
    let r := satInt (f32 a) w sg mode
    (BitVec.ofInt 32 (intVal w sg r.1), r.2 ||| readFl [a])
  | .if', .int 32 sg => some fun a =>
    let r := roundTo (Num.ofInt (intVal 32 sg a.toNat)) .fp32 mode false
    (BitVec.ofNat 32 r.1, r.2)
  | .ff, .flt g =>
    if g = .fp32 || g = .e2m1 then none
    else some fun a =>
      let r := roundTo (f32 a) g mode (fmtSat f)
      ((round32 (g.decode r.1)).1, r.2 ||| readFl [a])
  | _, _ => none

/-- CVT (R147). -/
def execCvt (pd : Pd) (kind : CvtKind) (mode : RMode) (d a : VRegN) (f : FReg) (s : State) :
    Host.Outcome State Fault Refusal :=
  vecWord pd (some 0x02) s fun x m =>
    match cvtElem kind mode (x.core.rf f) with
    | none => .exc illegalOperand
    | some g =>
      let v := x.core.rv a
      .done (x.core.sched x 4 (.wV d (vmap fun e => (g (el v e)).1) m)
        (orFl ((tab 1024 id).map fun e => if m.getLsbD e then (g (el v e)).2 else 0)))

/-! ## INT32 arithmetic and select (R148, R149) -/

/-- An INT32 operation of two registers, latency 2, no flag. -/
def intOp (pd : Pd) (d a b : VRegN) (s : State) (f : BitVec 32 → BitVec 32 → BitVec 32) :
    Host.Outcome State Fault Refusal :=
  elemOp pd d 2 s fun c e => (f (el (c.rv a) e) (el (c.rv b) e), 0)

def execViadd (pd : Pd) (d a b : VRegN) (s : State) := intOp pd d a b s (· + ·)
def execVisub (pd : Pd) (d a b : VRegN) (s : State) := intOp pd d a b s (· - ·)
def execVimul (pd : Pd) (d a b : VRegN) (s : State) := intOp pd d a b s (· * ·)
def execVimin (pd : Pd) (d a b : VRegN) (s : State) := intOp pd d a b s fun x y => if x.slt y then x else y
def execVimax (pd : Pd) (d a b : VRegN) (s : State) := intOp pd d a b s fun x y => if x.slt y then y else x
def execViminu (pd : Pd) (d a b : VRegN) (s : State) := intOp pd d a b s fun x y => if x.ult y then x else y
def execVimaxu (pd : Pd) (d a b : VRegN) (s : State) := intOp pd d a b s fun x y => if x.ult y then y else x
def execVand (pd : Pd) (d a b : VRegN) (s : State) := intOp pd d a b s (· &&& ·)
def execVor (pd : Pd) (d a b : VRegN) (s : State) := intOp pd d a b s (· ||| ·)
def execVxor (pd : Pd) (d a b : VRegN) (s : State) := intOp pd d a b s (· ^^^ ·)
def execVshl (pd : Pd) (d a b : VRegN) (s : State) := intOp pd d a b s fun x y => x <<< (y.toNat % 32)
def execVshr (pd : Pd) (d a b : VRegN) (s : State) := intOp pd d a b s fun x y => x >>> (y.toNat % 32)
def execVsar (pd : Pd) (d a b : VRegN) (s : State) := intOp pd d a b s fun x y => x.sshiftRight (y.toNat % 32)

def execVicmp (pd : Pd) (cc : Cond) (d : PReg) (a b : VRegN) (s : State) :=
  predElemOp pd d 2 s fun c e => (cc.holds (el (c.rv a) e) (el (c.rv b) e), 0)

def execVsel (pd : Pd) (d a b : VRegN) (ps : PReg) (s : State) :=
  elemOp pd d 2 s fun c e => (if (c.rp ps).getLsbD e then el (c.rv a) e else el (c.rv b) e, 0)

/-! ## Rearrangement (R156) -/

/-- The amount or index s + sext(IMM16) modulo an axis length (R156). -/
def axisAmt (c : Core) (r : SReg) (imm : BitVec 16) (n : Nat) : Nat := (c.rs r + sext16 imm).toNat % n

/-- A rearrangement: element e receives a[g e]. -/
def rearrange (pd : Pd) (d a : VRegN) (lat : Nat) (s : State) (g : Core → Nat → Nat) :
    Host.Outcome State Fault Refusal :=
  elemOp pd d lat s fun c e => (el (c.rv a) (g c e), 0)

def execRotr (pd : Pd) (d a : VRegN) (r : SReg) (imm : BitVec 16) (s : State) :=
  rearrange pd d a 2 s fun c e => e / 64 * 64 + (e % 64 + 64 - axisAmt c r imm 64) % 64
def execRotc (pd : Pd) (d a : VRegN) (r : SReg) (imm : BitVec 16) (s : State) :=
  rearrange pd d a 6 s fun c e => (e / 64 + 16 - axisAmt c r imm 16) % 16 * 64 + e % 64
def execBcr (pd : Pd) (d a : VRegN) (r : SReg) (imm : BitVec 16) (s : State) :=
  rearrange pd d a 2 s fun c e => e / 64 * 64 + axisAmt c r imm 64
def execBcc (pd : Pd) (d a : VRegN) (r : SReg) (imm : BitVec 16) (s : State) :=
  rearrange pd d a 6 s fun c e => axisAmt c r imm 16 * 64 + e % 64

/-! ## Reductions (R157) -/

/-- The exact sum of FP32 terms, rounded once, with the special cases of R59. R59 lists no NFP: as R143 does, the model
raises it for opposite infinities and not for a NaN operand alone (log 49). -/
def fsumAll (l : List (BitVec 32)) : BitVec 32 × Fl :=
  if l.isEmpty then (0, 0)
  else
    let (v, fl) := Num.sum (l.map f32)
    if fl ≠ 0 then (canon32, IV ||| NFP ||| readFl l) else withFl (readFl l) (round32 v)

/-- The result of a reduction over the active elements of an axis, which are not none. -/
def reduce (op : RedOp) (l : List (BitVec 32)) : BitVec 32 × Fl :=
  let f (g : BitVec 32 → BitVec 32 → BitVec 32) : BitVec 32 :=
    match l with
    | [] => 0
    | a :: t => t.foldl g a
  match op with
  | .fsum => fsumAll l
  | .fmax => (if l.length = 1 then fminmax true (l.headD 0) (l.headD 0) else f (fminmax true), readFl l)
  | .fmin => (if l.length = 1 then fminmax false (l.headD 0) (l.headD 0) else f (fminmax false), readFl l)
  | .isum => (f (· + ·), 0)
  | .imax => (f fun x y => if x.slt y then y else x, 0)
  | .imin => (f fun x y => if x.slt y then x else y, 0)
  | .umax => (f fun x y => if x.ult y then y else x, 0)
  | .umin => (f fun x y => if x.ult y then x else y, 0)
  | .and' => (f (· &&& ·), 0)
  | .or' => (f (· ||| ·), 0)
  | .xor' => (f (· ^^^ ·), 0)

/-- A reduction along rows or columns: `idx k e` lists the elements of axis k. -/
def reduceOp (pd : Pd) (op : RedOp) (d a : VRegN) (lat axes : Nat) (elems : Nat → List Nat) (axisOf : Nat → Nat)
    (s : State) : Host.Outcome State Fault Refusal :=
  vecWord pd (some 0x02) s fun x m =>
    let v := x.core.rv a
    let rs := tab axes fun k => reduce op (((elems k).filter fun e => m.getLsbD e).map fun e => el v e)
    .done (x.core.sched x lat (.wV d (vmap fun e => (rs.getD (axisOf e) (0, 0)).1) m) (orFl (rs.map (·.2))))

def execRedr (pd : Pd) (op : RedOp) (d a : VRegN) (s : State) :=
  reduceOp pd op d a 6 16 (fun r => tab 64 fun i => r * 64 + i) (· / 64) s
def execRedc (pd : Pd) (op : RedOp) (d a : VRegN) (s : State) :=
  reduceOp pd op d a 10 64 (fun k => tab 16 fun i => i * 64 + k) (· % 64) s

/-! ## Splat, extract, insert, counts (R158, R159) -/

def execVsplat (pd : Pd) (d : VRegN) (r : SReg) (imm : BitVec 16) (s : State) :=
  elemOp pd d 2 s fun c _ => ((c.rs r + sext16 imm).truncate 32, 0)

def execVsplatQ (pd : Pd) (d : VRegN) (q : QReg) (s : State) :=
  elemOp pd d 2 s fun c e => (el (c.qimage q.toNat) e, 0)

/-- A vector word that acts as a whole and writes a scalar register (R158, R159). -/
def vecScalar (pd : Pd) (d : VRegN) (lat : Nat) (s : State) (f : Core → BitVec 1024 → BitVec 64) :
    Host.Outcome State Fault Refusal :=
  coreWord pd (some 0x02) s fun x => .done (x.core.sched x lat (.wS (sOfV d) (f x.core (x.core.mask pd))))

def execVext (pd : Pd) (sx : Bool) (d a : VRegN) (r : SReg) (imm : BitVec 16) (s : State) :=
  vecScalar pd d 4 s fun c _ => extend 4 sx (el (c.rv a) (axisAmt c r imm 1024)).toNat

def execVextQ (pd : Pd) (d : VRegN) (q : QReg) (s : State) := vecScalar pd d 4 s fun c _ => c.qword q.toNat

def execVins (pd : Pd) (d a : VRegN) (r : SReg) (idx : BitVec 10) (s : State) :=
  elemOp pd d 2 s fun c e => (if e = idx.toNat then (c.rs r).truncate 32 else el (c.rv a) e, 0)

/-- The first n set bits, ascending (R159). -/
def keepFirst (n : Nat) (m : BitVec 1024) : BitVec 1024 :=
  BitVec.ofNat 1024 ((tab 1024 id).foldl (fun (acc : Nat × Nat) e =>
    if m.getLsbD e && acc.2 < n then (acc.1 + 2 ^ e, acc.2 + 1) else acc) (0, 0)).1

def execPcnt (pd : Pd) (d a : PReg) (r : SReg) (imm : BitVec 16) (s : State) : Host.Outcome State Fault Refusal :=
  vecWord pd (some 0x02) s fun x m =>
    .done (x.core.sched x 2 (.wP d (keepFirst (x.core.rs r + sext16 imm).toNat (m &&& x.core.rp a))))

def execPpop (pd : Pd) (d : VRegN) (a : PReg) (s : State) :=
  vecScalar pd d 2 s fun c m => BitVec.ofNat 64 (popcount (m &&& c.rp a))

/-! ## Predicate logic (R160) -/

def predLogic (pd : Pd) (d : PReg) (s : State) (f : Core → BitVec 1024) : Host.Outcome State Fault Refusal :=
  vecWord pd (some 0x02) s fun x m => .done (x.core.sched x 1 (.wP d (m &&& f x.core)))

def execPand (pd : Pd) (d a b : PReg) (s : State) := predLogic pd d s fun c => c.rp a &&& c.rp b
def execPor (pd : Pd) (d a b : PReg) (s : State) := predLogic pd d s fun c => c.rp a ||| c.rp b
def execPxor (pd : Pd) (d a b : PReg) (s : State) := predLogic pd d s fun c => c.rp a ^^^ c.rp b
def execPandn (pd : Pd) (d a b : PReg) (s : State) := predLogic pd d s fun c => c.rp a &&& ~~~ (c.rp b)
def execPnot (pd : Pd) (d a : PReg) (s : State) := predLogic pd d s fun c => ~~~ (c.rp a)

/-! ## Bank wall and Switchback (R161 to R164) -/

/-- The image whose patterns an agent's core uses. -/
def State.image (s : State) (a : Agent) : Image :=
  match a with
  | .core t _ => ((s.troupe? t).map (·.image)).getD
      { shape := 0, m := 0, dmax := 1, loop := gen 8 fun _ => 0, streams := [], pats := [], routines := [] }
  | .mgmt _ => { shape := 0, m := 0, dmax := 1, loop := gen 8 fun _ => 0, streams := [], pats := [], routines := [] }

/-- A descriptor and a sub-word that a bank load or store may name (R161). -/
def subOk (f : BitVec 32) (sub : BitVec 64) : Bool :=
  match fmtOf f with
  | .flt .e2m1 => false
  | .bpi .. => false
  | g => decide (sub.toNat < 32 / g.width)

/-- The effective base row (R161). -/
def baseRow (c : Core) (net : Nat) (r : SReg) : Nat := (netRow c.netw net + (c.rs r).toNat % 512) % 512

/-- VLD: the bank cycle is issue+2 (R162). -/
def execVld (pd : Pd) (d : VRegN) (net : Bool) (row : SReg) (f : FReg) (r : SReg) (s : State) :
    Host.Outcome State Fault Refusal :=
  vecWord pd none s fun x m =>
    let c := x.core
    if !subOk (c.rf f) (c.rs r) then .exc illegalOperand
    else
      let k := bit net
      let (p, dyn) := c.pattern (s.image x.ag) (netPat c.netw k)
      .done (c.sched x 2 (.vld d p dyn (baseRow c k row) (c.rf f) (c.rs r).toNat m))

/-- VST: the bank cycle is issue+6 (R162). -/
def execVst (pd : Pd) (d : VRegN) (row : SReg) (f : FReg) (r : SReg) (s : State) :
    Host.Outcome State Fault Refusal :=
  vecWord pd none s fun x m =>
    let c := x.core
    if !subOk (c.rf f) (c.rs r) then .exc illegalOperand
    else
      let (p, dyn) := c.pattern (s.image x.ag) (netPat c.netw 2)
      .done (c.sched x 6 (.vst (c.rv d) p dyn (baseRow c 2 row) (c.rf f) (c.rs r).toNat m))

/-- The quad that a T address starts, for an orientation (R164). -/
def quadOf (t : BitVec 64) (col : Bool) : Except Exc Nat :=
  let v := t.toNat
  if 2 ^ 18 ≤ v then .error (addressFault v)
  else if col then (if v % 16 = 0 && v / 16 < 64 then .ok (v / 16) else .error (misaligned v))
  else (if v % 4096 = 0 then .ok (v / 4096) else .error (misaligned v))

def execVldt (pd : Pd) (d : VRegN) (r : SReg) (col : Bool) (s : State) : Host.Outcome State Fault Refusal :=
  vecWord pd none s fun x m =>
    match quadOf (x.core.rs r) col with
    | .error e => .exc e
    | .ok j => .done (x.core.sched x 2 (.vldt d j col m))

def execVstt (pd : Pd) (d : VRegN) (r : SReg) (col : Bool) (s : State) : Host.Outcome State Fault Refusal :=
  vecWord pd none s fun x m =>
    match quadOf (x.core.rs r) col with
    | .error e => .exc e
    | .ok j => .done (x.core.sched x 4 (.vstt (x.core.rv d) j col m))

/-! ## Global memory (R165 to R167) -/

/-- The bytes per code of a G form's descriptor; `none`: E2M1 or BPI. -/
def gBytes (f : BitVec 32) : Option Nat :=
  match fmtOf f with
  | .flt .e2m1 => none
  | .bpi .. => none
  | g => some (g.width / 8)

/-- The base address of a G form, checked (R165). -/
def gBase (f : BitVec 32) (a : BitVec 64) : Except Exc Nat :=
  match gBytes f with
  | none => .error illegalOperand
  | some n =>
    if 2 ^ 57 ≤ a.toNat then .error (addressFault a.toNat)
    else if a.toNat % n ≠ 0 then .error (misaligned a.toNat)
    else .ok a.toNat

/-- The addresses that the active elements of a vector access fall on, cut to multiples of `unit`. -/
def vecUnits (va n unit : Nat) (m : BitVec 1024) : List Nat :=
  (((tab 1024 id).filter fun e => m.getLsbD e).map fun e => (va + e * n) / unit * unit).eraseDups

def vldgOp (pd : Pd) (d : VRegN) (cnt : Option SReg) (f : FReg) (ac : ACls) (r : SReg) (s : State) :
    Host.Outcome State Fault Refusal :=
  vecWord pd (some 0x06) s fun x m =>
    match gBase (x.core.rf f) (x.core.rs r) with
    | .error e => .exc e
    | .ok v =>
      -- with no active element nothing is fetched or translated, and nothing is missing at issue+700 (R165, R166)
      let st : FetchSt := if m = 0 then .arrived (List.replicate (1024 * (gBytes (x.core.rf f)).getD 4) 0) else .walking
      .done (s.payG x.ag (s.ctx x.ag) .rd ((vecUnits v ((gBytes (x.core.rf f)).getD 4) 64 m).map fun g => (g, 64))
        (x.core.fetch x 700 (.vldg d (x.core.rf f) m cnt) v ac st))

def execVldg (pd : Pd) (d : VRegN) (f : FReg) (ac : ACls) (r : SReg) (s : State) := vldgOp pd d none f ac r s
def execVldgFf (pd : Pd) (d : VRegN) (cnt : SReg) (f : FReg) (ac : ACls) (r : SReg) (s : State) :=
  vldgOp pd d (some cnt) f ac r s

/-- The bytes that a `vstg` places at its base, in element order: none for an inactive element. -/
def vstgBytes (f : BitVec 32) (n : Nat) (v : VReg) (m : BitVec 1024) : List (Option Byte) :=
  (tab 1024 id).flatMap fun e =>
    if m.getLsbD e then (leBytes n (narrow f (el v e)).1).map some else tab n fun _ => none

/-- Cut bytes at aligned 64-byte granules: the single-copy atomic units of a vector store (R245). -/
def granules (va : Nat) (l : List (Option Byte)) : List (Nat × List (Option Byte)) :=
  let first := 64 - va % 64
  let h := (va, l.take first)
  let rest := l.drop first
  h :: tab ((rest.length + 63) / 64) fun i => (va + first + 64 * i, (rest.drop (64 * i)).take 64)

/-- VSTG (R167): the entries are taken and filled at issue; the flags are set, and the translation must be there,
at issue+6. -/
def execVstg (pd : Pd) (d : VRegN) (f : FReg) (ac : ACls) (r : SReg) (s : State) :
    Host.Outcome State Fault Refusal :=
  vecWord pd (some 0x06) s fun x m =>
    let c := x.core
    let fd := c.rf f
    match gBase fd (c.rs r) with
    | .error e => .exc e
    | .ok v =>
      let n := (gBytes fd).getD 4
      let need := n * 128
      if 8192 < c.egressUsed + need then .exc { cause := 0x0D, addr := v }
      else
        let src := c.rv d
        let fl := orFl ((tab 1024 id).map fun e => if m.getLsbD e then (narrow fd (el src e)).2 else 0)
        let es := (granules v (vstgBytes fd n src m)).mapIdx fun i g =>
          ({ va := g.1, bytes := g.2, ac := ac, iss := x.now, word := x.w, baddr := c.pc,
             cap := if i = 0 then need else 0, inPath := false, failed := none } : Egress)
        let c := s.payG x.ag (s.ctx x.ag) .any ((vecUnits v n 4096 m).map fun g => (g, 0)) { c with egress := c.egress ++ es }
        -- with no active element there is no page to walk (R165, R167)
        .done ((if m = 0 then c else c.fetch x 6 (.vstg fd m) v ac).sched x 6 .flagsOnly fl)

end Sys2Proof.Machine
end

