-- ==== Sys2Proof/Machine/Sfu.lean ====
section
/-!
DEFINITION. The special-function unit (R150 to R155): table entries formed from their definition, quadratic
interpolation, reconstruction, one rounding. The tabulated functions are evaluated in fixed point, far beyond the
precision of an entry (log 10).
-/

namespace Sys2Proof.Machine

/-! ## Fixed point: integers in units of 2^-768 -/

def fxP : Nat := 768
def fxOne : Int := 2 ^ fxP
def fxMul (a b : Int) : Int := a * b / 2 ^ fxP
def fxDiv (a b : Int) : Int := a * 2 ^ fxP / b

/-- Remove the evaluation's noise: rounded to units of 2^-704. -/
def fxClean (a : Int) : Int := (a + 2 ^ 63) / 2 ^ 64 * 2 ^ 64

/-- A sum of terms, each formed from the one before by `f k`. -/
def fxSeries (n : Nat) (t0 : Int) (f : Nat → Int → Int) : Int :=
  ((tab n id).foldl (fun (acc : Int × Int) k =>
    let t := f (k + 1) acc.2
    (acc.1 + t, t)) (t0, t0)).1

/-- artanh(1 / k) times 2^768, for an integer k. -/
def fxAtanhInv (k : Nat) : Int :=
  ((tab 400 id).foldl (fun (acc : Int × Int) (i : Nat) => (acc.1 + acc.2 / (2 * (i : Int) + 1), acc.2 / (k * k)))
    (0, fxOne / k)).1

/-- arctan(1 / k) times 2^768. -/
def fxAtanInv (k : Nat) : Int :=
  ((tab 400 id).foldl (fun (acc : Int × Int) (i : Nat) =>
    (if i % 2 = 0 then acc.1 + acc.2 / (2 * (i : Int) + 1) else acc.1 - acc.2 / (2 * (i : Int) + 1), acc.2 / (k * k)))
    (0, fxOne / k)).1

def fxLn2 : Int := 2 * fxAtanhInv 3
def fxPi : Int := 4 * (4 * fxAtanInv 5 - fxAtanInv 239)

/-- e^x. -/
def fxExp (x : Int) : Int :=
  let n := x / fxLn2
  let r := x - n * fxLn2
  let e := fxSeries 200 fxOne fun k t => fxMul t r / k
  if 0 ≤ n then e * 2 ^ n.toNat else e / 2 ^ (-n).toNat

/-- ln(1 + x) for 0 ≤ x ≤ 1. -/
def fxLn1p (x : Int) : Int :=
  let z := fxDiv x (2 * fxOne + x)
  let z2 := fxMul z z
  2 * ((tab 280 id).foldl (fun (acc : Int × Int) (i : Nat) => (acc.1 + acc.2 / (2 * i + 1), fxMul acc.2 z2)) (0, z)).1

def fxSin (x : Int) : Int :=
  let x2 := fxMul x x
  fxSeries 90 x fun k t => -(fxMul t x2 / ((2 * k) * (2 * k + 1)))

def fxCos (x : Int) : Int :=
  let x2 := fxMul x x
  fxSeries 90 fxOne fun k t => -(fxMul t x2 / ((2 * k - 1) * (2 * k)))

def fxSqrt (x : Int) : Int := ((x * 2 ^ fxP).toNat.sqrt : Nat)

/-- erf(x) for 0 ≤ x ≤ 8. -/
def fxErf (x : Int) : Int :=
  let x2 := fxMul x x
  let s := ((tab 620 id).foldl (fun (acc : Int × Int) (k : Nat) =>
    (acc.1 + acc.2 / (2 * k + 1), -(fxMul acc.2 x2 / (k + 1)))) (0, x)).1
  fxDiv (2 * s) (fxSqrt fxPi)

/-- tanh(y) for y ≥ 0. -/
def fxTanh (y : Int) : Int :=
  let t := fxExp (-2 * y)
  fxDiv (fxOne - t) (fxOne + t)

/-- 1 / (1 + e^-x). -/
def fxSigm (x : Int) : Int :=
  let t := fxExp (if 0 ≤ x then -x else x)
  if 0 ≤ x then fxDiv fxOne (fxOne + t) else fxDiv t (fxOne + t)

/-- The tanh form of GELU (R154): x / (1 + e^(-2y)). -/
def fxGelu (x : Int) : Int :=
  let c := fxSqrt (fxDiv (2 * fxOne) fxPi)
  let y := fxMul c (x + fxMul (fxMul (fxMul x x) x) (fxOne * 44715 / 1000000))
  fxMul x (fxSigm (2 * y))

/-! ## Tables and interpolation (R152) -/

/-- The quotient of an integer by 2^k, rounded to nearest, ties to even. -/
def rneShift (a : Int) (k : Int) : Int :=
  let num := a.natAbs * 2 ^ (-k).toNat
  let m := rndInt num (2 ^ k.toNat) .rne false
  if a < 0 then -(m : Int) else m

/-- One entry (E, c0, c1, c2) of the table of a function with the values g0, gh and g1 (R152). R152 stores E as signed 8
bits, and some entries of the negative half of `vgelu` need an E below −128, of which the spec does not say what is
stored: the model keeps E as computed (log 10). -/
def sfuEntry (g0 gh g1 : Int) : Int × Int × Int × Int :=
  let e : Int := (Nat.log2 (max g0.natAbs g1.natAbs) : Int) - fxP
  (e, rneShift g0 (fxP - 27 + e), rneShift (-3 * g0 + 4 * gh - g1) (fxP - 21 + e),
    rneShift (2 * g0 - 4 * gh + 2 * g1) (fxP - 15 + e))

/-- The interpolated value q of a reduced function at i and u = n / 2^16. -/
def sfuAt (g : Int → Int) (i n : Nat) : Num :=
  let at' (h : Nat) : Int := fxClean (g ((h : Int) * 2 ^ (fxP - 8)))
  let (e, c0, c1, c2) := sfuEntry (at' (2 * i)) (at' (2 * i + 1)) (at' (2 * i + 2))
  (Num.ofInt (c0 * 2 ^ 20 + c1 * n * 2 ^ 10 + c2 * n * n)).scale (e - 47)

/-- q at a 23-bit fraction. -/
def sfuQ (g : Int → Int) (m : Nat) : Num := sfuAt g (m / 2 ^ 16) (m % 2 ^ 16)

/-! ## The functions (R151, R153, R154) -/

inductive SfuFn where
  | exp2 | log2 | rcp | rsqrt | sqrt | sin | cos | tanh | sigm | gelu | erf
  deriving DecidableEq, Repr

/-- A written special value (R151): NFP for an infinity or NaN. -/
def sfuSpecial (b : BitVec 32) (iv : Bool := false) : BitVec 32 × Fl :=
  (b, flagIf (!(f32 b).finite) NFP ||| flagIf iv IV)

def nanIV : BitVec 32 × Fl := sfuSpecial canon32 true
def pInf : BitVec 32 := 0x7F800000
def nInf : BitVec 32 := 0xFF800000
def nZero : BitVec 32 := 0x80000000
def f32One : BitVec 32 := 0x3F800000
def f32Half : BitVec 32 := 0x3F000000

/-- The result at an infinity (R151). -/
def sfuInf (f : SfuFn) (neg : Bool) : BitVec 32 × Fl :=
  match f with
  | .exp2 => sfuSpecial (if neg then 0 else pInf)
  | .log2 | .sqrt => if neg then nanIV else sfuSpecial pInf
  | .rsqrt => if neg then nanIV else sfuSpecial 0
  | .rcp => sfuSpecial (if neg then nZero else 0)
  | .sin | .cos => nanIV
  | .tanh | .erf => sfuSpecial (if neg then 0xBF800000 else f32One)
  | .sigm => sfuSpecial (if neg then 0 else f32One)
  | .gelu => sfuSpecial (if neg then nZero else pInf)

/-- The result at a zero (R151). -/
def sfuZero (f : SfuFn) (neg : Bool) : BitVec 32 × Fl :=
  match f with
  | .exp2 | .cos => sfuSpecial f32One
  | .log2 => sfuSpecial nInf
  | .rcp | .rsqrt => sfuSpecial (if neg then nInf else pInf)
  | .sqrt | .sin | .tanh | .gelu | .erf => sfuSpecial (if neg then nZero else 0)
  | .sigm => sfuSpecial f32Half

/-- 2^x for x = ± num × 2^exp: the exponent is cut where the result has long left FP32. -/
def sfuExp2 (neg : Bool) (num : Nat) (exp : Int) : Num :=
  let a : Int := if neg then -(num : Int) else num
  let cut (n : Int) : Int := max (-1000) (min 1000 n)
  let (n, m) : Int × Nat :=
    if 0 ≤ exp then (cut (a * 2 ^ (min exp 20).toNat), 0)
    else
      let n := a / 2 ^ (-exp).toNat
      (cut n, ((a - n * 2 ^ (-exp).toNat) * 2 ^ 23 / 2 ^ (-exp).toNat).toNat)
  (sfuQ (fun m => fxExp (fxMul m fxLn2)) m).scale n

/-- 1/(2π) rounded to 160 fraction bits. -/
def invTwoPi : Nat := (rneShift (fxDiv fxOne (2 * fxPi)) (fxP - 160)).toNat

/-- S or C of R153 at w, or at 1 − w, given in units of 2^-23. -/
def sfuTrig (cos : Bool) (rev : Bool) (w : Nat) : Num :=
  let g (x : Int) : Int := let y := fxMul x fxPi / 4; if cos then fxCos y else fxSin y
  if rev then (if w = 0 then sfuAt g 127 (2 ^ 16) else sfuQ g (2 ^ 23 - w)) else sfuQ g w

/-- The octant table of R153: whether S or C, at 1 − w, and negated. -/
def octant (cos : Bool) (o : Nat) : Bool × Bool × Bool :=
  if cos then
    match o with
    | 0 => (true, false, false) | 1 => (false, true, false) | 2 => (false, false, true) | 3 => (true, true, true)
    | 4 => (true, false, true) | 5 => (false, true, true) | 6 => (false, false, false) | _ => (true, true, false)
  else
    match o with
    | 0 => (false, false, false) | 1 => (true, true, false) | 2 => (true, false, false) | 3 => (false, true, false)
    | 4 => (false, false, true) | 5 => (true, true, true) | 6 => (true, false, true) | _ => (false, true, true)

def sfuSinCos (cos neg : Bool) (num : Nat) (exp : Int) : Num :=
  let a : Int := num * invTwoPi
  let a := if neg then -a else a
  let e := exp - 160
  -- 8 × frac(x × C), in units of 2^-23, truncated
  let r : Nat := if 0 ≤ e then 0
    else ((a % 2 ^ (-e).toNat) * 2 ^ 26 / 2 ^ (-e).toNat).toNat
  let (c, rev, n) := octant cos (r / 2 ^ 23 % 8)
  let q := sfuTrig c rev (r % 2 ^ 23)
  if n then q.neg else q

/-- An activation function at ±2^k (1 + m), and the binades that have tables. -/
def actFn (f : SfuFn) : (Int → Int) × Int × Int :=
  match f with
  | .tanh => (fxTanh, -12, 3)
  | .sigm => (fxSigm, -12, 4)
  | .gelu => (fxGelu, -24, 3)
  | _ => (fxErf, -12, 2)

/-- An activation outside its tables (R154): below them, or above them. -/
def actOutside (f : SfuFn) (neg small : Bool) (x : Num) : BitVec 32 × Fl :=
  match f with
  | .tanh => if small then round32 x else (if neg then 0xBF800000 else f32One, 0)
  | .erf => if small then round32 (Num.mul x (.fin false (fxDiv (2 * fxOne) (fxSqrt fxPi)).toNat 1 (-768))).1
            else (if neg then 0xBF800000 else f32One, 0)
  | .sigm =>
    if small then round32 (Num.add (.fin false 1 1 (-1)) (x.scale (-2))).1
    else if neg then
      let y := round32 (Num.mul x (.fin false (fxDiv fxOne fxLn2).toNat 1 (-768))).1
      match f32 y.1 with
      | .fin n a _ e => withFl y.2 (round32 (sfuExp2 n a e))
      | _ => withFl y.2 (sfuInf .exp2 true)
    else (f32One, 0)
  | _ => if small then round32 (x.scale (-1)) else if neg then (nZero, 0) else round32 x

/-- A finite nonzero input ± 2^k (1 + m): the value of the function (R152 to R154). -/
def sfuFinite (f : SfuFn) (neg : Bool) (num : Nat) (exp : Int) : BitVec 32 × Fl :=
  let l := Nat.log2 num
  let k : Int := (l : Int) + exp
  let m := num * 2 ^ (23 - l) - 2 ^ 23
  let x : Num := .fin neg num 1 exp
  let h := (k % 2).toNat
  match f with
  | .exp2 => round32 (sfuExp2 neg num exp)
  | .log2 =>
    if neg then nanIV
    else round32 (Num.add (Num.ofInt k) (sfuQ (fun m => fxDiv (fxLn1p m) fxLn2) m)).1
  | .rcp =>
    let q := (sfuQ (fun m => fxDiv fxOne (fxOne + m)) m).scale (-k)
    round32 (if neg then q.neg else q)
  | .rsqrt =>
    if neg then nanIV
    else round32 ((sfuQ (fun m => fxDiv fxOne (fxSqrt (2 ^ h * (fxOne + m)))) m).scale (-((k - h) / 2)))
  | .sqrt =>
    if neg then nanIV else round32 ((sfuQ (fun m => fxSqrt (2 ^ h * (fxOne + m))) m).scale ((k - h) / 2))
  | .sin => if k < -12 then round32 x else round32 (sfuSinCos false neg num exp)
  | .cos => if k < -12 then (f32One, 0) else round32 (sfuSinCos true neg num exp)
  | .tanh | .sigm | .gelu | .erf =>
    let (g, lo, hi) := actFn f
    let odd := f == .tanh || f == .erf
    if k < lo then actOutside f neg true x
    else if hi < k then actOutside f neg false x
    else
      let arg (m : Int) : Int :=
        let v := fxOne + m
        let v := if 0 ≤ k then v * 2 ^ k.toNat else v / 2 ^ (-k).toNat
        if neg && !odd then -v else v
      let q := sfuQ (fun m => g (arg m)) m
      round32 (if neg && odd then q.neg else q)

/-- One element of a special function. -/
def sfu (f : SfuFn) (b : BitVec 32) : BitVec 32 × Fl :=
  withFl (readFl [b]) (match f32 b with
    | .nan => sfuSpecial canon32
    | .inf n => sfuInf f n
    | .fin n num _ exp => if num = 0 then sfuZero f n else sfuFinite f n num exp)

/-- A special-function word (R150): the unit takes one every 4 cycles, from V0 and V1 together. -/
def sfuOp (pd : Pd) (f : SfuFn) (d a : VRegN) (s : State) : Host.Outcome State Fault Refusal :=
  vecWord pd (some 0x03) s fun x m =>
    let c := x.core
    let busy := match c.sfu with
      | some (t, _) => decide (x.now < t + 4)
      | none => false
    if m = 0 then .done (c.sched x 12 (.wV d VReg.zero 0))
    else if busy then .exc structural
    else
      let v := c.rv a
      let r := (tab 1024 id).map fun e => if m.getLsbD e then sfu f (el v e) else (0, 0)
      .done ({ c with sfu := some (x.now, x.w) }.sched x 12 (.wV d (vmap fun e => (r.getD e (0, 0)).1) m)
        (orFl (r.map fun (y : BitVec 32 × Fl) => y.2)))

def execVexp2 (pd : Pd) (d a : VRegN) (s : State) := sfuOp pd .exp2 d a s
def execVlog2 (pd : Pd) (d a : VRegN) (s : State) := sfuOp pd .log2 d a s
def execVrcp (pd : Pd) (d a : VRegN) (s : State) := sfuOp pd .rcp d a s
def execVrsqrt (pd : Pd) (d a : VRegN) (s : State) := sfuOp pd .rsqrt d a s
def execVsqrt (pd : Pd) (d a : VRegN) (s : State) := sfuOp pd .sqrt d a s
def execVsin (pd : Pd) (d a : VRegN) (s : State) := sfuOp pd .sin d a s
def execVcos (pd : Pd) (d a : VRegN) (s : State) := sfuOp pd .cos d a s
def execVtanh (pd : Pd) (d a : VRegN) (s : State) := sfuOp pd .tanh d a s
def execVsigm (pd : Pd) (d a : VRegN) (s : State) := sfuOp pd .sigm d a s
def execVgelu (pd : Pd) (d a : VRegN) (s : State) := sfuOp pd .gelu d a s
def execVerf (pd : Pd) (d a : VRegN) (s : State) := sfuOp pd .erf d a s

end Sys2Proof.Machine
end

