-- ==== Sys2Proof/Machine/Solver.lean ====
section
/-!
DEFINITION. The routing solver (R168, R169). Of the settings of SW that realise a routing the model takes one; no
instruction reads switch bits (log 11).
-/

namespace Sys2Proof.Machine

/-! ## A setting of the switches that realises a permutation -/

/-- One chain of the loop: output `e` takes colour `b`, its partner the other, and the output that shares an input
switch with the partner goes on. -/
def colourChain (h : Nat) (src dst : Array Nat) : Nat → Nat → Array (Option Bool) → Array (Option Bool)
  | 0, _, col => col
  | fuel + 1, e, col =>
    match col.getD e none with
    | some _ => col
    | none =>
      let e' := (e + h) % (2 * h)
      let p := src.getD e' 0
      colourChain h src dst fuel (dst.getD ((p + h) % (2 * h)) 0) ((col.setIfInBounds e (some false)).setIfInBounds e' (some true))

/-- The inverse of a permutation of n lines. -/
def inversePerm (n : Nat) (src : Array Nat) : Array Nat :=
  (tab n id).foldl (fun a e => a.setIfInBounds (src.getD e 0) e) (Array.replicate n 0)

/-- Switch bits of the sub-network of 2^lv lines that begins at `base`; output i leaves from input src[i]. -/
def routeBits : Nat → Nat → Array Nat → List Nat
  | 0, _, _ => []
  | lv + 1, base, src =>
    let k := 9 - lv
    let h := 2 ^ lv
    if lv = 0 then (if src.getD 0 0 = 1 then [9 * 512 + switchOf 9 base] else [])
    else
      let dst := inversePerm (2 * h) src
      let col := (tab h id).foldl (fun c e => colourChain h src dst (2 * h) e c) (Array.replicate (2 * h) none)
      let up (e : Nat) : Bool := (col.getD e none).getD false
      let outs := ((tab h id).filter fun i => up i).map fun i => (18 - k) * 512 + switchOf (18 - k) (base + i)
      let ins := ((tab h id).filter fun i => up (dst.getD i 0)).map fun i => k * 512 + switchOf k (base + i)
      let sub (c : Bool) : Array Nat :=
        ((tab h fun j => src.getD (if up j == c then j else j + h) 0 % h)).toArray
      outs ++ ins ++ routeBits lv base (sub false) ++ routeBits lv (base + h) (sub true)

/-- SW for a routing of the 1,024 elements to distinct ports. -/
def solveSw (src : Array Nat) : BitVec 9728 :=
  BitVec.ofNat 9728 ((routeBits 10 0 src).foldl (fun m i => m + 2 ^ i) 0)

/-! ## The claim loop -/

/-- The state of the loop over the elements. -/
structure Solve where
  /-- claim[b]: group, row and element -/
  claim : Array (Option (Nat × Nat × Nat))
  /-- the port to which an element is routed -/
  port : Array (Option Nat)
  /-- ES of the elements with EV = 1 -/
  echo : Array (Option Nat)
  res : Array Bool
  lost : Nat

/-- One active element of R168. -/
def Solve.step (st : Solve) (e a : Nat) : Solve :=
  let b := a / 4 % 1024
  let g := a / 4096 % 4
  let r := a / 16384
  match st.claim.getD b none with
  | none => { st with claim := st.claim.setIfInBounds b (some (g, r, e)), port := st.port.setIfInBounds e (some b),
                      res := st.res.setIfInBounds e true }
  | some (g', r', e') =>
    if g' = g ∧ r' = r then { st with echo := st.echo.setIfInBounds e (some e'), res := st.res.setIfInBounds e true }
    else { st with lost := st.lost + 1 }

/-- Elements not routed go to the ports without a claim, both ascending. -/
def spares (free : List Nat) : List (Option Nat) → List Nat
  | [] => []
  | some p :: l => p :: spares free l
  | none :: l => free.headD 0 :: spares free.tail l

/-- The pattern, the result predicate and the number of lost elements of a solve. EV and ES are 0 where the loop of
R168 assigns none (DESIGN CHOICE, log 71). -/
def solve (v : VReg) (m : BitVec 1024) : Pattern × BitVec 1024 × Nat :=
  let st := (tab 1024 id).foldl (fun (st : Solve) e => if m.getLsbD e then st.step e (el v e).toNat else st)
    { claim := Array.replicate 1024 none, port := Array.replicate 1024 none, echo := Array.replicate 1024 none,
      res := Array.replicate 1024 false, lost := 0 }
  let free := (tab 1024 id).filter fun b => (st.claim.getD b none).isNone
  let src := (spares free st.port.toList).toArray
  let field (w : Nat) (f : Nat → Nat) : Nat := (tab 1024 fun i => f i * 2 ^ (w * i)).sum
  let cl (b : Nat) : Nat × Nat × Nat := (st.claim.getD b none).getD (0, 0, 0)
  ({ sw := solveSw src, gs := BitVec.ofNat 2048 (field 2 fun b => (cl b).1),
     off := BitVec.ofNat 9216 (field 9 fun b => (cl b).2.1),
     ev := pmap fun e => (st.echo.getD e none).isSome,
     es := BitVec.ofNat 10240 (field 10 fun e => (st.echo.getD e none).getD 0) },
   pmap fun e => st.res.getD e false, st.lost)

/-- The lowest active element whose address fails, and its cause (R168). -/
def solveFault (v : VReg) (m : BitVec 1024) : Option Exc :=
  (tab 1024 id).findSome? fun e =>
    let a := (el v e).toNat
    if !m.getLsbD e then none
    else if 2 ^ 23 ≤ a then some (addressFault a)
    else if a % 4 ≠ 0 then some (misaligned a)
    else none

/-- Pushes of a queue that are still due (R169, R186). -/
def Core.pendingPushes (c : Core) (q : Nat) : Nat :=
  (c.pend.filter fun p => match p.act with
    | .push k _ => k == q
    | _ => false).length

def Core.qfill (c : Core) (q : Nat) : Nat := (vget [] c.q q).length + c.pendingPushes q

/-- SOLVE (R168, R169). -/
def execSolve (pd : Pd) (q : Bool) (d : PReg) (a : VRegN) (cnt : SReg) (slot : BitVec 3) (s : State) :
    Host.Outcome State Fault Refusal :=
  vecWord pd (some 0x05) s fun x m =>
    let c := x.core
    let v := c.rv a
    let busy := match c.solv with
      | some (t, _) => decide (x.now < t + 8)
      | none => false
    match solveFault v m with
    | some e => .exc e
    | none =>
      if busy || (q && 8 ≤ c.qfill 6) then .exc structural
      else
        let (p, r, lost) := solve v m
        let c := ((({ c with solv := some (x.now, x.w) }.sched x 48 (.dyn slot p)).sched x 48 (.wP d r)).sched x 48
          (.wS cnt (BitVec.ofNat 64 lost)))
        let entry := [BitVec.ofNat 32 (popcount r + lost * 2 ^ 16), slot.zeroExtend 32]
        .done (if q then c.sched x 48 (.push 6 entry) else c)

end Sys2Proof.Machine
end

