-- ==== Sys2Proof/Machine/Scan.lean ====
section
/-!
DEFINITION. The scan unit: sort, top-k, bucket counts, running sums, 2:4 compression (R184 to R191).
-/

namespace Sys2Proof.Machine

/-- Key a comes strictly before key b in descending order (R187). -/
def keyAfter (kt : KeyT) (a b : BitVec 32) : Bool :=
  match kt with
  | .f32 => Num.cmp (f32 b) (f32 a) < 0
  | .i32 => b.slt a
  | .u32 => b.ult a

/-- An FP32 NaN key. -/
def keyNan (kt : KeyT) (a : BitVec 32) : Bool := kt == .f32 && (f32 a).isNan

/-- Flags of reading the active keys (R185). -/
def keyFl (kt : KeyT) (v : VReg) (m : BitVec 1024) : Fl :=
  if kt = .f32 then orFl ((tab 1024 id).map fun e => if m.getLsbD e then FF.fp32.readFl (el v e).toNat else 0) else 0

/-- The elements that take part, ascending. -/
def keyElems (kt : KeyT) (v : VReg) (m : BitVec 1024) : List Nat :=
  (tab 1024 id).filter fun e => m.getLsbD e && !keyNan kt (el v e)

/-- A position goes before the first one of a list that it may precede. -/
def insertBefore (r : Nat → Nat → Bool) (a : Nat) : List Nat → List Nat
  | [] => [a]
  | b :: l => if r a b then a :: b :: l else b :: insertBefore r a l

/-- Stable sorting by insertion. -/
def sortBy (r : Nat → Nat → Bool) : List Nat → List Nat
  | [] => []
  | a :: l => insertBefore r a (sortBy r l)

/-- Stable insertion order of the selected elements (R188). -/
def keySort (kt : KeyT) (asc : Bool) (v : VReg) (l : List Nat) : List Nat :=
  sortBy (fun i j => if asc then !keyAfter kt (el v i) (el v j) else !keyAfter kt (el v j) (el v i)) l

/-- Where a scan operation leaves its images: a register pair or single, or a queue (R184, R186). -/
def scanOp (pd : Pd) (lat ivl : Nat) (d : VRegN) (cnt : SReg) (qd qn : Bool) (s : State)
    (f : Core → BitVec 1024 → List VReg × Nat × Fl) : Host.Outcome State Fault Refusal :=
  vecWord pd (some 0x04) s fun x m =>
    let c := x.core
    let (imgs, n, fl) := f c m
    let busy := match c.scan with
      | some (t, i, _) => decide (x.now < t + i)
      | none => false
    if busy || (qd && 4 < c.qfill (bit qn) + imgs.length) then .exc structural
    else
      let c := { c with scan := some (x.now, ivl, x.w) }
      let c := (c.sched x lat (.wS cnt (BitVec.ofNat 64 n))).sched x lat .flagsOnly fl
      let full := BitVec.allOnes 1024
      .done ((imgs.mapIdx fun i v => (i, v)).foldl (fun c p =>
        if qd then c.sched x lat (.push (bit qn) p.2.toList)
        else c.sched x lat (.wV (d + BitVec.ofNat 5 p.1) p.2 full)) c)

/-- The two images and the count of `sort` and `topk` (R188). -/
def sortImages (kt : KeyT) (asc : Bool) (v : VReg) (m : BitVec 1024) (k lim : Nat) : List VReg × Nat × Fl :=
  let l := (keySort kt asc v (keyElems kt v m)).toArray
  let n := min k l.size
  ([vmap fun j => if j < n then el v (l.getD j 0) else if j < lim then canon32 else 0,
    vmap fun j => if j < n then BitVec.ofNat 32 (l.getD j 0) else if j < lim then 0x0000FFFF else 0],
   n, keyFl kt v m)

def execSort (pd : Pd) (kt : KeyT) (asc : Bool) (d a : VRegN) (cnt : SReg) (qd qn : Bool) (s : State) :=
  scanOp pd 96 32 d cnt qd qn s fun c m => sortImages kt asc (c.rv a) m 1024 1024

def execTopk (pd : Pd) (kt : KeyT) (asc : Bool) (d a : VRegN) (cnt : SReg) (qd qn : Bool) (k : BitVec 10)
    (s : State) :=
  scanOp pd 64 16 d cnt qd qn s fun c m => sortImages kt asc (c.rv a) m (k.toNat + 1) (k.toNat + 1)

/-- Bucket counts, offsets and ranks (R189). -/
def cntoffImages (b : Nat) (v : VReg) (m : BitVec 1024) : List VReg × Nat × Fl :=
  let (cnt, ranks, dropped) := (tab 1024 id).foldl (fun (st : Array Nat × List (Option Nat) × Nat) e =>
    let k := (el v e).toNat
    if m.getLsbD e && k < b then
      let r := st.1.getD k 0
      (st.1.setIfInBounds k (r + 1), some r :: st.2.1, st.2.2)
    else (st.1, none :: st.2.1, st.2.2 + bit (m.getLsbD e))) (Array.replicate b 0, [], 0)
  let rank := ranks.reverse.toArray
  let off := (tab b fun i => ((cnt.toList.take i)).sum).toArray
  ([vmap fun i => if i < b then BitVec.ofNat 32 (cnt.getD i 0)
      else if 256 ≤ i && i < 256 + b then BitVec.ofNat 32 (off.getD (i - 256) 0) else 0,
    vmap fun e => match rank.getD e none with
      | some r => BitVec.ofNat 32 (off.getD (el v e).toNat 0 + r)
      | none => 0xFFFFFFFF], dropped, 0)

def execCntoff (pd : Pd) (d a : VRegN) (cnt : SReg) (qd qn : Bool) (k : BitVec 10) (s : State) :=
  scanOp pd 32 8 d cnt qd qn s fun c m => cntoffImages (k.toNat + 1) (c.rv a) m

/-- A running exact sum of FP32 terms, and whether opposite infinities met in it. -/
abbrev RunSum := Option (Num × Fl)

def RunSum.add (r : RunSum) (b : BitVec 32) : RunSum :=
  match r with
  | none => some (f32 b, 0)
  | some (x, fl) => let (y, f) := Num.add x (f32 b); some (y, fl ||| f)

/-- An exact sum rounded once (R59, R190). -/
def RunSum.value : RunSum → BitVec 32 × Fl
  | none => (0, 0)
  | some (x, fl) => if fl ≠ 0 then (canon32, IV ||| NFP) else round32 x

/-- The image, total and flags of `pfx` (R190). -/
def pfxImage (kt : KeyT) (exc : Bool) (v : VReg) (m : BitVec 1024) : List VReg × Nat × Fl :=
  let use (e : Nat) : Bool := m.getLsbD e && !keyNan kt (el v e)
  if kt = .f32 then
    let (out, tot) := (tab 1024 id).foldl (fun (st : List (BitVec 32 × Fl) × RunSum) e =>
      let next := if use e then st.2.add (el v e) else st.2
      ((if exc then st.2 else next).value :: st.1, next)) ([], none)
    let o := out.reverse.toArray
    ([vmap fun e => (o.getD e (0, 0)).1], tot.value.1.toNat,
     orFl (out.map fun r => r.2) ||| tot.value.2 ||| keyFl kt v m)
  else
    let (out, tot) := (tab 1024 id).foldl (fun (st : List (BitVec 32) × BitVec 32) e =>
      let next := if use e then st.2 + el v e else st.2
      ((if exc then st.2 else next) :: st.1, next)) ([], 0)
    let o := out.reverse.toArray
    ([vmap fun e => o.getD e 0], tot.toNat, 0)

def execPfx (pd : Pd) (kt : KeyT) (exc : Bool) (d a : VRegN) (cnt : SReg) (qd qn : Bool) (s : State) :=
  scanOp pd 12 4 d cnt qd qn s fun c m => pfxImage kt exc (c.rv a) m

/-- Position p comes before position q by magnitude, ties lower first (R191). -/
def magBefore (kt : KeyT) (a b : BitVec 32) : Bool :=
  if kt = .f32 then (b &&& 0x7FFFFFFF).ult (a &&& 0x7FFFFFFF) else b.toInt.natAbs < a.toInt.natAbs

/-- The two kept positions of a group, ascending with their values, and whether it was short. -/
def compGroup (kt : KeyT) (act : Nat → Bool) (val : Nat → BitVec 32) : (Nat × BitVec 32) × (Nat × BitVec 32) × Bool :=
  let cand := (tab 4 id).filter act
  let best := (sortBy (fun p q => !magBefore kt (val q) (val p)) cand).take 2
  let keep := best ++ ((tab 4 id).filter fun p => !best.contains p).take (2 - best.length)
  let lo := min (keep.getD 0 0) (keep.getD 1 0)
  let hi := max (keep.getD 0 0) (keep.getD 1 0)
  let v (p : Nat) : BitVec 32 := if best.contains p then val p else 0
  ((lo, v lo), (hi, v hi), decide (best.length < 2))

/-- The image, count and flags of `comp` (R191). -/
def compImage (kt : KeyT) (v : VReg) (m : BitVec 1024) : List VReg × Nat × Fl :=
  let g := (tab 256 fun g => compGroup kt (fun p => m.getLsbD (4 * g + p) && !keyNan kt (el v (4 * g + p)))
    (fun p => el v (4 * g + p)))
  let ga := g.toArray
  let d0 : (Nat × BitVec 32) × (Nat × BitVec 32) × Bool := ((0, 0), (0, 0), false)
  let code (i : Nat) : Nat := let k := ga.getD i d0; k.1.1 + 4 * k.2.1.1
  let short := (g.map fun k => bit k.2.2).sum
  ([vmap fun e =>
      if e < 512 then (let k := ga.getD (e / 2) d0; if e % 2 = 0 then k.1.2 else k.2.1.2)
      else if e < 544 then BitVec.ofNat 32 ((tab 8 fun i => code ((e - 512) * 8 + i) * 16 ^ i).sum)
      else 0], short, flagIf (short != 0) NFC ||| keyFl kt v m)

def execComp (pd : Pd) (kt : KeyT) (d a : VRegN) (cnt : SReg) (qd qn : Bool) (s : State) :=
  scanOp pd 8 2 d cnt qd qn s fun c m => compImage kt (c.rv a) m

end Sys2Proof.Machine
end

