-- ==== Sys2Proof/Machine/Reversible.lean ====
section
/-!
DEFINITION. The remainder stack and the reversible instructions (R84, R170 to R183).
-/

namespace Sys2Proof.Machine

/-! ## Records and tags (R170) -/

def vecRecSize : Nat := 4240

/-- What a tag names. -/
structure Tag where
  cls : Nat
  reg : Nat := 0
  fd : Nat := 0
  pred : Nat := 0
  pneg : Bool := false
  sh : Nat := 0
  fmt : Nat := 0
  mid : Nat := 0
  nesc : Nat := 0
  deriving DecidableEq, Repr

/-- The 128 bits of a tag at offset `t`. -/
def Tag.pack (g : Tag) (t : Nat) : Nat :=
  g.cls + g.reg * 2 ^ 4 + g.fd * 2 ^ 9 + g.pred * 2 ^ 12 + bit g.pneg * 2 ^ 16 + g.sh * 2 ^ 17 + g.fmt * 2 ^ 22 +
    t / 16 * 2 ^ 32 + g.mid * 2 ^ 64 + g.nesc * 2 ^ 96

/-- The tag fields, as (low bit, width), that a pop of this class compares: a marker's CLASS and MID (R183); CLASS,
REG, FD, PRED, PNEG and SH of a vector record (R177); FMT too of a leak and of a drain record (R177, R207). -/
def Tag.compared (g : Tag) : List (Nat × Nat) :=
  if g.cls = 0xF then [(0, 4), (64, 32)] else if g.cls = 5 || g.cls = 6 then [(0, 26)] else [(0, 22)]

/-- A tag found at `t` is the one a pop expects: its reserved bits are 0, SEQ names its place, and the compared fields
agree (R173). -/
def Tag.matchesAt (g : Tag) (t found : Nat) : Bool :=
  (g.compared ++ [(32, 16)]).all (fun f => fld found f.1 f.2 == fld (g.pack t) f.1 f.2) &&
    [(26, 6), (48, 16), (107, 21)].all fun f => fld found f.1 f.2 == 0

/-! ## The checks of a push and a pop (R171 to R173) -/

/-- The segments that hold offsets t to t + n − 1. -/
def segsOf (t n : Nat) : List Nat := tab ((t + n - 1) / 65536 - t / 65536 + 1) fun i => t / 65536 + i

/-- A pending or running spill or fill names a segment (R234). -/
def Core.segBusy (c : Core) (g : Nat) : Bool :=
  c.sweep.cmds.any fun k => match k.op with
    | .xrsp _ s => s == g
    | .xrfl _ s => s == g
    | _ => false

/-- Exception `cause` about stack offset `t`. -/
def stackExc (cause t : Nat) : Exc := { cause := cause, addr := t }

/-- The stack has accepted a push or pop in this cycle already (R171). -/
def Core.stackUsed (c : Core) (now : Nat) : Bool := c.stkUse == some now

/-- The first check of R172 that fails. -/
def Core.pushFault (c : Core) (now size : Nat) : Option Exc :=
  let t := c.top
  if c.stackUsed now then some (stackExc 0x04 t)
  else if 2 ^ 20 < t + size then some (stackExc 0x18 t)
  else if (segsOf t size).any fun g => !c.rseg.getLsbD g then some (stackExc 0x1A t)
  else if (segsOf t size).any fun g => c.segBusy g then some (stackExc 0x04 t)
  else none

/-- A push whose record lies at an offset is still to be written. -/
def Core.pushPending (c : Core) (t : Nat) : Bool :=
  (c.pend.any fun p => match p.act with
    | .stk a _ => a == t
    | _ => false) || c.drains.any fun d => d.mode == 1 && d.stk == t

/-- The first check of R173 that fails, up to the tag's. -/
def Core.popFault (c : Core) (now size : Nat) (g : Tag) : Option Exc :=
  let t := c.top
  let p := t - size
  if c.stackUsed now then some (stackExc 0x04 p)
  else if t < size then some (stackExc 0x19 t)
  else if (segsOf p size).any fun g => !c.rseg.getLsbD g then some (stackExc 0x1A p)
  else if (segsOf p size).any fun g => c.segBusy g then some (stackExc 0x04 p)
  else if c.pushPending p then some (stackExc 0x04 p)
  else if !g.matchesAt p (c.stk.num p 16) then some (stackExc 0x1B p)
  else none

/-- The stack's rows of 4 KiB that a record touches: what a push or a pop is charged for (R292). -/
def stackRows (t size : Nat) : Nat := (t + size - 1) / 4096 - t / 4096 + 1

/-- A push: TOP at issue+1, the record's bytes at issue+lat, one charge per row. -/
def Core.pushRec (c : Core) (x : Iss) (lat size : Nat) (bytes : List Byte) : Core :=
  let t := c.top
  let c := { c with stkUse := some x.now }.charge 0x12 (stackRows t size)
  (c.sched x 1 (.top (t + size))).sched x lat (.stk t bytes)

def Core.popRec (c : Core) (x : Iss) (size : Nat) : Core :=
  let t := c.top
  ({ c with stkUse := some x.now }.charge 0x12 (stackRows (t - size) size)).sched x 1 (.top (t - size))

/-! ## Forward and undo forms (R175 to R177) -/

/-- What the forward function of a pair gives for one element: d, payload, escape, flags. -/
structure Fwd where
  d : BitVec 32
  pay : BitVec 32
  esc : Bool
  fl : Fl := 0
  deriving DecidableEq, Repr

/-- The bytes of a vector record (R170). -/
def vecRecord (t : Nat) (g : Tag) (pay : List (BitVec 32)) (esc : List Bool) : List Byte :=
  leBytes 16 ({ g with nesc := (esc.map bit).sum }.pack t) ++ (pay.flatMap fun w => leBytes 4 w.toNat) ++
    (tab 128 fun i => BitVec.ofNat 8 ((tab 8 fun j => bit (esc.getD (8 * i + j) false) * 2 ^ j).sum))

/-- A forward form (R176). -/
def fwdForm (pd : Pd) (cls lat : Nat) (d a : VRegN) (sh : BitVec 5) (fd : FReg) (fmt : Nat) (s : State)
    (f : Core → Nat → BitVec 32 → Fwd) (bad : Core → Bool := fun _ => false) : Host.Outcome State Fault Refusal :=
  vecWord pd (some 0x02) s fun x m =>
    let c := x.core
    if bad c then .exc illegalOperand
    else match c.pushFault x.now vecRecSize with
    | some e => .exc e
    | none =>
      let v := c.rv a
      let rs := ((tab 1024 id).map fun e => if m.getLsbD e then f c e (el v e) else ⟨0, 0, false, 0⟩)
      let ra := rs.toArray
      let g : Tag := { cls := cls, reg := d.toNat, fd := fd.toNat, pred := pd.reg.toNat, pneg := pd.neg,
                       sh := sh.toNat, fmt := fmt }
      let pay := rs.mapIdx fun e r => if r.esc then el v e else r.pay
      let c := c.pushRec x lat vecRecSize (vecRecord c.top g pay (rs.map (·.esc)))
      .done (c.sched x lat (.wV d (vmap fun e => (ra.getD e ⟨0, 0, false, 0⟩).d) m) (orFl (rs.map (·.fl))))

/-- An undo form (R177): `inv` on y and the payload. -/
def undoForm (pd : Pd) (cls : Nat) (d y : VRegN) (sh : BitVec 5) (fd : FReg) (fmt : Core → Nat) (s : State)
    (inv : Core → Nat → BitVec 32 → BitVec 32 → BitVec 32) (bad : Core → Bool := fun _ => false) :
    Host.Outcome State Fault Refusal :=
  vecWord pd (some 0x02) s fun x m =>
    let c := x.core
    let g : Tag := { cls := cls, reg := y.toNat, fd := fd.toNat, pred := pd.reg.toNat, pneg := pd.neg,
                     sh := sh.toNat, fmt := fmt c }
    if bad c then .exc illegalOperand
    else match c.popFault x.now vecRecSize g with
    | some e => .exc e
    | none =>
      let p := c.top - vecRecSize
      let v := c.rv y
      let esc (e : Nat) : Bool := (c.stk.get (p + 4112 + e / 8)).getLsbD (e % 8)
      let pay (e : Nat) : BitVec 32 := BitVec.ofNat 32 (c.stk.num (p + 16 + 4 * e) 4)
      .done ((c.popRec x vecRecSize).sched x 6
        (.wV d (vmap fun e => if esc e then pay e else inv c e (el v e) (pay e)) m))

/-- The FP32 code of an exact value, or the canonical NaN where there is no finite value (R177). -/
def code32 (x : Num) : BitVec 32 := (round32 x).1

/-- The exact difference of an exact value and an FP32 result, as FP32, and whether it is representable. -/
def residue (x : Num) (d : BitVec 32) : BitVec 32 × Bool :=
  let r := (Num.add x (f32 d).neg).1
  let z := round32 r
  (z.1, Num.cmp (f32 z.1) r == 0 && (f32 z.1).finite)

def isFin (b : BitVec 32) : Bool := (f32 b).finite

/-- RADD (R178). -/
def raddFwd (a b : BitVec 32) : Fwd :=
  let r := fadd32 a b
  let esc := !isFin a || !isFin b || (f32 a).isZero || !isFin r.1
  ⟨r.1, if esc then 0 else (residue (Num.add (f32 a) (f32 b)).1 r.1).1, esc, r.2⟩

/-- An undo's value: rounded, or the canonical NaN where the exact expression has no finite value (R177). -/
def invValue (x : Num) : BitVec 32 := if x.finite then code32 x else canon32

def uaddInv (y b pay : BitVec 32) : BitVec 32 :=
  invValue (Num.add (Num.add (f32 y) (f32 pay)).1 (f32 b).neg).1

/-- RMUL (R179). -/
def rmulFwd (a b : BitVec 32) : Fwd :=
  let r := fmul32 a b
  let (pay, exact) := residue (Num.mul (f32 a) (f32 b)).1 r.1
  let esc := !isFin a || !isFin b || (f32 a).isZero || (f32 b).isZero || !isFin r.1 || !exact
  ⟨r.1, if esc then 0 else pay, esc, r.2⟩

/-- UMUL (R179); infinite b over a finite sum counts as no finite value (DESIGN CHOICE, log 73). -/
def umulInv (y b pay : BitVec 32) : BitVec 32 :=
  let t := (Num.add (f32 y) (f32 pay)).1
  if !t.finite || !isFin b || (f32 b).isZero then canon32 else invValue (Num.div t (f32 b))

/-- RNAR (R180). -/
def rnarFwd (a : BitVec 32) : Fwd :=
  let r := roundTo (f32 a) .bf16 .rne false
  let fl := r.2 ||| FF.fp32.readFl a.toNat
  if (f32 a).isNan then ⟨canon32, 0, true, fl⟩
  else
    let hi := a.toNat / 65536
    let lo := a.toNat % 65536
    let up := bit (decide (0x8000 < lo) || (lo == 0x8000 && hi % 2 == 1))
    ⟨BitVec.ofNat 32 ((hi + up) * 65536), BitVec.ofNat 32 (up * 65536 + lo), false, fl⟩

def unarInv (y pay : BitVec 32) : BitVec 32 :=
  ((((y >>> 16) - ((pay >>> 16) &&& 1)) <<< 16) ||| (pay &&& 0xFFFF))

/-- RSHR (R181). -/
def rshrFwd (n : Nat) (a : BitVec 32) : Fwd := ⟨a.sshiftRight n, a &&& BitVec.ofNat 32 (2 ^ n - 1), false, 0⟩

def ushrInv (n : Nat) (y pay : BitVec 32) : BitVec 32 := (y <<< n) ||| pay

/-- RLEAK (R182); an inexact result that rounds up to the smallest normal raises NX alone (DEDUCED, log 74). -/
def rleakFwd (int : Bool) (n : Nat) (a : BitVec 32) : Fwd :=
  if int then (if a[31] then rshrFwd n a else ⟨a, 0, false, 0⟩)
  else
    let rd := FF.fp32.readFl a.toNat
    let v := f32 a
    if v.isNan then ⟨canon32, 0, true, rd⟩
    else if !a[31] then ⟨a, 0, v.isInf, rd⟩
    else
      let r := round32 (v.scale (-(n : Int)))
      let esc := !v.finite || v.isZero
      ⟨r.1, if esc then 0 else (residue v (code32 ((f32 r.1).scale n))).1, esc, rd ||| (r.2 &&& (UF ||| NX))⟩

def uleakInv (int : Bool) (n : Nat) (y pay : BitVec 32) : BitVec 32 :=
  if int then (if y[31] then ushrInv n y pay else y)
  else if !y[31] then (if isFin y then y else canon32)
  else invValue (Num.add ((f32 y).scale n) (f32 pay)).1

/-- FMT of a descriptor, and whether R182 admits it. -/
def leakFmt (f : BitVec 32) : Nat := (f.extractLsb' 0 4).toNat
def leakBad (f : BitVec 32) : Bool := leakFmt f != 0 && leakFmt f != 8

def execRadd (pd : Pd) (d a b : VRegN) (s : State) :=
  fwdForm pd 1 6 d a 0 0 0 s fun c e x => raddFwd x (el (c.rv b) e)
def execRmul (pd : Pd) (d a b : VRegN) (s : State) :=
  fwdForm pd 2 6 d a 0 0 0 s fun c e x => rmulFwd x (el (c.rv b) e)
def execRnar (pd : Pd) (d a : VRegN) (s : State) := fwdForm pd 3 6 d a 0 0 0 s fun _ _ x => rnarFwd x
def execRshr (pd : Pd) (d a : VRegN) (n : BitVec 5) (s : State) :=
  fwdForm pd 4 4 d a n 0 0 s fun _ _ x => rshrFwd n.toNat x

/-- The FMT field is read in the issue cycle, so the form is split on it. -/
def execRleak (pd : Pd) (d a : VRegN) (n : BitVec 5) (f : FReg) (s : State) : Host.Outcome State Fault Refusal :=
  let fmt := (s.issuer.map fun x => leakFmt (x.core.rf f)).getD 0
  fwdForm pd 5 6 d a n f fmt s (fun _ _ x => rleakFwd (fmt == 8) n.toNat x) fun c => leakBad (c.rf f)

def execUadd (pd : Pd) (d y b : VRegN) (s : State) :=
  undoForm pd 1 d y 0 0 (fun _ => 0) s fun c e v pay => uaddInv v (el (c.rv b) e) pay
def execUmul (pd : Pd) (d y b : VRegN) (s : State) :=
  undoForm pd 2 d y 0 0 (fun _ => 0) s fun c e v pay => umulInv v (el (c.rv b) e) pay
def execUnar (pd : Pd) (d y : VRegN) (s : State) := undoForm pd 3 d y 0 0 (fun _ => 0) s fun _ _ v pay => unarInv v pay
def execUshr (pd : Pd) (d y : VRegN) (n : BitVec 5) (s : State) :=
  undoForm pd 4 d y n 0 (fun _ => 0) s fun _ _ v pay => ushrInv n.toNat v pay
def execUleak (pd : Pd) (d y : VRegN) (n : BitVec 5) (f : FReg) (s : State) :=
  undoForm pd 5 d y n f (fun c => leakFmt (c.rf f)) s
    (fun c _ v pay => uleakInv (leakFmt (c.rf f) == 8) n.toNat v pay) fun c => leakBad (c.rf f)

/-! ## Frame markers (R183) -/

def execRmark (pd : Pd) (a : SReg) (s : State) : Host.Outcome State Fault Refusal :=
  coreWord pd (some 0x02) s fun x =>
    match x.core.pushFault x.now 16 with
    | some e => .exc e
    | none =>
      let g : Tag := { cls := 0xF, mid := (x.core.rs a).toNat % 2 ^ 32 }
      .done (x.core.pushRec x 1 16 (leBytes 16 (g.pack x.core.top)))

def execUcheck (pd : Pd) (a : SReg) (s : State) : Host.Outcome State Fault Refusal :=
  coreWord pd (some 0x02) s fun x =>
    match x.core.popFault x.now 16 { cls := 0xF, mid := (x.core.rs a).toNat % 2 ^ 32 } with
    | some e => .exc e
    | none => .done (x.core.popRec x 16)

end Sys2Proof.Machine
end

