-- ==== Sys2Proof/Machine/Bank.lean ====
section
/-!
DEFINITION. Scheduled accesses to the bank wall and the Switchback array, their conflicts, and the footprint checks
of the matrix slot and the copy engines (R69 to R71, R77, R78, R82, R195).
-/

namespace Sys2Proof.Machine

/-! ## The bank wall (R69, R70) -/

/-- The banks that n bytes at a touch, all within one 4 KiB block. -/
def bankMask (a n : Nat) : BitVec 1024 :=
  let lo := a % 4096 / 4
  let hi := (a % 4096 + n - 1) / 4
  BitVec.ofNat 1024 (2 ^ (hi + 1) - 2 ^ lo)

/-- The access of n bytes at local address a, made by an effect of core `own`. -/
def spanAccess (own : Nat) (p : Pend) (a n : Nat) (write : Bool) : Access :=
  { grp := a / 4096 % 4, row := a / 16384, banks := bankMask a n, write := write, iss := p.iss, word := p.word,
    baddr := p.baddr, rtn := p.rtn, own := own }

/-- Two accesses of one cycle that one bank cannot serve: another row, another direction, or two writes (R20, R70). The
landing of a product's block is no other direction to a read of its row, which sees the new values (R212; log 56). -/
def Access.clash (a b : Access) : Bool :=
  a.grp == b.grp && (a.banks &&& b.banks) != 0 &&
    (a.row != b.row || (a.write && b.write) || (a.write && !a.land) || (b.write && !b.land))

/-- `a` is charged before `b`: it issued later, or in a higher word of the same cycle. -/
def chargedFirst (i w i' w' : Nat) : Bool := decide (i' < i) || (i == i' && decide (w' ≤ w))

/-- Position of an agent's core in its troupe. -/
def posOf : Agent → Nat
  | .core _ r => r
  | .mgmt _ => 0

/-- The agent of the core at a position of the same troupe. -/
def atPos (a : Agent) (r : Nat) : Agent :=
  match a with
  | .core t _ => .core t r
  | m => m

/-- Structural fault of a scheduled access, in the cycle in which it happens: deferred after the issue cycle; in it, the
words below have taken effect (R274). -/
def State.clashFault (s : State) (ag : Agent) (now iss word baddr : Nat) (rtn : Option Nat) : State :=
  s.modCore ag fun c =>
    if c.raised.any fun f => f.cause == 4 && f.word == some word && f.baddr == baddr then c
    else { (c.raise word structural (decide (iss < now)) (if iss < now then 0xFF else BitVec.ofNat 8 (2 ^ word - 2)) baddr rtn)
             with failed := c.failed }

/-- An access to the wall of an agent's core takes place. -/
def State.useBank (s : State) (ag : Agent) (now : Nat) (ac : Access) : State :=
  match s.core? ag with
  | none => s
  | some c =>
    let s := s.setCore ag { c with acc70 := ac :: c.acc70 }
    match c.acc70.find? fun b => ac.clash b with
    | none => s
    | some b =>
      let l := if chargedFirst ac.iss ac.word b.iss b.word then ac else b
      s.clashFault (atPos ag l.own) now l.iss l.word l.baddr l.rtn

/-- The accesses of n bytes at a, block by block of 4 KiB. -/
def rangeAccs (own : Nat) (p : Pend) (a n : Nat) (write : Bool) : List Access :=
  if n = 0 then []
  else (tab ((a + n - 1) / 4096 - a / 4096 + 1) fun i => a / 4096 + i).map fun blk =>
    let lo := max a (blk * 4096)
    spanAccess own p lo (min (a + n) (blk * 4096 + 4096) - lo) write

/-- The banks that an access through a pattern touches (R70, R74, R163): those of the ports whose routed element is
active. A load reads an echo element's spare port too, and its line is discarded (R169); a store writes an echo
element nowhere. `g` is added to each group select (R221). -/
def netAccs (own : Nat) (p : Pend) (pat : Pattern) (dyn : Bool) (base g : Nat) (mask : BitVec 1024) (write : Bool) :
    List Access :=
  let ports := ((tab 1024 id).filter fun e => mask.getLsbD e && !(write && dyn && pat.echo e)).map fun e => portOf pat.sw e
  let keyed := ports.map fun b => (((pat.group b + g) % 4, pat.rowAt dyn base b), b)
  (keyed.foldl (fun (l : List ((Nat × Nat) × Nat)) k =>
    if l.any fun e => e.1 == k.1 then l.map fun e => if e.1 = k.1 then (e.1, e.2 + 2 ^ k.2) else e
    else l ++ [(k.1, 2 ^ k.2)]) []).map fun e =>
      { grp := e.1.1, row := e.1.2, banks := BitVec.ofNat 1024 e.2, write := write, iss := p.iss, word := p.word,
        baddr := p.baddr, rtn := p.rtn, own := own }

/-- The accesses of one effect, which do not conflict with one another. -/
def State.useBanks (s : State) (ag : Agent) (now : Nat) (l : List Access) : State :=
  match s.core? ag with
  | none => s
  | some c =>
    let s' := s.setCore ag { c with acc70 := l ++ c.acc70 }
    match l.findSome? fun a => (c.acc70.find? fun b => a.clash b).map fun b => (a, b) with
    | none => s'
    | some (a, b) =>
      let k := if chargedFirst a.iss a.word b.iss b.word then a else b
      s'.clashFault (atPos ag k.own) now k.iss k.word k.baddr k.rtn

/-- A load through a pattern (R74): the word that reaches element e, for the active elements. -/
def netLoad (m : Mem) (pat : Pattern) (dyn : Bool) (base g : Nat) (mask : BitVec 1024) : List (BitVec 32) :=
  let addr (b : Nat) : Nat := pat.rowAt dyn base b * 16384 + (pat.group b + g) % 4 * 4096 + b * 4
  let line (e : Nat) : BitVec 32 := BitVec.ofNat 32 (m.num (addr (portOf pat.sw e)) 4)
  tab 1024 fun e =>
    if !mask.getLsbD e then 0
    else if dyn && pat.echo e then (let q := pat.echoSrc e; if mask.getLsbD q then line q else 0)
    else line e

/-! ## The Switchback array (R77, R78) -/

def TAccess.clash (a b : TAccess) : Bool :=
  a.write || b.write || a.kind != b.kind || a.a != b.a || a.col != b.col || a.len != b.len

def State.useT (s : State) (ag : Agent) (now : Nat) (ac : TAccess) : State :=
  match s.core? ag with
  | none => s
  | some c =>
    let s := s.setCore ag { c with acc78 := ac :: c.acc78 }
    match c.acc78.find? fun b => ac.clash b with
    | none => s
    | some b =>
      let l := if chargedFirst ac.iss ac.word b.iss b.word then ac else b
      s.clashFault ag now l.iss l.word l.baddr l.rtn

/-- T address of cell (row, column) (R77). -/
def tCell (row col : Nat) : Nat := row * 1024 + col * 4

/-- T address of cell i of line l of an orientation. -/
def tLine (col : Bool) (l i : Nat) : Nat := if col then tCell i l else tCell l i

/-! ## Footprints -/

/-- The buffers of a local range are all held by the core (R82). -/
def Core.holds (c : Core) (a n : Nat) : Bool :=
  (tab ((a + n - 1) / 65536 - a / 65536 + 1) fun i => a / 65536 + i).all fun b =>
    vget (c.loc % 4) c.holder b == c.loc % 4

/-- The rows an access names lie in buffers that the core holds. -/
def Core.holdsRows (c : Core) (l : List Access) : Bool :=
  l.all fun a => vget (c.loc % 4) c.holder (a.row / 4) == c.loc % 4

/-- The handle fault of an access in its bank cycle (R82). -/
def State.handleLate (s : State) (ag : Agent) (p : Pend) (a : Nat) : State :=
  s.modCore ag fun c => { c.raise p.word (handleFault a) true 0xFF p.baddr p.rtn with failed := c.failed }

/-- THE ACCESSES OF ONE EFFECT to the wall of the agent's core, in their bank cycle: a buffer that the core does not hold in
that cycle gives the handle fault at address `a` (R82, R132); else the banks are taken (R70) and `f` is what the effect does
to the core. -/
def State.access (s : State) (ag : Agent) (now : Nat) (p : Pend) (accs : List Access) (a : Nat) (f : Core → Core) : State :=
  match s.core? ag with
  | none => s
  | some c => if c.holdsRows accs then (s.useBanks ag now accs).modCore ag f else s.handleLate ag p a

/-- The checks of R195 on a footprint of n bytes at a, with the block alignment `al`: of several that fail the first, an
order that is the model's (log 47). -/
def Core.footprint (c : Core) (al a n : Nat) : Option Exc :=
  if a % al ≠ 0 then some (misaligned a)
  else if 2 ^ 23 < a + n then some (addressFault a)
  else if !c.holds a n then some (handleFault a)
  else none

/-- The first of several checks that fails. -/
def firstExc : List (Option Exc) → Option Exc
  | [] => none
  | some e :: _ => some e
  | none :: l => firstExc l

/-! ## Packed codes (R161) -/

/-- n codes of w bits, code k at bits [w(k+1)−1 : wk]. -/
def codesOf (w n : Nat) (bytes : List Byte) : List Nat :=
  let v := leNat bytes
  tab n fun k => v / 2 ^ (w * k) % 2 ^ w

/-- The bytes of codes of w bits. -/
def packCodes (w : Nat) (l : List Nat) : List Byte :=
  leBytes (l.length * w / 8) ((l.mapIdx fun k c => c % 2 ^ w * 2 ^ (w * k)).sum)

end Sys2Proof.Machine
end

