-- ==== Sys2Proof/Machine/Matrix.lean ====
section
/-!
DEFINITION. The matrix slot: weight loads, passes, drains, saves, routines and the stack-resident product (R192 to
R213), with the effects that perform in later cycles.
-/

namespace Sys2Proof.Machine

/-! ## Shared pieces -/

def rowsOf (rows : BitVec 7) : Nat := rows.toNat + 1

def Core.accOf (c : Core) (a : AReg) : Acc := vget Acc.zero c.acc a.toNat
def Core.wbOf (c : Core) (w : WReg) : WBuf := vget WBuf.launch c.w w.toNat

/-- Schedule one effect for each of n rows. -/
def Core.schedRows (c : Core) (x : Iss) (n : Nat) (lat : Nat → Nat) (act : Nat → Act) : Core :=
  (tab n id).foldl (fun c i => c.sched x (lat i) (act i)) c

/-- The widened value of a weight or activation code as a term of a pass: FP32 code or INT32, by the format. -/
def termValue (int : Bool) (b : BitVec 32) : Num := if int then Num.ofInt b.toInt else f32 b

/-- Cells of a buffer hold INT32. -/
def WBuf.isInt (w : WBuf) : Bool := w.wf == 6 || w.wf == 9

def WBuf.cell (w : WBuf) (k n : Nat) : Option (BitVec 32) := ((w.cells.getD k []).getD n none)

/-- FMT code of a descriptor, and a set of codes that an instruction admits. -/
def fmtCode (f : BitVec 32) : Nat := (f.extractLsb' 0 4).toNat
def fmtIn (l : List Nat) (f : BitVec 32) : Bool := l.contains (fmtCode f)

/-- Planes and width of a BPI descriptor: k_p, w. -/
def bpiPlanes (f : BitVec 32) : Nat × Nat := ((f.extractLsb' 12 3).toNat + 1, (f.extractLsb' 8 3).toNat + 1)

/-! ## Weight loads (R196 to R198, R202) -/

/-- A load still has a bank or array read due (R202). -/
def Core.loadBusy (c : Core) : Bool := c.wload.isSome

/-- A change of buffer `wb` performing in cycle `due` falls within the window of a pass (R202). -/
def Core.inWindow (c : Core) (wb due : Nat) : Bool :=
  c.passes.any fun p => p.wbi == wb && decide (due ≤ p.lastEntry + 127)

/-- Begin a weight load. -/
def Core.startLoad (c : Core) (x : Iss) (wb mode addr : Nat) (f : BitVec 32) (rows : Nat) (col : Bool)
    (reads first : Nat) : Core :=
  let c := { c with wload := some { iss := x.now, wbi := wb, mode := mode, addr := addr, f := f, rows := rows,
                                    col := col, lastRead := x.now + first + reads - 1, got := [], codes := [],
                                    flags := 0 } }
  c.schedRows x reads (fun k => first + k) fun k => .wRow k

/-- The occupancy checks of a load (R202). -/
def Core.loadFault (c : Core) (x : Iss) (wb : Nat) : Option Exc :=
  if c.loadBusy || c.inWindow wb (x.now + 130) then some structural else none

/-- MLDW (R196). -/
def execMldw (pd : Pd) (wb : WReg) (a : SReg) (f : FReg) (rows : BitVec 7) (s : State) :
    Host.Outcome State Fault Refusal :=
  coreWord pd none s fun x =>
    let c := x.core
    let fd := c.rf f
    let b := (c.rs a).toNat
    let r := rowsOf rows
    let (kp, w) := bpiPlanes fd
    let bytes := if fmtCode fd = 9 then (kp - 1) * 2048 + r * 16 else r * 16 * (fmtOf fd).width
    if !fmtIn [1, 2, 3, 4, 5, 6, 9] fd || (fmtCode fd = 9 && w < kp) then .exc illegalOperand
    else match firstExc [c.footprint 4096 b bytes, c.loadFault x wb.toNat] with
    | some e => .exc e
    | none => .done (c.startLoad x wb.toNat 0 b fd r false r 2)

/-- MLDWT (R197). -/
def execMldwt (pd : Pd) (wb : WReg) (a : SReg) (f : FReg) (rows : BitVec 7) (col : Bool) (s : State) :
    Host.Outcome State Fault Refusal :=
  coreWord pd none s fun x =>
    let c := x.core
    let t := (c.rs a).toNat
    let r := rowsOf rows
    if !fmtIn [1, 2, 3, 4] (c.rf f) then .exc illegalOperand
    else if 2 ^ 18 ≤ t then .exc (addressFault t)
    else if t % 4 ≠ 0 || t / 1024 % 128 ≠ 0 || t / 4 % 256 % 128 ≠ 0 then .exc (misaligned t)
    else match c.loadFault x wb.toNat with
    | some e => .exc e
    | none => .done (c.startLoad x wb.toNat 1 t (c.rf f) r col ((r + 3) / 4) 2)

/-- MCOMP (R198): the code block in bank cycle issue+1, then 128 value rows. -/
def execMcomp (pd : Pd) (wb : WReg) (a : SReg) (f : FReg) (s : State) : Host.Outcome State Fault Refusal :=
  coreWord pd none s fun x =>
    let c := x.core
    let fd := c.rf f
    let b := (c.rs a).toNat
    if !fmtIn [1, 2, 3, 4, 5, 6] fd then .exc illegalOperand
    else match firstExc [c.footprint 4096 b (128 * 16 * (fmtOf fd).width + 4096), c.loadFault x wb.toNat] with
    | some e => .exc e
    | none => .done (c.startLoad x wb.toNat 2 b fd 128 false 129 1)

/-- The buffer that a finished load leaves (R192, R196 to R198), and the flags of its codes. -/
def WLoad.result (l : WLoad) : WBuf × Fl :=
  let wf : BitVec 4 := BitVec.ofNat 4 (fmtCode l.f)
  if l.mode = 2 then
    let codes := (codesOf 4 8192 l.codes).toArray
    let vals := (l.got.map List.toArray).toArray
    let code (g n : Nat) : Nat := codes.getD ((g * 16 + n / 8) * 8 + n % 8) 0
    let cell (k n : Nat) : Option (BitVec 32) :=
      let q := code (k / 4) n
      let lo := q % 4
      let hi := q / 4
      let val (m : Nat) : BitVec 32 := (vals.getD m #[]).getD n 0
      if lo < hi then
        (if k % 4 = lo then some (val (2 * (k / 4))) else if k % 4 = hi then some (val (2 * (k / 4) + 1)) else none)
      else none
    let bad := (tab 64 id).any fun g => (tab 128 id).any fun n => !decide (code g n % 4 < code g n / 4)
    ({ wf := wf, sgn := l.f[4], kp := 8, kl := 256, spa := true, cells := tab 256 fun k => tab 128 (cell k) },
     l.flags ||| flagIf bad IV)
  else
    let rows := if l.mode = 1 && l.col then
        let g := (l.got.map List.toArray).toArray
        tab l.rows fun k => tab 128 fun n => some ((g.getD k #[]).getD n 0)
      else l.got.map fun r => r.map some
    ({ wf := wf, sgn := l.f[4], kp := if fmtCode l.f = 9 then (bpiPlanes l.f).1 else 8, kl := l.rows, spa := false,
       cells := rows.take l.rows }, l.flags)

/-- The values of a row of 128 codes, with the flags of widening them. -/
def widenRow (f : BitVec 32) (codes : List Nat) : List (BitVec 32) × Fl :=
  let r := codes.map fun c => widen f c
  (r.map (·.1), orFl (r.map (·.2)))

/-- A BPI row from its planes: the k-bit values (R46, R47). -/
def bpiRow (f : BitVec 32) (planes : List (List Byte)) : List (BitVec 32) :=
  let ps := (planes.map leNat)
  let k := planes.length
  tab 128 fun n =>
    BitVec.ofInt 32 (intVal k f[4] ((ps.mapIdx fun j p => p / 2 ^ n % 2 * 2 ^ (k - 1 - j)).sum))

/-- Read `k` of a load is done with what it read: the next state of the load, and at the last read its result is
scheduled (R196 to R198). -/
def Core.gotRow (c : Core) (p : Pend) (l : WLoad) (last : Bool) : Core :=
  if last then
    let (w, fl) := l.result
    { c with wload := none,
             pend := c.pend ++ [{ due := l.iss + 130, iss := l.iss, word := p.word, baddr := p.baddr,
                                  act := .wDone l.wbi w, flags := fl, rtn := p.rtn }] }
  else { c with wload := some l }

/-- Read k of the running load (R196 to R198). -/
def State.doWRow (s : State) (ag : Agent) (now : Nat) (p : Pend) (k : Nat) : State :=
  match s.core? ag with
  | none => s
  | some c =>
    match c.wload with
    | none => s
    | some l =>
      let w := (fmtOf l.f).width
      if l.mode = 0 then
        if fmtCode l.f = 9 then
          let kp := (bpiPlanes l.f).1
          let addr (j : Nat) : Nat := l.addr + j * 2048 + k * 16
          let row := bpiRow l.f (tab kp fun j => c.bank.read (addr j) 16)
          s.access ag now p (tab kp fun j => spanAccess (posOf ag) p (addr j) 16 false) (addr 0) fun c =>
            (c.charge 0x09 1).gotRow p { l with got := l.got ++ [row] } (k + 1 == l.rows)
        else
          let a := l.addr + k * 16 * w
          let (row, fl) := widenRow l.f (codesOf w 128 (c.bank.read a (16 * w)))
          s.access ag now p [spanAccess (posOf ag) p a (16 * w) false] a fun c =>
            (c.charge 0x09 1).gotRow p { l with got := l.got ++ [row], flags := l.flags ||| fl } (k + 1 == l.rows)
      else if l.mode = 2 then
        if k = 0 then
          let a := l.addr + 128 * 16 * w
          s.access ag now p [spanAccess (posOf ag) p a 4096 false] a fun c =>
            { c with wload := some { l with codes := c.bank.read a 4096 } }
        else
          let a := l.addr + (k - 1) * 16 * w
          let (row, fl) := widenRow l.f (codesOf w 128 (c.bank.read a (16 * w)))
          s.access ag now p [spanAccess (posOf ag) p a (16 * w) false] a fun c =>
            (c.charge 0x09 1).gotRow p { l with got := l.got ++ [row], flags := l.flags ||| fl } (k == 128)
      else
        -- quad k of the lines: rows of T for OR 0, columns for OR 1; line i of it is weight row 4k+i
        let row0 := l.addr / 1024
        let col0 := l.addr / 4 % 256
        let line (i n : Nat) : Nat :=
          if l.col then tCell (row0 + n) (col0 + 4 * k + i) else tCell (row0 + 4 * k + i) (col0 + n)
        let rows := (tab (min 4 (l.rows - 4 * k)) fun i => (tab 128 fun n =>
          let v : BitVec 32 := BitVec.ofNat 32 (c.tarr.num (line i n) 4)
          let q := narrow l.f v
          -- the narrowed code holds its value: a NaN stays NaN, since R197 names no substitution
          (((round32 ((fmtOf l.f).decode q.1)).1 : BitVec 32), q.2)))
        let fl := orFl (rows.flatMap fun r => r.map (·.2))
        let q := (if l.col then col0 else row0) / 4 + k
        let ac : TAccess := { kind := 2, a := q, col := l.col, len := 0, write := false, iss := p.iss,
                              word := p.word, baddr := p.baddr, rtn := p.rtn }
        (s.useT ag now ac).modCore ag fun c =>
          (c.charge 0x09 rows.length).gotRow p
            { l with got := l.got ++ rows.map (fun r => r.map (·.1)), flags := l.flags ||| fl }
            (decide (l.rows ≤ 4 * k + 4))

/-! ## Passes (R199 to R202) -/

/-- The lanes of passes entering in cycle `now`, and whether one of them names accumulator `acc`. -/
def Core.lanesNow (c : Core) (now : Nat) : Nat := ((c.passes.filter fun p => decide (now ≤ p.lastEntry)).map (·.lanes)).sum
def Core.accEntering (c : Core) (now acc : Nat) : Bool := c.passes.any fun p => decide (now ≤ p.lastEntry) && p.acc == acc

/-- The cycle in which a change of a buffer that is under way performs (R202). -/
def Core.loadDue (c : Core) (wb : Nat) : List Nat :=
  (match c.wload with
    | some l => if l.wbi = wb then [l.iss + 130] else []
    | none => []) ++
  c.pend.filterMap fun p => match p.act with
    | .wDone i _ => if i = wb then some p.due else none
    | .mswap => some p.due
    | _ => none

/-- The occupancy checks of a pass (R201, R202). -/
def Core.passFault (c : Core) (now acc wb lanes last : Nat) : Option Exc :=
  if 2 < c.lanesNow now + lanes || c.accEntering now acc ||
      (c.loadDue wb).any (fun d => decide (now < d) && decide (d ≤ last + 127)) then some structural
  else none

/-- Entry cycle of row i: issue+i, or issue + floor(i × kp / 16) (R199, R200). -/
def entryOf (int : Bool) (kp i : Nat) : Nat := if int then i * kp / 16 else i

/-- The integer activations of a row of `maccp`: the values, and whether one is NaN (R200). A NaN activation marks the
row's elements and adds 0 to their INT32: R200 gives it no number, and the choice is the model's (log 51). -/
def maccpRow (f : BitVec 32) (codes : List Nat) : List (BitVec 32) × Bool :=
  if fmtCode f = 3 then
    (codes.map fun c => match FF.e4m3.decode c with
      | .fin n a _ e => BitVec.ofInt 32 (let v : Int := (a : Int) * 2 ^ (e + 9).toNat; if n then -v else v)
      | _ => 0, codes.any fun c => FF.e4m3.isNanCode c)
  else (codes.map fun c => BitVec.ofInt 32 (intVal 8 f[4] c), false)

/-- Row i of A is read (R199, R200): its values and flags. A NaN of `maccp` is marked by flag NFC. -/
def Pass.readRow (q : Pass) (m : Mem) (i : Nat) : List (BitVec 32) × Fl :=
  let w := (fmtOf q.fda).width
  let k := if q.wb.spa then 256 else 128
  let codes := codesOf w k (m.read (q.addr + i * (k * w / 8)) (k * w / 8))
  if q.int then
    let (v, nan) := maccpRow q.fda codes
    (v, flagIf nan NFC)
  else widenRow q.fda codes

def Pass.rowBytes (q : Pass) : Nat := (if q.wb.spa then 256 else 128) * (fmtOf q.fda).width / 8

/-- One element of a float pass (R59): the exact sum of the accumulator and the terms, rounded once. -/
def passElem (acc : BitVec 34) (terms : List Num) : BitVec 34 × Fl :=
  let a := FF.acc.decode acc.toNat
  let (t, iv) := Num.sum (a :: terms)
  let r := roundTo t .acc .rne false
  (BitVec.ofNat 34 r.1, iv ||| r.2 ||| nfc a)

/-- One element of an integer pass (R61, R200). -/
def passElemInt (acc : BitVec 34) (sum : Int) (nan : Bool) : BitVec 34 × Fl :=
  let marker := nan || acc[32]
  let r := clampInt ((acc.truncate 32 : BitVec 32).toInt + sum) 32 true
  (BitVec.ofNat 34 (r.1 + bit marker * 2 ^ 32), r.2 ||| flagIf nan NFC)

/-- Row i of a pass performs: the new accumulator row and its flags. -/
def Pass.perform (q : Pass) (row : List (BitVec 34)) (i : Nat) (a : List (BitVec 32)) (nan : Bool) :
    List (BitVec 34) × Fl :=
  let wint := q.wb.isInt
  let aint := fmtCode q.fda = 6
  let av := (a.map fun b => termValue aint b).toArray
  let ai := a.toArray
  let cells := (q.wb.cells.map List.toArray).toArray
  let out := row.mapIdx fun n acc =>
    let col := (tab (min q.wb.kl cells.size) fun k => (k, (cells.getD k #[]).getD n none))
    if q.int then
      passElemInt acc ((col.filterMap fun kc => kc.2.map fun w => (ai.getD kc.1 0).toInt * w.toInt).sum) nan
    else
      let terms := col.filterMap fun kc => kc.2.map fun w =>
        let x := av.getD kc.1 (Num.zero false)
        let y := termValue wint w
        let (pr, fl) := Num.mul x y
        match q.scale with
        | none => (pr, fl ||| nfc y)
        | some (sa, sb) =>
          let ea := (sa.getD (i % 64 * 4 + kc.1 / 32 + i / 64 * 256) 0).toNat
          let eb := (sb.getD (n % 64 * 4 + kc.1 / 32 + n / 64 * 256) 0).toNat
          if ea = 255 || eb = 255 then (Num.nan, fl ||| NFC) else (pr.scale ((ea : Int) + eb - 254), fl ||| nfc y)
      let r := passElem acc (terms.map (·.1))
      (r.1, r.2 ||| orFl (terms.map (·.2)))
  (out.map (·.1), orFl (out.map (·.2)))

/-- Begin a pass: row 0 is read in the issue cycle, the others later. -/
def Core.startPass (c : Core) (x : Iss) (q : Pass) (kp : Nat) : Res :=
  let p : Pend := { due := x.now, iss := x.now, word := x.w, baddr := c.pc, act := .aRow q.id 0, flags := 0,
                    rtn := c.rtnOn }
  let ac := spanAccess (posOf x.ag) p q.addr q.rowBytes false
  if c.acc70.any fun b => ac.clash b then .exc structural
  else
    let (a, fl) := q.readRow c.bank 0
    let c := { c with nextId := c.nextId + 1, passes := c.passes ++ [q], acc70 := ac :: c.acc70 }.charge
      (if q.lanes = 2 then 0x07 else 0x08) 1
    let c := c.sched x 131 (.accRow q.id 0 a) fl
    .done (((tab (q.rows - 1) fun i => i + 1).foldl (fun c i => c.sched x (entryOf q.int kp i) (.aRow q.id i)) c))

/-- MACC (R199). -/
def execMacc (pd : Pd) (acc : AReg) (wb : WReg) (a : SReg) (f : FReg) (rows : BitVec 7) (xa xb : XReg) (sc sp : Bool)
    (s : State) : Host.Outcome State Fault Refusal :=
  coreWord pd none s fun x =>
    let c := x.core
    let w := c.wbOf wb
    let fd := c.rf f
    let r := rowsOf rows
    let b := (c.rs a).toNat
    let narrowA := fmtIn [3, 4, 6] fd
    let lanes := if narrowA && (decide (3 ≤ w.wf.toNat)) then 1 else 2
    let last := x.now + r - 1
    let q : Pass := { id := c.nextId, iss := x.now, int := false, acc := acc.toNat, wbi := wb.toNat, wb := w,
                      addr := b, fda := fd, rows := r, lanes := lanes, lastEntry := last,
                      scale := if sc then some (c.rx xa ++ c.rx (xa + 1), c.rx xb ++ c.rx (xb + 1)) else none }
    if sp != w.spa || (sc && w.spa) || !fmtIn [1, 2, 3, 4, 6] fd || (c.accOf acc).int then .exc illegalOperand
    else match firstExc [c.footprint 4096 b (r * q.rowBytes), c.passFault x.now acc.toNat wb.toNat lanes last] with
    | some e => .exc e
    | none => c.startPass x q 8

/-- MACCP (R200): the scale tags are replaced at issue+1. An integer accumulator whose F is neither 0 nor 9 takes
INT8 activations (DESIGN CHOICE, log 77). -/
def execMaccp (pd : Pd) (acc : AReg) (wb : WReg) (a : SReg) (f : FReg) (rows : BitVec 7) (xa xb : XReg) (sc : Bool)
    (s : State) : Host.Outcome State Fault Refusal :=
  coreWord pd none s fun x =>
    let c := x.core
    let w := c.wbOf wb
    let fd := c.rf f
    let r := rowsOf rows
    let b := (c.rs a).toNat
    let k := c.accOf acc
    let last := x.now + (r - 1) * w.kp / 16
    let q : Pass := { id := c.nextId, iss := x.now, int := true, acc := acc.toNat, wbi := wb.toNat, wb := w,
                      addr := b, fda := fd, rows := r, lanes := 2, lastEntry := last, scale := none }
    if !w.isInt || w.spa || !k.int || fmtCode fd ≠ (if k.frac = 9 then 3 else 6) then .exc illegalOperand
    else match firstExc [c.footprint 4096 b (r * 128), c.passFault x.now acc.toNat wb.toNat 2 last] with
    | some e => .exc e
    | none =>
      let c := if sc then c.sched x 1 (.mtags acc.toNat ((c.rx xa).take 128) ((c.rx xb).take 128)) else c
      c.startPass x q w.kp

/-- Row i of A is read in its bank cycle, and its accumulator row is scheduled. -/
def State.doARow (s : State) (ag : Agent) (now : Nat) (p : Pend) (pass i : Nat) : State :=
  match (s.core? ag).bind fun c => (c.passes.find? fun q => q.id == pass).map fun q => (c, q) with
  | none => s
  | some (c, q) =>
    let (a, fl) := q.readRow c.bank i
    let b := q.addr + i * q.rowBytes
    s.access ag now p [spanAccess (posOf ag) p b q.rowBytes false] b fun c =>
      { c.charge (if q.lanes = 2 then 0x07 else 0x08) 1 with
          pend := c.pend ++ [{ p with due := q.iss + 131 + entryOf q.int q.wb.kp i, act := .accRow pass i a,
                                      flags := fl }] }

/-- An accumulator row of a pass performs; the pass is over with its last row. -/
def Core.doAccRow (c : Core) (p : Pend) (pass i : Nat) (a : List (BitVec 32)) : Core :=
  match c.passes.find? fun q => q.id == pass with
  | none => c
  | some q =>
    let k := vget Acc.zero c.acc q.acc
    let row := (vget (gen 128 fun _ => 0) k.el i).toList
    let (row', fl) := q.perform row i a (q.int && p.flags != 0)
    { c with acc := vset c.acc q.acc { k with el := vset k.el i (gen 128 fun n => row'.getD n 0) },
             flags := c.flags ||| fl ||| p.flags,
             passes := if i + 1 = q.rows then c.passes.filter fun z => z.id != pass else c.passes }

/-! ## Housekeeping (R203) -/

/-- Something of an accumulator is still to perform or to be read (R203). -/
def Core.accBusy (c : Core) (acc : Nat) : Bool :=
  (c.passes.any fun p => p.acc == acc) ||
  c.pend.any fun p => match p.act with
    | .dAcc d _ => c.drains.any fun q => q.id == d && q.acc == acc
    | .rRow d _ => c.drains.any fun q => q.id == d && q.acc == acc
    | .rDone d _ _ => c.drains.any fun q => q.id == d && q.acc == acc
    | _ => false

def execMzero (pd : Pd) (acc : AReg) (s : State) : Host.Outcome State Fault Refusal :=
  coreWord pd none s fun x =>
    if x.core.accBusy acc.toNat then .exc structural
    else .done (x.core.sched x 1 (.mzero acc.toNat Acc.zero))

def execMzeroInt (pd : Pd) (acc : AReg) (f : FReg) (s : State) : Host.Outcome State Fault Refusal :=
  coreWord pd none s fun x =>
    let fd := x.core.rf f
    if !fmtIn [3, 6] fd then .exc illegalOperand
    else if x.core.accBusy acc.toNat then .exc structural
    else .done (x.core.sched x 1
      (.mzero acc.toNat { Acc.zero with int := true, frac := if fmtCode fd = 3 then 9 else 0 }))

def execMscale (pd : Pd) (acc : AReg) (a : SReg) (s : State) : Host.Outcome State Fault Refusal :=
  coreWord pd none s fun x =>
    if (x.core.accOf acc).int then .exc illegalOperand
    else if x.core.accBusy acc.toNat then .exc structural
    else .done (x.core.sched x 1 (.mscale acc.toNat (x.core.rs a).toInt))

/-- Every element scaled and rounded to the accumulator format (R203). A scale beyond ±2,000 acts as that one: the
result has left the format either way. -/
def Core.doMscale (c : Core) (acc : Nat) (k : Int) : Core :=
  let a := vget Acc.zero c.acc acc
  let k := max (-2000) (min 2000 k)
  let rows := a.el.toList.map fun row => row.toList.map fun v =>
    let x := FF.acc.decode v.toNat
    let r := roundTo (x.scale k) .acc .rne false
    ((BitVec.ofNat 34 r.1 : BitVec 34), r.2 ||| nfc x)
  let ra := (rows.map fun r => (r.map (·.1)).toArray).toArray
  { c with acc := vset c.acc acc { a with el := gen 128 fun i => gen 128 fun n => (ra.getD i #[]).getD n 0 },
           flags := c.flags ||| orFl (rows.flatMap fun r => r.map (·.2)) }

def execMswap (pd : Pd) (s : State) : Host.Outcome State Fault Refusal :=
  coreWord pd none s fun x =>
    let c := x.core
    let loading := c.wload.isSome || c.pend.any fun p => match p.act with
      | .wDone _ _ => true
      | _ => false
    if loading || c.inWindow 0 x.now || c.inWindow 1 x.now then .exc structural
    else .done (c.sched x 1 .mswap)

/-! ## Drain, save and restore (R204 to R208) -/

/-- The 64-bit image of an accumulator element (R208): in float mode F reads 0 and both scale codes read 127. -/
def Acc.image (a : Acc) (j n : Nat) : BitVec 64 :=
  let v := vget 0 (vget (gen 128 fun _ => 0) a.el j) n
  let rs := if a.int then (vget 0 a.rs j).toNat else 127
  let cs := if a.int then (vget 0 a.cs n).toNat else 127
  let frac := if a.int then a.frac.toNat else 0
  BitVec.ofNat 64 (v.toNat + rs * 2 ^ 40 + cs * 2 ^ 48 + frac * 2 ^ 56 + bit a.int * 2 ^ 63)

/-- The value an image stands for (R204). -/
def imageValue (m : BitVec 64) : Num :=
  let i := m.toNat
  if m[63] then
    let rs := fld i 40 8
    let cs := fld i 48 8
    if m[32] || rs = 255 || cs = 255 then .nan
    else (Num.ofInt (intVal 32 true (i % 2 ^ 32))).scale ((rs : Int) + cs - 254 - fld i 56 5)
  else FF.acc.decode (i % 2 ^ 34)

/-- keep(j, n) of the dropout generator (R205). -/
def dropKeep (seed origin : BitVec 64) (j n : Nat) : Bool :=
  let row0 := fld origin.toNat 0 24
  let col0 := fld origin.toNat 24 24
  let z : BitVec 64 := BitVec.ofNat 64 ((row0 + j) % 2 ^ 32 * 2 ^ 32 + (col0 + n) % 2 ^ 32) ^^^ seed
  let z := (z ^^^ (z >>> 30)) * 0xBF58476D1CE4E5B9
  let z := (z ^^^ (z >>> 27)) * 0x94D049BB133111EB
  let z := z ^^^ (z >>> 31)
  z.toNat / 2 ^ 48 < fld origin.toNat 48 16

/-- The code written for a value (R204): SOF wherever OF is raised by a float destination. -/
def drainCode (f : BitVec 32) (v : Num) : Nat × Fl :=
  match fmtOf f with
  | .flt g =>
    let r := roundTo v g (fmtRnd f) (fmtSat f)
    (r.1, r.2 ||| flagIf (r.2 &&& OF != 0) SOF)
  | g => satInt v g.width f[4] (fmtRnd f)

/-- One element of a drain: code, payload word, escape, flags (R204, R206, R207). -/
def drainElem (mode : Nat) (f : BitVec 32) (img : BitVec 64) (keep : Bool) (res : Option Nat)
    (old : BitVec 32 × Bool) : Nat × BitVec 32 × Bool × Fl :=
  let a := imageValue img
  let fm := fmtOf f
  if mode = 2 then
    let x := fm.decode (res.getD 0)
    let r : Nat := if old.2 then old.1.toNat % 2 ^ fm.width
      else match fm with
        | .flt g =>
          -- no finite value: the canonical NaN (R177)
          let t := (Num.add (Num.add x (f32 old.1)).1 a.neg).1
          if t.finite then (roundTo t g .rne false).1 else g.canon
        | _ => 0
    (r, 0, false, 0)
  else
    let fl := nfc a
    let v := if keep then a else Num.zero false
    match res with
    | none => let r := drainCode f v; (r.1, 0, false, fl ||| r.2)
    | some q =>
      let x := fm.decode q
      let (t, iv) := Num.add v x
      let r := drainCode f t
      let y := fm.decode r.1
      let d := (Num.add t y.neg).1
      let z := round32 d
      let esc := !x.finite || !a.finite || !t.finite || !y.finite || !(Num.cmp (f32 z.1) d == 0 && (f32 z.1).finite)
      (r.1, if esc then BitVec.ofNat 32 q else z.1, esc, fl ||| fm.readFl q ||| iv ||| r.2)

/-- Begin a drain, save or restore. -/
def Core.startDrain (c : Core) (x : Iss) (d : Drain) : Core :=
  let c := { c with nextId := c.nextId + 1, drains := c.drains ++ [d] }
  if d.mode = 4 then c.schedRows x d.rows (fun j => 2 + j) fun j => .rRow d.id j
  else
    let a := vget Acc.zero c.acc d.acc
    let img (j : Nat) : List (BitVec 64) := tab 128 fun n => a.image j n
    -- row 0 of the accumulator is read in the issue cycle
    let first : Core → Core := fun c =>
      if d.mode = 3 then c.sched x 140 (.dOut d.id 0 ((img 0).flatMap fun v => leBytes 8 v.toNat) [] 0 0)
      else c.sched x 138 (.dRes d.id 0 (img 0))
    (tab (d.rows - 1) id).foldl (fun c j => c.sched x (j + 1) (.dAcc d.id (j + 1))) (first c)

/-- The formats of a drain (R204). -/
def drainFmt (f : BitVec 32) : Bool := fmtIn [0, 1, 2, 3, 4, 6, 7, 8] f
def drainFloat (f : BitVec 32) : Bool := fmtIn [0, 1, 2, 3, 4] f

def execMdrain (pd : Pd) (acc : AReg) (a : SReg) (f : FReg) (rows : BitVec 7) (res : Bool) (r : SReg) (drp : Bool)
    (ks ko : KReg) (s : State) : Host.Outcome State Fault Refusal :=
  coreWord pd none s fun x =>
    let c := x.core
    let fd := c.rf f
    let n := rowsOf rows
    let b := (c.rs a).toNat
    let q := (c.rs r).toNat
    let len := n * 16 * (fmtOf fd).width
    if !drainFmt fd then .exc illegalOperand
    else match firstExc [c.footprint 4096 b len, if res then c.footprint 4096 q len else none] with
    | some e => .exc e
    | none => .done (c.startDrain x
      { id := c.nextId, iss := x.now, acc := acc.toNat, mode := 0, addr := b, res := if res then some q else none,
        f := fd, rows := n, drp := if drp then some (c.rk ks, c.rk ko) else none, stk := 0, tag := 0, popped := [] })

/-- The tag of a drain record, without NESC (R206). -/
def drainTag (pd : Pd) (acc : AReg) (f : FReg) (fd : BitVec 32) : Tag :=
  { cls := 6, reg := acc.toNat, fd := f.toNat, pred := pd.reg.toNat, pneg := pd.neg, fmt := fmtCode fd }

/-- MDRAIN.RES.REV (R206). -/
def execMdrainRev (pd : Pd) (acc : AReg) (a : SReg) (f : FReg) (rows : BitVec 7) (r : SReg) (s : State) :
    Host.Outcome State Fault Refusal :=
  coreWord pd none s fun x =>
    let c := x.core
    let fd := c.rf f
    let n := rowsOf rows
    let b := (c.rs a).toNat
    let q := (c.rs r).toNat
    let len := n * 16 * (fmtOf fd).width
    let size := 16 + 528 * n
    if !drainFloat fd || (c.accOf acc).int then .exc illegalOperand
    else match firstExc [c.footprint 4096 b len, c.footprint 4096 q len, c.pushFault x.now size] with
    | some e => .exc e
    | none =>
      let t := c.top
      let d : Drain := { id := c.nextId, iss := x.now, acc := acc.toNat, mode := 1, addr := b, res := some q,
                         f := fd, rows := n, drp := none, stk := t,
                         tag := BitVec.ofNat 128 ((drainTag pd acc f fd).pack t), popped := [] }
      let c := { c with stkUse := some x.now }.charge 0x12 (stackRows t size)
      .done ((c.sched x 1 (.top (t + size))).startDrain x d)

/-- MDRAIN.RES.UNDO (R207). -/
def execMdrainUndo (pd : Pd) (acc : AReg) (a : SReg) (f : FReg) (rows : BitVec 7) (r : SReg) (s : State) :
    Host.Outcome State Fault Refusal :=
  coreWord pd none s fun x =>
    let c := x.core
    let fd := c.rf f
    let n := rowsOf rows
    let b := (c.rs a).toNat
    let q := (c.rs r).toNat
    let len := n * 16 * (fmtOf fd).width
    let size := 16 + 528 * n
    if !drainFloat fd || (c.accOf acc).int then .exc illegalOperand
    else match firstExc [c.footprint 4096 b len, c.footprint 4096 q len,
        c.popFault x.now size (drainTag pd acc f fd)] with
    | some e => .exc e
    | none =>
      let t := c.top - size
      let d : Drain := { id := c.nextId, iss := x.now, acc := acc.toNat, mode := 2, addr := b, res := some q,
                         f := fd, rows := n, drp := none, stk := t, tag := 0, popped := c.stk.read t size }
      .done ((c.popRec x size).startDrain x d)

/-- MSAVE, MRSTR (R208). -/
def saveOp (mode : Nat) (pd : Pd) (acc : AReg) (a : SReg) (rows : BitVec 7) (s : State) :
    Host.Outcome State Fault Refusal :=
  coreWord pd none s fun x =>
    let c := x.core
    let b := (c.rs a).toNat
    let n := rowsOf rows
    match c.footprint 4096 b (n * 1024) with
    | some e => .exc e
    | none => .done (c.startDrain x
      { id := c.nextId, iss := x.now, acc := acc.toNat, mode := mode, addr := b, res := none, f := 0, rows := n,
        drp := none, stk := 0, tag := 0, popped := [] })

def execMsave (pd : Pd) (acc : AReg) (a : SReg) (rows : BitVec 7) (s : State) := saveOp 3 pd acc a rows s
def execMrstr (pd : Pd) (acc : AReg) (a : SReg) (rows : BitVec 7) (s : State) := saveOp 4 pd acc a rows s

/-- Bytes of one bank row of a drain, save or restore. -/
def Drain.rowBytes (d : Drain) : Nat := if 3 ≤ d.mode then 1024 else 16 * (fmtOf d.f).width

/-- Accumulator row j is read (R204, R208). -/
def Core.doDAcc (c : Core) (p : Pend) (id j : Nat) : Core :=
  match c.drains.find? fun d => d.id == id with
  | none => c
  | some d =>
    let a := vget Acc.zero c.acc d.acc
    let img := tab 128 fun n => a.image j n
    let nx : Pend := if d.mode = 3 then
        { p with due := d.iss + 140 + j, act := .dOut id j (img.flatMap fun v => leBytes 8 v.toNat) [] 0 0 }
      else { p with due := d.iss + 138 + j, act := .dRes id j img }
    { c with pend := c.pend ++ [nx] }

/-- The residual row is read and the output row formed (R204 to R207). -/
def State.doDRes (s : State) (ag : Agent) (now : Nat) (p : Pend) (id j : Nat) (img : List (BitVec 64)) : State :=
  match (s.core? ag).bind fun c => (c.drains.find? fun d => d.id == id).map fun d => (c, d) with
  | none => s
  | some (c, d) =>
    let w := (fmtOf d.f).width
    let accs := d.res.toList.map fun q => spanAccess (posOf ag) p (q + j * 16 * w) (16 * w) false
    let res : List (Option Nat) := match d.res with
      | none => tab 128 fun _ => none
      | some q => (codesOf w 128 (c.bank.read (q + j * 16 * w) (16 * w))).map some
    let old := d.popped.toArray
    let oldAt (n : Nat) : BitVec 32 × Bool :=
      (BitVec.ofNat 32 (leNat (tab 4 fun i => old.getD (16 + 512 * j + 4 * n + i) 0)),
       (old.getD (16 + 512 * d.rows + 16 * j + n / 8) 0).getLsbD (n % 8))
    let out := (img.zip res).mapIdx fun n q =>
      let keep := match d.drp with
        | some (ks, ko) => dropKeep ks ko j n
        | none => true
      drainElem d.mode d.f q.1 keep q.2 (oldAt n)
    let stkB := if d.mode = 1 then out.flatMap fun o => leBytes 4 o.2.1.toNat else []
    let esc : BitVec 128 := BitVec.ofNat 128 ((out.mapIdx fun n o => bit o.2.2.1 * 2 ^ n).sum)
    let nx : Pend := { p with due := d.iss + 140 + j,
                              act := .dOut id j (packCodes w (out.map (·.1))) stkB esc (orFl (out.map (·.2.2.2))) }
    s.access ag now p accs (d.res.getD 0 + j * 16 * w) fun c => { c with pend := c.pend ++ [nx] }

/-- NESC of a tag raised by a row's escapes, saturating at 2,047 (R206). -/
def tagEsc (tag : BitVec 128) (n : Nat) : BitVec 128 :=
  BitVec.ofNat 128 (tag.toNat % 2 ^ 96 + min 2047 (tag.toNat / 2 ^ 96 % 2048 + n) * 2 ^ 96)

/-- Output row j is written, with the record's payload row, its escape bits and the tag so far. -/
def State.doDOut (s : State) (ag : Agent) (now : Nat) (p : Pend) (id j : Nat) (bytes stkB : List Byte) (esc : BitVec 128)
    (fl : Fl) : State :=
  match (s.core? ag).bind fun c => c.drains.find? fun d => d.id == id with
  | none => s
  | some d =>
    let a := d.addr + j * d.rowBytes
    s.access ag now p [spanAccess (posOf ag) p a d.rowBytes true] a fun c =>
      let tag := tagEsc d.tag (popcount (esc.zeroExtend 1024))
      let stk := if d.mode = 1 then
          ((c.stk.write (d.stk + 16 + 512 * j) stkB).write (d.stk + 16 + 512 * d.rows + 16 * j)
            (leBytes 16 esc.toNat)).write d.stk (leBytes 16 tag.toNat)
        else c.stk
      { c.charge 0x0A 1 with
          bank := c.bank.write a bytes, stk := stk, flags := c.flags ||| fl,
          drains := if j + 1 = d.rows then c.drains.filter fun z => z.id != id
            else c.drains.map fun z => if z.id = id then { z with tag := tag } else z }

/-- A row of images is read for a restore. -/
def State.doRRow (s : State) (ag : Agent) (now : Nat) (p : Pend) (id j : Nat) : State :=
  match (s.core? ag).bind fun c => (c.drains.find? fun d => d.id == id).map fun d => (c, d) with
  | none => s
  | some (c, d) =>
    let a := d.addr + j * 1024
    let img := tab 128 fun n => BitVec.ofNat 64 (c.bank.num (a + 8 * n) 8)
    s.access ag now p [spanAccess (posOf ag) p a 1024 false] a fun c =>
      { c with pend := c.pend ++ [{ p with due := d.iss + 4 + j, act := .rDone id j img }] }

/-- Row j of a restore performs: mode, F and CS from row 0 (R208). VAL is kept bit for bit, so an image of a NaN with
other sign or fraction bits reads back as it was written (log 50). -/
def Core.doRDone (c : Core) (id j : Nat) (img : List (BitVec 64)) : Core :=
  match c.drains.find? fun d => d.id == id with
  | none => c
  | some d =>
    let a := vget Acc.zero c.acc d.acc
    let i0 := (img.headD 0).toNat
    let a := if j = 0 then
        { a with int := (img.headD 0)[63], frac := BitVec.ofNat 5 (fld i0 56 5),
                 cs := gen 128 fun n => BitVec.ofNat 8 (fld (img.getD n 0).toNat 48 8) }
      else a
    let a := { a with rs := vset a.rs j (BitVec.ofNat 8 (fld i0 40 8)),
                      el := vset a.el j (gen 128 fun n => (img.getD n 0).truncate 34) }
    let c := c.charge 0x0A 1
    { c with acc := vset c.acc d.acc a,
             drains := if j + 1 = d.rows then c.drains.filter fun z => z.id != id else c.drains }

/-! ## Routines and parameters (R209 to R211) -/

/-- MCALL (R210). -/
def execMcall (pd : Pd) (entry : BitVec 12) (k : KReg) (a : SReg) (s : State) : Host.Outcome State Fault Refusal :=
  coreWord pd none s fun x =>
    let c := x.core
    if c.rtnOn.isSome then .exc illegalOperand
    else
      let c := { c with rtn := some entry.toNat }
      .done (if a = 0 then c else c.sched x 1 (.wK k (x.core.rs a)))

def execMset (pd : Pd) (k : KReg) (a : SReg) (s : State) : Host.Outcome State Fault Refusal :=
  coreWord pd none s fun x => .done (x.core.sched x 1 (.wK k (x.core.rs a)))

/-- MEND (R210): ends the routine. -/
def execMend (pd : Pd) (s : State) : Host.Outcome State Fault Refusal :=
  coreWord pd none s fun x => .done { x.core with rtn := none }

/-- A store word after its substitution (R209, R210). -/
def substWord (w : BitVec 64) (k : Nat → BitVec 64) : BitVec 64 :=
  let n := w.toNat
  let base := n / 2 ^ 18 * 2 ^ 18
  if w[17] then
    let lo := fld n 8 6
    let wd := fld n 2 6 + 1
    let old := fld base lo wd
    BitVec.ofNat 64 (base - old * 2 ^ lo + (k (fld n 14 3)).toNat % 2 ^ wd * 2 ^ lo)
  else BitVec.ofNat 64 base

/-! ## The stack-resident product (R212) -/

/-- Parameters of a `mgemv`, or the fault of a parameter outside its limits. -/
structure GemvPar where
  rem : Bool
  land : Nat
  nb : Nat
  k : Nat
  ctr : BitVec 32
  deriving DecidableEq, Repr

def gemvPar (k0 k1 : BitVec 64) : Option GemvPar :=
  let n := k0.toNat
  let rem := k0[63]
  let land := fld n 32 25
  let nb := fld n 16 13
  let k := fld n 0 13
  if fld n 57 6 ≠ 0 || fld n 29 3 ≠ 0 || fld n 13 3 ≠ 0 || (!rem && 2 ^ 23 ≤ land) || nb = 0 || 256 < nb ||
      k < 32 || 4096 < k || k % 32 ≠ 0 || k1.toNat / 2 ^ 32 ≠ 0 || (!rem && k1 ≠ 0) then none
  else some { rem := rem, land := land, nb := nb, k := k, ctr := k1.truncate 32 }

/-- Bytes of B of a product. -/
def Gemv.size (g : Gemv) : Nat := g.nb * 128 * (g.k * (fmtOf g.f).width / 8)

/-- What some blocks of a product cost (R292): with the first the rows of B that the stack read, and for each its flits to the
core's die; nothing where a page of B fails. A remote product has no cycle of its own at the issuer and pays in its issue cycle
(R291; log 23). -/
def State.gemvCharges (s : State) (a : Agent) (g : Gemv) (blocks : List Nat) : List (Nat × Nat × Nat) :=
  let die := ((s.core? a).map (·.die)).getD 0
  let home (va : Nat) : Option Nat := match s.translate (s.ctx a) va .rd (some 0) .tables with
    | .ok (pa, _) => if isFar pa then none else homeOf pa
    | .error _ => none
  match home g.bva with
  | none => []
  | some d =>
    if (pageRuns g.bva g.size).any fun r => home r.1 != some d then []
    else (if blocks.contains 0 then [(d, 0x0B, (g.size + 4095) / 4096)] else []) ++ blocks.flatMap fun _ => crossings d die 9

/-- MGEMV (R212): a parameter outside its limits raises illegal-operand, an unaligned landing misaligned; then come the
footprint checks of R195, of a remote landing against its peer's wall. -/
def execMgemv (pd : Pd) (k : KReg) (a b : SReg) (f : FReg) (s : State) : Host.Outcome State Fault Refusal :=
  coreWord pd none s fun x =>
    let c := x.core
    let fd := c.rf f
    let ba := (c.rs a).toNat
    let ga := (c.rs b).toNat
    match gemvPar (c.rk k) (c.rk (k + 1)) with
    | none => .exc illegalOperand
    | some p =>
      let abytes := p.k * (fmtOf fd).width / 8
      if !fmtIn [1, 3, 4] fd || ga % 64 ≠ 0 || ba % 4096 ≠ 0 then .exc illegalOperand
      else if p.rem && !s.handleOk x.ag (p.ctr.zeroExtend 64) then .exc counterHandle
      else if p.land % 512 ≠ 0 then .exc (misaligned p.land)
      else if 2 ^ 57 ≤ ga then .exc (addressFault ga)
      else match firstExc [c.footprint 4096 ba abytes,
          if p.rem then (if 2 ^ 23 < p.land % 2 ^ 23 + p.nb * 512 then some (addressFault p.land) else none)
          else c.footprint 512 p.land (p.nb * 512)] with
      | some e => .exc e
      | none =>
        if 4 ≤ c.gemv.length then .exc structural
        else
          let g : Gemv := { id := c.nextId, iss := x.now, baddr := c.pc, rem := p.rem, land := p.land, nb := p.nb,
                            k := p.k, ctr := p.ctr, a := ba, bva := ga, f := fd, abytes := [], arrived := 0,
                            rtn := c.rtnOn,
                            snap := c.snap, own := c.egress.filter fun e => e.inPath && e.pub, st := .walking,
                            next := 0 }
          let size := p.nb * 128 * abytes
          let c := s.payG x.ag (s.ctx x.ag) .any ((pageRuns ga size).map fun r => (r.1, 0))
            { c with nextId := c.nextId + 1, gemv := c.gemv ++ [g] }
          let c := if p.rem then c.addCharges (s.gemvCharges x.ag g (List.range p.nb)) else c
          .done (c.schedRows x ((abytes + 4095) / 4096) (fun i => 2 + i) fun i => .gemvA g.id i)

/-- Block i of A is read in its bank cycle. -/
def State.doGemvA (s : State) (ag : Agent) (now : Nat) (p : Pend) (id i : Nat) : State :=
  match (s.core? ag).bind fun c => c.gemv.find? fun g => g.id == id with
  | none => s
  | some g =>
    let total := g.k * (fmtOf g.f).width / 8
    let n := min 4096 (total - 4096 * i)
    s.access ag now p [spanAccess (posOf ag) p (g.a + 4096 * i) n false] (g.a + 4096 * i) fun c =>
      { c with gemv := c.gemv.map fun z => if z.id = id then
          { z with abytes := z.abytes ++ c.bank.read (g.a + 4096 * i) n } else z }

/-- Block q of a product: 128 outputs, each rounded once (R212). -/
def Gemv.block (g : Gemv) (data : List Byte) (q : Nat) : List Byte :=
  let w := (fmtOf g.f).width
  let f := match fmtOf g.f with
    | .flt h => h
    | _ => .fp32
  let a := (codesOf w g.k g.abytes).map fun c => f.decode c
  (tab 128 fun i =>
    let row := (data.drop ((128 * q + i) * (g.k * w / 8))).take (g.k * w / 8)
    let t := Num.sum ((a.zip (codesOf w g.k row)).map fun p => (Num.mul p.1 (f.decode p.2)).1)
    leBytes 4 (round32 t.1).1.toNat).flatten

/-- Flags of a block (R44, R59, R62). -/
def Gemv.blockFl (g : Gemv) (data : List Byte) (q : Nat) : Fl :=
  let w := (fmtOf g.f).width
  let f := match fmtOf g.f with
    | .flt h => h
    | _ => .fp32
  let a := codesOf w g.k g.abytes
  orFl (tab 128 fun i =>
    let row := (data.drop ((128 * q + i) * (g.k * w / 8))).take (g.k * w / 8)
    let ps := (a.zip (codesOf w g.k row)).map fun p =>
      let (pr, fl) := Num.mul (f.decode p.1) (f.decode p.2)
      (pr, fl ||| f.readFl p.1 ||| f.readFl p.2)
    let t := Num.sum (ps.map (·.1))
    orFl (ps.map (·.2)) ||| t.2 ||| (round32 t.1).2)

/-- The cycle in which the next local block lands. -/
def Gemv.due (g : Gemv) : Nat := g.iss + 2050 + 2 * g.next

/-- The next block of a product leaves it; the product is over with its last. -/
def Core.gemvNext (c : Core) (g : Gemv) : Core :=
  { c with gemv := if g.next + 1 = g.nb then c.gemv.filter fun z => z.id != g.id
      else c.gemv.map fun z => if z.id = g.id then { z with next := z.next + 1 } else z }

/-- The core at index i of the issuing core's ring, of whatever troupe (R83): a landing is not checked against holders
(R82). -/
def State.ringWall (s : State) (a : Agent) (c : Core) (i : Nat) : Option Agent :=
  match s.ringCore a c i with
  | some (b, _) => some b
  | none => match a with
    | .core _ _ => (tab s.troupes.length id).findSome? fun t =>
        ((s.troupe? t).bind fun tr => tr.ringCore c.die c.loc i).map fun r => Agent.core t r
    | .mgmt _ => none

/-- A block of a remote product as arrivals of 64 bytes (R212, R228): its add follows the last of them. In a ring core that
no task holds nothing can read the bytes, and the add alone remains (log 24). -/
def State.landRemote (s : State) (ag : Agent) (c : Core) (g : Gemv) (bytes : List Byte) : State :=
  match s.ringWall ag c (g.land / 2 ^ 23) with
  | some dst =>
    let gs := tab 8 fun i : Nat =>
      ({ id := s.nextId + i, dst := dst, addr := g.land % 2 ^ 23 + 512 * g.next + 64 * i,
         data := (bytes.drop (64 * i)).take 64, ctr := some g.ctr, amt := 512, src := .slot ag 5 g.baddr,
         since := none, blk := some s.nextId } : Granule)
    { s with nextId := s.nextId + 8, flight := s.flight ++ gs }
  | none => s.postCtr g.ctr (.add 512) (.slot ag 5 g.baddr)

/-- All of A has been read (R212). -/
def Gemv.readA (g : Gemv) : Bool := decide (g.k * (fmtOf g.f).width / 8 ≤ g.abytes.length)

/-- MGEMV_BLOCK_LANDING (R212): a local block performs in its due cycle, before the reads of that cycle; a remote one, once A
has been read, becomes arrivals. R57 and R212 do
not say where and when the flags of a remote block are set: the model sets them on the issuing core as the block leaves
(log 52). -/
def execMgemvBlockLanding (t r id : Nat) (s : State) : Host.Outcome State Fault Refusal :=
  match (s.core? (.core t r)).bind fun c => (c.gemv.find? fun g => g.id == id).map fun g => (c, g) with
  | none => notEnabled "MGEMV_BLOCK_LANDING"
  | some (c, g) =>
    match g.st with
    | .ready data | .arrived data =>
      let now := s.now (.core t r)
      let fl := g.blockFl data g.next
      let bytes := g.block data g.next
      let note (c : Core) : Core :=
        { c with flags := c.flags ||| fl }.addCharges (if g.rem then [] else s.gemvCharges (.core t r) g [g.next])
      if g.arrived ≤ g.next || !g.readA then notEnabled "MGEMV_BLOCK_LANDING"
      else if g.rem then
        .next ((s.landRemote (.core t r) c g bytes).modCore (.core t r) fun c => (note c).gemvNext g)
      else if g.due ≠ now then notEnabled "MGEMV_BLOCK_LANDING"
      else
        let p : Pend := { due := now, iss := g.iss, word := 5, baddr := g.baddr, act := .gemvA id 0, flags := 0,
                          rtn := g.rtn }
        let a := g.land + 512 * g.next
        .next ((s.useBank (.core t r) now { spanAccess r p a 512 true with land := true }).modCore (.core t r) fun c =>
          { (note c).gemvNext g with bank := c.bank.write a bytes })
    | _ => notEnabled "MGEMV_BLOCK_LANDING"

end Sys2Proof.Machine
end

