-- ==== Sys2Proof/Machine/Net.lean ====
section
/-!
DEFINITION. Messages that leave the package (R349 to R353, R365 to R367), launch-queue rings as `xenq` reaches them
(R310, R311, R237).
-/

namespace Sys2Proof.Machine

/-! ## Routes -/

/-- A port's active bank leads to a package (R365). -/
def Port.leads (p : Port) (pkg : BitVec 16) : Bool :=
  p.active.any fun e => e.1 == pkg.toNat % 4096 && e.2[63] && (e.2.truncate 16 : BitVec 16) == pkg

/-- The ports of a partition (all, for a message passed on) on a plane that lead to a package, ascending. -/
def State.leading (s : State) (part : Option Nat) (plane : BitVec 2) (pkg : BitVec 16) : List Nat :=
  (tab 16 id).filter fun q => q % 4 == plane.toNat && (s.port q).leads pkg &&
    (match part with
      | some p => (s.part p).ports.getLsbD q
      | none => true)

/-- ST of an optical port that carries traffic. -/
def Port.isActive (p : Port) : Bool := p.st == 3

/-- An acknowledgement (R351). -/
def OutMsg.isAck (o : OutMsg) : Bool := o.msg.typ == 8

/-- The port a message may leave through now (R352, R357, R362, R365, R367): none while a quiesce is in progress,
while no leading port is ACTIVE, while an older message of its stream waits, or while messages of its destination
that left through another port are unacknowledged; the buffer of R351 holds 16,384. An acknowledgement, which the drain of
a quiesce waits for, only needs a port (R357; log 22). -/
def State.wayOut (s : State) (o : OutMsg) : Option Nat :=
  if (s.qs.isSome && !o.isAck) || !s.live.getLsbD o.plane.toNat then none
  else
    let stream (p : OutMsg) : Bool := p.msg.dpkg == o.msg.dpkg && p.plane == o.plane
    let sent := s.out.filter fun p => p.injected && stream p
    let older := s.out.any fun p => !p.injected && stream p && p.id < o.id && p.msg.sdie == o.msg.sdie &&
      p.msg.agt == o.msg.agt
    match (s.leading o.part o.plane o.msg.dpkg).find? fun q => (s.port q).isActive with
    | none => none
    | some q =>
      if o.isAck then some q
      else if older || (sent.any fun p => p.part == o.part && p.ports.any (· != q)) ||
          16384 ≤ (s.out.filter fun p => p.injected && p.plane == o.plane && p.msg.sdie == o.msg.sdie).length then none
      else some q

/-- The next SEQ of a stream, taken (R349). -/
def State.takeSeq (s : State) (m : Msg) : State × BitVec 16 :=
  let key := (m.sdie, m.agt, m.dpkg, m.ddie, m.pln)
  match s.nextSeq.find? fun e => e.1 == key with
  | some (_, n) => ({ s with nextSeq := s.nextSeq.map fun e => if e.1 = key then (e.1, n + 1) else e }, n)
  | none => ({ s with nextSeq := s.nextSeq ++ [(key, 1)] }, 0)

/-- A message of the package itself, ready to leave on a plane. -/
def State.enqueue (s : State) (m : Msg) (plane : BitVec 2) (part : Option Nat) : State :=
  let o : OutMsg := { id := s.nextId, msg := m, plane := plane, part := part, injected := false, ports := [], first := 0,
                      last := 0, src := .system }
  { s.fresh with out := s.out ++ [o] }

/-- A message that the package cannot pass on is refused in its destination's name (R365); an acknowledgement or a refusal
is lost. -/
def State.noRoute (s : State) (m : Msg) : State :=
  if m.typ = 8 || m.typ = 9 then s
  else
    let n := m.agt.toNat + m.seq.toNat * 2 ^ 16 + m.pln.toNat * 2 ^ 32 + 0x0B * 2 ^ 40
    let r : Msg := { inl := BitVec.ofNat 352 n, rsv := 0, pln := m.pln, rpl := false, agt := 0xFFFD, addr := m.addr, seq := 0,
                     dpkg := m.spkg, spkg := m.dpkg, sdie := m.ddie, ddie := m.sdie, typ := 9, ndat := 0, data := [] }
    let (s, n) := s.takeSeq r
    s.enqueue { r with seq := n } m.pln none

/-- The fault that the refusal of a message raises (R218, R230, R405): its address and progress index, or its handle. -/
def OutMsg.refusal (o : OutMsg) (cause : Nat) : Exc :=
  if cause = 0x0B then { cause := 0x0B, addr := o.msg.addr.toNat, aux0 := BitVec.ofNat 64 o.rep.2.2 }
  else { cause := cause, hnd := bv o.msg.inl.toNat 64 32 }

/-- A waiting message for which no port holds an entry any more, after a rehash or a swap, is refused (R365): reported to its
source, or to the package that it came from. What the package itself sends keeps waiting. -/
def State.refuseWaiting (s : State) (o : OutMsg) : State :=
  let gone : State := { s with out := s.out.filter fun p => p.id != o.id }
  if o.msg.spkg ≠ Config.pkgId then gone.noRoute o.msg
  else match o.src.agent with
  | none => if o.msg.typ = 0 || o.msg.typ = 1 || o.msg.typ = 5 then gone else s
  | some a =>
    if s.away a then s
    else (gone.appliedFor o.src).modCore a fun c => c.raiseLate o.rep.1 o.rep.2.1 (o.refusal 0x0B)

/-- Inject a waiting message, if there is a way (R351). A message passed on keeps its SEQ, and its own source keeps it in a
replay buffer (R365); an acknowledgement carries the SEQ that it acknowledges and is not kept (R351). -/
def State.tryInject (s : State) (o : OutMsg) : State :=
  if o.injected then s
  else match s.wayOut o with
  | none =>
    if s.qs.isNone && s.live.getLsbD o.plane.toNat && (s.leading o.part o.plane o.msg.dpkg).isEmpty then s.refuseWaiting o else s
  | some q =>
    if o.msg.spkg ≠ Config.pkgId || o.isAck then { s with out := s.out.filter fun p => p.id != o.id } else
    let (s, n) := s.takeSeq o.msg
    let o' : OutMsg := { o with injected := true, ports := q :: o.ports, first := s.wall, last := s.wall,
                                msg := { o.msg with seq := n } }
    { s with out := s.out.map fun p => if p.id = o.id then o' else p }

/-- A message of the package itself leaves at once where there is a way. -/
def State.emit (s : State) (m : Msg) (plane : BitVec 2) (part : Option Nat) : State :=
  let s' := s.enqueue m plane part
  match s'.out.getLast? with
  | some o => s'.tryInject o
  | none => s'

/-- Every waiting message in turn. -/
def State.injectAll (s : State) : State := s.out.foldl (fun s o => s.tryInject o) s

/-- A route of a message's plane to its package is up (R352, R356). -/
def State.routeUp (s : State) (o : OutMsg) : Bool :=
  (s.leading o.part o.plane o.msg.dpkg).any fun q => (s.port q).isActive

/-- A wall cycle in which no route of an injected message is up does not count towards its timeout (R356, R362). -/
def State.stopClocks (s : State) : State :=
  { s with out := s.out.map fun o => if o.injected && !s.routeUp o then { o with first := o.first + 1 } else o }

/-- A message becomes ready at its source; `none`: no port of the partition leads to its package (R365). -/
def State.send (s : State) (m : Msg) (part : Option Nat) (src : CtrSrc) (rep : Nat × Nat × Nat) : Option State :=
  let plane := s.planeOf m.addr.toNat
  if (s.leading part plane m.dpkg).isEmpty then none
  else
    let o : OutMsg := { id := s.nextId, msg := { m with pln := plane }, plane := plane, part := part,
                        injected := false, ports := [], first := 0, last := 0, src := src, rep := rep }
    some ({ s.fresh with out := s.out ++ [o] }.tryInject o)

/-- The source die and agent number of a message of an agent's engine: local core index × 8 + word (log 21). -/
def State.sourceOf (s : State) (a : Agent) (w : Nat) : BitVec 4 × BitVec 16 :=
  match a with
  | .core _ _ => match s.core? a with
    | some c => (BitVec.ofNat 4 c.die, BitVec.ofNat 16 (c.loc * 8 + w))
    | none => (0, 0)
  | .mgmt m => (BitVec.ofNat 4 (8 + m), BitVec.ofNat 16 (256 + w))

/-- The planes of a mask, ascending. -/
def planesOf (m : BitVec 4) : List Nat := (tab 4 id).filter fun i => m.getLsbD i

/-- The fence markers of a phase of scope k leave (R355), and are awaited: from package scope on to every other die on every
live plane, from pod scope on to every package of the job on every live optical plane. -/
def State.sendMarkers (s : State) (a : Agent) (k : Nat) : State × List Mark :=
  let p := s.partOf a
  let (d, g) := s.sourceOf a 2
  let marker (plane : Nat) (pkg : BitVec 16) (die : Nat) : Msg :=
    { inl := 0, rsv := 0, pln := BitVec.ofNat 2 plane, rpl := false, agt := g, addr := 0, seq := 0, dpkg := pkg,
      spkg := Config.pkgId, sdie := d, ddie := BitVec.ofNat 4 die, typ := 6, ndat := 0, data := [] }
  let inner := if k < 3 then [] else
    (planesOf s.live).flatMap fun q => ((tab 10 id).filter fun e => e != d.toNat).map fun e => (q, e)
  let outer := if k < 4 then [] else s.podPairs p
  let r := inner.foldl (fun (r : State × List Mark) w =>
    let (t, n) := r.1.takeSeq (marker w.1 Config.pkgId w.2)
    (t, r.2 ++ [{ out := none, plane := w.1, die := w.2, seq := n, sent := s.wall }])) (s, [])
  outer.foldl (fun (r : State × List Mark) w =>
    (r.1.emit (marker w.1 w.2 0) (BitVec.ofNat 2 w.1) (some p),
      r.2 ++ [{ out := some r.1.nextId, plane := w.1, die := 0, seq := 0, sent := s.wall }])) r

/-- The VF an agent acts for, for a compute core. -/
def State.vfOf (s : State) (a : Agent) : Option Nat :=
  match a with
  | .core t _ => (s.troupe? t).map (·.vf)
  | .mgmt _ => none

/-- A message of an agent's engine (R349). The inline payload's layout is the model's (log 21): amount in [63:0],
handle in [95:64], its valid bit in [96], the alias class in [98:97], the sender's JOB in [127:112]. -/
def State.mkMsg (s : State) (a : Agent) (w : Nat) (typ : BitVec 4) (dpkg : BitVec 16) (addr inl : Nat)
    (data : List Byte) : Msg :=
  let (d, g) := s.sourceOf a w
  let job := ((s.vfOf a).map fun v => (s.vf v).job.toNat).getD 0
  { inl := BitVec.ofNat 352 (inl % 2 ^ 112 + job * 2 ^ 112), rsv := 0, pln := 0, rpl := false, agt := g,
    addr := BitVec.ofNat 64 addr, seq := 0, dpkg := dpkg, spkg := Config.pkgId, sdie := d, ddie := 0, typ := typ,
    ndat := BitVec.ofNat 4 (data.length / 64), data := data }

/-! ## Launch queues as `xenq` reaches them (R237, R311) -/

def LQueue.none : LQueue :=
  { en := false, bad := false, base := 0, lsz := 2, prod := false, spc := false, head := 0, tail := 0, resume := [],
    held := Option.none, led := false, since := 0, waited := false }

def Vf.queue (v : Vf) (q : Nat) : LQueue := v.queues.getD q LQueue.none

def Vf.modQueue (v : Vf) (q : Nat) (f : LQueue → LQueue) : Vf :=
  { v with queues := (v.queues ++ tab (q + 1 - v.queues.length) fun _ => LQueue.none).modify q f }

/-- Disabled and host-produced queues count as full (R311). -/
def LQueue.xenqFull (q : LQueue) : Bool :=
  !q.en || !q.prod || decide (2 ^ q.lsz ≤ (q.tail - q.head).toNat)

/-- The record at HEAD becomes the head when nothing stands before it: its age counts from the first wall cycle in which it
is (R320, R407). -/
def LQueue.settleHead (q : LQueue) (wall : Nat) : LQueue :=
  if q.led || !q.resume.isEmpty || q.held.isSome || q.head == q.tail then q else { q with led := true, since := wall }

/-- TAIL moves in a wall cycle. -/
def LQueue.produce (q : LQueue) (t : BitVec 32) (wall : Nat) : LQueue := { q with tail := t }.settleHead wall

/-- Address of the record with count c. -/
def LQueue.slot (q : LQueue) (c : BitVec 32) : Nat := q.base + 256 * (c.toNat % 2 ^ q.lsz)

end Sys2Proof.Machine
end

