-- ==== Sys2Proof/Machine/Copy.lean ====
section
/-!
DEFINITION. The copy commands: what each checks at issue, what it schedules at its start, its pieces (R214 to R237).
-/

namespace Sys2Proof.Machine

/-! ## Acceptance (R214 to R216) -/

/-- The checks of R216 on a B footprint: bound, alignment, holder; of several that fail the first (log 47). -/
def Core.copyFoot (c : Core) (al a n : Nat) : Option Exc :=
  if 2 ^ 23 < a + n then some (addressFault a)
  else if a % al ≠ 0 then some (misaligned a)
  else if !c.holds a n then some (handleFault a)
  else none

def failIf (b : Bool) (e : Exc) : Option Exc := if b then some e else none

/-- A G address within its width (R86). -/
def gWidth (a : Nat) : Option Exc := failIf (decide (2 ^ 57 ≤ a)) (addressFault a)

/-- The command in its engine: at most 16 that are not finished (R215). -/
def Core.accept (c : Core) (x : Iss) (dly : BitVec 12) (op : CopyOp) (ac : BitVec 2) (xasid : BitVec 64) (part : Nat) : Res :=
  let c := c.sweep
  if 16 ≤ (c.cmds.filter fun k => k.word == x.w).length then .exc structural
  else
    let k : Cmd := { id := c.nextId, op := op, word := x.w, baddr := c.pc, iss := x.now, start := x.now + dly.toNat,
                     ac := ac, started := false, snap := [], own := [], next := 0, total := 0, pieces := [],
                     aux := [], pat := none, buf := [], rets := [], outstanding := 0, failed := none,
                     reported := false, xasid := xasid, part := part }
    .done { c with nextId := c.nextId + 1, cmds := c.cmds ++ [k] }

/-- MC_XASID as a management core's command keeps it (R403). -/
def State.issueXasid (s : State) (a : Agent) : BitVec 64 :=
  match a with
  | .core _ _ => 0
  | .mgmt m => (s.bank (s.mg m).part.toNat).xasid

/-- A copy-command word: its checks, then acceptance. Where several checks fail at once the first of the word's list is
raised: the spec orders the decode checks and the words of a bundle and not these, so the order is the model's (log 47). -/
def copyWord (pd : Pd) (dly : BitVec 12) (ac : BitVec 2) (s : State) (f : Iss → List (Option Exc) × CopyOp) :
    Host.Outcome State Fault Refusal :=
  coreWord pd none s fun x =>
    match firstExc (f x).1 with
    | some e => .exc e
    | none => x.core.accept x dly (f x).2 ac (s.issueXasid x.ag) (s.partOf x.ag)

/-! ## The commands' words (R220 to R237) -/

def execXcpy (pd : Pd) (d a n : SReg) (pat : BitVec 9) (dly : BitVec 12) (s : State) :=
  copyWord pd dly 0 s fun x =>
    let c := x.core
    let dst := (c.rs d).toNat
    let src := (c.rs a).toNat
    let k := (c.rs n).toNat
    ([failIf (dst % 4096 ≠ 0 || src % 4096 ≠ 0 || k = 0 || 128 < k) illegalOperand,
      c.copyFoot 4096 src (k * 4096), c.copyFoot 4096 dst (k * 4096)], .xcpy dst src k pat.toNat)

/-- The limits of L of the timed fills and stores (R222). -/
def lenOk (l : Nat) : Bool := l % 4096 == 0 && decide (4096 ≤ l) && decide (l ≤ 2 ^ 23)

def execXfill (pd : Pd) (d a n : SReg) (h : Bool) (ac : ACls) (dly : BitVec 12) (s : State) :=
  copyWord pd dly ac s fun x =>
    let c := x.core
    let dst := (c.rs d).toNat
    let src := (c.rs a).toNat
    let l := (c.rs n).toNat
    ([failIf (!lenOk l || src % 64 ≠ 0) illegalOperand, if h then none else gWidth src, c.copyFoot 4096 dst l],
     .xfill h dst src l)

def execXstore (pd : Pd) (d a n : SReg) (h : Bool) (ac : ACls) (dly : BitVec 12) (s : State) :=
  copyWord pd dly ac s fun x =>
    let c := x.core
    let dst := (c.rs d).toNat
    let src := (c.rs a).toNat
    let l := (c.rs n).toNat
    ([failIf (!lenOk l || dst % 64 ≠ 0) illegalOperand, if h then none else gWidth dst, c.copyFoot 4096 src l],
     .xstore h dst src l)

/-- The fields of a Switchback shape (R223): stride, orientation, M, N. -/
def shpStride (w : BitVec 64) : Nat := fld w.toNat 32 32
def shpCol (w : BitVec 64) : Bool := w[31]
def shpM (w : BitVec 64) : Nat := fld w.toNat 16 8 + 1
def shpN (w : BitVec 64) : Nat := fld w.toNat 0 8 + 1

/-- The checks of `xtld` and `xtst` on T address, G base and shape (R223). -/
def switchChecks (t g : Nat) (w : BitVec 64) (f : BitVec 32) : List (Option Exc) :=
  let b := (fmtOf f).width / 8
  let row0 := t / 1024
  let col0 := t / 4 % 256
  let fits := if shpCol w then row0 + shpM w ≤ 256 && col0 + shpN w ≤ 256 else row0 + shpN w ≤ 256 && col0 + shpM w ≤ 256
  [failIf (!fmtIn [0, 1, 2, 3, 4] f || fld w.toNat 24 7 ≠ 0 || fld w.toNat 8 8 ≠ 0 || shpStride w % b ≠ 0)
     illegalOperand,
   failIf (decide (2 ^ 18 ≤ t)) (addressFault t), gWidth g,
   failIf (t % 4 ≠ 0) (misaligned t), failIf (g % b ≠ 0) (misaligned g), failIf (!fits) (addressFault t)]

def execXtld (pd : Pd) (d a n : SReg) (f : FReg) (ac : ACls) (dly : BitVec 12) (s : State) :=
  copyWord pd dly ac s fun x =>
    let c := x.core
    (switchChecks (c.rs d).toNat (c.rs a).toNat (c.rs n) (c.rf f),
     .xtld (c.rs d).toNat (c.rs a).toNat (c.rs n) (c.rf f))

def execXtst (pd : Pd) (d a n : SReg) (f : FReg) (ac : ACls) (dly : BitVec 12) (s : State) :=
  copyWord pd dly ac s fun x =>
    let c := x.core
    (switchChecks (c.rs a).toNat (c.rs d).toNat (c.rs n) (c.rf f),
     .xtst (c.rs d).toNat (c.rs a).toNat (c.rs n) (c.rf f))

/-- The checks of a spill (`res` 1) or fill (0) of a segment (R234). -/
def segChecks (c : Core) (g ga : Nat) (res : Bool) : List (Option Exc) :=
  [failIf (16 ≤ g || ga % 4096 ≠ 0) illegalOperand, gWidth ga, failIf (c.rseg.getLsbD g != res) illegalOperand,
   failIf (c.segBusy g) structural]

def execXrsp (pd : Pd) (a n : SReg) (ac : ACls) (dly : BitVec 12) (s : State) :=
  copyWord pd dly ac s fun x =>
    let g := (x.core.rs n).toNat
    let ga := (x.core.rs a).toNat
    (segChecks x.core g ga true, .xrsp ga g)

def execXrfl (pd : Pd) (a n : SReg) (ac : ACls) (dly : BitVec 12) (s : State) :=
  copyWord pd dly ac s fun x =>
    let g := (x.core.rs n).toNat
    let ga := (x.core.rs a).toNat
    (segChecks x.core g ga false, .xrfl ga g)

def execXmig (pd : Pd) (a n : SReg) (kind : FReg) (dly : BitVec 12) (s : State) :=
  copyWord pd dly 0 s fun x =>
    let ga := (x.core.rs a).toNat
    let l := (x.core.rs n).toNat
    ([failIf (decide (2 ≤ kind.toNat) || ga % 65536 ≠ 0 || l % 65536 ≠ 0 || 2 ^ 40 < l) illegalOperand, gWidth ga],
     .xmig ga l (kind == 1))

def execXscl (pd : Pd) (r : XReg) (a : SReg) (dly : BitVec 12) (s : State) :=
  copyWord pd dly 0 s fun x =>
    let b := (x.core.rs a).toNat
    ([x.core.copyFoot 256 b 256], .xscl r.toNat b)

def execXwin (pd : Pd) (d a map : SReg) (cm : Bool) (f : FReg) (ac : ACls) (dly : BitVec 12) (s : State) :=
  copyWord pd dly ac s fun x =>
    let c := x.core
    let dst := (c.rs d).toNat
    let mp := (c.rs map).toNat
    ([failIf (!fmtIn [0, 1, 2, 3, 4, 6, 7] (c.rf f)) illegalOperand, gWidth (c.rs a).toNat,
      failIf (decide (2 ^ 23 ≤ dst)) (addressFault dst), failIf (dst % 4096 ≠ 0) (misaligned dst),
      c.copyFoot 32 mp 32], .xwin dst (c.rs a).toNat mp cm (c.rf f))

/-- The words of `xrows`: gather into B, or scatter from B (R227). The header block is the first 16 bytes. -/
def rowsWord (sc : Bool) (pd : Pd) (d a map : SReg) (ac : ACls) (dly : BitVec 12) (s : State) :=
  copyWord pd dly ac s fun x =>
    let c := x.core
    let dst := (c.rs d).toNat
    let src := (c.rs a).toNat
    let b := if sc then src else dst
    ([gWidth (if sc then dst else src), failIf (decide (2 ^ 23 ≤ b)) (addressFault b),
      failIf (b % 4 ≠ 0) (misaligned b), c.copyFoot 16 (c.rs map).toNat 16],
     .xrows sc dst src (c.rs map).toNat)

def execXrows (pd : Pd) (d a map : SReg) (ac : ACls) (dly : BitVec 12) (s : State) := rowsWord false pd d a map ac dly s
def execXrowsSc (pd : Pd) (d a map : SReg) (ac : ACls) (dly : BitVec 12) (s : State) := rowsWord true pd d a map ac dly s

/-- Cores per span position C and span positions m of an agent's troupe (R14, R15). -/
def State.shapeOf (s : State) (a : Agent) : Nat × Nat :=
  match a with
  | .core t _ => match s.troupe? t with
    | some tr =>
      let m := (tr.cores.map fun c => c.spos + 1).foldl max 1
      (tr.cores.length / m, m)
    | none => (1, 1)
  | .mgmt _ => (1, 1)

/-- The check of a handle that an operation takes as s(SCTR)[31:0], whatever bits [63:32] hold (R87, R229, R232, R236,
R237). -/
def State.handleLow (s : State) (a : Agent) (h : BitVec 64) : Bool :=
  s.handleOk a ((h.truncate 32 : BitVec 32).zeroExtend 64)

/-- An optional local counter named by a scalar field: s0 names none. -/
def State.optCtr (s : State) (x : Iss) (r : SReg) : Option Exc × Option (BitVec 32) :=
  if r = 0 then (none, none)
  else
    let h := x.core.rs r
    (failIf (!s.handleLow x.ag h) counterHandle, some (h.truncate 32))

def execXmcast (pd : Pd) (d a n ctr : SReg) (dly : BitVec 12) (s : State) :=
  copyWord pd dly 0 s fun x =>
    let c := x.core
    let w := c.rs d
    let l := (c.rs n).toNat
    let src := (c.rs a).toNat
    let dst := fld w.toNat 0 23
    let mask := fld w.toNat 32 32
    let (cs, m) := s.shapeOf x.ag
    let k := s.optCtr x ctr
    ([failIf (l % 64 ≠ 0 || l = 0 || 2 ^ 20 < l || src % 64 ≠ 0 || dst % 64 ≠ 0 || 2 ^ 23 < dst + l || mask = 0 ||
        2 ^ cs ≤ mask || fld w.toNat 27 5 ≠ 0 || w[23] || m ≤ fld w.toNat 24 3) illegalOperand,
      c.copyFoot 64 src l, k.1], .xmcast w src l k.2)

/-- The checks that `xsend` and `xget` share (R230); their B address is checked with its footprint (R216). -/
def netChecks (l g : Nat) (w : BitVec 64) : List (Option Exc) :=
  [failIf (l % 64 ≠ 0 || l = 0 || 2 ^ 24 < l || g % 64 ≠ 0 || fld w.toNat 48 15 ≠ 0 ||
     BitVec.ofNat 16 (fld w.toNat 32 16) == Config.pkgId) illegalOperand, gWidth g]

def execXsend (pd : Pd) (d a n ctr : SReg) (ac : ACls) (dly : BitVec 12) (s : State) :=
  copyWord pd dly ac s fun x =>
    let c := x.core
    let l := (c.rs n).toNat
    (netChecks l (c.rs d).toNat (c.rs ctr) ++ [c.copyFoot 64 (c.rs a).toNat l],
     .xsend (c.rs d).toNat (c.rs a).toNat l (c.rs ctr))

def execXsendMsg (pd : Pd) (a rcv : SReg) (ch : BitVec 2) (dly : BitVec 12) (s : State) :=
  copyWord pd dly 0 s fun x =>
    let c := x.core
    let w := c.rs rcv
    let src := (c.rs a).toNat
    ([failIf (fld w.toNat 48 16 ≠ 0 || fld w.toNat 8 8 ≠ 0 || fld w.toNat 16 16 = 0 ||
        BitVec.ofNat 16 (fld w.toNat 32 16) == Config.pkgId) illegalOperand, c.copyFoot 64 src 64],
     .xsendMsg src w ch.toNat)

def execXget (pd : Pd) (d a n ctr : SReg) (ac : ACls) (dly : BitVec 12) (s : State) :=
  copyWord pd dly ac s fun x =>
    let c := x.core
    let l := (c.rs n).toNat
    let w := c.rs ctr
    (netChecks l (c.rs a).toNat w ++
      [c.copyFoot 64 (c.rs d).toNat l,
       failIf (w[63] && !s.handleLow x.ag w) counterHandle],
     .xget (c.rs d).toNat (c.rs a).toNat l w)

/-- A port has a trigger, registered or on its way (R236). -/
def State.trigPending (s : State) (mask : BitVec 16) : Bool :=
  (s.trigs.any fun t => t.ports &&& mask != 0) ||
  let f (c : Core) : Bool := c.sweep.cmds.any fun k => match k.op with
    | .xrts _ p _ => p &&& mask != 0
    | _ => false
  (s.troupes.any fun t => t.cores.any f) || f (s.mg 0).core || f (s.mg 1).core

def execXrts (pd : Pd) (a n ctr : SReg) (dly : BitVec 12) (s : State) :=
  copyWord pd dly 0 s fun x =>
    let c := x.core
    let h := c.rs ctr
    let pm := (c.rs n).toNat
    let mask : BitVec 16 := BitVec.ofNat 16 pm
    ([failIf (decide (2 ^ 16 ≤ pm)) illegalOperand, failIf (!s.handleLow x.ag h) counterHandle,
      failIf (mask &&& ~~~ (s.part (s.partOf x.ag)).ports != 0) privilege,
      failIf (s.trigPending mask) illegalOperand], .xrts (c.rs a) mask (h.truncate 32))

def execXbat (pd : Pd) (aop : AtomOp) (a n ctr : SReg) (ac : ACls) (dly : BitVec 12) (s : State) :=
  copyWord pd dly ac s fun x =>
    let c := x.core
    let nb := (c.rs n).toNat
    let src := (c.rs a).toNat
    let k := s.optCtr x ctr
    ([failIf (nb = 0 || 256 < nb) illegalOperand, c.copyFoot 16 src (16 * nb), k.1],
     .xbat aop src nb k.2)

def execXenq (pd : Pd) (a q ctr : SReg) (ac : ACls) (dly : BitVec 12) (s : State) :=
  copyWord pd dly ac s fun x =>
    let c := x.core
    let h := c.rs ctr
    let src := (c.rs a).toNat
    ([failIf (decide (64 ≤ (c.rs q).toNat)) illegalOperand, c.copyFoot 256 src 256,
      failIf (!s.handleLow x.ag h) counterHandle], .xenq src (c.rs q).toNat (h.truncate 32))

/-! ## The window map and the row list (R226, R227) -/

/-- ceil(a / b). -/
def ceilDiv (a b : Nat) : Nat := (a + b - 1) / b

/-- The fields of a window map. -/
structure Win where
  h : Nat
  w : Nat
  cn : Nat
  ow : Nat
  kh : Nat
  kw : Nat
  sy : Nat
  sx : Nat
  dy : Nat
  dx : Nat
  py : Nat
  px : Nat
  q0 : Nat
  p : Nat
  kp : Nat
  yp : Nat
  xp : Nat
  deriving DecidableEq, Repr

def Win.ofBytes (l : List Byte) : Win :=
  let n := leNat l
  { h := fld n 0 16, w := fld n 16 16, cn := fld n 32 16, ow := fld n 48 16, kh := fld n 64 8, kw := fld n 72 8,
    sy := fld n 80 8, sx := fld n 88 8, dy := fld n 96 8, dx := fld n 104 8, py := fld n 112 8, px := fld n 120 8,
    q0 := fld n 128 32, p := fld n 160 16, kp := fld n 176 16, yp := fld n 192 32, xp := fld n 224 32 }

/-- K of a map, and its row bytes. -/
def Win.k (m : Win) : Nat := m.kh * m.kw * m.cn
def Win.rb (m : Win) (wb : Nat) : Nat := m.kp * wb

/-- The map's rules (R226). -/
def Win.ok (m : Win) (wb : Nat) : Bool :=
  m.xp % wb == 0 && m.yp % wb == 0 && decide (m.k ≤ m.kp) && decide (m.kp ≤ 4096) && decide (1 ≤ m.p) &&
  decide (m.p ≤ 1024) && [m.dx, m.dy, m.sx, m.sy, m.kw, m.kh, m.ow, m.cn, m.w, m.h].all (fun v => v != 0) &&
  m.rb wb % 4 == 0

/-- The source of element k of row p: a G address, or none for a zero. -/
def Win.elem (m : Win) (cm : Bool) (src wb p k : Nat) : Option Nat :=
  if m.k ≤ k then none
  else
    let q := m.q0 + p
    let oy := q / m.ow
    let ox := q % m.ow
    let ch := if cm then k / (m.kh * m.kw) else k % m.cn
    let kx := if cm then k % m.kw else k / m.cn % m.kw
    let ky := if cm then k / m.kw % m.kh else k / (m.cn * m.kw)
    let y : Int := (oy * m.sy + ky * m.dy : Nat) - (m.py : Int)
    let x : Int := (ox * m.sx + kx * m.dx : Nat) - (m.px : Int)
    if 0 ≤ y && y < m.h && 0 ≤ x && x < m.w then some ((src + y.toNat * m.yp + x.toNat * m.xp + ch * wb) % 2 ^ 64)
    else none

/-- The header and an index of a row list. -/
def listNr (l : List Byte) : Nat := leNat (l.take 4)
def listRb (l : List Byte) : Nat := leNat ((l.drop 4).take 4)
def listStr (l : List Byte) : Nat := leNat ((l.drop 8).take 8)
def listIdx (l : List Byte) (j : Nat) : Nat := leNat ((l.drop (16 + 4 * j)).take 4)

/-- G address of the row that index j names; none: skip. -/
def listRow (l : List Byte) (base j : Nat) : Option Nat :=
  let i := listIdx l j
  if i = 0xFFFFFFFF then none else some ((base + i * listStr l) % 2 ^ 64)

/-- Cycles per row of RB bytes at 50 bytes a cycle, as an offset of row n. -/
def rowCycles (rb n : Nat) : Nat := ceilDiv (n * max rb 50) 50

/-! ## Pieces (R217) -/

/-- The alias class, and H space, of a command's reads and writes. -/
def CopyOp.host : CopyOp → Bool
  | .xfill h .. => h
  | .xstore h .. => h
  | _ => false

/-- A command reads pieces from G or H. -/
def CopyOp.reads : CopyOp → Bool
  | .xfill .. | .xtld .. | .xrfl .. | .xwin .. => true
  | .xrows sc .. => !sc
  | _ => false

/-- What piece i is read from: runs of bytes, or zeros. -/
def Cmd.source (k : Cmd) (i : Nat) : List (Option Nat × Nat) :=
  match k.op with
  | .xfill _ _ src _ => [(some (src + 4096 * i), 4096)]
  | .xtld _ ga shp f => [(some (ga + i * shpStride shp), shpM shp * (fmtOf f).width / 8)]
  | .xrfl ga _ => [(some ga, 65536)]
  | .xwin _ src _ cm f =>
    let m := Win.ofBytes k.aux
    let wb := (fmtOf f).width / 8
    tab m.kp fun e => (m.elem cm src wb i e, wb)
  | .xrows _ _ src _ => [(listRow k.aux src i, listRb k.aux)]
  | _ => []

/-- The due cycle of a piece written to B, T or the stack. -/
def Cmd.due (k : Cmd) (i : Nat) : Nat :=
  match k.op with
  | .xfill h .. => k.start + if h then 8192 + ceilDiv (4096 * (i + 1)) 25 else 512 + ceilDiv (4096 * (i + 1)) 50
  | .xtld _ _ shp f => k.start + 512 + rowCycles (shpM shp * (fmtOf f).width / 8) (i + 1)
  | .xrfl .. => k.start + 1823
  | .xwin _ _ _ _ f => k.start + 512 + rowCycles ((Win.ofBytes k.aux).rb ((fmtOf f).width / 8)) (i + 1)
  | .xrows _ .. => k.start + 512 + rowCycles (listRb k.aux) (i + 1)
  | _ => k.start

/-- Local range that piece i of a fill writes. -/
def Cmd.dest (k : Cmd) (i : Nat) : Option (Nat × Nat) :=
  match k.op with
  | .xcpy dst _ _ _ => some (dst + 4096 * i, 4096)
  | .xfill _ dst _ _ => some (dst + 4096 * i, 4096)
  | .xwin dst _ _ _ f => let rb := (Win.ofBytes k.aux).rb ((fmtOf f).width / 8); some (dst + i * rb, rb)
  | .xrows false dst _ _ => some (dst + i * listRb k.aux, listRb k.aux)
  | .xget dst _ l _ => some (dst, l)
  | _ => none

/-- Local range that source piece i of a store or send reads. -/
def Cmd.origin (k : Cmd) (i : Nat) : Option (Nat × Nat) :=
  let part (src l : Nat) : Option (Nat × Nat) := some (src + 4096 * i, min 4096 (l - 4096 * i))
  match k.op with
  | .xcpy _ src _ _ => some (src + 4096 * i, 4096)
  | .xstore _ _ src l => part src l
  | .xscl _ src => some (src, 256)
  | .xrows true _ src _ => some (src + i * listRb k.aux, listRb k.aux)
  | .xmcast _ src l _ => part src l
  | .xsend _ src l _ => part src l
  | .xsendMsg src _ _ => some (src, 64)
  | .xbat _ src n _ => part src (16 * n)
  | .xenq src _ _ => some (src, 256)
  | _ => none

/-- Number of pieces, for the commands whose count is known at issue. -/
def CopyOp.count : CopyOp → Nat
  | .xcpy _ _ n _ => n
  | .xfill _ _ _ l => l / 4096
  | .xstore _ _ _ l => l / 4096
  | .xtld _ _ shp _ => shpN shp
  | .xtst _ _ shp _ => shpN shp
  | .xrsp .. => 16
  | .xrfl .. => 1
  | .xscl .. => 1
  | .xmcast _ _ l _ => ceilDiv l 4096
  | .xsend _ _ l _ => ceilDiv l 4096
  | .xsendMsg .. => 1
  | .xbat _ _ n _ => ceilDiv (16 * n) 4096
  | .xenq .. => 1
  | _ => 0

/-! ## The start (R214) -/

/-- Schedule phase `ph` of piece i of a command at an absolute cycle: 0 reads a source, 1 writes a destination, 2
reads a map or list, 3 changes RES. -/
def Core.schedCmd (c : Core) (k : Cmd) (ph i due : Nat) : Core :=
  { c with pend := c.pend ++ [{ due := due, iss := k.iss, word := k.word, baddr := k.baddr, act := .cmd k.id ph i,
                                flags := 0, rtn := none }] }

def Core.schedCmds (c : Core) (k : Cmd) (ph n : Nat) (due : Nat → Nat) : Core :=
  (tab n id).foldl (fun c i => c.schedCmd k ph i (due i)) c

def Core.setCmd (c : Core) (k : Cmd) : Core := { c with cmds := c.cmds.map fun j => if j.id = k.id then k else j }

def Core.cmd? (c : Core) (id : Nat) : Option Cmd := c.cmds.find? fun k => k.id == id

/-- What a command schedules in S. -/
def Core.startCmd (c : Core) (k : Cmd) : Core :=
  let n := k.op.count
  match k.op with
  | .xcpy .. => c.schedCmds k 0 n fun i => k.start + 2 * i
  | .xfill .. | .xtld .. | .xrfl .. => c.schedCmds k 1 n k.due
  | .xstore h .. => c.schedCmds k 0 n fun i => k.start + ceilDiv (4096 * i) (if h then 25 else 50)
  | .xtst _ _ shp f => c.schedCmds k 0 n fun i => k.start + rowCycles (shpM shp * (fmtOf f).width / 8) i
  | .xrsp .. => (c.schedCmds k 0 n fun i => k.start + ceilDiv (4096 * (i + 1)) 50 - 1).schedCmd k 3 0 (k.start + 1311)
  | .xscl .. => c.schedCmd k 0 0 (k.start + 1)
  | .xwin .. | .xrows .. => c.schedCmd k 2 0 k.start
  | .xmcast .. | .xsend .. | .xsendMsg .. | .xbat .. | .xenq .. => c.schedCmds k 0 n fun i => k.start + i
  | .xmig .. | .xget .. | .xrts .. => c

/-- The context of a command's G accesses: a management core's is that of its issue (R403). -/
def State.cmdCtx (s : State) (a : Agent) (k : Cmd) : Ctx :=
  match a with
  | .core _ _ => s.ctx a
  | .mgmt m => { asid := fld k.xasid.toNat 0 14, sup := true, phy := k.xasid[63], die := 8 + m }

/-- The record of a hint (R344). -/
def hintRecord (asid ga len : Nat) (far : Bool) : BitVec 128 :=
  BitVec.ofNat 128 (ga + bit far * 2 ^ 57 + len / 65536 * 2 ^ 64 + asid * 2 ^ 96)

/-- What a core pays for a message that it sends (R288, R292): its header flit and data flits, sent on the die of the port that
leads to its package, and their crossings to that die. -/
def State.sendCharge (s : State) (a : Agent) (m : Msg) (c : Core) : Core :=
  match a with
  | .mgmt _ => c
  | .core _ _ =>
    let die := (((s.leading (some (s.partOf a)) (s.planeOf m.addr.toNat) m.dpkg).head?).map (· / 2)).getD c.die
    let n := 1 + m.ndat.toNat
    c.addCharges ((die, 0x11, n) :: crossings c.die die n)

/-- One message of a command, its granule `i`; `none` of a route is a refusal, whose record names the granule as the
progress index (R218, R230, R365). -/
def State.sendFor (s : State) (a : Agent) (k : Cmd) (i : Nat) (m : Msg) : State :=
  match s.send m (some (s.partOf a)) (.cmd a k.id) (k.word, k.baddr, i) with
  | some s' => s'.modCore a fun c =>
      { s.sendCharge a m c with
          cmds := c.cmds.map fun j => if j.id = k.id then { j with outstanding := j.outstanding + 1 } else j }
  | none => s.modCore a fun c =>
      c.raiseLate k.word k.baddr { cause := 0x0B, addr := m.addr.toNat, aux0 := BitVec.ofNat 64 i }

/-- The spills that a fill of a segment sees beside its snapshot (R234). -/
def CopyOp.spilled (o : CopyOp) (c : Core) : List Egress :=
  match o with
  | .xrfl .. => c.spills
  | _ => []

/-- COPY_START (R214): the command begins in its start cycle. -/
def execCopyStart (a : Agent) (id : Nat) (s : State) : Host.Outcome State Fault Refusal :=
  match (s.core? a).bind fun c => (c.cmd? id).map fun k => (c, k) with
  | none => notEnabled "COPY_START"
  | some (c, k) =>
    if k.started || k.start ≠ s.now a then notEnabled "COPY_START"
    else
      let (p, dyn) := match k.op with
        | .xcpy _ _ _ i => c.pattern (s.image a) i
        | _ => (Pattern.identity, false)
      let k : Cmd := { k with started := true, snap := c.snap, own := (c.egress.filter fun e => e.inPath && e.pub) ++ k.op.spilled c,
                              total := k.op.count, pat := some (p, dyn) }
      let s := s.setCore a ((c.setCmd k).startCmd k)
      match k.op with
      | .xmig ga len far =>
        .next (if len = 0 then s
          else { s with hints := s.hints ++ [(k.part, hintRecord (s.cmdCtx a k).asid ga len far)] })
      | .xget _ src l w =>
        .next ((tab (l / 64) fun i => i).foldl (fun s i =>
          s.sendFor a k i (s.mkMsg a k.word 1 (BitVec.ofNat 16 (fld w.toNat 32 16)) (src + 64 * i)
            (i + k.id % 2 ^ 32 * 2 ^ 32 + (s.sourceOf a k.word).2.toNat * 2 ^ 64 + k.ac.toNat * 2 ^ 97) [])) s)
      | .xrts target mask h =>
        -- a trigger whose counter is not live, or lost, is cancelled (R236, R374, R405)
        if (s.ctr? h).any fun c => !c.lost then
          .next { s.fresh with trigs := s.trigs ++ [{ id := s.nextId, handle := h, target := target, ports := mask }] }
        else .next s
      | _ => .next s

end Sys2Proof.Machine
end

