-- ==== Sys2Proof/Machine/CopyRun.lean ====
section
/-!
DEFINITION. Running copy commands: pieces that arrive, are accepted, perform or fail, and arrivals into walls (R217 to
R219, R228 to R234).
-/

namespace Sys2Proof.Machine

/-! ## Lookups -/

def Cmd.piece (k : Cmd) (i : Nat) : Piece :=
  (k.pieces.find? fun p => p.idx == i).getD { idx := i, data := none, walking := true, cached := false, failed := none }

def Cmd.setPiece (k : Cmd) (p : Piece) : Cmd := { k with pieces := p :: k.pieces.filter fun q => q.idx != p.idx }

def Cmd.hasPhase (c : Core) (id ph : Nat) : Bool :=
  c.pend.any fun p => match p.act with
    | .cmd j h _ => j == id && h == ph
    | .xcpyOut j _ _ => j == id
    | _ => false

/-- Bytes in the store buffer of the engine of a word (R217). -/
def Core.bufUsed (c : Core) (w : Nat) : Nat :=
  ((c.cmds.filter fun k => k.word == w).map fun k => (k.buf.map fun e => e.2.2.length).sum).sum

/-- Bytes at va cut at aligned 64-byte granules, as entries of a piece. -/
def cutGranules (piece va : Nat) (l : List Byte) : List (Nat × Nat × List Byte) :=
  (granules va (l.map some)).filterMap fun g =>
    if g.2.isEmpty then none else some (piece, g.1, g.2.filterMap id)

/-! ## Source and destination pieces in their cycles -/

/-- Bytes that source piece i takes in the store buffer; 0 where it takes none. -/
def Cmd.bufNeed (k : Cmd) (i : Nat) : Nat :=
  match k.op with
  | .xstore .. => 4096
  | .xtst _ _ shp f => shpM shp * (fmtOf f).width / 8
  | .xrsp .. => 4096
  | .xrows true _ _ _ => if listIdx k.aux i = 0xFFFFFFFF then 0 else listRb k.aux
  | _ => 0

/-- What a core pays for the granules of G or H that a piece moves (R288, R292). -/
def State.payPiece (s : State) (a : Agent) (k : Cmd) (need : Need) (runs : List (Nat × Nat)) (c : Core) : Core :=
  match a with
  | .mgmt _ => c
  | .core _ _ =>
    let runs := pieceRuns runs
    if k.op.host then
      c.addCharges (runs.flatMap fun r => (8, 0x0F, granulesOf r.1 r.2) :: travel (need != .wr) c.die 8 r.1 (granulesOf r.1 r.2))
    else s.payG a (s.cmdCtx a k) need (runs.flatMap fun r => pageRuns r.1 r.2) c

/-- A source piece enters the store buffer. -/
def State.toBuffer (s : State) (ag : Agent) (k : Cmd) (es : List (Nat × Nat × List Byte)) (fl : Fl) : State :=
  s.modCore ag fun c =>
    let c := s.payPiece ag k .wr (es.map fun e => (e.2.1, e.2.2.length)) (c.charge 0x0C 1)
    { c.setCmd { k with buf := k.buf ++ es, next := k.next + 1 } with flags := c.flags ||| fl }

/-- The granules of a multicast piece for one target (R229). -/
def mcastGranules (a : Agent) (k : Cmd) (first : Nat) (tgt : Agent) (dst : Nat) (ctr : Option (BitVec 32))
    (bytes : List Byte) : List Granule :=
  tab (bytes.length / 64) fun i =>
    { id := first + i, dst := tgt, addr := dst + 64 * i, data := (bytes.drop (64 * i)).take 64, ctr := ctr, amt := 64,
      src := .cmd a k.id, since := none }

/-- The agents of a multicast mask: local ranks at a span position (R229). -/
def State.mcastTargets (s : State) (a : Agent) (w : BitVec 64) : List Agent :=
  match a with
  | .core t _ => match s.troupe? t with
    | some tr => ((tr.cores.mapIdx fun r c => (r, c)).filter fun rc =>
        rc.2.spos == fld w.toNat 24 3 && w.getLsbD (32 + rc.2.lrank)).map fun rc => .core t rc.1
    | none => []
  | m => if w.getLsbD 32 then [m] else []

/-- Die of an agent. -/
def State.dieOfAgent (s : State) (a : Agent) : Nat :=
  match a with
  | .core _ _ => ((s.core? a).map (·.die)).getD 0
  | .mgmt m => 8 + m

/-- An atomic batch's list entries (R232). -/
def batchEntry (l : List Byte) (j : Nat) : BitVec 128 := BitVec.ofNat 128 (leNat ((l.drop (16 * j)).take 16))


/-- What a core pays for a batch once its list is read (R289, R292): of each entry the walk and the flit to where it executes,
the flit of an old value that returns, and the flit of its counter add. -/
def State.payBatch (s : State) (a : Agent) (k : Cmd) (op : AtomOp) (n : Nat) (ctr : Option (BitVec 32)) (c : Core) : Core :=
  match a with
  | .mgmt _ => c
  | .core _ _ => (tab n id).foldl (fun c j =>
      let w := (batchEntry k.aux j).toNat
      let ret := w / 2 ^ 63 % 2 == 1
      let tgt := w % 2 ^ 57
      if op.onCounter then c.addCharges (s.counterFlits c.die (BitVec.ofNat 32 tgt) ret)
      else
        let c := s.payWalk (s.cmdCtx a k) tgt c
        match s.translate (s.cmdCtx a k) tgt .rdwr none .tables with
        | .error _ => c
        | .ok (pa, _) =>
          let d := dieOf pa
          c.addCharges (crossings c.die d 1 ++ (if ret then crossings d c.die 1 else []) ++
            ctr.elim [] fun h => s.counterFlits d h false)) c

/-- Source piece i of a command is read in its cycle. -/
def State.cmdRead (s : State) (ag : Agent) (now : Nat) (p : Pend) (c : Core) (k : Cmd) (i : Nat) : State :=
  let own := posOf ag
  let rd := match k.origin i with
    | some (a, n) => c.bank.read a n
    | none => []
  let accs : List Access := match k.origin i with
    | some (a, n) => rangeAccs own p a n false
    | none => []
  let bankUse := s.useBanks ag now accs
  let adv : Cmd := { k with next := k.next + 1 }
  if !c.holdsRows accs then s.handleLate ag p ((k.origin i).getD (0, 0)).1
  else match k.op with
  | .xcpy _ src _ _ =>
    let (pat, dyn) := k.pat.getD (Pattern.identity, false)
    let a := src + 4096 * i
    let full := BitVec.allOnes 1024
    let v := netLoad c.bank pat dyn (a / 16384) (a / 4096 % 4) full
    let accs := netAccs own p pat dyn (a / 16384) (a / 4096 % 4) full false
    -- a dynamic pattern may name rows outside the block that was checked at issue (R74, R82)
    s.access ag now p accs a fun c =>
      let c := c.charge 0x0C 1
      { c with pend := c.pend ++ [{ p with due := now + 3, act := .xcpyOut k.id i (vmap fun e => v.getD e 0) }] }
  | .xstore _ dst _ _ => bankUse.toBuffer ag k (cutGranules i (dst + 4096 * i) rd) 0
  | .xtst ga t shp f =>
    let row0 := t / 1024
    let col0 := t / 4 % 256
    let cellAt (e : Nat) : Nat := if shpCol shp then tCell (row0 + e) (col0 + i) else tCell (row0 + i) (col0 + e)
    let out := tab (shpM shp) fun e => narrowLine f (BitVec.ofNat 32 (c.tarr.num (cellAt e) 4))
    let ac : TAccess := { kind := 3, a := cellAt 0, col := shpCol shp, len := shpM shp, write := false, iss := p.iss,
                          word := p.word, baddr := p.baddr }
    (s.useT ag now ac).toBuffer ag k
      (cutGranules i (ga + i * shpStride shp) (packCodes (fmtOf f).width (out.map (·.1)))) (orFl (out.map (·.2)))
  | .xrsp ga g => s.toBuffer ag k (cutGranules i (ga + 4096 * i) (c.stk.read (g * 65536 + 4096 * i) 4096)) 0
  | .xscl x _ =>
    bankUse.modCore ag fun c =>
      let c := (c.charge 0x0C 1).setCmd adv
      { c with pend := c.pend ++ [{ p with due := k.start + 3, act := .wX (BitVec.ofNat 3 x) rd }] }
  | .xrows true dst _ _ =>
    match listRow k.aux dst i with
    | none => bankUse.modCore ag fun c => (c.charge 0x0C 1).setCmd adv
    | some ga => bankUse.toBuffer ag k (cutGranules i ga rd) 0
  | .xmcast w _ _ ctr =>
    let tgts := s.mcastTargets ag w
    let dst := fld w.toNat 0 23 + 4096 * i
    let n := rd.length / 64
    let die := s.dieOfAgent ag
    let far := tgts.flatMap fun t => crossings die (s.dieOfAgent t) (n + messagesOf dst n) ++
      (ctr.elim [] fun h => (tab n fun _ => s.counterFlits (s.dieOfAgent t) h false).flatten)
    let gs := (tgts.mapIdx fun j t => mcastGranules ag k (bankUse.nextId + n * j) t dst ctr rd).flatten
    { bankUse with nextId := bankUse.nextId + gs.length, flight := bankUse.flight ++ gs }.modCore ag fun c =>
      ((c.charge 0x0C 1).addCharges far).setCmd { adv with outstanding := k.outstanding + gs.length }
  | .xsend ga _ _ w =>
    let s := bankUse.modCore ag fun c => (c.charge 0x0C 1).setCmd adv
    let inl := (if w[63] then 64 + fld w.toNat 0 32 * 2 ^ 64 + 2 ^ 96 else 0) + k.ac.toNat * 2 ^ 97
    (tab (rd.length / 64) id).foldl (fun s j =>
      s.sendFor ag k (64 * i + j) (s.mkMsg ag k.word 0 (BitVec.ofNat 16 (fld w.toNat 32 16)) (ga + 4096 * i + 64 * j) inl
        ((rd.drop (64 * j)).take 64))) s
  | .xsendMsg _ w ch =>
    let mbx := fld w.toNat 16 16
    let rk := fld w.toNat 0 8
    let s := bankUse.modCore ag fun c => (c.charge 0x0C 1).setCmd adv
    s.sendFor ag k 0 (s.mkMsg ag k.word 5 (BitVec.ofNat 16 (fld w.toNat 32 16)) ((mbx * 1024 + rk * 4 + ch) * 512) 0 rd)
  | .xbat op _ n ctr => bankUse.modCore ag fun c =>
    let k := { k with aux := k.aux ++ rd }
    let c := (c.charge 0x0C 1).setCmd k
    if 16 * n ≤ k.aux.length then s.payBatch ag k op n ctr c else c
  | .xenq _ q h =>
    -- the record is here; it reaches its queue in wall time
    let pay (c : Core) : Core := match s.vfOf ag with
      | some v =>
        let a := ((s.vf v).queue q).slot ((s.vf v).queue q).tail
        let c := s.payG ag (s.cmdCtx ag k) .wr (pageRuns a 256) c
        match s.translate (s.cmdCtx ag k) a .wr none .tables with
        | .ok (pa, _) => c.addCharges (s.counterFlits (dieOf pa) h false)
        | .error _ => c
      | none => c
    bankUse.modCore ag fun c => (pay (c.charge 0x0C 1)).setCmd { adv with outstanding := 1, aux := rd }
  | _ => s

/-- Destination piece i of a fill performs (R217, R222 to R227, R234). -/
def State.cmdWrite (s : State) (ag : Agent) (now : Nat) (p : Pend) (k : Cmd) (i : Nat) : State :=
  let data := (k.piece i).data.getD []
  let k' : Cmd := { k with next := i + 1, pieces := k.pieces.filter fun q => q.idx != i }
  let runs := (k.source i).filterMap fun g => g.1.map fun va => (va, g.2)
  let blocks := match k.op with
    | .xrfl .. => 16
    | _ => 1
  let note (c : Core) : Core := (s.payPiece ag k .rd runs (c.charge 0x0C blocks)).setCmd k'
  match k.op with
  | .xtld t _ shp f =>
    let row0 := t / 1024
    let col0 := t / 4 % 256
    let cellAt (e : Nat) : Nat := if shpCol shp then tCell (row0 + e) (col0 + i) else tCell (row0 + i) (col0 + e)
    let vals := (codesOf (fmtOf f).width (shpM shp) data).map fun b => widenLine f b
    let ac : TAccess := { kind := 3, a := cellAt 0, col := shpCol shp, len := shpM shp, write := true, iss := p.iss,
                          word := p.word, baddr := p.baddr }
    (s.useT ag now ac).modCore ag fun c =>
      { note c with
          tarr := (vals.mapIdx fun e v => (e, v.1)).foldl (fun m e => m.putNum (cellAt e.1) 4 e.2.toNat) c.tarr,
          flags := c.flags ||| orFl (vals.map (·.2)) }
  | .xrfl _ g => s.modCore ag fun c =>
      { note c with stk := c.stk.write (g * 65536) data, rseg := c.rseg ||| BitVec.ofNat 16 (2 ^ g) }
  | _ =>
    match k.dest i with
    | some (a, n) => s.access ag now p (rangeAccs (posOf ag) p a n true) a fun c =>
        { note c with bank := c.bank.write a data }
    | none => s

/-- A check of R226 or R227 fails at S: deferred, progress index 0, fatal. -/
def State.killAtS (s : State) (ag : Agent) (k : Cmd) (e : Exc) : State :=
  s.modCore ag fun c =>
    let c := c.raiseLate k.word k.baddr e
    { c with cmds := c.cmds.filter fun j => j.id != k.id,
             raised := c.raised.mapIdx fun i f => if i + 1 = c.raised.length then { f with kill := true } else f }

/-- The map or a piece of the list is read (R226, R227). -/
def State.cmdMap (s : State) (ag : Agent) (now : Nat) (p : Pend) (c : Core) (k : Cmd) (i : Nat) : State :=
  let own := posOf ag
  match k.op with
  | .xwin dst _ mp _ f =>
    let wb := (fmtOf f).width / 8
    let bytes := c.bank.read mp 32
    let m := Win.ofBytes bytes
    let accs := rangeAccs own p mp 32 false
    if !c.holdsRows accs then s.handleLate ag p mp
    else
    let s := s.useBanks ag now accs
    match firstExc [failIf (!m.ok wb) illegalOperand, c.copyFoot 4096 dst (m.p * m.rb wb)] with
    | some e => s.killAtS ag k e
    | none => s.modCore ag fun c =>
        let k : Cmd := { k with aux := bytes, total := m.p }
        ((c.charge 0x0C 1).setCmd k).schedCmds k 1 m.p k.due
  | .xrows sc dst src mp =>
    let len' := if i = 0 then 16 else 16 + 4 * listNr k.aux - 4096 * i
    if !c.holdsRows (rangeAccs own p (mp + 4096 * i) (min 4096 len') false) then s.handleLate ag p (mp + 4096 * i)
    else if i = 0 then
      let hd := c.bank.read mp 16
      let nr := listNr hd
      let rb := listRb hd
      let len := 16 + 4 * nr
      let b := if sc then src else dst
      match firstExc [failIf (nr = 0 || 4096 < nr || rb % 4 ≠ 0 || rb < 4 || 65536 < rb) illegalOperand,
          c.copyFoot 16 mp len, c.copyFoot 4 b (nr * rb)] with
      | some e => (s.useBanks ag now (rangeAccs own p mp 16 false)).killAtS ag k e
      | none =>
        let n := min 4096 len
        (s.useBanks ag now (rangeAccs own p mp n false)).modCore ag fun c =>
          let k : Cmd := { k with aux := c.bank.read mp n, total := nr }
          let c := (tab (ceilDiv len 4096 - 1) id).foldl (fun c j => c.schedCmd k 2 (j + 1) (k.start + j + 1))
            ((c.charge 0x0C 1).setCmd k)
          if sc then c.schedCmds k 0 nr fun j => k.start + 16 + rowCycles rb j else c.schedCmds k 1 nr k.due
    else
      let len := 16 + 4 * listNr k.aux
      let n := min 4096 (len - 4096 * i)
      (s.useBanks ag now (rangeAccs own p (mp + 4096 * i) n false)).modCore ag fun c =>
        (c.charge 0x0C 1).setCmd { k with aux := k.aux ++ c.bank.read (mp + 4096 * i) n }
  | _ => s

/-- One scheduled phase of a command. -/
def State.doCmd (s : State) (ag : Agent) (now : Nat) (p : Pend) (id ph i : Nat) : State :=
  match (s.core? ag).bind fun c => (c.cmd? id).map fun k => (c, k) with
  | none => s
  | some (c, k) =>
    if ph = 0 then s.cmdRead ag now p c k i
    else if ph = 1 then s.cmdWrite ag now p k i
    else if ph = 2 then s.cmdMap ag now p c k i
    else match k.op with
    | .xrsp _ g => s.setCore ag { c with rseg := c.rseg &&& ~~~ (BitVec.ofNat 16 (2 ^ g)) }
    | _ => s

/-- A block of an `xcpy` is written (R221). -/
def State.doXcpyOut (s : State) (ag : Agent) (now : Nat) (p : Pend) (id i : Nat) (v : VReg) : State :=
  match (s.core? ag).bind fun c => (c.cmd? id).bind fun k => (k.dest i).map fun d => (k, d) with
  | none => s
  | some (k, (a, _)) =>
    s.access ag now p (rangeAccs (posOf ag) p a 4096 true) a fun c =>
      { (c.charge 0x0C 1).setCmd { k with next := i + 1 } with
          bank := c.bank.write a (v.toList.flatMap fun w => leBytes 4 w.toNat) }

/-! ## Pieces of G and H (R217, R218) -/

/-- Translations of the pages that some runs of bytes touch. -/
def State.pagesOf (s : State) (cx : Ctx) (need : Need) (ac : Option (BitVec 2)) (how : Lookup)
    (runs : List (Option Nat × Nat)) : List (Nat × Except Nat (Nat × BitVec 64)) :=
  let pages := (runs.flatMap fun g => match g.1 with
    | some va => if g.2 = 0 then [] else tab ((va + g.2 - 1) / 4096 - va / 4096 + 1) fun i => va / 4096 + i
    | none => []).eraseDups
  pages.map fun pg =>
    (pg, if 2 ^ 45 ≤ pg then .error 1 else s.translate cx (pg * 4096) need ac how)

/-- The lowest failing page, with its sub-cause. -/
def pageFault (l : List (Nat × Except Nat (Nat × BitVec 64))) : Option (Nat × Nat) :=
  l.foldl (fun m e => match e.2 with
    | .error sub => (match m with
      | none => some (e.1, sub)
      | some (p, q) => if e.1 < p then some (e.1, sub) else some (p, q))
    | .ok _ => m) none

def pagePa (l : List (Nat × Except Nat (Nat × BitVec 64))) (va : Nat) : Option Nat :=
  (l.find? fun e => e.1 == va / 4096).bind fun e => match e.2 with
    | .ok (pa, _) => some (pa + va % 4096)
    | .error _ => none

/-- The bytes of runs, read from a snapshot and the stores of the store path that it contains. -/
def readRuns (snap : Mem) (own : List Egress) (ac : BitVec 2) (free : Nat) (l : List (Nat × Except Nat (Nat × BitVec 64)))
    (runs : List (Option Nat × Nat)) : List Byte :=
  runs.flatMap fun g => match g.1 with
    | some va => readOwn snap own ac free va g.2 (pagePa l)
    | none => tab g.2 fun _ => 0

/-- The lowest address of a run on a page. -/
def runAddr (runs : List (Option Nat × Nat)) (pg : Nat) : Nat :=
  (runs.filterMap fun g => g.1.bind fun va =>
    if g.2 = 0 || pg < va / 4096 || (va + g.2 - 1) / 4096 < pg then none else some (max va (pg * 4096))).foldl
      (fun m a => if m = 0 then a else min m a) 0

/-- A command's list of entries is checked and translated before any is sent (R232): the entries, or the failure
with the index and address of the entry. -/
def State.checkBatch (s : State) (a : Agent) (k : Cmd) (aop : AtomOp) (n : Nat) :
    Except (Nat × Nat × Nat × Nat) (List AtomicE) :=
  (tab n id).foldl (fun (r : Except (Nat × Nat × Nat × Nat) (List AtomicE)) j => match r with
    | .error e => .error e
    | .ok l =>
      let w := (batchEntry k.aux j).toNat
      let tgt := w % 2 ^ 57
      let opnd : BitVec 64 := BitVec.ofNat 64 (w / 2 ^ 64)
      let e : AtomicE := { id := s.nextId + j, agent := a, cmd := k.id, idx := j, op := aop, tgt := tgt, pa := none,
                           opnd := opnd, ret := w / 2 ^ 63 % 2 == 1, sent := s.wall }
      let ctr := aop.onCounter
      let al := if aop == .cas || aop == .fadd then 4 else 8
      if w / 2 ^ 57 % 64 ≠ 0 || (ctr && 2 ^ 32 ≤ tgt) || (!ctr && tgt % al ≠ 0) || (aop == .cclr && opnd != 0) then
        .error (0x03, 0, j, tgt)
      else if ctr then
        (if s.handleOk a (BitVec.ofNat 64 tgt) then .ok (l ++ [e]) else .error (0x10, 0, j, 0))
      else match s.translate (s.cmdCtx a k) tgt .rdwr (some k.ac) .any with
        | .error sub => .error (0x0A, sub, j, tgt)
        | .ok (pa, pte) => .ok (l ++ [{ e with pa := if pteMs pte = 1 || s.switching pa then none else some pa }])) (.ok [])

/-- The counter that a batch adds to, if any. -/
def CopyOp.batCtr : CopyOp → Option (BitVec 32)
  | .xbat _ _ _ c => c
  | _ => none

/-- The record of an `xenq` reaches its launch queue (R237): +1, or +2^32 when the queue is full; a slot that does not
translate fails under R218, and a page that moves or is not reachable makes the write wait (R347, R371). -/
def State.xenqAppend (s : State) (a : Agent) (c : Core) (k : Cmd) (q : Nat) (h : BitVec 32) :
    Host.Outcome State Fault Refusal :=
  let taken : State := s.setCore a (c.setCmd { k with aux := [] })
  let full := taken.postCtr h (.add (BitVec.ofNat 64 (2 ^ 32))) (.cmd a k.id)
  match s.vfOf a with
  | none => .next full
  | some v =>
    let lq := (s.vf v).queue q
    if lq.xenqFull then .next full
    else
      let ctx : Ctx := { s.cmdCtx a k with asid := (s.vf v).asid.toNat }
      let va := lq.slot lq.tail
      match s.translate ctx va .wr (some k.ac) .any with
      | .error sub => .next (s.setCore a (c.setCmd { k with failed := some (0x0A, BitVec.ofNat 8 sub, 0, va) }))
      | .ok (pa, pte) =>
        if s.writeWaits pa pte || !s.planeFree pa then notEnabled "COPY_PIECE_ARRIVAL"
        else .next (((taken.acceptWide pa (k.aux.map some)).modVf v fun x => x.modQueue q fun y =>
          y.produce (y.tail + 1) s.wall).postCtr h (.add 1) (.cmd a k.id))

/-- Where a batched-atomic entry on a G word executes now (R347): where its check translated it to, or, when its leaf was
moving then, where it translates to once the leaf is stable. An entry whose command is gone executes no more (R281), and from
one that failed on, a batch waits for its repair (R371). -/
def State.atomTarget (s : State) (e : AtomicE) : Option Nat :=
  match (s.core? e.agent).bind fun c => c.cmd? e.cmd with
  | none => none
  | some k =>
    if k.failed.any fun f => decide (f.2.2.1 ≤ e.idx) then none
    else match e.pa with
    | some pa => if s.portDown pa then none else some pa
    | none => match s.translate (s.cmdCtx e.agent k) e.tgt .rdwr none .any with
      | .ok (pa, pte) => if s.writeWaits pa pte then none else some pa
      | .error _ => none

/-- COPY_PIECE_ARRIVAL (R217, R218, R232, R237): the bytes of a piece of G or H are here, or its failure is known; for a
batch of atomics, its entries are checked and translated, and sent, or the word of an entry reads as poison (R371); the record
of an `xenq` reaches its queue. -/
def execCopyPieceArrival (a : Agent) (id piece : Nat) (res : PieceRes) (s : State) :
    Host.Outcome State Fault Refusal :=
  match (s.core? a).bind fun c => (c.cmd? id).map fun k => (c, k) with
  | none => notEnabled "COPY_PIECE_ARRIVAL"
  | some (c, k) =>
    let q := k.piece piece
    let put (q : Piece) : Host.Outcome State Fault Refusal := .next (s.setCore a (c.setCmd (k.setPiece q)))
    match k.op with
    | .xbat aop _ n _ =>
      if res = .poison then
        (match s.atoms.find? fun e => e.agent == a && e.cmd == id && e.idx == piece && !e.op.onCounter with
        | some e =>
          if ((s.atomTarget e).map isFar).getD false then
            .next (s.setCore a (c.setCmd { k with failed := some (0x0B, 0, piece, e.tgt) }))
          else notEnabled "COPY_PIECE_ARRIVAL"
        | none => notEnabled "COPY_PIECE_ARRIVAL")
      else if !k.started || Cmd.hasPhase c id 0 || k.failed.isSome || k.total = 0 || k.outstanding ≠ 0 || k.next ≠ 0 then
        notEnabled "COPY_PIECE_ARRIVAL"
      else match s.checkBatch a k aop n with
      | .error (cause, sub, j, addr) =>
        .next (s.setCore a (c.setCmd { k with failed := some (BitVec.ofNat 8 cause, BitVec.ofNat 8 sub, j, addr) }))
      | .ok es =>
        let rets := (es.filter (·.ret)).length
        .next ({ s with nextId := s.nextId + n, atoms := s.atoms ++ es }.setCore a
          (c.setCmd { k with outstanding := n, next := 0, total := ceilDiv rets 8 }))
    | .xenq _ q h =>
      if !k.started || Cmd.hasPhase c id 0 || k.failed.isSome || k.aux.isEmpty || piece ≠ 0 then
        notEnabled "COPY_PIECE_ARRIVAL"
      else match res with
        | .done _ => s.xenqAppend a c k q h
        | _ => notEnabled "COPY_PIECE_ARRIVAL"
    | _ =>
      if !k.started || !k.op.reads || k.total ≤ piece || piece < k.next || q.data.isSome || q.failed.isSome ||
          Cmd.hasPhase c id 2 then notEnabled "COPY_PIECE_ARRIVAL"
      else
        let runs := k.source piece
        match res with
        | .iommu =>
          if k.op.host then put { q with walking := false, failed := some (0x0A, 4, (runs.filterMap (·.1)).headD 0) }
          else notEnabled "COPY_PIECE_ARRIVAL"
        | .refused => notEnabled "COPY_PIECE_ARRIVAL"
        | .poison =>
          let pages := s.pagesOf (s.cmdCtx a k) .rd (some k.ac) (.of q.cached) runs
          let far := pages.any fun e => ((pagePa pages (e.1 * 4096)).map isFar).getD false
          if !k.op.host && far && (pageFault pages).isNone then
            put { q with walking := false, failed := some (0x0B, 0, (runs.filterMap (·.1)).headD 0) }
          else notEnabled "COPY_PIECE_ARRIVAL"
        | .done _ =>
          if k.op.host then
            (if runs.any fun g => !s.hostFree (g.1.getD 0) g.2 then notEnabled "COPY_PIECE_ARRIVAL"
            else put { q with walking := false, data := some (runs.flatMap fun g => (s.hostMem (s.vfOf a)).read (g.1.getD 0) g.2) })
          else
            let pages := s.pagesOf (s.cmdCtx a k) .rd (some k.ac) (.of q.cached) runs
            match pageFault pages with
            | some (pg, sub) =>
              put { q with walking := false, failed := some (0x0A, BitVec.ofNat 8 sub, runAddr runs pg) }
            | none =>
              if pages.any fun e => ((pagePa pages (e.1 * 4096)).map fun pa => s.portDown pa || !s.pageFree pa).getD false then
                notEnabled "COPY_PIECE_ARRIVAL"
              else
                let piece := k.setPiece { q with walking := false, data := some (readRuns k.snap k.own k.ac s.free pages runs) }
                .next { s.setCore a (c.setCmd piece) with free := s.free + 1 }

/-- An earlier entry of the store buffer holds bytes of the same granule (R246, R251). -/
def blockedEntry (buf : List (Nat × Nat × List Byte)) (n : Nat) : Bool :=
  match buf[n]? with
  | some e => (buf.take n).any fun f => f.2.1 / 64 == e.2.1 / 64
  | none => true

/-- Memory has accepted an entry of a spill (R234). -/
def Core.spilledAt (c : Core) (k : Cmd) (va : Nat) (bytes : List Byte) : Core :=
  match k.op with
  | .xrsp .. =>
    let e : Egress := { va := va, bytes := bytes.map some, ac := k.ac, iss := k.iss, word := k.word, baddr := k.baddr,
                        cap := 0, inPath := true, failed := none }
    { c with spills := (c.spills.filter fun f => f.va != va) ++ [e] }
  | _ => c

/-- STORE_BUFFER_ACCEPT (R217, R251, R347): memory accepts entry `n` of a command's store buffer, or refuses it. -/
def execStoreBufferAccept (a : Agent) (id n : Nat) (res : PieceRes) (s : State) : Host.Outcome State Fault Refusal :=
  match (s.core? a).bind fun c => (c.cmd? id).map fun k => (c, k) with
  | none => notEnabled "STORE_BUFFER_ACCEPT"
  | some (c, k) =>
    match k.buf[n]? with
    | none => notEnabled "STORE_BUFFER_ACCEPT"
    | some (idx, va, bytes) =>
      let accepted := c.setCmd { k with buf := k.buf.eraseIdx n }
      let fail (cause sub : Nat) : Host.Outcome State Fault Refusal :=
        let worse := match k.failed with
          | some (_, _, j, _) => decide (j ≤ idx)
          | none => false
        .next (s.setCore a (c.setCmd (if worse then k else
          { k with failed := some (BitVec.ofNat 8 cause, BitVec.ofNat 8 sub, idx, va) })))
      if blockedEntry k.buf n || (k.failed.any fun f => decide (f.2.2.1 ≤ idx)) then notEnabled "STORE_BUFFER_ACCEPT"
      else match res with
      | .iommu => if k.op.host then fail 0x0A 4 else notEnabled "STORE_BUFFER_ACCEPT"
      | .refused | .poison => notEnabled "STORE_BUFFER_ACCEPT"
      | .done _ =>
        if k.op.host then
          (if s.planeFree va then .next ((s.setCore a accepted).hostWrite (s.vfOf a) va bytes) else notEnabled "STORE_BUFFER_ACCEPT")
        else if 2 ^ 57 ≤ va then fail 0x0A 1
        else match s.translate (s.cmdCtx a k) va .wr (some k.ac) .any with
        | .error sub => fail 0x0A sub
        | .ok (pa, pte) =>
          if s.writeWaits pa pte || !s.planeFree pa then notEnabled "STORE_BUFFER_ACCEPT"
          else .next ((s.setCore a (accepted.spilledAt k va bytes)).acceptWide pa (bytes.map some))

/-- The failure of a command that can be taken in cycle `now`: of the piece that is due, or of one with no due cycle
once every earlier piece has performed (R218). -/
def Cmd.failure (c : Core) (k : Cmd) (now : Nat) : Option (BitVec 8 × BitVec 8 × Nat × Nat) :=
  if k.reported then none
  else match k.failed with
  | some f => if k.buf.all fun e => decide (f.2.2.1 ≤ e.1) then some f else none
  | none =>
    if c.pend.any fun p => p.due ≤ now && p.act == .cmd k.id 1 k.next then
      (k.piece k.next).failed.map fun f => (f.1, f.2.1, k.next, f.2.2)
    else none

/-- COPY_DEFERRED_FAILURE (R218): the failure of a running command is taken, with its progress index. -/
def execCopyDeferredFailure (a : Agent) (id : Nat) (s : State) : Host.Outcome State Fault Refusal :=
  match (s.core? a).bind fun c => (c.cmd? id).bind fun k => (Cmd.failure c k (s.now a)).map fun f => (c, k, f) with
  | none => notEnabled "COPY_DEFERRED_FAILURE"
  | some (c, k, (cause, sub, idx, addr)) =>
    .next (s.setCore a ((c.setCmd { k with reported := true }).raiseLate k.word k.baddr
      { cause := cause.toNat, sub := sub.toNat, addr := addr, aux0 := BitVec.ofNat 64 idx }))

/-- The repair of a resumption (R218, R276): a failed piece is fetched or written again. -/
def Cmd.repair (k : Cmd) : Cmd :=
  { k with reported := false, failed := none,
           pieces := k.pieces.map fun p =>
             if p.failed.isSome then { p with failed := none, data := none, walking := true } else p }

/-! ## Arrivals (R228) -/

/-- Another granule of the same block of a product is still to be written. -/
def State.blockOpen (s : State) (g : Granule) : Bool :=
  g.blk.isSome && s.flight.any fun h => h.id != g.id && h.blk == g.blk

/-- A granule is written: its bytes, then its counter add, or its block's after the block's last granule (R212, R228,
R242). -/
def State.writeGranule (s : State) (g : Granule) : State :=
  let whole := !s.blockOpen g
  let s := { s with flight := s.flight.filter fun h => h.id != g.id }.modCore g.dst fun c =>
    { c with bank := c.bank.write g.addr g.data }
  match g.ctr with
  | some h => if whole then s.postCtr h (.add (BitVec.ofNat 64 g.amt)) g.src else s
  | none => s.appliedFor g.src

/-- ARRIVAL_RECEIVED (R228): a granule reaches the wall's arrival port; it is eligible from the next VCC cycle. A granule
for a wall that no task holds changes nothing that a program can read, and its counter add applies (log 24). -/
def execArrivalReceived (id : Nat) (s : State) : Host.Outcome State Fault Refusal :=
  match s.flight.find? fun g => g.id == id with
  | some g =>
    if g.since.isSome then notEnabled "ARRIVAL_RECEIVED"
    else match s.core? g.dst with
    | none => .next (s.writeGranule g)
    | some _ =>
      .next { s with flight := (s.flight.filter fun h => h.id != id) ++ [{ g with since := some (s.now g.dst + 1) }] }
  | none => notEnabled "ARRIVAL_RECEIVED"

/-- Group and banks of a granule. -/
def Granule.banks (g : Granule) : Nat × BitVec 1024 := (g.addr / 4096 % 4, bankMask g.addr g.data.length)

/-- The banks of a granule are free of this cycle's scheduled accesses. -/
def Granule.fits (g : Granule) (acc : List Access) : Bool :=
  acc.all fun a => a.grp != g.banks.1 || (a.banks &&& g.banks.2) == 0

/-- Two granules share a bank, which writes one of them in a cycle (R70). -/
def Granule.meets (g h : Granule) : Bool := g.banks.1 == h.banks.1 && (g.banks.2 &&& h.banks.2) != 0

/-- The granules that a port writes in one cycle: up to 8 in the order of the list, one at most in each bank (R70,
R228). -/
def portChoice : List Granule → List Granule → List Granule
  | acc, [] => acc
  | acc, g :: l => portChoice (if acc.length < 8 && !acc.any g.meets then acc ++ [g] else acc) l

/-- Up to 8 of a list of granules are written. -/
def State.writeUpTo8 (s : State) (l : List Granule) : State := (portChoice [] l).foldl (fun s g => s.writeGranule g) s

/-- The arrival port of a core in a VCC cycle `now`, beside its scheduled accesses. -/
def State.arrivalPort (s : State) (a : Agent) (now : Nat) : State :=
  match s.core? a with
  | none => s
  | some c => s.writeUpTo8 (s.flight.filter fun g =>
      g.dst == a && (g.since.any fun n => decide (n ≤ now)) && g.fits (c.acc70.take (c.acc70.length - c.old70)))

/-- The arrival port while no scheduled access exists: held, suspended or waiting (R23, R228). -/
def State.arrivalFree (s : State) (a : Agent) : State :=
  s.writeUpTo8 (s.flight.filter fun g => g.dst == a && g.since.isSome)

/-- A granule is overdue at the boundary before VCC cycle `next`: eligible since n0 and unwritten after n0 + 7. -/
def Granule.overdue (g : Granule) (next : Nat) : Bool := g.since.any fun n => decide (n + 8 ≤ next)

/-- The troupe must steal a cycle before VCC cycle adv + 1. -/
def State.stealNeeded (s : State) (t : Nat) : Bool :=
  match s.troupe? t with
  | some tr => s.flight.any fun g => (match g.dst with
      | .core t' _ => t' == t
      | .mgmt _ => false) && g.overdue (tr.adv + 1)
  | none => false

/-- STOLEN_BANK_CYCLE (R228): in a held wall cycle under cause 0x6 each port writes up to 8 granules, the overdue
ones first. -/
def execStolenBankCycle (t : Nat) (s : State) : Host.Outcome State Fault Refusal :=
  match s.troupe? t with
  | some tr =>
    if !s.stealNeeded t then notEnabled "STOLEN_BANK_CYCLE"
    else .next ((tab tr.cores.length id).foldl (fun s r =>
      let mine := s.flight.filter fun g => g.dst == .core t r && g.since.isSome
      s.writeUpTo8 ((mine.filter fun g => g.overdue (tr.adv + 1)) ++ mine.filter fun g => !g.overdue (tr.adv + 1))) s)
  | none => notEnabled "STOLEN_BANK_CYCLE"

/-! ## Messages and returns (R231, R232) -/

/-- MESSAGE_DELIVERY (R231, R80): an inbound message is appended to its queue, when there is room and the task is
bound; messages of one sender to one queue keep their order. -/
def execMessageDelivery (id : Nat) (s : State) : Host.Outcome State Fault Refusal :=
  match s.inMsgs.find? fun m => m.id == id with
  | none => notEnabled "MESSAGE_DELIVERY"
  | some m =>
    let q := 2 + m.ch
    match s.core? (.core m.trp m.rank) with
    | none => notEnabled "MESSAGE_DELIVERY"
    | some c =>
      let first := (s.inMsgs.find? fun n => n.trp == m.trp && n.rank == m.rank && n.ch == m.ch && n.src == m.src).map
        (·.id) == some id
      if !first || qDepth q ≤ (vget [] c.q q).length || ((s.troupe? m.trp).map (·.loading)).getD true then
        notEnabled "MESSAGE_DELIVERY"
      else .next ({ s with inMsgs := s.inMsgs.filter fun n => n.id != id }.setCore (.core m.trp m.rank)
        { c with q := vmod [] c.q q fun l => l ++ [m.data] })

/-- The operators of R233 on a G word: the new value. -/
def atomNew (op : AtomOp) (old opnd : BitVec 64) : BitVec 64 :=
  match op with
  | .add => old + opnd
  | .and' => old &&& opnd
  | .or' => old ||| opnd
  | .xor' => old ^^^ opnd
  | .smin => if old.slt opnd then old else opnd
  | .smax => if old.slt opnd then opnd else old
  | .umin => if old.ult opnd then old else opnd
  | .umax => if old.ult opnd then opnd else old
  | .swap => opnd
  | .cas => if old.truncate 32 = (opnd.truncate 32 : BitVec 32) then opnd >>> 32 else old
  | .fadd => ((addExact (f32 (old.truncate 32)) (f32 (opnd.truncate 32))).1).zeroExtend 64
  | .cadd => old + opnd
  | .cclr => old

/-- The old values of the next 8 RET entries of a batch go to q7, if all of them are known; the last entry is padded
(R232). A management core has no queues, so its values go nowhere (R403; log 20). -/
def State.emitReturn (s : State) (a : Agent) (id : Nat) : State :=
  match (s.core? a).bind fun c => (c.cmd? id).map fun k => (c, k) with
  | some (c, k) =>
    let n := k.aux.length / 16
    let order := (tab n fun i => i).filter fun j => (batchEntry k.aux j).toNat / 2 ^ 63 % 2 = 1
    let grp := (order.drop (8 * k.next)).take 8
    let vals := grp.map fun j => (k.rets.find? fun e => e.1 == j).map (·.2)
    if grp.isEmpty || vals.any Option.isNone then s
    else
      let words : List (BitVec 32) := (vals.map fun v => v.getD 0).flatMap fun (w : BitVec 64) =>
        [w.truncate 32, (w >>> 32).truncate 32]
      let data := words ++ tab (16 - words.length) fun _ => 0
      let s := s.setCore a (c.setCmd { k with next := k.next + 1 })
      match a with
      | .core t r =>
        let m : InMsg := { id := s.nextId, trp := t, rank := r, ch := 5, data := data, src := .cmd a id }
        { s.fresh with inMsgs := s.inMsgs ++ [m] }
      | .mgmt _ => s
  | none => s

/-- The entries of q7 that a batch of at most 256 has ready leave in list order. -/
def State.emitReturns (s : State) (a : Agent) (id : Nat) : State :=
  (tab 32 fun i => i).foldl (fun s _ => s.emitReturn a id) s

/-- BATCHED_ATOMIC_EXECUTE (R232, R233, R242, R405): one entry executes at its engine, after the earlier ones to its
target. -/
def execBatchedAtomicExecute (id : Nat) (s : State) : Host.Outcome State Fault Refusal :=
  match s.atoms.find? fun e => e.id == id with
  | none => notEnabled "BATCHED_ATOMIC_EXECUTE"
  | some e =>
    let first := (s.atoms.find? fun f => f.agent == e.agent && f.cmd == e.cmd && f.tgt == e.tgt).map (·.id) == some id
    let gone := { s with atoms := s.atoms.filter fun f => f.id != id }
    let ret (s : State) (v : BitVec 64) : State :=
      if e.ret then
        (s.modCore e.agent fun c => { c with cmds := c.cmds.map fun k =>
          if k.id = e.cmd then { k with rets := k.rets ++ [(e.idx, v)] } else k }).emitReturns e.agent e.cmd
      else s
    let ctr := ((s.core? e.agent).bind fun c => c.cmd? e.cmd).bind fun k => k.op.batCtr
    let counted (s : State) : State := match ctr with
      | some h => s.postCtr h (.add 1) (.cmd e.agent e.cmd)
      | none => s.appliedFor (.cmd e.agent e.cmd)
    if !first then notEnabled "BATCHED_ATOMIC_EXECUTE"
    else if e.op.onCounter then
      let h : BitVec 32 := BitVec.ofNat 32 e.tgt
      let o : CtrOp := { id := id, handle := h, kind := .clear, src := .cmd e.agent e.cmd, sent := e.sent }
      if s.ctrMoving h || !s.ctrOpen o then notEnabled "BATCHED_ATOMIC_EXECUTE"
      else match s.ctr? h with
      | none => .next ((ret gone 0).refuseCtr o 0x13)
      | some k =>
        if k.lost then .next ((ret gone 0).refuseCtr o 0x11)
        else if e.op == .cadd then .next (counted (ret ((gone.setCtr (k.add e.opnd.toNat)).engineOp h) k.value))
        else .next (counted (ret ((gone.setCtr k.clear).engineOp h) (k.ovr.zeroExtend 64)))
    else
      match s.atomTarget e with
      | none => notEnabled "BATCHED_ATOMIC_EXECUTE"
      | some pa =>
        if !s.planeOpen pa e.sent then notEnabled "BATCHED_ATOMIC_EXECUTE"
        else
        let n := if e.op == .cas || e.op == .fadd then 4 else 8
        let old : BitVec 64 := BitVec.ofNat 64 (s.latest.num pa n)
        let new := atomNew e.op old e.opnd
        .next (counted (ret ((gone.poolAdd (dieOf pa) 0x23 1).acceptAtomic pa ((leBytes n new.toNat).map some)) old))

/-- The counter of a trigger holds its target (R236). -/
def State.trigDue (s : State) (t : Trig) : Bool :=
  (s.ctr? t.handle).any fun c => !c.lost && !c.value.ult t.target && !s.ctrMoving t.handle

/-- Every named port swaps its active bank (R367). -/
def State.swapFor (s : State) (t : Trig) : State :=
  { s with trigs := s.trigs.filter fun u => u.id != t.id,
           ports := gen 16 fun q =>
             let p := s.port q
             if t.ports.getLsbD q then { p with act := !p.act } else p }

/-- Every trigger whose counter holds its target fires, in the wall cycle of the add that reached it (R236, R375). -/
def State.fireTrigs (s : State) : State := s.trigs.foldl (fun s t => if s.trigDue t then s.swapFor t else s) s

/-- ROUTE_SWAP (R236, R367): a trigger fires. -/
def execRouteSwap (id : Nat) (s : State) : Host.Outcome State Fault Refusal :=
  match s.trigs.find? fun t => t.id == id with
  | none => notEnabled "ROUTE_SWAP"
  | some t => if s.trigDue t then .next (s.swapFor t) else notEnabled "ROUTE_SWAP"

end Sys2Proof.Machine
end

