-- ==== Sys2Proof/Machine/Handles.lean ====
section
/-!
DEFINITION. Handing buffers on: `hgive` and `htake` (R132, R195, R216).
-/

namespace Sys2Proof.Machine

/-! ## What a core has still to touch (R195, R216) -/

/-- Local ranges that a pending matrix effect, or a catch whose operand follows R216 (R238), has still to touch. -/
def Core.actRange (c : Core) : Act → List (Nat × Nat)
  | .aRow q i => (c.passes.filter fun z => z.id == q).map fun z => (z.addr + i * z.rowBytes, z.rowBytes)
  | .wRow k => match c.wload with
    | none => []
    | some l =>
      let w := (fmtOf l.f).width
      if l.mode = 1 then []
      else if fmtCode l.f = 9 then tab (bpiPlanes l.f).1 fun j => (l.addr + j * 2048 + k * 16, 16)
      else if l.mode = 2 then [if k = 0 then (l.addr + 2048 * w, 4096) else (l.addr + (k - 1) * 16 * w, 16 * w)]
      else [(l.addr + k * 16 * w, 16 * w)]
  | .dAcc d j | .dRes d j _ => (c.drains.filter fun z => z.id == d).flatMap fun z =>
      [(z.addr + j * z.rowBytes, z.rowBytes)] ++ (z.res.toList.map fun q => (q + j * z.rowBytes, z.rowBytes))
  | .dOut d j _ _ _ _ => (c.drains.filter fun z => z.id == d).map fun z => (z.addr + j * z.rowBytes, z.rowBytes)
  | .rRow d j => (c.drains.filter fun z => z.id == d).map fun z => (z.addr + j * 1024, 1024)
  | .gemvA g i => (c.gemv.filter fun z => z.id == g).map fun z =>
      let total := z.k * (fmtOf z.f).width / 8
      (z.a + 4096 * i, min 4096 (total - 4096 * i))
  | .catch' a _ _ _ => [(a, 4096)]
  | _ => []

/-- The map or list that a command has still to read, and the command with its number of pieces. Until S the buffers that
a map or list will name are not part of the footprint (R226, R227). -/
def Cmd.mapped (k : Cmd) : List (Nat × Nat) × Cmd :=
  match k.op with
  | .xwin _ _ mp _ _ => (if k.total = 0 then [(mp, 32)] else [], k)
  | .xrows _ _ _ mp =>
    (if k.total = 0 then [(mp, 16)] else [(mp + k.aux.length, 16 + 4 * listNr k.aux - k.aux.length)], k)
  | _ => ([], if k.started then k else { k with total := k.op.count })

/-- Local ranges that an accepted command has still to touch. -/
def Core.cmdRanges (c : Core) (k : Cmd) : List (Nat × Nat) :=
  let (m, k) := k.mapped
  let rest := tab (k.total - k.next) fun i => k.next + i
  m ++ (rest.filterMap fun i => k.dest i) ++
    (match k.op with
      | .xget dst _ l _ => [(dst, l)]
      | _ => []) ++
    rest.filterMap fun i =>
      if k.started && !c.pend.any (fun p => p.act == .cmd k.id 0 i) then none else k.origin i

/-- A pending matrix operation or accepted command of the core has still to touch its buffer n. -/
def Core.mustTouch (c : Core) (n : Nat) : Bool :=
  let land := c.gemv.flatMap fun g => if g.rem then [] else [(g.land + 512 * g.next, 512 * (g.nb - g.next))]
  let all := (c.pend.flatMap fun p => c.actRange p.act) ++ c.sweep.cmds.flatMap c.cmdRanges ++ land
  all.any fun r => r.2 != 0 && decide (r.1 < 65536 * (n + 1)) && decide (65536 * n < r.1 + r.2)

/-- HGIVE (R132); a handle fault has the buffer's number as its address, and so has that of `htake` (DESIGN CHOICE,
log 69). -/
def execHgive (pd : Pd) (a b : SReg) (s : State) : Host.Outcome State Fault Refusal :=
  coreWord pd (some 0x01) s fun x =>
    let id := x.core.rs a
    let dst := x.core.rs b
    if !bufOk id || 4 ≤ dst.toNat then .exc illegalOperand
    else
      let o := id.toNat / 128
      let n := id.toNat % 128
      if s.holderOf x.ag x.core o n ≠ x.core.loc % 4 || (s.ringCore x.ag x.core dst.toNat).isNone then
        .exc (handleFault id.toNat)
      else if o = x.core.loc % 4 && x.core.mustTouch n then .exc (handleFault id.toNat)
      else .done (x.core.sched x 1 (.holder o n dst.toNat))

/-- HTAKE (R132). -/
def execHtake (pd : Pd) (a : SReg) (s : State) : Host.Outcome State Fault Refusal :=
  coreWord pd (some 0x01) s fun x =>
    let id := x.core.rs a
    if !bufOk id then .exc illegalOperand
    else if id.toNat / 128 ≠ x.core.loc % 4 then .exc (handleFault id.toNat)
    else if s.holderOf x.ag x.core (id.toNat / 128) (id.toNat % 128) = x.core.loc % 4 &&
        x.core.mustTouch (id.toNat % 128) then .exc (handleFault id.toNat)
    else .done (x.core.sched x 1 (.holder (id.toNat / 128) (id.toNat % 128) (x.core.loc % 4)))

end Sys2Proof.Machine
end

