-- ==== Sys2Proof/Machine/Calliope.lean ====
section
/-!
DEFINITION. The Calliope buses (R30, R238, R239).
-/

namespace Sys2Proof.Machine

/-- The die of an agent's bus, its troupe, its alignment, and the count in which troupe mates are matched. -/
structure BusSide where
  die : Nat
  trp : Option Nat
  unal : Bool
  adv : Nat
  deriving DecidableEq, Repr

def State.busSide (s : State) (a : Agent) (c : Core) : BusSide :=
  match a with
  | .core t _ => { die := c.die, trp := some t, unal := ((s.troupe? t).map (·.unal)).getD false, adv := s.now a }
  | .mgmt m => { die := 8 + m, trp := none, unal := false, adv := s.now a }

/-- The die whose bus span position `p` of an agent's troupe uses. -/
def State.dieAt (s : State) (a : Agent) (p : Nat) : Nat :=
  match a with
  | .core t _ => (((s.troupe? t).bind fun tr => tr.cores.find? fun k => k.spos == p).map (·.die)).getD 0
  | .mgmt m => 8 + m

/-! ## What meets on a bus in one wall cycle (R30, R239, R277)

The words of a wall cycle act together, and the model runs them one by one; so a bundle's `cdrive` and `ccatch` wait until
every other word of the wall cycle has run, and are judged together before the first of them takes effect. -/

/-- A word that holds `cdrive` or `ccatch`. -/
def isCalliope (w : Nat) (word : Nat) : Bool :=
  match decodeSlot w word with
  | .ok (.cdrive ..) => true
  | .ok (.ccatch ..) => true
  | _ => false

/-- A bundle of the troupe waits for its Calliope words. -/
def Troupe.anyLate (tr : Troupe) : Bool := tr.cores.any fun c => c.late.isSome

def State.anyLate (s : State) : Bool := s.troupes.any Troupe.anyLate

/-- The lowest word from 2 to 7 whose DONE bit is 0. -/
def Core.nextUndone (c : Core) : Nat := ([2, 3, 4, 5, 6, 7].find? fun w => !c.done.getLsbD w).getD 8

/-- A Calliope word that would act: its place, the die of its bus, and whether it drives. -/
structure BusOp where
  t : Nat
  r : Nat
  w : Nat
  die : Nat
  drive : Bool
  deriving DecidableEq, Repr

/-- The bank access of a drive (R238). -/
def driveAccess (ag : Agent) (now w baddr src : Nat) : Access :=
  spanAccess (posOf ag) { due := now, iss := now, word := w, baddr := baddr, act := .flagsOnly, flags := 0, rtn := none }
    src 4096 false

/-- The checks that a drive makes by itself (R216, R70). -/
def Core.driveFault (c : Core) (ag : Agent) (now w : Nat) (a : SReg) : Option Exc :=
  let src := (c.rs a).toNat
  match c.copyFoot 4096 src 4096 with
  | some e => some e
  | none => if c.acc70.any fun z => (driveAccess ag now w c.pc src).clash z then some structural else none

/-- The checks that a catch makes by itself (R216, R238). -/
def State.catchFault (s : State) (ag : Agent) (c : Core) (a : SReg) (pos : BitVec 3) : Option Exc :=
  if (s.shapeOf ag).2 ≤ pos.toNat then some illegalOperand else c.copyFoot 4096 (c.rs a).toNat 4096

/-- What word w of the bundle at a core's pc would do on a bus, if it is to act and passes its own checks. -/
def State.busOp (s : State) (t r : Nat) (c : Core) (w : Nat) : Option BusOp :=
  let a : Agent := .core t r
  if c.failed || c.done.getLsbD w || c.stop.any fun k => decide (k ≤ w) then none
  else match decodeSlot w ((s.stream a).word c.pc w) with
    | .ok (.cdrive pd x) =>
      if c.on pd && (c.driveFault a (s.now a) w x).isNone then some ⟨t, r, w, c.die, true⟩ else none
    | .ok (.ccatch pd x pos) =>
      if c.on pd && (s.catchFault a c x pos).isNone then some ⟨t, r, w, s.dieAt a pos.toNat, false⟩ else none
    | _ => none

/-- A record keeps a bus from a drive of troupe t in cycle `now`: one of this wall cycle (R239), or the troupe's own of the
same VCC cycle, which a re-issued drive meets (R277). -/
def State.busTaken (s : State) (die t now : Nat) : Bool :=
  s.bus.any fun r => r.die == die && (r.wall == s.wall || (decide (die < 8) && r.trp == t && r.adv == now))

/-- The cause with which the words `l` that act in one wall cycle meet `o` among them: structural where two drives meet
(R239, R277), timing where a drive and a catch of two troupes meet and R30 finds one of them unaligned. -/
def State.busCause (s : State) (l : List BusOp) (o : BusOp) : Option Nat :=
  let unal (t : Nat) : Bool := ((s.troupe? t).map (·.unal)).getD false
  let drives := l.filter fun q => q.drive && q.die == o.die
  if o.drive then
    if (drives.any fun q => q != o) || s.busTaken o.die o.t (s.now (.core o.t o.r)) then some 4
    else if l.any fun q => !q.drive && q.die == o.die && q.t != o.t && (unal o.t || unal q.t) then some 5
    else none
  else if drives.length == 1 && (drives.any fun q => q.t != o.t) && unal o.t then some 5
  else none

/-- The faults of the words set aside. A core's first word there counts; its second counts where the first raises nothing,
for a word that faults keeps the higher ones from acting (R274). -/
def State.busPlan (s : State) : List (BusOp × Nat) :=
  let ops := (s.troupes.mapIdx fun t tr => (tr.cores.mapIdx fun r c =>
    if c.late.isSome then [6, 7].filterMap fun w => s.busOp t r c w else []).flatten).flatten
  let first := ops.filter fun o => !ops.any fun q => q.t == o.t && q.r == o.r && decide (q.w < o.w)
  let second := (ops.filter fun o => !first.contains o).filter fun o =>
    first.any fun q => q.t == o.t && q.r == o.r && (s.busCause first q).isNone
  let l := first ++ second
  l.filterMap fun o => (s.busCause l o).map fun k => (o, k)

/-- The judgement reaches the cores. -/
def State.judgeLate (s : State) : State :=
  let plan := s.busPlan
  { s with troupes := s.troupes.mapIdx fun t tr =>
      { tr with cores := tr.cores.mapIdx fun r c =>
          { c with late := c.late.map fun _ => plan.filterMap fun q =>
              if q.1.t = t ∧ q.1.r = r then some (q.1.w, q.2) else none } } }

/-- The next core whose words were set aside, with the word that is next. -/
def State.lateRun (s : State) : Option (Nat × Nat × Nat) :=
  ((s.troupes.mapIdx fun t tr => tr.cores.mapIdx fun r c => (t, r, c)).flatten.find? fun q =>
    q.2.2.late.isSome && !q.2.2.failed && q.2.2.done != 0xFF &&
      !(q.2.2.stop.any fun k => decide (k ≤ q.2.2.nextUndone))).map fun q => (q.1, q.2.1, q.2.2.nextUndone)

/-- The cause that a Calliope word meets on its bus: as judged for a core; a management core's drive, alone on its bus,
meets its own of word 6, or the one that its word 7 would make. -/
def State.busVerdict (s : State) (x : Iss) (drive : Bool) : Option Nat :=
  match x.ag with
  | .core _ _ => ((x.core.late.getD []).find? fun q => q.1 == x.w).map (·.2)
  | .mgmt m =>
    if !drive then none
    else if s.busTaken (8 + m) 0 x.now then some 4
    else match x.w, decodeSlot 7 ((s.stream x.ag).word x.core.pc 7) with
      | 6, .ok (.cdrive pd a) =>
        if !x.core.done.getLsbD 7 && x.core.on pd && (x.core.driveFault x.ag x.now 7 a).isNone then some 4 else none
      | _, _ => none

/-- The timing fault of R30 in a word of the issue cycle. -/
def unaligned : Exc := { cause := 0x05, sub := 2 }

/-- The exception that a verdict is. -/
def busExc (k : Nat) : Exc := if k = 5 then unaligned else structural

/-- CDRIVE (R238, R239): the block is read in bank cycle issue and stands on the bus in this wall cycle; of two
drives that meet, neither stands. -/
def execCdrive (pd : Pd) (a : SReg) (s : State) : Host.Outcome State Fault Refusal :=
  match s.issuer with
  | none => .refused .noIssuer
  | some x =>
    if !x.core.on pd then .next (s.did x x.core)
    else
      let c := x.core.charge 0x13 1
      let src := (c.rs a).toNat
      match c.driveFault x.ag x.now x.w a with
      | some e => .next (s.except x x.core e)
      | none =>
        match s.busVerdict x true with
        | some k => .next (s.except x x.core (busExc k))
        | none =>
          let b := s.busSide x.ag c
          let r : BusRec := { die := b.die, trp := b.trp.getD 0, rank := posOf x.ag, adv := b.adv, wall := s.wall,
                              data := c.bank.read src 4096, word := x.w, baddr := c.pc }
          .next ({ s with bus := s.bus ++ [r] }.did x
            { c with acc70 := driveAccess x.ag x.now x.w c.pc src :: c.acc70 })

/-- CCATCH (R238): the write performs at issue+8 on the own bus, at issue+40 from another one; it takes the record that is
on the bus in this wall cycle, or that its troupe drives in this VCC cycle. -/
def execCcatch (pd : Pd) (a : SReg) (pos : BitVec 3) (s : State) : Host.Outcome State Fault Refusal :=
  match s.issuer with
  | none => .refused .noIssuer
  | some x =>
    if !x.core.on pd then .next (s.did x x.core)
    else
      let c := x.core.charge 0x14 1
      match s.catchFault x.ag c a pos with
      | some e => .next (s.except x x.core e)
      | none =>
        match s.busVerdict x false with
        | some k => .next (s.except x x.core (busExc k))
        | none =>
          let own := pos.toNat == c.spos
          .next (s.did x (c.sched x (if own then 8 else 40)
            (.catch' (c.rs a).toNat (s.dieAt x.ag pos.toNat) s.wall own)))

/-- The record that a catch takes (R238, R277): the one on the bus in its wall cycle, or the one that its own troupe
drove in the VCC cycle of its issue. -/
def State.caught (s : State) (t : Option Nat) (iss die wall : Nat) : Option BusRec :=
  (s.bus.find? fun r => r.die == die && (r.wall == wall || (t == some r.trp && r.adv == iss && decide (r.die < 8)))).bind
    fun r => if r.data.isEmpty then none else some r

/-- The troupe of an agent. -/
def agentTroupe : Agent → Option Nat
  | .core t _ => some t
  | .mgmt _ => none

/-- A caught record is written to a block whose buffer the core holds in that cycle (R82, R239); with none on the bus, the
structural fault of R239. -/
def State.doCatch (s : State) (ag : Agent) (now : Nat) (p : Pend) (a die wall : Nat) : State :=
  match s.core? ag, s.caught (agentTroupe ag) p.iss die wall with
  | none, _ => s
  | _, none => s.modCore ag fun c => c.raiseLate p.word p.baddr structural
  | some _, some r =>
    s.access ag now p (rangeAccs (posOf ag) p a 4096 true) a fun c => { c with bank := c.bank.write a r.data }

/-- Records that no catch can take any more leave the buses (R277). -/
def State.pruneBus (s : State) : State :=
  let waits (r : BusRec) : Bool := s.troupes.any fun tr => tr.cores.any fun c => c.pend.any fun p => match p.act with
    | .catch' _ die w _ => die == r.die && (w == r.wall || p.iss == r.adv)
    | _ => false
  let mgWaits (r : BusRec) : Bool := (tab 2 id).any fun m => (s.mg m).core.pend.any fun p => match p.act with
    | .catch' _ die w _ => die == r.die && w == r.wall
    | _ => false
  { s with bus := s.bus.filter fun r =>
      waits r || mgWaits r || ((s.troupe? r.trp).map fun tr => tr.adv == r.adv).getD false }

end Sys2Proof.Machine
end

