-- ==== Sys2Proof/Machine/Perform.lean ====
section
/-!
DEFINITION. What performs in a cycle (R19, R20): register writes, bank and array accesses, the rows and pieces of the
engines, loads of G that have arrived.
-/

namespace Sys2Proof.Machine

/-! ## Conflicts of writes (R20, R111, R141) -/

/-- The location that an effect writes as a whole: kind and index. Writes of s0 and p0 are discarded (R64). -/
def Act.loc : Act → Option (Nat × Nat)
  | .wS d _ => if d = 0 then none else some (0, d.toNat)
  | .wP d _ => if d = 0 then none else some (1, d.toNat)
  | .wV d _ _ => some (2, d.toNat)
  | .wF f _ => some (3, f.toNat)
  | .wK k _ => some (4, k.toNat)
  | .wX x _ => some (5, x.toNat)
  | .loopc n _ => some (6, n.toNat)
  | .top _ => some (7, 0)
  | .csrRsp _ => some (7, 0)
  | .dyn n _ => some (8, n.toNat)
  | _ => none

/-- The location as a core's own passes and restores name it: an accumulator row (R201, R208), or `Act.loc`. -/
def Core.locOf (c : Core) (a : Act) : Option (Nat × Nat) :=
  match a with
  | .accRow q i _ => (c.passes.find? fun z => z.id == q).map fun z => (9, z.acc * 128 + i)
  | .rDone d j _ => (c.drains.find? fun z => z.id == d).map fun z => (9, z.acc * 128 + j)
  | _ => a.loc

/-- The registers that a load of G writes. -/
def Fetch.locs (f : Fetch) : List (Nat × Nat) :=
  let s (d : BitVec 6) : List (Nat × Nat) := if d = 0 then [] else [(0, d.toNat)]
  match f.kind with
  | .ldg d _ _ => s d
  | .locq d => s d
  | .vldg d _ _ cnt => (2, d.toNat) :: (cnt.map s).getD []
  | .vstg .. => []

def FetchSt.isArrived : FetchSt → Bool
  | .arrived _ => true
  | _ => false

/-- The whole-register writes of a core that are due. -/
def Core.writesDue (c : Core) (now : Nat) : List Wr :=
  ((c.pend.filter fun p => decide (p.due ≤ now)).flatMap fun p => (c.locOf p.act).toList.map fun l =>
    ({ loc := l, iss := p.iss, word := p.word, baddr := p.baddr, rtn := p.rtn } : Wr)) ++
  ((c.fetches.filter fun f => decide (f.due ≤ now) && f.st.isArrived).flatMap fun f => f.locs.map fun l =>
    ({ loc := l, iss := f.iss, word := f.word, baddr := f.baddr, rtn := none } : Wr))

/-- The loser of each meeting of a write with the writes of a list: of two to one location, the one issued later, or in the
higher word. -/
def losersTo (a : Wr) (l : List Wr) : List Wr :=
  (l.filter fun b => b.loc == a.loc).map fun b => if chargedFirst b.iss b.word a.iss a.word then b else a

/-- The losers of the conflicts among writes. -/
def losers : List Wr → List Wr
  | [] => []
  | a :: l => losersTo a l ++ losers l

/-- Structural faults of the writes that meet in this VCC cycle, those that performed in it before a suspension among them
(R20, R111, R276). -/
def State.writeConflicts (s : State) (ag : Agent) (now : Nat) : State :=
  match s.core? ag with
  | none => s
  | some c =>
    let due := c.writesDue now
    ((c.wrote.flatMap fun a => losersTo a due) ++ losers due).foldl (fun s w => s.clashFault ag now w.iss w.word w.baddr w.rtn)
      (s.setCore ag { c with wrote := c.wrote ++ due })

/-! ## Bank and array accesses of the scalar and vector slots (R122, R162, R164) -/

/-- The wall that a scalar access names: the agent that owns it, and its ring index. -/
def State.wallOf (s : State) (ag : Agent) (c : Core) (rc : Option Nat) : Option (Agent × Core × Nat) :=
  match rc with
  | none => some (ag, c, c.loc % 4)
  | some i => (s.ringCore ag c i).map fun k => (k.1, k.2, i)

/-- A ring-view access names another core's wall: a core field that names the issuing core means the local address
(R83; log 18). -/
def Core.otherWall (c : Core) (rc : Option Nat) : Bool := rc.any fun i => i != c.loc % 4

/-- LDB's bank cycle: the value performs at issue+4, or issue+6 from another core's wall (R83). -/
def State.doLdb (s : State) (ag : Agent) (now : Nat) (p : Pend) (d : BitVec 6) (a size : Nat) (sx : Bool)
    (rc : Option Nat) : State :=
  match s.core? ag with
  | none => s
  | some c =>
    match s.wallOf ag c rc with
    | none => s.handleLate ag p a
    | some (w, k, _) =>
      if vget 0 k.holder (a / 65536) ≠ c.loc % 4 then s.handleLate ag p a
      else
        let v := extend size sx (k.bank.num a size)
        (s.useBank w now (spanAccess (posOf ag) p a size false)).modCore ag fun c =>
          { c with pend := c.pend ++ [{ p with due := p.iss + (if c.otherWall rc then 6 else 4), act := .wS d v }] }

def State.doStb (s : State) (ag : Agent) (now : Nat) (p : Pend) (v : BitVec 64) (a size : Nat) (rc : Option Nat) :
    State :=
  match s.core? ag with
  | none => s
  | some c =>
    match s.wallOf ag c rc with
    | none => s.handleLate ag p a
    | some (w, k, _) =>
      if vget 0 k.holder (a / 65536) ≠ c.loc % 4 then s.handleLate ag p a
      else (s.useBank w now (spanAccess (posOf ag) p a size true)).modCore w fun k =>
        { k with bank := k.bank.write a (leBytes size v.toNat) }

/-- An array access of a scalar word: a cell, or a pair (R77). -/
def cellAccess (p : Pend) (a size : Nat) (write : Bool) : TAccess :=
  { kind := if size = 8 then 1 else 0, a := a / 4, col := false, len := 0, write := write, iss := p.iss, word := p.word,
    baddr := p.baddr }

def State.doLdt (s : State) (ag : Agent) (now : Nat) (p : Pend) (d : BitVec 6) (a size : Nat) (sx : Bool) : State :=
  match s.core? ag with
  | none => s
  | some c =>
    (s.useT ag now (cellAccess p a size false)).modCore ag fun k =>
      { k with pend := k.pend ++ [{ p with due := p.iss + 4, act := .wS d (extend size sx (c.tarr.num a size)) }] }

def State.doStt (s : State) (ag : Agent) (now : Nat) (p : Pend) (v : BitVec 64) (a size : Nat) : State :=
  (s.useT ag now (cellAccess p a size true)).modCore ag fun c =>
    { c with tarr := c.tarr.write a (leBytes size v.toNat) }

/-- VLD's bank cycle: the destination performs at issue+8 (R161, R162). A handle fault has the address of the
effective base row (DESIGN CHOICE, log 72), and so has that of VST. -/
def State.doVld (s : State) (ag : Agent) (now : Nat) (p : Pend) (d : BitVec 5) (pat : Pattern) (dyn : Bool) (row : Nat)
    (f : BitVec 32) (sub : Nat) (mask : BitVec 1024) : State :=
  match s.core? ag with
  | none => s
  | some c =>
    let accs := netAccs (posOf ag) p pat dyn row 0 mask false
    let full := BitVec.allOnes 1024
    if mask = 0 then
      s.setCore ag { c with pend := c.pend ++ [{ p with due := p.iss + 8, act := .wV d VReg.zero full }] }
    else
      let w := (fmtOf f).width
      let raw := netLoad c.bank pat dyn row 0 mask
      let vals := raw.map fun l => if w = 32 then (l, 0) else widen f (l.toNat / 2 ^ (w * sub) % 2 ^ w)
      let va := vals.toArray
      let out := vmap fun e => if mask.getLsbD e then (va.getD e (0, 0)).1 else 0
      let fl := orFl ((tab 1024 id).map fun e => if mask.getLsbD e then (va.getD e (0, 0)).2 else 0)
      s.access ag now p accs (row * 16384) fun c =>
        let c := c.charge 0x06 1
        { c with pend := c.pend ++ [{ p with due := p.iss + 8, act := .wV d out full, flags := fl }] }

/-- VST performs (R161, R162). -/
def State.doVst (s : State) (ag : Agent) (now : Nat) (p : Pend) (v : VReg) (pat : Pattern) (dyn : Bool) (row : Nat)
    (f : BitVec 32) (sub : Nat) (mask : BitVec 1024) : State :=
  match s.core? ag with
  | none => s
  | some c =>
    let accs := netAccs (posOf ag) p pat dyn row 0 mask true
    if mask = 0 then s
    else
      let n := (fmtOf f).width / 8
      let es := (tab 1024 id).filter fun e => mask.getLsbD e && !(dyn && pat.echo e)
      let out := es.map fun e => (pat.addr dyn row (portOf pat.sw e) + n * sub, narrow f (el v e))
      let bank := out.foldl (fun m q => m.write q.1 (leBytes n q.2.1)) c.bank
      let fl := orFl ((tab 1024 id).map fun e => if mask.getLsbD e then (narrow f (el v e)).2 else 0)
      s.access ag now p accs (row * 16384) fun c => { c.charge 0x06 1 with bank := bank, flags := c.flags ||| fl }

def quadAccess (p : Pend) (j : Nat) (col write : Bool) : TAccess :=
  { kind := 2, a := j, col := col, len := 0, write := write, iss := p.iss, word := p.word, baddr := p.baddr }

/-- VLDT's array cycle: the destination performs at issue+6 (R164). -/
def State.doVldt (s : State) (ag : Agent) (now : Nat) (p : Pend) (d : BitVec 5) (j : Nat) (col : Bool)
    (mask : BitVec 1024) : State :=
  match s.core? ag with
  | none => s
  | some c =>
    let v := vmap fun e => if mask.getLsbD e then
        BitVec.ofNat 32 (c.tarr.num (tLine col (4 * j + e / 256) (e % 256)) 4) else 0
    let wr : Pend := { p with due := p.iss + 6, act := .wV d v (BitVec.allOnes 1024) }
    if mask = 0 then s.setCore ag { c with pend := c.pend ++ [wr] }
    else (s.useT ag now (quadAccess p j col false)).modCore ag fun c =>
      { c.charge 0x06 1 with pend := c.pend ++ [wr] }

def State.doVstt (s : State) (ag : Agent) (now : Nat) (p : Pend) (v : VReg) (j : Nat) (col : Bool)
    (mask : BitVec 1024) : State :=
  if mask = 0 then s
  else (s.useT ag now (quadAccess p j col true)).modCore ag fun c =>
    { c.charge 0x06 1 with
        tarr := ((tab 1024 id).filter fun e => mask.getLsbD e).foldl (fun m e =>
          m.putNum (tLine col (4 * j + e / 256) (e % 256)) 4 (el v e).toNat) c.tarr }

/-! ## Egress entries change hands (R247, R248, R253) -/

/-- Two stores store a byte in common. -/
def Egress.meets (a b : Egress) : Bool :=
  (a.bytes.mapIdx fun i x => x.isSome && (b.byteAt (a.va + i)).isSome).any fun x => x

/-- How many of the stores before it, newest first, a store comes before in coherence order (R253): one of another class that
it meets where a free choice says so, none beyond one of its own class that it meets, and one that it does not meet only to
come before such another. Answers the counter of choices too. -/
def passes (f : Egress) (n : Nat) : List Egress → Nat × Nat
  | [] => (0, n)
  | e :: l =>
    if !e.meets f then
      let (k, m) := passes f n l
      (if k = 0 then 0 else k + 1, m)
    else if e.ac == f.ac then (0, n)
    else if Config.pick n then
      let (k, m) := passes f (n + 1) l
      (k + 1, m)
    else (0, n + 1)

/-- Of overlapping stores of different classes one wins, for each granule of 64 bytes, which an entry does not leave
(R253): the coherence order of the stores of a batch, in which the list stands, is a free choice that keeps the order of
those of one class that overlap. -/
def raceOut (free : Nat) (l : List Egress) : List Egress × Nat :=
  let (r, n) := l.foldl (fun (q : List Egress × Nat) f =>
    let (k, n) := passes f q.2 q.1
    (q.1.take k ++ f :: q.1.drop k, n)) ([], free)
  (r.reverse, n)

/-- The entries that a phase issued in cycle `iss` covers pass to the store path, published to the core where the phase is
a `phase.core`; with the counter of free choices after it. -/
def Core.handOver (c : Core) (iss free : Nat) (pub : Bool) : Core × Nat :=
  let covers (e : Egress) : Bool := !e.inPath && decide (e.iss ≤ iss)
  let path := c.egress.filter fun e => e.inPath
  let ph := (path.map fun e => e.ph + 1).foldl max 0
  let (batch, n) := raceOut free ((c.egress.filter covers).mapIdx fun i e => { e with ord := i })
  ({ c with egress := path ++ (batch.map fun e => { e with inPath := true, pub := pub, ph := ph }) ++
      c.egress.filter fun e => !e.inPath && !covers e }, n)

/-- The entries of an agent that a phase covers pass to the store path. -/
def State.handOver (s : State) (a : Agent) (iss : Nat) (pub : Bool) : State :=
  match s.core? a with
  | none => s
  | some c =>
    let (c, n) := c.handOver iss s.free pub
    { s.setCore a c with free := n }

/-- A phase of core scope completes (R248, R249). -/
def State.doPhaseCore (s : State) (ag : Agent) (iss : Nat) : State := (s.handOver ag iss true).renew ag

/-! ## Loads of G -/

/-- A load of G that is here performs (R123, R135, R165, R166). -/
def Core.performFetch (c : Core) (f : Fetch) (data : List Byte) : Core :=
  match f.kind with
  | .ldg d sz sx => c.ws d (extend sz sx (leNat data))
  | .locq d => c.ws d (BitVec.ofNat 64 (leNat data))
  | .vstg .. => c
  | .vldg d fd mask cnt =>
    let n := (gBytes fd).getD 4
    let have' := data.length / n
    let codes := (codesOf (8 * n) have' data).toArray
    let val (e : Nat) : BitVec 32 × Fl :=
      if mask.getLsbD e && decide (e < have') then widen fd (codes.getD e 0) else (0, 0)
    let c := c.wv d (vmap fun e => (val e).1) (BitVec.allOnes 1024)
    let c := { c with flags := c.flags ||| orFl ((tab 1024 id).map fun e => (val e).2) }
    match cnt with
    | none => c
    | some r => c.ws r (BitVec.ofNat 64 have')

/-- The loads of G that are due and here perform. -/
def Core.performFetches (c : Core) (now : Nat) : Core :=
  let due (f : Fetch) : Bool := decide (f.due ≤ now) && f.st.isArrived
  let c' := (c.fetches.filter due).foldl (fun c f => match f.st with
    | .arrived data => c.performFetch f data
    | _ => c) c
  { c' with fetches := c.fetches.filter fun f => !due f }

/-! ## One effect -/

/-- The order of the effects of a cycle: writes, then the accesses that read. -/
def Act.rank : Act → Nat
  | .csrFlags _ => 0
  | .readFlags _ => 5
  | .holder .. | .dyn .. | .wDone .. | .mswap => 1
  | .stb .. | .stt .. | .vst .. | .vstt .. | .stk .. | .dOut .. | .bankW .. | .xcpyOut .. | .catch' .. => 3
  | .cmd _ 1 _ => 3
  | .ldb .. | .ldt .. | .vld .. | .vldt .. | .wRow _ | .aRow .. | .dAcc .. | .dRes .. | .rRow .. | .gemvA .. |
    .cmd .. => 4
  | _ => 2

/-- A piece of a fill that cannot perform: not here, or failed (R217, R218). -/
def Core.pieceWaits (c : Core) (p : Pend) : Bool :=
  match p.act with
  | .cmd id 1 i => match c.cmd? id with
    | some k => (k.piece i).data.isNone
    | none => false
  | _ => false

/-- Bytes that a due source read takes in the store buffer of the engine of word w (R217). -/
def Core.readNeed (c : Core) (now w : Nat) (p : Pend) : Nat :=
  match p.act with
  | .cmd id 0 i => match c.cmd? id with
    | some k => if k.word = w && p.due ≤ now then k.bufNeed i else 0
    | none => 0
  | _ => 0

/-- The store buffer of the engine of word w has no room for n bytes beside what it holds. Reads of one cycle that together
exceed the whole buffer go once it is empty (log 53). -/
def Core.noRoom (c : Core) (w n : Nat) : Bool := c.bufUsed w != 0 && decide (65536 < c.bufUsed w + n)

/-- A source read that finds the store buffer full in cycle `now`, after the reads due before it in its engine (R217). -/
def Core.bufferFull (c : Core) (now : Nat) (p : Pend) : Bool :=
  match p.act with
  | .cmd id 0 i => match c.cmd? id with
    | some k => k.bufNeed i != 0 &&
        c.noRoom k.word (((c.pend.takeWhile fun q => q.act != p.act).map (c.readNeed now k.word)).sum + k.bufNeed i)
    | none => false
  | _ => false

/-- A command whose first source read falls in its start cycle. -/
def CopyOp.readsAtStart : CopyOp → Bool
  | .xstore .. => true
  | .xtst .. => true
  | _ => false

/-- The commands that start in cycle `now` and whose first source read finds the store buffer full (R217). -/
def Core.startsFull (c : Core) (now : Nat) : List Cmd :=
  let new (w : Nat) : List Cmd := c.cmds.filter fun k => k.word == w && !k.started && k.start == now && k.op.readsAtStart
  (c.cmds.filter fun k => !k.started && k.start == now && k.op.readsAtStart).filter fun k =>
    c.noRoom k.word ((c.pend.map (c.readNeed now k.word)).sum +
      (((new k.word).takeWhile fun j => j.id != k.id).map fun j => j.bufNeed 0).sum + k.bufNeed 0)

/-- The bundle of this cycle has not begun, or every word of it has taken effect. -/
def Core.whole (c : Core) : Bool := c.done == 0 || c.done == 0xFF

/-- An effect that is due performs now: not a write of a system register, which is a step of its own, nor a piece that waits,
nor a `phase.core` whose bundle a stop has left incomplete, since the whole bundle uses the snapshot before it and its stores
are covered (R247, R249). -/
def Core.ready (c : Core) (now : Nat) (p : Pend) : Bool :=
  decide (p.due ≤ now) && !c.pieceWaits p && !c.bufferFull now p && match p.act with
    | .sys .. => false
    | .phaseCore => c.whole
    | _ => true

/-- One effect performs. -/
def State.doAct (s : State) (ag : Agent) (now : Nat) (p : Pend) : State :=
  let s := s.modCore ag fun c => { c with flags := c.flags ||| p.flags }
  let on (f : Core → Core) : State := s.modCore ag f
  match p.act with
  | .wS d v => on fun c => c.ws d v
  | .wP d v => on fun c => c.wp d v
  | .wV d v m => on fun c => c.wv d v m
  | .wF f v => on fun c => { c with f := vset c.f f.toNat v }
  | .wK k v => on fun c => { c with k := vset c.k k.toNat v }
  | .wX x v => on fun c => { c with x := vset c.x x.toNat v }
  | .flagsOnly => s
  | .readFlags d => on fun c => { c with pend := c.pend ++ [{ p with due := p.iss + 1, act := .wS d (c.flags.zeroExtend 64) }] }
  | .csrFlags v => on fun c => { c with flags := v.truncate 7 ||| p.flags }
  | .csrRsp v => on fun c => { c with top := v.toNat }
  | .csrQstat v => on fun c =>
      { c with ep := BitVec.ofNat 8 ((tab 8 fun n => bit (c.ep.getLsbD n && v.getLsbD (8 * n + 7)) * 2 ^ n).sum) }
  | .loopc n v => on fun c => { c with loopc := vset c.loopc n.toNat v }
  | .top v => on fun c => { c with top := v }
  | .res g b => on fun c => { c with rseg := if b then c.rseg ||| BitVec.ofNat 16 (2 ^ g)
                                              else c.rseg &&& ~~~ (BitVec.ofNat 16 (2 ^ g)) }
  | .holder o n new => match (s.core? ag).bind fun c => s.ringCore ag c o with
    | some (w, _) => s.modCore w fun c => { c with holder := vset c.holder n new }
    | none => s
  | .sys .. => s
  | .ldb d a size sx rc => s.doLdb ag now p d a size sx rc
  | .stb v a size rc => s.doStb ag now p v a size rc
  | .ldt d a size sx => s.doLdt ag now p d a size sx
  | .stt v a size => s.doStt ag now p v a size
  | .vld d pat dyn row f sub m => s.doVld ag now p d pat dyn row f sub m
  | .vst v pat dyn row f sub m => s.doVst ag now p v pat dyn row f sub m
  | .vldt d j col m => s.doVldt ag now p d j col m
  | .vstt v j col m => s.doVstt ag now p v j col m
  | .dyn n pat => on fun c => { c with dyn := vset c.dyn n.toNat pat }
  | .push q e => on fun c => { c with q := vmod [] c.q q fun l => l ++ [e] }
  | .phaseCore => s.doPhaseCore ag p.iss
  | .stk a bytes => on fun c => { c with stk := c.stk.write a bytes }
  | .wRow k => s.doWRow ag now p k
  | .wDone wb w => on fun c => { c with w := vset c.w wb w }
  | .aRow q i => s.doARow ag now p q i
  | .accRow q i a => on fun c => c.doAccRow p q i a
  | .mzero a z => on fun c => { c with acc := vset c.acc a z }
  | .mscale a k => on fun c => c.doMscale a k
  | .mtags a rs cs => on fun c =>
      let z := vget Acc.zero c.acc a
      { c with acc := vset c.acc a { z with rs := gen 128 fun i => rs.getD i 0, cs := gen 128 fun i => cs.getD i 0 } }
  | .mswap => on fun c => { c with w := gen 2 fun i => vget WBuf.launch c.w (1 - i) }
  | .dAcc d j => on fun c => c.doDAcc p d j
  | .dRes d j row => s.doDRes ag now p d j row
  | .dOut d j b sb esc fl => s.doDOut ag now p d j b sb esc fl
  | .rRow d j => s.doRRow ag now p d j
  | .rDone d j img => on fun c => c.doRDone d j img
  | .gemvA g i => s.doGemvA ag now p g i
  | .cmd id ph i => s.doCmd ag now p id ph i
  | .xcpyOut id i v => s.doXcpyOut ag now p id i v
  | .bankW a bytes => s.access ag now p (rangeAccs (posOf ag) p a bytes.length true) a fun c =>
      { c with bank := c.bank.write a bytes }
  | .catch' a die wall _ => s.doCatch ag now p a die wall

/-- The effects of rank k of a core, in the order of their issues: of two scan operations too (DESIGN CHOICE,
log 75). -/
def State.performRank (s : State) (ag : Agent) (now k : Nat) : State :=
  match s.core? ag with
  | none => s
  | some c =>
    let mine (p : Pend) : Bool := c.ready now p && p.act.rank == k
    let s := s.setCore ag { c with pend := c.pend.filter fun p => !mine p }
    (c.pend.filter mine).foldl (fun s p => s.doAct ag now p) s

/-- EVERYTHING OF SOME AGENTS THAT IS DUE in their cycle `now` and can perform (R19), on all of them rank by rank: the
conflicts among the writes, the writes of FLAGS, the loads of G that are here, then ranks 1 to 5, so that an access of one
core meets the moves of another (R122, R132). -/
def State.performAll (s : State) (l : List Agent) (now : Nat) : State :=
  let onAll (s : State) (f : State → Agent → State) : State := l.foldl f s
  let rank (s : State) (k : Nat) : State := onAll s fun s a => s.performRank a now k
  let s := rank (onAll s fun s a => s.writeConflicts a now) 0
  let s := [1, 2, 3, 4, 5].foldl rank (onAll s fun s a => s.modCore a fun c => c.performFetches now)
  onAll s fun s a => s.modCore a Core.sweep

/-- Two moves of one buffer in one cycle (R132): the one of the higher rank faults. -/
def State.handleConflicts (s : State) (t now : Nat) : State :=
  match s.troupe? t with
  | none => s
  | some tr =>
    let moves := (tr.cores.mapIdx fun r c => (r, c)).flatMap fun rc => rc.2.pend.filterMap fun p => match p.act with
      | .holder o n _ => if p.due ≤ now then some (rc.1, (rc.2.die, rc.2.loc / 4, o, n), p) else none
      | _ => none
    moves.foldl (fun s m =>
      if moves.any fun k => k.1 < m.1 && k.2.1 == m.2.1 then
        s.clashFault (.core t m.1) now m.2.2.iss m.2.2.word m.2.2.baddr none
      else s) s

/-- RESULT_PERFORMS (R19): everything of a party that is due in this cycle performs. -/
def execResultPerforms (w : Party) (s : State) : Host.Outcome State Fault Refusal :=
  match w with
  | .mgmt m => if m < 2 then .next (s.performAll [.mgmt m] (s.now (.mgmt m))) else notEnabled "RESULT_PERFORMS"
  | .troupe t =>
    match s.troupe? t with
    | none => notEnabled "RESULT_PERFORMS"
    | some tr => .next ((s.handleConflicts t tr.adv).performAll (tab tr.cores.length fun r => .core t r) tr.adv)

end Sys2Proof.Machine
end

