-- ==== Sys2Proof/Machine/Fetch.lean ====
section
/-!
DEFINITION. Accesses to G on their way: walks, arrivals, deferred failures, phases and the store path (R123 to R125,
R133, R165 to R167, R212, R247 to R250, R335 to R339, R371), and memory errors (R278, R384).
-/

namespace Sys2Proof.Machine

/-! ## Error counts (R384) -/

/-- Saturating add to 32 bits. -/
def sat32 (v : BitVec 32) (n : Nat) : BitVec 32 := BitVec.ofNat 32 (min (v.toNat + n) (2 ^ 32 - 1))

/-- Counts of uncorrectable and corrected errors of a die and kind. -/
def State.errCount (s : State) (die kind : Nat) : BitVec 32 × BitVec 32 :=
  ((s.errs.find? fun e => e.1 == (die, kind)).map (·.2)).getD (0, 0)

def State.setErr (s : State) (die kind : Nat) (v : BitVec 32 × BitVec 32) : State :=
  { s with errs := ((die, kind), v) :: s.errs.filter fun e => e.1 != (die, kind) }

/-- An error of a kind on a die. -/
def State.countErr (s : State) (die kind : Nat) (unc : Bool) : State :=
  let (u, c) := s.errCount die kind
  s.setErr die kind (if unc then (sat32 u 1, c) else (u, sat32 c 1))

/-- MEMORY_ERROR (R278, R384): an uncorrectable soft error found on a read is fatal; a corrected error, and one of HBM4E or of
a UCIe link, is counted on its die (log 63). -/
def execMemoryError (a : Agent) (e : SoftError) (word : BitVec 3) (s : State) : Host.Outcome State Fault Refusal :=
  if e.kind = 0 || 7 < e.kind.toNat || 9 < e.die.toNat then notEnabled "MEMORY_ERROR"
  else if e.corrected || 5 < e.kind.toNat then .next (s.countErr e.die.toNat e.kind.toNat !e.corrected)
  else match s.core? a with
    | none => notEnabled "MEMORY_ERROR"
    | some c =>
      let die := match a with
        | .core _ _ => c.die
        | .mgmt m => 8 + m
      .next ((s.countErr die e.kind.toNat true).modCore a fun c =>
        c.raiseLate word.toNat c.pc { cause := 0x28, sub := e.kind.toNat })

/-! ## Walks (R332 to R339) -/

/-- The core's troupe stands suspended with this access's failure taken: it is repeated only on resumption (R124). -/
def State.awaitsResume (s : State) (a : Agent) (due : Nat) : Bool :=
  match a with
  | .core t _ => ((s.troupe? t).map fun tr => tr.st == .suspended && decide (due ≤ tr.adv)).getD false
  | .mgmt _ => false

/-- The active elements of a vector access, as runs of bytes. -/
def vecRuns (va n : Nat) (mask : BitVec 1024) : List (Option Nat × Nat) :=
  ((tab 1024 id).filter fun e => mask.getLsbD e).map fun e => (some (va + e * n), n)

/-- The lowest active element on a page that fails, with its sub-cause. -/
def firstBad (l : List (Nat × Except Nat (Nat × BitVec 64))) (va n : Nat) (mask : BitVec 1024) : Option (Nat × Nat) :=
  (tab 1024 id).findSome? fun e =>
    if !mask.getLsbD e then none
    else match l.find? fun q => q.1 == (va + e * n) / 4096 with
      | some (_, .error sub) => some (e, sub)
      | _ => none

def translationFault (sub elem addr : Nat) : FetchSt := .failed 0x0A (BitVec.ofNat 8 sub) elem addr

/-- The outcome of the walks of an access (R335): its data, or its failure. -/
def State.walked (s : State) (a : Agent) (f : Fetch) (how : Lookup) : FetchSt :=
  let cx := s.ctx a
  match f.kind with
  | .ldg _ sz _ =>
    match s.translate cx f.va .rd (some f.ac) how with
    | .error sub => translationFault sub 0 f.va
    | .ok (pa, _) => .ready (readOwn f.snap f.own f.ac s.free f.va sz fun x => some (pa + (x - f.va)))
  | .locq _ =>
    match s.translate cx f.va .rd none how with
    | .error _ => .arrived (leBytes 8 0)
    | .ok (pa, pte) =>
      let size := match s.findLeaf cx f.va how with
        | .ok l => l.size
        | .error _ => 4096
      .arrived (leBytes 8 (if (homeOf pa).isNone then 0 else locqValue pa pte size))
  | .vldg _ fd mask cnt =>
    let n := (gBytes fd).getD 4
    let pages := s.pagesOf cx .rd (some f.ac) how (vecRuns f.va n mask)
    let bytes (k : Nat) : List Byte := (tab k id).flatMap fun e =>
      if mask.getLsbD e then readOwn f.snap f.own f.ac s.free (f.va + e * n) n (pagePa pages) else tab n fun _ => 0
    match firstBad pages f.va n mask with
    | none => .ready (bytes 1024)
    | some (e, sub) =>
      if cnt.isSome && some e ≠ firstSet mask then .ready (bytes e) else translationFault sub e (f.va + e * n)
  | .vstg fd mask =>
    let n := (gBytes fd).getD 4
    let pages := s.pagesOf cx .wr (some f.ac) how (vecRuns f.va n mask)
    match firstBad pages f.va n mask with
    | none => .arrived []
    | some (e, sub) => translationFault sub e (f.va + e * n)

/-- The pages that an access touches. -/
def Fetch.pages (f : Fetch) : List Nat :=
  match f.kind with
  | .ldg .. | .locq _ => [f.va]
  | .vldg _ fd mask _ | .vstg fd mask =>
    let n := (gBytes fd).getD 4
    (((tab 1024 fun e => e).filter fun e => mask.getLsbD e).map fun e => (f.va + e * n) / 4096 * 4096).eraseDups

/-- The walks of a product (R212): every page of B must be a readable near-tier page on the serving stack. -/
def State.walkedGemv (s : State) (a : Agent) (g : Gemv) (how : Lookup) : FetchSt :=
  let cx := s.ctx a
  let runs := [(some g.bva, g.size)]
  let pages := s.pagesOf cx .rd (some 0) how runs
  let home (pg : Nat) : Option Nat := (pagePa pages (pg * 4096)).bind fun pa => if isFar pa then none else homeOf pa
  let serving := home (g.bva / 4096)
  match pages.find? fun q => (home q.1).isNone || home q.1 != serving with
  | some q => .failed 0x08 0 0 (max g.bva (q.1 * 4096))
  | none => .ready (readOwn g.snap g.own 0 s.free g.bva g.size (pagePa pages))

/-- The pages of B of a product. -/
def Gemv.pages (g : Gemv) : List Nat := tab ((g.bva + g.size - 1) / 4096 - g.bva / 4096 + 1) fun i => (g.bva / 4096 + i) * 4096

/-- The pages of a piece of a command. -/
def Cmd.piecePages (k : Cmd) (i : Nat) : List Nat := (((k.source i).filterMap (·.1)).map fun va => va / 4096 * 4096).eraseDups

/-- Every core of the package that runs, and the management cores. -/
def State.agents (s : State) : List Agent :=
  ((s.troupes.mapIdx fun t tr => (tab tr.cores.length fun r => Agent.core t r)).flatten) ++ [.mgmt 0, .mgmt 1]

/-- The walks of an access leave what they read in the span's cache (R338). -/
def State.fillAll (s : State) (cx : Ctx) (pages : List Nat) (how : Lookup) : State :=
  pages.foldl (fun s va => s.fill cx va how) s

/-- Every page lies on a leaf that the walks of some pages found. -/
def State.onLeaves (s : State) (cx : Ctx) (found pages : List Nat) : Bool :=
  pages.all fun va => found.any fun z => match s.findLeaf cx z .cached with
    | .ok l => decide (l.base ≤ va) && decide (va < l.base + l.size)
    | .error _ => false

/-- The accesses of an agent that waited for the same leaves of an address space on the same span: their walk is the one that
has finished, and each takes its own outcome (R338). -/
def State.shareWalk (s : State) (cx : Ctx) (found : List Nat) (a : Agent) : State :=
  let mine (z : Ctx) : Bool := z.die == cx.die && z.asid == cx.asid && !z.phy && !cx.phy
  let ready (pages : List Nat) : Bool := s.onLeaves cx found pages
  s.modCore a fun c =>
    { c with
        fetches := if !mine (s.ctx a) then c.fetches else c.fetches.map fun (f : Fetch) =>
          if f.st == .walking && !s.awaitsResume a f.due && ready f.pages then { f with st := s.walked a f .cached } else f,
        gemv := if !mine (s.ctx a) then c.gemv else c.gemv.map fun (g : Gemv) =>
          if g.st == .walking && !s.awaitsResume a g.due && ready g.pages then { g with st := s.walkedGemv a g .cached } else g,
        cmds := c.cmds.map fun k =>
          if !k.started || !k.op.reads || k.op.host || !mine (s.cmdCtx a k) then k
          else (tab k.total id).foldl (fun k i =>
            if decide (k.next ≤ i) && (k.piece i).walking && ready (k.piecePages i) then
              k.setPiece { k.piece i with walking := false, cached := true } else k) k }

def State.shareWalks (s : State) (cx : Ctx) (found : List Nat) : State :=
  s.agents.foldl (fun s a => s.shareWalk cx found a) s

/-- WALK_COMPLETE (R336, R338): the walks of an access finish; its checks are decided, and so are those of the accesses that
waited for the same leaves; a table that cannot be reached makes them wait (R371, R398). -/
def execWalkComplete (a : Agent) (id : Nat) (cached : Bool) (s : State) : Host.Outcome State Fault Refusal :=
  let how := Lookup.of cached
  match s.core? a with
  | none => notEnabled "WALK_COMPLETE"
  | some c =>
    match c.fetches.find? fun (f : Fetch) => f.id == id && f.st == .walking with
    | some f =>
      if s.awaitsResume a f.due || f.pages.any fun va => s.tablesDown (s.ctx a) va how then notEnabled "WALK_COMPLETE"
      else
        let st := s.walked a f how
        .next (({ s.fillAll (s.ctx a) f.pages how with free := s.free + 1 }.modCore a fun c =>
          { c with fetches := c.fetches.map fun (g : Fetch) => if g.id = id then { g with st := st } else g }).shareWalks
            (s.ctx a) f.pages)
    | none =>
      match c.gemv.find? fun (g : Gemv) => g.id == id && g.st == .walking with
      | some g =>
        if s.awaitsResume a g.due || g.pages.any fun va => s.tablesDown (s.ctx a) va how then notEnabled "WALK_COMPLETE"
        else
          let st := s.walkedGemv a g how
          .next (({ s.fillAll (s.ctx a) g.pages how with free := s.free + 1 }.modCore a fun c =>
            { c with gemv := c.gemv.map fun (z : Gemv) => if z.id = id then { z with st := st } else z }).shareWalks
              (s.ctx a) g.pages)
      | none =>
        match c.cmds.find? fun k => k.id == id && k.started with
        | some k =>
          match (tab k.total fun i => i).find? fun i => decide (k.next ≤ i) && (k.piece i).walking with
          | some i =>
            let q : Piece := { k.piece i with walking := false, cached := cached }
            if k.op.reads && !k.op.host && !(k.piecePages i).any fun va => s.tablesDown (s.cmdCtx a k) va how then
              .next (({ s.fillAll (s.cmdCtx a k) (k.piecePages i) how with free := s.free + 1 }.modCore a fun c =>
                c.setCmd (k.setPiece q)).shareWalks (s.cmdCtx a k) (k.piecePages i))
            else notEnabled "WALK_COMPLETE"
          | none => notEnabled "WALK_COMPLETE"
        | none => notEnabled "WALK_COMPLETE"

/-! ## Arrivals of data -/

/-- A page of an access lies behind a CXL port that is down, or one of its granules has no plane that carries it (R358,
R371). -/
def State.anyPortDown (s : State) (cx : Ctx) (pages : List Nat) : Bool :=
  pages.any fun va => match s.translate cx va .any none .tables with
    | .ok (pa, _) => s.portDown pa || !s.pageFree pa
    | .error _ => false

def State.anyFar (s : State) (cx : Ctx) (pages : List Nat) : Bool :=
  pages.any fun va => match s.translate cx va .any none .tables with
    | .ok (pa, _) => isFar pa
    | .error _ => false

/-- LOAD_DATA_ARRIVAL (R123, R165, R212): the data is buffered until its due cycle; of a product, one block more. -/
def execLoadDataArrival (a : Agent) (id : Nat) (s : State) : Host.Outcome State Fault Refusal :=
  match s.core? a with
  | none => notEnabled "LOAD_DATA_ARRIVAL"
  | some c =>
    match c.fetches.find? fun f => f.id == id with
    | some f =>
      match f.st with
      | .ready data =>
        if s.anyPortDown (s.ctx a) f.pages then notEnabled "LOAD_DATA_ARRIVAL"
        else .next (s.setCore a
          { c with fetches := c.fetches.map fun (g : Fetch) => if g.id = id then { g with st := .arrived data } else g })
      | _ => notEnabled "LOAD_DATA_ARRIVAL"
    | none =>
      match c.gemv.find? fun g => g.id == id with
      | some g =>
        match g.st with
        | .ready _ =>
          if g.nb ≤ g.arrived || s.anyPortDown (s.ctx a) g.pages then notEnabled "LOAD_DATA_ARRIVAL"
          else .next (s.setCore a
            { c with gemv := c.gemv.map fun (z : Gemv) => if z.id = id then { z with arrived := z.arrived + 1 } else z })
        | _ => notEnabled "LOAD_DATA_ARRIVAL"
      | none => notEnabled "LOAD_DATA_ARRIVAL"

/-- CXL_POISON (R371): a read of far-tier memory returns poison; the access takes the remote refused fault, deferred
under its own rule. -/
def execCxlPoison (a : Agent) (id : Nat) (s : State) : Host.Outcome State Fault Refusal :=
  match s.core? a with
  | none => notEnabled "CXL_POISON"
  | some c =>
    match c.fetches.find? fun f => f.id == id with
    | some f =>
      match f.st with
      | .ready _ =>
        if s.anyFar (s.ctx a) f.pages then
          .next (s.setCore a { c with fetches := c.fetches.map fun g =>
            if g.id = id then { g with st := .failed 0x0B 0 0 f.va } else g })
        else notEnabled "CXL_POISON"
      | _ => notEnabled "CXL_POISON"
    | none => notEnabled "CXL_POISON"

/-! ## Deferred failures (R124, R165, R167, R212) -/

/-- The failures of a core that are due in cycle `now`: word, bundle, cause, sub-cause, address. -/
def Core.dueFailures (c : Core) (now : Nat) : List (Nat × Nat × Exc) :=
  (c.fetches.filterMap fun f => match f.st with
    | .failed cause sub _ addr =>
      if f.due ≤ now then some (f.word, f.baddr, { cause := cause.toNat, sub := sub.toNat, addr := addr }) else none
    | _ => none) ++
  (c.gemv.filterMap fun g => match g.st with
    | .failed cause sub _ addr =>
      if g.due ≤ now then some (5, g.baddr, { cause := cause.toNat, sub := sub.toNat, addr := addr }) else none
    | _ => none)

/-- DEFERRED_FAULT (R124): failed accesses reach their due cycle; the fetch is to be repeated. -/
def execDeferredFault (a : Agent) (s : State) : Host.Outcome State Fault Refusal :=
  match s.core? a with
  | none => notEnabled "DEFERRED_FAULT"
  | some c =>
    let now := s.now a
    let fs := c.dueFailures now
    if fs.isEmpty then notEnabled "DEFERRED_FAULT"
    else
      let again (due : Nat) (st : FetchSt) : FetchSt := match st with
        | .failed .. => if due ≤ now then .walking else st
        | _ => st
      let c := fs.foldl (fun c f => c.raiseLate f.1 f.2.1 f.2.2) c
      .next (s.setCore a { c with
        fetches := c.fetches.map fun f => { f with st := again f.due f.st },
        gemv := c.gemv.map fun g => { g with st := again g.due g.st } })

/-! ## The store path (R248, R253, R337, R347) -/

/-- The entries whose turn it is: in each alias class the first in egress order. -/
def turns (l : List Egress) : List Egress := l.filter fun e => !l.any fun f => f.ac == e.ac && decide (f.ord < e.ord)

/-- An entry without the bytes that a later one in coherence order takes the place of. -/
def Egress.beneath (e f : Egress) : Egress :=
  if e.meets f then { e with bytes := e.bytes.mapIdx (fun i b => if (f.byteAt (e.va + i)).isSome then none else b), cut := true }
  else e

/-- Memory accepts an entry: it leaves the store path, and those before it in coherence order lose what it covers, so that
memory never holds them over it (R246, R253). -/
def acceptedOf (e : Egress) : List Egress → List Egress
  | [] => []
  | f :: l => if f = e then l else f.beneath e :: acceptedOf e l

/-- The alignment and pages of an entry lie within one page: a granule at most. -/
def State.entryTarget (s : State) (a : Agent) (e : Egress) : Except Nat (Nat × BitVec 64) :=
  s.translate (s.ctx a) e.va .wr (some e.ac) .any

/-- Nothing of an entry is a store: every byte belongs to an inactive element. -/
def Egress.blank (e : Egress) : Bool := !e.cut && e.bytes.all Option.isNone

/-- An entry waits: its page is in migration, or behind a port that is down, or its plane does not carry it (R347, R358,
R371). -/
def State.entryWaits (s : State) (a : Agent) (e : Egress) : Bool :=
  !e.blank && match s.entryTarget a e with
    | .ok (pa, pte) => s.writeWaits pa pte || !s.planeFree pa
    | .error _ => false

/-- The entries at the head of the store path: of each alias class the oldest, among those of the oldest phase, since
stores that a phase separates land in their order whatever their classes (R248, R253). -/
def Core.heads (c : Core) : List Egress :=
  let path := c.egress.filter fun e => e.inPath
  turns (path.filter fun e => some e.ph == path.head?.map (·.ph))

/-- The entry that the store path drains next. -/
def State.drainNext (s : State) (a : Agent) (c : Core) : Option Egress :=
  c.heads.find? fun e => e.failed.isNone && !s.entryWaits a e

/-- The troupe publishes for its end or its saving: a failing entry is discarded (R255). -/
def State.publishing (s : State) (a : Agent) : Bool :=
  match a with
  | .core _ _ => ((s.core? a).map fun c => c.pubMarks.isSome).getD false
  | .mgmt _ => false

/-- STORE_PATH_DRAIN (R248): memory accepts the next entry, or its failure is known. -/
def execStorePathDrain (a : Agent) (s : State) : Host.Outcome State Fault Refusal :=
  match (s.core? a).bind fun c => (s.drainNext a c).map fun e => (c, e) with
  | none => notEnabled "STORE_PATH_DRAIN"
  | some (c, e) =>
    let gone := { c with egress := c.egress.erase e }
    if e.blank then .next (s.setCore a gone)
    else match s.entryTarget a e with
    | .ok (pa, _) =>
      let s := s.fill (s.ctx a) e.va .any
      let mem := (homeOf pa).isSome
      let c : Core := { c with egress := acceptedOf e c.egress,
                               snap := if mem && e.pub then c.snap.writeO pa e.bytes else c.snap,
                               accd := if mem && !e.pub then c.accd ++ [e] else c.accd }
      .next { (s.setCore a c).acceptNarrow pa e.bytes e.pub (c.site a).1 (c.site a).2 with free := s.free + 1 }
    | .error sub =>
      if s.publishing a then
        let s := s.setCore a gone
        .next (match a with
          | .core t _ => s.modTroupe t fun tr => { tr with status := some (tr.status.getD (BitVec.ofNat 16 (0x0A00 + sub))) }
          | .mgmt _ => s)
      else
        let c := { c with egress := c.egress.map fun f => if f = e then { f with failed := some (BitVec.ofNat 8 sub) } else f }
        .next (s.setCore a (c.raiseLate e.word e.baddr { cause := 0x0A, sub := sub, addr := e.va }))

/-! ## Phases (R133, R247, R355) -/

/-- The phase that holds a core. -/
def Core.phaseWait (c : Core) : Option Wait := c.wait.filter fun w => match w.kind with
  | .phase _ => true
  | _ => false

/-- The markers of a phase of package scope or wider leave, once (R355). -/
def State.markPhase (s : State) (a : Agent) : State :=
  match (s.core? a).bind fun c => c.phaseWait.map fun w => (c, w) with
  | none => s
  | some (c, w) =>
    match w.kind with
    | .phase k =>
      if w.sent || k < 3 then s
      else
        let (s, l) := s.sendMarkers a k
        s.setCore a { c with wait := some { w with sent := true, markers := l } }
    | _ => s

/-- A message of the agent's engines is still unacknowledged. -/
def State.sendsOut (s : State) (a : Agent) : Bool :=
  s.out.any fun o => (o.msg.typ == 0 || o.msg.typ == 5) && match o.src with
    | .cmd b _ => a == b
    | _ => false

/-- A command has read what it is to write to G and has not handed it out: the list of a batch of atomics on G, or the record
of an `xenq` (R232, R237). -/
def Cmd.unsent (k : Cmd) : Bool :=
  match k.op with
  | .xbat op _ _ _ => !op.onCounter && !k.aux.isEmpty && k.total != 0 && k.outstanding == 0 && k.next == 0
  | .xenq .. => !k.aux.isEmpty
  | _ => false

/-- Every write that a phase of scope k covers is accepted, as far as its scope asks (R247): stores, what the engines' store
buffers hold, batched atomics on G and queued records. -/
def State.covered (s : State) (a : Agent) (c : Core) (k iss : Nat) : Bool :=
  c.egress.all (fun e => decide (iss < e.iss)) &&
  c.cmds.all (fun d => (d.buf.isEmpty || (d.op.host && decide (k < 5))) && !d.unsent) &&
  s.atoms.all (fun e => e.agent != a || e.op.onCounter) && (decide (k < 4) || !s.sendsOut a)

/-- A phase publishes: the writes reach the scope and the snapshot is renewed (R247, R249). -/
def State.completePhase (s : State) (a : Agent) (k : Nat) : State :=
  match s.core? a with
  | none => s
  | some c =>
    ((s.setCore a { c with accd := [] }).publish (c.site a).1 (c.site a).2 k).renew a

/-- PHASE_COMPLETE (R247): a phase that holds the agent completes. -/
def execPhaseComplete (a : Agent) (s : State) : Host.Outcome State Fault Refusal :=
  match s.core? a with
  | none => notEnabled "PHASE_COMPLETE"
  | some c =>
    match c.wait with
    | some w =>
      match w.kind with
      | .phase k =>
        if s.covered a c k w.iss && w.marked k then
          .next ((s.setCore a { c with wait := none }).completePhase a k)
        else notEnabled "PHASE_COMPLETE"
      | _ => notEnabled "PHASE_COMPLETE"
    | none => notEnabled "PHASE_COMPLETE"

end Sys2Proof.Machine
end

