-- ==== Sys2Proof/Machine/Energy.lean ====
section
/-!
DEFINITION. Energy metering and quotas (R288 to R306).
-/

namespace Sys2Proof.Machine

/-! ## Direct charges (R288 to R295) -/

/-- The direct charges of a troupe's cycle reach its task accumulator and are on their way to the keeper (R294, R295). -/
def State.flushCharges (s : State) (t : Nat) : State :=
  match s.troupe? t with
  | none => s
  | some tr =>
    let c := (tr.cores.map fun c => s.price c.chg).sum
    let v := tr.vcc.toNat
    let recent := tr.recent.filter fun r => v < r.1 + 64
    (s.setTroupe t
      { tr with en := tr.en + c, recent := if c = 0 then recent else recent ++ [(v, c)],
                cores := tr.cores.map fun c => { c with chg := [] } }).modVf tr.vf fun x => { x with pend := x.pend + c }

/-! ## Quotas (R294, R301 to R304) -/

/-- The troupe's charges up to its stop remain, and then it retires with a status (R281, R304). -/
def State.stopTroupe (s : State) (t : Nat) (status : BitVec 16) : State :=
  (s.flushCharges t).modTroupe t fun tr => { tr.retireWith status with normal := false }

/-- The VF is exhausted (R303): each bound task is asked to pre-empt, or is stopped (R304). -/
def State.exhaust (s : State) (v : Nat) : State :=
  let bound (tr : Troupe) : Bool := tr.vf == v && match tr.st with
    | .running | .held | .suspended | .saving | .restoring => true
    | _ => false
  let stops (tr : Troupe) : Bool := bound tr && decide ((s.bank tr.part).grace.toNat < tr.image.dmax)
  let s' := s.modVf v fun x => { x with exh := true, stopd := x.stopd || s.troupes.any stops }
  (tab s.troupes.length id).foldl (fun s t => match s.troupe? t with
    | some tr => if stops tr then s.stopTroupe t 0x4200 else if bound tr then s.setTroupe t (tr.request 4) else s
    | none => s) s'

/-- A charge of c units of 2^-48 J to a VF (R294): quota units, low water (R302), exhaustion. -/
def State.chargeVf (s : State) (v c : Nat) : State :=
  let x := s.vf v
  let n := (x.frac + c) / 2 ^ 28
  let q := x.q.toNat
  let take := if x.qen then min q n else 0
  let q' := q - take
  let past := if x.qen then n - take else 0
  let low := x.len && decide (0 < take) && decide (x.loww.toNat < q) && decide (q' ≤ x.loww.toNat)
  let s := s.modVf v fun x =>
    { x with frac := (x.frac + c) % 2 ^ 28, used := x.used + BitVec.ofNat 64 n, q := BitVec.ofNat 48 q',
             ovd := BitVec.ofNat 48 (min (x.ovd.toNat + past) (2 ^ 48 - 1)), low := x.low || low }
  let s := if low then s.signal x.lctr 1 else s
  if decide (0 < take) && q' == 0 then s.exhaust v else s

/-- KEEPER_CHARGE (R295): the keeper applies charges that were formed. -/
def execKeeperCharge (vf c : Nat) (s : State) : Host.Outcome State Fault Refusal :=
  if 96 ≤ vf || c = 0 || (s.vf vf).pend < c then notEnabled "KEEPER_CHARGE"
  else .next ((s.modVf vf fun x => { x with pend := x.pend - c }).chargeVf vf c)

/-- EN_QUOTA (R301), for the VF that EN_VFSEL names. -/
def execEnQuotaWrite (v : BitVec 64) (s : State) : Host.Outcome State Fault Refusal :=
  let n := s.enVfSel.toNat
  let q : BitVec 48 := v.truncate 48
  let x := s.vf n
  let s' := s.modVf n fun x => { x with q := q, exh := x.exh && q == 0 }
  .next (if q == 0 && x.qen && !x.exh then s'.exhaust n else s')

/-- EN_CTL (R301), for the VF that EN_VFSEL names. -/
def execEnCtlWrite (v : BitVec 64) (s : State) : Host.Outcome State Fault Refusal :=
  let n := s.enVfSel.toNat
  let x := s.vf n
  let s' := s.modVf n fun x => { x with qen := v[0], len := v[1], exh := x.exh && v[0] }
  .next (if v[0] && x.q == 0 && !x.exh then s'.exhaust n else s')

/-! ## Settlement (R297, R298) -/

/-- The position of the first greatest number of a list. -/
def argMax (l : List Nat) : Nat :=
  let m := l.foldl max 0
  (l.findIdx? fun x => x == m).getD 0

/-- The shares of a pool by weight: each floor, and the rest to the first of the greatest weight. -/
def sharesOf (p : Nat) (ws : List Nat) : List Nat :=
  let tot := ws.sum
  let fl := ws.map fun w => p * w / tot
  fl.modify (argMax ws) fun x => x + (p - fl.sum)

/-- Within a VF the share is divided over its tasks; a task that has ended receives nothing. -/
def State.settleVf (s : State) (v share : Nat) : State :=
  let mine := (tab s.troupes.length id).filter fun t =>
    ((s.troupe? t).map fun tr => tr.vf == v && decide (0 < tr.reservedLast)).getD false
  let ws := mine.map fun t => ((s.troupe? t).map (·.reservedLast)).getD 0
  let parts := sharesOf share (ws ++ (s.vf v).doneLast)
  let s := (mine.zip parts).foldl (fun s q => s.modTroupe q.1 fun tr =>
    if tr.st != .retiring then { tr with en := tr.en + q.2, share := (s.wall, q.2) } else tr) s
  s.chargeVf v share

/-- SETTLEMENT (R298): in wall cycle 2,048 of the next interval. -/
def execSettlement (s : State) : Host.Outcome State Fault Refusal :=
  if !s.released || s.wall < Config.settle || s.wall % Config.settle ≠ 2048 || s.wall / Config.settle ≤ s.nset.toNat then notEnabled "SETTLEMENT"
  else
    let p := s.poolLast
    let s := { s with poolLast := 0, nset := s.nset + 1 }
    let rs := tab 96 fun v => (s.vf v).reservedLast
    if rs.sum = 0 then .next { s with unatt := s.unatt + BitVec.ofNat 64 (p / 2 ^ 8) }
    else
      let shares := sharesOf p rs
      .next ((tab 96 fun v => v).foldl (fun s v =>
        if (rs.getD v 0) = 0 then s else s.settleVf v (shares.getD v 0)) s)

/-- No task holds or loads a core. -/
def State.coreFree (s : State) (die loc : Nat) : Bool :=
  s.troupes.all fun tr => tr.cores.all fun c => !(c.die == die && c.loc == loc)

/-- The cores of a near-tier die whose clock no task pays in this wall cycle: unbound, held or suspended ones of rings that are
not gated (R292). -/
def State.idleCores (s : State) (die : Nat) : Nat :=
  let still (tr : Troupe) : Bool := tr.st == .suspended || !tr.holds.isEmpty
  let bound := ((s.troupes.filter still).map fun tr => (tr.cores.filter fun c => c.die == die).length).sum
  bound + ((tab 32 id).filter fun l => !s.gateRing.getLsbD (8 * die + l / 4) && s.coreFree die l).length

/-- The shared events of one wall cycle that time alone makes: leakage, idle clocks, the upkeep of the optical ports, and with
the last wall cycle of an interval the refresh of the stacks (R292, R297; log 12). -/
def State.poolWall (s : State) : State :=
  let s := (tab 10 id).foldl (fun s d => s.poolAdd d 0x20 1) s
  let s := (tab 8 id).foldl (fun s d => s.poolAdd d 0x21 (s.idleCores d)) s
  let s := (tab 16 id).foldl (fun s q => s.poolAdd (q / 2) 0x26 1) s
  if (s.wall + 1) % Config.settle = 0 then
    (tab 8 id).foldl (fun s d => if s.gateStk.getLsbD d then s else s.poolAdd d 0x22 1) s
  else s

/-- A wall cycle's shared events and reserved core-cycles are counted; at the end of an interval the counts become
those to be settled (R297). -/
def State.countWall (s : State) : State :=
  let cores (v : Nat) : Nat := ((s.troupes.filter fun (tr : Troupe) => tr.vf == v).map fun tr => tr.cores.length).sum
  let s := s.poolWall
  let s : State :=
    { s with troupes := s.troupes.map fun tr => { tr with reserved := tr.reserved + tr.cores.length },
             vfs := gen 96 fun v => { s.vf v with reserved := (s.vf v).reserved + cores v } }
  if (s.wall + 1) % Config.settle = 0 then
    { s with poolLast := s.pool, pool := 0,
             troupes := s.troupes.map fun tr => { tr with reservedLast := tr.reserved, reserved := 0 },
             vfs := s.vfs.map fun x => { x with reservedLast := x.reserved, reserved := 0, doneLast := x.doneRes, doneRes := [] } }
  else s

end Sys2Proof.Machine
end

