-- ==== Sys2Proof/Machine/Trace.lean ====
section
/-!
DEFINITION. Trace records and rings (R380 to R383), and G as the package's own units reach it.
-/

namespace Sys2Proof.Machine

/-! ## Trace (R380 to R382) -/

/-- The 32 bytes of a record (R381). -/
def traceRec (wall vcc baddr hc num rank typ : Nat) (slot : Option Nat) (data : Nat) : BitVec 256 :=
  BitVec.ofNat 256 (data % 2 ^ 64 + slot.getD 0 % 8 * 2 ^ 64 + bit slot.isSome * 2 ^ 67 + typ % 16 * 2 ^ 68 +
    rank % 256 * 2 ^ 72 + num % 2 ^ 16 * 2 ^ 80 + hc % 16 * 2 ^ 96 + baddr % 2 ^ 28 * 2 ^ 100 + vcc % 2 ^ 64 * 2 ^ 128 +
    wall % 2 ^ 64 * 2 ^ 192)

/-- A record of an enabled TYPE is formed; it waits until its VCC value has passed, so that the ring's order is that
of R382. -/
def State.note (s : State) (t wall vcc baddr hc rank typ : Nat) (slot : Option Nat) (data : Nat) : State :=
  match s.troupe? t with
  | none => s
  | some tr =>
    if (s.bank tr.part).dbEn.getLsbD (typ - 1) then
      s.setTroupe t { tr with trec := tr.trec ++
        [(rank * 8 + typ, traceRec wall vcc baddr hc tr.num rank typ slot data)] }
    else s

/-- The cycle that the troupe is about to enter, in advances and as a VCC value (R22). -/
def Troupe.nextAdv (tr : Troupe) : Nat := if tr.resuming then tr.adv else tr.adv + 1
def Troupe.heldN (tr : Troupe) : Nat := if tr.resuming then tr.vcc.toNat else tr.vcc.toNat + 1

/-- The deviation run that is under way ends in a record (R383). -/
def State.endDeviation (s : State) (t : Nat) : State :=
  match s.troupe? t with
  | none => s
  | some tr =>
    match tr.dev with
    | none => s
    | some (h, n, w0) =>
      (s.setTroupe t { tr with dev := none }).note t w0 tr.heldN h.baddr h.code h.rank 2 h.slot n

/-- A record enters its partition's ring, or is dropped when the ring is full (R380). -/
def State.ringTrace (s : State) (p : Nat) (r : BitVec 256) : State :=
  let b := s.bank p
  if 2 ^ b.dbLsz.toNat ≤ (b.dbHead - b.dbTail).toNat then s.modBank p fun b => { b with dbDrop := sat32 b.dbDrop 1 }
  else
    let a := fld b.dbTrb.toNat 12 40 * 4096 + 32 * (b.dbHead.toNat % 2 ^ b.dbLsz.toNat)
    (s.acceptWide a ((leBytes 32 r.toNat).map some)).modBank p fun b => { b with dbHead := b.dbHead + 1 }

/-- A record in its place by key, behind those of the same key. -/
def insertRec (r : Nat × BitVec 256) : List (Nat × BitVec 256) → List (Nat × BitVec 256)
  | [] => [r]
  | q :: l => if r.1 < q.1 then r :: q :: l else q :: insertRec r l

/-- The records of a troupe's past VCC values, up to one where one is given, enter the ring in the order of R382. -/
def State.flushTrace (s : State) (t : Nat) (upTo : Option Nat) : State :=
  match s.troupe? t with
  | none => s
  | some tr =>
    let past (r : Nat × BitVec 256) : Bool := (upTo.map fun n => decide (fld r.2.toNat 128 64 ≤ n)).getD true
    let l := (tr.trec.filter past).foldl (fun acc r => insertRec r acc) []
    l.foldl (fun s r => s.ringTrace tr.part r.2) (s.setTroupe t { tr with trec := tr.trec.filter fun r => !past r })

/-! ## G as the distributor and the management software's units reach it -/

/-- The context of a package unit that works in an address space. -/
def unitCtx (asid : Nat) : Ctx := { asid := asid, sup := false, phy := false, die := 8 }

/-- n bytes of an address space; none where a page does not translate for a read. -/
def State.readG (s : State) (asid va n : Nat) : Option (List Byte) :=
  let m := s.latest
  (pageRuns va n).foldl (fun acc r => acc.bind fun l =>
    match s.translate (unitCtx asid) r.1 .rd none .tables with
    | .ok (pa, _) => some (l ++ m.read pa r.2)
    | .error _ => none) (some [])

/-- An access of a unit to an address space waits: a page of it, or a table on the way, cannot be reached (R358, R371,
R398). -/
def State.unitWaits (s : State) (asid va n : Nat) : Bool :=
  (pageRuns va n).any fun r => s.tablesDown (unitCtx asid) r.1 .tables ||
    match s.translate (unitCtx asid) r.1 .any none .tables with
    | .ok (pa, _) => s.portDown pa || !s.pageFree pa
    | .error _ => false

/-- A write of a unit waits, for its page to stop moving too (R347). -/
def State.unitWriteWaits (s : State) (asid va n : Nat) : Bool :=
  s.unitWaits asid va n || (pageRuns va n).any fun r => match s.translate (unitCtx asid) r.1 .wr none .tables with
    | .ok (pa, pte) => s.writeWaits pa pte
    | .error _ => false

/-- The first failing check of a write to an address space. -/
def State.writeFault (s : State) (asid va n : Nat) : Option Nat :=
  (pageRuns va n).findSome? fun r => match s.translate (unitCtx asid) r.1 .wr none .tables with
    | .ok _ => none
    | .error sub => some sub

/-- A write to an address space, visible everywhere; pages that do not translate are left out. -/
def State.writeG (s : State) (asid va : Nat) (bytes : List Byte) : State :=
  (pageRuns va bytes.length).foldl (fun s r =>
    match s.translate (unitCtx asid) r.1 .wr none .tables with
    | .ok (pa, _) => s.acceptUnit pa (((bytes.drop (r.1 - va)).take r.2).map some)
    | .error _ => s) s

end Sys2Proof.Machine
end

