-- ==== Sys2Proof/Machine/Image.lean ====
section
/-!
DEFINITION. Launch records and kernel images (R31 to R33, R76, R209, R312 to R314), and the scheduler's save region
(R318).
-/

namespace Sys2Proof.Machine

/-! ## Launch records (R312) -/

/-- The fields of a record's 256 bytes. -/
def Launch.ofBytes (l : List Byte) : Launch :=
  let n := leNat (l.take 64)
  let npar := fld n 24 5
  { tag := bv n 448 64, wtgt := bv n 384 64, stat := bv n 320 64, kimg := bv n 256 64, sigamt := bv n 224 32,
    sigc := bv n 192 32, waitc := bv n 160 32, mbx := bv n 144 16, nctr := fld n 128 16, wdl := bv n 112 16,
    m := fld n 36 4, shape := fld n 29 3, npar := npar, prio := fld n 20 4, sv := fld n 7 1 == 1, wv := fld n 6 1 == 1,
    typ := fld n 0 4, params := tab 24 fun i => if i < npar then BitVec.ofNat 64 (leNat ((l.drop (64 + 8 * i)).take 8)) else 0 }

/-- The first row of R313, but for readability. -/
def launchOk (l : List Byte) : Bool :=
  let n := leNat (l.take 64)
  let r := Launch.ofBytes l
  fld n 40 72 == 0 && fld n 32 4 == 0 && fld n 8 12 == 0 && fld n 4 2 == 0 && r.typ ≤ 1 && r.npar ≤ 24 &&
  (!r.wv || r.wdl.toNat % 2048 != 0) && r.kimg.toNat % 4096 == 0 && r.stat.toNat % 32 == 0 && r.nctr ≤ 1024

/-- What a record that cannot be read launches: nothing is known of it. -/
def Launch.none : Launch :=
  { tag := 0, wtgt := 0, stat := 0, kimg := 0, sigamt := 0, sigc := 0, waitc := 0, mbx := 0, nctr := 0, wdl := 0, m := 0,
    shape := 0, npar := 0, prio := 0, sv := false, wv := false, typ := 0, params := [] }

/-! ## Shapes (R14) -/

/-- Cores per span and spans of a shape. -/
def shapeSize (shape m : Nat) : Option (Nat × Nat) :=
  if shape ≤ 5 then (if m = 0 then some (2 ^ shape, 1) else none)
  else if shape = 6 && 2 ≤ m && m ≤ 8 then some (32, m) else none

/-! ## Images (R314) -/

/-- Number at an offset of an image. -/
def numAt (b : List Byte) (off n : Nat) : Nat := leNat ((b.drop off).take n)

/-- The static patterns that PATMAP defines, in ascending order. -/
def patIdx (map : Nat) : List Nat := (tab 256 id).filter fun i => map / 2 ^ i % 2 == 1

/-- A static pattern's 1,472 bytes (R76). -/
def Pattern.ofBytes (b : List Byte) : Pattern :=
  { Pattern.identity with sw := BitVec.ofNat 9728 (leNat (b.take 1216)), gs := BitVec.ofNat 2048 (leNat ((b.drop 1216).take 256)) }

/-- The bank data list: B address, length and offset, eight bytes each, ended by a length of 0; `none` where it leaves
the image. -/
def bankList (b : List Byte) : Nat → Nat → Option (List (Nat × Nat × Nat))
  | 0, _ => none
  | k + 1, off =>
    if b.length < off + 24 then none
    else
      let len := numAt b (off + 8) 8
      if len = 0 then some []
      else if b.length < numAt b (off + 16) 8 + len then none
      else (bankList b k (off + 24)).map fun l => (numAt b off 8, len, numAt b (off + 16) 8) :: l

/-- One entry of the stream directory; `none` where it breaks R314. -/
def Stream.ofBytes (b : List Byte) (d : Nat) : Option Stream :=
  let code := numAt b (d + 32) 8
  let nb := numAt b (d + 40) 4
  let ns := numAt b (d + 44) 4
  let so := numAt b (d + 48) 8
  let sps := tab ns fun i => (numAt b (so + 8 * i) 4, numAt b (so + 8 * i + 4) 4)
  let addrOk (a : Nat) : Bool := a % 64 == 0 && a < 64 * nb
  let spOk (i : Nat) : Bool := let h := numAt b (code + 64 * i) 8; fld h 8 1 == 0 || fld h 9 12 < ns
  if nb = 0 || 2 ^ 22 < nb || b.length < code + 64 * nb || b.length < so + 8 * ns then none
  else if !(sps.all fun e => addrOk e.1 && addrOk e.2) || !((tab nb id).all spOk) then none
  else (bankList b (b.length / 24 + 1) (numAt b (d + 56) 8)).map fun l =>
    { ranks := BitVec.ofNat 256 (numAt b d 32), code := Mem.write [] 0 ((b.drop code).take (64 * nb)), bundles := nb,
      sps := sps, bank := l.map fun e => (e.1, (b.drop e.2.2).take e.2.1) }

/-- A routine word obeys R209; the MA and MP words are those of the map's rows 0x0_ and 0x2_ (R102). -/
def routineOk (w : Nat) : Bool :=
  let op := w / 2 ^ 56
  fld w 0 2 == 0 && !(op < 0x10 && fld w 18 2 != 0) && !(0x20 ≤ op && op < 0x30 && fld w 18 3 != 0) &&
  !(fld w 17 1 == 1 && (fld w 8 6 < 18 || 50 < fld w 8 6 + fld w 2 6))

/-- Every rank of the shape lies in exactly one stream. -/
def ranksOk (l : List Stream) (n : Nat) : Bool :=
  (tab n id).all fun r => (l.filter fun st => st.ranks.getLsbD r).length == 1

/-- The image's header, if it is readable and well formed (R314). -/
def Image.ofBytes (b : List Byte) : Option Image :=
  let shape := numAt b 6 1
  let m := numAt b 7 1
  let dmax := numAt b 8 4
  let nstr := numAt b 12 4
  let map := numAt b 80 32
  let pats := patIdx map
  let po := numAt b 112 8
  let ro := numAt b 120 8
  let so := numAt b 128 8
  let n := match shapeSize shape m with
    | some (c, k) => c * k
    | none => 0
  if b.length < 256 || numAt b 0 4 ≠ 0x1A4E4B4C || numAt b 4 2 ≠ 1 || dmax = 0 || 2 ^ 20 < dmax || nstr = 0 ||
      map % 2 = 1 || numAt b 144 112 ≠ 0 || numAt b 136 8 ≠ b.length || b.length < po + 1472 * pats.length ||
      b.length < ro + 32768 || b.length < so + 64 * nstr then none
  else if !((tab 4096 fun i => numAt b (ro + 8 * i) 8).all routineOk) then none
  else
    let sts := (tab nstr fun i => Stream.ofBytes b (so + 64 * i))
    if sts.any Option.isNone || !ranksOk (sts.filterMap fun e => e) n then none
    else some
      { shape := shape, m := m, dmax := dmax, loop := gen 8 fun i => BitVec.ofNat 64 (numAt b (16 + 8 * i) 8),
        streams := sts.filterMap fun e => e,
        pats := pats.mapIdx fun j i => (i, Pattern.ofBytes ((b.drop (po + 1472 * j)).take 1472)),
        routines := Mem.write [] 0 ((b.drop ro).take 32768) }

/-- The image at an address of a VF's space. -/
def State.readImage (s : State) (asid va : Nat) : Option Image :=
  ((s.readG asid va 256).bind fun h => s.readG asid va (max 256 (numAt h 136 8))).bind Image.ofBytes

/-! ## The loop table (R31 to R33) -/

/-- KIND of a level. -/
def loopKind (e : BitVec 64) : Nat := fld e.toNat 62 2

/-- A level's trip count. -/
def loopCount (e : BitVec 64) (ps : List (BitVec 64)) : Nat :=
  if e[61] then fld (ps.getD (fld e.toNat 0 8) 0).toNat 0 32 else fld e.toNat 0 32

/-- The status of a loop table that fails R32. -/
def loopTableBad (img : Image) (npar : Nat) (ps : List (BitVec 64)) : Option (BitVec 16) :=
  let es := img.loop.toArray.toList
  let used := es.map fun e => loopKind e != 0
  let u := (used.filter fun b => b).length
  let prod (k : Nat) : Nat := (es.filter fun e => loopKind e == k).foldl (fun a e => a * loopCount e ps) 1
  let (c, m) := (shapeSize img.shape img.m).getD (1, 1)
  if (used.take u).contains false || es.any (fun e => fld e.toNat 32 29 != 0) ||
      es.any (fun e => loopKind e != 0 && e[61] && npar ≤ fld e.toNat 0 8) then some 0x0003
  else if es.any (fun e => 2 ≤ loopKind e && loopCount e ps == 0) || prod 2 ≠ c || prod 3 ≠ m then some 0x0004
  else none

/-- Mixed-radix digits of t over the levels of one kind, the highest level fastest (R33). -/
def spatial (img : Image) (ps : List (BitVec 64)) (k t : Nat) : List (Nat × Nat) :=
  ([7, 6, 5, 4, 3, 2, 1, 0].foldl (fun (acc : Nat × List (Nat × Nat)) lvl =>
    let e := vget 0 img.loop lvl
    if loopKind e = k then (acc.1 / loopCount e ps, (lvl, acc.1 % loopCount e ps) :: acc.2) else acc) (t, [])).2

/-- COORD0 to COORD7 of a core (R33). -/
def coords (img : Image) (ps : List (BitVec 64)) (l p : Nat) : Vector (BitVec 64) 8 :=
  let ds := spatial img ps 2 l ++ spatial img ps 3 p
  gen 8 fun i => BitVec.ofNat 64 (((ds.find? fun d => d.1 == i).map (·.2)).getD 0)

/-! ## The save region (R318) -/

/-- Bytes of a queue's entries, each padded to `n` bytes, oldest first. -/
def queueBytes (l : List (List (BitVec 32))) (n : Nat) : List Byte :=
  l.flatMap fun e => (e.flatMap fun w => leBytes 4 w.toNat).take n ++ tab (n - 4 * e.length) fun _ => 0

/-- Offset, entry bytes and words of a queue's image. -/
def queueAt (n : Nat) : Nat × Nat :=
  if n = 0 then (0x9000, 4096) else if n = 1 then (0xD000, 4096) else if n ≤ 5 then (0x11000 + 0x1000 * (n - 2), 64)
  else if n = 6 then (0x15000, 8) else (0x15100, 64)

/-- The block of one core: the state that the scheduler keeps. -/
def Core.keptImage (c : Core) (tr : Troupe) (spi : Nat) : Mem :=
  let m0 : Mem := []
  let m := ((((m0.putNum 0 8 tr.vcc.toNat).putNum 8 8 spi).putNum 0x10 8
    (c.place tr.image.shape tr.image.m).toNat).putNum 0x18 8 tr.limit.toNat).putNum 0xC0 8 c.qstat.toNat
  let m := (tab 8 id).foldl (fun m i =>
    let l := vget ⟨false, 0, 0⟩ c.lvl i
    let d := vget Pattern.identity c.dyn i
    let b := 0x1000 + 0x1000 * i
    let m := ((m.putNum (0x20 + 8 * i) 8 (vget 0 c.loopc i).toNat).putNum (0x60 + 8 * i) 8
      (bit l.active * 2 ^ 63 + l.start % 2 ^ 28 * 2 ^ 28 + l.fin % 2 ^ 28)).putNum (0xA0 + 4 * i) 4 (vget 0 c.f i).toNat
    ((((m.putNum b 1216 d.sw.toNat).putNum (b + 1216) 256 d.gs.toNat).putNum (b + 1472) 1152 d.off.toNat).putNum
      (b + 2624) 128 d.ev.toNat).putNum (b + 2752) 1280 d.es.toNat) m
  (tab 8 id).foldl (fun m n => m.write (queueAt n).1 (queueBytes (vget [] c.q n) (queueAt n).2)) m

/-- Words of one entry of a queue as it was pushed. -/
def entryWords (n : Nat) : Nat := if n ≤ 1 then 1024 else if n = 6 then 2 else 16

/-- A core takes back its block. -/
def Core.ofKept (c : Core) (m : Mem) : Core :=
  let qs := m.num 0xC0 8
  { c with loopc := gen 8 fun i => BitVec.ofNat 32 (m.num (0x20 + 8 * i) 8),
           lvl := gen 8 fun i => let w := m.num (0x60 + 8 * i) 8; ⟨fld w 63 1 == 1, fld w 28 28, fld w 0 28⟩,
           f := gen 8 fun i => BitVec.ofNat 32 (m.num (0xA0 + 4 * i) 4),
           ep := BitVec.ofNat 8 ((tab 8 fun n => fld qs (8 * n + 7) 1 * 2 ^ n).sum),
           q := gen 8 fun n => tab (min (qDepth n) (fld qs (8 * n) 7)) fun j =>
             tab (entryWords n) fun k => BitVec.ofNat 32 (m.num ((queueAt n).1 + (queueAt n).2 * j + 4 * k) 4),
           dyn := gen 8 fun i =>
             let b := 0x1000 + 0x1000 * i
             { sw := BitVec.ofNat 9728 (m.num b 1216), gs := BitVec.ofNat 2048 (m.num (b + 1216) 256),
               off := BitVec.ofNat 9216 (m.num (b + 1472) 1152), ev := BitVec.ofNat 1024 (m.num (b + 2624) 128),
               es := BitVec.ofNat 10240 (m.num (b + 2752) 1280) } }

end Sys2Proof.Machine
end

