-- ==== Sys2Proof/Machine/Launch.lean ====
section
/-!
DEFINITION. Launch queues, the distributor, binding and the end of a task (R307 to R324, R407).
-/

namespace Sys2Proof.Machine

/-! ## The end of a task (R323) -/

/-- The completion record. -/
def completion (l : Launch) (enmtr exit num status : Nat) : BitVec 256 :=
  BitVec.ofNat 256 (status % 2 ^ 16 * 2 ^ 16 + num % 2 ^ 16 * 2 ^ 48 + exit % 2 ^ 32 * 2 ^ 64 + enmtr % 2 ^ 64 * 2 ^ 128 +
    l.tag.toNat * 2 ^ 192)

/-- The completion record's place cannot be reached now (R358, R371). -/
def State.reportWaits (s : State) (vf : Nat) (l : Launch) : Bool :=
  l.stat != 0 && s.unitWriteWaits (s.vf vf).asid.toNat l.stat.toNat 32

/-- Steps 2 and 3 for a launch: the completion record, then the signal. -/
def State.reportEnd (s : State) (vf : Nat) (l : Launch) (enmtr exit num status : Nat) (normal : Bool) : State :=
  let s := if l.stat = 0 then s
    else s.writeG (s.vf vf).asid.toNat l.stat.toNat (leBytes 32 (completion l enmtr exit num status).toNat)
  if l.sv then s.signal l.sigc (if normal then l.sigamt.toNat else 2 ^ 32) else s

/-- A record that binds nothing ends with a status (R313, R323). -/
def State.failLaunch (s : State) (p vf : Nat) (l : Launch) (status : Nat) : State :=
  (s.reportEnd vf l 0 0 0xFFFF status false).setIp p 2

/-- A source within a troupe, once its cores are given up at a pre-emption: an operation of a command keeps the command's word
and bundle. -/
def State.parkedSrc (s : State) (t : Nat) (x : CtrSrc) : CtrSrc :=
  match x with
  | .cmd a id =>
    if agentTroupe a == some t then
      match (s.core? a).bind fun c => c.cmds.find? fun k => k.id == id with
      | some k => .slot a k.word k.baddr
      | none => x
    else x
  | _ => x

/-- A pre-empted troupe gives up its cores (R284): what its words posted goes on, granules on their way to their walls change
nothing there but their adds apply (log 24), and messages wait (R231). -/
def State.parkTroupe (s : State) (t : Nat) : State :=
  let src := s.parkedSrc t
  let due := s.flight.filter fun g => agentTroupe g.dst == some t
  let s : State :=
    { s with ctrOps := s.ctrOps.map fun o => { o with src := src o.src },
             flight := s.flight.map fun g => { g with src := src g.src },
             inMsgs := s.inMsgs.map fun g => { g with src := src g.src },
             out := s.out.map fun o => { o with src := src o.src },
             acked := s.acked.map fun o => { o with src := src o.src } }
  due.foldl (fun s g => s.writeGranule { g with src := src g.src }) s

/-- What a troupe's cores still had under way elsewhere loses its source at its task's end: refusals of it are dropped, and
what was bound for its cores is too. -/
def State.forgetTroupe (s : State) (t : Nat) : State :=
  let mine (a : Agent) : Bool := agentTroupe a == some t
  let src (x : CtrSrc) : CtrSrc := match x.agent with
    | some a => if mine a then .system else x
    | none => x
  { s with ctrOps := s.ctrOps.map fun o => { o with src := src o.src },
           atoms := s.atoms.filter fun e => !mine e.agent,
           flight := (s.flight.filter fun g => !mine g.dst).map fun g => { g with src := src g.src },
           inMsgs := (s.inMsgs.filter fun g => g.trp != t).map fun g => { g with src := src g.src },
           out := s.out.map fun o => { o with src := src o.src },
           acked := s.acked.map fun o => { o with src := src o.src } }

/-- The end of a task whose status is known: the record, the signal, and what it held is free (R323). Its fault records
that are still to be written stay with the entry (R280). -/
def State.endTask (s : State) (t : Nat) : State :=
  match s.troupe? t with
  | none => s
  | some tr =>
    match tr.status with
    | none => s
    | some st =>
      let exit := ((tr.kept.head?.bind (·.2)).map (·.toNat)).getD 0
      let s := ((s.endDeviation t).note t s.wall tr.vcc.toNat 0 0 0 5 none 3).flushTrace t none
      let s := s.reportEnd tr.vf tr.launch (tr.en / 2 ^ 8) exit tr.num st.toNat tr.normal
      let s := s.freeCtrs fun c => c.task == some tr.num
      let s := (s.forgetTroupe t).modVf tr.vf fun v =>
        { v with doneRes := v.doneRes ++ [tr.reserved], doneLast := v.doneLast ++ [tr.reservedLast],
                 queues := v.queues.map fun q => { q with resume := q.resume.filter fun n => n != tr.num }.settleHead s.wall }
      let s := s.modTroupe t fun tr => { tr with status := none, st := .retiring, cores := [], reserved := 0, reservedLast := 0 }
      s.setIp tr.part 2

/-- A troupe entry that holds nothing any more, neither a task nor a record to be written. -/
def Troupe.gone (tr : Troupe) : Bool := tr.st == .unbound || (tr.st == .retiring && tr.status.isNone && tr.recs.isEmpty)

/-- A live troupe: a task that has not ended. -/
def Troupe.live (tr : Troupe) : Bool := tr.st != .unbound && !(tr.st == .retiring && tr.status.isNone)

/-- The task of a pre-empted troupe ends with a status (R323, R327, R329). -/
def State.endPreempted (s : State) (t : Nat) (status : BitVec 16) : State :=
  (s.modTroupe t fun tr => { tr with st := .retiring, status := some status, normal := false }).endTask t

/-! ## Placement (R14, R320, R322, R327) -/

/-- A core belongs to a partition's rings (R325). -/
def State.ownRing (s : State) (p die loc : Nat) : Bool := (s.part p).rings.getLsbD (8 * die + loc / 4)

/-- A core's ring can run: powered, its die not in reset (R398, R399). -/
def State.coreOf (s : State) (p die loc : Nat) : Bool :=
  s.ownRing p die loc && !s.gateRing.getLsbD (8 * die + loc / 4) && !s.dieDown die

/-- A pending command removes a ring, or changes the partition altogether (R327 step 1). -/
def State.ringBlocked (s : State) (p die loc : Nat) : Bool :=
  match s.ptCmd with
  | none => false
  | some c =>
    let r := 8 * die + loc / 4
    let d := c.descs.headD 0
    match c.op with
    | 2 => c.id == p && !d.getLsbD (448 + r)
    | 3 => c.id == p && d.getLsbD (448 + r)
    | 4 => c.id == p
    | 5 => (c.descs.getD p 0) != (s.part p).desc
    | _ => false

/-- The cores of a placement in rank order: the lowest block of the first span that has one, or the lowest m whole spans
(R322). -/
def placeShape (ok : Nat → Nat → Bool) (shape m : Nat) : Option (List (Nat × Nat)) :=
  let n := 2 ^ shape
  let block (die b k : Nat) : List (Nat × Nat) := tab k fun i => (die, b + i)
  if shape ≤ 5 then
    (tab 8 fun die => die).findSome? fun die =>
      ((tab (32 / n) fun j => n * j).find? fun b => (tab n fun i => b + i).all (ok die)).map fun b => block die b n
  else
    let spans := (tab 8 fun die => die).filter fun die => (tab 32 fun i => i).all (ok die)
    if shape = 6 && m ≤ spans.length then some ((spans.take m).flatMap fun die => block die 0 32) else none

/-- Another partition isolates a near-tier die on which it has a ring (R387). -/
def State.isolated (s : State) (p die : Nat) : Bool :=
  (tab 12 id).any fun k => k != p && (s.bank k).dbProf[62] && fld (s.part k).rings.toNat (8 * die) 8 != 0

def State.place (s : State) (p shape m : Nat) : Option (List (Nat × Nat)) :=
  placeShape (fun die loc =>
    s.coreOf p die loc && s.coreFree die loc && !s.ringBlocked p die loc && !s.isolated p die) shape m

/-- The partition holds an aligned block of the shape, free or not (R313, R329). -/
def State.shapeFits (s : State) (p shape m : Nat) : Bool := (placeShape (s.ownRing p) shape m).isSome

/-! ## Binding (R317, R323) -/

/-- The lowest context slot of a VF that no task holds. -/
def State.freeSlot (s : State) (vf : Nat) : Option Nat :=
  (tab (s.vf vf).nslot.toNat id).find? fun j => s.troupes.all fun tr => !(tr.vf == vf && tr.slot == j && tr.live)

/-- The lowest troupe number that no live troupe holds (R319). -/
def State.freeNumber (s : State) : Option Nat :=
  (tab 65536 id).find? fun n => s.troupes.all fun tr => !(tr.num == n && tr.live)

/-- The first place in the list for a new troupe. -/
def State.freeEntry (s : State) : Nat := (s.troupes.findIdx? fun tr => tr.gone).getD s.troupes.length

/-- The parameter block's 256 bytes (R317). -/
def paramBlock (l : Launch) (ctr0 : BitVec 32) (num vf : Nat) (job : BitVec 16) : List Byte :=
  (l.params.flatMap fun w => leBytes 8 w.toNat) ++ leBytes 4 ctr0.toNat ++ leBytes 4 l.nctr ++ leBytes 8 l.tag.toNat ++
  leBytes 2 num ++ leBytes 2 vf ++ leBytes 2 job.toNat ++ leBytes 2 l.mbx.toNat ++ tab 40 fun _ => 0

/-- G address of a context slot, and of its save region (R308, R317, R318). -/
def Vf.slotAt (v : Vf) (j : Nat) : Nat := fld v.ctx.toNat 16 41 * 65536 + 65536 * j
def Vf.saveAt (v : Vf) (j : Nat) : Nat := fld v.sav.toNat 25 32 * 2 ^ 25 + 2 ^ 25 * j

/-- A core at its launch values (R63, R65, R82). -/
def launchCore (img : Image) (l : Launch) (slotAt cspan k : Nat) (at' : Nat × Nat) : Core :=
  let c := Core.launch
  let s1 := vset c.s 1 (BitVec.ofNat 64 slotAt)
  let st := (img.streams.find? fun st => st.ranks.getLsbD k).map (·.bank)
  let wall (d : Nat × List Byte) : List (Option Byte) := d.2.mapIdx fun i b => if d.1 + i < 2 ^ 23 then some b else none
  { c with rank := k, lrank := k % cspan, spos := k / cspan, die := at'.1, loc := at'.2,
           s := (tab 8 id).foldl (fun s i => vset s (8 + i) (l.params.getD i 0)) s1,
           coord := coords img l.params (k % cspan) (k / cspan),
           bank := (st.getD []).foldl (fun m d => m.writeO d.1 (wall d)) [],
           holder := gen 128 fun _ => at'.2 % 4 }

/-- The troupe of a first binding. -/
def newTroupe (num vf q p : Nat) (l : Launch) (img : Image) (slot : Nat) (ctr0 : BitVec 32) (prio wall : Nat)
    (cores : List Core) : Troupe :=
  { num := num, vf := vf, queue := q, part := p, launch := l, image := img, slot := slot, ctr0 := ctr0, prio := prio,
    since := wall, st := .running, loading := true, loadedAt := wall, vcc := 0, adv := 0, rcount := 0, rsmd := false,
    unal := false, n0 := 0, holds := [], run := 0, dev := none, heldTotal := 0, limit := 0x10000, prq := 0,
    cref := false, recs := [], seq := 0, noResume := false, stopped := false, resumeAt := none, resuming := false,
    realign := false, spix := 0, bp := gen 4 fun _ => 0, dbStep := 0, en := 0, recent := [], share := (0, 0), reserved := 0,
    cores := cores, status := none, normal := false, back := .running, stepNow := 0, kept := [], preCause := none, noPre := none,
    trec := [], reservedLast := 0 }

/-- A troupe takes its place in the list. -/
def State.putTroupe (s : State) (t : Nat) (tr : Troupe) : State :=
  if t < s.troupes.length then s.setTroupe t tr else { s with troupes := s.troupes ++ [tr] }

/-- Every core of a troupe takes a fresh snapshot (R249, R255). -/
def State.renewAll (s : State) (t : Nat) : State :=
  (tab (((s.troupe? t).map fun tr => tr.cores.length).getD 0) id).foldl (fun s r => s.renew (.core t r)) s

/-- The image that a launch names, read again as the load of its binding reads it: of the shape that was checked. -/
def State.loadImage (s : State) (vf : Nat) (l : Launch) : Option Image :=
  (s.readImage (s.vf vf).asid.toNat l.kimg.toNat).filter fun i => i.shape == l.shape && i.m == l.m

/-- What stands for an image whose load failed: the task ends before it runs. -/
def Launch.noImage (l : Launch) : Image :=
  { shape := l.shape, m := l.m, dmax := 0, loop := gen 8 fun _ => 0, streams := [], pats := [], routines := [] }

/-- A first binding (R323 steps 1 to 3): cores, counters, parameter block, load; its trace record (R381); a load that fails to
read the image ends the task. -/
def State.bindNew (s : State) (p vf q : Nat) (l : Launch) (prio : Nat) (cores : List (Nat × Nat)) : State :=
  match s.freeSlot vf, s.freeNumber with
  | some slot, some num =>
    let v := s.vf vf
    let load := s.loadImage vf l
    let img := load.getD l.noImage
    let die := (cores.headD (0, 0)).1
    let first := if l.nctr = 0 then 0 else (s.freeRun die l.nctr).getD 0
    let ctr0 := if l.nctr = 0 then 0 else BitVec.ofNat 32 (die * 2 ^ 28 + first)
    let (cspan, _) := (shapeSize img.shape img.m).getD (1, 1)
    let s := if l.nctr = 0 then s else s.allocCtrs die first l.nctr vf (some num)
    let t := s.freeEntry
    let cs := cores.mapIdx fun k at' => launchCore img l (v.slotAt slot) cspan k at'
    let tr := newTroupe num vf q p l img slot ctr0 prio s.wall cs
    let s' := (s.putTroupe t tr).note t s.wall 0 0 0 0 5 none 0
    if load.isNone || (s.writeFault v.asid.toNat (v.slotAt slot) 256).isSome then s'.endPreempted t 0x0005
    else (s'.writeG v.asid.toNat (v.slotAt slot) (paramBlock l ctr0 num vf v.job)).renewAll t
  | _, _ => s

/-- A resumption's binding (R38, R285, R321): the same ranks on other cores, the kept state read back, and each core at
its restore routine. -/
def State.bindResumed (s : State) (t : Nat) (cores : List (Nat × Nat)) : State :=
  match s.troupe? t with
  | none => s
  | some tr =>
    let v := s.vf tr.vf
    let (cspan, _) := (shapeSize tr.image.shape tr.image.m).getD (1, 1)
    let blocks := cores.mapIdx fun k _ => s.readG v.asid.toNat (v.saveAt tr.slot + 2 ^ 17 * k) 0x20000
    if blocks.any Option.isNone then s.endPreempted t 0x0005
    else
      let cs := cores.mapIdx fun k at' =>
        let m := Mem.write [] 0 ((blocks.getD k none).getD [])
        let fin := (tr.kept.getD k (0, none)).2
        let st := tr.streamOf k
        let c := (launchCore tr.image tr.launch (v.slotAt tr.slot) cspan k at').ofKept m
        { c with chg := [(at'.1, 0x00, 1)], fin := fin, routineDone := fin.isSome, s := vset c.s 63 (BitVec.ofNat 64 (64 * st.bundles)),
                 pc := (st.sps.getD (m.num 8 8 % 4096) (0, 0)).2 }
      let m0 := Mem.write [] 0 ((blocks.getD 0 none).getD [])
      (s.setTroupe t { tr with st := .restoring, loading := false, vcc := BitVec.ofNat 64 (m0.num 0 8), rcount := 0,
                               limit := BitVec.ofNat 32 (m0.num 0x18 8), rsmd := true, resuming := true, cores := cs,
                               holds := [], run := 0, dev := none }).renewAll t

/-- TROUPE_START (R323 step 4, R28, R255): on the first frame tick after the load, VCC 0 begins, or the resumed n with a
fresh snapshot on every core. -/
def execTroupeStart (t : Nat) (s : State) : Host.Outcome State Fault Refusal :=
  match s.troupe? t with
  | some tr =>
    if !tr.loading || s.wall % Config.tick ≠ 0 || s.wall ≤ tr.loadedAt || (tr.st != .running && tr.st != .restoring) then
      notEnabled "TROUPE_START"
    else
      let again := tr.st == .restoring
      let tr' : Troupe :=
        { tr with st := .running, loading := false, resuming := true, n0 := tr.adv, stepNow := 0,
                  unal := again && tr.vcc.toNat % Config.tick != 0,
                  cores := tr.cores.mapIdx fun r c =>
                    let c := { c with chg := c.chg ++ [(c.die, 0x15, 1), (c.die, 0x00, 1)] }
                    if again then { c with pc := (tr.kept.getD r (0, none)).1, routineDone := false, done := 0 } else c }
      let s := s.setTroupe t tr'
      -- the record of a resumption; that of the binding stands since then (R381)
      .next (if again then (s.note t s.wall tr.vcc.toNat 0 0 0 5 none 1).renewAll t else s)
  | none => notEnabled "TROUPE_START"

/-! ## Queues (R310, R311) -/

/-- A queue's descriptor as the distributor reads it: enabled and legal, or why not. -/
def LQueue.ofBytes (b : List Byte) (old : LQueue) : LQueue :=
  let en := numAt b 0 8 % 2 == 1
  let spc := fld (numAt b 0 8) 1 1 == 1
  let prod := fld (numAt b 0 8) 2 1 == 1
  let lsz := fld (numAt b 8 8) 0 4
  let bad := numAt b 0 8 / 8 ≠ 0 || numAt b 8 8 / 16 ≠ 0 || numAt b 16 8 ≠ 0 || lsz < 2 || 12 < lsz || (spc && prod)
  if !en then { old with en := false, bad := false }
  else if old.en || old.bad then old
  else if bad then { old with bad := true }
  else { old with en := true, base := numAt b 24 8, lsz := lsz, prod := prod, spc := spc, head := 0, tail := 0, led := false, waited := false }

/-- The distributor reads the queue table of a VF that takes part in selection, where it can be reached. -/
def State.readQueues (s : State) (vf : Nat) : State :=
  let v := s.vf vf
  if !v.en || v.part == 0xF || s.unitWaits v.asid.toNat (fld v.lqt.toNat 11 46 * 2048) 2048 then s
  else
    let base := fld v.lqt.toNat 11 46 * 2048
    (tab 64 id).foldl (fun s q =>
      let b := (s.readG v.asid.toNat (base + 32 * q) 32).getD []
      let old := (s.vf vf).queue q
      let new := LQueue.ofBytes b old
      if new = old then s else s.modVf vf fun v => v.modQueue q fun _ => new) s

/-- What a host read of a queue's doorbell returns (R310, R311). -/
def State.doorbellRead (s : State) (vf q : Nat) : BitVec 64 :=
  let lq := (s.vf vf).queue q
  if lq.bad then BitVec.allOnes 64 else lq.head ++ lq.tail

/-- QUEUE_DOORBELL (R311): a host write of a host-produced queue's doorbell; it raises DBL in the VF's partition (R268). -/
def execQueueDoorbell (vf q : Nat) (t : BitVec 32) (s : State) : Host.Outcome State Fault Refusal :=
  if 96 ≤ vf || 64 ≤ q then notEnabled "QUEUE_DOORBELL"
  else
    let lq := (s.vf vf).queue q
    let s := if (s.vf vf).part.toNat < 12 then s.setIp (s.vf vf).part.toNat 3 else s
    if lq.en && !lq.prod && decide ((t - lq.head).toNat ≤ 2 ^ lq.lsz) && decide ((t - lq.tail).toNat < 2 ^ 31) then
      .next (s.modVf vf fun v => v.modQueue q fun y => y.produce t s.wall)
    else .next s

/-- The bytes of a queue's record with count c. -/
def State.record (s : State) (vf : Nat) (q : LQueue) (c : BitVec 32) : Option (List Byte) :=
  if q.spc then some ((s.hostMem (some vf)).read (q.slot c) 256) else s.readG (s.vf vf).asid.toNat (q.slot c) 256

/-! ## Heads (R320) -/

/-- The head of a queue. -/
inductive Head where
  | resume (t : Nat)
  | held (l : Launch) (since : Nat)
  | fresh (l : Launch) (bytes : Option (List Byte))
  deriving DecidableEq, Repr

/-- The position of the live troupe of a number. -/
def State.byNumber (s : State) (n : Nat) : Option Nat := s.troupes.findIdx? fun tr => tr.num == n && tr.live

def State.headOf (s : State) (vf : Nat) (q : LQueue) : Option Head :=
  match q.resume.head?.bind s.byNumber with
  | some t => some (.resume t)
  | none => match q.held with
    | some (l, n) => some (.held l n)
    | none =>
      if q.head = q.tail || (!q.spc && s.unitWaits (s.vf vf).asid.toNat (q.slot q.head) 256) then none
      else
        let b := s.record vf q q.head
        some (.fresh ((b.map Launch.ofBytes).getD Launch.none) b)

/-- The counter of a handle that a VF may use (R316). -/
def State.vfCounter (s : State) (vf : Nat) (h : BitVec 32) : Option Counter :=
  (s.ctr? h).bind fun c => if c.vf == vf then some c else none

/-- A record's wait is satisfied, or cannot be judged because the record or its handle is bad. -/
def State.waitOver (s : State) (vf : Nat) (l : Launch) : Bool :=
  !l.wv || match s.vfCounter vf l.waitc with
    | none => true
    | some c => !c.lost && decide (l.wtgt.toNat ≤ c.value.toNat)

/-- The wait's counter is orphaned or its home lost (status 0x0008): a wait that had begun finds its counter
freed (R315). -/
def State.waitOrphaned (s : State) (vf : Nat) (waited : Bool) (l : Launch) : Bool :=
  l.wv && ((s.vfCounter vf l.waitc).map fun c => c.lost).getD waited

/-- Counters for a first binding are free on some die: the one that its placement will name, or for want of one any near
die. -/
def State.ctrsFree (s : State) (p shape m nctr : Nat) : Bool :=
  nctr == 0 || match s.place p shape m with
    | some l => (s.freeRun (l.headD (0, 0)).1 nctr).isSome
    | none => (tab 8 id).any fun d => (s.freeRun d nctr).isSome

/-- What a head's selection reads or writes cannot be reached now (R358, R371): its record's completion, its image or topology
body, its slot, or a pre-empted task's save region. -/
def State.headWaits (s : State) (vf : Nat) (h : Head) : Bool :=
  let v := s.vf vf
  let asid := v.asid.toNat
  let launch (l : Launch) : Bool :=
    let n := if l.typ == 1 then 320 else max 256 ((s.readG asid l.kimg.toNat 256).elim 0 fun b => numAt b 136 8)
    s.reportWaits vf l || s.unitWaits asid l.kimg.toNat 256 || s.unitWaits asid l.kimg.toNat n ||
    (s.freeSlot vf).any fun j => s.unitWriteWaits asid (v.slotAt j) 256
  match h with
  | .resume t => (s.troupe? t).any fun tr => (tab tr.kept.length id).any fun k =>
      s.unitWaits asid (v.saveAt tr.slot + 2 ^ 17 * k) 0x20000
  | .held l _ => launch l
  | .fresh l _ => launch l

/-- The head counts in this round. -/
def State.eligible (s : State) (p vf : Nat) : Head → Bool
  | .resume _ => true
  | .held l _ => (s.freeSlot vf).isSome && s.ctrsFree p l.shape l.m l.nctr
  | .fresh l _ => s.waitOver vf l && (s.freeSlot vf).isSome &&
      (if l.typ == 1 then l.nctr == 0 || (s.freeRun 8 l.nctr).isSome else s.ctrsFree p l.shape l.m l.nctr)

/-- eff(h): the priority, aged by frame ticks. -/
def State.eff (s : State) (q : LQueue) : Head → Nat
  | .resume t =>
    let tr := s.troupe? t
    min 15 ((tr.map (·.prio)).getD 0 + (s.wall / Config.tick - (tr.map (·.since)).getD 0 / Config.tick) / 2 ^ 20)
  | .held l since => min 15 (l.prio + (s.wall / Config.tick - since / Config.tick) / 2 ^ 20)
  | .fresh l _ => min 15 (l.prio + (s.wall / Config.tick - q.since / Config.tick) / 2 ^ 20)

/-- VFs that take part in a partition's selection. -/
def State.selects (s : State) (p vf : Nat) : Bool :=
  let v := s.vf vf
  v.en && v.part.toNat == p && !v.exh

/-- Every head of a partition's queues: VF, queue, head. -/
def State.heads (s : State) (p : Nat) : List (Nat × Nat × Head) :=
  (tab 96 id).flatMap fun vf =>
    if s.selects p vf then
      ((s.vf vf).queues.mapIdx fun q lq => (q, lq)).filterMap fun e =>
        if e.2.en then (s.headOf vf e.2).map fun h => (vf, e.1, h) else none
    else []

/-- The next in cyclic order of keys after `last` (R320). -/
def nextKey (last : Nat) (l : List (Nat × Nat × Head)) : Option (Nat × Nat × Head) :=
  let key (e : Nat × Nat × Head) : Nat := (64 * e.1 + e.2.1 + 6144 - last % 6144 - 1) % 6144
  l.foldl (fun b e => match b with
    | none => some e
    | some x => if key e < key x then some e else some x) none

/-! ## The checks of a record (R313) -/

/-- The topology body of a TYPE 1 record (R364): well formed, its ports those of the partition. -/
def State.topoBody (s : State) (p vf : Nat) (l : Launch) : Option (List Byte) :=
  match s.readG (s.vf vf).asid.toNat l.kimg.toNat 64 with
  | none => none
  | some h =>
    let n := numAt h 0 2
    if n = 0 || 16 < n || numAt h 2 6 ≠ 0 || numAt h 18 46 ≠ 0 || numAt h 16 2 % 2048 = 0 then none
    else match s.readG (s.vf vf).asid.toNat l.kimg.toNat (64 + 16 * n) with
      | none => none
      | some b =>
        let ports := tab n fun j => numAt b (64 + 16 * j) 1
        let clean := (tab n id).all fun j => numAt b (65 + 16 * j) 1 == 0 && numAt b (70 + 16 * j) 10 == 0
        if clean && ports.eraseDups.length == n && ports.all fun q => q < 16 && (s.part p).ports.getLsbD q then some b
        else none

/-- What a record that passes its checks launches. -/
inductive Checked where
  | task (img : Image)
  | topology (body : List Byte)
  | bad (status : Nat)
  deriving DecidableEq, Repr

/-- R313 on a selected record, in its order. -/
def State.check (s : State) (p vf : Nat) (l : Launch) (bytes : Option (List Byte)) : Checked :=
  let names (v : Bool) (h : BitVec 32) : Bool := !v || (s.vfCounter vf h).isSome
  match bytes with
  | none => .bad 1
  | some b =>
    if !launchOk b || !names l.sv l.sigc || !names l.wv l.waitc then .bad 1
    else if l.typ = 1 then
      match s.topoBody p vf l with
      | some body => .topology body
      | none => .bad 9
    else match s.readImage (s.vf vf).asid.toNat l.kimg.toNat with
      | none => .bad 5
      | some img =>
        if l.shape ≠ img.shape || l.m ≠ img.m || (shapeSize l.shape l.m).isNone then .bad 2
        else match loopTableBad img l.npar l.params with
          | some st => .bad st.toNat
          | none => if s.shapeFits p l.shape l.m then .task img else .bad 6

/-! ## The round (R320) -/

def State.setLast (s : State) (p k : Nat) : State := { s with last := vset s.last p k }

/-- The record at HEAD is consumed. -/
def State.consume (s : State) (vf q : Nat) : State :=
  s.modVf vf fun v => v.modQueue q fun y => { y with head := y.head + 1, led := false, waited := false }

/-- The next head of a queue is one from now on. -/
def State.nextHead (s : State) (vf q : Nat) : State := s.modVf vf fun v => v.modQueue q fun y => y.settleHead s.wall

/-- A first launch is placed and bound, or kept as its queue's held head, which was a head from `since` on (R407); with
whether the round goes on. -/
def State.tryBind (s : State) (p vf q : Nat) (l : Launch) (eff since : Nat) : State × Bool :=
  let hold (h : Option (Launch × Nat)) : State := (s.modVf vf fun v => v.modQueue q fun y => { y with held := h }).nextHead vf q
  match (s.place p l.shape l.m).filter fun cores => l.nctr == 0 || (s.freeRun (cores.headD (0, 0)).1 l.nctr).isSome with
  | some cores => (((hold none).bindNew p vf q l eff cores).setLast p (64 * vf + q), true)
  | none => (hold (some (l, since)), false)

/-- One selection of a partition's round; with whether the round goes on. -/
def State.selectOne (s : State) (p : Nat) : State × Bool :=
  let hs := (s.heads p).filter fun e => s.eligible p e.1 e.2.2 && !s.headWaits e.1 e.2.2
  let eff (e : Nat × Nat × Head) : Nat := s.eff ((s.vf e.1).queue e.2.1) e.2.2
  let top := (hs.map eff).foldl max 0
  match nextKey (vget 63 s.last p) (hs.filter fun e => eff e == top) with
  | none => (s, false)
  | some (vf, q, h) =>
    match h with
    | .resume t =>
      match s.troupe? t with
      | none => (s, false)
      | some tr =>
        match s.place p tr.image.shape tr.image.m with
        | none => (s, false)
        | some cores =>
          let s := (s.modVf vf fun v => v.modQueue q fun y => { y with resume := y.resume.drop 1 }).nextHead vf q
          (((s.modTroupe t fun tr => { tr with prio := top }).bindResumed t cores).setLast p (64 * vf + q), true)
    | .held l since => s.tryBind p vf q l top since
    | .fresh l b =>
      let since := ((s.vf vf).queue q).since
      let s := s.consume vf q
      match s.check p vf l b with
      | .bad st => ((s.nextHead vf q).failLaunch p vf l st, true)
      | .topology body =>
        let s := s.nextHead vf q
        let c : Topo := { id := s.nextId, vf := vf, launch := l, asid := (s.vf vf).asid.toNat, body := body, since := s.wall, started := false }
        let s : State := { s.fresh with topo := s.topo ++ [c] }
        let s := match (if l.nctr = 0 then none else s.freeRun 8 l.nctr) with
          | some i => s.allocCtrs 8 i l.nctr vf (some (65536 + c.id))
          | none => s
        (s.setLast p (64 * vf + q), true)
      | .task _ => s.tryBind p vf q l top since

/-- The entries of a partition's queues: no more selections than these can succeed in one round. -/
def State.entries (s : State) (p : Nat) : Nat :=
  (((tab 96 id).filter fun v => (s.vf v).part.toNat == p).map fun v =>
    ((s.vf v).queues.map fun q => (q.tail - q.head).toNat + q.resume.length + bit q.held.isSome).sum).sum

/-- A partition's round: selections until one ends it. -/
def State.roundOf (p : Nat) : Nat → State → State
  | 0, s => s
  | k + 1, s => match s.selectOne p with
    | (s', true) => State.roundOf p k s'
    | (s', false) => s'

/-- Heads whose wait is orphaned are consumed with status 0x0008 (R323). -/
def State.dropOrphans (s : State) (p : Nat) : State :=
  (s.heads p).foldl (fun s e => match e.2.2 with
    | .fresh l _ =>
      if s.waitOrphaned e.1 ((s.vf e.1).queue e.2.1).waited l then
        ((s.consume e.1 e.2.1).nextHead e.1 e.2.1).failLaunch p e.1 l 8
      else if l.wv && (s.vfCounter e.1 l.waitc).isSome then
        s.modVf e.1 fun v => v.modQueue e.2.1 fun y => { y with waited := true }
      else s
    | _ => s) s

/-- DISTRIBUTOR_ROUND (R320): in the wall cycle of a frame tick, the partitions in ascending number; after the wall cycle's
system writes and charges, which it sees (R324, R330, R400). -/
def execDistributorRound (s : State) : Host.Outcome State Fault Refusal :=
  if s.wall % Config.tick ≠ 0 || !s.released then notEnabled "DISTRIBUTOR_ROUND"
  else
    let s := (tab 96 id).foldl (fun s v => s.readQueues v) s
    .next ((tab 12 id).foldl (fun s p =>
      if (s.part p).exist then State.roundOf p (s.entries p + 1) (s.dropOrphans p) else s) s)

/-- The WDL-th frame tick after a head's wall cycle has come (R128, R323). -/
def State.waitExpired (s : State) (vf q : Nat) : Bool :=
  let v := s.vf vf
  let lq := v.queue q
  s.wall % Config.tick == 0 && v.en && v.part != 0xF && lq.en &&
  match s.headOf vf lq with
  | some (.fresh l _) => l.wv && !s.waitOver vf l && decide (dlTicks l.wdl ≤ s.wall / Config.tick - lq.since / Config.tick)
  | _ => false

/-- LAUNCH_WAIT_EXPIRED (R323): the head is consumed with status 0x0007. -/
def execLaunchWaitExpired (vf q : Nat) (s : State) : Host.Outcome State Fault Refusal :=
  if 96 ≤ vf || !s.waitExpired vf q then notEnabled "LAUNCH_WAIT_EXPIRED"
  else
    let lq := (s.vf vf).queue q
    match s.headOf vf lq with
    | some (.fresh l _) => .next (((s.consume vf q).nextHead vf q).failLaunch (s.vf vf).part.toNat vf l 7)
    | _ => notEnabled "LAUNCH_WAIT_EXPIRED"

/-! ## Counters of a VF (R315) -/

def execCtAllocate (m : Nat) (v : BitVec 64) (s : State) : Host.Outcome State Fault Refusal :=
  if 2 ≤ m || fld v.toNat 62 2 ≠ 1 then notEnabled "CT_ALLOCATE" else .next (s.ctCommand (s.mg m).part.toNat v)

def execCtFree (m : Nat) (v : BitVec 64) (s : State) : Host.Outcome State Fault Refusal :=
  if 2 ≤ m || fld v.toNat 62 2 ≠ 2 then notEnabled "CT_FREE" else .next (s.ctCommand (s.mg m).part.toNat v)

end Sys2Proof.Machine
end

