-- ==== Sys2Proof/Machine/Hold.lean ====
section
/-!
DEFINITION. The boundary between two VCC cycles: holds, waits, advances, suspension and resumption (R18 to R29, R275,
R276, R378, R383).
-/

namespace Sys2Proof.Machine

/-! ## Causes of a hold (R24) -/

/-- Holds of one core before the cycle in which the count of advances is nx. -/
def State.coreHolds (s : State) (t r nx : Nat) (c : Core) : List Hold :=
  let h (code b : Nat) (sl : Option Nat) : Hold := { code := code, rank := c.rank, baddr := b, slot := sl }
  (c.fetches.filterMap fun f =>
    if nx < f.due then none
    else match f.st with
      | .walking => some (h 5 f.baddr (some f.word))
      | .ready _ => some (h 1 f.baddr (some f.word))
      | _ => none) ++
  (c.gemv.filterMap fun g =>
    if g.rem || nx < g.due then none
    else match g.st with
      | .walking => some (h 5 g.baddr (some 5))
      | .failed .. => none
      | _ => if g.arrived ≤ g.next then some (h 4 g.baddr (some 5)) else none) ++
  (c.pend.filterMap fun p =>
    if nx < p.due then none
    else match p.act with
      | .cmd id 1 i => (c.cmd? id).bind fun k =>
          let q := k.piece i
          if q.data.isSome || q.failed.isSome || k.failed.isSome then none
          else some (h (if q.walking && !k.op.host then 5 else 2) p.baddr (some p.word))
      | .cmd _ 0 _ => if c.bufferFull nx p then some (h 3 p.baddr (some p.word)) else none
      | _ => none) ++
  ((c.startsFull nx).map fun k => h 3 k.baddr (some k.word)) ++
  (match c.wait with
    | none => []
    | some w =>
      if nx ≤ w.iss then []
      else match w.kind with
      | .phase _ =>
        -- while a walk is unfinished 0x5, while a page moves 0x7, otherwise 0x9 (R248)
        let cx := s.ctx (.core t r)
        let code (e : Egress) : Nat :=
          if e.blank then 9
          else match s.entryTarget (.core t r) e with
          | .ok (pa, pte) =>
            if pteMs pte == 1 || s.switching pa then 7
            else if s.tlbs.any fun z => z.leaf && z.covers cx e.va then 9
            else 5
          | .error _ => 5
        [h ((c.heads.map code).foldl min 9) w.baddr (some 2)]
      | _ => if w.report.isSome then [] else [h 8 w.baddr (some 2)])

/-- Every active cause, with a steal where one is due (R228). -/
def State.holdsOf (s : State) (t : Nat) (tr : Troupe) : List Hold :=
  let own := (tr.cores.mapIdx fun r c => s.coreHolds t r tr.nextAdv c).flatMap fun l => l
  let steal := if tr.resuming || !s.stealNeeded t then []
    else match (tr.cores.mapIdx fun r c => (r, c)).find? fun rc =>
        s.flight.any fun g => g.dst == .core t rc.1 && g.overdue (tr.adv + 1) with
      | some rc => [{ code := 6, rank := rc.2.rank, baddr := rc.2.pc, slot := none }]
      | none => []
  own ++ steal

/-- The cause that a held wall cycle is charged to: the lowest code, then the lowest rank (R25). -/
def charged (l : List Hold) : Option Hold :=
  l.foldl (fun b h => match b with
    | none => some h
    | some x => if h.code < x.code || (h.code == x.code && h.rank < x.rank) then some h else some x) none

/-- The run of R26 in this wall cycle, were it held. -/
def Troupe.nextRun (tr : Troupe) (hs : List Hold) : Nat := if hs.any fun h => h.code != 8 then tr.run + 1 else 0

/-- The run reaches LIMIT + 1 in this wall cycle (R26). -/
def Troupe.overLimit (tr : Troupe) (hs : List Hold) : Bool := tr.limit != 0 && decide (tr.limit.toNat < tr.nextRun hs)

/-- A held wall cycle: it is charged and counted, the troupe becomes unaligned, and arrivals use any bank (R22 to R28); a
stolen cycle writes its arrivals in a step of its own. -/
def State.heldCycle (s : State) (t : Nat) (hs : List Hold) : State :=
  match s.troupe? t, charged hs with
  | some tr, some h =>
    -- one run is of one cause, core and bundle; its record names the slot it began with (R383)
    let s := match tr.dev with
      | some (h', _, _) => if h'.code = h.code ∧ h'.rank = h.rank ∧ h'.baddr = h.baddr then s else s.endDeviation t
      | none => s
    let s := s.modTroupe t fun tr =>
      { tr with holds := hs, run := tr.nextRun hs, unal := true, heldTotal := tr.heldTotal + 1,
                st := if tr.st == .running then .held else tr.st,
                dev := if tr.inRoutine then none
                  else match tr.dev with
                    | some (h', n, w0) => some (h', n + 1, w0)
                    | none => some (h, 1, s.wall) }
    if s.stealNeeded t then s else (tab tr.cores.length id).foldl (fun s r => s.arrivalFree (.core t r)) s
  | _, _ => s

/-- HOLD_END (R22, R383): every cause of a hold has cleared. -/
def execHoldEnd (t : Nat) (s : State) : Host.Outcome State Fault Refusal :=
  match s.troupe? t with
  | some tr =>
    if tr.holds.isEmpty || !(s.holdsOf t tr).isEmpty then notEnabled "HOLD_END"
    else .next ((s.endDeviation t).modTroupe t fun tr =>
      { tr with holds := [], run := 0, st := if tr.st == .held then .running else tr.st })
  | none => notEnabled "HOLD_END"

/-! ## The advance (R18, R283) -/

/-- A core at the start of a VCC cycle: no word of its bundle has taken effect, no access of the cycle is made. -/
def Core.newCycle (c : Core) : Core :=
  { c with done := 0, reissue := false, failed := false, stop := none, late := none, acc70 := [], acc78 := [], old70 := 0,
           wrote := [] }

/-- The VCC, or in a routine the routine count, advances by one; each core pays its core-cycle (R292). The trace records of a
VCC value that has passed enter the ring; a routine passes none (R382). -/
def State.advance (s : State) (t : Nat) : State :=
  match s.troupe? t with
  | none => s
  | some tr =>
    let s := if tr.inRoutine then s else s.flushTrace t (some tr.vcc.toNat)
    s.modTroupe t fun tr =>
      { tr with adv := tr.adv + 1, vcc := if tr.inRoutine then tr.vcc else tr.vcc + 1,
                rcount := if tr.inRoutine then tr.rcount + 1 else tr.rcount,
                cores := tr.cores.map fun c => c.newCycle.charge 0x00 1 }

/-- The troupe enters the cycle: VCC n once more in a resumption, n + 1 otherwise. What a resumed cycle performed before the
suspension still counts for the conflicts of its VCC (R20, R276). A deviation run that a fault ends is recorded at its own n
(R383). -/
def State.enterCycle (s : State) (t : Nat) : State :=
  let s := s.endDeviation t
  match s.troupe? t with
  | none => s
  | some tr =>
    let s := if tr.resuming then
        s.modTroupe t fun tr =>
          { tr with resuming := false, cores := tr.cores.map fun c => { c with old70 := c.acc70.length } }
      else s.advance t
    { s with cursor := .perf t }

/-- A troupe whose hold run passes LIMIT takes the timing fault (R26). -/
def execHoldLimitFault (t : Nat) (s : State) : Host.Outcome State Fault Refusal :=
  match s.troupe? t with
  | some tr =>
    let hs := s.holdsOf t tr
    match charged hs with
    | none => notEnabled "HOLD_LIMIT_FAULT"
    | some h =>
      if !tr.overLimit hs || (tr.st != .running && tr.st != .held && tr.st != .saving && tr.st != .restoring) then
        notEnabled "HOLD_LIMIT_FAULT"
      else
        let s := s.endDeviation t
        let s := if tr.resuming then s else s.advance t
        let f (c : Core) : Raised :=
          { cause := 0x05, sub := 0x01, word := none, deferred := false, done := 2, baddr := c.pc, addr := 0,
            aux0 := tr.limit.zeroExtend 64, aux1 := 0, hnd := 0, code := 0, hcs := BitVec.ofNat 4 h.code, rtnw := false,
            kill := false }
        let s := s.modTroupe t fun tr =>
          { tr with holds := [], run := 0, resuming := false, st := if tr.st == .held then .running else tr.st,
                    cores := tr.cores.map fun c => if c.rank = h.rank then { c with raised := c.raised ++ [f c] } else c }
        .next { s with cursor := .fin t }
  | none => notEnabled "HOLD_LIMIT_FAULT"

/-! ## Reports of waits (R129, R131) -/

/-- The report of a wait that the cycle to come takes: a wait holds from the cycle after its issue on (R129, R287). -/
def Core.reportAt (c : Core) (nx : Nat) : Option (Wait × CtrRep) :=
  c.wait.bind fun w => if w.iss < nx then w.report.map fun r => (w, r) else none

/-- What a report does when the hold would end: a value is written, a failure is raised; the wait then stands to be
repeated. -/
def Core.takeReport (c : Core) (nx : Nat) : Core :=
  match c.reportAt nx with
  | none => c
  | some (w, r) =>
    let again : Option Wait := some { w with formed := none, report := none, op := 0 }
    let fail (e : Exc) : Core := { c.raiseLate 2 w.baddr e with wait := again }
    match r with
    | .value v =>
      { c with wait := none, pend := c.pend ++ [{ due := nx, iss := w.iss, word := 2, baddr := w.baddr, act := .wS w.d v,
                                                  flags := 0, rtn := none }] }
    | .orphan => fail { cause := 0x13, hnd := w.handle }
    | .homeLost => fail { cause := 0x11, hnd := w.handle }
    | .overrun tg o => fail { cause := 0x14, hnd := w.handle, aux0 := tg, aux1 := o.zeroExtend 64 }
    | .notArmed tg v => fail { cause := 0x03, hnd := w.handle, aux0 := tg, aux1 := v }
    | .expired tg v => fail { cause := 0x12, hnd := w.handle, aux0 := tg, aux1 := v }

/-! ## Resumption (R276, R378) -/

/-- A wait whose failure was recorded is made again, with a fresh deadline (R129); a `cread` too (DEDUCED, log 70). -/
def State.repeatWait (s : State) (a : Agent) : State :=
  match (s.core? a).bind fun c => c.wait.map fun w => (c, w) with
  | none => s
  | some (c, w) =>
    if w.op ≠ 0 then s
    else
      let kind : Option CtrKind := match w.kind with
        | .target v => some (.wait v)
        | .armed => some .waitArmed
        | .read => some .read
        | .phase _ => none
      match kind with
      | none => s
      | some k =>
        (s.postCtr w.handle k (.slot a 2 w.baddr)).setCore a
          (let w' : Wait := { w with op := s.nextId, ticks := dlTicks w.dl, since := s.wall }
           { c with wait := some w' })

/-- A failure of an access of word w of the bundle at b has been raised and not yet recorded: the troupe stood suspended when
it became known (R275). -/
def Core.unrecorded (c : Core) (w b : Nat) : Bool := c.raised.any fun f => f.deferred && f.word == some w && f.baddr == b

/-- A core's repairs at a resumption in cycle `now` (R276), but for the wait: what a record has told is made again, and a
supervisor call's reply performs in this cycle (R138). -/
def Core.repair (c : Core) (now : Nat) : Core :=
  let c : Core :=
    { c with egress := c.egress.map fun (e : Egress) => if c.unrecorded e.word e.baddr then e else { e with failed := none },
             stop := none, failed := false,
             cmds := c.cmds.map fun k => if c.unrecorded k.word k.baddr then k else k.repair }
  match c.sysc with
  | some d =>
    { c with sysc := none, reply := 0,
             pend := c.pend ++ [{ due := now, iss := now, word := 2, baddr := c.pc, act := .wS d c.reply, flags := 0,
                                  rtn := none }] }
  | none => c

/-- The resumption begins: VCC n once more. -/
def State.resumeNow (s : State) (t : Nat) : State :=
  match s.troupe? t with
  | none => s
  | some tr =>
    let tr' : Troupe :=
      { tr with st := tr.back, resumeAt := none, resuming := true, noResume := false, stopped := false, run := 0,
                stepNow := if tr.back == .running then tr.dbStep else 0, cores := tr.cores.map fun c => c.repair tr.adv }
    (tab tr.cores.length id).foldl (fun s r => s.repeatWait (.core t r)) (s.setTroupe t tr')

/-- RESUME (R271, R276): TRP_CTL command 0x01. -/
def execResume (t : Nat) (s : State) : Host.Outcome State Fault Refusal :=
  match s.troupe? t with
  | none => notEnabled "RESUME"
  | some tr =>
    if tr.st == .suspended && !tr.noResume then
      .next (s.setTroupe t { tr with resumeAt := some (tr.resumeAt.getD (s.wall + 32)) })
    else .next (s.setTroupe t { tr with cref := true })

/-- RETIRE (R271, R281): TRP_CTL command 0x02. -/
def execRetire (t : Nat) (status : BitVec 16) (s : State) : Host.Outcome State Fault Refusal :=
  match s.troupe? t with
  | none => notEnabled "RETIRE"
  | some tr =>
    if tr.st == .unbound || tr.st == .retiring then .next (s.setTroupe t { tr with cref := true })
    else .next (s.stopTroupe t status)

/-- REQUEST_PREEMPTION (R282): cause 0x40 + `cause`. The commands of TRP_CTL, causes 0x40 and 0x41, are refused in
states 0, 5 and 7 (R271). -/
def execRequestPreemption (t : Nat) (cause : Fin 5) (s : State) : Host.Outcome State Fault Refusal :=
  match s.troupe? t with
  | none => notEnabled "REQUEST_PREEMPTION"
  | some tr =>
    if tr.st == .unbound || tr.st == .preempted || tr.st == .retiring then
      (if cause.val < 2 then .next (s.setTroupe t { tr with cref := true }) else notEnabled "REQUEST_PREEMPTION")
    else .next (s.setTroupe t (tr.request (BitVec.ofNat 5 (2 ^ cause.val))))

/-- WITHDRAW_REQUEST (R271, R282): at hypervisor level both requests of TRP_CTL, at supervisor level its own; a
hypervisor's request refuses a supervisor that has none. -/
def execWithdrawRequest (t : Nat) (hyp : Bool) (s : State) : Host.Outcome State Fault Refusal :=
  match s.troupe? t with
  | none => notEnabled "WITHDRAW_REQUEST"
  | some tr =>
    if hyp then .next (s.setTroupe t { tr with prq := tr.prq &&& 0x1C })
    else if tr.prq[0] then .next (s.setTroupe t { tr with prq := tr.prq &&& 0x1E })
    else if tr.prq[1] then .next (s.setTroupe t { tr with cref := true })
    else .next s

/-! ## Frame ticks (R27, R29) -/

/-- Waits count a frame tick that falls in a later wall cycle than their start (R128). -/
def Core.tick (wall : Nat) (c : Core) : Core :=
  match c.wait with
  | some w => if w.since < wall then { c with wait := some { w with ticks := w.ticks - 1 } } else c
  | none => c

/-- FRAME_TICK (R27): every 4,096 wall cycles. -/
def execFrameTick (s : State) : Host.Outcome State Fault Refusal :=
  if s.wall % Config.tick ≠ 0 || !s.released then notEnabled "FRAME_TICK"
  else .next { s with troupes := s.troupes.map fun tr => { tr with cores := tr.cores.map (Core.tick s.wall) },
                      mgmt := gen 2 fun m => { s.mg m with core := (s.mg m).core.tick s.wall } }

/-- REALIGN_RELABEL (R29): at the tick the VCC becomes the next multiple of 4,096; the bundles after the `realign` issue
in that cycle. -/
def execRealignRelabel (t : Nat) (s : State) : Host.Outcome State Fault Refusal :=
  match s.troupe? t with
  | some tr =>
    if !tr.realign || s.wall % Config.tick ≠ 0 || !(tr.st == .running || tr.st == .saving || tr.st == .restoring) then
      notEnabled "REALIGN_RELABEL"
    else
      let v := tr.vcc.toNat
      .next ((s.advance t).modTroupe t fun (x : Troupe) =>
        { x with vcc := if tr.inRoutine then tr.vcc else BitVec.ofNat 64 ((v / Config.tick + 1) * Config.tick), unal := false,
                 realign := false, resuming := true, cores := x.cores.map fun c => { c with realign := false } })
  | none => notEnabled "REALIGN_RELABEL"

end Sys2Proof.Machine
end

