-- ==== Sys2Proof/Machine/Sequencer.lean ====
section
/-!
DEFINITION. The issue of bundles, safe points, pre-emption, routines, retirement and the records of faults and stops (R35
to R39, R89 to R99, R120, R274 to R286, R377 to R382).
-/

namespace Sys2Proof.Machine

/-! ## The bundle at pc -/

/-- The core's program has ended, and with it the bundle that ended it (R39, R138). -/
def Core.finished (c : Core) : Bool := c.fin.isSome && (c.done == 0 || c.done == 0xFF)

/-- The core issues no bundle: its program or its routine has ended. -/
def Core.idle (c : Core) : Bool := c.finished || c.routineDone

/-- Word w of the bundle at an agent's pc. -/
def State.word (s : State) (a : Agent) (c : Core) (w : Nat) : Nat := (s.stream a).word c.pc w

/-- The bundle at pc is a safe point (R35, R90). -/
def State.marked (s : State) (a : Agent) (c : Core) : Bool :=
  decide (c.pc < s.streamEnd a) && fld (s.word a c 0) 8 1 == 1

/-- SPI of the bundle at pc. -/
def State.spi (s : State) (a : Agent) (c : Core) : Nat := fld (s.word a c 0) 9 12

/-- Word i of a routine store as it issues: substituted by k, its low bits cleared, and decoded (R209, R210). -/
def Image.routineWord (img : Image) (c : Core) (i : Nat) : Dec :=
  decodeRoutine (substWord (BitVec.ofNat 64 (img.routines.num (8 * i) 8)) fun k => vget 0 c.k k).toNat

/-- The store index that word 5 of the bundle at pc runs: of the cycle's first issue, where the bundle issues again. -/
def Core.routineAt (c : Core) : Option Nat := if c.done == 0 then c.rtn else c.rtnOn

/-- The sub-cause of a routine word that fails decode in the place of word 5 (R97, R210). The last word of the store acts
only as `mend` and raises its own fault otherwise. -/
def State.routineBad (s : State) (a : Agent) (c : Core) : Option Nat :=
  c.routineAt.bind fun i =>
    if s.word a c 5 ≠ 0 || i = 4095 then none
    else match (s.image a).routineWord c i with
      | .ok _ => none
      | .bad sub => some sub

/-- The decode checks of R97 on the bundle at pc, a routine's word in the place of word 5: the failing word and the
sub-cause. -/
def State.bundleFault (s : State) (a : Agent) (c : Core) : Option (Nat × Nat) :=
  let w := s.word a c
  let mg := match a with
    | .core _ _ => false
    | .mgmt _ => true
  let own := bundleBad mg (w 0) (w 1) (w 2) (w 3) (w 4) (w 5) (w 6) (w 7)
  match s.routineBad a c with
  | some sub => if own.any fun b => decide (b.1 < 5) then own else some (5, sub)
  | none => own

/-- The bundle is all zero (R99). -/
def State.allZero (s : State) (a : Agent) (c : Core) : Bool := (tab 8 id).all fun w => s.word a c w == 0

/-- All that a command may still have under way is writes of G or H: no counter add, and no write to another package (R219,
R284). -/
def Cmd.onlyWrites (k : Cmd) : Bool :=
  match k.op with
  | .xbat op _ _ ctr => !op.onCounter && ctr.isNone
  | _ => k.outstanding == 0

/-- What is in flight for a core in cycle `now` (R36); at a routine's end writes of its copy engines may still await
acceptance (R284). -/
def Core.inFlight (c : Core) (now : Nat) (writesMay : Bool) : Bool :=
  let busy (k : Cmd) : Bool :=
    !(writesMay && k.onlyWrites && k.started && k.failed.isNone && decide (k.total ≤ k.next) && !c.pend.any fun p => match p.act with
      | .cmd j _ _ => j == k.id
      | .xcpyOut j _ _ => j == k.id
      | _ => false)
  c.pend.any (fun p => decide (now < p.due)) || c.fetches.any (fun f => decide (now < f.due)) ||
  c.sweep.cmds.any busy || (c.sfu.any fun u => decide (now < u.1 + 4)) || (c.scan.any fun u => decide (now < u.1 + u.2.2)) ||
  c.gemv.any (fun g => !g.rem) || c.rtn.isSome

/-! ## The end of a bundle (R80, R91, R118, R120) -/

/-- The pops of a POP mask; a pop of an empty queue sets its EP bit (R80, R81). -/
def Core.pops (c : Core) (mask : Nat) : Core :=
  (tab 8 id).foldl (fun c n =>
    if mask / 2 ^ n % 2 = 1 then
      match vget [] c.q n with
      | [] => { c with ep := c.ep ||| BitVec.ofNat 8 (2 ^ n) }
      | _ :: l => { c with q := vset c.q n l }
    else c) c

/-- The end-of-body test: the level that jumps back, if one does, and the levels that are exhausted (R120). -/
def Core.loopEnd (c : Core) : List Nat → Core × Option (Nat × Nat)
  | [] => (c, none)
  | i :: l =>
    let v := vget ⟨false, 0, 0⟩ c.lvl i
    if v.active && v.fin == c.pc then
      (if vget 0 c.loopc i ≠ 0 then (c, some (i, v.start))
       else ({ c with lvl := vset c.lvl i { v with active := false } }).loopEnd l)
    else c.loopEnd l

/-- The bundle completes: word 0 takes effect, the next bundle is chosen. Answers the core and the target of a transfer
that trace records. An inactive `mend` at store index 4,095 lets the routine run on in zero words (DESIGN CHOICE,
log 76). -/
def Core.complete (c : Core) (header now : Nat) (rout : Bool) : Core × Option Nat :=
  let taken := match c.xfer with
    | some (3, t) => some t
    | _ => none
  let c := c.pops (header % 256)
  let rtn := if c.rtnOn = c.rtn then c.rtn.map (· + 1) else c.rtn
  let (c, back) := if rout then (c, none) else c.loopEnd [7, 6, 5, 4, 3, 2, 1, 0]
  let c := { c with done := 0xFF, rtn := rtn, failed := false }
  match back with
  | some (i, start) =>
    let p : Pend := { due := now + 1, iss := now, word := 0, baddr := c.pc,
                      act := .loopc (BitVec.ofNat 3 i) (vget 0 c.loopc i - 1), flags := 0, rtn := none }
    ({ c with pc := start, xfer := none, pend := c.pend ++ [p] }, some start)
  | none =>
    match c.xfer with
    | some (k, t) =>
      if k ≤ 1 then ({ c with pc := t, xfer := none }, taken)
      else ({ c with pc := c.pc + 64, xfer := some (k - 1, t) }, taken)
    | none => ({ c with pc := c.pc + 64 }, none)

/-! ## Breakpoints and steps (R376 to R378) -/

/-- The lowest SLOT of the breakpoints that match the bundle at pc of a core. -/
def Troupe.breakAt (tr : Troupe) (c : Core) : Option Nat :=
  (tr.bp.toArray.toList.filterMap fun b =>
    let n := b.toNat
    if fld n 63 1 = 1 && fld n 48 8 = c.rank && fld n 0 28 = c.pc then some (fld n 32 3) else none).foldl
      (fun m x => match m with
        | none => some x
        | some y => some (min x y)) none

/-- The word before which a bundle that begins to issue stops: in a routine none (R377). -/
def Troupe.stopFor (tr : Troupe) (c : Core) : Option Nat :=
  if tr.inRoutine then none
  else
    let bp := if c.done ≠ 0 then none else tr.breakAt c
    let st := if tr.stepNow = 1 && c.nextUndone < 7 then some (c.nextUndone + 1) else none
    match bp, st with
    | some a, some b => some (min a b)
    | some a, none => some a
    | none, b => b

/-! ## Issue (R89, R97, R274, R275) -/

/-- A fault of no word: past the end, decode, safe point, and those of the troupe's cycle. -/
def Core.raiseAt (c : Core) (word : Option Nat) (cause sub baddr addr : Nat) : Core :=
  { c with raised := c.raised ++ [
      { cause := BitVec.ofNat 8 cause, sub := BitVec.ofNat 8 sub, word := word, deferred := false, done := 2,
        baddr := baddr, addr := BitVec.ofNat 64 addr, aux0 := 0, aux1 := 0, hnd := 0, code := 0, hcs := 0, rtnw := false,
        kill := false }] }

/-- A bundle of a compute core begins to issue: the checks that come before its words, then its words. Any address
at or beyond E raises R89's fault, with ADDR = E and BADDR = the address before (DESIGN CHOICE, log 67). -/
def State.startBundle (s : State) (t r : Nat) (tr : Troupe) (c : Core) : State :=
  let a : Agent := .core t r
  let next (c : Core) : State := { s.setCore a c with cursor := .bundle t (r + 1) }
  let e := s.streamEnd a
  if e ≤ c.pc then next (c.raiseAt none 0x08 0 (c.pc - 64) e)
  else match s.bundleFault a c with
  | some (w, sub) =>
    -- a routine word's record carries its store index (R210)
    let rtn := if w = 5 then (if s.word a c 5 = 0 then c.routineAt else none) else none
    next { c.raise w { cause := 0x01, sub := sub } false 2 c.pc rtn with failed := c.failed }
  | none =>
    if s.marked a c && !tr.inRoutine && c.done == 0 && c.inFlight tr.adv false then next (c.raiseAt none 0x06 0x1 c.pc 0)
    else
      let fresh := c.done == 0
      { s.setCore a { c with done := c.done ||| 2, reissue := !fresh, rtnOn := if fresh then c.rtn else c.rtnOn,
                             netw := BitVec.ofNat 64 (s.word a c 1), stop := tr.stopFor c, failed := false } with
          cursor := .word t r 2 }

/-- The bundle of a compute core completes. A trace record does not tell `ret` from `jr` (DEDUCED, log 68). -/
def State.finishBundle (s : State) (t r : Nat) (tr : Troupe) (c : Core) : State :=
  let (c', tgt) := c.complete (s.word (.core t r) c 0) tr.adv tr.inRoutine
  let s' : State := { s.setCore (.core t r) c' with cursor := if c.late.isSome then .late 1 else .bundle t (r + 1) }
  match tgt with
  | some g => if tr.inRoutine then s' else s'.note t s.wall tr.vcc.toNat c.pc 0 c.rank 1 (some 2) g
  | none => s'

/-- BUNDLE_ISSUE of a compute core: at the core's turn its bundle begins; once every word has taken effect it
completes. A routine that stands at E issues no bundle there: it ends (R283). -/
def State.issueCore (s : State) (t r : Nat) : Option State :=
  match s.troupe? t with
  | none => none
  | some tr =>
    match tr.cores[r]? with
    | none => none
    | some c =>
      if s.cursor = .bundle t r then (if c.idle || c.done == 0xFF || (tr.inRoutine && c.pc == s.streamEnd (.core t r)) then none else some (s.startBundle t r tr c))
      else if s.cursor = .word t r 8 then some (s.finishBundle t r tr c)
      else none

/-- The idle bundle of a compute core begins and completes at once (R99). -/
def State.idleCore (s : State) (t r : Nat) : Option State :=
  match s.troupe? t with
  | none => none
  | some tr =>
    match tr.cores[r]? with
    | none => none
    | some c =>
      if s.cursor = .bundle t r && !c.idle && c.done == 0 && c.rtn.isNone && decide (c.pc < s.streamEnd (.core t r)) &&
          s.allZero (.core t r) c && (tr.stopFor c).isNone then
        some (s.finishBundle t r tr { c with rtnOn := none })
      else none

/-- NOP (R93): the word takes effect and does nothing. -/
def execNop (s : State) : Host.Outcome State Fault Refusal :=
  match s.issuer with
  | none => .refused .noIssuer
  | some x => .next (s.did x x.core)

/-! ## What word 5 runs while a routine runs (R209, R210) -/

/-- The instruction of a word as it issues: a slot's own word, or the routine store's word in its place; or the cause
that the word raises. -/
def State.fetchWord (s : State) (x : Iss) (img : Option Image) : Except Exc Instr :=
  let own := s.word x.ag x.core x.w
  match if x.w = 5 then x.core.rtnOn else none with
  | some i =>
    if own ≠ 0 then .error structural
    else
      let last : Exc := { illegalOperand with addr := 4095 }
      match img with
      | none => .error structural
      | some g =>
        match g.routineWord x.core i with
        | .ok j => match j with
          | .mend _ => .ok j
          | _ => if i = 4095 then .error last else .ok j
        | .bad sub => .error (if i = 4095 then last else { cause := 0x01, sub := sub })
  | none =>
    match decodeSlot x.w own with
    | .ok j => .ok j
    | .bad sub => .error { cause := 0x01, sub := sub }

/-- The core as a fault of the word's fetch names it: a bundle's own word 5 that meets a running routine is no word of
the routine store (R210, R279). -/
def State.ownWord (s : State) (x : Iss) : Core :=
  if x.w = 5 && s.word x.ag x.core 5 != 0 then { x.core with rtnOn := none } else x.core

/-! ## Safe points and pre-emption (R35 to R38, R282, R283) -/

/-- Every core has finished its program. -/
def Troupe.allFinished (tr : Troupe) : Bool := tr.cores.all Core.finished

/-- No word of the cycle's bundles has taken effect. -/
def Troupe.freshCycle (tr : Troupe) : Bool := tr.cores.all fun c => c.done == 0

/-- The troupe stands at a troupe safe point: every core's bundle is marked, or its program has ended (R35). -/
def State.atSafePoint (s : State) (t : Nat) (tr : Troupe) : Bool :=
  !tr.allFinished && (tr.cores.mapIdx fun r c => c.fin.isSome || s.marked (.core t r) c).all fun b => b

/-- The lowest rank whose program has not ended. -/
def Troupe.lowestUnfinished (tr : Troupe) : Option (Nat × Core) :=
  (tr.cores.mapIdx fun r c => (r, c)).find? fun q => q.2.fin.isNone

/-- The distance count reaches D + 1 (R37). -/
def State.tooFar (s : State) (t : Nat) (tr : Troupe) : Bool :=
  tr.st == .running && tr.freshCycle && !tr.allFinished && !s.atSafePoint t tr && tr.adv - tr.n0 == tr.image.dmax + 1 &&
  tr.raisedAll.isEmpty

/-- SAFE_POINT_DISTANCE_FAULT (R37): before the bundles of the cycle issue. -/
def execSafePointDistanceFault (t : Nat) (s : State) : Host.Outcome State Fault Refusal :=
  match s.troupe? t with
  | some tr =>
    if s.cursor ≠ .bundle t 0 || !s.tooFar t tr then notEnabled "SAFE_POINT_DISTANCE_FAULT"
    else match tr.lowestUnfinished with
      | none => notEnabled "SAFE_POINT_DISTANCE_FAULT"
      | some (r, _) => .next (s.modCore (.core t r) fun c => c.raiseAt none 0x05 0x3 c.pc 0)
  | none => notEnabled "SAFE_POINT_DISTANCE_FAULT"

/-- A pre-emption is to be taken now (R38, R282): no core fails the check of R36. -/
def State.preempts (s : State) (t : Nat) (tr : Troupe) : Bool :=
  tr.st == .running && tr.freshCycle && tr.asked != 0 && s.atSafePoint t tr &&
  tr.raisedAll.isEmpty && tr.cores.all fun c => c.fin.isSome || !c.inFlight tr.adv false

/-- The lowest set bit of PRQ. -/
def lowestBit (v : BitVec 5) : Nat := ((tab 5 id).find? fun i => v.getLsbD i).getD 0

/-- PREEMPTION_TAKEN (R38, R283): every core starts its save routine before the bundles of the safe point issue. -/
def execPreemptionTaken (t : Nat) (s : State) : Host.Outcome State Fault Refusal :=
  match s.troupe? t with
  | some tr =>
    if s.cursor ≠ .bundle t 0 || !s.preempts t tr then notEnabled "PREEMPTION_TAKEN"
    else
      let go (r : Nat) (c : Core) : Core :=
        if c.fin.isSome then { c with routineDone := true }
        else
          let st := tr.streamOf c.rank
          { c with pc := (st.sps.getD (s.spi (.core t r) c) (0, 0)).1, xfer := none, routineDone := false,
                   s := vset c.s 63 (BitVec.ofNat 64 (64 * st.bundles)) }
      let (r0, c0) := tr.lowestUnfinished.getD (0, Core.launch)
      .next (s.setTroupe t
        { tr with st := .saving, rcount := 0, prq := 0, stepNow := 0, preCause := some (0x40 + lowestBit tr.prq),
                  spix := s.spi (.core t r0) c0, kept := tr.cores.map (fun c => (c.pc, c.fin)),
                  cores := tr.cores.mapIdx go })
  | none => notEnabled "PREEMPTION_TAKEN"

/-- ROUTINE_END (R283): the core's next bundle would be the one at the stream's end. -/
def execRoutineEnd (t r : Nat) (s : State) : Host.Outcome State Fault Refusal :=
  match s.troupe? t, s.core? (.core t r) with
  | some tr, some c =>
    if (tr.st != .saving && tr.st != .restoring) || c.idle || c.pc ≠ s.streamEnd (.core t r) || s.cursor ≠ .bundle t r then
      notEnabled "ROUTINE_END"
    else .next { s.setCore (.core t r) { c with routineDone := true, xfer := none, done := 0xFF } with
                  cursor := .bundle t (r + 1) }
  | _, _ => notEnabled "ROUTINE_END"

/-- Every routine of the phase has ended. -/
def Troupe.routinesOver (tr : Troupe) : Bool := tr.cores.all fun c => c.routineDone

/-- The cores that fail R36 when a routine phase ends raise the safe-point violation (R284, R285). -/
def State.routineFault (s : State) (t : Nat) (tr : Troupe) : State :=
  s.setTroupe t { tr with cores := tr.cores.map fun c =>
    if c.fin.isNone && c.inFlight tr.adv (tr.st == .saving) then c.raiseAt none 0x06 0x2 c.pc 0 else c }

/-- Every entry and write that a system phase covers is accepted, and its markers are acknowledged, on every core (R247,
R255). -/
def State.allPublished (s : State) (t : Nat) (tr : Troupe) : Bool :=
  (tr.cores.mapIdx fun r c => c.egress.isEmpty && s.covered (.core t r) c 5 tr.adv && c.pubMarks == some []).all fun b => b

/-- The system-scope phase of a task's saving or end has begun on every core. -/
def Troupe.publishing (tr : Troupe) : Bool := tr.cores.all fun c => c.pubMarks.isSome

/-- It begins (R255): each core's entries are paid for and pass to the store path, and its markers leave. -/
def State.beginPublication (s : State) (t : Nat) (tr : Troupe) : State :=
  ((tab tr.cores.length fun r => Agent.core t r).foldl (fun s a =>
    let (s, l) := ((s.modCore a fun c => s.payEgress a c).handOver a tr.adv false).sendMarkers a 5
    s.modCore a fun c => { c with pubMarks := some l }) s).flushCharges t

/-- A system-scope phase completes on every core. -/
def State.publishAll (s : State) (t : Nat) (tr : Troupe) : State :=
  (tab tr.cores.length id).foldl (fun s r => s.completePhase (.core t r) 5) s

/-- The scheduler-kept state of a core as its 128 KiB block (R318). -/
def State.keptBlock (s : State) (t r : Nat) (tr : Troupe) (c : Core) : List Byte :=
  let pc := (tr.kept.getD r (0, none)).1
  (c.keptImage tr (if c.fin.isSome then 0 else s.spi (.core t r) { c with pc := pc })).read 0 0x20000

/-- The pre-emption record (R279, R284). -/
def Troupe.preRecord (tr : Troupe) (wall : Nat) : Rec :=
  let (r, c) := tr.lowestUnfinished.getD (0, Core.launch)
  let f : Raised :=
    { cause := BitVec.ofNat 8 (tr.preCause.getD 0x40), sub := 0, word := none, deferred := false, done := 0,
      baddr := (tr.kept.getD r (0, none)).1, addr := 0, aux0 := 0, aux1 := 0, hnd := 0, code := 0, hcs := 0,
      rtnw := false, kill := false }
  f.pack tr c.rank wall false + BitVec.ofNat 512 (tr.spix % 4096 * 2 ^ 224)

/-- The save regions of a troupe cannot be reached now (R358, R371). -/
def State.saveWaits (s : State) (tr : Troupe) : Bool :=
  let v := s.vf tr.vf
  (tab tr.cores.length id).any fun k => s.unitWriteWaits v.asid.toNat (v.saveAt tr.slot + 2 ^ 17 * k) 0x20000

/-- SAVE_PHASE_END (R284, R255): the writes are published, the kept state is written, the record is made and the cores
are free. -/
def execSavePhaseEnd (t : Nat) (s : State) : Host.Outcome State Fault Refusal :=
  match s.troupe? t with
  | some tr =>
    if tr.st != .saving || !tr.routinesOver || !tr.raisedAll.isEmpty ||
        (tr.cores.any fun c => c.fin.isNone && c.inFlight tr.adv true) || !s.allPublished t tr || s.saveWaits tr then
      notEnabled "SAVE_PHASE_END"
    else
      let s := s.publishAll t tr
      let v := s.vf tr.vf
      let asid := v.asid.toNat
      let at' (k : Nat) : Nat := v.saveAt tr.slot + 2 ^ 17 * k
      let bad := (tab tr.cores.length id).findSome? fun k => s.writeFault asid (at' k) 0x20000
      match tr.status, bad with
      | some st, _ => .next (s.modTroupe t fun tr => { tr.retireWith st with normal := false })
      | none, some sub => .next (s.modTroupe t fun tr => { tr.retireWith (BitVec.ofNat 16 (0x0A00 + sub)) with normal := false })
      | none, none =>
        let s := (tr.cores.mapIdx fun r c => (r, c)).foldl (fun s q =>
          s.writeG asid (at' q.1) (s.keptBlock t q.1 tr q.2)) s
        let s := (s.endDeviation t).note t s.wall tr.vcc.toNat 0 0 0 5 none 2
        -- the trace records of n wait for those that its re-issue forms (R382)
        let s := (s.parkTroupe t).modTroupe t fun x =>
          { x with st := .preempted, recs := x.recs ++ [tr.preRecord s.wall], seq := x.seq + 1, cores := [], holds := [],
                   run := 0, since := s.wall, preCause := none }
        let s := s.modVf tr.vf fun v => v.modQueue tr.queue fun q =>
          { q with resume := q.resume ++ [tr.num] }
        .next (s.setIp tr.part 1)
  | none => notEnabled "SAVE_PHASE_END"

/-- RESTORE_PHASE_END (R285): the VCC starts at n on the next frame tick. -/
def execRestorePhaseEnd (t : Nat) (s : State) : Host.Outcome State Fault Refusal :=
  match s.troupe? t with
  | some tr =>
    if tr.st != .restoring || tr.loading || !tr.routinesOver || !tr.raisedAll.isEmpty ||
        (tr.cores.any fun c => c.fin.isNone && c.inFlight tr.adv false) then notEnabled "RESTORE_PHASE_END"
    else .next (s.setTroupe t { tr with loading := true, loadedAt := s.wall, holds := [], run := 0,
                                        noPre := some (tr.adv, tr.prq) })
  | none => notEnabled "RESTORE_PHASE_END"

/-! ## Normal retirement (R39, R255) -/

/-- Every core has finished, no copy command runs and no timed write is pending; the landing of a remote product is no timed
write (R212). -/
def Troupe.ended (tr : Troupe) : Bool :=
  (tr.st == .running || tr.st == .held) && !tr.loading && !tr.cores.isEmpty && tr.allFinished && tr.raisedAll.isEmpty &&
  (tr.cores.all fun c => c.sweep.cmds.isEmpty && c.pend.isEmpty && c.fetches.isEmpty && c.gemv.all (·.rem))

/-- The task's end has come, and every write of it is published (R39, R255). -/
def State.retires (s : State) (t : Nat) (tr : Troupe) : Bool := tr.ended && s.allPublished t tr

/-- TASK_RETIRE (R39, R255): the writes are published; the end is normal unless an entry failed. -/
def execTaskRetire (t : Nat) (s : State) : Host.Outcome State Fault Refusal :=
  match s.troupe? t with
  | some tr =>
    if !s.retires t tr then notEnabled "TASK_RETIRE"
    else
      let s := s.publishAll t tr
      .next (s.modTroupe t fun tr => { tr.retireWith (tr.status.getD 0) with normal := tr.status.isNone })
  | none => notEnabled "TASK_RETIRE"

/-! ## Fault records (R280) -/

/-- The partition's oldest waiting record: by wall cycle, then by place in the list. -/
def State.oldestRec (s : State) (p : Nat) : Option (Nat × Rec) :=
  ((s.troupes.mapIdx fun t tr => (t, tr)).filterMap fun q =>
    if q.2.part = p then q.2.recs.head?.map fun r => (q.1, r) else none).foldl (fun b r => match b with
      | none => some r
      | some x => if r.2.toNat / 2 ^ 448 < x.2.toNat / 2 ^ 448 then some r else some x) none

def Bank.frqFull (b : Bank) : Bool := decide (2 ^ b.frqLsz.toNat ≤ (b.frqHead - b.frqTail).toNat)

/-- The physical address of a partition's next record. -/
def Bank.frqSlot (b : Bank) : Nat := fld b.frqBase.toNat 12 52 * 4096 + 64 * (b.frqHead.toNat % 2 ^ b.frqLsz.toNat)

/-- FAULT_RECORD_WRITE (R280): the oldest waiting record is written, or finds the queue full; one whose memory cannot be
reached waits. -/
def execFaultRecordWrite (part : Nat) (s : State) : Host.Outcome State Fault Refusal :=
  if 12 ≤ part then notEnabled "FAULT_RECORD_WRITE"
  else match s.oldestRec part with
  | none => notEnabled "FAULT_RECORD_WRITE"
  | some (t, r) =>
    let b := s.bank part
    if b.frqFull then .next ((s.modBank part fun b => { b with frqStuck := true }).setIp part 6)
    else if s.portDown b.frqSlot || !s.planeFree b.frqSlot then notEnabled "FAULT_RECORD_WRITE"
    else
      let s := (s.acceptWide b.frqSlot ((leBytes 64 r.toNat).map some)).modBank part fun b =>
        { b with frqHead := b.frqHead + 1, frqStuck := false }
      .next ((s.modTroupe t fun tr => { tr with recs := tr.recs.drop 1 }).setIp part 0)

/-! ## Samples (R381) -/

/-- TRACE_SAMPLE (R380, R381): in a VCC cycle that is a multiple of 2^SPER, a record for each core that issues. -/
def execTraceSample (t : Nat) (s : State) : Host.Outcome State Fault Refusal :=
  match s.troupe? t with
  | some tr =>
    let per := (s.bank tr.part).dbSper.toNat
    if per = 0 || tr.vcc.toNat % 2 ^ per ≠ 0 || tr.st != .running || !tr.freshCycle || s.cursor ≠ .bundle t 0 then
      notEnabled "TRACE_SAMPLE"
    else .next (tr.cores.foldl (fun s c => s.note t s.wall tr.vcc.toNat c.pc 0 c.rank 3 none tr.heldTotal) s)
  | none => notEnabled "TRACE_SAMPLE"

/-! ## The end of a troupe's wall cycle (R275, R377 to R379) -/

/-- A stop: one trace record for each core, and the notice to the stop counter. -/
def State.stopNotice (s : State) (t : Nat) (tr : Troupe) (cs : List (Core × Option Nat)) : State :=
  let s := cs.foldl (fun s q => s.note t s.wall tr.vcc.toNat q.1.pc 0 q.1.rank 4 q.2 q.1.done.toNat) s
  let h := fld (s.bank tr.part).dbNtf.toNat 32 32
  let s := if h = 0 then s else s.signal (BitVec.ofNat 32 h) 1
  s.modTroupe t fun tr =>
    { tr with st := .suspended, back := .running, stopped := true, unal := true, run := 0, stepNow := 0, holds := [] }

/-- Stops by breakpoint and step, where no fault decided the suspension. -/
def State.stops (s : State) (t : Nat) : State :=
  match s.troupe? t with
  | none => s
  | some tr =>
    if tr.st != .running || tr.resuming || tr.loading then s
    else
      let hit := (tr.cores.filter fun c => !c.idle && c.done != 0xFF && c.done != 0).filterMap fun c =>
        c.stop.map fun w => (c, some w)
      if !hit.isEmpty then s.stopNotice t tr hit
      else if tr.stepNow ≠ 0 && tr.cores.all (fun c => c.idle || c.done == 0xFF) then
        let s := s.stopNotice t tr ((tr.cores.filter fun c => !c.idle).map fun c => (c, none))
        -- after a `realign` it is the relabelling at a tick that advances (R29)
        if tr.realign then s else s.advance t
      else s

/-- The cores that a breakpoint has stopped in this cycle, with the word; a fault below the word decides otherwise (R377). -/
def Troupe.broken (tr : Troupe) : List (Core × Option Nat) :=
  (tr.cores.filter fun c => !c.idle && c.done != 0xFF && c.done != 0 && !c.failed && !c.reissue && c.stop == tr.breakAt c).filterMap
    fun c => c.stop.map fun w => (c, some w)

/-- The records of the causes that were raised in this cycle; a breakpoint that has stopped another core is a stop all the
same, where the troupe does not retire (R275, R377, R379). -/
def State.settleTroupe (s : State) (t : Nat) (tr : Troupe) : State :=
  let s := (s.endDeviation t).modTroupe t fun tr => tr.settle s.wall
  if tr.st == .running && !tr.broken.isEmpty && ((s.troupe? t).map fun x => x.st == .suspended).getD false then
    s.stopNotice t tr tr.broken
  else s

/-- A troupe's wall cycle ends: faults suspend or retire it, else stops suspend it; a task whose end is known ends. A failure
that becomes known while the troupe stands suspended waits for its cycle n (R275); Calliope words are judged anew in every
wall cycle (R30). -/
def State.endTroupe (s : State) (t : Nat) : State :=
  let s := s.modTroupe t fun tr => { tr with cores := tr.cores.map fun c => { c with late := none } }
  match s.troupe? t with
  | none => s
  | some tr =>
    let s : State := if tr.raisedAll.isEmpty then s.stops t
      else if tr.st == .suspended then s
      else s.settleTroupe t tr
    let s : State := match s.troupe? t with
      | some (tr : Troupe) => if tr.st == .retiring && tr.status.isSome && !s.reportWaits tr.vf tr.launch then s.endTask t else s
      | none => s
    s.modTroupe t fun (tr : Troupe) => if tr.gone then { tr with st := .unbound } else tr

/-- The entries that the phases issued in this cycle cover, once their bundles are complete, and those of a core that
publishes for its end, pass to the store path (R247, R248, R255). -/
def State.handOvers (s : State) (t : Nat) (tr : Troupe) : State :=
  (tr.cores.mapIdx fun r c => (r, c)).foldl (fun s q =>
    let a : Agent := .core t q.1
    let s := s.markPhase a
    if (q.2.whole && q.2.phaseWait.any fun w => w.iss == tr.adv) || s.publishing a then s.handOver a tr.adv false else s) s

/-- The troupe's VCC cycle ends: arrivals in free banks, charges, finished commands, `realign`, which waits for bundles that
a breakpoint or a step has stopped (R29, R377). -/
def State.finCycle (s : State) (t : Nat) : State :=
  match s.troupe? t with
  | none => s
  | some tr =>
    let s := s.handOvers t tr
    let s := (tab tr.cores.length id).foldl (fun s r => s.arrivalPort (.core t r) tr.adv) s
    let s := s.flushCharges t
    s.modTroupe t fun tr =>
      { tr with cores := tr.cores.map Core.sweep,
                realign := tr.realign || (tr.raisedAll.isEmpty && (tr.cores.any fun c => c.realign) &&
                  tr.cores.all fun c => c.idle || c.done == 0xFF) }

end Sys2Proof.Machine
end

