-- ==== Sys2Proof/Machine/Migration.lean ====
section
/-!
DEFINITION. Invalidations (R338 to R340), and page moves by the migration engines (R341 to R347).
-/

namespace Sys2Proof.Machine

/-! ## Invalidation (R340) -/

/-- A cached entry matches an invalidation of partition p. -/
def State.invMatch (s : State) (p : Nat) (i : Option Nat × Nat × Nat) (asid base size : Nat) : Bool :=
  (match i.1 with
    | some a => a == asid
    | none => s.asidPart asid == p) &&
  (i.2.2 == 0 || (decide (i.2.1 * 4096 < base + size) && decide (base < (i.2.1 + i.2.2) * 4096)))

/-- What used a translation and is not done: reads that have not obtained their data, and batched atomics that have not
executed (R340); each as an address space and an address. -/
def State.readsOut (s : State) : List (Nat × Nat) :=
  s.agents.flatMap fun a => match s.core? a with
    | none => []
    | some c =>
      let cx := s.ctx a
      (if cx.phy then []
        else (c.fetches.flatMap fun f => match f.st with
            | .ready _ => f.pages.map fun va => (cx.asid, va)
            | _ => []) ++
          c.gemv.flatMap fun g => match g.st with
            | .ready _ => if g.arrived < g.nb then g.pages.map fun va => (cx.asid, va) else []
            | _ => []) ++
      (s.atoms.filterMap fun e => if e.agent != a || e.pa.isNone then none
        else (c.cmd? e.cmd).bind fun k => if (s.cmdCtx a k).phy then none else some ((s.cmdCtx a k).asid, e.tgt))

/-- No read or atomic is out that used a matching entry. -/
def State.invQuiet (s : State) (p : Nat) (i : Option Nat × Nat × Nat) : Bool :=
  s.readsOut.all fun r => !s.invMatch p i r.1 r.2 1

/-- The matching entries leave every TLB. -/
def State.dropTlbs (s : State) (p : Nat) (i : Option Nat × Nat × Nat) : State :=
  { s with tlbs := s.tlbs.filter fun t => !s.invMatch p i t.asid t.base t.size }

/-- A TR_INV command begins, or is refused. -/
def State.beginInv (s : State) (p : Nat) (refused : Bool) (i : Option Nat × Nat × Nat) : State :=
  s.modBank p fun b =>
    if refused || b.invBsy then { b with invErr := true } else { b with invBsy := true, inv := some i }

/-- A supervisor names an ASID of another partition. -/
def State.foreignAsid (s : State) (p : Nat) (asid : BitVec 14) (lvl : BitVec 2) : Bool :=
  lvl == 1 && s.asidPart asid.toNat != p

/-- INVALIDATE_RANGE (R340): NPG pages from TR_INVVA. -/
def execInvalidateRange (m : Nat) (asid : BitVec 14) (npg : BitVec 32) (lvl : BitVec 2) (s : State) :
    Host.Outcome State Fault Refusal :=
  if 2 ≤ m then notEnabled "INVALIDATE_RANGE"
  else
    let p := (s.mg m).part.toNat
    .next (s.beginInv p (npg == 0 || s.foreignAsid p asid lvl) (some asid.toNat, fld (s.bank p).invVa.toNat 12 45, npg.toNat))

/-- INVALIDATE_ASID (R340). -/
def execInvalidateAsid (m : Nat) (asid : BitVec 14) (lvl : BitVec 2) (s : State) : Host.Outcome State Fault Refusal :=
  if 2 ≤ m then notEnabled "INVALIDATE_ASID"
  else
    let p := (s.mg m).part.toNat
    .next (s.beginInv p (s.foreignAsid p asid lvl) (some asid.toNat, 0, 0))

/-- INVALIDATE_PARTITION (R340): every ASID of the partition. -/
def execInvalidatePartition (m : Nat) (s : State) : Host.Outcome State Fault Refusal :=
  if 2 ≤ m then notEnabled "INVALIDATE_PARTITION"
  else .next (s.beginInv (s.mg m).part.toNat false (none, 0, 0))

/-- INVALIDATION_COMPLETE (R340): BSY clears once no entry matches and what used one is done. -/
def execInvalidationComplete (part : Nat) (s : State) : Host.Outcome State Fault Refusal :=
  if 12 ≤ part then notEnabled "INVALIDATION_COMPLETE"
  else match (s.bank part).inv with
  | none => notEnabled "INVALIDATION_COMPLETE"
  | some i =>
    if s.invQuiet part i then
      .next ((s.dropTlbs part i).modBank part fun b => { b with invBsy := false, inv := none })
    else notEnabled "INVALIDATION_COMPLETE"

/-! ## Migration engines (R341 to R346) -/

/-- The VF of lowest number of a partition, whose ASID its rings use (R343). -/
def State.lowestVf (s : State) (p : Nat) : Option Nat := (tab 96 id).find? fun v => (s.vf v).part.toNat == p

/-- The far-tier die whose engine serves a partition now; none while it is down (R342). -/
def State.migDie (s : State) (p : Nat) : Option Nat :=
  if p % 2 = 0 || s.migOdd then (if s.dieDown 8 then none else some 8) else if s.dieDown 9 then none else some 9

/-- Commands that a die's engine runs. -/
def State.migRunning (s : State) (die : Nat) : Nat := (s.migs.filter fun g => g.die == die).length

/-- The fields of a command that must be zero (R345). -/
def moveClean (n : Nat) : Bool :=
  fld n 252 4 == 0 && fld n 185 7 == 0 && fld n 78 18 == 0 && fld n 16 48 == 0 && fld n 1 7 == 0

/-- The leaf of an address as the engine walks it (R335 steps 2 and 3). -/
def State.moveLeaf (s : State) (p asid va : Nat) : Option Leaf :=
  match s.findLeaf (unitCtx asid) va .tables with
  | .ok l => if (l.tables.all fun t => (s.part p).holds t) && (s.part p).holds (pteFrame l.pte) then some l else none
  | .error _ => none

/-- The first failing check of a command (R345). -/
def State.moveBad (s : State) (p n : Nat) : Option Nat :=
  let asid := fld n 64 14
  let va := fld n 128 57
  let dst := fld n 192 60
  let l := s.moveLeaf p asid va
  let size := (l.map (·.size)).getD 65536
  let inOld := (l.map fun z => decide (dst < pteFrame z.pte + z.size && pteFrame z.pte < dst + size)).getD false
  if !moveClean n || s.asidPart asid ≠ p || dst % size ≠ 0 || !(s.part p).holds dst || !(s.part p).holds (dst + size - 1) ||
      inOld then some 1
  else match l with
    | none => some 2
    | some z => if (z.size ≠ 65536 && z.size ≠ 2 ^ 21) || va ≠ z.base || pteMs z.pte ≠ 0 then some 2 else none

/-- A leaf entry with MS, and where given FRAME and TIER, replaced. -/
def pteSet (e : BitVec 64) (ms : Nat) (frame : Option Nat) : BitVec 64 :=
  let n := e.toNat
  let n := n - fld n 10 2 * 2 ^ 10 + ms * 2 ^ 10
  match frame with
  | none => BitVec.ofNat 64 n
  | some f => BitVec.ofNat 64 (n - fld n 12 41 * 2 ^ 12 + f / 4096 % 2 ^ 40 * 2 ^ 12 + bit (isFar f) * 2 ^ 52)

/-- A 64-bit entry is written at its home memory. -/
def State.putPte (s : State) (pa : Nat) (e : BitVec 64) : State := s.acceptWide pa ((leBytes 8 e.toNat).map some)

/-- MIGRATION_CLAIM (R345, R346 step 1): the engine takes the next command of a ring. -/
def execMigrationClaim (part : Nat) (s : State) : Host.Outcome State Fault Refusal :=
  if 12 ≤ part then notEnabled "MIGRATION_CLAIM"
  else
    let b := s.bank part
    let lsz := fld b.mgCq.toNat 0 4
    match s.migDie part, s.lowestVf part with
    | some die, some vf =>
      let asid := (s.vf vf).asid.toNat
      let cmdVa := fld b.mgCq.toNat 12 45 * 4096 + 32 * (b.mgCHead.toNat % 2 ^ lsz)
      match s.readG asid cmdVa 32 with
      | none => notEnabled "MIGRATION_CLAIM"
      | some bytes =>
        let n := leNat bytes
        let l := s.moveLeaf part (fld n 64 14) (fld n 128 57)
        let busyLeaf := s.migs.any fun g => (l.map fun z => g.ptePa == z.at').getD false
        if s.unitWaits asid cmdVa 32 || s.tablesDown (unitCtx (fld n 64 14)) (fld n 128 57) .tables then notEnabled "MIGRATION_CLAIM"
        else if lsz = 0 || b.mgCHead = b.mgCTail || 4 ≤ s.migRunning die || busyLeaf then notEnabled "MIGRATION_CLAIM"
        else
          let s := s.modBank part fun b => { b with mgCHead := b.mgCHead + 1 }
          let g : Mig :=
            { id := s.nextId, part := part, die := die, ringAsid := asid, cmdVa := cmdVa, asid := fld n 64 14, va := fld n 128 57,
              dst := fld n 192 60, ctr := bv n 96 32, ptePa := (l.map (·.at')).getD 0, size := (l.map (·.size)).getD 0,
              old := (l.map fun z => pteFrame z.pte).getD 0, stage := 1 }
          match s.moveBad part n, l with
          | some st, _ => .next { s.fresh with migs := s.migs ++ [{ g with stage := 0x10 + st }] }
          | none, some z => .next { (s.fresh.putPte z.at' (pteSet z.pte 1 none)) with migs := s.migs ++ [g] }
          | none, none => .next { s.fresh with migs := s.migs ++ [{ g with stage := 0x12 }] }
    | _, _ => notEnabled "MIGRATION_CLAIM"

def State.mig? (s : State) (id : Nat) : Option Mig := s.migs.find? fun g => g.id == id

def State.setMig (s : State) (g : Mig) : State := { s with migs := s.migs.map fun h => if h.id = g.id then g else h }

/-- A command waits: its engine's die is down, or its frames lie behind a link that is down or in a gated stack (R371,
R398). -/
def State.migWaits (s : State) (g : Mig) : Bool := s.dieDown g.die || s.portDown g.old || s.portDown g.dst

/-- The invalidation of the leaf's range that steps 2 and 5 make. -/
def Mig.range (g : Mig) : Option Nat × Nat × Nat := (some g.asid, g.va / 4096, g.size / 4096)

/-- A range of a memory takes the content of another. -/
def Mem.move (m : Mem) (old new n : Nat) : Mem := m.write new (m.read old n)

/-- MIGRATION_COPY (R346 steps 2 and 3): the range is quiet, and the page is copied to DST; every view of memory keeps the
values it has (R252). -/
def execMigrationCopy (id : Nat) (s : State) : Host.Outcome State Fault Refusal :=
  match s.mig? id with
  | none => notEnabled "MIGRATION_COPY"
  | some g =>
    if g.stage ≠ 1 || s.migWaits g || !s.invQuiet g.part g.range then notEnabled "MIGRATION_COPY"
    else
      let s := (s.dropTlbs g.part g.range).poolAdd g.die 0x24 (g.size / 65536)
      let s := s.mapSnaps fun m => m.move g.old g.dst g.size
      let moved (w : GWrite) : List GWrite :=
        if g.old ≤ w.pa && w.pa < g.old + g.size then [w, { w with pa := w.pa - g.old + g.dst }] else [w]
      let inDst (w : GWrite) : Bool := g.dst ≤ w.pa && w.pa < g.dst + g.size
      .next ({ s with gmem := s.gmem.move g.old g.dst g.size,
                      ghist := (s.ghist.filter fun w => !inDst w).flatMap moved }.setMig { g with stage := 3 })

/-- MIGRATION_SWITCH (R346 step 4). -/
def execMigrationSwitch (id : Nat) (s : State) : Host.Outcome State Fault Refusal :=
  match s.mig? id with
  | none => notEnabled "MIGRATION_SWITCH"
  | some g =>
    if g.stage ≠ 3 || s.migWaits g then notEnabled "MIGRATION_SWITCH"
    else
      let e := s.ptWord g.ptePa
      if pteV e && pteMs e == 1 && pteFrame e == g.old then
        .next ((s.putPte g.ptePa (pteSet e 0 (some g.dst))).setMig { g with stage := 4 })
      else .next (s.setMig { g with stage := 0x13 })

/-- MIGRATION_END (R345, R346 step 5): the range is released, STATUS and DONE are written, and CTR receives 1. -/
def execMigrationEnd (id : Nat) (s : State) : Host.Outcome State Fault Refusal :=
  match s.mig? id with
  | none => notEnabled "MIGRATION_END"
  | some g =>
    if (g.stage ≠ 4 && g.stage < 0x10) || s.dieDown g.die || s.unitWaits g.ringAsid g.cmdVa 2 || (g.stage = 4 && !s.invQuiet g.part g.range) then
      notEnabled "MIGRATION_END"
    else
      let st := if g.stage = 4 then 0 else g.stage - 0x10
      let s := if g.stage = 4 then s.dropTlbs g.part g.range else s
      let b0 := ((s.readG g.ringAsid g.cmdVa 1).getD [0]).headD 0
      let s := { s.writeG g.ringAsid g.cmdVa [b0 ||| 1, BitVec.ofNat 8 st] with migs := s.migs.filter fun h => h.id != id }
      .next (if g.ctr = 0 then s else s.postSignal g.ctr)

/-- MIGRATION_HINT (R344): the oldest hint is appended to its partition's ring, or dropped. -/
def execMigrationHint (s : State) : Host.Outcome State Fault Refusal :=
  match s.hints with
  | [] => notEnabled "MIGRATION_HINT"
  | (p, r) :: l =>
    let s0 := s
    let s : State := { s with hints := l }
    if 12 ≤ p then .next s
    else if (s0.migDie p).isNone then notEnabled "MIGRATION_HINT"
    else
      let b := s.bank p
      let lsz := fld b.mgHq.toNat 0 4
      let drop := s.modBank p fun b => { b with mgDrop := sat32 b.mgDrop 1 }
      match s.migDie p, s.lowestVf p with
      | some _, some v =>
        let asid := (s.vf v).asid.toNat
        let va := fld b.mgHq.toNat 12 45 * 4096 + 16 * (b.mgHTail.toNat % 2 ^ lsz)
        if s.unitWaits asid va 16 then notEnabled "MIGRATION_HINT"
        else if lsz = 0 || 2 ^ lsz ≤ (b.mgHTail - b.mgHHead).toNat || (s.writeFault asid va 16).isSome then .next drop
        else .next ((s.writeG asid va (leBytes 16 r.toNat)).modBank p fun b => { b with mgHTail := b.mgHTail + 1 })
      | _, _ => .next drop

/-- A physical address lies behind far-tier die 1's CXL ports. -/
def behindDie9 (pa : Nat) : Bool := isFar pa && dieOf pa == 9

/-- A command that far-tier die 1's engine had taken and not ended, once die 0's engine continues it (R342). One that failed
its checks or its claim is not moving its leaf and keeps that outcome where the entry holds MS = 0b01 for another reason. -/
def State.continued (s : State) (g : Mig) : Mig :=
  let e := s.ptWord g.ptePa
  if g.die ≠ 9 then g
  else if behindDie9 g.old || behindDie9 g.dst || !pteV e || pteMs e != 1 || g.ptePa = 0 then { g with die := 8, stage := 0x12 }
  else if g.stage < 0x10 || g.stage = 0x13 then { g with die := 8, stage := 1, old := pteFrame e }
  else { g with die := 8 }

/-- Far-tier die 0's engine serves the odd partitions and continues the commands that die 1's had taken (R342). -/
def State.takeOver (s : State) : State := { s with migOdd := true, migs := s.migs.map s.continued }

/-- MIGRATION_TAKEOVER (R342): far-tier die 0's engine serves the odd partitions while die 1 is down. -/
def execMigrationTakeover (s : State) : Host.Outcome State Fault Refusal :=
  if !s.dieDown 9 || s.migOdd then notEnabled "MIGRATION_TAKEOVER" else .next s.takeOver

end Sys2Proof.Machine
end

