-- ==== Sys2Proof/Machine/Fabric.lean ====
section
/-!
DEFINITION. Nudar messages that arrive, acknowledgements, re-sends, plane failures and the quiesce (R230, R231, R348 to
R359), and the links at the package's edges (R369 to R373).
-/

namespace Sys2Proof.Machine

/-! ## Arriving messages (R349, R352) -/

/-- A header that a receiver discards (R349). -/
def msgBad (m : Msg) : Bool := 0xB ≤ m.typ.toNat || 8 < m.ndat.toNat || m.rsv != 0

/-- The stream of a message at its receiver: its source agent, destination die and PLN (R350, R352). -/
def msgKey (m : Msg) : BitVec 16 × BitVec 4 × BitVec 16 × BitVec 4 × BitVec 2 := (m.spkg, m.sdie, m.agt, m.ddie, m.pln)

/-- The next SEQ that is accepted of a stream; a stream not yet seen begins at 0 (log 22). -/
def State.expected (s : State) (m : Msg) : BitVec 16 :=
  ((s.expect.find? fun e => e.1 == msgKey m).map (·.2)).getD 0

/-- The message is accepted: the stream's next SEQ is the following one. -/
def State.accept (s : State) (m : Msg) : State :=
  { s with expect := (msgKey m, m.seq + 1) :: s.expect.filter fun e => e.1 != msgKey m }

/-- The die that counts a link error of a message: that of the port it came through, else its destination. -/
def arrivalDie (m : Msg) (via : Option Nat) : Nat := (via.map (· / 2)).getD m.ddie.toNat

/-- The 64-bit words of bytes, XORed (R385). -/
def xorWords : List Byte → Nat
  | b0 :: b1 :: b2 :: b3 :: b4 :: b5 :: b6 :: b7 :: l => leNat [b0, b1, b2, b3, b4, b5, b6, b7] ^^^ xorWords l
  | l => leNat l

/-- hv of R385. -/
def msgHv (m : Msg) : BitVec 64 :=
  BitVec.ofNat 64 (m.addr.toNat ^^^ m.typ.toNat * 2 ^ 60 ^^^ m.ndat.toNat * 2 ^ 56 ^^^ m.spkg.toNat * 2 ^ 40 ^^^
    m.dpkg.toNat * 2 ^ 24 ^^^ m.sdie.toNat * 2 ^ 20 ^^^ m.ddie.toNat * 2 ^ 16 ^^^ m.agt.toNat)

/-- c of R385. -/
def msgC (m : Msg) : BitVec 64 := BitVec.ofNat 64 (xorWords (leBytes 48 m.inl.toNat) ^^^ xorWords m.data)

/-- D after a message (R385). -/
def digestNext (d hv c : BitVec 64) : BitVec 64 := (d.rotateLeft 7 ^^^ hv) * 0x9E3779B97F4A7C15 + c

/-- The port through which a message is accepted digests it (R385). -/
def State.digest (s : State) (m : Msg) (via : Option Nat) : State :=
  match via with
  | none => s
  | some q => { s with ports := vmod Port.reset s.ports q fun p =>
      { p with dig := digestNext p.dig (msgHv m) (msgC m), dcnt := p.dcnt + 1 } }

/-- The acknowledgement of a message, on the plane on which it came, with its PLN and SEQ (R351); a message of the package
itself needs none here. -/
def State.acknowledge (s : State) (m : Msg) (via : Option Nat) : State :=
  if m.spkg = Config.pkgId then s
  else
    s.emit { inl := m.agt.zeroExtend 352, rsv := 0, pln := m.pln, rpl := false, agt := 0xFFFF, addr := m.addr, seq := m.seq,
             dpkg := m.spkg, spkg := Config.pkgId, sdie := m.ddie, ddie := m.sdie, typ := 8, ndat := 0, data := [] }
      (BitVec.ofNat 2 ((via.map (· % 4)).getD m.pln.toNat)) none

/-- The SEQ of a message lies among those that its stream has already accepted: behind the next one by at most half the
range (R352; log 22). -/
def State.seenSeq (s : State) (m : Msg) : Bool :=
  let back := s.expected m - m.seq
  back != 0 && decide (back.toNat ≤ 2 ^ 15) && s.expect.any fun e => e.1 == msgKey m

/-- What becomes of an arriving message: `none`: it is discarded or passed on, and the state after that is `.inl`; else it
is accepted, in SEQ order. -/
inductive Arrival where
  | gone (s : State)
  | accepted (s : State)
  deriving DecidableEq, Repr

/-- A plane that has been declared dead (R357, R359): from its declaration on, and until it is revived. -/
def State.planeDead (s : State) (plane : Nat) : Bool :=
  !s.live.getLsbD plane || (s.qs.any fun q => q.1.getLsbD plane)

/-- A message arrives on a dead plane (R359): the plane of its port, else the one of its first injection. -/
def State.onDeadPlane (s : State) (m : Msg) (via : Option Nat) : Bool :=
  match via with
  | some q => s.planeDead (q % 4)
  | none => s.planeDead m.pln.toNat && !m.rpl

/-- Discard, pass on (R365) or accept and acknowledge; a message accepted before is acknowledged again (R351, R352). -/
def State.arrive (s : State) (m : Msg) (via : Option Nat) : Arrival :=
  if msgBad m then .gone (s.countErr (arrivalDie m via) 7 true)
  else if s.onDeadPlane m via then .gone s
  else if m.dpkg ≠ Config.pkgId then
    let plane := BitVec.ofNat 2 ((via.map (· % 4)).getD m.pln.toNat)
    let o : OutMsg := { id := s.nextId, msg := m, plane := plane, part := none, injected := false, ports := [], first := 0,
                        last := 0, src := .system }
    if (s.leading none plane m.dpkg).isEmpty then .gone (s.noRoute m)
    else .gone ({ s.fresh with out := s.out ++ [o] }.digest m via)
  else if m.typ = 8 then .accepted (s.digest m via)
  else if m.seq = s.expected m then .accepted (((s.accept m).digest m via).acknowledge m via)
  else .gone (if s.seenSeq m then s.acknowledge m via else s)

/-- The address space in which a message of a job is served here: that of the lowest VF of the job that has a partition
(log 21). -/
def State.jobVf (s : State) (job : Nat) : Option Nat :=
  (tab 96 id).find? fun v => (s.vf v).job.toNat == job && (s.vf v).part != 0xF

/-- The alias class of a message's access, which the package that serves it checks (R88, R335; log 21). -/
def msgAc (m : Msg) : BitVec 2 := bv m.inl.toNat 97 2

/-- JOB of a message (log 21). -/
def msgJob (m : Msg) : Nat := fld m.inl.toNat 112 16

/-- A message of the package itself, back to the source of another (R230). -/
def State.reply (s : State) (m : Msg) (typ : BitVec 4) (inl : Nat) (data : List Byte) (plane : BitVec 2) : State :=
  let r : Msg := { inl := BitVec.ofNat 352 inl, rsv := 0, pln := plane, rpl := false, agt := 0xFFFF, addr := m.addr, seq := 0,
                   dpkg := m.spkg, spkg := Config.pkgId, sdie := m.ddie, ddie := m.sdie, typ := typ,
                   ndat := BitVec.ofNat 4 (data.length / 64), data := data }
  s.emit r plane none

/-- A refusal travels back: the source's agent number, the SEQ and plane refused, and the cause (log 21). -/
def State.refuse (s : State) (m : Msg) (cause : Nat) : State :=
  s.reply m 9 (m.agt.toNat + m.seq.toNat * 2 ^ 16 + m.pln.toNat * 2 ^ 32 + cause * 2 ^ 40) [] m.pln

/-- The receiving task of an `xsend.msg` (R231): the live task of the job with the mailbox of lowest number. -/
def State.mailbox (s : State) (job mbx : Nat) : Option Nat :=
  ((s.troupes.mapIdx fun t tr => (t, tr)).filter fun q =>
    q.2.live && q.2.st != .retiring && (s.vf q.2.vf).job.toNat == job && q.2.launch.mbx.toNat == mbx).foldl (fun b q =>
      match b with
      | none => some q
      | some x => if q.2.num < x.2.num then some q else some x) none |>.map (·.1)

/-- What the VF that owns the target of a message from another package is charged (R288): the crossings of its flits from the
port's die to the target's, and what is done there. -/
def State.payArrival (s : State) (v : Nat) (m : Msg) (via : Option Nat) (die : Nat) (l : List (Nat × Nat × Nat)) : State :=
  if m.spkg = Config.pkgId then s else s.chargeOwner v (crossings (arrivalDie m via) die (1 + m.ndat.toNat) ++ l)

/-- A granule of memory at its home. -/
def granuleCharge (pa n : Nat) : List (Nat × Nat × Nat) := [(dieOf pa, if isFar pa then 0x0E else 0x0D, n)]

/-- WRITE_MESSAGE (R230, R231, R349): a granule from another package is accepted and written, its add follows; an
`xsend.msg` is accepted for its task. -/
def execWriteMessage (m : Msg) (via : Option Nat) (s : State) : Host.Outcome State Fault Refusal :=
  if m.typ ≠ 0 && m.typ ≠ 5 && !msgBad m then notEnabled "WRITE_MESSAGE"
  else match s.arrive m via with
  | .gone s => .next s
  | .accepted s' =>
    if m.typ = 5 then
      let a := m.addr.toNat / 512
      let t := s.mailbox (msgJob m) (a / 1024)
      let n := (t.bind fun t => (s.troupe? t).map fun tr =>
        let (c, k) := (shapeSize tr.image.shape tr.image.m).getD (1, 1)
        c * k).getD 0
      match t with
      | none => .next (s'.refuse m 0x0B)
      | some t =>
        if n ≤ a / 4 % 256 then .next (s'.refuse m 0x0B)
        else
          let g : InMsg := { id := s'.nextId, trp := t, rank := a / 4 % 256, ch := a % 4,
                             data := tab 16 fun i => BitVec.ofNat 32 (numAt m.data (4 * i) 4), src := .system }
          let v := ((s.troupe? t).map (·.vf)).getD 0
          let die := ((s.core? (.core t (a / 4 % 256))).map (·.die)).getD (arrivalDie m via)
          .next ({ s'.fresh with inMsgs := s'.inMsgs ++ [g] }.payArrival v m via die [])
    else
      match s.jobVf (msgJob m) with
      | none => .next (s'.refuse m 0x0B)
      | some v =>
        match s.translate (unitCtx (s.vf v).asid.toNat) (m.addr.toNat % 2 ^ 57) .wr (some (msgAc m)) .tables with
        | .error _ => .next (s'.refuse m 0x0B)
        | .ok (pa, pte) =>
          if s.writeWaits pa pte || s.tablesDown (unitCtx (s.vf v).asid.toNat) (m.addr.toNat % 2 ^ 57) .tables then
            notEnabled "WRITE_MESSAGE"
          else
            let s' := (s'.acceptWide pa (m.data.map some)).payArrival v m via (dieOf pa) (granuleCharge pa m.ndat.toNat)
            let h : BitVec 32 := bv m.inl.toNat 64 32
            if fld m.inl.toNat 96 1 = 0 then .next s'
            else match s.vfCounter v h with
              | none => .next (s'.refuse m 0x13)
              | some c =>
                if c.lost then .next (s'.refuse m 0x11)
                else .next (s'.postCtr h (.add (m.inl.truncate 64)) .system)

/-- READ_REQUEST (R230, R349): a read is served from memory as it stands (R252). -/
def execReadRequest (m : Msg) (via : Option Nat) (s : State) : Host.Outcome State Fault Refusal :=
  if m.typ ≠ 1 then notEnabled "READ_REQUEST"
  else match s.arrive m via with
  | .gone s => .next s
  | .accepted s' =>
    match s.jobVf (msgJob m) with
    | none => .next (s'.refuse m 0x0B)
    | some v =>
      match s.translate (unitCtx (s.vf v).asid.toNat) (m.addr.toNat % 2 ^ 57) .rd (some (msgAc m)) .tables with
      | .error _ => .next (s'.refuse m 0x0B)
      | .ok (pa, _) =>
        if s.portDown pa || s.tablesDown (unitCtx (s.vf v).asid.toNat) (m.addr.toNat % 2 ^ 57) .tables then
          notEnabled "READ_REQUEST"
        else
          let q := arrivalDie m via
          .next ((s'.payArrival v m via (dieOf pa) (granuleCharge pa 1 ++ (q, 0x11, 2) :: crossings (dieOf pa) q 2)).reply m 2
            m.inl.toNat (s.latest.read pa 64) (s.planeOf m.addr.toNat))

/-- The agent of a number on a die (log 21). -/
def State.agentOf (s : State) (die num : Nat) : Option Agent :=
  if 256 ≤ num then (if die = 8 then some (.mgmt 0) else if die = 9 then some (.mgmt 1) else none)
  else ((s.troupes.mapIdx fun t tr => (t, tr)).findSome? fun q =>
    (q.2.cores.findIdx? fun c => c.die == die && c.loc == num / 8).map fun r => Agent.core q.1 r)

/-- READ_RESPONSE (R230): a granule of an `xget` is on its way to the wall of the core that asked. -/
def execReadResponse (m : Msg) (via : Option Nat) (s : State) : Host.Outcome State Fault Refusal :=
  if m.typ ≠ 2 then notEnabled "READ_RESPONSE"
  else match s.arrive m via with
  | .gone s => .next s
  | .accepted s' =>
    let n := m.inl.toNat
    match (s.agentOf m.ddie.toNat (fld n 64 16)).bind fun a => (s.core? a).bind fun c =>
        (c.cmd? (fld n 32 32)).map fun k => (a, k) with
    | none => .next s'
    | some (a, k) =>
      match k.op with
      | .xget dst _ _ w =>
        let g : Granule := { id := s'.nextId, dst := a, addr := dst + 64 * fld n 0 32, data := m.data.take 64,
                             ctr := if w[63] then some (w.truncate 32) else none, amt := 64, src := .cmd a k.id, since := none }
        let s' : State := { s'.fresh with flight := s'.flight ++ [g] }
        .next (match s.vfOf a with
          | some v => s'.payArrival v m via (s.dieOfAgent a) []
          | none => s')
      | _ => .next s'

/-- FENCE_MARKER (R355): the marker is accepted behind every earlier message of its source; its acknowledgement leaves at
once. -/
def execFenceMarker (m : Msg) (via : Option Nat) (s : State) : Host.Outcome State Fault Refusal :=
  if m.typ ≠ 6 then notEnabled "FENCE_MARKER"
  else match s.arrive m via with
  | .gone s => .next s
  | .accepted s' =>
    .next (if m.spkg = Config.pkgId then s' else s'.reply m 7 (m.agt.toNat + m.seq.toNat * 2 ^ 16) [] m.pln)

/-- A message carries this source, destination, PLN and SEQ. -/
def OutMsg.named (o : OutMsg) (die : BitVec 4) (agt : Nat) (pkg : BitVec 16) (pln : BitVec 2) (seq : BitVec 16) : Bool :=
  o.msg.sdie == die && o.msg.agt.toNat == agt && o.msg.dpkg == pkg && o.msg.pln == pln && o.msg.seq == seq

/-- The message of this package in a replay buffer that an acknowledgement or a refusal names. -/
def State.outMsg? (s : State) (die : BitVec 4) (agt : Nat) (pkg : BitVec 16) (pln : BitVec 2) (seq : BitVec 16) :
    Option OutMsg :=
  s.out.find? fun o => o.injected && o.named die agt pkg pln seq

/-- A message that has been acknowledged and may still be refused, or a marker, is remembered until another takes its SEQ. -/
def State.remember (s : State) (o : OutMsg) : State :=
  if o.msg.typ = 0 || o.msg.typ = 1 || o.msg.typ = 5 || o.msg.typ = 6 then
    { s with acked := (s.acked.filter fun p =>
        !p.named o.msg.sdie o.msg.agt.toNat o.msg.dpkg o.msg.pln o.msg.seq) ++ [o] }
  else s

/-- The awaited marker that an acknowledgement names (R355): by plane, die and SEQ within the package, else the message that
carried it, which may still be unacknowledged itself. An acknowledgement of a marker that is no longer awaited names none. -/
def State.markOf (s : State) (m : Msg) (l : List Mark) : Option Mark :=
  let agt := fld m.inl.toNat 0 16
  let seq : BitVec 16 := bv m.inl.toNat 16 16
  l.find? fun k => match k.out with
    | none => m.spkg == Config.pkgId && k.plane == m.pln.toNat && k.die == m.sdie.toNat && k.seq == seq
    | some id => (s.out ++ s.acked).any fun o => o.id == id && o.msg.typ == 6 && o.named m.ddie agt m.spkg m.pln seq

/-- MARKER_ACKNOWLEDGEMENT (R355): one marker fewer for the phase that waits; a marker of the package that was not injected
before a quiesce is not acknowledged in it. -/
def execMarkerAcknowledgement (m : Msg) (via : Option Nat) (s : State) : Host.Outcome State Fault Refusal :=
  if m.typ ≠ 7 then notEnabled "MARKER_ACKNOWLEDGEMENT"
  else match s.arrive m via with
  | .gone s => .next s
  | .accepted s' =>
    match (s.agentOf m.ddie.toNat (fld m.inl.toNat 0 16)).bind fun a => (s.core? a).bind fun c =>
        (s.markOf m c.marks).map fun k => (a, k) with
    | none => .next s'
    | some (a, k) =>
      if k.out.isNone && s.qs.isSome && decide (s.qsFrom ≤ k.sent) then notEnabled "MARKER_ACKNOWLEDGEMENT"
      else .next (s'.modCore a fun c =>
        { c with wait := c.wait.map fun w => { w with markers := w.markers.erase k },
                 pubMarks := c.pubMarks.map fun l => l.erase k })

/-- ACKNOWLEDGEMENT (R351): the message leaves the replay buffer; a write of a command is then acknowledged. -/
def execAcknowledgement (m : Msg) (via : Option Nat) (s : State) : Host.Outcome State Fault Refusal :=
  if m.typ ≠ 8 then notEnabled "ACKNOWLEDGEMENT"
  else match s.arrive m via with
  | .gone s => .next s
  | .accepted s' =>
    match s.outMsg? m.ddie (fld m.inl.toNat 0 16) m.spkg m.pln m.seq with
    | none => .next s'
    | some o =>
      let s' := { s' with out := s'.out.filter fun p => p.id != o.id }.remember o
      .next (if o.msg.typ = 0 || o.msg.typ = 5 then s'.appliedFor o.src else s')

/-- REFUSAL (R230, R405): a refused message is reported to the issuing troupe under R218, before its acknowledgement or
after it; it is not resent, and a refused read brings no data. -/
def execRefusal (m : Msg) (via : Option Nat) (s : State) : Host.Outcome State Fault Refusal :=
  if m.typ ≠ 9 then notEnabled "REFUSAL"
  else match s.arrive m via with
  | .gone s => .next s
  | .accepted s' =>
    let n := m.inl.toNat
    let named (o : OutMsg) : Bool := o.named m.ddie (fld n 0 16) m.spkg (bv n 32 2) (bv n 16 16)
    let waiting := s'.outMsg? m.ddie (fld n 0 16) m.spkg (bv n 32 2) (bv n 16 16)
    match waiting.or (s'.acked.find? named) with
    | none => .next s'
    | some o =>
      if o.src.agent.any s.away then notEnabled "REFUSAL"
      else
      let s' : State := { s' with out := s'.out.filter fun p => p.id != o.id, acked := s'.acked.filter fun p => p.id != o.id }
      let s' := if waiting.isSome || o.msg.typ = 1 then s'.appliedFor o.src else s'
      match o.src.agent with
      | some a => .next (s'.modCore a fun c => c.raiseLate o.rep.1 o.rep.2.1 (o.refusal (fld n 40 8)))
      | none => .next s'

/-! ## Planes that die (R355 to R359) -/

/-- Plane-down messages to every package that an active table of a live plane reaches (R359). -/
def State.sendDown (s : State) (plane : BitVec 2) : State :=
  let dests := (tab 16 id).flatMap fun q =>
    if s.live.getLsbD (q % 4) && q % 4 != plane.toNat then
      (s.port q).active.filterMap fun e => if e.2[63] then some (q % 4, (e.2.truncate 16 : BitVec 16)) else none
    else []
  dests.eraseDups.foldl (fun s d =>
    let m : Msg := { inl := plane.zeroExtend 352, rsv := 0, pln := BitVec.ofNat 2 d.1, rpl := false, agt := 0xFFFE, addr := 0,
                     seq := 0, dpkg := d.2, spkg := Config.pkgId, sdie := 8, ddie := 0, typ := 0xA, ndat := 0, data := [] }
    s.emit m (BitVec.ofNat 2 d.1) none) s

/-- Steps 1 of R357: a plane is declared dead. -/
def State.declareDead (s : State) (plane : BitVec 2) (pod : Bool) : State :=
  let b : BitVec 4 := BitVec.ofNat 4 (2 ^ plane.toNat)
  let (k, r) := s.qs.getD (0, 0)
  if !s.live.getLsbD plane.toNat || k.getLsbD plane.toNat then s
  else
    let s := if pod then s else s.sendDown plane
    { s with qs := some (k ||| b, r), qsAt := s.wall, qsFrom := if s.qs.isSome then s.qsFrom else s.wall, planeFail := s.planeFail ||| b }.setHvIp 5

/-- PLANE_DOWN (R359): a package of the job declared the plane dead. -/
def execPlaneDown (m : Msg) (via : Option Nat) (s : State) : Host.Outcome State Fault Refusal :=
  if m.typ ≠ 0xA then notEnabled "PLANE_DOWN"
  else match s.arrive m via with
  | .gone s => .next s
  | .accepted s' => .next (s'.declareDead (m.inl.truncate 2) true)

/-- The messages of one stream that are injected and unacknowledged. -/
def State.streamMsgs (s : State) (o : OutMsg) : List OutMsg :=
  s.out.filter fun p => p.injected && p.msg.sdie == o.msg.sdie && p.msg.agt == o.msg.agt && p.msg.dpkg == o.msg.dpkg &&
    p.msg.ddie == o.msg.ddie && p.msg.pln == o.msg.pln

/-- RT has passed for the oldest unacknowledged message of a stream, its plane is live and a route is up (R352). -/
def State.resendDue (s : State) (o : OutMsg) : Bool :=
  o.injected && !s.planeDead o.plane.toNat &&
  s.routeUp o && o.last + s.tmo.toNat / 16 ≤ s.wall && decide (o.last < s.wall) &&
  (s.streamMsgs o).all fun p => o.id ≤ p.id

/-- What waits within the package for its acknowledgement, as far as it has been injected (R351, R356; log 57): the plane
address and the wall cycle of its injection. -/
def State.ctrPending (s : State) (o : CtrOp) : Option (Nat × Nat) :=
  if o.stands || s.ctrMoving o.handle || !s.inBuffer o || s.engineOff o.handle || o.src.agent.any s.away then none
  else some (ctrAddr o.handle, o.sent)

def State.atomPending (s : State) (e : AtomicE) : Option (Nat × Nat) :=
  if e.op.onCounter then
    let h : BitVec 32 := BitVec.ofNat 32 e.tgt
    if s.ctrMoving h || s.engineOff h then none else some (ctrAddr h, e.sent)
  else (s.atomTarget e).map fun pa => (pa, e.sent)

/-- The markers that agents await. -/
def State.marks (s : State) : List Mark := s.agents.flatMap fun a => ((s.core? a).map fun c => c.marks).getD []

/-- Planes and injection times of the package's unacknowledged traffic. -/
def State.inner (s : State) : List (Nat × Nat) :=
  (s.ctrOps.filterMap s.ctrPending ++ s.atoms.filterMap s.atomPending).map (fun q => ((s.planeOf q.1).toNat, q.2)) ++
  (s.marks.filter fun k => k.out.isNone).map fun k => (k.plane, k.sent)

/-- The plane of the message that an ACK_TIMEOUT names: one that left the package, an operation of a counter or a batch, or,
by 0, an awaited marker within the package; with the wall cycle of its first injection. -/
def State.timed (s : State) (id : Nat) : Option (BitVec 2 × Nat) :=
  match s.out.find? fun o => o.id == id with
  | some o => if o.injected && s.routeUp o then some (o.plane, o.first) else none
  | none =>
    (((s.ctrOps.find? fun o => o.id == id).bind s.ctrPending).or ((s.atoms.find? fun e => e.id == id).bind s.atomPending)).map
      (fun q => (s.planeOf q.1, q.2)) |>.or
    (if id = 0 then (s.marks.find? fun k => k.out.isNone && decide (k.sent + s.tmo.toNat ≤ s.wall) && !s.planeDead k.plane).map
        fun k => (BitVec.ofNat 2 k.plane, k.sent)
      else none)

/-- TMO has passed since the first injection of the message (R356). -/
def State.overdue (s : State) (id : Nat) : Bool :=
  match s.timed id with
  | some (p, n) => decide (n + s.tmo.toNat ≤ s.wall) && !s.planeDead p.toNat
  | none => false

/-- The next message whose TMO has passed. -/
def State.nextOverdue (s : State) : Option Nat :=
  (s.out.map OutMsg.id ++ s.ctrOps.map CtrOp.id ++ s.atoms.map AtomicE.id ++ [0]).find? s.overdue

/-- RESEND_TIMEOUT (R352): RT passes since the oldest unacknowledged message of a stream was sent; it and every later one
are sent again, each on its own plane through whichever route is up now. -/
def execResendTimeout (id : Nat) (s : State) : Host.Outcome State Fault Refusal :=
  match s.out.find? fun o => o.id == id with
  | none => notEnabled "RESEND_TIMEOUT"
  | some o =>
    let way (p : OutMsg) := (s.leading p.part p.plane p.msg.dpkg).find? fun q => (s.port q).isActive
    if !s.resendDue o then notEnabled "RESEND_TIMEOUT"
    else
      let ids := (s.streamMsgs o).map (·.id)
      .next { s with out := s.out.map fun p =>
        if ids.contains p.id then { p with last := s.wall, ports := (way p).toList ++ p.ports, msg := { p.msg with rpl := true } } else p }

/-- ACK_TIMEOUT (R356): a message whose route is up stays unacknowledged for TMO since its first injection. -/
def execAckTimeout (id : Nat) (s : State) : Host.Outcome State Fault Refusal :=
  match s.timed id with
  | none => notEnabled "ACK_TIMEOUT"
  | some (p, _) => if s.overdue id then .next (s.declareDead p false) else notEnabled "ACK_TIMEOUT"

/-- LINK_DOWN (R356): a UCIe link fails to retrain. -/
def execLinkDown (edge : Nat) (plane : BitVec 2) (s : State) : Host.Outcome State Fault Refusal :=
  if 17 ≤ edge || s.linksDown.contains (edge, plane) then notEnabled "LINK_DOWN"
  else
    let (a, b) := edgeDies edge
    .next ((({ s with linksDown := s.linksDown ++ [(edge, plane)] }.countErr a 7 true).countErr b 7 true).declareDead plane false)

/-- UCIE_LINK_RETRAINED (R348): the link is up again, at UCIe 2.0 or, when `old`, at 1.1. -/
def execUcieLinkRetrained (edge : Nat) (plane : BitVec 2) (old : Bool) (s : State) : Host.Outcome State Fault Refusal :=
  if 17 ≤ edge then notEnabled "UCIE_LINK_RETRAINED"
  else
    let rest := s.linksOld.filter fun e => e != (edge, plane)
    .next { s with linksDown := s.linksDown.filter fun e => e != (edge, plane),
                   linksOld := if old then rest ++ [(edge, plane)] else rest }

/-- FB_STAT.OLD (R354). -/
def State.oldDies (s : State) : Nat :=
  ((tab 10 fun d => d).map fun d => bit (s.linksOld.any fun e => (edgeDies e.1).1 == d || (edgeDies e.1).2 == d) * 2 ^ d).sum

/-- Something injected on a plane before the quiesce is unacknowledged. -/
def State.pendingOn (s : State) (p : Nat) : Bool :=
  (s.out.any fun o => o.injected && o.plane.toNat == p) || s.inner.any fun q => q.1 == p && decide (q.2 < s.qsFrom)

/-- The drain of a quiesce is over: nothing injected on a plane that stays is unacknowledged (R357). -/
def State.drained (s : State) (kill : BitVec 4) : Bool :=
  (planesOf s.live).all fun p => kill.getLsbD p || !s.pendingOn p

/-- A phase that awaits a marker on a plane that died sends fresh ones on every live plane after the rehash and waits for those
instead (R355). -/
def State.freshMarkers (s : State) (kill : BitVec 4) (a : Agent) : State :=
  match s.core? a with
  | none => s
  | some c =>
    if !c.marks.any fun k => kill.getLsbD k.plane then s
    else
      let (d, g) := s.sourceOf a 2
      let k := match c.wait with
        | some w => (match w.kind with
          | .phase k => k
          | _ => 5)
        | none => 5
      let s : State := { s with out := s.out.filter fun o => !(o.msg.typ == 6 && o.msg.sdie == d && o.msg.agt == g) }
      let (s, l) := s.sendMarkers a k
      s.modCore a fun c => { c with wait := c.wait.map fun w => { w with markers := l }, pubMarks := c.pubMarks.map fun _ => l }

/-- A message after the rewrite of the map (R357 steps 4 and 5): one of a dead plane is sent again on the plane of its bucket,
and its time counts from its first injection there (log 58); one that waits takes its plane anew. A marker and a plane-down
message are for one plane and stay with it. -/
def State.replay (s : State) (o : OutMsg) : OutMsg :=
  let plane := s.planeOf o.msg.addr.toNat
  if o.injected then
    { o with plane := plane, first := s.wall, last := s.wall, msg := { o.msg with rpl := true },
             ports := ((s.leading o.part plane o.msg.dpkg).find? fun q => (s.port q).isActive).toList ++ o.ports }
  else if o.msg.typ = 6 || o.msg.typ = 0xA then o
  else if o.isAck || o.msg.spkg ≠ Config.pkgId then { o with plane := plane }
  else { o with plane := plane, msg := { o.msg with pln := plane } }

/-- The package's own traffic that waited, or was on a dead plane `old`, is injected in this wall cycle. -/
def State.replayInner (s : State) (old : Nat → Bool) : State :=
  let again (n sent : Nat) : Nat := if old n || decide (s.qsFrom ≤ sent) then s.wall else sent
  { s with ctrOps := s.ctrOps.map fun o => { o with sent := again (ctrAddr o.handle) o.sent },
           atoms := s.atoms.map fun e => { e with sent := again (if e.op.onCounter then ctrAddr (BitVec.ofNat 32 e.tgt) else e.pa.getD e.tgt) e.sent } }

/-- QUIESCE_DRAIN_DONE (R357 steps 3 to 5): the map is rewritten over the planes that live, the dead planes' messages are
replayed, and injection resumes. -/
def execQuiesceDrainDone (s : State) : Host.Outcome State Fault Refusal :=
  match s.qs with
  | none => notEnabled "QUIESCE_DRAIN_DONE"
  | some (kill, revive) =>
    if !s.drained kill then notEnabled "QUIESCE_DRAIN_DONE"
    else
      let live := (s.live &&& ~~~ kill) ||| (revive &&& ~~~ kill)
      let l := planesOf live
      let s' : State := { s with live := live, qs := none, nreh := s.nreh + 1,
                                 pmap := if l.isEmpty then s.pmap else gen 64 fun b => BitVec.ofNat 2 (l.getD (b % l.length) 0) }
      let s' := s'.replayInner fun a => !live.getLsbD (s.planeOf a).toNat || !s.live.getLsbD (s.planeOf a).toNat
      let kept := s'.out.filter fun o => o.msg.typ != 0xA || o.injected || live.getLsbD o.plane.toNat
      let s' := ({ s' with out := kept.map s'.replay }.setHvIp 5).injectAll
      .next (s'.agents.foldl (fun s a => s.freshMarkers kill a) s')

/-- QUIESCE_TIMEOUT (R357 step 2): the drain exceeds QTMO; the planes that still hold messages die too. -/
def execQuiesceTimeout (s : State) : Host.Outcome State Fault Refusal :=
  match s.qs with
  | none => notEnabled "QUIESCE_TIMEOUT"
  | some (kill, _) =>
    if s.wall ≤ s.qsAt + s.qtmo.toNat || s.drained kill then notEnabled "QUIESCE_TIMEOUT"
    else
      let stuck := (planesOf s.live).filter fun p => !kill.getLsbD p && s.pendingOn p
      .next ({ stuck.foldl (fun s p => s.declareDead (BitVec.ofNat 2 p) false) s with qsAt := s.wall })

/-- A refused FB_CMD. -/
def State.refuseFb (s : State) : State := { s with fbCref := true }

/-- KILL (R354). -/
def execKill (plane : BitVec 2) (s : State) : Host.Outcome State Fault Refusal :=
  if s.qs.isSome || !s.live.getLsbD plane.toNat || (planesOf s.live).length ≤ 1 then .next s.refuseFb
  else .next (s.declareDead plane false)

/-- REVIVE (R354, R357): the steps of a quiesce with no replay; the plane joins the live ones. -/
def execRevive (plane : BitVec 2) (s : State) : Host.Outcome State Fault Refusal :=
  if s.qs.isSome || s.live.getLsbD plane.toNat || s.linksDown.any fun e => e.2 == plane then .next s.refuseFb
  else .next ({ s with qs := some (0, BitVec.ofNat 4 (2 ^ plane.toNat)), qsAt := s.wall, qsFrom := s.wall }.setHvIp 5)

/-! ## Ports at the package's edges (R369, R371, R372) -/

/-- CXL_LINK_DOWN (R371): accesses to the port's pages wait. -/
def execCxlLinkDown (port : BitVec 3) (s : State) : Host.Outcome State Fault Refusal :=
  .next { s with cxlDown := s.cxlDown ||| BitVec.ofNat 8 (2 ^ port.toNat) }

/-- CXL_LINK_UP (R371). -/
def execCxlLinkUp (port : BitVec 3) (s : State) : Host.Outcome State Fault Refusal :=
  .next { s with cxlDown := s.cxlDown &&& ~~~ (BitVec.ofNat 8 (2 ^ port.toNat)) }

/-- HOST_PORT_LINK_CHANGE (R368, R369): HP_LNK follows, a port up at generation 5 to 7 and x4 to x16; once die 1's port has
trained, HP_CFG is fixed. -/
def execHostPortLinkChange (port : Fin 2) (gen wid : BitVec 4) (s : State) : Host.Outcome State Fault Refusal :=
  let up := gen != 0
  let f : Nat := if up then wid.toNat + gen.toNat * 16 else 0
  let n := s.hpLnk.toNat
  if (up && (gen.toNat < 5 || 7 < gen.toNat || wid.toNat < 2 || 4 < wid.toNat)) || (port.val = 1 && s.hpCfg = 0 && up) then
    notEnabled "HOST_PORT_LINK_CHANGE"
  else if port.val = 0 then .next { s with hpLnk := BitVec.ofNat 32 (n / 2 ^ 8 * 2 ^ 8 + f) }
  else .next { s with hpLnk := BitVec.ofNat 32 (n % 2 ^ 16 + f * 2 ^ 16), hpSet := s.hpSet || up }

/-- The address space of a host's or a CXL peer's access (R369): the peer's is the hypervisor's assignment (log 59). -/
def hostSpace (acc : HostAccess) : Nat := if acc.peer then Config.peerAsid.toNat else acc.asid.toNat

/-- HOST_MEMORY_ACCESS (R252, R347, R369, R371): a host's or CXL peer's access to device G under its ASID; one whose memory or
tables cannot be reached waits, and so does a write to a page that moves; a read returns the latest accepted bytes, and none
where the translation refuses it. -/
def execHostMemoryAccess (acc : HostAccess) (s : State) : Host.Outcome State Fault Refusal :=
  let va := acc.va.toNat
  if acc.peer && s.hpCfg != 2 then notEnabled "HOST_MEMORY_ACCESS"
  else if !acc.write then
    (if s.unitWaits (hostSpace acc) va acc.len then notEnabled "HOST_MEMORY_ACCESS"
    else .next (s.tell (.data va (s.readG (hostSpace acc) va acc.len))))
  else if s.unitWriteWaits (hostSpace acc) va acc.data.length then notEnabled "HOST_MEMORY_ACCESS"
  else .next (s.writeG (hostSpace acc) va acc.data)

/-- COUNTER_MOVE (R372): SE_RHM OP 1. -/
def execCounterMove (src dst : BitVec 4) (s : State) : Host.Outcome State Fault Refusal :=
  .next (s.moveCommand (BitVec.ofNat 64 (2 ^ 60 + src.toNat * 16 + dst.toNat)))

end Sys2Proof.Machine
end

