-- ==== Sys2Proof/Machine/Optical.lean ====
section
/-!
DEFINITION. Optical ports, route tables and topology commands (R360 to R367, R385).
-/

namespace Sys2Proof.Machine

def State.setPort (s : State) (q : Nat) (p : Port) : State := { s with ports := vset s.ports q p }

/-- A command is refused (R362). -/
def State.portRefuse (s : State) (q : Nat) : State := s.setPort q { s.port q with cerr := true }

/-! ## Wavelengths: OP_WST (R361) -/

/-- Bits of wavelength i of OP_WST: 1 LOCK, 2 TRND, 4 FAIL. -/
def Port.wl (p : Port) (i : Nat) : Nat := fld p.wst.toNat (3 * i) 3
def Port.setWl (p : Port) (i v : Nat) : Port :=
  { p with wst := BitVec.ofNat 27 (p.wst.toNat - p.wl i * 2 ^ (3 * i) + v % 8 * 2 ^ (3 * i)) }

def wlLock (v : Nat) : Bool := v % 2 == 1
def wlTrnd (v : Nat) : Bool := v / 2 % 2 == 1
def wlFail (v : Nat) : Bool := v / 4 % 2 == 1

/-- The eight wavelengths of a lane map. -/
def laneWls (l : BitVec 32) : List Nat := tab 8 fun i => fld l.toNat (4 * i) 4

/-- MAP accepts the lane map (R362). -/
def Port.mapOk (p : Port) : Bool :=
  let l := laneWls p.lmap
  l.eraseDups.length == 8 && l.all fun w => w ≤ 8 && wlLock (p.wl w) && wlTrnd (p.wl w) && !wlFail (p.wl w)

/-- ST codes (R362). -/
def stOff : BitVec 4 := 0
def stLit : BitVec 4 := 1
def stLinkup : BitVec 4 := 2
def stActive : BitVec 4 := 3
def stDraining : BitVec 4 := 4
def stFailed : BitVec 4 := 5

/-! ## Commands (R362) -/

/-- A command begins, or is refused. The write that the other management core makes of the same command in the wall cycle in
which it begins is the same command (log 66). -/
def State.portCommand (s : State) (q op : Nat) (wl : BitVec 4) (allowed : Port → Bool) (f : Port → Port) : State :=
  let p := s.port q
  let cmd : BitVec 4 × BitVec 4 := (BitVec.ofNat 4 op, wl)
  if p.busy == some cmd && p.began == s.wall then s
  else if p.busy.isSome || s.gatePort.getLsbD q || !allowed p then s.portRefuse q
  else s.setPort q { f p with busy := some cmd, began := s.wall }

def execLaserOn (port : BitVec 4) (s : State) : Host.Outcome State Fault Refusal :=
  .next (s.portCommand port.toNat 1 0 (fun p => p.st == stOff) fun p => p)

/-- LOCK begins by clearing FAIL and TRND of the wavelength. -/
def execLock (port wl : BitVec 4) (s : State) : Host.Outcome State Fault Refusal :=
  .next (s.portCommand port.toNat 2 wl (fun p => (p.st == stLit || p.st == stLinkup) && wl.toNat ≤ 8)
    fun p => p.setWl wl.toNat (p.wl wl.toNat % 2))

/-- TRAIN begins by clearing FAIL of the wavelength. -/
def execTrain (port wl : BitVec 4) (s : State) : Host.Outcome State Fault Refusal :=
  .next (s.portCommand port.toNat 3 wl
    (fun p => (p.st == stLit || p.st == stLinkup) && wl.toNat ≤ 8 && wlLock (p.wl wl.toNat))
    fun p => p.setWl wl.toNat (p.wl wl.toNat % 4))

def execMap (port : BitVec 4) (s : State) : Host.Outcome State Fault Refusal :=
  .next (s.portCommand port.toNat 4 0 (fun p => (p.st == stLit || p.st == stLinkup) && p.mapOk) fun p => p)

def execEnable (port : BitVec 4) (s : State) : Host.Outcome State Fault Refusal :=
  .next (s.portCommand port.toNat 5 0 (fun p => p.st == stLinkup) fun p => p)

/-- DRAIN: new messages routed to the port wait from now on. -/
def execDrain (port : BitVec 4) (s : State) : Host.Outcome State Fault Refusal :=
  .next (s.portCommand port.toNat 6 0 (fun p => p.st == stActive) fun p => { p with st := stDraining })

def execDisable (port : BitVec 4) (s : State) : Host.Outcome State Fault Refusal :=
  .next (s.portCommand port.toNat 7 0 (fun p => p.st == stLinkup || p.st == stFailed) fun p => p)

def execLaserOff (port : BitVec 4) (s : State) : Host.Outcome State Fault Refusal :=
  .next (s.portCommand port.toNat 8 0 (fun p => p.st == stLit || p.st == stLinkup || p.st == stFailed) fun p => p)

/-- Every TRND bit cleared. -/
def Port.untrain (p : Port) : Port := (tab 9 id).foldl (fun p i => p.setWl i (p.wl i % 2 + p.wl i / 4 * 4)) p

/-- What the running command does when it ends: `locked` of LOCK, the eye of TRAIN and the peer of MAP are what the optics
answer. -/
def Port.finish (p : Port) (op wl : Nat) (locked : Bool) (eyew eyeh peer : BitVec 16) : Port :=
  match op with
  | 1 => { p with st := stLit, wst := 0 }
  | 2 => p.setWl wl (if locked then 1 else 4)
  | 3 =>
    let ok := 320 ≤ eyew.toNat && 120 ≤ eyeh.toNat
    { p.setWl wl (if ok then p.wl wl % 2 + 2 else p.wl wl % 4 + 4) with eye := vset p.eye wl (eyew ++ eyeh) }
  | 4 => { p with st := stLinkup, lanes := p.lmap, peer := peer }
  | 5 => { p with st := stActive }
  | 6 => { p with st := stLinkup }
  | 7 => { p.untrain with st := stLit }
  | _ => { p with st := stOff, wst := 0 }

/-- No message sent through a port is unacknowledged (R362). -/
def State.portQuiet (s : State) (q : Nat) : Bool := s.out.all fun o => !o.injected || !o.ports.contains q

/-- OPTICAL_COMMAND_END (R362): BUSY clears and FAB is raised. -/
def execOpticalCommandEnd (port : BitVec 4) (locked : Bool) (eyew eyeh peer : BitVec 16) (s : State) :
    Host.Outcome State Fault Refusal :=
  let q := port.toNat
  let p := s.port q
  match p.busy with
  | none => notEnabled "OPTICAL_COMMAND_END"
  | some (op, wl) =>
    if op = 6 && !s.portQuiet q then notEnabled "OPTICAL_COMMAND_END"
    else
      let p' := { p.finish op.toNat wl.toNat locked eyew eyeh peer with busy := none }
      .next ((s.setPort q p').setHvIp 5).injectAll

/-- LOSS_OF_SIGNAL (R362): on a mapped wavelength of a port that is ACTIVE or DRAINING; a DRAIN under way ends there. -/
def execLossOfSignal (port wl : BitVec 4) (s : State) : Host.Outcome State Fault Refusal :=
  let q := port.toNat
  let p := s.port q
  if (p.st != stActive && p.st != stDraining) || !(laneWls p.lanes).contains wl.toNat then notEnabled "LOSS_OF_SIGNAL"
  else .next ((s.setPort q { p with st := stFailed, los := true, busy := none }).setHvIp 5)

/-! ## Route tables (R365, R366) -/

/-- A table with an entry replaced; an entry of zeros is not listed. -/
def setRoute (l : List (Nat × BitVec 64)) (i : Nat) (e : BitVec 64) : List (Nat × BitVec 64) :=
  let l := l.filter fun x => x.1 != i
  if e = 0 then l else (i, e) :: l

def getRoute (l : List (Nat × BitVec 64)) (i : Nat) : BitVec 64 := ((l.find? fun x => x.1 == i).map (·.2)).getD 0

/-- RT_SEL: port, bank, entry. -/
def rtPort (v : BitVec 64) : Nat := fld v.toNat 16 4
def rtBank (v : BitVec 64) : Bool := v[12]
def rtIdx (v : BitVec 64) : Nat := fld v.toNat 0 12

/-- RT_DATA_WRITE (R366): of a port of the partition; a write to an active bank is ignored and sets CREF. -/
def execRtDataWrite (m : Nat) (v : BitVec 64) (s : State) : Host.Outcome State Fault Refusal :=
  if 2 ≤ m then notEnabled "RT_DATA_WRITE"
  else
    let part := (s.mg m).part.toNat
    let sel := (s.bank part).rtSel
    let q := rtPort sel
    let p := s.port q
    let e := BitVec.ofNat 64 (bit v[63] * 2 ^ 63 + fld v.toNat 0 16)
    if !(s.part part).ports.getLsbD q then .next s
    else if p.act == rtBank sel then .next (s.modBank part fun b => { b with rtCref := true })
    else if rtBank sel then .next (s.setPort q { p with rtB := setRoute p.rtB (rtIdx sel) e })
    else .next (s.setPort q { p with rtA := setRoute p.rtA (rtIdx sel) e })

/-- OP_DIG_WRITE (R385): D takes the written value and N becomes 0. -/
def execOpDigWrite (port : BitVec 4) (v : BitVec 64) (s : State) : Host.Outcome State Fault Refusal :=
  .next (s.setPort port.toNat { s.port port.toNat with dig := v, dcnt := 0 })

/-! ## Topology commands (R363, R364) -/

/-- Entries of a topology body: port and expected package. -/
def topoEntries (b : List Byte) : List (Nat × BitVec 16) :=
  tab (numAt b 0 2) fun j => (numAt b (64 + 16 * j) 1, BitVec.ofNat 16 (numAt b (66 + 16 * j) 2))

/-- TOPOLOGY_COMMAND (R363, R364): the oldest command begins by draining its ports, to which no new message goes; when none of
them runs a command and nothing sent through them is unacknowledged, they are disabled, and READY counts those in LIT. -/
def execTopologyCommand (s : State) : Host.Outcome State Fault Refusal :=
  match s.topo with
  | [] => notEnabled "TOPOLOGY_COMMAND"
  | c :: l =>
    let es := topoEntries c.body
    let each (s : State) (f : Port → Port) : State := es.foldl (fun s e => s.setPort e.1 (f (s.port e.1))) s
    if c.started || es.any (fun e => (s.port e.1).busy.isSome) then notEnabled "TOPOLOGY_COMMAND"
    else if !c.draining then
      .next (({ each s (fun p => if p.st == stActive then { p with st := stDraining } else p) with
        topo := { c with draining := true } :: l }).setHvIp 5)
    else if es.any (fun e => !s.portQuiet e.1) then notEnabled "TOPOLOGY_COMMAND"
    else
      let down (p : Port) : Port := if p.st == stOff || p.st == stLit then p else { p.untrain with st := stLit }
      let s := each s down
      let s := { s with topo := { c with started := true, since := s.wall } :: l }
      let lit := es.filter fun e => (s.port e.1).st == stLit
      .next ((lit.foldl (fun s _ => s.signal (BitVec.ofNat 32 (numAt c.body 8 4)) 1) s).setHvIp 5)

/-- The command ends: RES of every entry, then the completion of its launch (R323, R364). -/
def State.endTopo (s : State) (c : Topo) (rest : List Topo) (res : List Nat) : State :=
  let s := (res.mapIdx fun j r => (j, r)).foldl (fun s e =>
    s.writeG c.asid (c.launch.kimg.toNat + 64 + 16 * e.1 + 4) (leBytes 2 e.2)) { s with topo := rest }
  let s := s.reportEnd c.vf c.launch 0 0 0xFFFF 0 true
  let s := s.freeCtrs fun k => k.task == some (65536 + c.id)
  s.setIp (s.vf c.vf).part.toNat 2

/-- The body's RES, or the completion record, cannot be reached now (R358, R371). -/
def State.resWaits (s : State) (c : Topo) : Bool :=
  s.unitWriteWaits c.asid c.launch.kimg.toNat 320 || s.reportWaits c.vf c.launch

/-- GO has reached 1. -/
def State.topoGo (s : State) (c : Topo) : Bool :=
  ((s.ctr? (BitVec.ofNat 32 (numAt c.body 12 4))).map fun k => !k.lost && decide (1 ≤ k.value.toNat)).getD false

/-- Steps 4 to 6 of R363 for a port in LIT: LOCK of every wavelength with FAIL (`held`: the locks that hold), TRAIN of every
one that LANE names and that has LOCK (`eye`, by lane), MAP where it is accepted, ENABLE where the peer is the expected one;
with RES. A port in another state stays there (log 60). -/
def Port.bringUp (p : Port) (held : List Bool) (eye : List (BitVec 32)) (peer expected : BitVec 16) : Port × Nat :=
  if p.st != stLit then (p, 2)
  else
    let p := (tab 9 id).foldl (fun (p : Port) w =>
      if wlFail (p.wl w) then (p.setWl w (p.wl w % 2)).finish 2 w (held.getD w false) 0 0 0 else p) p
    let p := ((laneWls p.lmap).mapIdx fun i w => (i, w)).foldl (fun (p : Port) e =>
      let v := (eye.getD e.1 0)
      if e.2 ≤ 8 && wlLock (p.wl e.2) then
        (p.setWl e.2 (p.wl e.2 % 4)).finish 3 e.2 true (v.extractLsb' 16 16) (v.extractLsb' 0 16) 0 else p) p
    if !p.mapOk then (p, 2)
    else
      let p := p.finish 4 0 true 0 0 peer
      if peer = expected then (p.finish 5 0 true 0 0 0, 0) else (p, 1)

/-- TOPOLOGY_GO (R364): GO has reached 1; each entry in its order is locked, trained, mapped and enabled; a failing port stays
where it stopped. `held` and `ends` are what the optics of each entry answer. -/
def execTopologyGo (held : List (List Bool)) (ends : List FarEnd) (s : State) : Host.Outcome State Fault Refusal :=
  match s.topo with
  | [] => notEnabled "TOPOLOGY_GO"
  | c :: l =>
    if !c.started || !s.topoGo c || s.resWaits c then notEnabled "TOPOLOGY_GO"
    else
      let up (s : State) (j : Nat) (e : Nat × BitVec 16) : Port × Nat :=
        (s.port e.1).bringUp (held.getD j []) (ends.getD j ⟨[], 0⟩).eyes (ends.getD j ⟨[], 0⟩).peer e.2
      let r := ((topoEntries c.body).mapIdx fun j e => (j, e)).foldl (fun (r : State × List Nat) e =>
        let (p, res) := up r.1 e.1 e.2
        (r.1.setPort e.2.1 p, r.2 ++ [res])) (s, [])
      .next ((r.1.endTopo c l r.2).setHvIp 5).injectAll

/-- TOPOLOGY_GO_EXPIRED (R364, R128): GDL passes; every port stays in LIT. -/
def execTopologyGoExpired (s : State) : Host.Outcome State Fault Refusal :=
  match s.topo with
  | [] => notEnabled "TOPOLOGY_GO_EXPIRED"
  | c :: l =>
    if !c.started || s.topoGo c || s.resWaits c || s.wall % Config.tick ≠ 0 ||
        s.wall / Config.tick - c.since / Config.tick < dlTicks (BitVec.ofNat 16 (numAt c.body 16 2)) then
      notEnabled "TOPOLOGY_GO_EXPIRED"
    else .next (s.endTopo c l ((topoEntries c.body).map fun _ => 3))

end Sys2Proof.Machine
end

