-- ==== Sys2Proof/Machine/Partition.lean ====
section
/-!
DEFINITION. Partitions and their commands (R325 to R330).
-/

namespace Sys2Proof.Machine

/-! ## Descriptors (R325) -/

def descId (d : BitVec 512) : Nat := fld d.toNat 0 4
def descRings (d : BitVec 512) : BitVec 64 := bv d.toNat 448 64
def descPorts (d : BitVec 512) : BitVec 16 := bv d.toNat 432 16
def descVfs (d : BitVec 512) : BitVec 96 := bv d.toNat 336 96

/-- Ranges of frames with a count other than 0: base and count. -/
def descNear (d : BitVec 512) : List (Nat × Nat) :=
  (tab 4 fun i => (fld d.toNat (256 + 20 * i) 10, fld d.toNat (266 + 20 * i) 10)).filter fun r => r.2 != 0
def descFar (d : BitVec 512) : List (Nat × Nat) :=
  (tab 2 fun i => (fld d.toNat (202 + 27 * i) 13, fld d.toNat (215 + 27 * i) 14)).filter fun r => r.2 != 0

/-- The ID and the reserved bits of a descriptor break R325. -/
def descIdBad (d : BitVec 512) : Bool := 11 < descId d || fld d.toNat 4 198 != 0

/-- A field breaks R325: an ID above 11, reserved bits, or a frame that is not installed. -/
def descBad (d : BitVec 512) : Bool :=
  let gone (far : Bool) (r : Nat × Nat) : Bool := (tab r.2 fun i => r.1 + i).any fun f => !frameInstalled far f
  descIdBad d || (descNear d).any (gone false) || (descFar d).any (gone true)

/-- The partition that a descriptor makes. -/
def Part.ofDesc (d : BitVec 512) : Part :=
  { exist := true, rings := descRings d, ports := descPorts d, vfs := descVfs d, near := descNear d, far := descFar d,
    desc := d }

/-- Two ranges of frames meet. -/
def rangesMeet (a b : List (Nat × Nat)) : Bool := a.any fun x => b.any fun y => x.1 < y.1 + y.2 && y.1 < x.1 + x.2

/-- Two partitions share a resource. -/
def Part.meets (a b : Part) : Bool :=
  a.exist && b.exist && ((a.rings &&& b.rings) != 0 || (a.ports &&& b.ports) != 0 || (a.vfs &&& b.vfs) != 0 ||
    rangesMeet a.near b.near || rangesMeet a.far b.far)

/-- The descriptor at a physical address. -/
def State.descAt (s : State) (a : Nat) : BitVec 512 := BitVec.ofNat 512 (s.latest.num a 64)

/-! ## Outcomes (R326) -/

/-- A command completes: ST 2, RES, and PTC. -/
def State.ptDone (s : State) (res : Nat) : State :=
  { s with ptSt := 2, ptRes := BitVec.ofNat 4 res, ptCmd := none }.setHvIp 9

/-- A command begins, or is lost while another is pending. A descriptor's address must be a multiple of 64 (R325). -/
def State.ptBegin (s : State) (addr : BitVec 52) (c : State → Nat ⊕ PtCmd) : State :=
  if s.ptSt = 1 then { s with ptLost := true }
  else if addr.toNat % 64 ≠ 0 then s.ptDone 2
  else match c s with
  | .inl res => s.ptDone res
  | .inr c => { s with ptSt := 1, ptCmd := some c }

/-- A task of the partition holds cores (ST 1, 2, 3, 4 or 6), loading ones among them. -/
def Troupe.holdsCores (tr : Troupe) : Bool := tr.live && !tr.cores.isEmpty

/-- INVALID as CREATE, or CONFLICT with another partition than its own. -/
def State.descRefused (s : State) (d : BitVec 512) (own : Bool) : Option Nat :=
  let i := descId d
  if descBad d || (!own && (s.part i).exist) || (own && !(s.part i).exist) then some 2
  else if (tab 12 id).any fun j => j != i && (Part.ofDesc d).meets (s.part j) then some 3
  else none

def execCreate (addr : BitVec 52) (s : State) : Host.Outcome State Fault Refusal :=
  let d := s.descAt addr.toNat
  .next (s.ptBegin addr fun s => match s.descRefused d false with
    | some r => .inl r
    | none => .inr { op := 1, id := descId d, descs := [d] })

def execResize (addr : BitVec 52) (s : State) : Host.Outcome State Fault Refusal :=
  let d := s.descAt addr.toNat
  .next (s.ptBegin addr fun s => match s.descRefused d true with
    | some r => .inl r
    | none => .inr { op := 2, id := descId d, descs := [d] })

/-- REMOVE takes the descriptor's RINGS out of partition ID. -/
def execRemove (addr : BitVec 52) (s : State) : Host.Outcome State Fault Refusal :=
  let d := s.descAt addr.toNat
  .next (s.ptBegin addr fun s =>
    if descIdBad d || (descRings d &&& ~~~ (s.part (descId d)).rings) ≠ 0 then .inl 2
    else .inr { op := 3, id := descId d, descs := [d] })

def execDestroy (addr : BitVec 52) (force : Bool) (s : State) : Host.Outcome State Fault Refusal :=
  let d := s.descAt addr.toNat
  let i := descId d
  .next (s.ptBegin addr fun s =>
    if descIdBad d || !(s.part i).exist then .inl 2
    else if !force && s.troupes.any fun tr => tr.part == i && tr.holdsCores then .inl 1
    else .inr { op := 4, id := i, descs := [] })

/-- MODE's twelve descriptors as they stand in memory, in any order. -/
def State.modeDescs (s : State) (addr : Nat) : List (BitVec 512) := tab 12 fun i => s.descAt (addr + 64 * i)

/-- A descriptor that names nothing stands for an absent partition, as 64 zero bytes do in R392 (log 36). -/
def descEmpty (d : BitVec 512) : Bool := d.toNat / 2 ^ 4 == 0

/-- MODE's descriptors by ID; 0 of an ID that is absent. -/
def modeById (ds : List (BitVec 512)) : List (BitVec 512) :=
  tab 12 fun i => (ds.find? fun d => !descEmpty d && descId d == i).getD 0

/-- Two of MODE's descriptors make one partition. -/
def modeTwice (ds : List (BitVec 512)) : Bool :=
  (tab 12 id).any fun i => 2 ≤ (ds.filter fun d => !descEmpty d && descId d == i).length

/-- The partition after MODE. -/
def modePart (d : BitVec 512) : Part := if descEmpty d then Part.none else Part.ofDesc d

/-- MODE (R326): INVALID where a descriptor would be so for CREATE, two name one ID or share a resource. -/
def execMode (addr : BitVec 52) (force : Bool) (s : State) : Host.Outcome State Fault Refusal :=
  let raw := s.modeDescs addr.toNat
  let ds := modeById raw
  .next (s.ptBegin addr fun s =>
    let ps := ds.map modePart
    let changed (i : Nat) : Bool := ds.getD i 0 != (s.part i).desc
    let shared := (tab 12 id).any fun i => (tab i id).any fun j => (ps.getD i Part.none).meets (ps.getD j Part.none)
    if raw.any descBad || modeTwice raw || shared then .inl 2
    else if !force && s.troupes.any fun tr => changed tr.part && tr.holdsCores then .inl 1
    else .inr { op := 5, id := 0, descs := ds })

/-! ## The change (R327, R329) -/

/-- The command affects a task: its rings go, its VF goes, or its partition changes. -/
def State.affects (s : State) (c : PtCmd) (tr : Troupe) : Bool :=
  let d := c.descs.headD 0
  let onRing (rings : BitVec 64) : Bool := tr.cores.any fun k => rings.getLsbD (8 * k.die + k.loc / 4)
  match c.op with
  | 1 => false
  | 2 => tr.part == c.id && (onRing ((s.part c.id).rings &&& ~~~ (descRings d)) || !(descVfs d).getLsbD tr.vf)
  | 3 => tr.part == c.id && onRing (descRings d)
  | 4 => tr.part == c.id
  | _ => c.descs.getD tr.part 0 != (s.part tr.part).desc

/-- The requests of a pending command (R327 step 2): cause 0x44 of REMOVE, else 0x43, to each affected bound troupe, and
later to one that becomes bound; a pre-emption under way answers the request. -/
def State.ptRequests (s : State) : State :=
  match s.ptCmd with
  | none => s
  | some c =>
    let b : BitVec 5 := if c.op = 3 then 0x10 else 0x08
    { s with ptCmd := some { c with asked := true },
             troupes := s.troupes.map fun tr =>
               if tr.holdsCores && tr.st != .retiring && !(c.asked && tr.inRoutine) && tr.prq &&& b != b && s.affects c tr then
                 tr.request b else tr }

/-- The twelve partitions after a command. -/
def State.partsAfter (s : State) (c : PtCmd) : Vector Part 12 :=
  let d := c.descs.headD 0
  match c.op with
  | 1 | 2 => vset s.parts c.id (Part.ofDesc d)
  | 3 =>
    let p := s.part c.id
    let rings := p.rings &&& ~~~ (descRings d)
    vset s.parts c.id { p with rings := rings, desc := BitVec.ofNat 512 (p.desc.toNat % 2 ^ 448 + rings.toNat * 2 ^ 448) }
  | 4 => vset s.parts c.id Part.none
  | _ => gen 12 fun i => if c.descs.getD i 0 = (s.part i).desc then s.part i else modePart (c.descs.getD i 0)

/-- A VF leaves its partition (R327): its pre-empted tasks and held heads end with 0x000A, its counters are
freed, which orphans the waits on them (R405). -/
def State.dropVf (s : State) (v : Nat) : State :=
  let p := (s.vf v).part.toNat
  let s := (tab s.troupes.length id).foldl (fun s t => match s.troupe? t with
    | some tr => if tr.vf = v && tr.st == .preempted then s.endPreempted t 0x000A else s
    | none => s) s
  let held := (s.vf v).queues.filterMap fun q => q.held.map (·.1)
  let s := held.foldl (fun s l => s.failLaunch p v l 0x000A) s
  (s.modVf v fun x =>
    { x with part := 0xF, queues := x.queues.map fun q => { q with held := none, resume := [] }.settleHead s.wall }).freeCtrs
      fun c => c.vf == v && c.task.isNone

/-- PARTITION_CHANGE_APPLIED (R327 step 3, R329): once no affected troupe is bound, in one wall cycle. -/
def execPartitionChangeApplied (s : State) : Host.Outcome State Fault Refusal :=
  match s.ptCmd with
  | none => notEnabled "PARTITION_CHANGE_APPLIED"
  | some c =>
    if s.troupes.any fun tr => tr.holdsCores && s.affects c tr then notEnabled "PARTITION_CHANGE_APPLIED"
    else
      let ps := s.partsAfter c
      let owner (v : Nat) : BitVec 4 :=
        match (tab 12 id).find? fun i => (vget Part.none ps i).exist && (vget Part.none ps i).vfs.getLsbD v with
        | some i => BitVec.ofNat 4 i
        | none => 0xF
      let changed := (tab 12 id).filter fun i => vget Part.none ps i != s.part i
      let leaves (v : Nat) : Bool := (s.vf v).part != 0xF && owner v != (s.vf v).part
      let s := ((tab 96 id).filter leaves).foldl (fun s v => s.dropVf v) s
      let lost := (tab 16 id).filter fun q => (tab 12 id).any fun i =>
        (s.part i).ports.getLsbD q && !(vget Part.none ps i).ports.getLsbD q
      let s : State := { s with trigs := s.trigs.filter fun t => !lost.any fun q => t.ports.getLsbD q, parts := ps }
      let s := (tab 96 id).foldl (fun s v => s.modVf v fun x => { x with part := owner v }) s
      let misfit (tr : Troupe) : Bool :=
        tr.st == .preempted && changed.contains tr.part && !s.shapeFits tr.part tr.image.shape tr.image.m
      let s := (tab s.troupes.length id).foldl (fun s t => match s.troupe? t with
        | some tr => if misfit tr then s.endPreempted t 0x0006 else s
        | none => s) s
      .next (s.ptDone 0)

/-- PT_RES (R326). -/
def State.ptResValue (s : State) : BitVec 64 :=
  BitVec.ofNat 64 (s.ptRes.toNat + bit s.ptLost * 2 ^ 61 + s.ptSt.toNat * 2 ^ 62)

/-- PT_RES_READ (R326): the value goes to s[d] at issue+1, and ST 2 becomes 0. -/
def execPtResRead (m : Nat) (d : BitVec 6) (s : State) : Host.Outcome State Fault Refusal :=
  if 2 ≤ m then notEnabled "PT_RES_READ"
  else
    let x := s.mg m
    let p : Pend := { due := x.adv + 1, iss := x.adv, word := 2, baddr := x.core.pc, act := .wS d s.ptResValue, flags := 0,
                      rtn := none }
    .next { s.modCore (.mgmt m) (fun c => { c with pend := c.pend ++ [p] }) with ptSt := if s.ptSt = 2 then 0 else s.ptSt }

end Sys2Proof.Machine
end

