-- ==== Sys2Proof/Machine/Mgmt.lean ====
section
/-!
DEFINITION. The system registers, the privileged words, and the management core's cycle: interrupts, entry and return
(R139, R262 to R273, R300, R308, R340, R343, R354, R361, R366, R369, R372, R376 to R380, R384, R385, R397, R403).
-/

namespace Sys2Proof.Machine

/-! ## The register space (R265) -/

/-- The CODEs that a table of the spec lists. -/
def sysListed : List Nat :=
  [0x4000, 0x4001, 0x4002, 0x4003, 0x4004, 0x4005, 0x4008, 0x4009, 0x4010, 0x4011, 0x4012, 0x4013, 0x4014, 0x4020,
   0x4021, 0x4022, 0x4023, 0x4030, 0x4050, 0x4051, 0x4052, 0x4060, 0x4061, 0x4062, 0x4063, 0x4064, 0x4070, 0x4071,
   0x4072, 0x40A0, 0x40A1, 0x40A2, 0x40A8, 0x40A9, 0x40AA, 0x40AB, 0x40AC, 0x40B0, 0x40B1] ++
  [0x8001, 0x8002, 0x8003, 0x8004, 0x8010, 0x8040, 0x8041, 0x8042, 0x8043, 0x8044, 0x8045, 0x8046, 0x8047, 0x8048,
   0x8049, 0x804A, 0x804C, 0x804D, 0x8050, 0x8051, 0x8058, 0x8059, 0x805A, 0x805B, 0x805C, 0x8060, 0x8070, 0x8071,
   0x8072, 0x8073, 0x8074, 0x8078, 0x8079] ++
  [0x8080, 0x8081, 0x8082, 0x8083, 0x8084, 0x8085, 0x8086, 0x8087, 0x8090, 0x8091, 0x80A0, 0x80A1, 0x80A2, 0x80B0,
   0x80B1, 0x80B2, 0x80B3, 0x80B4]

/-- The fault of an access to a CODE from a level, if any: not listed, or above the level (R139, R265). -/
def sysFault (code : Nat) (lvl : BitVec 2) : Option Exc :=
  if !sysListed.contains code then some illegalOperand
  else if lvl.toNat < code / 2 ^ 14 then some privilege
  else none

/-- The position of the live troupe of the current partition that TSEL names (R269). -/
def State.selTroupe (s : State) (p : Nat) : Option Nat :=
  (s.byNumber (fld (s.bank p).tsel.toNat 0 16)).bind fun t =>
    if ((s.troupe? t).map fun tr => tr.part == p).getD false then some t else none

/-- The position, in its troupe, of the core that TSEL.RANK names. -/
def Troupe.rankAt (tr : Troupe) (rank : Nat) : Option Nat := tr.cores.findIdx? fun c => c.rank == rank

/-- ST of TRP_STAT (R270). -/
def TSt.code : TSt → Nat
  | .unbound => 0
  | .running => 1
  | .held => 2
  | .suspended => 3
  | .saving => 4
  | .preempted => 5
  | .restoring => 6
  | .retiring => 7

/-- TRP_STAT (R270). -/
def Troupe.statWord (tr : Troupe) : BitVec 64 :=
  BitVec.ofNat 64 (bit tr.unal + 2 * bit tr.cref + tr.st.code * 2 ^ 16 + min tr.recs.length 255 * 2 ^ 24 +
    tr.prq.toNat * 2 ^ 32)

/-- TSEL with TVAL (R269). -/
def State.tselWord (s : State) (p : Nat) : BitVec 64 :=
  BitVec.ofNat 64 ((s.bank p).tsel.toNat + bit (s.selTroupe p).isSome * 2 ^ 31)

/-- EN_STAT (R300). -/
def State.enStat (s : State) (v : Nat) : BitVec 64 :=
  let x := s.vf v
  let act := x.reserved != 0 || !x.doneRes.isEmpty || s.troupes.any fun tr => tr.live && tr.vf == v && tr.reserved != 0
  BitVec.ofNat 64 (bit x.exh + 2 * bit x.low + 4 * bit x.stopd + 8 * bit act)

/-- FB_STAT (R354). -/
def State.fbStat (s : State) : BitVec 64 :=
  BitVec.ofNat 64 (s.live.toNat + bit s.qs.isSome * 2 ^ 4 + bit s.fbCref * 2 ^ 5 + s.planeFail.toNat * 2 ^ 8 +
    s.oldDies * 2 ^ 12 + s.nreh.toNat * 2 ^ 32)

/-- 32 entries of the plane map, from entry b on (R354). -/
def State.pmapWord (s : State) (b : Nat) : BitVec 64 :=
  BitVec.ofNat 64 ((tab 32 fun i => (vget 0 s.pmap (b + i)).toNat * 4 ^ i).sum)

/-- OP_STAT (R361). -/
def Port.statWord (p : Port) : BitVec 64 :=
  BitVec.ofNat 64 (p.st.toNat + bit p.cerr * 2 ^ 7 + bit p.busy.isSome * 2 ^ 8 + bit p.los * 2 ^ 9 + p.peer.toNat * 2 ^ 48)

/-- SE_RDIR (R372). -/
def State.rdirWord (s : State) : BitVec 64 :=
  BitVec.ofNat 64 ((tab 10 fun d => (vget 0 s.dir d).toNat * 16 ^ d).sum + bit s.move.isSome * 2 ^ 40 + bit s.seCref * 2 ^ 41)

/-- RT_STAT (R366): the ports of the partition. -/
def State.rtStat (s : State) (p : Nat) : BitVec 64 :=
  let own (q : Nat) : Bool := (s.part p).ports.getLsbD q
  let act := (tab 16 fun q => bit (own q && (s.port q).act) * 2 ^ q).sum
  let trig := (tab 16 fun q => bit (own q && s.trigs.any fun t => t.ports.getLsbD q) * 2 ^ q).sum
  BitVec.ofNat 64 (act + trig * 2 ^ 16 + bit (s.bank p).rtCref * 2 ^ 32)

/-- PW_STAT, PW_GATE1 (R397). -/
def State.pwStat (s : State) : BitVec 64 :=
  BitVec.ofNat 64 ((tab 10 fun d => (vget 0 s.vi d).toNat * 4 ^ d).sum + s.fi.toNat * 2 ^ 32 + bit s.clmp * 2 ^ 34 +
    bit s.trip * 2 ^ 35)
def State.pwGate1 (s : State) : BitVec 64 :=
  BitVec.ofNat 64 (s.gateStk.toNat + s.gatePort.toNat * 2 ^ 8 + bit s.gateFt1 * 2 ^ 25 + s.gateNear.toNat * 2 ^ 26)

/-- The die and the kind that DB_ESEL names (R384). -/
def State.eselKey (s : State) : Nat × Nat := (fld s.dbEsel.toNat 8 4, fld s.dbEsel.toNat 0 4)

/-- The value of a supervisor-level register (CODE below 0x8000) in the current partition's bank. -/
def State.svRead (s : State) (m code : Nat) : BitVec 64 :=
  let x := s.mg m
  let p := x.part.toNat
  let b := s.bank p
  let troupe (f : Troupe → BitVec 64) : BitVec 64 := (((s.selTroupe p).bind s.troupe?).map f).getD 0
  match code with
  | 0x4000 => BitVec.ofNat 64 (x.lvl.toNat + bit x.ien * 2 ^ 3 + bit x.sexl * 2 ^ 4 + bit x.hexl * 2 ^ 5)
  | 0x4001 => b.mcEpc
  | 0x4002 => b.mcEcause
  | 0x4003 => b.mcEaddr
  | 0x4004 => b.mcEvec
  | 0x4005 => b.xasid
  | 0x4008 => (s.mcIp m).zeroExtend 64
  | 0x4009 => (s.mcIe m).zeroExtend 64
  | 0x4010 => s.tselWord p
  | 0x4011 => troupe Troupe.statWord
  | 0x4013 => troupe fun tr => tr.limit.zeroExtend 64
  | 0x4014 => troupe fun tr => ((tr.rankAt (fld b.tsel.toNat 16 8)).bind fun r => tr.cores[r]?.map (·.reply)).getD 0
  | 0x4020 => b.frqBase
  | 0x4021 => b.frqLsz.zeroExtend 64
  | 0x4022 => b.frqHead.zeroExtend 64
  | 0x4023 => b.frqTail.zeroExtend 64
  | 0x4030 => b.ctCtl
  | 0x4050 => b.invVa
  | 0x4052 => BitVec.ofNat 64 (bit b.invBsy + 2 * bit b.invErr)
  | 0x4060 => b.mgCq
  | 0x4061 => b.mgCHead ++ b.mgCTail
  | 0x4062 => b.mgHq
  | 0x4063 => b.mgHHead ++ b.mgHTail
  | 0x4064 => b.mgDrop.zeroExtend 64
  | 0x4070 => b.rtSel
  | 0x4071 =>
    let q := rtPort b.rtSel
    if !(s.part p).ports.getLsbD q then 0
    else getRoute (if rtBank b.rtSel then (s.port q).rtB else (s.port q).rtA) (rtIdx b.rtSel)
  | 0x4072 => s.rtStat p
  | 0x40A0 => b.dbTrb
  | 0x40A1 => BitVec.ofNat 64 (b.dbLsz.toNat + b.dbEn.toNat * 2 ^ 8 + b.dbSper.toNat * 2 ^ 16 + b.dbDrop.toNat * 2 ^ 32)
  | 0x40A2 => b.dbHead ++ b.dbTail
  | 0x40A8 => troupe fun tr => vget 0 tr.bp 0
  | 0x40A9 => troupe fun tr => vget 0 tr.bp 1
  | 0x40AA => troupe fun tr => vget 0 tr.bp 2
  | 0x40AB => troupe fun tr => vget 0 tr.bp 3
  | 0x40AC => troupe fun tr => tr.dbStep.zeroExtend 64
  | 0x40B0 => b.dbProf
  | 0x40B1 => b.dbNtf
  | _ => 0

/-- The value of a hypervisor-level register. -/
def State.hvRead (s : State) (m code : Nat) : BitVec 64 :=
  let x := s.mg m
  let e := s.vf s.enVfSel.toNat
  let v := s.vf s.vfSel.toNat
  let q := s.port (fld s.opSel.toNat 0 4)
  match code with
  | 0x8001 => x.hvEpc
  | 0x8002 => x.hvEcause
  | 0x8003 => x.hvEaddr
  | 0x8004 => x.hvEvec
  | 0x8010 => x.part.zeroExtend 64
  | 0x8040 => s.enVfSel.zeroExtend 64
  | 0x8041 => e.q.zeroExtend 64
  | 0x8042 => e.used
  | 0x8043 => e.loww.zeroExtend 64
  | 0x8044 => e.lctr.zeroExtend 64
  | 0x8045 => s.enStat s.enVfSel.toNat
  | 0x8046 => e.ovd.zeroExtend 64
  | 0x8047 => BitVec.ofNat 64 (bit e.qen + 2 * bit e.len)
  | 0x8048 => (s.bank x.part.toNat).grace.zeroExtend 64
  | 0x8049 => s.nset
  | 0x804A => s.unatt
  | 0x804C => s.enCsel.zeroExtend 64
  | 0x804D => BitVec.ofNat 64 (s.cost (fld s.enCsel.toNat 8 4) (fld s.enCsel.toNat 0 8) % 2 ^ 32)
  | 0x8051 => s.ptResValue
  | 0x8058 => s.vfSel.zeroExtend 64
  | 0x8059 => BitVec.ofNat 64 (v.asid.toNat + v.job.toNat * 2 ^ 32 + v.part.toNat * 2 ^ 48 + bit v.en * 2 ^ 63)
  | 0x805A => v.lqt.zeroExtend 64
  | 0x805B => BitVec.ofNat 64 (v.nslot.toNat + fld v.ctx.toNat 16 41 * 2 ^ 16)
  | 0x805C => v.sav.zeroExtend 64
  | 0x8060 => s.atBase
  | 0x8070 => s.fbStat
  | 0x8071 => s.pmapWord 0
  | 0x8072 => s.pmapWord 32
  | 0x8073 => s.qtmo ++ s.tmo
  | 0x8078 => s.hpLnk.zeroExtend 64
  | 0x8079 => s.hpCfg.zeroExtend 64
  | 0x8080 => s.opSel.zeroExtend 64
  | 0x8082 => q.statWord
  | 0x8083 => q.lmap.zeroExtend 64
  | 0x8084 => q.wst.zeroExtend 64
  | 0x8085 => (vget 0 q.eye (fld s.opSel.toNat 8 4)).zeroExtend 64
  | 0x8086 => q.dig
  | 0x8087 => q.dcnt
  | 0x8091 => s.rdirWord
  | 0x80A0 => (s.bank x.part.toNat).dbGrant.zeroExtend 64
  | 0x80A1 => s.dbEsel.zeroExtend 64
  | 0x80A2 =>
    let e := s.errCount s.eselKey.1 s.eselKey.2
    e.1 ++ e.2
  | 0x80B0 => BitVec.ofNat 64 (bit s.released + s.kslot.toNat * 2 ^ 40)
  | 0x80B1 => s.pwStat
  | 0x80B2 => s.gateRing
  | 0x80B3 => s.pwGate1
  | 0x80B4 => s.mbStatus.zeroExtend 64
  | _ => 0

/-- A register's value; a register that only takes commands reads as 0. -/
def State.sysRead (s : State) (m code : Nat) : BitVec 64 := if code < 0x8000 then s.svRead m code else s.hvRead m code

/-! ## Writes without a behaviour of their own (R265) -/

/-- A field of v at [lo + n − 1 : lo], in place. -/
def keepField (v : BitVec 64) (lo n : Nat) : BitVec 64 := BitVec.ofNat 64 (fld v.toNat lo n * 2 ^ lo)

/-- A breakpoint register's written value, if the write is not ignored (R376). -/
def bpWrite (v : BitVec 64) : Option (BitVec 64) :=
  if fld v.toNat 32 3 < 2 || fld v.toNat 0 6 ≠ 0 then none
  else some (keepField v 63 1 ||| keepField v 48 8 ||| keepField v 32 3 ||| keepField v 0 28)

/-- The write of a supervisor-level register by management core m at level `lvl`. -/
def State.svWrite (s : State) (m code : Nat) (v : BitVec 64) (lvl : BitVec 2) : State :=
  let x := s.mg m
  let p := x.part.toNat
  let n := v.toNat
  let b := s.bank p
  let hv := lvl == 2
  let bank (f : Bank → Bank) : State := s.modBank p f
  let troupe (f : Troupe → Troupe) : State := match s.selTroupe p with
    | some t => s.modTroupe t f
    | none => s
  match code with
  | 0x4000 => s.setMg m { x with ien := v[3], sexl := v[4], hexl := if hv then v[5] else x.hexl }
  | 0x4001 => bank fun b => { b with mcEpc := v }
  | 0x4002 => bank fun b => { b with mcEcause := keepField v 0 21 ||| keepField v 24 11 }
  | 0x4003 => bank fun b => { b with mcEaddr := v }
  | 0x4004 => if n % 64 ≠ 0 then s else bank fun b => { b with mcEvec := v }
  | 0x4005 => bank fun b =>
      let asid := if !hv && s.asidPart (fld n 0 14) ≠ p then keepField b.xasid 0 14 else keepField v 0 14
      { b with xasid := (if hv then keepField v 63 1 else keepField b.xasid 63 1) ||| asid }
  | 0x4008 =>
    let s := bank fun b => { b with ip := b.ip &&& ~~~ (v.truncate 8 &&& 0x4F) }
    if hv then s.setMg m { s.mg m with ipHv := (s.mg m).ipHv &&& ~~~ (v.truncate 10 &&& 0x330) } else s
  | 0x4009 =>
    let s := bank fun b => { b with ie := v.truncate 8 &&& 0x4F }
    if hv then s.setMg m { s.mg m with ieHv := v.truncate 10 &&& 0x330 } else s
  | 0x4010 => bank fun b => { b with tsel := keepField v 0 24 }
  | 0x4012 => troupe fun tr => { tr with cref := true }
  | 0x4011 => if v[1] then s else troupe fun tr => { tr with cref := false }
  | 0x4013 => if fld n 0 32 = 0 && !hv then s else troupe fun tr => { tr with limit := v.truncate 32 }
  | 0x4014 => troupe fun tr => match tr.rankAt (fld b.tsel.toNat 16 8) with
      | some r => { tr with cores := tr.cores.modify r fun c => { c with reply := v } }
      | none => tr
  | 0x4020 => bank fun b => { b with frqBase := v }
  | 0x4021 => if fld n 0 5 < 4 || 16 < fld n 0 5 then s else bank fun b => { b with frqLsz := v.truncate 5 }
  | 0x4023 => bank fun b => { b with frqTail := v.truncate 32, frqStuck := false }
  | 0x4030 => s.ctCommand p v
  | 0x4050 => bank fun b => { b with invVa := keepField v 12 45 }
  | 0x4052 => if v[1] then s else bank fun b => { b with invErr := false }
  | 0x4060 => if b.mgCHead ≠ b.mgCTail then s else bank fun b => { b with mgCq := keepField v 12 45 ||| keepField v 0 4 }
  | 0x4061 =>
    let t : BitVec 32 := v.truncate 32
    if 2 ^ fld b.mgCq.toNat 0 4 < (t - b.mgCHead).toNat then s else bank fun b => { b with mgCTail := t }
  | 0x4062 => if b.mgHHead ≠ b.mgHTail then s else bank fun b => { b with mgHq := keepField v 12 45 ||| keepField v 0 4 }
  | 0x4063 => bank fun b => { b with mgHHead := bv n 32 32 }
  | 0x4064 => if fld n 0 32 = 0 then bank fun b => { b with mgDrop := 0 } else s
  | 0x4070 => bank fun b => { b with rtSel := keepField v 16 4 ||| keepField v 0 13 }
  | 0x4072 => if v[32] then s else bank fun b => { b with rtCref := false }
  | 0x40A0 => bank fun b => { b with dbTrb := keepField v 0 52 }
  | 0x40A1 => bank fun b =>
      let sp := fld n 16 5
      let lz := fld n 0 5
      { b with dbDrop := if fld n 32 32 = 0 then 0 else b.dbDrop, dbEn := bv n 8 6,
               dbSper := if sp = 0 || (10 ≤ sp && sp ≤ 24) then bv n 16 5 else b.dbSper,
               dbLsz := if 4 ≤ lz && lz ≤ 16 && b.dbHead == b.dbTail then bv n 0 5 else b.dbLsz }
  | 0x40A2 =>
    let t : BitVec 32 := v.truncate 32
    if (b.dbHead - b.dbTail).toNat < (t - b.dbTail).toNat then s else bank fun b => { b with dbTail := t }
  | 0x40A8 => match bpWrite v with
    | some w => troupe fun tr => { tr with bp := vset tr.bp 0 w }
    | none => s
  | 0x40A9 => match bpWrite v with
    | some w => troupe fun tr => { tr with bp := vset tr.bp 1 w }
    | none => s
  | 0x40AA => match bpWrite v with
    | some w => troupe fun tr => { tr with bp := vset tr.bp 2 w }
    | none => s
  | 0x40AB => match bpWrite v with
    | some w => troupe fun tr => { tr with bp := vset tr.bp 3 w }
    | none => s
  | 0x40AC => if fld n 0 2 = 3 then s else troupe fun tr => { tr with dbStep := v.truncate 2 }
  | 0x40B1 => bank fun b => { b with dbNtf := v }
  | _ => s

/-- A task of the VF is bound or pre-empted (R308). -/
def State.vfBusy (s : State) (v : Nat) : Bool := s.troupes.any fun tr => tr.live && tr.vf == v

/-- The write of a hypervisor-level register. -/
def State.hvWrite (s : State) (m code : Nat) (v : BitVec 64) : State :=
  let x := s.mg m
  let n := v.toNat
  let sel := s.vfSel.toNat
  let q := fld s.opSel.toNat 0 4
  let p := s.port q
  let setV (f : Vf → Vf) : State := if s.vfBusy sel then s else s.modVf sel f
  match code with
  | 0x8001 => s.setMg m { x with hvEpc := v }
  | 0x8002 => s.setMg m { x with hvEcause := keepField v 0 21 ||| keepField v 24 11 }
  | 0x8003 => s.setMg m { x with hvEaddr := v }
  | 0x8004 => if n % 64 ≠ 0 then s else s.setMg m { x with hvEvec := v }
  | 0x8040 => if 96 ≤ fld n 0 7 then s else { s with enVfSel := v.truncate 7 }
  | 0x8043 => s.modVf s.enVfSel.toNat fun e => { e with loww := v.truncate 48 }
  | 0x8044 => s.modVf s.enVfSel.toNat fun e => { e with lctr := v.truncate 32 }
  | 0x8045 => s.modVf s.enVfSel.toNat fun e => { e with low := e.low && v[1], stopd := e.stopd && v[2] }
  | 0x8046 => s.modVf s.enVfSel.toNat fun e => { e with ovd := v.truncate 48 }
  | 0x8048 => if 2 ^ 20 < fld n 0 21 then s else s.modBank x.part.toNat fun b => { b with grace := v.truncate 21 }
  | 0x804C => { s with enCsel := if 10 ≤ fld n 8 4 then bv (fld s.enCsel.toNat 8 4 * 2 ^ 8 + fld n 0 8) 0 12 else v.truncate 12 }
  | 0x8051 => if v[61] then s else { s with ptLost := false }
  | 0x8058 => if 96 ≤ fld n 0 7 then s else { s with vfSel := v.truncate 7 }
  | 0x8059 => s.modVf sel fun e => { e with en := v[63], job := bv n 32 16, asid := v.truncate 14 }
  | 0x805A => setV fun e => { e with lqt := bv (fld n 11 46 * 2 ^ 11) 0 57 }
  | 0x805B => setV fun e => { e with ctx := bv (fld n 16 41 * 2 ^ 16) 0 57, nslot := v.truncate 16 }
  | 0x805C => setV fun e => { e with sav := bv (fld n 25 32 * 2 ^ 25) 0 57 }
  | 0x8060 => { s with atBase := keepField v 17 35 }
  | 0x8070 => { s with planeFail := s.planeFail &&& bv n 8 4, fbCref := s.fbCref && v[5] }
  | 0x8073 => { s with qtmo := bv n 32 32, tmo := bv n 0 32 }
  | 0x8074 => s.refuseFb
  | 0x8079 =>
    if s.hpSet || fld n 0 2 = 3 then s else { s with hpCfg := v.truncate 2 }
  | 0x8080 =>
    let wl := if 9 ≤ fld n 8 4 then fld s.opSel.toNat 8 4 else fld n 8 4
    if p.busy.isSome then s else { s with opSel := bv (wl * 2 ^ 8 + fld n 0 4) 0 12 }
  | 0x8081 => s.portRefuse q
  | 0x8082 => s.setPort q { p with los := p.los && v[9], cerr := p.cerr && v[7] }
  | 0x8083 => if p.st == stActive || p.st == stDraining then s else s.setPort q { p with lmap := v.truncate 32 }
  | 0x8090 => { s with seCref := true }
  | 0x8091 => { s with seCref := s.seCref && v[41] }
  | 0x80A1 => if 10 ≤ fld n 8 4 then s else { s with dbEsel := bv (fld n 8 4 * 2 ^ 8 + fld n 0 4) 0 12 }
  | 0x80A2 =>
    let k := s.eselKey
    { s with errs := s.errs.map fun e => if e.1 = k then (e.1, (if fld n 32 32 = 0 then 0 else e.2.1, if fld n 0 32 = 0 then 0 else e.2.2)) else e }
  | _ => s

/-- A register write with its level; the registers that have steps of their own are left to them. -/
def State.sysWrite (s : State) (m code : Nat) (v : BitVec 64) (lvl : BitVec 2) : State :=
  if code < 0x8000 then s.svWrite m code v lvl else s.hvWrite m code v

/-- SYSTEM_REGISTER_WRITE (R265). -/
def execSystemRegisterWrite (m : Nat) (code : BitVec 16) (v : BitVec 64) (lvl : BitVec 2) (s : State) :
    Host.Outcome State Fault Refusal :=
  if 2 ≤ m || (sysFault code.toNat lvl).isSome then notEnabled "SYSTEM_REGISTER_WRITE"
  else .next (s.sysWrite m code.toNat v lvl)

/-- HV_PART_WRITE (R264). -/
def execHvPartWrite (m : Nat) (v : BitVec 64) (s : State) : Host.Outcome State Fault Refusal :=
  if 2 ≤ m then notEnabled "HV_PART_WRITE"
  else
    let x := s.mg m
    .next (if 12 ≤ fld v.toNat 0 4 || x.sexl then s else s.setMg m { x with part := v.truncate 4 })

/-! ## Profiling (R387) -/

/-- Every other partition hears of a change: a notice record, and a signal on its notice counter. -/
def State.notice (s : State) (p kind : Nat) : State :=
  ((tab 12 id).filter fun k => k != p).foldl (fun s k =>
    let b := s.bank k
    let s := if b.dbEn[5] then s.ringTrace k (traceRec s.wall 0 0 0 0xFFFF 0 6 none (kind * 2 ^ 60 + p)) else s
    if fld b.dbNtf.toNat 0 32 = 0 then s else s.signal (b.dbNtf.truncate 32) 1) s

/-- LCK and ISO of a partition become the given values. -/
def State.setProf (s : State) (p : Nat) (lck iso : Bool) : State :=
  let old := (s.bank p).dbProf
  let s := s.modBank p fun b =>
    { b with dbProf := BitVec.ofNat 64 (bit lck * 2 ^ 63 + bit iso * 2 ^ 62 + bit old[32] * 2 ^ 32) }
  let s := if old[63] == lck then s else s.notice p (if lck then 1 else 2)
  if old[62] == iso then s else s.notice p (if iso then 3 else 4)

/-- DB_PROF_WRITE (R387). -/
def execDbProfWrite (m : Nat) (v : BitVec 64) (s : State) : Host.Outcome State Fault Refusal :=
  if 2 ≤ m then notEnabled "DB_PROF_WRITE"
  else
    let p := (s.mg m).part.toNat
    let b := s.bank p
    let ref := (b.dbProf[32] && v[32]) || (v[63] && !b.dbGrant[0]) || (v[62] && !b.dbGrant[1])
    let s := s.setProf p (v[63] && b.dbGrant[0]) (v[62] && b.dbGrant[1])
    .next (s.modBank p fun b => { b with dbProf := keepField b.dbProf 62 2 ||| BitVec.ofNat 64 (bit ref * 2 ^ 32) })

/-- DB_GRANT_WRITE (R387): clearing a grant clears the matching bit of DB_PROF. -/
def execDbGrantWrite (m : Nat) (v : BitVec 64) (s : State) : Host.Outcome State Fault Refusal :=
  if 2 ≤ m then notEnabled "DB_GRANT_WRITE"
  else
    let p := (s.mg m).part.toNat
    let s := s.modBank p fun b => { b with dbGrant := v.truncate 2 }
    let b := s.bank p
    .next (s.setProf p (b.dbProf[63] && v[0]) (b.dbProf[62] && v[1]))

/-! ## The privileged words (R139) -/

/-- A word that only a management core may run (R98, R139). -/
def mgmtWord (pd : Pd) (s : State) (f : Iss → Nat → State ⊕ Exc) : Host.Outcome State Fault Refusal :=
  pkgWord pd s fun x => match x.ag with
    | .core _ _ => .inr privilege
    | .mgmt m => f x m

/-- SPRD: the value in the issue cycle reaches s[d] at issue+1; a read of PT_RES while ST = 2 sets ST to 0 (R326). -/
def execSprd (pd : Pd) (d : SReg) (code : BitVec 16) (s : State) : Host.Outcome State Fault Refusal :=
  mgmtWord pd s fun x m =>
    match sysFault code.toNat (s.mg m).lvl with
    | some e => .inr e
    | none =>
      let s' : State := if code = 0x8051 && s.ptSt == 2 then { s with ptSt := 0 } else s
      .inl (s'.did x (x.core.sched x 1 (.wS d (s.sysRead m code.toNat))))

/-- SPWR: the write performs at issue+1. -/
def execSpwr (pd : Pd) (code : BitVec 16) (a : SReg) (s : State) : Host.Outcome State Fault Refusal :=
  mgmtWord pd s fun x m =>
    match sysFault code.toNat (s.mg m).lvl with
    | some e => .inr e
    | none => .inl (s.did x (x.core.sched x 1 (.sys code (x.core.rs a) (s.mg m).lvl)))

/-- The registers of the current level's handler: EPC and ECAUSE. -/
def State.handlerRegs (s : State) (m : Nat) : BitVec 64 × BitVec 64 :=
  let x := s.mg m
  let b := s.bank x.part.toNat
  if x.lvl == 2 then (x.hvEpc, x.hvEcause) else (b.mcEpc, b.mcEcause)

/-- ERET (R273): the level's EXL bit clears; after two delay bundles issue goes on at EPC. -/
def execEret (pd : Pd) (s : State) : Host.Outcome State Fault Refusal :=
  mgmtWord pd s fun x m =>
    let (epc, ec) := s.handlerRegs m
    let plvl := fld ec.toNat 16 2
    if plvl = 0 || plvl = 3 then .inr illegalOperand
    else match s.transferFault x epc.toNat with
      | some e => .inr e
      | none =>
        let y := s.mg m
        let s' := s.setMg m (if y.lvl == 2 then { y with hexl := false } else { y with sexl := false })
        .inl (s'.did x { x.core with xfer := some (3, epc.toNat), eret := some (keepField ec 0 35 ||| BitVec.ofNat 64 (y.lvl.toNat * 2 ^ 40)) })

/-- HALT (R273). -/
def execHalt (pd : Pd) (s : State) : Host.Outcome State Fault Refusal :=
  mgmtWord pd s fun x m => .inl ((s.setMg m { s.mg m with halted := true }).did x x.core)

/-! ## The management core's cycle (R272, R273, R403) -/

/-- An enabled interrupt is pending (R273). -/
def State.wakes (s : State) (m : Nat) : Bool := s.mcIp m &&& s.mcIe m != 0

/-- The interrupt that would be taken: its bit, and whether it goes to the hypervisor (R272). -/
def State.interrupt (s : State) (m : Nat) : Option (Nat × Bool) :=
  let x := s.mg m
  let on := s.mcIp m &&& s.mcIe m
  let first (l : List Nat) : Option Nat := l.find? fun i => on.getLsbD i
  if !x.ien then none
  else match (if x.hexl then none else first [4, 5, 8, 9]) with
    | some i => some (i, true)
    | none => (if x.sexl then none else first [0, 1, 2, 3, 6]).map fun i => (i, false)

/-- The management core stands between bundles. -/
def State.betweenBundles (s : State) (m : Nat) : Bool :=
  let x := s.mg m
  s.cursor == .mword m 1 && x.run && !x.dead && x.stall ≤ s.wall && x.core.done == 0 && x.core.raised.isEmpty

/-- INTERRUPT_TAKEN (R272). -/
def execInterruptTaken (m : Nat) (s : State) : Host.Outcome State Fault Refusal :=
  if 2 ≤ m || !s.betweenBundles m then notEnabled "INTERRUPT_TAKEN"
  else match s.interrupt m with
    | none => notEnabled "INTERRUPT_TAKEN"
    | some (i, hyp) =>
      let x := s.mg m
      .next { s.enter m hyp x.core.pc (ecause i 0 x.lvl.toNat false x.ien true 0 0) 0 with cursor := .afterMgmt m }

/-- HALT_WAKE (R273). -/
def execHaltWake (m : Nat) (s : State) : Host.Outcome State Fault Refusal :=
  if 2 ≤ m || !s.betweenBundles m || !(s.mg m).halted || !s.wakes m then notEnabled "HALT_WAKE"
  else .next (s.setMg m { s.mg m with halted := false })

/-- The return reaches the bundle at EPC: the level and IEN of the entry, the DONE mask, and what the entry kept; the
repairs of a deferred failure are made (R272, R273, R276). -/
def State.returnTo (s : State) (m : Nat) (ec : BitVec 64) : State :=
  let x := s.mg m
  let hyp := fld ec.toNat 40 2 = 2
  let kept := (if hyp then x.keptHv else x.keptSv).filter fun k => k.epc == x.core.pc
  let c := { x.core with done := bv ec.toNat 24 8, eret := none, sysc := none }.repair x.adv
  let c : Core := match kept with
    | some k => { c with xfer := k.xfer, eret := k.eret, fetches := k.fetches ++ c.fetches,
                         wait := if k.wait.isSome then k.wait else c.wait }
    | none => c
  let c : Core := { c with raised := c.raised ++ ((if hyp then x.keptHv else x.keptSv).map (·.raised)).getD [] }
  let s := s.setMg m { x with lvl := bv ec.toNat 16 2, ien := ec[19], core := c,
                              keptHv := if hyp then none else x.keptHv, keptSv := if hyp then x.keptSv else none }
  s.repeatWait (.mgmt m)

/-- A management core's bundle begins: the checks that come before its words. SP is not looked at there: R91 names no
exception, but R36 and R38 speak of a troupe's core and its VCC, and this core has neither (R403); the model's choice
(log 48). -/
def State.startMgmt (s : State) (m : Nat) : State :=
  let a : Agent := .mgmt m
  let c := (s.mg m).core
  let stop (s : State) : State := { s with cursor := .afterMgmt m }
  if s.streamEnd a ≤ c.pc then stop (s.enter m ((s.mg m).toHyp 0x08) (c.pc - 64)
      (ecause 0x08 0 (s.mg m).lvl.toNat false (s.mg m).ien false 2 0) (BitVec.ofNat 64 (s.streamEnd a)))
  else match s.bundleFault a c with
  | some (w, sub) => stop (s.mgmtFault m 0x01 sub w 2 false 0)
  | none => { s.setCore a { c with done := c.done ||| 2, netw := 0, failed := false } with cursor := .mword m 2 }

/-- A management core's bundle completes. -/
def State.finishMgmt (s : State) (m : Nat) : State :=
  let a : Agent := .mgmt m
  let c := (s.mg m).core
  let jump := match c.xfer with
    | some (k, _) => decide (k ≤ 1)
    | none => false
  let c' := (c.complete (s.word a c 0) (s.now a) false).1
  let s := (s.setCore a { c' with done := 0 }).poolAdd (8 + m) 0x25 1
  let s := match c.eret with
    | some ec => if jump then s.returnTo m ec else s
    | none => s
  { s with cursor := .afterMgmt m }

/-- A bundle may begin: between bundles, or to issue again under a DONE mask. -/
def State.betweenOrRedo (s : State) (m : Nat) : Bool :=
  let x := s.mg m
  s.cursor == .mword m 1 && x.run && !x.dead && x.stall ≤ s.wall && x.core.raised.isEmpty

/-- BUNDLE_ISSUE of a management core. -/
def State.issueMgmt (s : State) (m : Nat) : Option State :=
  if s.betweenOrRedo m && !(s.mg m).halted && !(s.mg m).core.idle then some (s.startMgmt m)
  else if s.cursor = .mword m 8 then some (s.finishMgmt m)
  else none

/-- The idle bundle of a management core. -/
def State.idleMgmt (s : State) (m : Nat) : Option State :=
  let c := (s.mg m).core
  if s.betweenBundles m && !(s.mg m).halted && !c.idle && decide (c.pc < s.streamEnd (.mgmt m)) && s.allZero (.mgmt m) c then
    some (s.finishMgmt m)
  else none

/-- A late failure enters the handler before the bundle of its due count (R272); of several, the first, and the others
after its return (log 16). -/
def State.lateEntry (s : State) (m : Nat) : State :=
  let x := s.mg m
  match x.core.raised with
  | [] => s
  | f :: _ =>
    { s.enter m (x.toHyp f.cause.toNat) x.core.pc
        (ecause f.cause.toNat f.sub.toNat x.lvl.toNat true x.ien false x.core.done.toNat (f.word.getD 0)) f.addr with
        cursor := .afterMgmt m }

/-- BUNDLE_ISSUE (R274). -/
def execBundleIssue (a : Agent) (s : State) : Host.Outcome State Fault Refusal :=
  match (match a with
    | .core t r => s.issueCore t r
    | .mgmt m => if m < 2 then s.issueMgmt m else none) with
  | some s' => .next s'
  | none => notEnabled "BUNDLE_ISSUE"

/-- IDLE_BUNDLE (R99). -/
def execIdleBundle (a : Agent) (s : State) : Host.Outcome State Fault Refusal :=
  match (match a with
    | .core t r => s.idleCore t r
    | .mgmt m => if m < 2 then s.idleMgmt m else none) with
  | some s' => .next s'
  | none => notEnabled "IDLE_BUNDLE"

/-- A due phase of a command waits: its piece is not here, or its source read finds the store buffer full (R217). -/
def Core.cmdWaits (c : Core) (nx : Nat) (p : Pend) : Bool :=
  decide (p.due ≤ nx) && match p.act with
    | .cmd id 1 i => ((c.cmd? id).map fun k =>
        (k.piece i).data.isNone && (k.piece i).failed.isNone && k.failed.isNone).getD false
    | .cmd _ 0 _ => c.bufferFull nx p
    | _ => false

/-- What stalls a management core at count nx, where a compute core would hold (R403). -/
def State.mgmtStalls (s : State) (m nx : Nat) : Bool :=
  let c := (s.mg m).core
  (c.fetches.any fun f => f.due ≤ nx && match f.st with
    | .walking => true
    | .ready _ => true
    | _ => false) ||
  (c.pend.any fun p => c.cmdWaits nx p) || c.wait.any fun w => w.report.isNone

/-- An arrival for the core's wall steals the cycle before count nx (R228). -/
def State.mgmtSteals (s : State) (m nx : Nat) : Bool := s.flight.any fun g => g.dst == .mgmt m && g.overdue nx

/-- The command whose scheduled phase an effect is. -/
def Act.ofCmd : Act → Option Nat
  | .cmd id _ _ => some id
  | .xcpyOut id _ _ => some id
  | _ => none

/-- The later phases of a command that waits at count nx keep their distance from the one that waits (log 6). -/
def Core.slide (c : Core) (nx : Nat) : Core :=
  let late := c.pend.filterMap fun p => if c.cmdWaits nx p then p.act.ofCmd else none
  { c with pend := c.pend.map fun p =>
      if nx < p.due && p.act.ofCmd.any late.contains then { p with due := p.due + 1 } else p }

/-- The management core's cycle begins. Its count goes with the wall cycles, through a stall too, in which no bundle issues
(R403); only a stolen bank cycle puts everything off by one (R228; log 6). -/
def State.beginMgmt (s : State) (m : Nat) : State :=
  let x := s.mg m
  if !x.run || x.dead then { s with cursor := .afterMgmt m }
  else
    let c : Core := { x.core.takeReport (x.adv + 1) with acc70 := [], acc78 := [], old70 := 0, wrote := [] }
    if s.mgmtSteals m (x.adv + 1) then { s.setMg m { x with core := c } with cursor := .afterMgmt m }
    else { s.setMg m { x with adv := x.adv + 1, core := { c.slide (x.adv + 1) with chg := [] } } with cursor := .mword m 0 }

end Sys2Proof.Machine
end

