-- ==== Sys2Proof/Machine/Power.lean ====
section
/-!
DEFINITION. Resets, boot, the host mailbox, operating states, gating, the clamp, the thermal trip and the monitors (R388 to
R402).
-/

namespace Sys2Proof.Machine

/-! ## Resets (R388) -/

/-- POWER_ON_RESET: everything but the fuses; the inputs, host memory and the free values are not the package's. -/
def execPowerOnReset (s : State) : Host.Outcome State Fault Refusal :=
  .next { State.reset with script := s.script, free := s.free, hmem := s.hmem, hmem2 := s.hmem2, minSvn := s.minSvn }

/-- PACKAGE_RESET: everything but the fuses and TRIP. -/
def execPackageReset (s : State) : Host.Outcome State Fault Refusal :=
  .next { State.reset with script := s.script, free := s.free, hmem := s.hmem, hmem2 := s.hmem2, minSvn := s.minSvn, trip := s.trip }

/-- HOST_PORT_RESET: the port of far-tier die 1 alone. -/
def execHostPortReset (s : State) : Host.Outcome State Fault Refusal :=
  .next { s with hpCfg := 0, hpSet := false, hpLnk := s.hpLnk &&& 0xFF }

/-! ## The mailbox (R393, R394) -/

def stOk : Nat := 0
def stBusy : Nat := 1
def stInvalid : Nat := 2
def stAuth : Nat := 3
def stOrder : Nat := 4
def stClamped : Nat := 5

/-- RESP is written with DONE = 1. -/
def State.mbFinish (s : State) (status : Nat) : State :=
  { s with mbDone := true, mbBusy := false, mbStatus := BitVec.ofNat 16 status }.tell (.msix 0)

/-- A host command raises DBL in the partition whose supervisor management core 0 runs (R268; log 16). -/
def State.hostDbl (s : State) : State := s.setIp (s.mg 0).part.toNat 3

def State.arg (s : State) (i : Nat) : Nat := (vget 0 s.mbArgs i).toNat

/-- OP and SEQ of the command in hand (R393). -/
def State.mbOp (s : State) : BitVec 8 := s.mbCmd.truncate 8
def State.mbSeq (s : State) : BitVec 16 := bv s.mbCmd.toNat 16 16

/-- RESP (R393). -/
def State.mbResp (s : State) : BitVec 64 :=
  BitVec.ofNat 64 (bit s.mbDone * 2 ^ 63 + s.mbSeq.toNat * 2 ^ 16 + s.mbStatus.toNat)

/-- The mailbox as the host reads it, word i of 64 bits at offset 8i (R393). -/
def State.mbWord (s : State) (i : Nat) : BitVec 64 :=
  if i = 0 then s.hostCmd
  else if i ≤ 8 then vget 0 s.hostArgs (i - 1)
  else if i = 9 then s.mbResp
  else 0

/-- The commands listed in R394. -/
def mbListed (op : BitVec 8) : Bool :=
  [0x01, 0x02, 0x03, 0x10, 0x11, 0x12, 0x13, 0x14, 0x20, 0x30].contains op.toNat

/-- MAILBOX_DOORBELL: the RW fields hold what the host writes; the doorbell starts a command while DONE = 1, with the fields of
that moment (log 64); an unlisted OP is INVALID at once. -/
def execMailboxDoorbell (cmd : BitVec 64) (args : Vector (BitVec 64) 8) (ring : Bool) (s : State) :
    Host.Outcome State Fault Refusal :=
  let s : State := { s with hostCmd := cmd, hostArgs := args }
  if !ring || !s.mbDone then .next s
  else
    let s : State := { s with mbDone := false, mbBusy := false, mbCmd := cmd, mbArgs := args }.hostDbl
    .next (if mbListed s.mbOp then s else s.mbFinish stInvalid)

/-- A command waits to be carried out. -/
def State.mbWaits (s : State) (op : Nat) : Bool := !s.mbDone && !s.mbBusy && s.mbOp.toNat == op

/-- A ROM command: ORDER once the firmware runs. -/
def State.romCommand (s : State) (op : Nat) (row : String) (f : State → State) : Host.Outcome State Fault Refusal :=
  if !s.mbWaits op then notEnabled row
  else .next (if s.booted then s.mbFinish stOrder else f s)

/-- A firmware command: ORDER before the firmware runs. -/
def State.fwCommand (s : State) (op : Nat) (row : String) (f : State → State) : Host.Outcome State Fault Refusal :=
  if !s.mbWaits op then notEnabled row
  else .next (if s.booted then f s else s.mbFinish stOrder)

/-! ## Boot (R389 to R391) -/

/-- LOAD: the image is copied into boot SRAM; an address or length that R394 does not allow is INVALID (log 64). -/
def execLoad (s : State) : Host.Outcome State Fault Refusal :=
  s.romCommand 0x01 "LOAD" fun s =>
    let a := s.arg 0
    let n := s.arg 1
    if a % 4096 ≠ 0 || n < 512 || 2 ^ 24 < n then s.mbFinish stInvalid
    else
      let m0 : Mem := []
      { s with sram := m0.write 0 (s.hmem.read a n), sramLen := some n }.mbFinish stOk

/-- The checks of R390 on the loaded image: the body if it may run. -/
def firmware (minSvn : Nat) (b : List Byte) : Option Image :=
  let zero (lo n : Nat) : Bool := ((b.drop lo).take n).all (· == 0)
  let slot := numAt b 6 1
  let body := b.drop 512
  let pub := (b.drop 128).take 97
  if numAt b 0 4 = 0x1A4E4D46 && numAt b 4 2 = 1 && zero 7 1 && zero 24 104 && zero 225 31 && zero 352 160 &&
      512 + numAt b 16 8 = b.length && slot < 4 && Config.slotLive slot && sha384 pub == Config.slotHash slot &&
      minSvn ≤ numAt b 8 8 && ecdsaVerify pub ((b.drop 256).take 96) (sha384 (b.take 256 ++ body)) then
    (Image.ofBytes body).filter fun i => i.shape == 0 && i.streams.length == 1
  else none

/-- A management core as it starts an image: bundle address 0, hypervisor level, IEN = 0 (R389 step 5). -/
def Mgmt.boot (st : Stream) (loop : Vector (BitVec 64) 8) : Mgmt :=
  { Mgmt.reset with run := true, stream := st, loop := loop }

/-! ## Keys (R391) -/

/-- The fused device secret; nothing is read of it once it is locked. -/
def State.secret (s : State) : List Byte := if s.secretLocked then [] else tab 48 Config.secretByte

/-- Bytes with zeros after them up to n. -/
def padTo (n : Nat) (l : List Byte) : List Byte := l ++ tab (n - l.length) fun _ => 0

/-- Step 5's keys: the attestation key of the measured image, the AK statement signed by the identity key, the lock. -/
def State.deriveKeys (s : State) (m : List Byte) (svn : Nat) : State :=
  let ak := keyScalar s.secret (infoAk m)
  let head := padTo 256 (publicKey ak ++ m ++ leBytes 8 svn)
  { s with ak := ak, akStmt := head ++ ecdsaSign (keyScalar s.secret infoId) (sha384 head) s.free, secretLocked := true,
           free := s.free + 8 }

/-- BOOT: steps 4 and 5 of R389. -/
def execBoot (s : State) : Host.Outcome State Fault Refusal :=
  s.romCommand 0x02 "BOOT" fun s =>
    match s.sramLen with
    | none => s.mbFinish stOrder
    | some n =>
      let b := s.sram.read 0 n
      match firmware s.minSvn b with
      | none => s.mbFinish stAuth
      | some img =>
        let st := img.streams.headD { ranks := 0, code := [], bundles := 0, sps := [], bank := [] }
        let m := sha384 (b.take 256 ++ b.drop 512)
        (({ s.deriveKeys m (numAt b 8 8) with
              booted := true, kslot := b.getD 6 0, svn := numAt b 8 8, measure := m,
              mgmt := gen 2 fun _ => Mgmt.boot st img.loop }.renew (.mgmt 0)).renew (.mgmt 1)).mbFinish stOk

/-- COMMIT (R390, R394). -/
def execCommit (s : State) : Host.Outcome State Fault Refusal :=
  s.fwCommand 0x03 "COMMIT" fun s =>
    let n := s.arg 0
    if n < s.minSvn || s.svn < n || 64 < n then s.mbFinish stInvalid else { s with minSvn := n }.mbFinish stOk

/-- A wait that stands when wall cycles begin to count. -/
def Core.rebase (c : Core) : Core :=
  { c with wait := c.wait.map fun w => { w with since := 0, markers := w.markers.map fun k => { k with sent := 0 } } }

/-- Wall cycles begin to count: what was stamped with a wall cycle before counts from here (log 65). -/
def State.rebase (s : State) : State :=
  { s with wall := 0, clampTill := s.clampTill - s.wall, qsAt := 0, qsFrom := bit s.qs.isSome,
           ctrOps := s.ctrOps.map fun o => { o with sent := 0 }, atoms := s.atoms.map fun e => { e with sent := 0 },
           out := s.out.map fun o => { o with first := 0, last := 0 },
           mgmt := gen 2 fun m => { s.mg m with stall := 0, core := (s.mg m).core.rebase } }

/-- BT_CTL_RELEASE (R389 step 6, R18): cores are released and wall cycles count from here; a write of 0 is ignored. -/
def execBtCtlRelease (v : BitVec 64) (s : State) : Host.Outcome State Fault Refusal :=
  .next (if v[0] && !s.released then { s.rebase with released := true } else s)

/-! ## Operating states (R395, R396, R400) -/

/-- The supply of a voltage index and the lowest supply of a frequency index, in mV. -/
def viMv (vi : Nat) : Nat := [650, 700, 600, 550].getD vi 0
def fiMv (fi : Nat) : Nat := [650, 600, 550, 550].getD fi 0

/-- Core-clock cycles of 1 µs. -/
def fiCycles (fi : Nat) : Nat := [2000, 1600, 1200, 800].getD fi 0

/-- A clock lock covers a die: a partition that has a ring there has LCK = 1 (R387). -/
def State.lockCovers (s : State) (d : Nat) : Bool :=
  (tab 12 id).any fun p => (s.bank p).dbProf[63] && d < 8 && fld (s.part p).rings.toNat (8 * d) 8 != 0

/-- The dies that the command in hand names: all of SETF, the mask of SETV. -/
def State.powerDies (s : State) : List Nat :=
  if s.mbOp = 0x10 then tab 10 id else (tab 10 id).filter fun d => (vget 0 s.mbArgs 0).getLsbD d

/-- The command in hand waits for a lock. -/
def State.lockWaits (s : State) : Bool :=
  s.powerDies.any s.lockCovers

/-- A clamp trigger was active within the last 1 ms (R400). -/
def State.clampRecent (s : State) : Bool := s.clampDue || s.wall < s.clampTill

/-- A clamp trigger is active: 1 ms from here, at the clock that the clamp forces. -/
def State.clampNow (s : State) : State := { s with clampTill := s.wall + 1000 * fiCycles 3 + 1 }

/-- The state that the command in hand asks for keeps R395. -/
def State.targetOk (s : State) : Bool :=
  if s.mbOp = 0x10 then (tab 10 id).all fun d => fiMv (s.arg 0 % 4) ≤ viMv (vget 0 s.vi d).toNat
  else s.powerDies.isEmpty || fiMv s.fi.toNat ≤ viMv (s.arg 1 % 4)

/-- SETF. -/
def execSetf (s : State) : Host.Outcome State Fault Refusal :=
  if s.booted && s.lockWaits then notEnabled "SETF"
  else s.fwCommand 0x10 "SETF" fun s =>
    if !s.targetOk then s.mbFinish stInvalid
    else if s.arg 0 % 4 < 3 && s.clampRecent then s.mbFinish stClamped
    else { s with clmp := false, mbBusy := true }

/-- SETV. -/
def execSetv (s : State) : Host.Outcome State Fault Refusal :=
  if s.booted && s.lockWaits then notEnabled "SETV"
  else s.fwCommand 0x11 "SETV" fun s =>
    if !s.targetOk then s.mbFinish stInvalid else { s with mbBusy := true }

/-- POWER_STATE_REACHED: every die is in the new state; a die that a lock covers keeps its state until then (R387). -/
def execPowerStateReached (s : State) : Host.Outcome State Fault Refusal :=
  if s.mbDone || !s.mbBusy || (s.mbOp ≠ 0x10 && s.mbOp ≠ 0x11) || s.lockWaits then notEnabled "POWER_STATE_REACHED"
  else if !s.targetOk then .next (s.mbFinish stClamped)
  else if s.mbOp = 0x10 then .next ({ s with fi := BitVec.ofNat 2 (s.arg 0) }.mbFinish stOk)
  else
    let ds := s.powerDies
    .next ({ s with vi := gen 10 fun d => if ds.contains d then BitVec.ofNat 2 (s.arg 1) else vget 0 s.vi d }.mbFinish stOk)

/-! ## Gating (R397, R398) -/

/-- A troupe holds or loads a core of a ring. -/
def State.ringHeld (s : State) (r : Nat) : Bool :=
  s.troupes.any fun tr => tr.cores.any fun c => 8 * c.die + c.loc / 4 == r

/-- A die serves a counter: an allocated one, or another die's entry of DIR (R374). -/
def State.serves (s : State) (d : Nat) : Bool :=
  (s.ctrs.any fun c => (vget 0 s.dir (c.handle.toNat / 2 ^ 28)).toNat == d) ||
  (tab 10 id).any fun e => e != d && (vget 0 s.dir e).toNat == d

/-- Whether a unit is gated; `none`: the kind and index name no unit (R398). -/
def State.gated (s : State) (kind idx : Nat) : Option Bool :=
  match kind with
  | 0 => if idx < 64 then some (s.gateRing.getLsbD idx) else none
  | 1 => if idx < 8 then some (s.gateStk.getLsbD idx) else none
  | 2 => if idx < 16 then some (s.gatePort.getLsbD idx) else none
  | 3 => if idx = 9 then some s.gateFt1 else none
  | 4 => if idx < 8 then some (s.gateNear.getLsbD idx) else none
  | _ => none

/-- GATE is refused with BUSY. -/
def State.gateBusy (s : State) (kind idx : Nat) : Bool :=
  match kind with
  | 0 => s.ringHeld idx
  | 2 => (s.port idx).st != 0
  | 3 => s.serves 9 || fld s.hpLnk.toNat 20 4 != 0 || s.migRunning 9 != 0
  | 4 => fld s.gateRing.toNat (8 * idx) 8 != 255 || !s.gateStk.getLsbD idx || fld s.gatePort.toNat (2 * idx) 2 != 3 ||
      s.serves idx
  | _ => false

/-- A unit becomes gated or ungated. -/
def State.setGate (s : State) (kind idx : Nat) (on : Bool) : State :=
  let put (w : Nat) (v : BitVec w) : BitVec w :=
    if on then v ||| BitVec.ofNat w (2 ^ idx) else v &&& ~~~ BitVec.ofNat w (2 ^ idx)
  match kind with
  | 0 => { s with gateRing := put 64 s.gateRing }
  | 1 => { s with gateStk := put 8 s.gateStk }
  | 2 => { s with gatePort := put 16 s.gatePort }
  | 3 => { s with gateFt1 := on, migOdd := on && s.migOdd }
  | _ => { s with gateNear := put 8 s.gateNear }

/-- GATE. -/
def execGate (s : State) : Host.Outcome State Fault Refusal :=
  s.fwCommand 0x12 "GATE" fun s =>
    let kind := s.arg 0 % 256
    let idx := s.arg 1
    match s.gated kind idx with
    | some false => if s.gateBusy kind idx then s.mbFinish stBusy else (s.setGate kind idx true).mbFinish stOk
    | _ => s.mbFinish stInvalid

/-- UNGATE: the unit is powered when UNGATE_COMPLETE comes. -/
def execUngate (s : State) : Host.Outcome State Fault Refusal :=
  s.fwCommand 0x13 "UNGATE" fun s =>
    match s.gated (s.arg 0 % 256) (s.arg 1) with
    | some true => { s with mbBusy := true }
    | _ => s.mbFinish stInvalid

def execUngateComplete (s : State) : Host.Outcome State Fault Refusal :=
  if s.mbDone || !s.mbBusy || s.mbOp ≠ 0x13 then notEnabled "UNGATE_COMPLETE"
  else .next ((s.setGate (s.arg 0 % 256) (s.arg 1) false).mbFinish stOk)

/-! ## Reset of a die (R399) -/

/-- Steps 1 to 5 on die d. -/
def State.resetDie (s : State) (d : Nat) : State :=
  let s := (tab s.troupes.length id).foldl (fun s t => match s.troupe? t with
    | some tr => if tr.cores.any fun c => c.die == d then s.stopTroupe t 0xFF00 else s
    | none => s) s
  let s := s.loseCounters d
  let off (q : Nat) (p : Port) : Port := if q / 2 = d then { p with st := 0, busy := none, wst := 0 } else p
  let mine (t : Trig) : Bool := (tab 16 id).any fun q => q / 2 == d && t.ports.getLsbD q
  { s with gmem := s.gmem.filter fun c => dieOf c.1 != d,
           ghist := s.ghist.filter fun w => dieOf w.pa != d,
           tlbs := s.tlbs.filter fun z => z.die != d,
           ports := gen 16 fun q => off q (s.port q),
           trigs := s.trigs.filter fun t => !mine t,
           migs := s.migs.map fun g => if g.stage < 0x10 && (dieOf g.old == d || dieOf g.dst == d) then { g with stage := 0x12 } else g,
           mgmt := gen 2 fun m => if m = 1 && d = 9 then Mgmt.reset else s.mg m,
           resetting := some d }

/-- RESETD: a reset of far-tier die 1 hands its migration work to die 0's engine (R342). -/
def execResetd (s : State) : Host.Outcome State Fault Refusal :=
  s.fwCommand 0x14 "RESETD" fun s =>
    let d := s.arg 0 % 16
    if d = 8 || 9 < d then s.mbFinish stInvalid else { (if d = 9 then s.takeOver.resetDie d else s.resetDie d) with mbBusy := true }

/-- DIE_RESET_COMPLETE: far-tier die 1 reloads its management core and takes back its migration work (R342, R399). -/
def execDieResetComplete (s : State) : Host.Outcome State Fault Refusal :=
  match s.resetting with
  | none => notEnabled "DIE_RESET_COMPLETE"
  | some d =>
    let s : State := { s with resetting := none }
    let s : State := if d = 9 then
        { (s.setMg 1 (Mgmt.boot (s.mg 0).stream (s.mg 0).loop)).renew (.mgmt 1) with migOdd := false }
      else s
    .next (if s.mbOp = 0x14 && s.mbBusy then s.mbFinish stOk else s)

/-! ## Attestation (R391, R392) -/

/-- The partition descriptors in force, absent ones as zeros. -/
def State.descBytes (s : State) : List Byte :=
  (tab 12 fun p => leBytes 64 (if (s.part p).exist then (s.part p).desc.toNat else 0)).flatten

/-- The 4,800 bytes that ATTEST writes. -/
def State.attestation (s : State) : List Byte :=
  let rep := padTo 256 (leBytes 4 0x1A4E5254 ++ leBytes 4 1 ++ (tab 6 fun i => leBytes 8 (s.arg i)).flatten ++ s.measure ++
    leBytes 8 s.svn ++ sha384 s.descBytes ++ leBytes 8 s.wall)
  tab 4096 Config.certByte ++ s.akStmt ++ rep ++ ecdsaSign s.ak (sha384 rep) s.free

/-- ATTEST; an address that is no multiple of 64 is INVALID (log 64). -/
def execAttest (s : State) : Host.Outcome State Fault Refusal :=
  s.fwCommand 0x20 "ATTEST" fun s =>
    let a := s.arg 6
    if a % 64 ≠ 0 then s.mbFinish stInvalid
    else { s with hmem := s.hmem.write a s.attestation, free := s.free + 8 }.mbFinish stOk

/-! ## Forwarded commands (R394) -/

/-- CMD and the ARGs as the hypervisor's host-command buffer holds them. -/
def hcbBytes (cmd : BitVec 64) (args : Vector (BitVec 64) 8) : List Byte :=
  leBytes 8 cmd.toNat ++ (tab 8 fun i => leBytes 8 (vget 0 args i).toNat).flatten

/-- FWD: CMD and the ARGs are written to the hypervisor's buffer in memory (log 62), and DBL is raised (log 16). -/
def execFwd (s : State) : Host.Outcome State Fault Refusal :=
  s.fwCommand 0x30 "FWD" fun s =>
    ({ s with hcb := some (s.mbCmd, s.mbArgs), mbBusy := true }.acceptWide Config.hostCmd
      ((hcbBytes s.mbCmd s.mbArgs).map some)).hostDbl

/-- MB_RESP_WRITE: completes a forwarded command. -/
def execMbRespWrite (v : BitVec 64) (s : State) : Host.Outcome State Fault Refusal :=
  .next (if !s.mbDone && s.mbBusy && s.mbOp = 0x30 then s.mbFinish (fld v.toNat 0 16) else s)

/-! ## Monitors, clamp and trip (R401, R402) -/

/-- TCLAMP and TTRIP, in 1/16 °C. -/
def tClamp : Int := 1600
def tTrip : Int := 1840

/-- A working temperature sensor of some die reads at least `limit`. -/
def State.hot (s : State) (limit : Int) : Bool :=
  s.mons.toArray.toList.any fun m => m.temp.any fun w => w[31] && decide (limit ≤ ((w.truncate 16 : BitVec 16).toInt))

/-- A die's monitors as the host reads them, word i of 64 bits at offset 8i (R402). -/
def State.monWord (s : State) (die i : Nat) : BitVec 64 :=
  let m := vget Mon.reset s.mons die
  if i < 64 then m.temp.getD i 0
  else if i < 72 then m.droop.getD (i - 64) 0
  else if i < 76 then m.proc.getD (i - 72) 0
  else if i = 76 then BitVec.ofInt 64 (tClamp + tTrip * 2 ^ 16)
  else 0

/-- The physical function's BAR 0 as the host reads it, without its doorbells (R393, R402). -/
def State.barWord (s : State) (off : Nat) : BitVec 64 :=
  if off < 0x80 then s.mbWord (off / 8)
  else if 0x2000 ≤ off ∧ off < 0x2000 + 0x400 * 10 then s.monWord ((off - 0x2000) / 0x400) ((off - 0x2000) % 0x400 / 8)
  else 0

/-- A supply in 0.25 mV lies below 0.9 × the state voltage. -/
def droops (mv : Nat) (v : BitVec 16) : Bool := 10 * v.toNat < 36 * mv

/-- Entries below that supply among readings, after one that lay below or did not; and where the last one lies. -/
def dips (mv : Nat) : List (BitVec 16) → Bool → Nat × Bool
  | [], low => (0, low)
  | v :: l, low =>
    let (n, e) := dips mv l (droops mv v)
    (n + bit (droops mv v && !low), e)

/-- MONITOR_SAMPLE (R402): every 10 µs. A sensor at TCLAMP triggers the clamp (R401). -/
def execMonitorSample (die : Fin 10) (smp : MonSample) (s : State) : Host.Outcome State Fault Refusal :=
  let temp (i : Nat) (w : BitVec 64) : BitVec 64 :=
    let (val, t) := smp.temp.getD i (false, 0)
    BitVec.ofNat 64 (t.toNat + bit val * 2 ^ 31 + (fld w.toNat 32 32 + 1) % 2 ^ 32 * 2 ^ 32)
  let mv := viMv (vget 0 s.vi die.val).toNat
  let sup (j : Nat) : List (BitVec 16) := smp.supply.getD j []
  let droop (low : List Bool) (j : Nat) (w : BitVec 64) : BitVec 64 :=
    BitVec.ofNat 64 ((sup j).foldl (fun n v => min n v.toNat) (fld w.toNat 0 16) +
      min (fld w.toNat 32 32 + (dips mv (sup j) (low.getD j false)).1) (2 ^ 32 - 1) * 2 ^ 32)
  let proc (k : Nat) (w : BitVec 64) : BitVec 64 :=
    BitVec.ofNat 64 ((smp.rosc.getD k 0).toNat + fld w.toNat 32 32 * 2 ^ 32)
  let s : State := { s with mons := vmod Mon.reset s.mons die.val fun m =>
    { temp := m.temp.mapIdx temp, droop := m.droop.mapIdx (droop m.low), proc := m.proc.mapIdx proc,
      low := m.low.mapIdx fun j b => (dips mv (sup j) b).2 } }
  .next (if s.hot tClamp then { s.clampNow with clampDue := true } else s)

/-- DROOP_VMIN_WRITE (R402): any write sets 0xFFFF. -/
def execDroopVminWrite (die : Fin 10) (j : Fin 8) (s : State) : Host.Outcome State Fault Refusal :=
  .next { s with mons := vmod Mon.reset s.mons die.val fun m =>
    { m with droop := m.droop.modify j.val fun w => keepField w 32 32 ||| 0xFFFF } }

/-- CLAMP (R401): it follows a sample in which a sensor reads TCLAMP (`clampDue`, stage 5 of `autoRow`). As an input it also
stands for a supply that stays below 0.9 × the state voltage of its die, of which no reading for each wall cycle is state
(log 14), so it is never turned away. -/
def execClamp (s : State) : Host.Outcome State Fault Refusal :=
  .next (({ s.clampNow with fi := 3, clmp := true, clampDue := false }.setHvIp 4).tell (.msix 1))

/-- THERMAL_TRIP (R401): the rails switch off at once, the host port goes down. -/
def execThermalTrip (s : State) : Host.Outcome State Fault Refusal :=
  if !s.hot tTrip then notEnabled "THERMAL_TRIP"
  else .next ({ s with trip := true, hpLnk := 0, cursor := .idle }.tell .linkDown)

end Sys2Proof.Machine
end

