-- ==== Sys2Proof/Machine/Driver.lean ====
section
/-!
DEFINITION. What moves next: the order of one wall cycle (log 1). A wall cycle is: the inputs that land (log 2), the
package's own events that time decides, the two management cores, the troupes in the order of their places, the end.
-/

namespace Sys2Proof.Machine

/-- A row's meaning with its operands. -/
abbrev Row : Type := State → Host.Outcome State Fault Refusal

/-- What the machine does next: move on by itself, run a row, or stop. -/
inductive Move where
  | go (s : State)
  /-- a row of the table, by its meaning -/
  | run (s : State) (row : Row)
  /-- an instruction word, or an input -/
  | instr (s : State) (i : Instr)
  | stop (f : Fault)

/-! ## Inputs (log 2) -/

/-- The inputs from the first power-on reset on. -/
def toPowerOn : List (Nat × Instr) → Option (List (Nat × Instr))
  | [] => none
  | (_, .powerOnReset) :: l => some l
  | _ :: l => toPowerOn l

/-- Between wall cycles: the inputs whose time has come land in their order. After a thermal trip only a power-on reset
does anything (R401). -/
def State.nextIdle (s : State) : Move :=
  if s.trip then
    match toPowerOn s.script with
    | some l => .instr { s with script := l } .powerOnReset
    | none => .stop .railsOff
  else
    match s.script with
    | (w, i) :: l => if w ≤ s.wall then .instr { s with script := l } i else .go { s with cursor := .auto 0 }
    | [] => .go { s with cursor := .auto 0 }

/-! ## What time decides -/

/-- A wait's last frame tick has passed (R128). -/
def State.waitOverdue (s : State) (a : Agent) : Bool :=
  match (s.core? a).bind (·.wait) with
  | some w => w.op != 0 && w.ticks == 0 && w.report.isNone && match w.kind with
    | .target _ => true
    | .armed => true
    | _ => false
  | none => false

/-- The queue heads whose WDL has passed (R323). -/
def State.overdueHead (s : State) : Option (Nat × Nat) :=
  if s.wall % Config.tick ≠ 0 then none
  else ((tab 96 id).flatMap fun v => tab (s.vf v).queues.length fun q => (v, q)).find? fun e => s.waitExpired e.1 e.2

/-- GDL of the topology command in hand has passed (R364). -/
def State.topoOverdue (s : State) : Bool :=
  match s.topo with
  | c :: _ => c.started && !s.topoGo c && !s.resWaits c && s.wall % Config.tick == 0 &&
      decide (dlTicks (BitVec.ofNat 16 (numAt c.body 16 2)) ≤ s.wall / Config.tick - c.since / Config.tick)
  | [] => false

/-- The place of the first troupe that a test accepts. -/
def State.findTroupe (s : State) (f : Troupe → Bool) : Option Nat := s.troupes.findIdx? f

/-- The partition change in hand can be applied (R327). -/
def State.changeReady (s : State) : Bool :=
  match s.ptCmd with
  | some c => s.troupes.all fun tr => !(tr.holdsCores && s.affects c tr)
  | none => false

/-- A partition with a record that can be written, or that is yet to find the queue full (R280). -/
def State.recordDue (s : State) (p : Nat) : Bool :=
  let b := s.bank p
  (s.oldestRec p).isSome && (if b.frqFull then !b.frqStuck else !s.portDown b.frqSlot && s.planeFree b.frqSlot)

/-- The mailbox command that waits to be carried out (R394). -/
def State.mbRow (s : State) : Option Row :=
  if s.mbDone || s.mbBusy then none
  else match s.mbOp.toNat with
    | 0x01 => some execLoad
    | 0x02 => some execBoot
    | 0x03 => some execCommit
    | 0x10 => if s.booted && s.lockWaits then none else some execSetf
    | 0x11 => if s.booted && s.lockWaits then none else some execSetv
    | 0x12 => some execGate
    | 0x13 => some execUngate
    | 0x14 => some execResetd
    | 0x20 => some execAttest
    | 0x30 => some execFwd
    | _ => none

/-- A frame tick falls in this wall cycle (R27). -/
def State.tickNow (s : State) : Bool := s.released && s.wall % Config.tick == 0

/-- The row of stage k that is due, if one is; stages 0 and 22 run once in a wall cycle. Stages 20 and 21, the quota
keeper's, come after the management cores: a charge of the wall cycle is applied after its writes (R301); the distributor's
round sees both (R324, R330). -/
def State.autoRow (s : State) (k : Nat) : Option Row :=
  match k with
  | 0 => if s.tickNow then some execFrameTick else none
  | 1 => (s.agents.find? s.waitOverdue).map execCwaitDeadlineExpiry
  | 2 => if s.tickNow then s.overdueHead.map fun e => execLaunchWaitExpired e.1 e.2 else none
  | 3 => if s.tickNow && s.topoOverdue then some execTopologyGoExpired else none
  | 4 => if s.tickNow then (s.findTroupe fun tr =>
      tr.realign && (tr.st == .running || tr.st == .saving || tr.st == .restoring)).map execRealignRelabel else none
  | 5 => if s.clampDue then some (execClamp) else none
  | 7 => if s.hot tTrip then some execThermalTrip else none
  | 6 => if s.tickNow then (s.findTroupe fun tr =>
      tr.loading && tr.loadedAt < s.wall && (tr.st == .running || tr.st == .restoring)).map execTroupeStart else none
  | 9 => if s.changeReady then some execPartitionChangeApplied else none
  | 10 => if s.dieDown 9 && !s.migOdd then some execMigrationTakeover else none
  | 11 => match s.qs with
    | some (kill, _) => if s.qsAt + s.qtmo.toNat < s.wall && !s.drained kill then some execQuiesceTimeout else none
    | none => none
  | 12 => s.nextOverdue.map execAckTimeout
  | 13 => (s.out.find? s.resendDue).map fun o => execResendTimeout o.id
  | 14 => ((tab 16 id).find? fun q => (s.port q).busy.map (·.1) == some 6 && s.portQuiet q).map fun q =>
      execOpticalCommandEnd (BitVec.ofNat 4 q) true 0 0 0
  | 15 => ((tab 12 id).find? s.recordDue).map execFaultRecordWrite
  | 16 => s.mbRow
  | 17 => (s.trigs.find? s.trigDue).map fun t => execRouteSwap t.id
  | 20 => if s.released && Config.settle ≤ s.wall && s.wall % Config.settle == 2048 && s.nset.toNat < s.wall / Config.settle then
      some execSettlement else none
  | 21 => ((tab 96 id).find? fun v => (s.vf v).pend != 0).map fun v => execKeeperCharge v (s.vf v).pend
  | 22 => if s.tickNow then some execDistributorRound else none
  | _ => none

/-- A stage that runs once. -/
def onceStage (k : Nat) : Bool := k == 0 || k == 22

/-- The package's own events of the wall cycle. -/
def State.nextAuto (s : State) (k : Nat) : Move :=
  match s.autoRow k with
  | some i => .run (if onceStage k then { s with cursor := .auto (k + 1) } else s) i
  | none =>
    if k ≤ 17 || k = 20 then .go { s with cursor := .auto (k + 1) }
    else if k = 21 then .go { s.ptRequests with cursor := .auto 22 }
    else if 22 ≤ k then .go { s with cursor := .troupe 0 }
    else .go { s.stopClocks.injectAll with cursor := .mgmt 0 }

/-! ## Management cores (R272, R403) -/

/-- The step that a write of a system register is (R265). -/
def State.sysRow (s : State) (m : Nat) (code : BitVec 16) (v : BitVec 64) (lvl : BitVec 2) : Row :=
  let n := v.toNat
  let port : BitVec 4 := bv s.opSel.toNat 0 4
  let addr : BitVec 52 := v.truncate 52
  let plain : Row := execSystemRegisterWrite m code v lvl
  match code.toNat with
  | 0x4012 =>
    match s.selTroupe (s.mg m).part.toNat with
    | none => plain
    | some t => match fld n 0 8 with
      | 1 => execResume t
      | 2 => execRetire t (bv n 48 16)
      | 3 => execRequestPreemption t (if lvl = 2 then 1 else 0)
      | 4 => execWithdrawRequest t (lvl == 2)
      | _ => plain
  | 0x4030 => match fld n 62 2 with
    | 1 => execCtAllocate m v
    | 2 => execCtFree m v
    | _ => plain
  | 0x4051 => match fld n 62 2 with
    | 1 => execInvalidateRange m (bv n 32 14) (bv n 0 32) lvl
    | 2 => execInvalidateAsid m (bv n 32 14) lvl
    | 3 => execInvalidatePartition m
    | _ => plain
  | 0x4071 => execRtDataWrite m v
  | 0x40B0 => execDbProfWrite m v
  | 0x8010 => execHvPartWrite m v
  | 0x8041 => execEnQuotaWrite v
  | 0x8047 => execEnCtlWrite v
  | 0x8050 => match fld n 60 4 with
    | 1 => execCreate addr
    | 2 => execResize addr
    | 3 => execRemove addr
    | 4 => execDestroy addr v[59]
    | 5 => execMode addr v[59]
    | _ => plain
  | 0x8074 => match fld n 60 4 with
    | 1 => execKill (bv n 0 2)
    | 2 => execRevive (bv n 0 2)
    | _ => plain
  | 0x8081 => match fld n 60 4 with
    | 1 => execLaserOn port
    | 2 => execLock port (bv n 0 4)
    | 3 => execTrain port (bv n 0 4)
    | 4 => execMap port
    | 5 => execEnable port
    | 6 => execDrain port
    | 7 => execDisable port
    | 8 => execLaserOff port
    | _ => plain
  | 0x8086 => execOpDigWrite port v
  | 0x8090 => if fld n 60 4 = 1 then execCounterMove (bv n 4 4) (bv n 0 4) else plain
  | 0x80A0 => execDbGrantWrite m v
  | 0x80B0 => execBtCtlRelease v
  | 0x80B4 => execMbRespWrite v
  | _ => plain

/-- The first system register write of a management core that is due. -/
def Core.dueSys (c : Core) (now : Nat) : Option (Pend × BitVec 16 × BitVec 64 × BitVec 2) :=
  c.pend.findSome? fun p => match p.act with
    | .sys code v lvl => if p.due ≤ now then some (p, code, v, lvl) else none
    | _ => none

/-- A copy command whose start cycle is `now`. -/
def Core.startsNow (c : Core) (now : Nat) : Option Nat := (c.cmds.find? fun k => !k.started && k.start == now).map (·.id)

/-- Something of a core is due and can perform. -/
def Core.anyReady (c : Core) (now : Nat) : Bool :=
  (c.pend.any fun p => c.ready now p) || c.fetches.any fun f => f.due ≤ now && f.st.isArrived

/-- The row that the results of an agent's core ask for in cycle `now`, once nothing is left to perform. -/
def Core.dueRow (c : Core) (a : Agent) (now : Nat) : Option Row :=
  if !(c.dueFailures now).isEmpty then some (execDeferredFault a)
  else match c.cmds.find? fun k => (Cmd.failure c k now).isSome with
    | some k => some (execCopyDeferredFailure a k.id)
    | none => (c.startsNow now).map fun id => execCopyStart a id

/-- A command whose known failure would keep a phase or a full store buffer waiting for ever: it is taken before the cycle
nx (R218, R248). -/
def Core.stuckOn (c : Core) (nx now : Nat) : Option Nat :=
  if c.phaseWait.isSome || (c.pend.any fun p => decide (p.due ≤ nx) && c.bufferFull nx p) || !(c.startsFull nx).isEmpty then
    (c.cmds.find? fun k => (Cmd.failure c k now).isSome).map (·.id)
  else none

/-- A phase that holds an agent from before cycle nx on is covered (R247). -/
def State.phaseReady (s : State) (a : Agent) (nx : Nat) : Bool :=
  match s.core? a with
  | none => false
  | some c => match c.wait with
    | some w => match w.kind with
      | .phase k => decide (w.iss < nx) && s.covered a c k w.iss && w.marked k
      | _ => false
    | none => false

/-- The entries that a management core's phase covers pass to the store path; what its cycle left is cleared. -/
def State.tidyMgmt (s : State) (m : Nat) : State :=
  let c := (s.mg m).core
  let phase := c.phaseWait.map (·.iss)
  let s := (s.setMg m { s.mg m with core := c.sweep }).markPhase (.mgmt m)
  match phase with
  | some iss =>
    if (s.mg m).core.egress.any fun e => !e.inPath && decide (e.iss ≤ iss) then s.handOver (.mgmt m) iss false else s
  | none => s

/-- A management core's cycle. -/
def State.nextMgmt (s : State) (m : Nat) : Move :=
  let x := s.mg m
  if !x.run || x.dead then .go { s with cursor := .pastMgmt m }
  else
    let s := s.tidyMgmt m
    if s.phaseReady (.mgmt m) (x.adv + 1) then .run s (execPhaseComplete (.mgmt m))
    else match (if s.mgmtStalls m (x.adv + 1) && x.core.raised.isEmpty then x.core.stuckOn (x.adv + 1) x.adv else none) with
      | some id => .run s (execCopyDeferredFailure (.mgmt m) id)
      | none => .go (s.beginMgmt m)

/-- The end of a management core's cycle: commands that start with no delay, and the last results (R214). -/
def State.endMgmt (s : State) (m : Nat) : Move :=
  let x := s.mg m
  if !x.run || x.dead then .go { s with cursor := .pastMgmt m }
  else match x.core.startsNow x.adv with
    | some id => .run s (execCopyStart (.mgmt m) id)
    | none =>
      if x.core.anyReady x.adv then .run s (execResultPerforms (.mgmt m)) else .go { s with cursor := .pastMgmt m }

/-- Within a management core's cycle: stage 0, what is due; stage 1, the bundle's beginning; then its words; last its
end. -/
def State.nextMword (s : State) (m w : Nat) : Move :=
  let x := s.mg m
  let c := x.core
  let after : Move := .go { s with cursor := .afterMgmt m }
  let a : Agent := .mgmt m
  match w with
  | 0 =>
    match c.dueSys x.adv with
    | some (p, code, v, lvl) =>
      let s' := s.setMg m { x with core := { c with pend := c.pend.erase p } }
      .run s' (s'.sysRow m code v lvl)
    | none =>
      if c.anyReady x.adv then .run s (execResultPerforms (.mgmt m))
      else match c.dueRow a x.adv with
        | some i => .run s i
        | none => .go { s with cursor := .mword m 1 }
  | 1 =>
    if !c.raised.isEmpty then .go (s.lateEntry m)
    else if s.wall < x.stall || s.mgmtStalls m x.adv then after
    else if c.done = 0 && (s.interrupt m).isSome then .run s (execInterruptTaken m)
    else if x.halted then (if s.wakes m && c.done = 0 then .run s (execHaltWake m) else after)
    else if c.idle then after
    else if (s.idleMgmt m).isSome then .run s (execIdleBundle a)
    else .run s (execBundleIssue a)
  | 8 => .run s (execBundleIssue a)
  | _ =>
    if 8 < w then s.endMgmt m
    else if w ≠ 2 && w ≠ 6 && w ≠ 7 || c.done.getLsbD w then .go { s with cursor := .mword m (w + 1) }
    else
      let it : Iss := ⟨a, w, x.adv, c⟩
      match s.fetchWord it none with
      | .ok i => .instr s i
      | .error e => .go (s.except it c e)

/-! ## Troupes (R18 to R29, R274 to R286) -/

/-- The arrival port of a management core in this wall cycle: beside its scheduled accesses, or while it stalls (R228,
R403). -/
def State.mgmtArrivals (s : State) (m : Nat) : State :=
  let x := s.mg m
  if !x.run || x.dead then s
  else if x.core.acc70.isEmpty then s.arrivalFree (.mgmt m) else s.arrivalPort (.mgmt m) x.adv

/-- The wall cycle ends. -/
def State.endWall (s : State) : State :=
  let s := (s.mgmtArrivals 0).mgmtArrivals 1
  let s := (tab s.troupes.length id).foldl (fun s t => s.endTroupe t) s
  let s := s.pruneBus.fireTrigs
  let s := if s.released then s.countWall else s
  { s with wall := s.wall + 1, cursor := .idle }

/-- Arrivals while no bundle issues (R23, R228). -/
def State.freeArrivals (s : State) (t n : Nat) : State := (tab n id).foldl (fun s r => s.arrivalFree (.core t r)) s

/-- The first core of a troupe for which a row is due. -/
def Troupe.dueOf (tr : Troupe) (f : Nat → Core → Option Row) : Option Row :=
  (tr.cores.mapIdx fun r c => f r c).findSome? id

/-- A block of an `mgemv` that lands now (R212). -/
def Core.landsNow (c : Core) (now : Nat) : Option Nat :=
  (c.gemv.find? fun g => decide (g.next < g.arrived) && g.readA && (g.rem || g.due == now) && match g.st with
    | .ready _ => true
    | .arrived _ => true
    | _ => false).map (·.id)

/-- The boundary before a troupe's VCC cycle. -/
def State.nextTroupe (s : State) (t : Nat) : Move :=
  match s.troupe? t with
  | none => .go (if s.anyLate then { s with cursor := .late 0 } else s.endWall)
  | some tr =>
    let n := tr.cores.length
    let on (s : State) : State := { s with cursor := .troupe (t + 1) }
    if tr.loading || tr.cores.isEmpty then .go (on s)
    else if tr.st == .suspended then
      (match tr.resumeAt with
        | some w => if w ≤ s.wall then .go (s.resumeNow t) else .go (on (s.freeArrivals t n))
        | none => .go (on (s.freeArrivals t n)))
    else if tr.realign then .go (on (s.freeArrivals t n))
    else if tr.cores.any fun c => (c.reportAt tr.nextAdv).isSome then
      .go (s.setTroupe t { tr with cores := tr.cores.map fun c => c.takeReport tr.nextAdv })
    else match (tab n id).find? fun r => s.phaseReady (.core t r) tr.nextAdv with
    | some r => .run s (execPhaseComplete (.core t r))
    | none =>
      if !tr.raisedAll.isEmpty then .go (s.enterCycle t)
      else if (tr.st == .saving || tr.st == .restoring) && tr.routinesOver then
        (if tr.cores.any fun c => c.fin.isNone && c.inFlight tr.adv (tr.st == .saving) then
            .go (on (s.routineFault t tr))
          else if tr.st == .restoring then .run (on s) (execRestorePhaseEnd t)
          else if !tr.publishing then .go (s.beginPublication t tr)
          else if s.allPublished t tr && !s.saveWaits tr then .run (on s) (execSavePhaseEnd t)
          else .go (on ((s.handOvers t tr).freeArrivals t n)))
      else if tr.ended && !tr.publishing then .go (s.beginPublication t tr)
      else if s.retires t tr then .run (on s) (execTaskRetire t)
      else if tr.ended then
        -- no cycle follows the end of the last one: memory accepts what is left, and remote blocks leave (R39, R291)
        (match tr.dueOf fun r c => (c.landsNow tr.adv).map fun id => execMgemvBlockLanding t r id with
          | some i => .run s i
          | none => .go (on ((s.handOvers t tr).freeArrivals t n)))
      else
        let hs := s.holdsOf t tr
        let stuck := if hs.isEmpty || !(hs.all fun h => h.code == 3 || (h.slot == some 2 && h.code != 8)) then none
          else tr.dueOf fun r c => (c.stuckOn tr.nextAdv tr.adv).map fun id => execCopyDeferredFailure (.core t r) id
        if let some row := stuck then .run s row
        else if !hs.isEmpty then
          (if tr.overLimit hs then .run s (execHoldLimitFault t)
            else if s.stealNeeded t then .run (on (s.heldCycle t hs)) (execStolenBankCycle t)
            else .go (on (s.heldCycle t hs)))
        else if !tr.holds.isEmpty then .run s (execHoldEnd t)
        else .go (s.enterCycle t)

/-- The trace sample of this VCC value has been taken (R381). -/
def Troupe.sampled (tr : Troupe) : Bool :=
  tr.trec.any fun r => fld r.2.toNat 68 4 == 3 && fld r.2.toNat 128 64 == tr.vcc.toNat

/-- A sample is due in this cycle. -/
def State.sampleDue (s : State) (tr : Troupe) : Bool :=
  let b := s.bank tr.part
  b.dbSper != 0 && tr.vcc.toNat % 2 ^ b.dbSper.toNat == 0 && tr.st == .running && tr.freshCycle && b.dbEn[2] && !tr.sampled

/-- The results of a troupe's cycle, then its bundles. -/
def State.nextPerf (s : State) (t : Nat) : Move :=
  match s.troupe? t with
  | none => .go { s with cursor := .troupe (t + 1) }
  | some tr =>
    match tr.dueOf fun r c => (c.landsNow tr.adv).map fun id => execMgemvBlockLanding t r id with
    | some i => .run s i
    | none =>
      if tr.cores.any fun c => c.anyReady tr.adv then .run s (execResultPerforms (.troupe t))
      else match tr.dueOf fun r c => c.dueRow (.core t r) tr.adv with
      | some i => .run s i
      | none =>
        if !tr.raisedAll.isEmpty then .go { s with cursor := .fin t }
        else
          let s := if tr.st == .running && tr.freshCycle && s.atSafePoint t tr then s.setTroupe t { tr with n0 := tr.adv }
            else s
          .go { s with cursor := .bundle t 0 }

/-- The next bundle of a troupe's cycle. -/
def State.nextBundle (s : State) (t r : Nat) : Move :=
  match s.troupe? t with
  | none => .go { s with cursor := .troupe (t + 1) }
  | some tr =>
    let on : Move := .go { s with cursor := .bundle t (r + 1) }
    if r = 0 && s.tooFar t tr then .run s (execSafePointDistanceFault t)
    else if r = 0 && !tr.raisedAll.isEmpty then .go { s with cursor := .fin t }
    else if r = 0 && s.preempts t tr then .run s (execPreemptionTaken t)
    else if r = 0 && s.sampleDue tr then .run s (execTraceSample t)
    else match tr.cores[r]? with
    | none => .go { s with cursor := if tr.anyLate then .troupe (t + 1) else .fin t }
    | some c =>
      let a : Agent := .core t r
      if c.idle || c.done == 0xFF then on
      else
        let past := match c.xfer with
          | some (k, g) => if tr.inRoutine && k ≤ 2 && g == s.streamEnd a then some k else none
          | none => none
        match past with
        | some k =>
          let c' : Core := if k ≤ 1 then { c with pc := s.streamEnd a, xfer := none, done := 0xFF }
            else { c with xfer := some (k - 1, s.streamEnd a), done := 0xFF }
          .go { s.setCore a c' with cursor := .bundle t (r + 1) }
        | none =>
          if tr.inRoutine && c.pc == s.streamEnd a then .run s (execRoutineEnd t r)
          else if (s.idleCore t r).isSome then .run s (execIdleBundle a)
          else .run s (execBundleIssue a)

/-- The next word of a bundle. -/
def State.nextWordMove (s : State) (t r w : Nat) : Move :=
  match s.troupe? t, s.core? (.core t r) with
  | some tr, some c =>
    let a : Agent := .core t r
    let on : Move := .go { s with cursor := if c.late.isSome then .late 1 else .bundle t (r + 1) }
    if c.failed || (c.stop.any fun k => decide (k ≤ w)) || 8 < w then on
    else if c.late.isNone && 6 ≤ w && !c.done.getLsbD w && isCalliope w (s.word a c w) then
      .go { s.setCore a { c with late := some [] } with cursor := .bundle t (r + 1) }
    else if w = 8 then .run s (execBundleIssue a)
    else if c.done.getLsbD w then .go { s with cursor := .word t r (w + 1) }
    else
      let it : Iss := ⟨a, w, tr.adv, c⟩
      match s.fetchWord it (some tr.image) with
      | .ok i => .instr s i
      | .error e => .go (s.except it (s.ownWord it) e)
  | _, _ => .go { s with cursor := .troupe (t + 1) }

/-- The end of a troupe's cycle: commands that start with no delay, and the last results; then the cursor passes to
`after`. -/
def State.nextFin (s : State) (t : Nat) (after : Cursor) : Move :=
  match s.troupe? t with
  | none => .go { s with cursor := after }
  | some tr =>
    match tr.dueOf fun r c => (c.startsNow tr.adv).map fun id => execCopyStart (.core t r) id with
    | some i => .run s i
    | none =>
      if tr.cores.any fun c => c.anyReady tr.adv then .run s (execResultPerforms (.troupe t))
      else .go { s.finCycle t with cursor := after }

/-- After the troupes: the Calliope words that were set aside are judged together (R30, R239), they and what follows them in
their bundles take effect, and the cycles of their troupes end. -/
def State.nextLate (s : State) : Nat → Move
  | 0 => .go { s.judgeLate with cursor := .late 1 }
  | 1 => match s.lateRun with
    | some (t, r, w) => .go { s with cursor := .word t r w }
    | none => .go { s with cursor := .late 2 }
  | t + 2 =>
    match s.troupe? t with
    | none => .go s.endWall
    | some tr =>
      if tr.anyLate then s.nextFin t (.late (t + 3)) else .go { s with cursor := .late (t + 3) }

/-- What the machine does next. -/
def State.nextMove (s : State) : Move :=
  match s.cursor with
  | .idle => s.nextIdle
  | .auto k => s.nextAuto k
  | .mgmt m => s.nextMgmt m
  | .mword m w => s.nextMword m w
  | .troupe t => s.nextTroupe t
  | .perf t => s.nextPerf t
  | .bundle t r => s.nextBundle t r
  | .word t r w => s.nextWordMove t r w
  | .fin t => s.nextFin t (.troupe (t + 1))
  | .late k => s.nextLate k

end Sys2Proof.Machine
end

