-- ==== Sys2Proof/Machine/Dispatch.lean ====
section
/-!
DEFINITION. The dispatch: one arm for each constructor of Instr.
-/

namespace Sys2Proof.Machine

def exec (i : Instr) (s : State) : Host.Outcome State Fault Refusal :=
  match i with
  | .bundleIssue a => Sys2Proof.Machine.execBundleIssue a s
  | .idleBundle a => Sys2Proof.Machine.execIdleBundle a s
  | .nop => Sys2Proof.Machine.execNop s
  | .resultPerforms w => Sys2Proof.Machine.execResultPerforms w s
  | .add pd d a b => Sys2Proof.Machine.execAdd pd d a b s
  | .sub pd d a b => Sys2Proof.Machine.execSub pd d a b s
  | .mul pd d a b => Sys2Proof.Machine.execMul pd d a b s
  | .mulh pd d a b => Sys2Proof.Machine.execMulh pd d a b s
  | .mulhu pd d a b => Sys2Proof.Machine.execMulhu pd d a b s
  | .div pd d a b => Sys2Proof.Machine.execDiv pd d a b s
  | .divu pd d a b => Sys2Proof.Machine.execDivu pd d a b s
  | .rem_ pd d a b => Sys2Proof.Machine.execRem pd d a b s
  | .remu pd d a b => Sys2Proof.Machine.execRemu pd d a b s
  | .and_ pd d a b => Sys2Proof.Machine.execAnd pd d a b s
  | .or_ pd d a b => Sys2Proof.Machine.execOr pd d a b s
  | .xor_ pd d a b => Sys2Proof.Machine.execXor pd d a b s
  | .andn pd d a b => Sys2Proof.Machine.execAndn pd d a b s
  | .min_ pd d a b => Sys2Proof.Machine.execMin pd d a b s
  | .max_ pd d a b => Sys2Proof.Machine.execMax pd d a b s
  | .minu pd d a b => Sys2Proof.Machine.execMinu pd d a b s
  | .maxu pd d a b => Sys2Proof.Machine.execMaxu pd d a b s
  | .shl pd d a b => Sys2Proof.Machine.execShl pd d a b s
  | .shr pd d a b => Sys2Proof.Machine.execShr pd d a b s
  | .sar pd d a b => Sys2Proof.Machine.execSar pd d a b s
  | .rol pd d a b => Sys2Proof.Machine.execRol pd d a b s
  | .clz pd d a => Sys2Proof.Machine.execClz pd d a s
  | .ctz pd d a => Sys2Proof.Machine.execCtz pd d a s
  | .popc pd d a => Sys2Proof.Machine.execPopc pd d a s
  | .sel pd d a b c => Sys2Proof.Machine.execSel pd d a b c s
  | .cmp pd cc d a b => Sys2Proof.Machine.execCmp pd cc d a b s
  | .cmpp pd cc d a b => Sys2Proof.Machine.execCmpp pd cc d a b s
  | .addi pd d a imm => Sys2Proof.Machine.execAddi pd d a imm s
  | .andi pd d a imm => Sys2Proof.Machine.execAndi pd d a imm s
  | .ori pd d a imm => Sys2Proof.Machine.execOri pd d a imm s
  | .xori pd d a imm => Sys2Proof.Machine.execXori pd d a imm s
  | .shli pd d a n => Sys2Proof.Machine.execShli pd d a n s
  | .shri pd d a n => Sys2Proof.Machine.execShri pd d a n s
  | .sari pd d a n => Sys2Proof.Machine.execSari pd d a n s
  | .muli pd d a imm => Sys2Proof.Machine.execMuli pd d a imm s
  | .cmpi pd cc d a imm => Sys2Proof.Machine.execCmpi pd cc d a imm s
  | .cmppi pd cc d a imm => Sys2Proof.Machine.execCmppi pd cc d a imm s
  | .li pd d imm => Sys2Proof.Machine.execLi pd d imm s
  | .lui pd d a imm => Sys2Proof.Machine.execLui pd d a imm s
  | .fmt pd f a imm => Sys2Proof.Machine.execFmt pd f a imm s
  | .br pd disp => Sys2Proof.Machine.execBr pd disp s
  | .jr pd a => Sys2Proof.Machine.execJr pd a s
  | .call pd d disp => Sys2Proof.Machine.execCall pd d disp s
  | .callr pd d a => Sys2Proof.Machine.execCallr pd d a s
  | .ret pd a => Sys2Proof.Machine.execRet pd a s
  | .loop pd lvl disp => Sys2Proof.Machine.execLoop pd lvl disp s
  | .ldb pd d a off sz sx rv => Sys2Proof.Machine.execLdb pd d a off sz sx rv s
  | .stb pd d a off sz rv => Sys2Proof.Machine.execStb pd d a off sz rv s
  | .ldt pd d a off sz sx => Sys2Proof.Machine.execLdt pd d a off sz sx s
  | .stt pd d a off sz => Sys2Proof.Machine.execStt pd d a off sz s
  | .ldg pd d a off sz sx ac => Sys2Proof.Machine.execLdg pd d a off sz sx ac s
  | .stg pd d a off sz ac => Sys2Proof.Machine.execStg pd d a off sz ac s
  | .cadd pd a b => Sys2Proof.Machine.execCadd pd a b s
  | .cwait pd d a b dl => Sys2Proof.Machine.execCwait pd d a b dl s
  | .cwaitArmed pd d a dl => Sys2Proof.Machine.execCwaitArmed pd d a dl s
  | .carm pd a b => Sys2Proof.Machine.execCarm pd a b s
  | .cread pd d a => Sys2Proof.Machine.execCread pd d a s
  | .hgive pd a b => Sys2Proof.Machine.execHgive pd a b s
  | .htake pd a => Sys2Proof.Machine.execHtake pd a s
  | .hquery pd d a => Sys2Proof.Machine.execHquery pd d a s
  | .phase pd scope => Sys2Proof.Machine.execPhase pd scope s
  | .realign pd => Sys2Proof.Machine.execRealign pd s
  | .locq pd d a => Sys2Proof.Machine.execLocq pd d a s
  | .csrr pd d csr => Sys2Proof.Machine.execCsrr pd d csr s
  | .csrw pd csr a => Sys2Proof.Machine.execCsrw pd csr a s
  | .trap pd code a => Sys2Proof.Machine.execTrap pd code a s
  | .syscRetire pd a => Sys2Proof.Machine.execSyscRetire pd a s
  | .syscCall pd d code a => Sys2Proof.Machine.execSyscCall pd d code a s
  | .sprd pd d code => Sys2Proof.Machine.execSprd pd d code s
  | .spwr pd code a => Sys2Proof.Machine.execSpwr pd code a s
  | .eret pd => Sys2Proof.Machine.execEret pd s
  | .halt pd => Sys2Proof.Machine.execHalt pd s
  | .haltWake m => Sys2Proof.Machine.execHaltWake m s
  | .vadd pd d a b => Sys2Proof.Machine.execVadd pd d a b s
  | .vsub pd d a b => Sys2Proof.Machine.execVsub pd d a b s
  | .vmul pd d a b => Sys2Proof.Machine.execVmul pd d a b s
  | .vfma pd d a b c => Sys2Proof.Machine.execVfma pd d a b c s
  | .vfnma pd d a b c => Sys2Proof.Machine.execVfnma pd d a b c s
  | .vmin pd d a b => Sys2Proof.Machine.execVmin pd d a b s
  | .vmax pd d a b => Sys2Proof.Machine.execVmax pd d a b s
  | .vabs pd d a => Sys2Proof.Machine.execVabs pd d a s
  | .vneg pd d a => Sys2Proof.Machine.execVneg pd d a s
  | .vcmp pd cc d a b => Sys2Proof.Machine.execVcmp pd cc d a b s
  | .fclass pd d a => Sys2Proof.Machine.execFclass pd d a s
  | .cvt pd kind mode d a f => Sys2Proof.Machine.execCvt pd kind mode d a f s
  | .viadd pd d a b => Sys2Proof.Machine.execViadd pd d a b s
  | .visub pd d a b => Sys2Proof.Machine.execVisub pd d a b s
  | .vimul pd d a b => Sys2Proof.Machine.execVimul pd d a b s
  | .vimin pd d a b => Sys2Proof.Machine.execVimin pd d a b s
  | .vimax pd d a b => Sys2Proof.Machine.execVimax pd d a b s
  | .viminu pd d a b => Sys2Proof.Machine.execViminu pd d a b s
  | .vimaxu pd d a b => Sys2Proof.Machine.execVimaxu pd d a b s
  | .vand pd d a b => Sys2Proof.Machine.execVand pd d a b s
  | .vor pd d a b => Sys2Proof.Machine.execVor pd d a b s
  | .vxor pd d a b => Sys2Proof.Machine.execVxor pd d a b s
  | .vshl pd d a b => Sys2Proof.Machine.execVshl pd d a b s
  | .vshr pd d a b => Sys2Proof.Machine.execVshr pd d a b s
  | .vsar pd d a b => Sys2Proof.Machine.execVsar pd d a b s
  | .vicmp pd cc d a b => Sys2Proof.Machine.execVicmp pd cc d a b s
  | .vsel pd d a b ps => Sys2Proof.Machine.execVsel pd d a b ps s
  | .vexp2 pd d a => Sys2Proof.Machine.execVexp2 pd d a s
  | .vlog2 pd d a => Sys2Proof.Machine.execVlog2 pd d a s
  | .vrcp pd d a => Sys2Proof.Machine.execVrcp pd d a s
  | .vrsqrt pd d a => Sys2Proof.Machine.execVrsqrt pd d a s
  | .vsqrt pd d a => Sys2Proof.Machine.execVsqrt pd d a s
  | .vsin pd d a => Sys2Proof.Machine.execVsin pd d a s
  | .vcos pd d a => Sys2Proof.Machine.execVcos pd d a s
  | .vtanh pd d a => Sys2Proof.Machine.execVtanh pd d a s
  | .vsigm pd d a => Sys2Proof.Machine.execVsigm pd d a s
  | .vgelu pd d a => Sys2Proof.Machine.execVgelu pd d a s
  | .verf pd d a => Sys2Proof.Machine.execVerf pd d a s
  | .rotr pd d a x3 imm => Sys2Proof.Machine.execRotr pd d a x3 imm s
  | .rotc pd d a x3 imm => Sys2Proof.Machine.execRotc pd d a x3 imm s
  | .bcr pd d a x3 imm => Sys2Proof.Machine.execBcr pd d a x3 imm s
  | .bcc pd d a x3 imm => Sys2Proof.Machine.execBcc pd d a x3 imm s
  | .redr pd op d a => Sys2Proof.Machine.execRedr pd op d a s
  | .redc pd op d a => Sys2Proof.Machine.execRedc pd op d a s
  | .vsplat pd d x2 imm => Sys2Proof.Machine.execVsplat pd d x2 imm s
  | .vsplatQ pd d q => Sys2Proof.Machine.execVsplatQ pd d q s
  | .vext pd sx d a x4 imm => Sys2Proof.Machine.execVext pd sx d a x4 imm s
  | .vextQ pd d q => Sys2Proof.Machine.execVextQ pd d q s
  | .vins pd d a x3 idx => Sys2Proof.Machine.execVins pd d a x3 idx s
  | .pcnt pd d a x3 imm => Sys2Proof.Machine.execPcnt pd d a x3 imm s
  | .ppop pd d a => Sys2Proof.Machine.execPpop pd d a s
  | .pand pd d a b => Sys2Proof.Machine.execPand pd d a b s
  | .por pd d a b => Sys2Proof.Machine.execPor pd d a b s
  | .pxor pd d a b => Sys2Proof.Machine.execPxor pd d a b s
  | .pandn pd d a b => Sys2Proof.Machine.execPandn pd d a b s
  | .pnot pd d a => Sys2Proof.Machine.execPnot pd d a s
  | .vld pd d net row f x5 => Sys2Proof.Machine.execVld pd d net row f x5 s
  | .vst pd d row f x4 => Sys2Proof.Machine.execVst pd d row f x4 s
  | .vldt pd d x2 col => Sys2Proof.Machine.execVldt pd d x2 col s
  | .vstt pd d x2 col => Sys2Proof.Machine.execVstt pd d x2 col s
  | .vldg pd d f ac x4 => Sys2Proof.Machine.execVldg pd d f ac x4 s
  | .vldgFf pd d cnt f ac x5 => Sys2Proof.Machine.execVldgFf pd d cnt f ac x5 s
  | .vstg pd d f ac x4 => Sys2Proof.Machine.execVstg pd d f ac x4 s
  | .solve pd q d a cnt slot => Sys2Proof.Machine.execSolve pd q d a cnt slot s
  | .sort pd kt asc d a cnt qd qn => Sys2Proof.Machine.execSort pd kt asc d a cnt qd qn s
  | .topk pd kt asc d a cnt qd qn k => Sys2Proof.Machine.execTopk pd kt asc d a cnt qd qn k s
  | .cntoff pd d a cnt qd qn k => Sys2Proof.Machine.execCntoff pd d a cnt qd qn k s
  | .pfx pd kt exc d a cnt qd qn => Sys2Proof.Machine.execPfx pd kt exc d a cnt qd qn s
  | .comp pd kt d a cnt qd qn => Sys2Proof.Machine.execComp pd kt d a cnt qd qn s
  | .radd pd d a b => Sys2Proof.Machine.execRadd pd d a b s
  | .rmul pd d a b => Sys2Proof.Machine.execRmul pd d a b s
  | .rnar pd d a => Sys2Proof.Machine.execRnar pd d a s
  | .rshr pd d a n => Sys2Proof.Machine.execRshr pd d a n s
  | .rleak pd d a n f => Sys2Proof.Machine.execRleak pd d a n f s
  | .rmark pd x1 => Sys2Proof.Machine.execRmark pd x1 s
  | .uadd pd d a b => Sys2Proof.Machine.execUadd pd d a b s
  | .umul pd d a b => Sys2Proof.Machine.execUmul pd d a b s
  | .unar pd d a => Sys2Proof.Machine.execUnar pd d a s
  | .ushr pd d a n => Sys2Proof.Machine.execUshr pd d a n s
  | .uleak pd d a n f => Sys2Proof.Machine.execUleak pd d a n f s
  | .ucheck pd x1 => Sys2Proof.Machine.execUcheck pd x1 s
  | .mldw pd wb a f rows => Sys2Proof.Machine.execMldw pd wb a f rows s
  | .mldwt pd wb a f rows col => Sys2Proof.Machine.execMldwt pd wb a f rows col s
  | .mzero pd acc => Sys2Proof.Machine.execMzero pd acc s
  | .mzeroInt pd acc f => Sys2Proof.Machine.execMzeroInt pd acc f s
  | .macc pd acc wb a f rows xa xb sc sp => Sys2Proof.Machine.execMacc pd acc wb a f rows xa xb sc sp s
  | .maccp pd acc wb a f rows xa xb sc => Sys2Proof.Machine.execMaccp pd acc wb a f rows xa xb sc s
  | .mscale pd acc a => Sys2Proof.Machine.execMscale pd acc a s
  | .mswap pd => Sys2Proof.Machine.execMswap pd s
  | .mcomp pd wb a f => Sys2Proof.Machine.execMcomp pd wb a f s
  | .mdrain pd acc a f rows res r drp ks ko => Sys2Proof.Machine.execMdrain pd acc a f rows res r drp ks ko s
  | .mdrainRev pd acc a f rows r => Sys2Proof.Machine.execMdrainRev pd acc a f rows r s
  | .mdrainUndo pd acc a f rows r => Sys2Proof.Machine.execMdrainUndo pd acc a f rows r s
  | .msave pd acc a rows => Sys2Proof.Machine.execMsave pd acc a rows s
  | .mrstr pd acc a rows => Sys2Proof.Machine.execMrstr pd acc a rows s
  | .mcall pd entry k a => Sys2Proof.Machine.execMcall pd entry k a s
  | .mset pd k a => Sys2Proof.Machine.execMset pd k a s
  | .mgemv pd k a b f => Sys2Proof.Machine.execMgemv pd k a b f s
  | .mend pd => Sys2Proof.Machine.execMend pd s
  | .mgemvBlockLanding t r id => Sys2Proof.Machine.execMgemvBlockLanding t r id s
  | .xcpy pd d a n pat dly => Sys2Proof.Machine.execXcpy pd d a n pat dly s
  | .xfill pd d a n h ac dly => Sys2Proof.Machine.execXfill pd d a n h ac dly s
  | .xstore pd d a n h ac dly => Sys2Proof.Machine.execXstore pd d a n h ac dly s
  | .xtld pd d a n f ac dly => Sys2Proof.Machine.execXtld pd d a n f ac dly s
  | .xtst pd d a n f ac dly => Sys2Proof.Machine.execXtst pd d a n f ac dly s
  | .xrsp pd a n ac dly => Sys2Proof.Machine.execXrsp pd a n ac dly s
  | .xrfl pd a n ac dly => Sys2Proof.Machine.execXrfl pd a n ac dly s
  | .xmig pd a n kind dly => Sys2Proof.Machine.execXmig pd a n kind dly s
  | .xscl pd x a dly => Sys2Proof.Machine.execXscl pd x a dly s
  | .xwin pd d a map cm f ac dly => Sys2Proof.Machine.execXwin pd d a map cm f ac dly s
  | .xrows pd d a map ac dly => Sys2Proof.Machine.execXrows pd d a map ac dly s
  | .xrowsSc pd d a map ac dly => Sys2Proof.Machine.execXrowsSc pd d a map ac dly s
  | .xmcast pd d a n ctr dly => Sys2Proof.Machine.execXmcast pd d a n ctr dly s
  | .xsend pd d a n ctr ac dly => Sys2Proof.Machine.execXsend pd d a n ctr ac dly s
  | .xsendMsg pd a rcv ch dly => Sys2Proof.Machine.execXsendMsg pd a rcv ch dly s
  | .xget pd d a n ctr ac dly => Sys2Proof.Machine.execXget pd d a n ctr ac dly s
  | .xrts pd a n ctr dly => Sys2Proof.Machine.execXrts pd a n ctr dly s
  | .xbat pd aop a n ctr ac dly => Sys2Proof.Machine.execXbat pd aop a n ctr ac dly s
  | .xenq pd a q ctr ac dly => Sys2Proof.Machine.execXenq pd a q ctr ac dly s
  | .cdrive pd a => Sys2Proof.Machine.execCdrive pd a s
  | .ccatch pd a pos => Sys2Proof.Machine.execCcatch pd a pos s
  | .copyStart a id => Sys2Proof.Machine.execCopyStart a id s
  | .copyPieceArrival a id piece res => Sys2Proof.Machine.execCopyPieceArrival a id piece res s
  | .storeBufferAccept a id piece res => Sys2Proof.Machine.execStoreBufferAccept a id piece res s
  | .copyDeferredFailure a id => Sys2Proof.Machine.execCopyDeferredFailure a id s
  | .arrivalReceived id => Sys2Proof.Machine.execArrivalReceived id s
  | .stolenBankCycle t => Sys2Proof.Machine.execStolenBankCycle t s
  | .counterOperation id => Sys2Proof.Machine.execCounterOperation id s
  | .counterRefusal id => Sys2Proof.Machine.execCounterRefusal id s
  | .counterReport a => Sys2Proof.Machine.execCounterReport a s
  | .cwaitDeadlineExpiry a => Sys2Proof.Machine.execCwaitDeadlineExpiry a s
  | .routeSwap id => Sys2Proof.Machine.execRouteSwap id s
  | .batchedAtomicExecute id => Sys2Proof.Machine.execBatchedAtomicExecute id s
  | .messageDelivery id => Sys2Proof.Machine.execMessageDelivery id s
  | .loadDataArrival a id => Sys2Proof.Machine.execLoadDataArrival a id s
  | .walkComplete a id cached => Sys2Proof.Machine.execWalkComplete a id cached s
  | .deferredFault a => Sys2Proof.Machine.execDeferredFault a s
  | .phaseComplete a => Sys2Proof.Machine.execPhaseComplete a s
  | .storePathDrain a => Sys2Proof.Machine.execStorePathDrain a s
  | .holdEnd t => Sys2Proof.Machine.execHoldEnd t s
  | .holdLimitFault t => Sys2Proof.Machine.execHoldLimitFault t s
  | .safePointDistanceFault t => Sys2Proof.Machine.execSafePointDistanceFault t s
  | .frameTick => Sys2Proof.Machine.execFrameTick s
  | .realignRelabel t => Sys2Proof.Machine.execRealignRelabel t s
  | .preemptionTaken t => Sys2Proof.Machine.execPreemptionTaken t s
  | .savePhaseEnd t => Sys2Proof.Machine.execSavePhaseEnd t s
  | .restorePhaseEnd t => Sys2Proof.Machine.execRestorePhaseEnd t s
  | .routineEnd t r => Sys2Proof.Machine.execRoutineEnd t r s
  | .taskRetire t => Sys2Proof.Machine.execTaskRetire t s
  | .faultRecordWrite part => Sys2Proof.Machine.execFaultRecordWrite part s
  | .interruptTaken m => Sys2Proof.Machine.execInterruptTaken m s
  | .resume t => Sys2Proof.Machine.execResume t s
  | .retire t status => Sys2Proof.Machine.execRetire t status s
  | .requestPreemption t cause => Sys2Proof.Machine.execRequestPreemption t cause s
  | .withdrawRequest t hyp => Sys2Proof.Machine.execWithdrawRequest t hyp s
  | .hvPartWrite m v => Sys2Proof.Machine.execHvPartWrite m v s
  | .systemRegisterWrite m code v lvl => Sys2Proof.Machine.execSystemRegisterWrite m code v lvl s
  | .keeperCharge vf c => Sys2Proof.Machine.execKeeperCharge vf c s
  | .settlement => Sys2Proof.Machine.execSettlement s
  | .enQuotaWrite v => Sys2Proof.Machine.execEnQuotaWrite v s
  | .enCtlWrite v => Sys2Proof.Machine.execEnCtlWrite v s
  | .distributorRound => Sys2Proof.Machine.execDistributorRound s
  | .troupeStart t => Sys2Proof.Machine.execTroupeStart t s
  | .launchWaitExpired vf q => Sys2Proof.Machine.execLaunchWaitExpired vf q s
  | .queueDoorbell vf q t => Sys2Proof.Machine.execQueueDoorbell vf q t s
  | .ctAllocate m v => Sys2Proof.Machine.execCtAllocate m v s
  | .ctFree m v => Sys2Proof.Machine.execCtFree m v s
  | .topologyCommand => Sys2Proof.Machine.execTopologyCommand s
  | .topologyGo held ends => Sys2Proof.Machine.execTopologyGo held ends s
  | .topologyGoExpired => Sys2Proof.Machine.execTopologyGoExpired s
  | .create addr => Sys2Proof.Machine.execCreate addr s
  | .resize addr => Sys2Proof.Machine.execResize addr s
  | .remove addr => Sys2Proof.Machine.execRemove addr s
  | .destroy addr force => Sys2Proof.Machine.execDestroy addr force s
  | .mode_ addr force => Sys2Proof.Machine.execMode addr force s
  | .partitionChangeApplied => Sys2Proof.Machine.execPartitionChangeApplied s
  | .ptResRead m d => Sys2Proof.Machine.execPtResRead m d s
  | .invalidateRange m asid npg lvl => Sys2Proof.Machine.execInvalidateRange m asid npg lvl s
  | .invalidateAsid m asid lvl => Sys2Proof.Machine.execInvalidateAsid m asid lvl s
  | .invalidatePartition m => Sys2Proof.Machine.execInvalidatePartition m s
  | .invalidationComplete part => Sys2Proof.Machine.execInvalidationComplete part s
  | .migrationClaim part => Sys2Proof.Machine.execMigrationClaim part s
  | .migrationCopy id => Sys2Proof.Machine.execMigrationCopy id s
  | .migrationSwitch id => Sys2Proof.Machine.execMigrationSwitch id s
  | .migrationEnd id => Sys2Proof.Machine.execMigrationEnd id s
  | .migrationHint => Sys2Proof.Machine.execMigrationHint s
  | .migrationTakeover => Sys2Proof.Machine.execMigrationTakeover s
  | .writeMessage m via => Sys2Proof.Machine.execWriteMessage m via s
  | .readRequest m via => Sys2Proof.Machine.execReadRequest m via s
  | .readResponse m via => Sys2Proof.Machine.execReadResponse m via s
  | .fenceMarker m via => Sys2Proof.Machine.execFenceMarker m via s
  | .markerAcknowledgement m via => Sys2Proof.Machine.execMarkerAcknowledgement m via s
  | .acknowledgement m via => Sys2Proof.Machine.execAcknowledgement m via s
  | .refusal m via => Sys2Proof.Machine.execRefusal m via s
  | .planeDown m via => Sys2Proof.Machine.execPlaneDown m via s
  | .resendTimeout id => Sys2Proof.Machine.execResendTimeout id s
  | .ackTimeout id => Sys2Proof.Machine.execAckTimeout id s
  | .linkDown edge plane => Sys2Proof.Machine.execLinkDown edge plane s
  | .quiesceDrainDone => Sys2Proof.Machine.execQuiesceDrainDone s
  | .quiesceTimeout => Sys2Proof.Machine.execQuiesceTimeout s
  | .kill plane => Sys2Proof.Machine.execKill plane s
  | .revive plane => Sys2Proof.Machine.execRevive plane s
  | .laserOn port => Sys2Proof.Machine.execLaserOn port s
  | .lock_ port wl => Sys2Proof.Machine.execLock port wl s
  | .train port wl => Sys2Proof.Machine.execTrain port wl s
  | .map_ port => Sys2Proof.Machine.execMap port s
  | .enable port => Sys2Proof.Machine.execEnable port s
  | .drain port => Sys2Proof.Machine.execDrain port s
  | .disable port => Sys2Proof.Machine.execDisable port s
  | .laserOff port => Sys2Proof.Machine.execLaserOff port s
  | .opticalCommandEnd port locked eyew eyeh peer => Sys2Proof.Machine.execOpticalCommandEnd port locked eyew eyeh peer s
  | .lossOfSignal port wl => Sys2Proof.Machine.execLossOfSignal port wl s
  | .rtDataWrite m v => Sys2Proof.Machine.execRtDataWrite m v s
  | .counterMove src dst => Sys2Proof.Machine.execCounterMove src dst s
  | .counterMoveComplete => Sys2Proof.Machine.execCounterMoveComplete s
  | .cxlPoison a id => Sys2Proof.Machine.execCxlPoison a id s
  | .cxlLinkDown port => Sys2Proof.Machine.execCxlLinkDown port s
  | .memoryError a e word => Sys2Proof.Machine.execMemoryError a e word s
  | .traceSample t => Sys2Proof.Machine.execTraceSample t s
  | .dbProfWrite m v => Sys2Proof.Machine.execDbProfWrite m v s
  | .dbGrantWrite m v => Sys2Proof.Machine.execDbGrantWrite m v s
  | .opDigWrite port v => Sys2Proof.Machine.execOpDigWrite port v s
  | .powerOnReset => Sys2Proof.Machine.execPowerOnReset s
  | .packageReset => Sys2Proof.Machine.execPackageReset s
  | .hostPortReset => Sys2Proof.Machine.execHostPortReset s
  | .mailboxDoorbell cmd args ring => Sys2Proof.Machine.execMailboxDoorbell cmd args ring s
  | .load => Sys2Proof.Machine.execLoad s
  | .boot => Sys2Proof.Machine.execBoot s
  | .commit => Sys2Proof.Machine.execCommit s
  | .setf => Sys2Proof.Machine.execSetf s
  | .setv => Sys2Proof.Machine.execSetv s
  | .powerStateReached => Sys2Proof.Machine.execPowerStateReached s
  | .gate => Sys2Proof.Machine.execGate s
  | .ungate => Sys2Proof.Machine.execUngate s
  | .resetd => Sys2Proof.Machine.execResetd s
  | .attest => Sys2Proof.Machine.execAttest s
  | .fwd => Sys2Proof.Machine.execFwd s
  | .mbRespWrite v => Sys2Proof.Machine.execMbRespWrite v s
  | .btCtlRelease v => Sys2Proof.Machine.execBtCtlRelease v s
  | .clamp => Sys2Proof.Machine.execClamp s
  | .thermalTrip => Sys2Proof.Machine.execThermalTrip s
  | .monitorSample die smp => Sys2Proof.Machine.execMonitorSample die smp s
  | .droopVminWrite die j => Sys2Proof.Machine.execDroopVminWrite die j s
  | .cxlLinkUp port => Sys2Proof.Machine.execCxlLinkUp port s
  | .ucieLinkRetrained edge plane old => Sys2Proof.Machine.execUcieLinkRetrained edge plane old s
  | .hostPortLinkChange port gen wid => Sys2Proof.Machine.execHostPortLinkChange port gen wid s
  | .hostMemoryAccess acc => Sys2Proof.Machine.execHostMemoryAccess acc s
  | .ungateComplete => Sys2Proof.Machine.execUngateComplete s
  | .dieResetComplete => Sys2Proof.Machine.execDieResetComplete s

end Sys2Proof.Machine
end

