-- ==== Sys2Proof/Machine/Step.lean ====
section
/-!
DEFINITION. One step, and the placing of an instruction where the next step runs it.
-/

namespace Sys2Proof.Machine

/-- One step: a word or an input is executed, a row's meaning runs, or the order of the wall cycle moves on. -/
def step (s : State) : Host.Outcome State Fault Refusal :=
  match s.nextMove with
  | .go s' => .next s'
  | .run s' row => row s'
  | .instr s' i => exec i s'
  | .stop f => .fault f

/-- The code of a stream that holds one bundle, and the empty bundles behind it that its delay bundles may be. -/
def bundleStream (words : List Nat) : Stream :=
  let m0 : Mem := []
  { ranks := BitVec.allOnes 256, code := m0.write 0 (words.flatMap (leBytes 8)), bundles := 4, sps := [], bank := [] }

/-- A one-core troupe that runs a stream. -/
def troupeOf (num : Nat) (st : Stream) (c : Core) : Troupe :=
  let img : Image := { shape := 0, m := 1, dmax := 2 ^ 20, loop := gen 8 fun _ => 0, streams := [st], pats := [], routines := [] }
  { newTroupe num 0 0 0 Launch.none img 0 0 0 0 [c] with loading := false }

/-- The state in which the next step runs the given word: a management core at hypervisor level runs a privileged
word, a core of a troupe of its own any other (log 3). -/
def State.withFetchWord (s : State) (nbits w : Nat) : State :=
  let words := if nbits ≤ 64 then [0, 0, w % 2 ^ 64, 0, 0, 0, 0, 0] else tab 8 fun n => w / 2 ^ (64 * n) % 2 ^ 64
  let st := bundleStream words
  let k := ([2, 3, 4, 5, 6, 7].find? fun n => words.getD n 0 != 0).getD 8
  let op := words.getD 2 0 / 2 ^ 56
  let done : BitVec 8 := BitVec.ofNat 8 (2 ^ min k 8 - 1 - 1)
  if k = 2 && 0x78 ≤ op && op ≤ 0x7B then
    let x : Mgmt := { s.mg 0 with run := true, dead := false, lvl := 2, stream := st,
                                  core := { Core.launch with done := 2 } }
    { s.setMg 0 x with cursor := .mword 0 2 }
  else
    let t := s.troupes.length
    let c : Core := { Core.launch with done := if k = 8 then 0 else done, netw := BitVec.ofNat 64 (words.getD 1 0) }
    { s with troupes := s.troupes ++ [troupeOf t st c], cursor := if k = 8 then .bundle t 0 else .word t 0 k }

end Sys2Proof.Machine
end

