-- ==== Sys2Proof/Safety.lean ====
section
/-!
DEFINITION. What counts as a safe run: the well-formedness of a state, and steps that neither fault nor refuse.
-/

namespace Sys2Proof.Machine

/-- The plain memories of the package are in canonical form. -/
def State.memWf (s : State) : Bool := s.gmem.wf && s.hmem.wf && s.sram.wf

/-- A step that answers a next state. -/
def safeStep (s : State) : Prop := ∃ t, step s = .next t

/-- n steps in a row that answer next states, the last of them t. -/
def runs : Nat → State → State → Prop
  | 0, s, t => s = t
  | n + 1, s, t => ∃ u, step s = .next u ∧ runs n u t

end Sys2Proof.Machine
end

