-- ==== Sys2Proof/Certificates/Slice0/Obligations.lean ====
section
/-!
DEFINITION. The statements for the provers, from the numbered rules of the spec. The words that the statements share
stand first, in the namespace Claims.
-/

open Sys2Proof Sys2Proof.Machine

namespace Sys2Proof.Claims

/-! ## How a word takes effect -/

/-- Word `x` issues now, and its predicate makes the whole word active (R94). -/
def Runs (s : State) (x : Iss) (pd : Pd) : Prop := s.issuer = some x ∧ x.core.on pd = true

/-- A core of a troupe issues word `x`. -/
def OnCore (x : Iss) : Prop := ∃ t r, x.ag = .core t r

/-- The effect `e.2.1` of word `x` that performs at issue+`e.1`, raising the flags `e.2.2` (R19, R57). -/
def due (x : Iss) (e : Nat × Act × Fl) : Pend :=
  { due := x.now + e.1, iss := x.now, word := x.w, baddr := x.core.pc, act := e.2.1, flags := e.2.2,
    rtn := if x.w = 5 then x.core.rtnOn else none }

/-- The core `k` with further charges of one event each of the classes `cls`, on its own die (R288, R292). -/
def charged (k : Core) (cls : List Nat) : Core := { k with chg := k.chg ++ cls.map fun c => (k.die, c, 1) }

/-- Instruction `i` takes effect: word `x` is marked in the DONE mask, the next word follows, the issuing core is left as
`c`, and nothing else of the machine changes (`DidFrame`). -/
def Leaves (i : Instr) (s : State) (x : Iss) (c : Core) : Prop := exec i s = .next (s.did x c)

/-- Instruction `i` changes nothing of the core in its issue cycle but for its charges of the classes `cls`: all its effects
perform later, and are the ones listed. -/
def Later (i : Instr) (s : State) (x : Iss) (cls : List Nat) (es : List (Nat × Act × Fl)) : Prop :=
  Leaves i s x { charged x.core cls with pend := x.core.pend ++ es.map (due x) }

/-- The same for a word that also marks the core, which leaves it as `k` (a unit's last issue, a stack's last use). -/
def LaterFrom (k : Core) (i : Instr) (s : State) (x : Iss) (cls : List Nat) (es : List (Nat × Act × Fl)) : Prop :=
  Leaves i s x { charged k cls with pend := k.pend ++ es.map (due x) }

/-- The charges of a vector word: one event of class `k` where an element is active, else none (R292). -/
def vcls (x : Iss) (pd : Pd) (k : Nat) : List Nat := if x.core.mask pd = 0 then [] else [k]

/-- A vector word whose one effect is that v[d] receives `(g e).1` in each active element e at issue+`lat`, an inactive
element keeping its value, with the flags `(g e).2` of exactly the active elements (R140, R142). -/
def WritesV (k : Core) (i : Instr) (s : State) (x : Iss) (pd : Pd) (cls lat : Nat) (d : VRegN)
    (g : Nat → BitVec 32 × Fl) : Prop :=
  ∃ (v : VReg) (fl : Fl), LaterFrom k i s x (vcls x pd cls) [(lat, .wV d v (x.core.mask pd), fl)] ∧
    (∀ e, e < 1024 → (x.core.mask pd).getLsbD e = true → el v e = (g e).1) ∧
    (∀ j, fl.getLsbD j = true ↔ ∃ e, e < 1024 ∧ (x.core.mask pd).getLsbD e = true ∧ (g e).2.getLsbD j = true)

/-- A vector word whose one effect is that p[d] receives `b e` in each active element e at issue+`lat`, and 0 in the others
(R140), with the flags `f e` of the active elements. -/
def WritesP (i : Instr) (s : State) (x : Iss) (pd : Pd) (lat : Nat) (d : PReg) (b : Nat → Bool) (f : Nat → Fl) : Prop :=
  ∃ (v : BitVec 1024) (fl : Fl), Later i s x (vcls x pd 0x02) [(lat, .wP d v, fl)] ∧
    (∀ e, e < 1024 → v.getLsbD e = ((x.core.mask pd).getLsbD e && b e)) ∧
    (∀ j, fl.getLsbD j = true ↔ ∃ e, e < 1024 ∧ (x.core.mask pd).getLsbD e = true ∧ (f e).getLsbD j = true)

/-- A word of the scalar slot whose one effect is that s[d] receives `v` at issue+`n` (R110). -/
def WritesS (i : Instr) (s : State) (x : Iss) (n : Nat) (d : SReg) (v : BitVec 64) : Prop :=
  Later i s x [0x01] [(n, .wS d v, 0)]

/-- Instruction `i` raises cause `e` in its issue cycle and has no other effect (R274). -/
def Raises (i : Instr) (s : State) (x : Iss) (e : Exc) : Prop := exec i s = .next (s.except x x.core e)

end Sys2Proof.Claims

open Sys2Proof.Claims

/-! ## The scalar slot -/

/-- R112: the results of the arithmetic and logic rows, with their latencies. A, B are the operands as read at issue. -/
def Sys2Proof.Claims.ScalarIntegers : Prop :=
  ∀ (s : State) (x : Iss) (pd : Pd) (d a b : SReg), Runs s x pd →
    let A := x.core.rs a
    let B := x.core.rs b
    (∃ v, WritesS (.add pd d a b) s x 1 d v ∧ v.toNat = (A.toNat + B.toNat) % 2 ^ 64) ∧
    (∃ v, WritesS (.sub pd d a b) s x 1 d v ∧ v.toNat = (A.toNat + (2 ^ 64 - B.toNat)) % 2 ^ 64) ∧
    (∃ v, WritesS (.mul pd d a b) s x 3 d v ∧ v.toNat = A.toNat * B.toNat % 2 ^ 64) ∧
    (∃ v, WritesS (.mulh pd d a b) s x 3 d v ∧ v.toInt = (A.toInt * B.toInt).fdiv (2 ^ 64)) ∧
    (∃ v, WritesS (.mulhu pd d a b) s x 3 d v ∧ v.toNat = A.toNat * B.toNat / 2 ^ 64) ∧
    (∃ v, WritesS (.and_ pd d a b) s x 1 d v ∧ ∀ k, k < 64 → v.getLsbD k = (A.getLsbD k && B.getLsbD k)) ∧
    (∃ v, WritesS (.or_ pd d a b) s x 1 d v ∧ ∀ k, k < 64 → v.getLsbD k = (A.getLsbD k || B.getLsbD k)) ∧
    (∃ v, WritesS (.xor_ pd d a b) s x 1 d v ∧ ∀ k, k < 64 → v.getLsbD k = (A.getLsbD k != B.getLsbD k)) ∧
    (∃ v, WritesS (.andn pd d a b) s x 1 d v ∧ ∀ k, k < 64 → v.getLsbD k = (A.getLsbD k && !B.getLsbD k))

/-- R113: quotients and remainders, with both edge cases; the result performs at issue+20 (R112). -/
def Sys2Proof.Claims.ScalarDivision : Prop :=
  ∀ (s : State) (x : Iss) (pd : Pd) (d a b : SReg), Runs s x pd →
    let A := x.core.rs a
    let B := x.core.rs b
    (∃ v, WritesS (.div pd d a b) s x 20 d v ∧ v.toInt =
      if B = 0 then -1 else if A.toInt = -2 ^ 63 ∧ B.toInt = -1 then -2 ^ 63 else A.toInt.tdiv B.toInt) ∧
    (∃ v, WritesS (.divu pd d a b) s x 20 d v ∧ v.toNat = if B = 0 then 2 ^ 64 - 1 else A.toNat / B.toNat) ∧
    (∃ v, WritesS (.rem_ pd d a b) s x 20 d v ∧ v.toInt = if B = 0 then A.toInt else A.toInt.tmod B.toInt) ∧
    (∃ v, WritesS (.remu pd d a b) s x 20 d v ∧ v.toNat = if B = 0 then A.toNat else A.toNat % B.toNat)

/-- R112: minima, maxima, shifts by b[5:0], rotation, and the counts of bits, where a count of 0 gives 64. -/
def Sys2Proof.Claims.ScalarShiftsAndCounts : Prop :=
  ∀ (s : State) (x : Iss) (pd : Pd) (d a b : SReg), Runs s x pd →
    let A := x.core.rs a
    let B := x.core.rs b
    let k := B.toNat % 64
    (∃ v, WritesS (.min_ pd d a b) s x 1 d v ∧ v.toInt = min A.toInt B.toInt) ∧
    (∃ v, WritesS (.max_ pd d a b) s x 1 d v ∧ v.toInt = max A.toInt B.toInt) ∧
    (∃ v, WritesS (.minu pd d a b) s x 1 d v ∧ v.toNat = min A.toNat B.toNat) ∧
    (∃ v, WritesS (.maxu pd d a b) s x 1 d v ∧ v.toNat = max A.toNat B.toNat) ∧
    (∃ v, WritesS (.shl pd d a b) s x 1 d v ∧ v.toNat = A.toNat * 2 ^ k % 2 ^ 64) ∧
    (∃ v, WritesS (.shr pd d a b) s x 1 d v ∧ v.toNat = A.toNat / 2 ^ k) ∧
    (∃ v, WritesS (.sar pd d a b) s x 1 d v ∧ v.toInt = A.toInt.fdiv (2 ^ k)) ∧
    (∃ v, WritesS (.rol pd d a b) s x 1 d v ∧ ∀ j, j < 64 → v.getLsbD ((j + k) % 64) = A.getLsbD j) ∧
    (∃ v, WritesS (.clz pd d a) s x 1 d v ∧ v.toNat ≤ 64 ∧ A.toNat < 2 ^ (64 - v.toNat) ∧
      (v.toNat < 64 → 2 ^ (63 - v.toNat) ≤ A.toNat)) ∧
    (∃ v, WritesS (.ctz pd d a) s x 1 d v ∧ v.toNat ≤ 64 ∧ (A = 0 → v.toNat = 64) ∧
      (A ≠ 0 → A.getLsbD v.toNat = true ∧ ∀ j, j < v.toNat → A.getLsbD j = false)) ∧
    (∃ v, WritesS (.popc pd d a) s x 1 d v ∧ v.toNat = (List.range 64).countP fun j => A.getLsbD j)

/-- The conditions of R114. -/
def Sys2Proof.Claims.Meets {n : Nat} (cc : Cond) (A B : BitVec n) : Prop :=
  match cc with
  | .eq => A = B
  | .ne => A ≠ B
  | .lt => A.toInt < B.toInt
  | .ge => B.toInt ≤ A.toInt
  | .ltu => A.toNat < B.toNat
  | .geu => B.toNat ≤ A.toNat
  | .gt => B.toInt < A.toInt
  | .le => A.toInt ≤ B.toInt
  | .gtu => B.toNat < A.toNat
  | .leu => A.toNat ≤ B.toNat

/-- R114, R115, R116: a compare gives 1 or 0, or fills the whole predicate with its one result; `sel` chooses by bit 0 of its
predicate. -/
def Sys2Proof.Claims.ScalarCompareSelect : Prop :=
  ∀ (s : State) (x : Iss) (pd : Pd) (d a b : SReg) (p : PReg) (cc : Cond) (ci : CondI) (imm : BitVec 32), Runs s x pd →
    let A := x.core.rs a
    let B := x.core.rs b
    let I : BitVec 64 := imm.signExtend 64
    (∃ v, WritesS (.cmp pd cc d a b) s x 1 d v ∧ (Meets cc A B → v = 1) ∧ (¬ Meets cc A B → v = 0)) ∧
    (∃ v, WritesS (.cmpi pd ci d a imm) s x 1 d v ∧ (Meets ci.toCond A I → v = 1) ∧ (¬ Meets ci.toCond A I → v = 0)) ∧
    (∃ v : BitVec 1024, Later (.cmpp pd cc p a b) s x [0x01] [(1, .wP p v, 0)] ∧
      ∀ e, e < 1024 → (v.getLsbD e = true ↔ Meets cc A B)) ∧
    (∃ v : BitVec 1024, Later (.cmppi pd ci p a imm) s x [0x01] [(1, .wP p v, 0)] ∧
      ∀ e, e < 1024 → (v.getLsbD e = true ↔ Meets ci.toCond A I)) ∧
    WritesS (.sel pd d a b p) s x 1 d (if (x.core.rp p).getLsbD 0 then A else B)

/-- R112, R114, R115: shifts, counts, comparison and selection in the scalar slot. -/
def Obligations.ScalarLogic : Prop :=
  Sys2Proof.Claims.ScalarShiftsAndCounts ∧ Sys2Proof.Claims.ScalarCompareSelect

/-- R116: the immediate forms, IMM32 sign-extended but for `lui`. -/
def Sys2Proof.Claims.ScalarImmediates : Prop :=
  ∀ (s : State) (x : Iss) (pd : Pd) (d a : SReg) (imm : BitVec 32) (n : BitVec 6), Runs s x pd →
    let A := x.core.rs a
    let I : BitVec 64 := imm.signExtend 64
    (∃ v, WritesS (.addi pd d a imm) s x 1 d v ∧ v.toNat = (A.toNat + I.toNat) % 2 ^ 64) ∧
    (∃ v, WritesS (.andi pd d a imm) s x 1 d v ∧ ∀ k, k < 64 → v.getLsbD k = (A.getLsbD k && I.getLsbD k)) ∧
    (∃ v, WritesS (.ori pd d a imm) s x 1 d v ∧ ∀ k, k < 64 → v.getLsbD k = (A.getLsbD k || I.getLsbD k)) ∧
    (∃ v, WritesS (.xori pd d a imm) s x 1 d v ∧ ∀ k, k < 64 → v.getLsbD k = (A.getLsbD k != I.getLsbD k)) ∧
    (∃ v, WritesS (.shli pd d a n) s x 1 d v ∧ v.toNat = A.toNat * 2 ^ n.toNat % 2 ^ 64) ∧
    (∃ v, WritesS (.shri pd d a n) s x 1 d v ∧ v.toNat = A.toNat / 2 ^ n.toNat) ∧
    (∃ v, WritesS (.sari pd d a n) s x 1 d v ∧ v.toInt = A.toInt.fdiv (2 ^ n.toNat)) ∧
    (∃ v, WritesS (.muli pd d a imm) s x 3 d v ∧ v.toNat = A.toNat * I.toNat % 2 ^ 64) ∧
    (∃ v, WritesS (.li pd d imm) s x 1 d v ∧ v.toInt = imm.toInt) ∧
    (∃ v, WritesS (.lui pd d a imm) s x 1 d v ∧ v.toNat = imm.toNat * 2 ^ 32 + A.toNat % 2 ^ 32)

/-- R117: `fmt` writes f[FD] at issue+4 with (a + imm)[31:0], or raises illegal-operand where the value breaks R50. -/
def Sys2Proof.Claims.FormatDescriptor : Prop :=
  ∀ (s : State) (x : Iss) (pd : Pd) (f : FReg) (a : SReg) (imm : BitVec 32), Runs s x pd →
    let V : BitVec 32 := (x.core.rs a + imm.signExtend 64).truncate 32
    (fmtLegal V = true → Later (.fmt pd f a imm) s x [0x01] [(4, .wF f V, 0)]) ∧
    (fmtLegal V = false → Raises (.fmt pd f a imm) s x illegalOperand)

/-- R112, R113, R116, R117, R50: the integer, division and immediate words of the scalar slot and `fmt`: the value, its
cycle, and nothing else. Results are modulo 2^64, as R112 says; R45 says 2^32 (log 46 names the choice). -/
def Obligations.ScalarArithmetic : Prop :=
  Sys2Proof.Claims.ScalarIntegers ∧ Sys2Proof.Claims.ScalarDivision ∧ Sys2Proof.Claims.ScalarImmediates ∧
  Sys2Proof.Claims.FormatDescriptor

/-- A target that R119 does not admit: no multiple of 64, or not below the stream's length; a save or restore routine may
also reach its end (R283). -/
def Sys2Proof.Claims.OffStream (s : State) (x : Iss) (target : Nat) : Prop :=
  target % 64 ≠ 0 ∨
  (s.stream x.ag).bundles * 64 ≤ target ∧ ¬ (s.inRoutine x.ag = true ∧ target = (s.stream x.ag).bundles * 64)

/-- A place where R119 admits no taken transfer: a delay bundle of another one, or, outside a routine (R283), a bundle that
is the end of an active level or has that end as one of its two delay bundles. -/
def Sys2Proof.Claims.BadlyPlaced (s : State) (x : Iss) : Prop :=
  x.core.xfer ≠ none ∨
  s.inRoutine x.ag = false ∧
    ∃ l ∈ x.core.lvl.toList, l.active = true ∧ (l.fin = x.core.pc ∨ l.fin = x.core.pc + 64 ∨ l.fin = x.core.pc + 128)

/-- A transfer to `target` meets no case of R119. -/
def Sys2Proof.Claims.MayTransfer (s : State) (x : Iss) (target : Nat) : Prop :=
  ¬ OffStream s x target ∧ ¬ BadlyPlaced s x

/-- Every case of R119 for the transfer `i` to `target`: a bad target raises the address fault, a good one from a bad place
illegal-operand (the order of the two is log 47), and neither acts. -/
def Sys2Proof.Claims.BadTransfer (i : Instr) (s : State) (x : Iss) (target : Nat) : Prop :=
  (OffStream s x target → Raises i s x (addressFault target)) ∧
  (¬ OffStream s x target → BadlyPlaced s x → Raises i s x illegalOperand)

/-- The core after a taken transfer: two delay bundles precede the target, and outside a routine every active level whose
body the target leaves is deactivated (R118, R119, R283). -/
def Sys2Proof.Claims.Transferred (s : State) (x : Iss) (target : Nat) (c : Core) : Prop :=
  c.xfer = some (3, target) ∧ c = { charged x.core [0x01] with xfer := c.xfer, lvl := c.lvl, pend := c.pend } ∧
  (s.inRoutine x.ag = true → c.lvl = x.core.lvl) ∧
  (s.inRoutine x.ag = false → ∀ k, k < 8 →
    let l := vget ⟨false, 0, 0⟩ x.core.lvl k
    vget ⟨false, 0, 0⟩ c.lvl k =
      if l.active = true ∧ ¬ (l.start ≤ target ∧ target ≤ l.fin) then { l with active := false } else l)

/-- R118, R119: the five branches complete when no case of R119 applies, and transfer nothing but raise its fault when one
does. `br` and `call` go to PC + DISP32 × 64, the others to a; `call` and `callr` write PC + 192 at issue+1. -/
def Sys2Proof.Claims.ControlTransfer : Prop :=
  ∀ (s : State) (x : Iss) (pd : Pd) (d a : SReg) (disp : BitVec 32), Runs s x pd →
    let rel := (BitVec.ofNat 64 x.core.pc + disp.signExtend 64 * 64).toNat
    let ind := (x.core.rs a).toNat
    let link : Pend := due x (1, .wS d (BitVec.ofNat 64 (x.core.pc + 192)), 0)
    (MayTransfer s x rel →
      (∃ c, Leaves (.br pd disp) s x c ∧ Transferred s x rel c ∧ c.pend = x.core.pend) ∧
      (∃ c, Leaves (.call pd d disp) s x c ∧ Transferred s x rel c ∧ c.pend = x.core.pend ++ [link])) ∧
    (MayTransfer s x ind →
      (∃ c, Leaves (.jr pd a) s x c ∧ Transferred s x ind c ∧ c.pend = x.core.pend) ∧
      (∃ c, Leaves (.ret pd a) s x c ∧ Transferred s x ind c ∧ c.pend = x.core.pend) ∧
      (∃ c, Leaves (.callr pd d a) s x c ∧ Transferred s x ind c ∧ c.pend = x.core.pend ++ [link])) ∧
    BadTransfer (.br pd disp) s x rel ∧ BadTransfer (.call pd d disp) s x rel ∧ BadTransfer (.jr pd a) s x ind ∧
    BadTransfer (.ret pd a) s x ind ∧ BadTransfer (.callr pd d a) s x ind

/-- R120: outside a routine `loop` arms its level over the body from PC+64 to PC + DISP32 × 64 and gives LOOPC t − 1 at
issue+1; a trip count of 0 skips the body; a level that is not temporal, a delay bundle, and every `loop` of a routine
(R283), raises illegal-operand. The trip count is read in the level's entry of the loop table (R31): TYPE in [63:62] is 1 for
a temporal level, and bit 61 says whether [31:0] is the count or [7:0] the number of a parameter whose [31:0] is. -/
def Sys2Proof.Claims.LoopInstruction : Prop :=
  (∀ (s : State) (x : Iss) (pd : Pd) (l : Lvl) (disp : BitVec 32), Runs s x pd →
    let E := (BitVec.ofNat 64 x.core.pc + disp.signExtend 64 * 64).toNat
    let k := charged x.core [0x01]
    (s.inRoutine x.ag = false → x.core.xfer = none → s.tripCount x.ag l.toNat = some 0 →
      Leaves (.loop pd l disp) s x { k with xfer := some (1, E + 64) }) ∧
    (∀ t, s.inRoutine x.ag = false → x.core.xfer = none → s.tripCount x.ag l.toNat = some (t + 1) →
      Leaves (.loop pd l disp) s x
        { k with lvl := vset k.lvl l.toNat ⟨true, x.core.pc + 64, E⟩,
                 pend := x.core.pend ++ [due x (1, .loopc l (BitVec.ofNat 32 t), 0)] }) ∧
    (s.inRoutine x.ag = true ∨ x.core.xfer ≠ none ∨ s.tripCount x.ag l.toNat = none →
      Raises (.loop pd l disp) s x illegalOperand)) ∧
  (∀ (s : State) (t r : Nat) (tr : Troupe) (k : Nat), s.troupe? t = some tr →
    let e := vget 0 tr.image.loop k
    let n := s.tripCount (.core t r) k
    (e.extractLsb' 62 2 ≠ 1 → n = none) ∧
    (e.extractLsb' 62 2 = 1 → e.getLsbD 61 = false → n = some (e.toNat % 2 ^ 32)) ∧
    (e.extractLsb' 62 2 = 1 → e.getLsbD 61 = true →
      n = some ((tr.launch.params.getD (e.toNat % 2 ^ 8) 0).toNat % 2 ^ 32)))

/-- R118 to R120: branches, jumps, calls and `loop`: the target, the delay bundles before it, the link, the armed level, and
every fault of R119 and R120. -/
def Obligations.ControlWords : Prop :=
  Sys2Proof.Claims.ControlTransfer ∧ Sys2Proof.Claims.LoopInstruction

/-- R121, R122, R83: the scalar loads and stores of single values reach the bank wall or the Switchback array at issue+2; an
address beyond the width of its space raises the address fault, one that is not a multiple of its size the misaligned-address
fault; where both checks fail the address fault is raised, an order that is the model's (log 47). -/
def Sys2Proof.Claims.ScalarLocal : Prop :=
  ∀ (s : State) (x : Iss) (pd : Pd) (d a : SReg) (off : BitVec 24) (sz : Size) (sx rv : Bool), Runs s x pd →
    let V := (x.core.rs a + off.signExtend 64).toNat
    let n := 2 ^ sz.toNat
    let w := if rv then 25 else 23
    let ring := if rv then some (V / 2 ^ 23) else none
    let loc := V % 2 ^ 23
    (V < 2 ^ w → V % n = 0 →
      Later (.ldb pd d a off sz sx rv) s x [0x01] [(2, .ldb d loc n sx ring, 0)] ∧
      Later (.stb pd d a off sz rv) s x [0x01] [(2, .stb (x.core.rs d) loc n ring, 0)]) ∧
    (V < 2 ^ 18 → V % n = 0 →
      Later (.ldt pd d a off sz sx) s x [0x01] [(2, .ldt d V n sx, 0)] ∧
      Later (.stt pd d a off sz) s x [0x01] [(2, .stt (x.core.rs d) V n, 0)]) ∧
    (2 ^ w ≤ V → Raises (.ldb pd d a off sz sx rv) s x (addressFault V) ∧
      Raises (.stb pd d a off sz rv) s x (addressFault V)) ∧
    (2 ^ 18 ≤ V → Raises (.ldt pd d a off sz sx) s x (addressFault V) ∧
      Raises (.stt pd d a off sz) s x (addressFault V)) ∧
    (V < 2 ^ w → V % n ≠ 0 → Raises (.ldb pd d a off sz sx rv) s x (misaligned V) ∧
      Raises (.stb pd d a off sz rv) s x (misaligned V)) ∧
    (V < 2 ^ 18 → V % n ≠ 0 → Raises (.ldt pd d a off sz sx) s x (misaligned V) ∧
      Raises (.stt pd d a off sz) s x (misaligned V))

/-- A read of G leaves the core as its next fetch: due at issue+`lat`, with the snapshot in force and the core's own stores
of earlier cycles, those that memory has accepted but not yet published among them (R123, R125, R249). -/
def Sys2Proof.Claims.fetched (x : Iss) (cls : List Nat) (lat : Nat) (kind : FetchKind) (va : Nat) (ac : BitVec 2)
    (st : FetchSt := .walking) : Core :=
  let k := x.core
  { charged k cls with
      nextId := k.nextId + 1,
      fetches := k.fetches ++ [{ id := k.nextId, kind := kind, va := va, ac := ac, iss := x.now, due := x.now + lat,
                                 word := x.w, baddr := k.pc, snap := k.snap,
                                 own := k.accd ++ k.egress.filter fun e => decide (e.iss < x.now), st := st }] }

/-- What the reads of G add to a core's charges changes the charges and the record of the walks paid, and nothing else, and
what an operation on a counter adds changes the charges only; a management core pays nothing (R289, R292). -/
def Sys2Proof.Claims.PaymentFrame : Prop :=
  (∀ (s : State) (a : Agent) (cx : Ctx) (need : Need) (runs : List (Nat × Nat)) (c : Core),
    let k := s.payG a cx need runs c
    k = { c with chg := k.chg, walked := k.walked } ∧ c.chg <+: k.chg ∧ (∀ m, a = .mgmt m → k = c)) ∧
  (∀ (s : State) (x : Iss) (h : BitVec 64) (answer : Bool),
    let k := s.payCtr x h answer
    k = { x.core with chg := k.chg } ∧ x.core.chg <+: k.chg ∧ (∀ m, x.ag = .mgmt m → k = x.core))

/-- R121, R123, R125, R135: the scalar accesses to G. A load is due at issue+640, `locq` at issue+8; a store takes one entry
of the egress buffer and writes no memory, and raises egress-overflow when all 8,192 are in use; an address beyond 57 bits
raises the address fault, one that is not a multiple of the size the misaligned-address fault; where both checks fail the
address fault is raised, an order that is the model's (log 47). -/
def Obligations.GlobalLoadStore : Prop :=
  PaymentFrame ∧
  ∀ (s : State) (x : Iss) (pd : Pd) (d a : SReg) (off : BitVec 24) (sz : Size) (sx : Bool) (ac : ACls), Runs s x pd →
    let V := (x.core.rs a + off.signExtend 64).toNat
    let n := 2 ^ sz.toNat
    let A := (x.core.rs a).toNat
    (V < 2 ^ 57 → V % n = 0 →
      Leaves (.ldg pd d a off sz sx ac) s x
        (s.payG x.ag (s.ctx x.ag) .rd (pageRuns V n) (fetched x [0x01] 640 (.ldg d n sx) V ac)) ∧
      (x.core.egressUsed < 8192 →
        Leaves (.stg pd d a off sz ac) s x { charged x.core [0x01] with egress := x.core.egress ++
          [{ va := V, bytes := (leBytes n (x.core.rs d).toNat).map some, ac := ac, iss := x.now, word := x.w,
             baddr := x.core.pc, cap := 1, inPath := false, failed := none }] }) ∧
      (8192 ≤ x.core.egressUsed → Raises (.stg pd d a off sz ac) s x { cause := 0x0D, addr := V })) ∧
    (2 ^ 57 ≤ V → Raises (.ldg pd d a off sz sx ac) s x (addressFault V) ∧
      Raises (.stg pd d a off sz ac) s x (addressFault V)) ∧
    (V < 2 ^ 57 → V % n ≠ 0 → Raises (.ldg pd d a off sz sx ac) s x (misaligned V) ∧
      Raises (.stg pd d a off sz ac) s x (misaligned V)) ∧
    (A < 2 ^ 57 →
      Leaves (.locq pd d a) s x (s.payG x.ag (s.ctx x.ag) .any [(A, 0)] (fetched x [0x01] 8 (.locq d) A 0))) ∧
    (2 ^ 57 ≤ A → Raises (.locq pd d a) s x (addressFault A))

/-- R66, R57, R136: on a core of a troupe, `csrr` reads the named special register as it stands in the issue cycle, at
issue+1; FLAGS, whose value includes what the words of that cycle raise, is taken at the cycle's end; an address that the
table of R66 does not list raises illegal-operand. -/
def Sys2Proof.Claims.ReadSpecialRegister : Prop :=
  ∀ (s : State) (x : Iss) (pd : Pd) (d : SReg) (n : BitVec 12) (t r : Nat) (tr : Troupe),
    Runs s x pd → x.ag = .core t r → s.troupe? t = some tr →
    let c := x.core
    let Reads (v : BitVec 64) : Prop := WritesS (.csrr pd d n) s x 1 d v
    (n = 0x000 → Later (.csrr pd d n) s x [0x01] [(0, .readFlags d, 0)]) ∧
    (n = 0x001 → Reads tr.vcc) ∧
    (n = 0x002 → Reads (BitVec.ofNat 64 s.wall)) ∧
    (n = 0x003 → ∃ v, Reads v ∧ v.toNat = (if tr.unal then 1 else 0) + (if tr.rsmd then 2 else 0)) ∧
    (n = 0x004 → Reads (c.place tr.image.shape tr.image.m)) ∧
    (∀ k, k < 8 → n.toNat = 0x010 + k → Reads (vget 0 c.coord k)) ∧
    (∀ k, k < 8 → n.toNat = 0x018 + k → Reads ((vget 0 c.loopc k).zeroExtend 64)) ∧
    (n = 0x020 → Reads (tr.enmtr s.wall)) ∧
    (n = 0x030 → Reads (BitVec.ofNat 64 c.top)) ∧
    (n = 0x031 → Reads (c.rseg.zeroExtend 64)) ∧
    (n = 0x040 → Reads c.qstat) ∧
    ((0x005 ≤ n.toNat ∧ n.toNat < 0x010 ∨ 0x021 ≤ n.toNat ∧ n.toNat < 0x030 ∨ 0x032 ≤ n.toNat ∧ n.toNat < 0x040 ∨
        0x041 ≤ n.toNat) → Raises (.csrr pd d n) s x illegalOperand)

/-- R66, R84, R136: on a core of a troupe, `csrw` writes FLAGS, LOOPC0 to LOOPC7, RSP and QSTAT at issue+1; RSP takes only a
multiple of 16 up to 1 MiB; a register that is read-only throughout, or not listed, raises illegal-operand. -/
def Sys2Proof.Claims.WriteSpecialRegister : Prop :=
  ∀ (s : State) (x : Iss) (pd : Pd) (n : BitVec 12) (a : SReg), Runs s x pd → OnCore x →
    let A := x.core.rs a
    let top := A.toNat % 2 ^ 21
    (n = 0x000 → Later (.csrw pd n a) s x [0x01] [(1, .csrFlags A, 0)]) ∧
    (∀ k : BitVec 3, n.toNat = 0x018 + k.toNat → Later (.csrw pd n a) s x [0x01] [(1, .loopc k (A.truncate 32), 0)]) ∧
    (n = 0x030 → top % 16 = 0 → top ≤ 2 ^ 20 →
      Later (.csrw pd n a) s x [0x01] [(1, .csrRsp (BitVec.ofNat 64 top), 0)]) ∧
    (n = 0x030 → top % 16 ≠ 0 ∨ 2 ^ 20 < top → Raises (.csrw pd n a) s x illegalOperand) ∧
    (n = 0x040 → Later (.csrw pd n a) s x [0x01] [(1, .csrQstat A, 0)]) ∧
    (n ≠ 0x000 → n ≠ 0x030 → n ≠ 0x040 → n.toNat < 0x018 ∨ 0x01F < n.toNat →
      Raises (.csrw pd n a) s x illegalOperand)

/-- R403: on a management core `csrr` reads WALL and LOOPC0 to LOOPC7, `csrw` writes LOOPC0 to LOOPC7, each at issue+1, and
every other register raises illegal-operand: that core has no troupe, flags, stack or queues (log 20). -/
def Sys2Proof.Claims.ManagementRegisters : Prop :=
  ∀ (s : State) (x : Iss) (pd : Pd) (d a : SReg) (n : BitVec 12) (m : Nat), Runs s x pd → x.ag = .mgmt m →
    let A := x.core.rs a
    (n = 0x002 → WritesS (.csrr pd d n) s x 1 d (BitVec.ofNat 64 s.wall)) ∧
    (∀ k : BitVec 3, n.toNat = 0x018 + k.toNat →
      WritesS (.csrr pd d n) s x 1 d ((vget 0 x.core.loopc k.toNat).zeroExtend 64) ∧
      Later (.csrw pd n a) s x [0x01] [(1, .loopc k (A.truncate 32), 0)]) ∧
    (n.toNat < 0x018 ∨ 0x01F < n.toNat →
      (n ≠ 0x002 → Raises (.csrr pd d n) s x illegalOperand) ∧ Raises (.csrw pd n a) s x illegalOperand)

/-- R66, R136, R403: reads and writes of the special registers, on a core of a troupe and on a management core. -/
def Obligations.SpecialRegisterAccess : Prop :=
  Sys2Proof.Claims.ReadSpecialRegister ∧ Sys2Proof.Claims.WriteSpecialRegister ∧ Sys2Proof.Claims.ManagementRegisters

/-- R137, R138, R39: `trap` and a supervisor call take effect and raise their cause with CODE and the value of a; `sysc` with
code 0 finishes the core with exit status a[31:0]; the codes 0x0001 to 0x00FF raise illegal-operand. -/
def Obligations.TrapsAndServices : Prop :=
  ∀ (s : State) (x : Iss) (pd : Pd) (d a : SReg) (code : BitVec 16), Runs s x pd →
    let k := charged x.core [0x01]
    let A := x.core.rs a
    exec (.trap pd code a) s = .next (s.except x (k.tookEffect x.w) { cause := 0x20, aux0 := A, code := code }) ∧
    Leaves (.syscRetire pd a) s x { k with fin := some (A.truncate 32) } ∧
    (0x100 ≤ code.toNat → exec (.syscCall pd d code a) s =
      .next (s.except x ({ k with sysc := some d }.tookEffect x.w) { cause := 0x21, aux0 := A, code := code })) ∧
    (code.toNat < 0x100 → Raises (.syscCall pd d code a) s x illegalOperand) ∧
    (∀ w, decodeSlot 2 w = .ok (.trap pd code a) → fld w 45 6 = 0)

/-- R98, R139, R265, R273: the privileged words. On a core of a troupe each raises the privilege fault. On a management core,
`sprd` and `spwr` reach a listed register at or below the level, at issue+1; one above the level raises privilege, one not
listed illegal-operand; a read of PT_RES also acknowledges a result that stands (R326); `halt` stops issue. -/
def Obligations.PrivilegedWords : Prop :=
  ∀ (s : State) (x : Iss) (pd : Pd) (d a : SReg) (code : BitVec 16), Runs s x pd →
    (OnCore x →
      Raises (.sprd pd d code) s x privilege ∧ Raises (.spwr pd code a) s x privilege ∧
      Raises (.eret pd) s x privilege ∧ Raises (.halt pd) s x privilege) ∧
    (∀ m, x.ag = .mgmt m →
      let lvl := (s.mg m).lvl
      let listed := sysListed.contains code.toNat
      (listed = true → code.toNat / 2 ^ 14 ≤ lvl.toNat →
        (code ≠ 0x8051 ∨ s.ptSt ≠ 2 → WritesS (.sprd pd d code) s x 1 d (s.sysRead m code.toNat)) ∧
        (code = 0x8051 → s.ptSt = 2 → exec (.sprd pd d code) s = .next (({ s with ptSt := 0 } : State).did x
          { charged x.core [0x01] with
              pend := x.core.pend ++ [due x (1, .wS d (s.sysRead m code.toNat), 0)] })) ∧
        Later (.spwr pd code a) s x [0x01] [(1, .sys code (x.core.rs a) lvl, 0)]) ∧
      (listed = true → lvl.toNat < code.toNat / 2 ^ 14 →
        Raises (.sprd pd d code) s x privilege ∧ Raises (.spwr pd code a) s x privilege) ∧
      (listed = false → Raises (.sprd pd d code) s x illegalOperand ∧ Raises (.spwr pd code a) s x illegalOperand) ∧
      exec (.halt pd) s = .next ((s.setMg m { s.mg m with halted := true }).did x (charged x.core [0x01]))) ∧
    (∀ mg : Bool, ∀ i ∈ [Instr.sprd pd d code, .spwr pd code a, .eret pd, .halt pd],
      bundleBad mg 0 0 (encode i) 0 0 0 0 0 = none)

/-- R272, R273: `eret` from a handler whose PLVL is 1 or 2 clears the EXL bit of its level, leaves the other alone, and
transfers to EPC behind two delay bundles, or raises the faults of R119; PLVL 0 or 3 raises illegal-operand. -/
def Sys2Proof.Claims.ExceptionReturn : Prop :=
  ∀ (s : State) (x : Iss) (pd : Pd) (m : Nat), Runs s x pd → x.ag = .mgmt m →
    let y := s.mg m
    let b := s.bank y.part.toNat
    let epc := if y.lvl = 2 then y.hvEpc else b.mcEpc
    let plvl := fld (if y.lvl = 2 then y.hvEcause else b.mcEcause).toNat 16 2
    (plvl = 1 ∨ plvl = 2 → MayTransfer s x epc.toNat →
      ∃ u, exec (.eret pd) s = .next u ∧
        (u.mg m).core.xfer = some (3, epc.toNat) ∧
        (u.mg m).hexl = (y.hexl && y.lvl != 2) ∧ (u.mg m).sexl = (y.sexl && y.lvl == 2) ∧
        (u.mg m).lvl = y.lvl ∧ (u.mg m).ien = y.ien ∧
        u.banks = s.banks ∧ u.gmem = s.gmem ∧ u.troupes = s.troupes ∧ (u.mg m).core.s = x.core.s) ∧
    (plvl = 1 ∨ plvl = 2 → BadTransfer (.eret pd) s x epc.toNat) ∧
    (plvl = 0 ∨ plvl = 3 → Raises (.eret pd) s x illegalOperand)

/-- R273: the return reaches the bundle at EPC with LVL, IEN and DONE as the entry saved them. -/
def Sys2Proof.Claims.ReturnRestores : Prop :=
  ∀ (s : State) (m : Nat) (ec : BitVec 64), m < 2 →
    let u := s.returnTo m ec
    (u.mg m).lvl = ec.extractLsb' 16 2 ∧ (u.mg m).ien = ec[19] ∧ (u.mg m).core.done = ec.extractLsb' 24 8 ∧
    (u.mg m).core.pc = (s.mg m).core.pc ∧ (u.mg m).core.s = (s.mg m).core.s ∧ u.gmem = s.gmem

/-- R273: `eret` clears its level and restores the level, the interrupt enable and the DONE mask that the entry saved. -/
def Obligations.ReturnFromException : Prop :=
  Sys2Proof.Claims.ExceptionReturn ∧ Sys2Proof.Claims.ReturnRestores

/-- R272: a fault on a management core enters a handler. The hypervisor's is entered for the privilege fault, from hypervisor
level and while SEXL = 1; there the bundle's address, the cause with the level and IEN of before, and the address are saved,
LVL and IEN change, EXL is set, and issue goes on at EVEC 3 cycles later. While HEXL = 1 the core stops and the host is told.
-/
def Sys2Proof.Claims.HandlerEntry : Prop :=
  ∀ (i : Instr) (s : State) (x : Iss) (e : Exc) (m : Nat),
    s.issuer = some x → x.ag = .mgmt m → Raises i s x e →
    let y := s.mg m
    let hyp : Bool := e.cause == 0x02 || y.lvl == 2 || y.sexl
    let done := x.core.done ||| 2
    let ec : Nat := e.cause % 2 ^ 8 + e.sub % 2 ^ 8 * 2 ^ 8 + y.lvl.toNat * 2 ^ 16 + (if y.ien then 2 ^ 19 else 0) +
      done.toNat * 2 ^ 24 + x.w % 8 * 2 ^ 32
    ∃ u, exec i s = .next u ∧ u.gmem = s.gmem ∧ u.troupes = s.troupes ∧ u.hmem = s.hmem ∧
      (∀ m', m' ≠ m → u.mg m' = s.mg m') ∧
      (hyp = true → y.hexl = true →
        (u.mg m).dead = true ∧ u.hostOut = s.hostOut ++ [.doubleFault m] ∧ u.banks = s.banks) ∧
      (¬ (hyp = true ∧ y.hexl = true) →
        (u.mg m).lvl = (if hyp then 2 else 1) ∧ (u.mg m).ien = false ∧
        (u.mg m).hexl = (y.hexl || hyp) ∧ (u.mg m).sexl = (y.sexl || !hyp) ∧ (u.mg m).stall = s.wall + 3 ∧
        (u.mg m).core.s = x.core.s ∧ (u.mg m).core.done = 0) ∧
      (hyp = true → y.hexl = false →
        (u.mg m).hvEpc = BitVec.ofNat 64 x.core.pc ∧ (u.mg m).hvEcause = BitVec.ofNat 64 ec ∧
        (u.mg m).hvEaddr = BitVec.ofNat 64 e.addr ∧ (u.mg m).core.pc = y.hvEvec.toNat ∧ u.banks = s.banks) ∧
      (hyp = false → y.part.toNat < 12 →
        (u.bank y.part.toNat).mcEpc = BitVec.ofNat 64 x.core.pc ∧
        (u.bank y.part.toNat).mcEcause = BitVec.ofNat 64 ec ∧
        (u.bank y.part.toNat).mcEaddr = BitVec.ofNat 64 e.addr ∧
        (u.mg m).core.pc = (s.bank y.part.toNat).mcEvec.toNat)

/-- R274, R275: a word of a troupe's core that faults in its issue cycle leaves a raised cause with the DONE mask of the
words that took effect, and nothing else: every register and memory stays, and the words above it will not take effect. -/
def Sys2Proof.Claims.CoreFaultRecorded : Prop :=
  ∀ (i : Instr) (s : State) (x : Iss) (e : Exc),
    s.issuer = some x → OnCore x → Raises i s x e →
    ∃ u, exec i s = .next u ∧
      u.core? x.ag = some { x.core with
        failed := true,
        raised := x.core.raised ++
          [{ cause := BitVec.ofNat 8 e.cause, sub := BitVec.ofNat 8 e.sub, word := some x.w, deferred := false,
             done := x.core.done ||| 2, baddr := x.core.pc,
             addr := BitVec.ofNat 64 ((if x.w = 5 then x.core.rtnOn else none).getD e.addr), aux0 := e.aux0,
             aux1 := e.aux1, hnd := e.hnd, code := e.code, hcs := 0,
             rtnw := x.w = 5 && x.core.rtnOn.isSome, kill := false }] } ∧
      u.mgmt = s.mgmt ∧ u.banks = s.banks ∧ u.gmem = s.gmem ∧ u.hmem = s.hmem ∧ u.ctrs = s.ctrs ∧
      (∀ a, a ≠ x.ag → u.core? a = s.core? a)

/-- R272, R274, R275: taking an exception, on a management core and on a compute core. -/
def Obligations.FaultsTaken : Prop :=
  Sys2Proof.Claims.HandlerEntry ∧ Sys2Proof.Claims.CoreFaultRecorded

/-- R94: an inactive word of S, M, C0 or C1 takes effect without acting, whatever the instruction: the core is as before but
for its DONE mask. -/
def Sys2Proof.Claims.InactiveWord : Prop :=
  ∀ (i : Instr) (s : State) (x : Iss) (pd : Pd), s.issuer = some x → x.core.on pd = false →
    pdOf (encode i) = pd → (i.slot = .S ∨ i.slot = .M ∨ i.slot = .C) → Leaves i s x x.core

/-- R274: a word that takes effect changes one bit of its core's DONE mask and moves on to the next word; no other core, no
memory of the package, no counter, no management register and no system register changes by that. -/
def Sys2Proof.Claims.DidFrame : Prop :=
  ∀ (s : State) (x : Iss) (c : Core), s.issuer = some x →
    let u := s.did x c
    u.core? x.ag = some { c with done := c.done ||| BitVec.ofNat 8 (2 ^ x.w) } ∧
    (∀ a, a ≠ x.ag → u.core? a = s.core? a) ∧
    u = { s with cursor := u.cursor, troupes := u.troupes, mgmt := u.mgmt } ∧
    (OnCore x → u.mgmt = s.mgmt) ∧
    (∀ m, x.ag = .mgmt m → u.troupes = s.troupes ∧ u.mg m = { s.mg m with core := (u.mg m).core }) ∧
    (∀ t r w, s.cursor = .word t r w → u.cursor = .word t r (w + 1)) ∧
    (∀ m w, s.cursor = .mword m w → u.cursor = .mword m (w + 1))

/-- R126, R127, R129, R130, R131: the counter words. With a live handle that the agent may name, each sends its operation to
the home engine and pays its flits (R292); the waiting forms hold the agent from issue+1. A bad handle raises counter-handle,
and `carm` of 0 or of more than 2^32 − 1 raises illegal-operand; where both checks fail the handle's is raised, an order that
is the model's (log 47). -/
def Obligations.CounterWords : Prop :=
  ∀ (s : State) (x : Iss) (pd : Pd) (d a b : SReg) (dl : BitVec 16), Runs s x pd →
    let h : BitVec 32 := (x.core.rs a).truncate 32
    let B := x.core.rs b
    let paid (answer : Bool) : Core := s.payCtr { x with core := charged x.core [0x01] } (x.core.rs a) answer
    let sent (op : CtrKind) : State := { s with
      nextId := s.nextId + 1,
      ctrOps := s.ctrOps ++ [{ id := s.nextId, handle := h, kind := op, src := .slot x.ag x.w x.core.pc, sent := s.wall }] }
    let waiting (kind : WaitKind) (dl : BitVec 16) : Wait :=
      { kind := kind, d := d, handle := h, dl := dl, ticks := dl.toNat % 2048 * 2 ^ (dl.toNat / 2048),
        baddr := x.core.pc, since := s.wall, formed := none, report := none, iss := x.now, op := s.nextId,
        markers := [] }
    let wait (kind : WaitKind) (dl : BitVec 16) : Core := { paid true with wait := some (waiting kind dl) }
    (s.handleOk x.ag (x.core.rs a) = true →
      exec (.cadd pd a b) s = .next ((sent (.add B)).did x (paid false)) ∧
      exec (.cwait pd d a b dl) s = .next ((sent (.wait B)).did x (wait (.target B) dl)) ∧
      exec (.cwaitArmed pd d a dl) s = .next ((sent .waitArmed).did x (wait .armed dl)) ∧
      exec (.cread pd d a) s = .next ((sent .read).did x (wait .read 0)) ∧
      (0 < B.toNat → B.toNat < 2 ^ 32 →
        exec (.carm pd a b) s = .next ((sent (.arm (B.truncate 32))).did x (paid false))) ∧
      (B.toNat = 0 ∨ 2 ^ 32 ≤ B.toNat → Raises (.carm pd a b) s x illegalOperand)) ∧
    (s.handleOk x.ag (x.core.rs a) = false →
      Raises (.cadd pd a b) s x counterHandle ∧ Raises (.cwait pd d a b dl) s x counterHandle ∧
      Raises (.cwaitArmed pd d a dl) s x counterHandle ∧ Raises (.carm pd a b) s x counterHandle ∧
      Raises (.cread pd d a) s x counterHandle)

/-- R132: the holder of a buffer moves at issue+1, `hquery` reads it as of its issue cycle; each has the faults of the table,
and a move of an own buffer that a pending operation of the core has still to touch raises the handle fault (`mustTouch`:
R195, R216). Where several checks of one word fail, illegal-operand is raised before the handle fault, an order that is the
model's (log 47), and the handle fault's ADDR is the buffer's id (log 69). -/
def Obligations.BufferHandles : Prop :=
  ∀ (s : State) (x : Iss) (pd : Pd) (d a b : SReg), Runs s x pd →
    let A := (x.core.rs a).toNat
    let B := (x.core.rs b).toNat
    let o := A / 128
    let n := A % 128
    let me := x.core.loc % 4
    let holder := s.holderOf x.ag x.core o n
    (A < 512 →
      WritesS (.hquery pd d a) s x 1 d (BitVec.ofNat 64 holder) ∧
      (B < 4 → holder = me → s.ringCore x.ag x.core B ≠ none → (o = me → x.core.mustTouch n = false) →
        Later (.hgive pd a b) s x [0x01] [(1, .holder o n B, 0)]) ∧
      (B < 4 → holder ≠ me ∨ s.ringCore x.ag x.core B = none → Raises (.hgive pd a b) s x (handleFault A)) ∧
      (4 ≤ B → Raises (.hgive pd a b) s x illegalOperand) ∧
      (o = me → (holder = me → x.core.mustTouch n = false) →
        Later (.htake pd a) s x [0x01] [(1, .holder o n me, 0)]) ∧
      (B < 4 → o = me → holder = me → x.core.mustTouch n = true → Raises (.hgive pd a b) s x (handleFault A)) ∧
      (o = me → holder = me → x.core.mustTouch n = true → Raises (.htake pd a) s x (handleFault A)) ∧
      (o ≠ me → Raises (.htake pd a) s x (handleFault A))) ∧
    (512 ≤ A → Raises (.hquery pd d a) s x illegalOperand ∧ Raises (.hgive pd a b) s x illegalOperand ∧
      Raises (.htake pd a) s x illegalOperand)

/-- R93, R29, R133: `nop` does nothing; `realign` asks for the next frame tick; a `phase` of scope core hands its entries
over at the end of its issue cycle and does not hold, and a wider one leaves the agent waiting until it completes. A phase is
charged for the entries it covers (R289), which changes nothing else. -/
def Sys2Proof.Claims.PhaseRealignNop : Prop :=
  ∀ (s : State) (x : Iss) (pd : Pd) (sc : Scope), s.issuer = some x →
    Leaves .nop s x x.core ∧
    (x.core.on pd = true →
      Leaves (.realign pd) s x { charged x.core [0x01] with realign := true } ∧
      (let k := s.payEgress x.ag (charged x.core [0x01])
       k = { charged x.core [0x01] with chg := k.chg, walked := k.walked } ∧
       (sc = .core → Leaves (.phase pd sc) s x { k with pend := x.core.pend ++ [due x (0, .phaseCore, 0)] }) ∧
       (sc ≠ .core → ∃ w : Wait, Leaves (.phase pd sc) s x { k with wait := some w } ∧
         w.kind = .phase sc.code ∧ w.baddr = x.core.pc ∧ w.iss = x.now ∧
         w.markers = [] ∧ w.sent = false ∧ w.report = none)))

/-- R93, R94, R29, R133, R134, R274: a word with no active predicate does nothing, what the completion of a word leaves
unchanged, and the words that only advance. -/
def Obligations.WordsInGeneral : Prop :=
  Sys2Proof.Claims.InactiveWord ∧ Sys2Proof.Claims.DidFrame ∧ Sys2Proof.Claims.PhaseRealignNop

/-! ## The vector slots -/

/-- R148: the INT32 results, modulo 2^32, at issue+2 and without flags. -/
def Sys2Proof.Claims.VectorIntegerArithmetic : Prop :=
  ∀ (s : State) (x : Iss) (pd : Pd) (d a b : VRegN), s.issuer = some x →
    let Does (i : Instr) (P : BitVec 32 → BitVec 32 → BitVec 32 → Prop) : Prop :=
      ∃ f : BitVec 32 → BitVec 32 → BitVec 32, (∀ p q, P p q (f p q)) ∧
        WritesV x.core i s x pd 0x02 2 d fun e => (f (el (x.core.rv a) e) (el (x.core.rv b) e), 0)
    Does (.viadd pd d a b) (fun p q r => r.toNat = (p.toNat + q.toNat) % 2 ^ 32) ∧
    Does (.visub pd d a b) (fun p q r => r.toNat = (p.toNat + (2 ^ 32 - q.toNat)) % 2 ^ 32) ∧
    Does (.vimul pd d a b) (fun p q r => r.toNat = p.toNat * q.toNat % 2 ^ 32) ∧
    Does (.vimin pd d a b) (fun p q r => r.toInt = min p.toInt q.toInt) ∧
    Does (.vimax pd d a b) (fun p q r => r.toInt = max p.toInt q.toInt) ∧
    Does (.viminu pd d a b) (fun p q r => r.toNat = min p.toNat q.toNat) ∧
    Does (.vimaxu pd d a b) (fun p q r => r.toNat = max p.toNat q.toNat) ∧
    Does (.vand pd d a b) (fun p q r => ∀ k, k < 32 → r.getLsbD k = (p.getLsbD k && q.getLsbD k)) ∧
    Does (.vor pd d a b) (fun p q r => ∀ k, k < 32 → r.getLsbD k = (p.getLsbD k || q.getLsbD k)) ∧
    Does (.vxor pd d a b) (fun p q r => ∀ k, k < 32 → r.getLsbD k = (p.getLsbD k != q.getLsbD k)) ∧
    Does (.vshl pd d a b) (fun p q r => r.toNat = p.toNat * 2 ^ (q.toNat % 32) % 2 ^ 32) ∧
    Does (.vshr pd d a b) (fun p q r => r.toNat = p.toNat / 2 ^ (q.toNat % 32)) ∧
    Does (.vsar pd d a b) (fun p q r => r.toInt = p.toInt.fdiv (2 ^ (q.toNat % 32)))

/-- R149, R159, R160: compares and logic that write a predicate, selection by a predicate, and the counts of its bits. -/
def Sys2Proof.Claims.VectorPredicates : Prop :=
  ∀ (s : State) (x : Iss) (pd : Pd) (d a b : VRegN) (p q r : PReg) (cc : Cond) (t : SReg) (imm : BitVec 16),
    s.issuer = some x →
    let P := x.core.rp q
    let Q := x.core.rp r
    let none (_ : Nat) : Fl := 0
    (∃ h : Nat → Bool, (∀ e, h e = true ↔ Meets cc (el (x.core.rv a) e) (el (x.core.rv b) e)) ∧
      WritesP (.vicmp pd cc p a b) s x pd 2 p h none) ∧
    (WritesV x.core (.vsel pd d a b q) s x pd 0x02 2 d fun e =>
      (if P.getLsbD e then el (x.core.rv a) e else el (x.core.rv b) e, 0)) ∧
    WritesP (.pand pd p q r) s x pd 1 p (fun e => P.getLsbD e && Q.getLsbD e) none ∧
    WritesP (.por pd p q r) s x pd 1 p (fun e => P.getLsbD e || Q.getLsbD e) none ∧
    WritesP (.pxor pd p q r) s x pd 1 p (fun e => P.getLsbD e != Q.getLsbD e) none ∧
    WritesP (.pandn pd p q r) s x pd 1 p (fun e => P.getLsbD e && !Q.getLsbD e) none ∧
    WritesP (.pnot pd p q) s x pd 1 p (fun e => !P.getLsbD e) none ∧
    (∃ h : Nat → Bool,
      (∀ e, e < 1024 → (h e = true ↔ P.getLsbD e = true ∧
        (List.range e).countP (fun j => (x.core.mask pd).getLsbD j && P.getLsbD j) <
          (x.core.rs t + imm.signExtend 64).toNat)) ∧
      WritesP (.pcnt pd p q t imm) s x pd 2 p h none) ∧
    (x.core.on pd = true → ∃ v, Later (.ppop pd d q) s x [0x02] [(2, .wS (d.zeroExtend 6) v, 0)] ∧
      v.toNat = (List.range 1024).countP fun e => (x.core.mask pd).getLsbD e && P.getLsbD e)

/-- R148, R149, R160: integer arithmetic of vectors, and predicates. -/
def Obligations.VectorIntegers : Prop :=
  Sys2Proof.Claims.VectorIntegerArithmetic ∧ Sys2Proof.Claims.VectorPredicates

/-- An FP32 code is NaN, is a signalling NaN, is infinite (R43). -/
def Sys2Proof.Claims.IsNan (b : BitVec 32) : Prop := b.extractLsb' 23 8 = 0xFF ∧ b.extractLsb' 0 23 ≠ 0
def Sys2Proof.Claims.IsSnan (b : BitVec 32) : Prop := IsNan b ∧ b.getLsbD 22 = false
def Sys2Proof.Claims.IsInf (b : BitVec 32) : Prop := b.extractLsb' 23 8 = 0xFF ∧ b.extractLsb' 0 23 = 0

/-- The place of a code that is not NaN in the order of R145, where both zeros are 0, and in that of R144, where −0 comes
below +0. -/
def Sys2Proof.Claims.fkey (b : BitVec 32) : Int := if b.getLsbD 31 then -(b.toNat % 2 ^ 31 : Nat) else (b.toNat % 2 ^ 31 : Nat)
def Sys2Proof.Claims.forder (b : BitVec 32) : Int :=
  if b.getLsbD 31 then -(b.toNat % 2 ^ 31 : Nat) - 1 else (b.toNat % 2 ^ 31 : Nat)

/-- A finite FP32 code (R42). -/
def Sys2Proof.Claims.IsFin (b : BitVec 32) : Prop := b.extractLsb' 23 8 ≠ 0xFF

/-- R41, R42: the value of a finite code of a float format: its fraction below the smallest normal value, else 1 and its
fraction, at the scale of its exponent. -/
def Sys2Proof.Claims.codeVal (f : FF) (c : Nat) : ℚ :=
  let E := c / 2 ^ f.mb % 2 ^ f.eb
  let M := c % 2 ^ f.mb
  (if c / 2 ^ (f.eb + f.mb) % 2 = 1 then -1 else 1) *
    (if E = 0 then (M : ℚ) * 2 ^ ((1 : Int) - f.bias - f.mb) else (2 ^ f.mb + M : ℚ) * 2 ^ ((E : Int) - f.bias - f.mb))

/-- The value of a finite FP32 code. -/
def Sys2Proof.Claims.fval (b : BitVec 32) : ℚ := codeVal .fp32 b.toNat

/-- R51, R52: `k` is the integer to which `q`, not negative, is rounded in a mode; `neg` says that the value is negative. -/
def Sys2Proof.Claims.RoundInt (mode : RMode) (neg : Bool) (q : ℚ) (k : Nat) : Prop :=
  match mode, neg with
  | .rne, _ => |q - k| < 1 / 2 ∨ |q - k| = 1 / 2 ∧ k % 2 = 0
  | .rna, _ => (k : ℚ) - 1 / 2 ≤ q ∧ q < k + 1 / 2
  | .rtz, _ => (k : ℚ) ≤ q ∧ q < k + 1
  | .rup, false => (k : ℚ) - 1 < q ∧ q ≤ k
  | .rup, true => (k : ℚ) ≤ q ∧ q < k + 1
  | .rdn, false => (k : ℚ) ≤ q ∧ q < k + 1
  | .rdn, true => (k : ℚ) - 1 < q ∧ q ≤ k

/-- R52, R53: `r` is the code of float format `f`, with its flags, that `round_to` gives for the exact value `q`; `neg` is
its sign, that of an exact zero too. Overflow gives the largest finite value or infinity as R53 says, an inexact result below
the smallest normal value underflows. -/
def Sys2Proof.Claims.RoundsTo (f : FF) (mode : RMode) (sat : Bool) (q : ℚ) (neg : Bool) (r : Nat × Fl) : Prop :=
  let sign := bit neg * 2 ^ (f.eb + f.mb)
  let maxf := codeVal f (f.maxCode false)
  (q = 0 → r = (sign, 0)) ∧
  (q ≠ 0 → ∃ (e : Int) (k : Nat),
    f.emin ≤ e ∧ |q| < 2 ^ (e + 1) ∧ (e = f.emin ∨ 2 ^ e ≤ |q|) ∧
    RoundInt mode neg (|q| / 2 ^ (e - f.mb)) k ∧
    let y : ℚ := k * 2 ^ (e - f.mb)
    (maxf < y → r =
      if sat = true ∨ mode = .rtz ∨ mode = .rup ∧ neg = true ∨ mode = .rdn ∧ neg = false then (f.maxCode neg, OF ||| NX)
      else (if f.hasInf then f.infCode neg else f.canon, OF ||| NX ||| NFP)) ∧
    (y ≤ maxf → (∃ c, c ≤ f.maxCode false ∧ r.1 = sign + c ∧ codeVal f c = y) ∧
      r.2 = if y = |q| then 0 else if y < 2 ^ f.emin then NX ||| UF else NX))

/-- The rounding of an FP32 operation: once, to nearest even (R62). -/
def Sys2Proof.Claims.Rounded (q : ℚ) (neg : Bool) (r : BitVec 32 × Fl) : Prop :=
  RoundsTo .fp32 .rne false q neg (r.1.toNat, r.2)

/-- The sign of an exact result, and `zero` where it is 0. -/
def Sys2Proof.Claims.signOf (q : ℚ) (zero : Bool) : Bool := if q = 0 then zero else decide (q < 0)

/-- R52: the model's `round_to` gives every finite value its rounding, in every format, mode and saturation. -/
def Sys2Proof.Claims.RoundingRule : Prop :=
  ∀ (f : FF) (mode : RMode) (sat n : Bool) (num den : Nat) (exp : Int), den ≠ 0 →
    RoundsTo f mode sat ((if n then -1 else 1) * (num / den * 2 ^ exp)) n (roundTo (.fin n num den exp) f mode sat)

/-- R62, R143: the FP32 operations on finite operands round the exact sum, difference, product or fused sum once; an exact
zero is −0 only where every term is. -/
def Sys2Proof.Claims.FloatRounding : Prop :=
  ∀ (n : Bool) (p q c : BitVec 32), IsFin p → IsFin q → IsFin c →
    let P := p.getLsbD 31
    let Q := q.getLsbD 31
    let C := c.getLsbD 31
    let m := fval p * fval q
    let t := (if n then -m else m) + fval c
    Rounded (fval p + fval q) (signOf (fval p + fval q) (P && Q)) (fadd32 p q) ∧
    Rounded (fval p - fval q) (signOf (fval p - fval q) (P && !Q)) (fsub32 p q) ∧
    Rounded m (P ^^ Q) (fmul32 p q) ∧
    Rounded t (signOf t ((n ^^ P ^^ Q) && C)) (ffma32 n p q c)

/-- R157, R59: the sum of finite FP32 terms is their exact sum rounded once; an exact zero is −0 only where every term is. -/
def Sys2Proof.Claims.SumRounding : Prop :=
  ∀ l : List (BitVec 32), l ≠ [] → (∀ b ∈ l, IsFin b) →
    let t := (l.map fval).sum
    Rounded t (signOf t (l.all fun b => b.getLsbD 31)) (fsumAll l)

/-- R142: reading operands raises NFC where one is infinite or NaN, IV where one is a signalling NaN, and no other flag. -/
def Sys2Proof.Claims.OperandFlags : Prop :=
  ∀ l : List (BitVec 32),
    ((readFl l).getLsbD 5 = true ↔ ∃ b ∈ l, IsNan b ∨ IsInf b) ∧ ((readFl l).getLsbD 0 = true ↔ ∃ b ∈ l, IsSnan b) ∧
    readFl l &&& ~~~ (NFC ||| IV) = 0

/-- R143: each FP32 operation writes at issue+4, element by element, one function of its operands' codes. Of these functions:
a NaN operand gives 0x7FC0_0000 with the flags of its reading; inf − inf and 0 × inf give it with IV, NFP and NFC, 0 × inf
whatever the addend; an infinite sum of like signs, the signs of exact zeros, and the one rounding, to nearest even, in the
cases written out. -/
def Sys2Proof.Claims.VectorFloatArithmetic : Prop :=
  (∀ (s : State) (x : Iss) (pd : Pd) (d a b c : VRegN), s.issuer = some x →
    let A := el (x.core.rv a)
    let B := el (x.core.rv b)
    let C := el (x.core.rv c)
    WritesV x.core (.vadd pd d a b) s x pd 0x02 4 d (fun e => fadd32 (A e) (B e)) ∧
    WritesV x.core (.vsub pd d a b) s x pd 0x02 4 d (fun e => fsub32 (A e) (B e)) ∧
    WritesV x.core (.vmul pd d a b) s x pd 0x02 4 d (fun e => fmul32 (A e) (B e)) ∧
    WritesV x.core (.vfma pd d a b c) s x pd 0x02 4 d (fun e => ffma32 false (A e) (B e) (C e)) ∧
    WritesV x.core (.vfnma pd d a b c) s x pd 0x02 4 d (fun e => ffma32 true (A e) (B e) (C e))) ∧
  (∀ p q : BitVec 32, IsNan p ∨ IsNan q →
    fadd32 p q = (0x7FC00000, readFl [p, q]) ∧ fsub32 p q = (0x7FC00000, readFl [p, q]) ∧
    fmul32 p q = (0x7FC00000, readFl [p, q])) ∧
  (∀ p q : BitVec 32, IsInf p → IsInf q →
    (p ≠ q → fadd32 p q = (0x7FC00000, IV ||| NFP ||| NFC) ∧ (fsub32 p q).1 = p) ∧
    (p = q → (fadd32 p q).1 = p ∧ fsub32 p q = (0x7FC00000, IV ||| NFP ||| NFC))) ∧
  (∀ (n : Bool) (p q c : BitVec 32), IsInf p → q.extractLsb' 0 31 = 0 →
    ffma32 n p q c = (0x7FC00000, IV ||| NFP ||| NFC) ∧ ffma32 n q p c = (0x7FC00000, IV ||| NFP ||| NFC) ∧
    fmul32 p q = (0x7FC00000, IV ||| NFP ||| NFC) ∧ fmul32 q p = (0x7FC00000, IV ||| NFP ||| NFC)) ∧
  (∀ (n : Bool) (p q c : BitVec 32), IsInf p → ¬ IsNan q → q.extractLsb' 0 31 ≠ 0 →
    (IsNan c → ffma32 n p q c = (0x7FC00000, readFl [p, q, c])) ∧
    (IsInf c → c.getLsbD 31 ≠ (n ^^ p.getLsbD 31 ^^ q.getLsbD 31) → ffma32 n p q c = (0x7FC00000, IV ||| NFP ||| NFC))) ∧
  (∀ p q : BitVec 32, IsInf p → IsFin q →
    fadd32 p q = (p, NFC ||| NFP) ∧ fsub32 p q = (p, NFC ||| NFP) ∧ fsub32 q p = (p ^^^ 0x80000000, NFC ||| NFP) ∧
    (q.extractLsb' 0 31 ≠ 0 → fmul32 p q = (if q.getLsbD 31 then p ^^^ 0x80000000 else p, NFC ||| NFP))) ∧
  (∀ p q : BitVec 32, fadd32 p q = fadd32 q p ∧ fmul32 p q = fmul32 q p) ∧
  (∀ p : BitVec 32, ¬ IsNan p → ¬ IsInf p → fsub32 p p = (0, 0) ∧
    fmul32 p 0 = (if p.getLsbD 31 then 0x80000000 else 0, 0)) ∧
  fadd32 0x80000000 0x80000000 = (0x80000000, 0) ∧ fadd32 0x80000000 0x00000000 = (0, 0) ∧
  fadd32 0x3F800000 0x33800000 = (0x3F800000, NX) ∧ fadd32 0x3F800001 0x33800000 = (0x3F800002, NX) ∧
  fadd32 0x7F7FFFFF 0x7F7FFFFF = (0x7F800000, OF ||| NX ||| NFP) ∧
  ffma32 false 0x3F800800 0x3F800800 0xBF801000 = (0x33800000, 0)

/-- R144, R145, R146: minimum, maximum, sign operations and classes write at issue+2, with their values and flags, and a
compare its condition into a predicate, IV included where the condition raises it on a NaN. -/
def Sys2Proof.Claims.VectorFloatCompare : Prop :=
  (∀ (s : State) (x : Iss) (pd : Pd) (d a b : VRegN) (p : PReg) (cc : FCond), s.issuer = some x →
    let A := el (x.core.rv a)
    let B := el (x.core.rv b)
    WritesV x.core (.vmin pd d a b) s x pd 0x02 2 d (fun e => (fminmax false (A e) (B e), readFl [A e, B e])) ∧
    WritesV x.core (.vmax pd d a b) s x pd 0x02 2 d (fun e => (fminmax true (A e) (B e), readFl [A e, B e])) ∧
    (∃ h : BitVec 32 → BitVec 32 × Fl,
      (∀ q, ¬ IsNan q → (h q).1 = q &&& 0x7FFFFFFF) ∧ (∀ q, IsNan q → (h q).1 = 0x7FC00000) ∧
      (∀ q, (h q).2 = readFl [q]) ∧
      WritesV x.core (.vabs pd d a) s x pd 0x02 2 d (fun e => h (A e))) ∧
    (∃ h : BitVec 32 → BitVec 32 × Fl,
      (∀ q, ¬ IsNan q → (h q).1 = q ^^^ 0x80000000) ∧ (∀ q, IsNan q → (h q).1 = 0x7FC00000) ∧
      (∀ q, (h q).2 = readFl [q]) ∧
      WritesV x.core (.vneg pd d a) s x pd 0x02 2 d (fun e => h (A e))) ∧
    (∃ h : BitVec 32 → BitVec 32,
      (∀ q, IsNan q → h q = if q.getLsbD 22 then 0x200 else 0x100) ∧
      (∀ q, IsInf q → h q = if q.getLsbD 31 then 0x001 else 0x080) ∧
      (∀ q, q.extractLsb' 23 8 ≠ 0xFF → q.extractLsb' 23 8 ≠ 0 → h q = if q.getLsbD 31 then 0x002 else 0x040) ∧
      (∀ q, q.extractLsb' 23 8 = 0 → q.extractLsb' 0 23 ≠ 0 → h q = if q.getLsbD 31 then 0x004 else 0x020) ∧
      h 0x80000000 = 0x008 ∧ h 0x00000000 = 0x010 ∧
      WritesV x.core (.fclass pd d a) s x pd 0x02 2 d (fun e => (h (A e), 0))) ∧
    (∃ (h : BitVec 32 → BitVec 32 → Bool) (fl : BitVec 32 → BitVec 32 → Fl),
      (∀ q r, IsNan q ∨ IsNan r → h q r = (cc == .ne || cc == .un) ∧
        fl q r = if cc = .lt ∨ cc = .ge ∨ cc = .gt ∨ cc = .le then readFl [q, r] ||| IV else readFl [q, r]) ∧
      (∀ q r, ¬ IsNan q → ¬ IsNan r → fl q r = readFl [q, r] ∧ h q r = match cc with
        | .eq => decide (fkey q = fkey r)
        | .ne => decide (fkey q ≠ fkey r)
        | .lt => decide (fkey q < fkey r)
        | .ge => decide (fkey r ≤ fkey q)
        | .un => false
        | .or => true
        | .gt => decide (fkey r < fkey q)
        | .le => decide (fkey q ≤ fkey r)) ∧
      WritesP (.vcmp pd cc p a b) s x pd 2 p (fun e => h (A e) (B e)) (fun e => fl (A e) (B e)))) ∧
  (∀ g : Bool, ∀ p q : BitVec 32, (IsNan p → ¬ IsNan q → fminmax g p q = q) ∧ (¬ IsNan p → IsNan q → fminmax g p q = p) ∧
    (IsNan p → IsNan q → fminmax g p q = 0x7FC00000)) ∧
  (∀ p q : BitVec 32, ¬ IsNan p → ¬ IsNan q →
    fminmax false p q = (if forder p ≤ forder q then p else q) ∧ fminmax true p q = (if forder p ≤ forder q then q else p))

/-- R142 to R146: the FP32 words of the vector slots: arithmetic, minima, sign operations, compares and classes. What
arithmetic on finite operands gives in general is `RoundedResults`. -/
def Obligations.VectorFloats : Prop :=
  Sys2Proof.Claims.OperandFlags ∧ Sys2Proof.Claims.VectorFloatArithmetic ∧ Sys2Proof.Claims.VectorFloatCompare

/-- R147, R52, R54: what the three kinds of `cvt` give. `.fi`: the integer that the value rounds to in the mode, clamped to
the format with IV, NX where it is inexact; a NaN gives 0 with IV. `.if`: the integer's value rounded to FP32. `.ff`: the
value rounded to the descriptor's format, widened exactly. -/
def Sys2Proof.Claims.ConvertRule : Prop :=
  ∀ (mode : RMode) (fd : BitVec 32) (g : BitVec 32 → BitVec 32 × Fl) (a : BitVec 32), fmtLegal fd = true →
    let code := (fd.extractLsb' 0 4).toNat
    let sgn := fd.getLsbD 4
    (cvtElem .fi mode fd = some g →
      let w := if code = 6 then 8 else if code = 7 then 16 else 32
      let lo : Int := if sgn then -(2 ^ (w - 1)) else 0
      let hi : Int := if sgn then 2 ^ (w - 1) - 1 else 2 ^ w - 1
      (IsNan a → g a = (0, IV ||| readFl [a])) ∧
      (IsInf a → g a = (BitVec.ofInt 32 (if a.getLsbD 31 then lo else hi), IV ||| NFC)) ∧
      (IsFin a → ∃ k, RoundInt mode (a.getLsbD 31) |fval a| k ∧
        let n : Int := if a.getLsbD 31 then -(k : Int) else k
        (n < lo → g a = (BitVec.ofInt 32 lo, IV)) ∧ (hi < n → g a = (BitVec.ofInt 32 hi, IV)) ∧
        (lo ≤ n → n ≤ hi → g a = (BitVec.ofInt 32 n, if (n : ℚ) = fval a then 0 else NX)))) ∧
    (cvtElem .if' mode fd = some g →
      let v : Int := if sgn then a.toInt else a.toNat
      RoundsTo .fp32 mode false v (decide (v < 0)) ((g a).1.toNat, (g a).2)) ∧
    (cvtElem .ff mode fd = some g →
      let F : FF := if code = 1 then .bf16 else if code = 2 then .fp16 else if code = 3 then .e4m3 else .e5m2
      (IsNan a → g a = (0x7FC00000, readFl [a])) ∧
      (IsInf a → code ≠ 3 → g a = (a, NFC ||| NFP)) ∧
      (IsFin a → ∃ r, RoundsTo F mode (fd.getLsbD 18) (fval a) (a.getLsbD 31) r ∧ (g a).2 = r.2 ∧
        (F.isNanCode r.1 = true → (g a).1 = 0x7FC00000) ∧
        (r.1 = F.infCode false → F.hasInf = true → (g a).1 = 0x7F800000) ∧
        (r.1 = F.infCode true → F.hasInf = true → (g a).1 = 0xFF800000) ∧
        (∀ s c, r.1 = bit s * 2 ^ (F.eb + F.mb) + c → c ≤ F.maxCode false →
          IsFin (g a).1 ∧ (g a).1.getLsbD 31 = s ∧ fval (g a).1 = codeVal F r.1)))

/-- R147: with a descriptor that suits the kind `cvt` writes at issue+4 one function of each active element's code, with
another it raises illegal-operand; which descriptors suit which kind; and the two conversions that R147 works out. -/
def Sys2Proof.Claims.VectorConvert : Prop :=
  (∀ (s : State) (x : Iss) (pd : Pd) (kind : CvtKind) (mode : RMode) (d a : VRegN) (f : FReg), s.issuer = some x →
    (∀ g, cvtElem kind mode (x.core.rf f) = some g →
      WritesV x.core (.cvt pd kind mode d a f) s x pd 0x02 4 d (fun e => g (el (x.core.rv a) e))) ∧
    (cvtElem kind mode (x.core.rf f) = none → Raises (.cvt pd kind mode d a f) s x illegalOperand)) ∧
  (∀ (kind : CvtKind) (mode : RMode) (fd : BitVec 32), fmtLegal fd = true →
    ((cvtElem kind mode fd).isSome = true ↔
      match kind with
      | .fi => fd.extractLsb' 0 4 = 6 ∨ fd.extractLsb' 0 4 = 7 ∨ fd.extractLsb' 0 4 = 8
      | .if' => fd.extractLsb' 0 4 = 8
      | .ff => fd.extractLsb' 0 4 = 1 ∨ fd.extractLsb' 0 4 = 2 ∨ fd.extractLsb' 0 4 = 3 ∨ fd.extractLsb' 0 4 = 4)) ∧
  (∃ g, cvtElem .ff .rne 0x00000001 = some g ∧ g 0x3F808000 = (0x3F800000, NX)) ∧
  (∃ g, cvtElem .fi .rne 0x00000016 = some g ∧ g 0x43960000 = (127, IV))

/-- R150, R151, R142: a special function performs at issue+12 and occupies the unit for 4 cycles; one that issues sooner
after another raises the structural fault; an inactive word does not occupy the unit. A NaN gives the canonical NaN with NFP
and the flags of its reading; the results and flags at −inf, −0, +0 and +inf are those of R151; a negative finite operand of
`vlog2`, `vrsqrt` and `vsqrt` gives NaN, IV and NFP. -/
def Sys2Proof.Claims.SpecialFunctions : Prop :=
  (∀ (s : State) (x : Iss) (pd : Pd) (d a : VRegN), s.issuer = some x →
    let free := ∀ t w, x.core.sfu = some (t, w) → t + 4 ≤ x.now
    let k : Core := if x.core.mask pd = 0 then x.core else { x.core with sfu := some (x.now, x.w) }
    let Does (i : Instr) (f : SfuFn) : Prop :=
      (free ∨ x.core.mask pd = 0 → WritesV k i s x pd 0x03 12 d fun e => sfu f (el (x.core.rv a) e)) ∧
      (¬ free → x.core.mask pd ≠ 0 → Raises i s x structural)
    Does (.vexp2 pd d a) .exp2 ∧ Does (.vlog2 pd d a) .log2 ∧ Does (.vrcp pd d a) .rcp ∧ Does (.vrsqrt pd d a) .rsqrt ∧
    Does (.vsqrt pd d a) .sqrt ∧ Does (.vsin pd d a) .sin ∧ Does (.vcos pd d a) .cos ∧ Does (.vtanh pd d a) .tanh ∧
    Does (.vsigm pd d a) .sigm ∧ Does (.vgelu pd d a) .gelu ∧ Does (.verf pd d a) .erf) ∧
  (∀ (f : SfuFn) (b : BitVec 32), IsNan b → sfu f b = (0x7FC00000, NFP ||| readFl [b])) ∧
  (let At (f : SfuFn) : List (BitVec 32 × Fl) := [0xFF800000, 0x80000000, 0x00000000, 0x7F800000].map (sfu f)
   At .exp2 = [(0, NFC), (0x3F800000, 0), (0x3F800000, 0), (0x7F800000, NFC ||| NFP)] ∧
   At .log2 = [(0x7FC00000, IV ||| NFC ||| NFP), (0xFF800000, NFP), (0xFF800000, NFP), (0x7F800000, NFC ||| NFP)] ∧
   At .rcp = [(0x80000000, NFC), (0xFF800000, NFP), (0x7F800000, NFP), (0, NFC)] ∧
   At .rsqrt = [(0x7FC00000, IV ||| NFC ||| NFP), (0xFF800000, NFP), (0x7F800000, NFP), (0, NFC)] ∧
   At .sqrt = [(0x7FC00000, IV ||| NFC ||| NFP), (0x80000000, 0), (0, 0), (0x7F800000, NFC ||| NFP)] ∧
   At .sin = [(0x7FC00000, IV ||| NFC ||| NFP), (0x80000000, 0), (0, 0), (0x7FC00000, IV ||| NFC ||| NFP)] ∧
   At .cos = [(0x7FC00000, IV ||| NFC ||| NFP), (0x3F800000, 0), (0x3F800000, 0), (0x7FC00000, IV ||| NFC ||| NFP)] ∧
   At .tanh = [(0xBF800000, NFC), (0x80000000, 0), (0, 0), (0x3F800000, NFC)] ∧
   At .sigm = [(0, NFC), (0x3F000000, 0), (0x3F000000, 0), (0x3F800000, NFC)] ∧
   At .gelu = [(0x80000000, NFC), (0x80000000, 0), (0, 0), (0x7F800000, NFC ||| NFP)] ∧
   At .erf = [(0xBF800000, NFC), (0x80000000, 0), (0, 0), (0x3F800000, NFC)]) ∧
  (∀ b : BitVec 32, b.getLsbD 31 = true → b.extractLsb' 23 8 ≠ 0xFF → b.extractLsb' 0 31 ≠ 0 →
    sfu .log2 b = (0x7FC00000, IV ||| NFP) ∧ sfu .rsqrt b = (0x7FC00000, IV ||| NFP) ∧
    sfu .sqrt b = (0x7FC00000, IV ||| NFP))

/-- R152: the entry (E, c0, c1, c2) of a table, formed from g0, gh and g1, given in units of 2^−768: E is the exponent of the
greater of |g0| and |g1|, each coefficient its exact value rounded to nearest even. -/
def Sys2Proof.Claims.TableEntry : Prop :=
  ∀ g0 gh g1 : Int, (g0 ≠ 0 ∨ g1 ≠ 0) →
    let t := sfuEntry g0 gh g1
    let unit : ℚ := 2 ^ (-768 : Int)
    let most : ℚ := max |(g0 : ℚ)| |(g1 : ℚ)| * unit
    let Coef (v : Int) (k : Int) (c : Int) : Prop :=
      RoundInt .rne (decide (v < 0)) (|(v : ℚ)| * unit * 2 ^ (k - t.1)) c.natAbs ∧ (c < 0 → v < 0) ∧ (0 < c → 0 < v)
    (2 : ℚ) ^ t.1 ≤ most ∧ most < 2 ^ (t.1 + 1) ∧
    Coef g0 27 t.2.1 ∧ Coef (-3 * g0 + 4 * gh - g1) 21 t.2.2.1 ∧ Coef (2 * g0 - 4 * gh + 2 * g1) 15 t.2.2.2

/-- R152: q of a reduced function at segment i and u = n / 2^16. The function is given in units of 2^−768, by the model's
evaluation of it (log 10). -/
def Sys2Proof.Claims.quad (g : Int → Int) (i n : Nat) : ℚ :=
  let at' (h : Nat) : Int := fxClean (g ((h : Int) * 2 ^ 760))
  let (E, c0, c1, c2) := sfuEntry (at' (2 * i)) (at' (2 * i + 1)) (at' (2 * i + 2))
  let u : ℚ := n / 2 ^ 16
  (c0 * 2 ^ (-27 : Int) + c1 * 2 ^ (-21 : Int) * u + c2 * 2 ^ (-15 : Int) * u ^ 2) * 2 ^ E

/-- q at a 23-bit fraction m: its top 7 bits name the segment. -/
def Sys2Proof.Claims.quadAt (g : Int → Int) (m : Nat) : ℚ := quad g (m / 2 ^ 16) (m % 2 ^ 16)

/-- R152, R153: the power, root and logarithm functions of a finite operand, which is not 0. |x| = 2^k × (1 + m / 2^23). -/
def Sys2Proof.Claims.PowerFunctions : Prop :=
  ∀ (b : BitVec 32) (k : Int) (m : Nat), IsFin b → m < 2 ^ 23 → |fval b| = (2 ^ 23 + m) * 2 ^ (k - 23) →
    let neg := b.getLsbD 31
    let h := (k % 2).toNat
    Rounded ((if neg then -1 else 1) * (quadAt (fun m => fxDiv fxOne (fxOne + m)) m * 2 ^ (-k))) neg (sfu .rcp b) ∧
    (neg = false →
      let t := k + quadAt (fun m => fxDiv (fxLn1p m) fxLn2) m
      Rounded t (signOf t false) (sfu .log2 b) ∧
      Rounded (quadAt (fun m => fxDiv fxOne (fxSqrt (2 ^ h * (fxOne + m)))) m * 2 ^ (-((k - h) / 2))) false (sfu .rsqrt b) ∧
      Rounded (quadAt (fun m => fxSqrt (2 ^ h * (fxOne + m))) m * 2 ^ ((k - h) / 2)) false (sfu .sqrt b)) ∧
    (-150 ≤ fval b → fval b < 128 →
      let m : ℤ := ⌊Int.fract (fval b) * 2 ^ 23⌋
      Rounded (quadAt (fun m => fxExp (fxMul m fxLn2)) m.toNat * 2 ^ (⌊fval b⌋ : ℤ)) false (sfu .exp2 b)) ∧
    (128 ≤ fval b → sfu .exp2 b = (0x7F800000, OF ||| NX ||| NFP)) ∧
    (fval b < -150 → sfu .exp2 b = (0, UF ||| NX))

/-- R153: sine and cosine: a small operand without a table, any other by octants of the fraction of x × C, C being 1/(2π)
rounded to 160 bits; S and C are read at w or at 1 − w, with the sign of the octant. -/
def Sys2Proof.Claims.CircularFunctions : Prop :=
  ∀ b : BitVec 32, IsFin b → fval b ≠ 0 →
    (|fval b| < 2 ^ (-12 : Int) → sfu .sin b = (b, 0) ∧ sfu .cos b = (0x3F800000, 0)) ∧
    ((2 : ℚ) ^ (-12 : Int) ≤ |fval b| →
      let y := fval b * (invTwoPi / 2 ^ 160)
      let r := (⌊Int.fract y * 2 ^ 26⌋ : ℤ).toNat
      let o := r / 2 ^ 23
      let w := r % 2 ^ 23
      let read (g : Int → Int) (back : Bool) : ℚ :=
        if back then (if w = 0 then quad g 127 (2 ^ 16) else quadAt g (2 ^ 23 - w)) else quadAt g w
      let S := read fun x => fxSin (fxMul x fxPi / 4)
      let C := read fun x => fxCos (fxMul x fxPi / 4)
      let sin := [S false, C true, C false, S true, -S false, -C true, -C false, -S true].getD o 0
      let cos := [C false, S true, -S false, -C true, -C false, -S true, S false, C true].getD o 0
      (∃ z, Rounded sin (signOf sin z) (sfu .sin b)) ∧ (∃ z, Rounded cos (signOf cos z) (sfu .cos b)))

/-- R154: the activation functions: inside the binades of their tables the table of the operand's binade and sign, below and
above them the closed forms. -/
def Sys2Proof.Claims.ActivationFunctions : Prop :=
  ∀ (b : BitVec 32) (k : Int) (m : Nat), IsFin b → m < 2 ^ 23 → |fval b| = (2 ^ 23 + m) * 2 ^ (k - 23) →
    let neg := b.getLsbD 31
    let x := fval b
    let v (m : Int) : Int := if 0 ≤ k then (fxOne + m) * 2 ^ k.toNat else (fxOne + m) / 2 ^ (-k).toNat
    let odd (g : Int → Int) : ℚ := (if neg then -1 else 1) * quadAt (fun m => g (v m)) m
    let each (g : Int → Int) : ℚ := quadAt (fun m => g (if neg then -v m else v m)) m
    let In (lo hi : Int) : Prop := lo ≤ k ∧ k ≤ hi
    (In (-12) 3 → Rounded (odd fxTanh) neg (sfu .tanh b)) ∧
    (In (-12) 2 → Rounded (odd fxErf) neg (sfu .erf b)) ∧
    (In (-12) 4 → ∃ z, Rounded (each fxSigm) (signOf (each fxSigm) z) (sfu .sigm b)) ∧
    (In (-24) 3 → ∃ z, Rounded (each fxGelu) (signOf (each fxGelu) z) (sfu .gelu b)) ∧
    (k < -12 → sfu .tanh b = (b, 0) ∧ Rounded (1 / 2 + x / 4) false (sfu .sigm b) ∧
      Rounded (x * (fxDiv (2 * fxOne) (fxSqrt fxPi) * 2 ^ (-768 : Int))) neg (sfu .erf b)) ∧
    (k < -24 → Rounded (x / 2) neg (sfu .gelu b)) ∧
    (3 < k → sfu .tanh b = (if neg then 0xBF800000 else 0x3F800000, 0) ∧
      sfu .gelu b = (if neg then 0x80000000 else b, 0)) ∧
    (2 < k → sfu .erf b = (if neg then 0xBF800000 else 0x3F800000, 0)) ∧
    (4 < k → (neg = false → sfu .sigm b = (0x3F800000, 0)) ∧
      (neg = true → ∃ y, Rounded (x * (fxDiv fxOne fxLn2 * 2 ^ (-768 : Int))) true y ∧
        (IsFin y.1 → sfu .sigm b = ((sfu .exp2 y.1).1, y.2 ||| (sfu .exp2 y.1).2)) ∧
        (IsInf y.1 → sfu .sigm b = (0, y.2))))

/-- R142, R147, R150, R151: conversions, and the special functions with their special values. What a conversion and a finite
operand give in general is `RoundedResults` and `SpecialFunctionValues`. -/
def Obligations.ConversionsAndFunctions : Prop :=
  Sys2Proof.Claims.VectorConvert ∧ Sys2Proof.Claims.SpecialFunctions

/-- R41, R42, R51 to R54, R59, R62, R143, R147: rounding. `round_to` in every format, mode and saturation; the FP32
operations on finite operands, the sums of reductions, and the three kinds of conversion round the exact result once. -/
def Obligations.RoundedResults : Prop :=
  Sys2Proof.Claims.RoundingRule ∧ Sys2Proof.Claims.FloatRounding ∧ Sys2Proof.Claims.SumRounding ∧
  Sys2Proof.Claims.ConvertRule

/-- R152, R153, R154: the special functions of finite operands: the entries of their tables, the quadratic, the reduction and
the reconstruction of each function, rounded once; the functions themselves are the model's evaluations of them (log 10). -/
def Obligations.SpecialFunctionValues : Prop :=
  Sys2Proof.Claims.TableEntry ∧ Sys2Proof.Claims.PowerFunctions ∧ Sys2Proof.Claims.CircularFunctions ∧
  Sys2Proof.Claims.ActivationFunctions

/-- R156, R158: where each element of a rotation, a broadcast, a splat or an insert comes from, and what `vext` gives a
scalar register. n is s + sext(IMM16), modulo the axis length. -/
def Sys2Proof.Claims.Rearrangement : Prop :=
  ∀ (s : State) (x : Iss) (pd : Pd) (d a : VRegN) (t : SReg) (imm : BitVec 16) (idx : BitVec 10) (q : QReg) (sx : Bool),
    s.issuer = some x →
    let n := (x.core.rs t + imm.signExtend 64).toNat
    let A (row col : Nat) : BitVec 32 := el (x.core.rv a) (row * 64 + col)
    let Does (i : Instr) (lat : Nat) (g : Nat → Nat → BitVec 32) : Prop :=
      WritesV x.core i s x pd 0x02 lat d fun e => (g (e / 64) (e % 64), 0)
    Does (.rotr pd d a t imm) 2 (fun row col => A row ((col + 64 - n % 64) % 64)) ∧
    Does (.rotc pd d a t imm) 6 (fun row col => A ((row + 16 - n % 16) % 16) col) ∧
    Does (.bcr pd d a t imm) 2 (fun row _ => A row (n % 64)) ∧
    Does (.bcc pd d a t imm) 6 (fun _ col => A (n % 16) col) ∧
    Does (.vsplat pd d t imm) 2 (fun _ _ => BitVec.ofNat 32 n) ∧
    Does (.vsplatQ pd d q) 2 (fun row col => (x.core.qhead q.toNat).getD (row * 64 + col) 0) ∧
    Does (.vins pd d a t idx) 2 (fun row col =>
      if row * 64 + col = idx.toNat then (x.core.rs t).truncate 32 else A row col) ∧
    (x.core.on pd = true →
      (∃ v, Later (.vext pd sx d a t imm) s x [0x02] [(4, .wS (d.zeroExtend 6) v, 0)] ∧
        (sx = false → v.toNat = (el (x.core.rv a) (n % 1024)).toNat) ∧
        (sx = true → v.toInt = (el (x.core.rv a) (n % 1024)).toInt)) ∧
      (∃ v, Later (.vextQ pd d q) s x [0x02] [(4, .wS (d.zeroExtend 6) v, 0)] ∧
        v.toNat = ((x.core.qhead q.toNat).getD 0 0).toNat + 2 ^ 32 * ((x.core.qhead q.toNat).getD 1 0).toNat))

/-- R157: along a row (issue+6) or a column (issue+10) every active element receives the reduction of the active elements,
with its flags; what the integer operators give. -/
def Sys2Proof.Claims.Reductions : Prop :=
  (∀ (s : State) (x : Iss) (pd : Pd) (op : RedOp) (d a : VRegN), s.issuer = some x →
    let on (e : Nat) : Bool := (x.core.mask pd).getLsbD e
    let terms (l : List Nat) : List (BitVec 32) := (l.filter on).map fun e => el (x.core.rv a) e
    WritesV x.core (.redr pd op d a) s x pd 0x02 6 d
      (fun e => reduce op (terms ((List.range 64).map fun j => e / 64 * 64 + j))) ∧
    WritesV x.core (.redc pd op d a) s x pd 0x02 10 d
      (fun e => reduce op (terms ((List.range 16).map fun j => j * 64 + e % 64)))) ∧
  (∀ l : List (BitVec 32), l ≠ [] →
    (reduce .isum l).1.toNat = (l.map BitVec.toNat).sum % 2 ^ 32 ∧
    ((reduce .imax l).1 ∈ l ∧ ∀ b ∈ l, b.toInt ≤ (reduce .imax l).1.toInt) ∧
    ((reduce .imin l).1 ∈ l ∧ ∀ b ∈ l, (reduce .imin l).1.toInt ≤ b.toInt) ∧
    ((reduce .umax l).1 ∈ l ∧ ∀ b ∈ l, b.toNat ≤ (reduce .umax l).1.toNat) ∧
    ((reduce .umin l).1 ∈ l ∧ ∀ b ∈ l, (reduce .umin l).1.toNat ≤ b.toNat) ∧
    (∀ k, k < 32 → (reduce .and' l).1.getLsbD k = l.all fun b => b.getLsbD k) ∧
    (∀ k, k < 32 → (reduce .or' l).1.getLsbD k = l.any fun b => b.getLsbD k) ∧
    (∀ k, k < 32 → (reduce .xor' l).1.getLsbD k = decide ((l.countP fun b => b.getLsbD k) % 2 = 1)))

/-- R156 to R158: rearrangement and reductions. -/
def Obligations.RearrangeAndReduce : Prop :=
  Sys2Proof.Claims.Rearrangement ∧ Sys2Proof.Claims.Reductions

/-- R157: the exact FP32 sum, its code and its flags, does not depend on the order of its terms. -/
def Obligations.SumOrderFree : Prop :=
  ∀ l l' : List (BitVec 32), l.Perm l' → fsumAll l = fsumAll l'

/-- R161, R162, R164: the vector loads and stores of the bank wall and of the Switchback array: the access that each
schedules, with its cycle (issue+2 and issue+6; issue+2 and issue+4), the pattern and row of its network, the source as read
at issue, and the operands that fault: which descriptors and sub-words a bank access admits, and which addresses are quad
starts; an address beyond the array that is no quad start either raises the address fault, an order that is the model's (log
47). -/
def Sys2Proof.Claims.VectorLocal : Prop :=
  ∀ (s : State) (x : Iss) (pd : Pd) (d : VRegN) (net col : Bool) (row t : SReg) (f : FReg), s.issuer = some x →
    let c := x.core
    let m := c.mask pd
    let T := (c.rs t).toNat
    let pat (k : Nat) : Pattern × Bool := c.pattern (s.image x.ag) (netPat c.netw k)
    let base (k : Nat) : Nat := (netRow c.netw k + (c.rs row).toNat % 512) % 512
    (fmtLegal (c.rf f) = true →
      (subOk (c.rf f) (c.rs t) = true ↔ match ((c.rf f).extractLsb' 0 4).toNat with
        | 0 | 8 => T = 0
        | 1 | 2 | 7 => T < 2
        | 3 | 4 | 6 => T < 4
        | _ => False)) ∧
    (subOk (c.rf f) (c.rs t) = true →
      Later (.vld pd d net row f t) s x []
        [(2, .vld d (pat (bit net)).1 (pat (bit net)).2 (base (bit net)) (c.rf f) T m, 0)] ∧
      Later (.vst pd d row f t) s x [] [(6, .vst (c.rv d) (pat 2).1 (pat 2).2 (base 2) (c.rf f) T m, 0)]) ∧
    (subOk (c.rf f) (c.rs t) = false →
      Raises (.vld pd d net row f t) s x illegalOperand ∧ Raises (.vst pd d row f t) s x illegalOperand) ∧
    (∀ j, j < 64 → T = (if col then j * 16 else j * 4096) →
      Later (.vldt pd d t col) s x [] [(2, .vldt d j col m, 0)] ∧
      Later (.vstt pd d t col) s x [] [(4, .vstt (c.rv d) j col m, 0)]) ∧
    (2 ^ 18 ≤ T → Raises (.vldt pd d t col) s x (addressFault T) ∧ Raises (.vstt pd d t col) s x (addressFault T)) ∧
    (T < 2 ^ 18 → (∀ j, j < 64 → T ≠ if col then j * 16 else j * 4096) →
      Raises (.vldt pd d t col) s x (misaligned T) ∧ Raises (.vstt pd d t col) s x (misaligned T))

/-- R83, R121, R122, R161, R162, R164: the loads and stores of the core's own memories, scalar and vector. -/
def Obligations.LocalLoadStore : Prop :=
  Sys2Proof.Claims.ScalarLocal ∧ Sys2Proof.Claims.VectorLocal

/-- R165: the bytes per code of a legal descriptor's format; E2M1 and BPI have none. -/
def Sys2Proof.Claims.CodeBytes : Prop :=
  ∀ fd : BitVec 32, fmtLegal fd = true → gBytes fd = match (fd.extractLsb' 0 4).toNat with
    | 0 | 8 => some 4
    | 1 | 2 | 7 => some 2
    | 3 | 4 | 6 => some 1
    | _ => none

/-- R165, R166: the vector loads of G. `n` is the code's size in bytes. A load leaves as the core's next fetch, due at
issue+700, with the granules of its active elements paid; one without an active element fetches nothing and has its zeros at
once. -/
def Sys2Proof.Claims.VectorGlobalLoad : Prop :=
  ∀ (s : State) (x : Iss) (pd : Pd) (d : VRegN) (cnt t : SReg) (f : FReg) (ac : ACls) (n : Nat), s.issuer = some x →
    let fd := x.core.rf f
    let V := (x.core.rs t).toNat
    let m := x.core.mask pd
    let st : FetchSt := if m = 0 then .arrived (List.replicate (1024 * n) 0) else .walking
    let load (kind : FetchKind) : Core := s.payG x.ag (s.ctx x.ag) .rd ((vecUnits V n 64 m).map fun g => (g, 64))
      (fetched x (vcls x pd 0x06) 700 kind V ac st)
    (gBytes fd = some n → V < 2 ^ 57 → V % n = 0 →
      Leaves (.vldg pd d f ac t) s x (load (.vldg d fd m none)) ∧
      Leaves (.vldgFf pd d cnt f ac t) s x (load (.vldg d fd m (some cnt)))) ∧
    (gBytes fd = none → Raises (.vldg pd d f ac t) s x illegalOperand ∧ Raises (.vldgFf pd d cnt f ac t) s x illegalOperand) ∧
    (gBytes fd = some n → V < 2 ^ 57 → V % n ≠ 0 → Raises (.vldg pd d f ac t) s x (misaligned V) ∧
      Raises (.vldgFf pd d cnt f ac t) s x (misaligned V)) ∧
    (gBytes fd = some n → 2 ^ 57 ≤ V → Raises (.vldg pd d f ac t) s x (addressFault V) ∧
      Raises (.vldgFf pd d cnt f ac t) s x (addressFault V))

/-- R167: the vector store to G takes 128 × n entries of the egress buffer, whatever its predicate, and fills them in its
issue cycle with the narrowed codes of the active elements at consecutive addresses from s, an inactive element's bytes being
absent; its flags come at issue+6, when the walk of its pages, if it has an active element, must be over. It writes no
memory, and with too few free entries it raises egress-overflow. -/
def Sys2Proof.Claims.VectorGlobalStore : Prop :=
  ∀ (s : State) (x : Iss) (pd : Pd) (d : VRegN) (t : SReg) (f : FReg) (ac : ACls) (n : Nat), s.issuer = some x →
    let fd := x.core.rf f
    let V := (x.core.rs t).toNat
    let m := x.core.mask pd
    let code (e : Nat) : Nat × Fl := narrow fd (el (x.core.rv d) e)
    (gBytes fd = some n → V < 2 ^ 57 → V % n = 0 → x.core.egressUsed + n * 128 ≤ 8192 →
      ∃ (c : Core) (es : List Egress) (fl : Fl), Leaves (.vstg pd d f ac t) s x c ∧
        c.egress = x.core.egress ++ es ∧ c.egressUsed = x.core.egressUsed + n * 128 ∧
        (∀ e ∈ es, e.inPath = false ∧ e.iss = x.now ∧ e.ac = ac ∧ e.word = x.w ∧ e.baddr = x.core.pc ∧ e.failed = none) ∧
        (∀ k e, es[k]? = some e → e.va = V + ((es.take k).flatMap fun e => e.bytes).length) ∧
        (es.flatMap fun e => e.bytes).length = 1024 * n ∧
        (∀ e j, e < 1024 → j < n → (es.flatMap fun e => e.bytes).getD (e * n + j) none =
          if m.getLsbD e then some (BitVec.ofNat 8 ((code e).1 / 2 ^ (8 * j))) else none) ∧
        c.pend = x.core.pend ++ [due x (6, .flagsOnly, fl)] ∧
        (∀ j, fl.getLsbD j = true ↔ ∃ e, e < 1024 ∧ m.getLsbD e = true ∧ (code e).2.getLsbD j = true) ∧
        (m = 0 → c.fetches = x.core.fetches) ∧
        (m ≠ 0 → ∃ g, c.fetches = x.core.fetches ++ [g] ∧ g.due = x.now + 6 ∧ g.kind = .vstg fd m ∧ g.va = V ∧
          g.ac = ac ∧ g.st = .walking) ∧
        c = { x.core with egress := c.egress, pend := c.pend, fetches := c.fetches, nextId := c.nextId, chg := c.chg,
                          walked := c.walked }) ∧
    (gBytes fd = some n → V < 2 ^ 57 → V % n = 0 → 8192 < x.core.egressUsed + n * 128 →
      Raises (.vstg pd d f ac t) s x { cause := 0x0D, addr := V }) ∧
    (gBytes fd = none → Raises (.vstg pd d f ac t) s x illegalOperand) ∧
    (gBytes fd = some n → V < 2 ^ 57 → V % n ≠ 0 → Raises (.vstg pd d f ac t) s x (misaligned V)) ∧
    (gBytes fd = some n → 2 ^ 57 ≤ V → Raises (.vstg pd d f ac t) s x (addressFault V))

/-- R165, R166, R167: the vector loads and stores of G: what each leaves at issue, and its faults; illegal-operand, then the
address fault, then the misaligned one, then egress-overflow where several checks of one word fail, an order that is the
model's (log 47). -/
def Obligations.VectorGlobalMemory : Prop :=
  Sys2Proof.Claims.CodeBytes ∧ Sys2Proof.Claims.VectorGlobalLoad ∧ Sys2Proof.Claims.VectorGlobalStore

/-! ## Solver, scan unit, remainder stack -/

/-- R168, R169: what a solve of the active elements of `v` gives. An element whose word no earlier routed element's bank
contradicts is served; every element that is served reads, through the pattern, the word that its address names. -/
def Sys2Proof.Claims.Served (v : VReg) (m : BitVec 1024) (e : Nat) : Prop :=
  m.getLsbD e = true ∧
  ∀ e', e' < e → m.getLsbD e' = true → (el v e').toNat / 4 % 1024 = (el v e).toNat / 4 % 1024 →
    (∀ e'', e'' < e' → m.getLsbD e'' = true → (el v e'').toNat / 4 % 1024 ≠ (el v e).toNat / 4 % 1024) →
    el v e' = el v e

/-- R168: the result predicate and the lost count of a solve, for addresses that pass its checks. -/
def Sys2Proof.Claims.SolveResult : Prop :=
  ∀ (v : VReg) (m : BitVec 1024),
    (∀ e, e < 1024 → m.getLsbD e = true → (el v e).toNat < 2 ^ 23 ∧ (el v e).toNat % 4 = 0) →
    (∀ e, e < 1024 → ((solve v m).2.1.getLsbD e = true ↔ Served v m e)) ∧
    (solve v m).2.2 = (List.range 1024).countP fun e => m.getLsbD e && !(solve v m).2.1.getLsbD e

/-- R168, R163, R73, R74: what the pattern and the echo vector of a solve give a load under the result predicate. A served
element whose bank no lower active element names is routed to that bank, with its group and row; another one takes the value
of the first that names the bank; and a load delivers to every served element the word that its address names. -/
def Sys2Proof.Claims.SolvePattern : Prop :=
  ∀ (v : VReg) (m : BitVec 1024),
    (∀ e, e < 1024 → m.getLsbD e = true → (el v e).toNat < 2 ^ 23 ∧ (el v e).toNat % 4 = 0) →
    let pat := (solve v m).1
    let bank (e : Nat) : Nat := (el v e).toNat / 4 % 1024
    let First (e : Nat) : Prop := m.getLsbD e = true ∧ ∀ e', e' < e → m.getLsbD e' = true → bank e' ≠ bank e
    ∀ e, e < 1024 → Served v m e →
      (First e → pat.echo e = false ∧ portOf pat.sw e = bank e ∧ pat.group (bank e) = (el v e).toNat / 4096 % 4 ∧
        pat.rowOff (bank e) = (el v e).toNat / 16384) ∧
      (∀ e', e' < e → First e' → bank e' = bank e → pat.echo e = true ∧ pat.echoSrc e = e') ∧
      ∀ mem : Mem, (netLoad mem pat true 0 0 (solve v m).2.1).getD e 0 = BitVec.ofNat 32 (mem.num (el v e).toNat 4)

/-- R168, R169, R80: `solve` performs pattern slot, predicate and count at issue+48, and with `.q` the status entry of q6;
the solver takes one in 8 cycles, and q6 holds 8 entries; the lowest failing address raises its fault. -/
def Sys2Proof.Claims.SolveInstruction : Prop :=
  ∀ (s : State) (x : Iss) (pd : Pd) (qd : Bool) (d : PReg) (a : VRegN) (cnt : SReg) (slot : BitVec 3),
    s.issuer = some x →
    let c := x.core
    let v := c.rv a
    let m := c.mask pd
    let good := ∀ e, e < 1024 → m.getLsbD e = true → (el v e).toNat < 2 ^ 23 ∧ (el v e).toNat % 4 = 0
    let free := ∀ t w, c.solv = some (t, w) → t + 8 ≤ x.now
    let results : List (Nat × Act × Fl) :=
      [(48, .dyn slot (solve v m).1, 0), (48, .wP d (solve v m).2.1, 0), (48, .wS cnt (BitVec.ofNat 64 (solve v m).2.2), 0)]
    let status : List (BitVec 32) :=
      [BitVec.ofNat 32 (popcount (solve v m).2.1 + (solve v m).2.2 * 2 ^ 16), slot.zeroExtend 32]
    let k : Core := { c with solv := some (x.now, x.w) }
    (good → free → qd = false → LaterFrom k (.solve pd qd d a cnt slot) s x (vcls x pd 0x05) results) ∧
    (good → free → qd = true → c.qfill 6 < 8 →
      LaterFrom k (.solve pd qd d a cnt slot) s x (vcls x pd 0x05) (results ++ [(48, .push 6 status, 0)])) ∧
    (good → ¬ free ∨ (qd = true ∧ 8 ≤ c.qfill 6) → Raises (.solve pd qd d a cnt slot) s x structural) ∧
    (∀ e, e < 1024 → m.getLsbD e = true →
      (∀ j, j < e → m.getLsbD j = true → (el v j).toNat < 2 ^ 23 ∧ (el v j).toNat % 4 = 0) →
      (2 ^ 23 ≤ (el v e).toNat → Raises (.solve pd qd d a cnt slot) s x (addressFault (el v e).toNat)) ∧
      ((el v e).toNat < 2 ^ 23 → (el v e).toNat % 4 ≠ 0 →
        Raises (.solve pd qd d a cnt slot) s x (misaligned (el v e).toNat)))

/-- R73, R74, R80, R163, R168, R169: the solver: which elements it serves, the pattern and the echo vector it writes, its
results and its faults. A failing address is raised before structural where both checks fail, an order that is the model's
(log 47). -/
def Obligations.Solver : Prop :=
  Sys2Proof.Claims.SolveResult ∧ Sys2Proof.Claims.SolvePattern ∧ Sys2Proof.Claims.SolveInstruction

/-- R184, R185, R186: a scan operation that the unit may take writes its count, its flags and its images at its latency, to
registers or to a queue; one that comes within the interval of the last, or would overfill its queue of 4 entries, raises the
structural fault. -/
def Obligations.ScanInstructions : Prop :=
  ∀ (s : State) (x : Iss) (pd : Pd) (kt : KeyT) (o : Bool) (d a : VRegN) (cnt : SReg) (qd qn : Bool) (k : BitVec 10),
    s.issuer = some x →
    let c := x.core
    let v := c.rv a
    let m := c.mask pd
    let free := ∀ t n w, c.scan = some (t, n, w) → t + n ≤ x.now
    let all : BitVec 1024 := BitVec.allOnes 1024
    let Does (i : Instr) (lat ivl : Nat) (r : List VReg × Nat × Fl) : Prop :=
      let room := qd = false ∨ c.qfill (bit qn) + r.1.length ≤ 4
      (free → room → LaterFrom { c with scan := some (x.now, ivl, x.w) } i s x (vcls x pd 0x04)
        ([(lat, .wS cnt (BitVec.ofNat 64 r.2.1), 0), (lat, .flagsOnly, r.2.2)] ++
          r.1.mapIdx fun j img => (lat, if qd then Act.push (bit qn) img.toList
            else Act.wV (d + BitVec.ofNat 5 j) img all, (0 : Fl)))) ∧
      (¬ free ∨ ¬ room → Raises i s x structural)
    Does (.sort pd kt o d a cnt qd qn) 96 32 (sortImages kt o v m 1024 1024) ∧
    Does (.topk pd kt o d a cnt qd qn k) 64 16 (sortImages kt o v m (k.toNat + 1) (k.toNat + 1)) ∧
    Does (.cntoff pd d a cnt qd qn k) 32 8 (cntoffImages (k.toNat + 1) v m) ∧
    Does (.pfx pd kt o d a cnt qd qn) 12 4 (pfxImage kt o v m) ∧
    Does (.comp pd kt d a cnt qd qn) 8 2 (compImage kt v m)

/-- R185: an element takes part in a scan operation: it is active, and with FP32 keys no NaN. -/
def Sys2Proof.Claims.takes (kt : KeyT) (v : VReg) (m : BitVec 1024) (e : Nat) : Bool :=
  m.getLsbD e && !(kt == .f32 && (el v e).extractLsb' 23 8 == 0xFF && (el v e).extractLsb' 0 23 != 0)

/-- R187: the place of a key in the order of its type. -/
def Sys2Proof.Claims.keyOf (kt : KeyT) (b : BitVec 32) : Int :=
  match kt with
  | .f32 => fkey b
  | .i32 => b.toInt
  | .u32 => b.toNat

/-- R185: the flags of reading the active keys; integer keys raise none. -/
def Sys2Proof.Claims.keyFlags (kt : KeyT) (v : VReg) (m : BitVec 1024) : Fl :=
  if kt = .f32 then readFl (((List.range 1024).filter fun e => m.getLsbD e).map fun e => el v e) else 0

/-- R187, R188: what `sort` (k = 1,024) and `topk` return, for keys of every type: the first k of the elements that take
part, by key, equal keys in input order, each with its position; the fill up to k; 0 beyond; and their number. -/
def Sys2Proof.Claims.SortedImages : Prop :=
  ∀ (kt : KeyT) (asc : Bool) (v : VReg) (m : BitVec 1024) (k : Nat), k ≤ 1024 →
    let r := sortImages kt asc v m k k
    let first := r.1.getD 0 VReg.zero
    let second := r.1.getD 1 VReg.zero
    let n := min k ((List.range 1024).countP fun e => takes kt v m e)
    let key (e : Nat) : Int := keyOf kt (el v e)
    let pos (j : Nat) : Nat := (el second j).toNat
    let Before (e e' : Nat) : Prop := (if asc then key e < key e' else key e' < key e) ∨ key e = key e' ∧ e < e'
    r.1.length = 2 ∧ r.2.1 = n ∧ r.2.2 = keyFlags kt v m ∧
    (∀ j, j < n → pos j < 1024 ∧ takes kt v m (pos j) = true ∧ el first j = el v (pos j)) ∧
    (∀ i j, i < j → j < n → Before (pos i) (pos j)) ∧
    (∀ e, e < 1024 → takes kt v m e = true → (∀ j, j < n → pos j ≠ e) → ∀ j, j < n → Before (pos j) e) ∧
    (∀ j, n ≤ j → j < k → el first j = 0x7FC00000 ∧ el second j = 0x0000FFFF) ∧
    (∀ j, k ≤ j → j < 1024 → el first j = 0 ∧ el second j = 0)

/-- R189: what `cntoff` returns for B buckets: the size of each, its offset, the place of every element within its bucket,
and how many active elements have none. -/
def Sys2Proof.Claims.BucketCounts : Prop :=
  ∀ (b : Nat) (v : VReg) (m : BitVec 1024), 1 ≤ b → b ≤ 256 →
    let r := cntoffImages b v m
    let key (e : Nat) : Nat := (el v e).toNat
    let here (e : Nat) : Bool := m.getLsbD e && decide (key e < b)
    let count (p : Nat → Bool) (n : Nat) : Nat := (List.range n).countP fun e => here e && p e
    let off (i : Nat) : Nat := count (fun e => decide (key e < i)) 1024
    r.1.length = 2 ∧
    (∀ i, i < 1024 → el (r.1.getD 0 VReg.zero) i =
      if i < b then BitVec.ofNat 32 (count (fun e => key e == i) 1024)
      else if 256 ≤ i ∧ i < 256 + b then BitVec.ofNat 32 (off (i - 256)) else 0) ∧
    (∀ e, e < 1024 → el (r.1.getD 1 VReg.zero) e =
      if here e then BitVec.ofNat 32 (off (key e) + count (fun e' => key e' == key e) e) else 0xFFFFFFFF) ∧
    r.2 = ((List.range 1024).countP fun e => m.getLsbD e && decide (b ≤ key e), 0)

/-- R190, R59: the running sums of `pfx` and their total: of integers modulo 2^32, of finite FP32 terms the exact sum rounded
once, +0 where there is none. -/
def Sys2Proof.Claims.RunningSums : Prop :=
  ∀ (kt : KeyT) (exc : Bool) (v : VReg) (m : BitVec 1024),
    let r := pfxImage kt exc v m
    let img := r.1.getD 0 VReg.zero
    let terms (n : Nat) : List (BitVec 32) := ((List.range n).filter fun e => takes kt v m e).map fun e => el v e
    let upTo (e : Nat) : List (BitVec 32) := terms (if exc then e else e + 1)
    let Sum (l : List (BitVec 32)) (b : BitVec 32 × Fl) : Prop :=
      Rounded (l.map fval).sum (signOf (l.map fval).sum (!l.isEmpty && l.all fun b => b.getLsbD 31)) b
    r.1.length = 1 ∧
    (kt ≠ .f32 → r.2 = (((terms 1024).map BitVec.toNat).sum % 2 ^ 32, 0) ∧
      ∀ e, e < 1024 → (el img e).toNat = ((upTo e).map BitVec.toNat).sum % 2 ^ 32) ∧
    (kt = .f32 → (∀ b ∈ terms 1024, IsFin b) → ∃ (fl : Nat → Fl) (tot : BitVec 32 × Fl),
      (∀ e, e < 1024 → Sum (upTo e) (el img e, fl e)) ∧ Sum (terms 1024) tot ∧ r.2.1 = tot.1.toNat ∧
      ∀ j, r.2.2.getLsbD j = true ↔
        (∃ e, e < 1024 ∧ (fl e).getLsbD j = true) ∨ tot.2.getLsbD j = true ∨ (keyFlags kt v m).getLsbD j = true) ∧
    (kt = .f32 → ∀ e, e < 1024 → 0x7F800000 ∈ upTo e → 0xFF800000 ∈ upTo e →
      el img e = 0x7FC00000 ∧ r.2.2.getLsbD 0 = true ∧ r.2.2.getLsbD 4 = true)

/-- R191: what `comp` keeps of each group of four: its two greatest candidates by magnitude, lower positions first among
equals, and the lowest other positions with value 0 where it has fewer; the positions; and the number of short groups. -/
def Sys2Proof.Claims.GroupsKept : Prop :=
  ∀ (kt : KeyT) (v : VReg) (m : BitVec 1024), kt ≠ .u32 →
    let r := compImage kt v m
    let img := r.1.getD 0 VReg.zero
    let mag (b : BitVec 32) : Nat := if kt = .f32 then b.toNat % 2 ^ 31 else b.toInt.natAbs
    let cand (g p : Nat) : Bool := takes kt v m (4 * g + p)
    let ahead (g p q : Nat) : Bool := cand g q && (decide (mag (el v (4 * g + p)) < mag (el v (4 * g + q))) ||
      mag (el v (4 * g + p)) == mag (el v (4 * g + q)) && decide (q < p))
    let kept (g p : Nat) : Bool := cand g p && decide ((List.range 4).countP (ahead g p) < 2)
    let short := (List.range 256).countP fun g => decide ((List.range 4).countP (cand g) < 2)
    r.1.length = 1 ∧ r.2 = (short, (if short = 0 then 0 else NFC) ||| keyFlags kt v m) ∧
    (∀ g, g < 256 → ∃ lo hi, lo < hi ∧ hi < 4 ∧
      (∀ p, p < 4 → kept g p = true → p = lo ∨ p = hi) ∧
      (∀ p q, p = lo ∨ p = hi → kept g p = false → q < p → q = lo ∨ q = hi) ∧
      el img (2 * g) = (if kept g lo then el v (4 * g + lo) else 0) ∧
      el img (2 * g + 1) = (if kept g hi then el v (4 * g + hi) else 0) ∧
      (el img (512 + g / 8)).toNat / 16 ^ (g % 8) % 16 = lo + 4 * hi) ∧
    (∀ e, 544 ≤ e → e < 1024 → el img e = 0)

/-- R185, R187 to R191: the results of the five scan operations: the order of `sort` and `topk` for keys of every type, the
counts of `cntoff`, the sums of `pfx`, and what `comp` keeps. -/
def Obligations.SortOrders : Prop :=
  Sys2Proof.Claims.SortedImages ∧ Sys2Proof.Claims.BucketCounts ∧ Sys2Proof.Claims.RunningSums ∧
  Sys2Proof.Claims.GroupsKept

/-- R170, R172, R176: a push of `size` bytes may happen: nothing else used the stack in this cycle, the record fits below 1
MiB, and its segments are resident and not under a spill or a fill. -/
def Sys2Proof.Claims.MayPush (x : Iss) (size : Nat) : Prop :=
  let c := x.core
  c.stkUse ≠ some x.now ∧ c.top + size ≤ 2 ^ 20 ∧
  ∀ g, c.top / 65536 ≤ g → g ≤ (c.top + size - 1) / 65536 → c.rseg.getLsbD g = true ∧ c.segBusy g = false

/-- R171, R172: the faults of a push of `size` bytes, in the order of the checks, with t as the address: another use of the
stack in this cycle, a full stack, a segment that is not resident, one under a spill or a fill. -/
def Sys2Proof.Claims.PushFaults (i : Instr) (s : State) (x : Iss) (size : Nat) : Prop :=
  let c := x.core
  let t := c.top
  let within (g : Nat) : Prop := t / 65536 ≤ g ∧ g ≤ (t + size - 1) / 65536
  (c.stkUse = some x.now → Raises i s x { cause := 0x04, addr := t }) ∧
  (c.stkUse ≠ some x.now → 2 ^ 20 < t + size → Raises i s x { cause := 0x18, addr := t }) ∧
  (c.stkUse ≠ some x.now → t + size ≤ 2 ^ 20 → (∃ g, within g ∧ c.rseg.getLsbD g = false) →
    Raises i s x { cause := 0x1A, addr := t }) ∧
  (c.stkUse ≠ some x.now → t + size ≤ 2 ^ 20 → (∀ g, within g → c.rseg.getLsbD g = true) →
    (∃ g, within g ∧ c.segBusy g = true) → Raises i s x { cause := 0x04, addr := t })

/-- R171, R173: a pop of `size` bytes may happen: nothing else used the stack in this cycle, the stack is high enough, the
record's segments are resident and not under a spill or a fill, and no push of that record is pending. -/
def Sys2Proof.Claims.MayPop (x : Iss) (size : Nat) : Prop :=
  let c := x.core
  c.stkUse ≠ some x.now ∧ size ≤ c.top ∧ c.pushPending (c.top - size) = false ∧
  (∀ k, (c.top - size) / 65536 ≤ k → k ≤ (c.top - 1) / 65536 → c.rseg.getLsbD k = true ∧ c.segBusy k = false)

/-- R171, R173: the faults of a pop of `size` bytes, in the order of the checks; `tag` says that the record's tag is the one
it expects. -/
def Sys2Proof.Claims.PopFaults (i : Instr) (s : State) (x : Iss) (size : Nat) (tag : Prop) : Prop :=
  let c := x.core
  let p := c.top - size
  let within (g : Nat) : Prop := p / 65536 ≤ g ∧ g ≤ (c.top - 1) / 65536
  (c.stkUse = some x.now → Raises i s x { cause := 0x04, addr := p }) ∧
  (c.stkUse ≠ some x.now → c.top < size → Raises i s x { cause := 0x19, addr := c.top }) ∧
  (c.stkUse ≠ some x.now → size ≤ c.top → (∃ g, within g ∧ c.rseg.getLsbD g = false) →
    Raises i s x { cause := 0x1A, addr := p }) ∧
  (c.stkUse ≠ some x.now → size ≤ c.top → (∀ g, within g → c.rseg.getLsbD g = true) →
    ((∃ g, within g ∧ c.segBusy g = true) ∨ c.pushPending p = true) → Raises i s x { cause := 0x04, addr := p }) ∧
  (MayPop x size → ¬ tag → Raises i s x { cause := 0x1B, addr := p })

/-- R170, R173: what every tag at stack offset `p` has: SEQ of its place, and reserved bits that are 0. -/
def Sys2Proof.Claims.TagAt (found p : Nat) : Prop :=
  found / 2 ^ 32 % 2 ^ 16 = p / 16 % 2 ^ 16 ∧ found / 2 ^ 26 % 2 ^ 6 = 0 ∧ found / 2 ^ 48 % 2 ^ 16 = 0 ∧
  found / 2 ^ 107 % 2 ^ 21 = 0

/-- R177: the tag of a vector record at stack offset `p` is one of this class, register, descriptor register, predicate and
shift. -/
def Sys2Proof.Claims.TagNames (found p cls y : Nat) (f : FReg) (pd : Pd) (sh : BitVec 5) : Prop :=
  TagAt found p ∧ found % 2 ^ 4 = cls ∧ found / 2 ^ 4 % 2 ^ 5 = y ∧ found / 2 ^ 9 % 2 ^ 3 = f.toNat ∧
  found / 2 ^ 12 % 2 ^ 4 = pd.reg.toNat ∧ found / 2 ^ 16 % 2 = bit pd.neg ∧ found / 2 ^ 17 % 2 ^ 5 = sh.toNat

/-- The core after a push or a pop has used the stack in this cycle, charged for the stack's rows it touches (R292). -/
def Sys2Proof.Claims.stacked (x : Iss) (t size : Nat) : Core :=
  { x.core with stkUse := some x.now, chg := x.core.chg ++ [(x.core.die, 0x12, (t + size - 1) / 4096 - t / 4096 + 1)] }

/-- R176, R178 to R182: the forward form of a pair. With `g` its element function, the result performs with the record at
issue+`lat` with the flags of the active elements, TOP rises by 4,240 at issue+1, the record carries the tag, the payloads
and the escape bits, and a push that R172 does not admit raises its fault. -/
def Sys2Proof.Claims.Forward (i : Instr) (s : State) (x : Iss) (pd : Pd) (cls lat : Nat) (d a : VRegN) (sh : BitVec 5)
    (f : FReg) (fmt : Nat) (g : Nat → Fwd) : Prop :=
  let c := x.core
  let t := c.top
  let on (e : Nat) : Bool := (c.mask pd).getLsbD e
  (MayPush x 4240 → ∃ (k : Core) (v : VReg) (rec : List Byte) (fl : Fl),
    Leaves i s x k ∧
    k = { stacked { x with core := charged c (vcls x pd 0x02) } t 4240 with pend := c.pend ++
      [due x (1, .top (t + 4240), 0), due x (lat, .stk t rec, 0), due x (lat, .wV d v (c.mask pd), fl)] } ∧
    rec.length = 4240 ∧
    (∀ e, e < 1024 → on e = true → el v e = (g e).d) ∧
    (∀ j, fl.getLsbD j = true ↔ ∃ e, e < 1024 ∧ on e = true ∧ (g e).fl.getLsbD j = true) ∧
    (∀ e, e < 1024 → leNat (tab 4 fun b => rec.getD (16 + 4 * e + b) 0) =
      if on e = true then (if (g e).esc then (el (c.rv a) e).toNat else (g e).pay.toNat) else 0) ∧
    (∀ e, e < 1024 → (rec.getD (4112 + e / 8) 0).getLsbD (e % 8) = (on e && (g e).esc)) ∧
    (∃ n, n = (List.range 1024).countP (fun e => on e && (g e).esc) ∧
      leNat (rec.take 16) = cls + d.toNat * 2 ^ 4 + f.toNat * 2 ^ 9 + pd.reg.toNat * 2 ^ 12 + bit pd.neg * 2 ^ 16 +
        sh.toNat * 2 ^ 17 + fmt * 2 ^ 22 + t / 16 * 2 ^ 32 + n * 2 ^ 96)) ∧
  PushFaults i s x 4240

/-- R178 to R183: the forward forms of the five pairs and the frame marker. A descriptor that R182 does not admit raises
illegal-operand. -/
def Sys2Proof.Claims.ReversibleForward : Prop :=
  ∀ (s : State) (x : Iss) (pd : Pd) (d a b : VRegN) (n : BitVec 5) (f : FReg) (t : SReg), s.issuer = some x →
    let A := el (x.core.rv a)
    let B := el (x.core.rv b)
    let fd := (x.core.rf f).extractLsb' 0 4
    Forward (.radd pd d a b) s x pd 1 6 d a 0 0 0 (fun e => raddFwd (A e) (B e)) ∧
    Forward (.rmul pd d a b) s x pd 2 6 d a 0 0 0 (fun e => rmulFwd (A e) (B e)) ∧
    Forward (.rnar pd d a) s x pd 3 6 d a 0 0 0 (fun e => rnarFwd (A e)) ∧
    Forward (.rshr pd d a n) s x pd 4 4 d a n 0 0 (fun e => rshrFwd n.toNat (A e)) ∧
    (fd = 0 ∨ fd = 8 →
      Forward (.rleak pd d a n f) s x pd 5 6 d a n f fd.toNat (fun e => rleakFwd (fd == 8) n.toNat (A e))) ∧
    (fd ≠ 0 → fd ≠ 8 → Raises (.rleak pd d a n f) s x illegalOperand) ∧
    (x.core.on pd = true → MayPush x 16 →
      LaterFrom (stacked { x with core := charged x.core [0x02] } x.core.top 16) (.rmark pd t) s x []
        [(1, .top (x.core.top + 16), 0),
         (1, .stk x.core.top (leBytes 16 (0xF + x.core.top / 16 * 2 ^ 32 + (x.core.rs t).toNat % 2 ^ 32 * 2 ^ 64)), 0)]) ∧
    (x.core.on pd = true → PushFaults (.rmark pd t) s x 16)

/-- R178, R179: what the element functions of the first two pairs give: the result of `vadd` and `vmul`, an escape where a
factor or a term is infinite, NaN or a zero that the rules name, or the result is not finite; and the worked example. -/
def Sys2Proof.Claims.PairFunctions : Prop :=
  (∀ a b : BitVec 32, (raddFwd a b).d = (fadd32 a b).1 ∧ (raddFwd a b).fl = (fadd32 a b).2 ∧
    ((raddFwd a b).esc = true ↔ IsNan a ∨ IsInf a ∨ IsNan b ∨ IsInf b ∨ a.extractLsb' 0 31 = 0 ∨
      IsNan (fadd32 a b).1 ∨ IsInf (fadd32 a b).1)) ∧
  (∀ a b : BitVec 32, (rmulFwd a b).d = (fmul32 a b).1 ∧ (rmulFwd a b).fl = (fmul32 a b).2 ∧
    (IsNan a ∨ IsInf a ∨ IsNan b ∨ IsInf b ∨ a.extractLsb' 0 31 = 0 ∨ b.extractLsb' 0 31 = 0 ∨
      IsInf (fmul32 a b).1 → (rmulFwd a b).esc = true)) ∧
  raddFwd 0x3F800000 0x33C00000 = ⟨0x3F800001, 0xB3000000, false, NX⟩ ∧
  uaddInv 0x3F800001 0x33C00000 0xB3000000 = 0x3F800000

/-- R177, R183: the undo forms pop the record that their tag names, lower TOP at issue+1, and write at issue+6 without flags
the escaped operand, or the inverse of y and the payload; a pop that R173 does not admit raises its fault, another tag the
remainder-order fault among them. -/
def Sys2Proof.Claims.ReversibleUndo : Prop :=
  ∀ (s : State) (x : Iss) (pd : Pd) (d y b : VRegN) (n : BitVec 5) (f : FReg) (t : SReg), s.issuer = some x →
    let c := x.core
    let Y := el (c.rv y)
    let B := el (c.rv b)
    let p := c.top - 4240
    let fd := (c.rf f).extractLsb' 0 4
    let found := c.stk.num p 16
    let pay (e : Nat) : BitVec 32 := BitVec.ofNat 32 (c.stk.num (p + 16 + 4 * e) 4)
    let esc (e : Nat) : Bool := (c.stk.get (p + 4112 + e / 8)).getLsbD (e % 8)
    let Does (i : Instr) (tag : Prop) (inv : Nat → BitVec 32) : Prop :=
      (MayPop x 4240 → tag → ∃ v : VReg,
        LaterFrom (stacked { x with core := charged c (vcls x pd 0x02) } p 4240) i s x []
          [(1, .top p, 0), (6, .wV d v (c.mask pd), 0)] ∧
        ∀ e, e < 1024 → (c.mask pd).getLsbD e = true → el v e = if esc e then pay e else inv e) ∧
      PopFaults i s x 4240 tag
    Does (.uadd pd d y b) (TagNames found p 1 y.toNat 0 pd 0) (fun e => uaddInv (Y e) (B e) (pay e)) ∧
    Does (.umul pd d y b) (TagNames found p 2 y.toNat 0 pd 0) (fun e => umulInv (Y e) (B e) (pay e)) ∧
    Does (.unar pd d y) (TagNames found p 3 y.toNat 0 pd 0) (fun e => unarInv (Y e) (pay e)) ∧
    Does (.ushr pd d y n) (TagNames found p 4 y.toNat 0 pd n) (fun e => ushrInv n.toNat (Y e) (pay e)) ∧
    (fd = 0 ∨ fd = 8 →
      Does (.uleak pd d y n f) (TagNames found p 5 y.toNat f pd n ∧ found / 2 ^ 22 % 2 ^ 4 = fd.toNat)
        (fun e => uleakInv (fd == 8) n.toNat (Y e) (pay e))) ∧
    (fd ≠ 0 → fd ≠ 8 → Raises (.uleak pd d y n f) s x illegalOperand) ∧
    (c.on pd = true →
      let found := c.stk.num (c.top - 16) 16
      let tag : Prop := TagAt found (c.top - 16) ∧ found % 2 ^ 4 = 0xF ∧ found / 2 ^ 64 % 2 ^ 32 = (c.rs t).toNat % 2 ^ 32
      (MayPop x 16 → tag →
        LaterFrom (stacked { x with core := charged c [0x02] } (c.top - 16) 16) (.ucheck pd t) s x []
          [(1, .top (c.top - 16), 0)]) ∧
      PopFaults (.ucheck pd t) s x 16 tag)

/-- R180, R181, R182: the inverses of the bit-pattern pairs give back the operand, for every operand and every shift; an
operand that escapes is kept whole by its record. -/
def Sys2Proof.Claims.BitPairsRestore : Prop :=
  (∀ (n : Nat) (a : BitVec 32), n < 32 → (rshrFwd n a).esc = false ∧
    ushrInv n (rshrFwd n a).d (rshrFwd n a).pay = a ∧ (rshrFwd n a).d.toInt = a.toInt.fdiv (2 ^ n)) ∧
  (∀ a : BitVec 32, (IsNan a → (rnarFwd a).esc = true ∧ (rnarFwd a).d = 0x7FC00000) ∧
    (¬ IsNan a → (rnarFwd a).esc = false ∧ unarInv (rnarFwd a).d (rnarFwd a).pay = a)) ∧
  (∀ (n : Nat) (a : BitVec 32), n < 32 → (rleakFwd true n a).esc = false ∧
    uleakInv true n (rleakFwd true n a).d (rleakFwd true n a).pay = a ∧
    (0 ≤ a.toInt → (rleakFwd true n a).d = a) ∧ (a.toInt < 0 → (rleakFwd true n a).d = a.sshiftRight n))

/-- R170 to R173, R175 to R183: the forward and the undo forms of the reversible pairs, the frame marker and its check, with
every fault of the remainder stack, and the bit-pattern pairs' inverses. The order of the checks of one word is the model's
where the spec gives none (log 47): structural before the stack checks, illegal-operand of `rleak` and `uleak` before them.
-/
def Obligations.ReversibleUnit : Prop :=
  Sys2Proof.Claims.ReversibleForward ∧ Sys2Proof.Claims.PairFunctions ∧ Sys2Proof.Claims.ReversibleUndo ∧
  Sys2Proof.Claims.BitPairsRestore

/-- R178, R179, R182: the FP32 pairs give back every operand that does not escape, bit for bit; and what `rleak` of FP32
gives. The flags of a scaled value that rounds up to the smallest normal are the model's choice (log 74). -/
def Sys2Proof.Claims.FloatPairsRestore : Prop :=
  (∀ a b : BitVec 32, (raddFwd a b).esc = false → uaddInv (raddFwd a b).d b (raddFwd a b).pay = a) ∧
  (∀ a b : BitVec 32, (rmulFwd a b).esc = false → umulInv (rmulFwd a b).d b (rmulFwd a b).pay = a) ∧
  (∀ (n : Nat) (a : BitVec 32), n < 32 →
    let r := rleakFwd false n a
    (r.esc = true ↔ IsNan a ∨ IsInf a ∨ a = 0x80000000) ∧
    (r.esc = false → uleakInv false n r.d r.pay = a) ∧
    (¬ IsNan a → a.getLsbD 31 = false → r.d = a ∧ r.pay = 0) ∧
    (IsNan a → r.d = 0x7FC00000) ∧
    (IsFin a → a.getLsbD 31 = true → Rounded (fval a / 2 ^ n) true (r.d, r.fl)))

/-- R178 to R182: the inverses of all five reversible pairs give back the operand of every element that does not escape. -/
def Obligations.InversesRestore : Prop :=
  Sys2Proof.Claims.BitPairsRestore ∧ Sys2Proof.Claims.FloatPairsRestore

/-! ## The matrix slot -/

/-- R195: the footprint of `n` bytes at `b`: aligned, below 2^23, and in buffers that the core holds. -/
def Sys2Proof.Claims.MayTouch (c : Core) (al b n : Nat) : Prop :=
  b % al = 0 ∧ b + n ≤ 2 ^ 23 ∧
  ∀ g, b / 65536 ≤ g → g ≤ (b + n - 1) / 65536 → vget (c.loc % 4) c.holder g = c.loc % 4

/-- R202: no load has a read due, and no pass that uses buffer `wb` is within its window when the load performs. -/
def Sys2Proof.Claims.MayLoad (x : Iss) (wb : Nat) : Prop :=
  x.core.wload = none ∧ ∀ p ∈ x.core.passes, p.wbi = wb → p.lastEntry + 127 < x.now + 130

/-- The effects of word `x` on rows or blocks 0 to n − 1, effect k at issue + `at' k`. -/
def Sys2Proof.Claims.rowsDue (x : Iss) (n : Nat) (at' : Nat → Nat) (act : Nat → Act) : List Pend :=
  (List.range n).map fun k => due x (at' k, act k, 0)

/-- The bytes that a weight load of `r` rows of descriptor `fd` reads (R196). -/
def Sys2Proof.Claims.weightBytes (fd : BitVec 32) (r : Nat) : Nat :=
  if fd.extractLsb' 0 4 = 9 then (fd.extractLsb' 12 3).toNat * 2048 + r * 16 else r * 16 * (fmtOf fd).width

/-- R196, R197, R198, R202: the weight loads read one row (a quad of T, or the code block first) per cycle from issue+2
(issue+1), and leave the buffer as it is until they perform; a descriptor of another kind raises illegal-operand, an address
that is no multiple of 4 KiB the misaligned-address fault, and a buffer or a load that is still in use structural. -/
def Sys2Proof.Claims.WeightLoads : Prop :=
  ∀ (s : State) (x : Iss) (pd : Pd) (wb : WReg) (a : SReg) (f : FReg) (rows : BitVec 7) (col : Bool), Runs s x pd →
    let c := x.core
    let fd := c.rf f
    let code := (fd.extractLsb' 0 4).toNat
    let A := (c.rs a).toNat
    let r := rows.toNat + 1
    let load (mode rows : Nat) (col : Bool) (last : Nat) : WLoad :=
      { iss := x.now, wbi := wb.toNat, mode := mode, addr := A, f := fd, rows := rows, col := col,
        lastRead := x.now + last, got := [], codes := [], flags := 0 }
    (MayLoad x wb.toNat →
      (code ∈ [1, 2, 3, 4, 5, 6] ∨ code = 9 ∧ (fd.extractLsb' 12 3).toNat ≤ (fd.extractLsb' 8 3).toNat →
        MayTouch c 4096 A (weightBytes fd r) →
        Leaves (.mldw pd wb a f rows) s x { c with wload := some (load 0 r false (r + 1)),
                                                   pend := c.pend ++ rowsDue x r (2 + ·) .wRow }) ∧
      (code ∈ [1, 2, 3, 4] → A < 2 ^ 18 → A % 4 = 0 → A / 1024 % 128 = 0 → A / 4 % 256 % 128 = 0 →
        Leaves (.mldwt pd wb a f rows col) s x
          { c with wload := some (load 1 r col ((r + 3) / 4 + 1)),
                   pend := c.pend ++ rowsDue x ((r + 3) / 4) (2 + ·) .wRow }) ∧
      (code ∈ [1, 2, 3, 4, 5, 6] → MayTouch c 4096 A (2048 * (fmtOf fd).width + 4096) →
        Leaves (.mcomp pd wb a f) s x { c with wload := some (load 2 128 false 129),
                                               pend := c.pend ++ rowsDue x 129 (1 + ·) .wRow })) ∧
    (code ∉ [1, 2, 3, 4, 5, 6, 9] ∨ code = 9 ∧ (fd.extractLsb' 8 3).toNat < (fd.extractLsb' 12 3).toNat →
      Raises (.mldw pd wb a f rows) s x illegalOperand) ∧
    (code ∉ [1, 2, 3, 4] → Raises (.mldwt pd wb a f rows col) s x illegalOperand) ∧
    (code ∉ [1, 2, 3, 4, 5, 6] → Raises (.mcomp pd wb a f) s x illegalOperand) ∧
    (¬ MayLoad x wb.toNat →
      (code ∈ [1, 2, 3, 4, 5, 6] → MayTouch c 4096 A (weightBytes fd r) → Raises (.mldw pd wb a f rows) s x structural) ∧
      (code ∈ [1, 2, 3, 4] → A < 2 ^ 18 → A % 4 = 0 → A / 1024 % 128 = 0 → A / 4 % 256 % 128 = 0 →
        Raises (.mldwt pd wb a f rows col) s x structural) ∧
      (code ∈ [1, 2, 3, 4, 5, 6] → MayTouch c 4096 A (2048 * (fmtOf fd).width + 4096) →
        Raises (.mcomp pd wb a f) s x structural)) ∧
    (code ∈ [1, 2, 3, 4, 5, 6] → A % 4096 ≠ 0 → Raises (.mldw pd wb a f rows) s x (misaligned A) ∧
      Raises (.mcomp pd wb a f) s x (misaligned A))

/-- R193, R203: `mzero`, `mzero.int`, `mscale` and `mswap` perform at issue+1; they raise structural while their accumulator,
or a buffer, is still in use, and illegal-operand for a wrong descriptor or mode. -/
def Sys2Proof.Claims.MatrixHousekeeping : Prop :=
  ∀ (s : State) (x : Iss) (pd : Pd) (acc : AReg) (a : SReg) (f : FReg), Runs s x pd →
    let c := x.core
    let code := ((c.rf f).extractLsb' 0 4).toNat
    let busy := c.accBusy acc.toNat
    let int := (vget Acc.zero c.acc acc.toNat).int
    (busy = false →
      Later (.mzero pd acc) s x [] [(1, .mzero acc.toNat Acc.zero, 0)] ∧
      (code = 6 → Later (.mzeroInt pd acc f) s x [] [(1, .mzero acc.toNat { Acc.zero with int := true, frac := 0 }, 0)]) ∧
      (code = 3 → Later (.mzeroInt pd acc f) s x [] [(1, .mzero acc.toNat { Acc.zero with int := true, frac := 9 }, 0)]) ∧
      (int = false → Later (.mscale pd acc a) s x [] [(1, .mscale acc.toNat (c.rs a).toInt, 0)])) ∧
    (busy = true → Raises (.mzero pd acc) s x structural ∧
      (code = 3 ∨ code = 6 → Raises (.mzeroInt pd acc f) s x structural) ∧
      (int = false → Raises (.mscale pd acc a) s x structural)) ∧
    (code ≠ 3 → code ≠ 6 → Raises (.mzeroInt pd acc f) s x illegalOperand) ∧
    (int = true → Raises (.mscale pd acc a) s x illegalOperand) ∧
    (c.wload = none → (∀ p ∈ c.pend, ∀ i w, p.act ≠ .wDone i w) →
      (∀ p ∈ c.passes, p.wbi < 2 → p.lastEntry + 127 < x.now) →
      Later (.mswap pd) s x [] [(1, .mswap, 0)]) ∧
    (c.wload ≠ none ∨ (∃ p ∈ c.pend, ∃ i w, p.act = .wDone i w) ∨
        (∃ p ∈ c.passes, p.wbi < 2 ∧ x.now ≤ p.lastEntry + 127) →
      Raises (.mswap pd) s x structural)

/-- R195 to R198, R202, R203: weight loads, and the housekeeping of the matrix unit. Where several checks of one word fail,
illegal-operand and misaligned are raised before structural, and a wrong mode before a busy accumulator: an order that is the
model's (log 47). -/
def Obligations.MatrixSetup : Prop :=
  Sys2Proof.Claims.WeightLoads ∧ Sys2Proof.Claims.MatrixHousekeeping

/-- R199, R200, R201: a pass that may begin reads its first row of A in the issue cycle and the others at their entry cycles,
and row 0 of the accumulator performs at issue+131; the operands decide the descriptor, the mode and the lanes. An
accumulator of the other mode raises illegal-operand, also where a pass could not begin for another reason (an order that is
the model's: log 47), and a pass whose lanes, accumulator or buffer is taken (`passFault`: R201, R202) structural. An integer
accumulator whose F is neither 0 nor 9 takes INT8, which the spec leaves open (log 77). -/
def Sys2Proof.Claims.FloatAndIntegerPasses : Prop :=
  ∀ (s : State) (x : Iss) (pd : Pd) (acc : AReg) (wb : WReg) (a : SReg) (f : FReg) (rows : BitVec 7) (xa xb : XReg)
    (sc sp : Bool), Runs s x pd →
    let c := x.core
    let w := vget WBuf.launch c.w wb.toNat
    let k := vget Acc.zero c.acc acc.toNat
    let fd := c.rf f
    let code := (fd.extractLsb' 0 4).toNat
    let A := (c.rs a).toNat
    let r := rows.toNat + 1
    let begun (q : Pass) (pre : List Pend) (entry : Nat → Nat) (i : Instr) : Prop :=
      (∀ b ∈ c.acc70, (spanAccess (posOf x.ag) (due x (0, .aRow q.id 0, 0)) A q.rowBytes false).clash b = false) →
      ∃ fl, Leaves i s x { c with
        nextId := c.nextId + 1, passes := c.passes ++ [q],
        acc70 := spanAccess (posOf x.ag) { due x (0, .aRow q.id 0, 0) with rtn := c.rtnOn } A q.rowBytes false :: c.acc70,
        chg := c.chg ++ [(c.die, if q.lanes = 2 then 0x07 else 0x08, 1)],
        pend := c.pend ++ pre ++ [due x (131, .accRow q.id 0 (q.readRow c.bank 0).1, fl)] ++
          (List.range (r - 1)).map fun j => due x (entry (j + 1), .aRow q.id (j + 1), 0) }
    (∀ lanes, lanes = (if code ∈ [3, 4, 6] ∧ 3 ≤ w.wf.toNat then 1 else 2) →
      let q : Pass := { id := c.nextId, iss := x.now, int := false, acc := acc.toNat, wbi := wb.toNat, wb := w, addr := A,
                        fda := fd, rows := r, lanes := lanes, lastEntry := x.now + r - 1,
                        scale := if sc then some (c.rx xa ++ c.rx (xa + 1), c.rx xb ++ c.rx (xb + 1)) else none }
      sp = w.spa → (sc = true → w.spa = false) → code ∈ [1, 2, 3, 4, 6] → k.int = false →
      MayTouch c 4096 A (r * q.rowBytes) → c.passFault x.now acc.toNat wb.toNat lanes (x.now + r - 1) = none →
      begun q [] (fun i => i) (.macc pd acc wb a f rows xa xb sc sp)) ∧
    (let last := x.now + (r - 1) * w.kp / 16
     let q : Pass := { id := c.nextId, iss := x.now, int := true, acc := acc.toNat, wbi := wb.toNat, wb := w, addr := A,
                       fda := fd, rows := r, lanes := 2, lastEntry := last, scale := none }
     (w.wf = 6 ∨ w.wf = 9) → w.spa = false → k.int = true → code = (if k.frac = 9 then 3 else 6) →
      MayTouch c 4096 A (r * 128) → c.passFault x.now acc.toNat wb.toNat 2 last = none →
      begun q (if sc then [due x (1, .mtags acc.toNat ((c.rx xa).take 128) ((c.rx xb).take 128), 0)] else [])
        (fun i => i * w.kp / 16) (.maccp pd acc wb a f rows xa xb sc)) ∧
    (∀ lanes, lanes = (if code ∈ [3, 4, 6] ∧ 3 ≤ w.wf.toNat then 1 else 2) → sp = w.spa → (sc = true → w.spa = false) →
      code ∈ [1, 2, 3, 4, 6] → k.int = false →
      MayTouch c 4096 A (r * ((if w.spa then 256 else 128) * (fmtOf fd).width / 8)) →
      c.passFault x.now acc.toNat wb.toNat lanes (x.now + r - 1) ≠ none →
      Raises (.macc pd acc wb a f rows xa xb sc sp) s x structural) ∧
    (k.int = true → Raises (.macc pd acc wb a f rows xa xb sc sp) s x illegalOperand) ∧
    (k.int = false → Raises (.maccp pd acc wb a f rows xa xb sc) s x illegalOperand)

/-- R61, R200: an integer element saturates at the INT32 limits, with OF, and a NaN marker stays. -/
def Sys2Proof.Claims.IntegerAccumulate : Prop :=
  ∀ (acc : BitVec 34) (sum : Int) (nan : Bool),
    let r := passElemInt acc sum nan
    let exact := (acc.extractLsb' 0 32).toInt + sum
    (r.1.extractLsb' 0 32).toInt = max (-2 ^ 31) (min (2 ^ 31 - 1) exact) ∧
    r.1.getLsbD 32 = (nan || acc.getLsbD 32) ∧
    (r.2.getLsbD 1 = true ↔ exact < -2 ^ 31 ∨ 2 ^ 31 - 1 < exact)

/-- R61, R199 to R202: how a pass of the matrix unit begins, and how an integer element accumulates. -/
def Obligations.MatrixPasses : Prop :=
  Sys2Proof.Claims.FloatAndIntegerPasses ∧ Sys2Proof.Claims.IntegerAccumulate

/-- R204, R206, R207, R208: a drain, a save and a restore take their operands at issue and reach one accumulator row per
cycle: a drain reads row 0 at issue and forms its row at issue+138, a save writes its row at issue+140, a restore reads its
rows from issue+2 on. The reversible forms also move TOP at issue+1, and raise the faults of R172 and R173; where several
checks of one word fail, illegal-operand and misaligned are raised first, an order that is the model's (log 47). -/
def Obligations.MatrixDrains : Prop :=
  ∀ (s : State) (x : Iss) (pd : Pd) (acc : AReg) (a r : SReg) (f : FReg) (rows : BitVec 7) (res drp : Bool) (ks ko : KReg),
    Runs s x pd →
    let c := x.core
    let fd := c.rf f
    let code := (fd.extractLsb' 0 4).toNat
    let A := (c.rs a).toNat
    let R := (c.rs r).toNat
    let n := rows.toNat + 1
    let len := n * 16 * (fmtOf fd).width
    let size := 16 + 528 * n
    let k := vget Acc.zero c.acc acc.toNat
    let d (mode : Nat) (res : Option Nat) (f : BitVec 32) (drp : Option (BitVec 64 × BitVec 64)) (stk : Nat)
        (tag : BitVec 128) (popped : List Byte) : Drain :=
      { id := c.nextId, iss := x.now, acc := acc.toNat, mode := mode, addr := A, res := res, f := f, rows := n,
        drp := drp, stk := stk, tag := tag, popped := popped }
    let tag := drainTag pd acc f fd
    let found := c.stk.num (c.top - size) 16
    let named : Prop := TagNames found (c.top - size) 6 acc.toNat f pd 0 ∧ found / 2 ^ 22 % 2 ^ 4 = code
    let row0 : List (BitVec 64) := tab 128 fun j => k.image 0 j
    let reads : List Pend := (List.range (n - 1)).map fun j => due x (j + 1, .dAcc c.nextId (j + 1), 0)
    let formed : List Pend := due x (138, .dRes c.nextId 0 row0, 0) :: reads
    let begun (b : Core) (q : Drain) (l : List Pend) (i : Instr) : Prop :=
      Leaves i s x { b with nextId := c.nextId + 1, drains := c.drains ++ [q], pend := c.pend ++ l }
    (code ∈ [0, 1, 2, 3, 4, 6, 7, 8] → MayTouch c 4096 A len → (res = true → MayTouch c 4096 R len) →
      begun c (d 0 (if res then some R else none) fd (if drp then some (c.rk ks, c.rk ko) else none) 0 0 []) formed
        (.mdrain pd acc a f rows res r drp ks ko)) ∧
    (code ∈ [0, 1, 2, 3, 4] → k.int = false → MayTouch c 4096 A len → MayTouch c 4096 R len → MayPush x size →
      begun (stacked x c.top size) (d 1 (some R) fd none c.top (BitVec.ofNat 128 (tag.pack c.top)) [])
        (due x (1, .top (c.top + size), 0) :: formed) (.mdrainRev pd acc a f rows r)) ∧
    (code ∈ [0, 1, 2, 3, 4] → k.int = false → MayTouch c 4096 A len → MayTouch c 4096 R len → MayPop x size → named →
      begun (stacked x (c.top - size) size)
        (d 2 (some R) fd none (c.top - size) 0 (c.stk.read (c.top - size) size))
        (due x (1, .top (c.top - size), 0) :: formed) (.mdrainUndo pd acc a f rows r)) ∧
    (code ∈ [0, 1, 2, 3, 4] → k.int = false → MayTouch c 4096 A len → MayTouch c 4096 R len →
      PushFaults (.mdrainRev pd acc a f rows r) s x size ∧ PopFaults (.mdrainUndo pd acc a f rows r) s x size named) ∧
    (code ∉ [0, 1, 2, 3, 4, 6, 7, 8] → Raises (.mdrain pd acc a f rows res r drp ks ko) s x illegalOperand) ∧
    (MayTouch c 4096 A (n * 1024) →
      begun c (d 3 none 0 none 0 0 [])
        (due x (140, .dOut c.nextId 0 (row0.flatMap fun v => leBytes 8 v.toNat) [] 0 0, 0) :: reads)
        (.msave pd acc a rows) ∧
      begun c (d 4 none 0 none 0 0 []) (rowsDue x n (2 + ·) (.rRow c.nextId)) (.mrstr pd acc a rows)) ∧
    (k.int = true → Raises (.mdrainRev pd acc a f rows r) s x illegalOperand ∧
      Raises (.mdrainUndo pd acc a f rows r) s x illegalOperand) ∧
    (A % 4096 ≠ 0 → Raises (.msave pd acc a rows) s x (misaligned A) ∧
      Raises (.mrstr pd acc a rows) s x (misaligned A))

/-- R212: what the parameters of `mgemv` are and which are admitted. -/
def Sys2Proof.Claims.ProductParameters : Prop :=
  ∀ (k0 k1 : BitVec 64) (p : GemvPar), gemvPar k0 k1 = some p →
    p.k = k0.toNat % 2 ^ 13 ∧ p.nb = k0.toNat / 2 ^ 16 % 2 ^ 13 ∧ p.land = k0.toNat / 2 ^ 32 % 2 ^ 25 ∧
    p.rem = k0.getLsbD 63 ∧ p.ctr = k1.truncate 32 ∧ 32 ≤ p.k ∧ p.k ≤ 4096 ∧ p.k % 32 = 0 ∧ 1 ≤ p.nb ∧ p.nb ≤ 256 ∧
    (p.rem = false → p.land < 2 ^ 23 ∧ k1 = 0)

/-- R209 to R212: `mcall` starts a routine (and writes its parameter at issue+1) outside one, `mset` writes a parameter,
`mend` ends the routine; `mgemv` takes its parameters and its walks at issue (a remote one its charges too: log 23), reads A
in blocks of 4 KiB from issue+2, and raises the fault of the operand that R212 does not admit: a plain parameter's before
those of its addresses, an order that is the model's (log 47). -/
def Sys2Proof.Claims.RoutinesAndProduct : Prop :=
  ∀ (s : State) (x : Iss) (pd : Pd) (entry : BitVec 12) (k : KReg) (a b : SReg) (f : FReg), Runs s x pd →
    let c := x.core
    let fd := c.rf f
    let A := (c.rs a).toNat
    let G := (c.rs b).toNat
    (c.rtnOn = none →
      Leaves (.mcall pd entry k a) s x { c with
        rtn := some entry.toNat,
        pend := c.pend ++ if a = 0 then [] else [due x (1, .wK k (c.rs a), 0)] }) ∧
    (c.rtnOn ≠ none → Raises (.mcall pd entry k a) s x illegalOperand) ∧
    Later (.mset pd k a) s x [] [(1, .wK k (c.rs a), 0)] ∧
    Leaves (.mend pd) s x { c with rtn := none } ∧
    (∀ p : GemvPar, gemvPar (c.rk k) (c.rk (k + 1)) = some p →
      let n := p.k * (fmtOf fd).width / 8
      let good := (fd.extractLsb' 0 4 = 1 ∨ fd.extractLsb' 0 4 = 3 ∨ fd.extractLsb' 0 4 = 4) ∧ G % 64 = 0 ∧ A % 4096 = 0
      let ctr := p.rem = true → s.handleOk x.ag (p.ctr.zeroExtend 64) = true
      (good → ctr → p.land % 512 = 0 → G < 2 ^ 57 → MayTouch c 4096 A n → (p.rem = false → MayTouch c 512 p.land (p.nb * 512)) →
        (p.rem = true → p.land % 2 ^ 23 + p.nb * 512 ≤ 2 ^ 23) → c.gemv.length < 4 →
        let g : Gemv :=
          { id := c.nextId, iss := x.now, baddr := c.pc, rem := p.rem, land := p.land, nb := p.nb, k := p.k, ctr := p.ctr,
            a := A, bva := G, f := fd, abytes := [], rtn := c.rtnOn, arrived := 0, snap := c.snap,
            own := c.egress.filter fun e => e.inPath && e.pub, st := .walking, next := 0 }
        let q := s.payG x.ag (s.ctx x.ag) .any ((pageRuns G (p.nb * 128 * n)).map fun r => (r.1, 0))
          { c with nextId := c.nextId + 1, gemv := c.gemv ++ [g] }
        Leaves (.mgemv pd k a b f) s x { q with
          chg := q.chg ++ (if p.rem then s.gemvCharges x.ag g (List.range p.nb) else []),
          pend := c.pend ++ rowsDue x ((n + 4095) / 4096) (2 + ·) (.gemvA c.nextId) }) ∧
      (¬ good → Raises (.mgemv pd k a b f) s x illegalOperand) ∧
      (good → ¬ ctr → Raises (.mgemv pd k a b f) s x counterHandle) ∧
      (good → ctr → p.land % 512 ≠ 0 → Raises (.mgemv pd k a b f) s x (misaligned p.land)) ∧
      (good → ctr → p.land % 512 = 0 → 2 ^ 57 ≤ G → Raises (.mgemv pd k a b f) s x (addressFault G))) ∧
    (gemvPar (c.rk k) (c.rk (k + 1)) = none → Raises (.mgemv pd k a b f) s x illegalOperand)

/-- R212: a block of a local product whose weights are here, A having been read, lands in its due cycle: 512 bytes in the
core's own bank wall, and nothing else in memory, with the flags of its outputs; the product is over with its last block. -/
def Sys2Proof.Claims.ProductBlockLands : Prop :=
  ∀ (s : State) (t r id : Nat) (c : Core) (g : Gemv) (data : List Byte),
    s.core? (.core t r) = some c → c.gemv.find? (fun g => g.id == id) = some g → g.st = .ready data →
    g.next < g.arrived → g.readA = true → g.rem = false → g.iss + 2050 + 2 * g.next = s.now (.core t r) →
    ∃ u k, exec (.mgemvBlockLanding t r id) s = .next u ∧ u.core? (.core t r) = some k ∧
      k.bank = c.bank.write (g.land + 512 * g.next) (g.block data g.next) ∧
      k.s = c.s ∧ k.v = c.v ∧ k.acc = c.acc ∧ k.tarr = c.tarr ∧ k.stk = c.stk ∧
      k.flags = c.flags ||| g.blockFl data g.next ∧
      (g.block data g.next).length = 512 ∧
      (g.next + 1 = g.nb → ∀ z ∈ k.gemv, z.id ≠ id) ∧ (g.next + 1 ≠ g.nb → { g with next := g.next + 1 } ∈ k.gemv) ∧
      u.gmem = s.gmem ∧ u.hmem = s.hmem ∧ u.ctrs = s.ctrs ∧ u.mgmt = s.mgmt

/-- R212, R228: a block of a remote product leaves as eight arrivals of 64 bytes for the ring core that its landing names,
each with the counter and the 512 of the block's one add; where no task holds that core the add alone is sent (log 24). The
core itself keeps its wall. -/
def Sys2Proof.Claims.RemoteBlockLeaves : Prop :=
  ∀ (s : State) (t r id : Nat) (c : Core) (g : Gemv) (data : List Byte),
    s.core? (.core t r) = some c → c.gemv.find? (fun g => g.id == id) = some g → g.st = .ready data →
    g.next < g.arrived → g.readA = true → g.rem = true →
    ∃ u k, exec (.mgemvBlockLanding t r id) s = .next u ∧ u.core? (.core t r) = some k ∧ k.bank = c.bank ∧ k.s = c.s ∧
      k.flags = c.flags ||| g.blockFl data g.next ∧ u.gmem = s.gmem ∧ u.hmem = s.hmem ∧ u.ctrs = s.ctrs ∧
      (∀ dst, s.ringWall (.core t r) c (g.land / 2 ^ 23) = some dst → u.ctrOps = s.ctrOps ∧
        ∃ gs, u.flight = s.flight ++ gs ∧ gs.length = 8 ∧ (gs.flatMap fun q => q.data) = g.block data g.next ∧
          ∀ j q, gs[j]? = some q → q.dst = dst ∧ q.addr = g.land % 2 ^ 23 + 512 * g.next + 64 * j ∧ q.data.length = 64 ∧
            q.ctr = some g.ctr ∧ q.amt = 512 ∧ q.blk = some s.nextId) ∧
      (s.ringWall (.core t r) c (g.land / 2 ^ 23) = none → u.flight = s.flight ∧
        u.ctrOps = s.ctrOps ++ [{ id := s.nextId, handle := g.ctr, kind := .add 512, src := .slot (.core t r) 5 g.baddr,
                                    sent := s.wall }])

/-- R209 to R212: routines of the matrix slot, and the product of a vector with a matrix in G: its issue and its blocks. -/
def Obligations.ProductAndRoutines : Prop :=
  Sys2Proof.Claims.ProductParameters ∧ Sys2Proof.Claims.RoutinesAndProduct ∧ Sys2Proof.Claims.ProductBlockLands ∧
  Sys2Proof.Claims.RemoteBlockLeaves

/-! ## The copy slots -/

/-- R214, R215: the copy command of word `x` is accepted by its engine: it starts DLY cycles after issue, and nothing else of
the core or of any memory changes, but that commands which are over leave the list. An engine with 16 commands that are not
over raises structural. A management core's command keeps MC_XASID and its partition (R403). -/
def Sys2Proof.Claims.Accepts (i : Instr) (s : State) (x : Iss) (op : CopyOp) (dly : BitVec 12) (ac : BitVec 2) : Prop :=
  let c := x.core
  let left := c.cmds.filter fun k => !c.cmdOver k
  let k : Cmd :=
    { id := c.nextId, op := op, word := x.w, baddr := c.pc, iss := x.now, start := x.now + dly.toNat, ac := ac,
      started := false, snap := [], own := [], next := 0, total := 0, pieces := [], aux := [], pat := none, buf := [],
      rets := [], outstanding := 0, failed := none, reported := false, xasid := s.issueXasid x.ag, part := s.partOf x.ag }
  let mine := left.countP fun k => k.word == x.w
  (mine < 16 → Leaves i s x { c with nextId := c.nextId + 1, cmds := left ++ [k] }) ∧
  (16 ≤ mine → Raises i s x structural)

/-- R216: a B footprint of `n` bytes at `b` that is not admitted raises the address, the misaligned-address or the handle
fault (of several the first: log 47). -/
def Sys2Proof.Claims.BadFoot (i : Instr) (s : State) (x : Iss) (al b n : Nat) : Prop :=
  let c := x.core
  (2 ^ 23 < b + n → Raises i s x (addressFault b)) ∧
  (b + n ≤ 2 ^ 23 → b % al ≠ 0 → Raises i s x (misaligned b)) ∧
  (b + n ≤ 2 ^ 23 → b % al = 0 →
    (∃ g, b / 65536 ≤ g ∧ g ≤ (b + n - 1) / 65536 ∧ vget (c.loc % 4) c.holder g ≠ c.loc % 4) →
    Raises i s x (handleFault b))

/-- R220 to R225, R234: the copy commands between the core's own memories, G and H are accepted with operands that pass the
checks which their descriptions place at issue; a length, an address or a segment that does not pass raises its fault. -/
def Sys2Proof.Claims.CopyBlocks : Prop :=
  ∀ (s : State) (x : Iss) (pd : Pd) (d a n : SReg) (pat : BitVec 9) (h : Bool) (ac : ACls) (dly : BitVec 12) (r : XReg),
    Runs s x pd →
    let c := x.core
    let D := (c.rs d).toNat
    let A := (c.rs a).toNat
    let N := (c.rs n).toNat
    let okLen := N % 4096 = 0 ∧ 4096 ≤ N ∧ N ≤ 2 ^ 23
    let okCpy := A % 4096 = 0 ∧ D % 4096 = 0 ∧ 1 ≤ N ∧ N ≤ 128
    (okCpy → MayTouch c 4096 A (N * 4096) → MayTouch c 4096 D (N * 4096) →
      Accepts (.xcpy pd d a n pat dly) s x (.xcpy D A N pat.toNat) dly 0) ∧
    (¬ okCpy → Raises (.xcpy pd d a n pat dly) s x illegalOperand) ∧
    (okCpy → BadFoot (.xcpy pd d a n pat dly) s x 4096 A (N * 4096)) ∧
    (okLen → A % 64 = 0 → (h = false → A < 2 ^ 57) → MayTouch c 4096 D N →
      Accepts (.xfill pd d a n h ac dly) s x (.xfill h D A N) dly ac) ∧
    (okLen → D % 64 = 0 → (h = false → D < 2 ^ 57) → MayTouch c 4096 A N →
      Accepts (.xstore pd d a n h ac dly) s x (.xstore h D A N) dly ac) ∧
    (¬ okLen ∨ A % 64 ≠ 0 → Raises (.xfill pd d a n h ac dly) s x illegalOperand) ∧
    (¬ okLen ∨ D % 64 ≠ 0 → Raises (.xstore pd d a n h ac dly) s x illegalOperand) ∧
    (okLen → A % 64 = 0 → h = false → 2 ^ 57 ≤ A → Raises (.xfill pd d a n h ac dly) s x (addressFault A)) ∧
    (okLen → D % 64 = 0 → h = false → 2 ^ 57 ≤ D → Raises (.xstore pd d a n h ac dly) s x (addressFault D)) ∧
    (okLen → A % 64 = 0 → (h = false → A < 2 ^ 57) → BadFoot (.xfill pd d a n h ac dly) s x 4096 D N) ∧
    (okLen → D % 64 = 0 → (h = false → D < 2 ^ 57) → BadFoot (.xstore pd d a n h ac dly) s x 4096 A N) ∧
    (N < 16 → A % 4096 = 0 → A < 2 ^ 57 →
      (c.rseg.getLsbD N = true → Raises (.xrfl pd a n ac dly) s x illegalOperand ∧
        (c.segBusy N = false → Accepts (.xrsp pd a n ac dly) s x (.xrsp A N) dly ac) ∧
        (c.segBusy N = true → Raises (.xrsp pd a n ac dly) s x structural)) ∧
      (c.rseg.getLsbD N = false → Raises (.xrsp pd a n ac dly) s x illegalOperand ∧
        (c.segBusy N = false → Accepts (.xrfl pd a n ac dly) s x (.xrfl A N) dly ac) ∧
        (c.segBusy N = true → Raises (.xrfl pd a n ac dly) s x structural))) ∧
    (16 ≤ N ∨ A % 4096 ≠ 0 → Raises (.xrsp pd a n ac dly) s x illegalOperand ∧
      Raises (.xrfl pd a n ac dly) s x illegalOperand) ∧
    (MayTouch c 256 A 256 → Accepts (.xscl pd r a dly) s x (.xscl r.toNat A) dly 0) ∧
    BadFoot (.xscl pd r a dly) s x 256 A 256

/-- The cells that a shape word of R223 names from cell (row, col) of T on, M lines by N or N by M, lie in the array. -/
def Sys2Proof.Claims.ShapeFits (t : Nat) (w : BitVec 64) : Prop :=
  let m := (w.extractLsb' 16 8).toNat + 1
  let n := (w.extractLsb' 0 8).toNat + 1
  if w.getLsbD 31 then t / 1024 + m ≤ 256 ∧ t / 4 % 256 + n ≤ 256 else t / 1024 + n ≤ 256 ∧ t / 4 % 256 + m ≤ 256

/-- R223, R226, R227, R235: the commands of the Switchback array, the window map, the row list and the migration hint are
accepted when their operands pass the checks at issue, and raise illegal-operand for a descriptor, a shape, a length or an
alignment that their rules do not admit, and the fault of R86 or R216 for an address. -/
def Sys2Proof.Claims.CopyShapes : Prop :=
  ∀ (s : State) (x : Iss) (pd : Pd) (d a n : SReg) (f kind : FReg) (cm : Bool) (ac : ACls) (dly : BitVec 12), Runs s x pd →
    let c := x.core
    let fd := c.rf f
    let code := (fd.extractLsb' 0 4).toNat
    let D := (c.rs d).toNat
    let A := (c.rs a).toNat
    let W := c.rs n
    let N := W.toNat
    let b := (fmtOf fd).width / 8
    let okShape := code ∈ [0, 1, 2, 3, 4] ∧ W.extractLsb' 24 7 = 0 ∧ W.extractLsb' 8 8 = 0 ∧
      (W.extractLsb' 32 32).toNat % b = 0
    (okShape → D < 2 ^ 18 → D % 4 = 0 → A < 2 ^ 57 → A % b = 0 → ShapeFits D W →
      Accepts (.xtld pd d a n f ac dly) s x (.xtld D A W fd) dly ac) ∧
    (okShape → A < 2 ^ 18 → A % 4 = 0 → D < 2 ^ 57 → D % b = 0 → ShapeFits A W →
      Accepts (.xtst pd d a n f ac dly) s x (.xtst D A W fd) dly ac) ∧
    (¬ okShape → Raises (.xtld pd d a n f ac dly) s x illegalOperand ∧
      Raises (.xtst pd d a n f ac dly) s x illegalOperand) ∧
    (code ∈ [0, 1, 2, 3, 4, 6, 7] → A < 2 ^ 57 → D < 2 ^ 23 → D % 4096 = 0 → MayTouch c 32 N 32 →
      Accepts (.xwin pd d a n cm f ac dly) s x (.xwin D A N cm fd) dly ac) ∧
    (code ∉ [0, 1, 2, 3, 4, 6, 7] → Raises (.xwin pd d a n cm f ac dly) s x illegalOperand) ∧
    (code ∈ [0, 1, 2, 3, 4, 6, 7] → A < 2 ^ 57 → D < 2 ^ 23 → D % 4096 = 0 →
      BadFoot (.xwin pd d a n cm f ac dly) s x 32 N 32) ∧
    (okShape → D < 2 ^ 18 → 2 ^ 57 ≤ A → Raises (.xtld pd d a n f ac dly) s x (addressFault A)) ∧
    (okShape → A < 2 ^ 18 → 2 ^ 57 ≤ D → Raises (.xtst pd d a n f ac dly) s x (addressFault D)) ∧
    (A < 2 ^ 57 → D < 2 ^ 23 → D % 4 = 0 → BadFoot (.xrows pd d a n ac dly) s x 16 N 16) ∧
    (D < 2 ^ 57 → A < 2 ^ 23 → A % 4 = 0 → BadFoot (.xrowsSc pd d a n ac dly) s x 16 N 16) ∧
    (A < 2 ^ 57 → D < 2 ^ 23 → D % 4 = 0 → MayTouch c 16 N 16 →
      Accepts (.xrows pd d a n ac dly) s x (.xrows false D A N) dly ac) ∧
    (D < 2 ^ 57 → A < 2 ^ 23 → A % 4 = 0 → MayTouch c 16 N 16 →
      Accepts (.xrowsSc pd d a n ac dly) s x (.xrows true D A N) dly ac) ∧
    (kind = 0 ∨ kind = 1 → A % 65536 = 0 → N % 65536 = 0 → N ≤ 2 ^ 40 → A < 2 ^ 57 →
      Accepts (.xmig pd a n kind dly) s x (.xmig A N (kind == 1)) dly 0) ∧
    (2 ≤ kind.toNat ∨ A % 65536 ≠ 0 ∨ N % 65536 ≠ 0 ∨ 2 ^ 40 < N → Raises (.xmig pd a n kind dly) s x illegalOperand)

/-- R214 to R216, R221 to R227, R234, R235: the copy commands between a core and its memories: what each accepts, and the
faults of its operands. -/
def Obligations.CopyWithinTheCore : Prop :=
  Sys2Proof.Claims.CopyBlocks ∧ Sys2Proof.Claims.CopyShapes

/-- R229 to R232, R236, R237: the commands that reach other cores, other packages, the atomic engines and the launch queues
are accepted when their operands pass the checks at issue, and raise the fault of the operand that does not. An optional
counter is named by a register other than s0, and taken from bits [31:0]. The id of this package is a free value (log 13). -/
def Obligations.CopyFabric : Prop :=
  ∀ (s : State) (x : Iss) (pd : Pd) (d a n k : SReg) (ch : BitVec 2) (op : AtomOp) (ac : ACls) (dly : BitVec 12),
    Runs s x pd →
    let c := x.core
    let W := c.rs d
    let D := W.toNat
    let A := (c.rs a).toNat
    let N := (c.rs n).toNat
    let K := c.rs k
    let ctr : Option (BitVec 32) := if k = 0 then none else some (K.truncate 32)
    let live := s.handleOk x.ag ((K.truncate 32 : BitVec 32).zeroExtend 64) = true
    let okCtr := k = 0 ∨ live
    let there := (W : BitVec 64).extractLsb' 0 23
    let away := K.extractLsb' 32 16 ≠ Config.pkgId
    let okNet := N % 64 = 0 ∧ 0 < N ∧ N ≤ 2 ^ 24 ∧ K.extractLsb' 48 15 = 0 ∧ away
    let okCast := N % 64 = 0 ∧ 0 < N ∧ N ≤ 2 ^ 20 ∧ A % 64 = 0 ∧ there.toNat % 64 = 0 ∧ there.toNat + N ≤ 2 ^ 23 ∧
      W.extractLsb' 32 32 ≠ 0 ∧ (W.extractLsb' 32 32).toNat < 2 ^ (s.shapeOf x.ag).1 ∧ W.extractLsb' 27 5 = 0 ∧
      W.getLsbD 23 = false ∧ (W.extractLsb' 24 3).toNat < (s.shapeOf x.ag).2
    let okMsg := K.extractLsb' 48 16 = 0 ∧ K.extractLsb' 8 8 = 0 ∧ K.extractLsb' 16 16 ≠ 0 ∧ away
    let ports := BitVec.ofNat 16 N &&& ~~~ (s.part (s.partOf x.ag)).ports
    (okCast → MayTouch c 64 A N → okCtr → Accepts (.xmcast pd d a n k dly) s x (.xmcast W A N ctr) dly 0) ∧
    (¬ okCast → Raises (.xmcast pd d a n k dly) s x illegalOperand) ∧
    (okCast → MayTouch c 64 A N → ¬ okCtr → Raises (.xmcast pd d a n k dly) s x counterHandle) ∧
    (okNet → D % 64 = 0 → D < 2 ^ 57 → MayTouch c 64 A N →
      Accepts (.xsend pd d a n k ac dly) s x (.xsend D A N K) dly ac) ∧
    (okNet → A % 64 = 0 → A < 2 ^ 57 → MayTouch c 64 D N → (K.getLsbD 63 = true → live) →
      Accepts (.xget pd d a n k ac dly) s x (.xget D A N K) dly ac) ∧
    (¬ okNet ∨ D % 64 ≠ 0 → Raises (.xsend pd d a n k ac dly) s x illegalOperand) ∧
    (¬ okNet ∨ A % 64 ≠ 0 → Raises (.xget pd d a n k ac dly) s x illegalOperand) ∧
    (okNet → D % 64 = 0 → D < 2 ^ 57 → BadFoot (.xsend pd d a n k ac dly) s x 64 A N) ∧
    (okNet → A % 64 = 0 → A < 2 ^ 57 → BadFoot (.xget pd d a n k ac dly) s x 64 D N) ∧
    (okMsg → MayTouch c 64 A 64 → Accepts (.xsendMsg pd a k ch dly) s x (.xsendMsg A K ch.toNat) dly 0) ∧
    (¬ okMsg → Raises (.xsendMsg pd a k ch dly) s x illegalOperand) ∧
    (okMsg → BadFoot (.xsendMsg pd a k ch dly) s x 64 A 64) ∧
    (N < 2 ^ 16 → live → ports = 0 → s.trigPending (BitVec.ofNat 16 N) = false →
      Accepts (.xrts pd a n k dly) s x (.xrts (c.rs a) (BitVec.ofNat 16 N) (K.truncate 32)) dly 0) ∧
    (N < 2 ^ 16 → live → ports ≠ 0 → Raises (.xrts pd a n k dly) s x privilege) ∧
    (N < 2 ^ 16 → live → ports = 0 → s.trigPending (BitVec.ofNat 16 N) = true →
      Raises (.xrts pd a n k dly) s x illegalOperand) ∧
    (2 ^ 16 ≤ N → Raises (.xrts pd a n k dly) s x illegalOperand) ∧
    (N < 2 ^ 16 → ¬ live → Raises (.xrts pd a n k dly) s x counterHandle) ∧
    (1 ≤ N → N ≤ 256 → MayTouch c 16 A (16 * N) → okCtr →
      Accepts (.xbat pd op a n k ac dly) s x (.xbat op A N ctr) dly ac) ∧
    (N = 0 ∨ 256 < N → Raises (.xbat pd op a n k ac dly) s x illegalOperand) ∧
    (1 ≤ N → N ≤ 256 → BadFoot (.xbat pd op a n k ac dly) s x 16 A (16 * N)) ∧
    (N < 64 → MayTouch c 256 A 256 → live →
      Accepts (.xenq pd a n k ac dly) s x (.xenq A N (K.truncate 32)) dly ac) ∧
    (64 ≤ N → Raises (.xenq pd a n k ac dly) s x illegalOperand) ∧
    (N < 64 → BadFoot (.xenq pd a n k ac dly) s x 256 A 256)

/-- R30, R239, R277: what meets on a bus among the words `l` of one wall cycle that pass their own checks. Of two drives on
one bus each has the structural fault, as has a drive on a bus that already carries a record in this wall cycle, or its own
troupe's record of this VCC cycle; a drive that meets a catch of another troupe where either troupe lacks its alignment, and
a catch of a troupe that lacks it which meets another's drive, have the timing fault; whatever meets none of these has none.
-/
def Sys2Proof.Claims.BusMeetings : Prop :=
  ∀ (s : State) (l : List BusOp) (o : BusOp), o ∈ l →
    let unal (t : Nat) : Prop := ∃ tr, s.troupe? t = some tr ∧ tr.unal = true
    let other (q : BusOp) : Prop := q.die = o.die ∧ q.t ≠ o.t ∧ q.drive ≠ o.drive
    (o.drive = true → (∃ q ∈ l, q.drive = true ∧ q.die = o.die ∧ q ≠ o) → s.busCause l o = some 4) ∧
    (o.drive = true → (∃ r ∈ s.bus, r.die = o.die ∧
        (r.wall = s.wall ∨ o.die < 8 ∧ r.trp = o.t ∧ r.adv = s.now (.core o.t o.r))) → s.busCause l o = some 4) ∧
    ((∀ q ∈ l, q.drive = true → q.die = o.die → q = o ∨ o.drive = false) →
      (∀ r ∈ s.bus, r.die ≠ o.die ∨ r.wall ≠ s.wall ∧ (r.trp ≠ o.t ∨ r.adv ≠ s.now (.core o.t o.r))) →
      (∀ q ∈ l, ¬ other q) → s.busCause l o = none) ∧
    (o.drive = true → (∀ q ∈ l, q.drive = true → q.die = o.die → q = o) → s.busTaken o.die o.t (s.now (.core o.t o.r)) = false →
      (∃ q ∈ l, other q ∧ (unal o.t ∨ unal q.t)) → s.busCause l o = some 5) ∧
    (o.drive = false → (∃ q ∈ l, other q ∧ ∀ z ∈ l, z.drive = true → z.die = o.die → z = q) →
      (l.filter fun q => q.drive && q.die == o.die).length = 1 → unal o.t → s.busCause l o = some 5)

/-- R238, R239: a drive puts the block of the issue cycle on its span's bus unless it meets another, which raises its fault
instead; a catch is due 8 cycles later from the own bus and 40 from another. A core's words are judged together with all of
the wall cycle (`BusMeetings`) and their verdict stands in `late`; a management core is alone on its bus. A block that R216
does not admit, and a span position outside the troupe, raise their faults. -/
def Sys2Proof.Claims.DriveAndCatch : Prop :=
  ∀ (s : State) (x : Iss) (pd : Pd) (a : SReg) (pos : BitVec 3), Runs s x pd →
    let c := x.core
    let A := (c.rs a).toNat
    let b := s.busSide x.ag c
    let ac := spanAccess (posOf x.ag) { due x (0, .flagsOnly, 0) with rtn := none } A 4096 false
    let verdict : Option Nat := ((c.late.getD []).find? fun q => q.1 == x.w).map fun q => q.2
    let fault (k : Nat) : Exc := if k = 5 then { cause := 0x05, sub := 2 } else structural
    let drives : Prop := ∃ r k, exec (.cdrive pd a) s = .next ({ s with bus := s.bus ++ [r] }.did x k) ∧
      r.die = b.die ∧ r.wall = s.wall ∧ r.adv = b.adv ∧ r.data = c.bank.read A 4096 ∧ r.trp = b.trp.getD 0 ∧
      k = { charged c [0x13] with acc70 := ac :: c.acc70 }
    let catches : Prop := Later (.ccatch pd a pos) s x [0x14]
      [(if pos.toNat = c.spos then 8 else 40, .catch' A (s.dieAt x.ag pos.toNat) s.wall (pos.toNat == c.spos), 0)]
    (MayTouch c 4096 A 4096 → (∀ z ∈ c.acc70, ac.clash z = false) →
      (∀ t r, x.ag = .core t r → (verdict = none → drives) ∧ (∀ k, verdict = some k → Raises (.cdrive pd a) s x (fault k))) ∧
      (∀ m, x.ag = .mgmt m → (∃ r ∈ s.bus, r.die = 8 + m ∧ r.wall = s.wall) → Raises (.cdrive pd a) s x structural) ∧
      (∀ m, x.ag = .mgmt m → (∀ r ∈ s.bus, r.die = 8 + m → r.wall ≠ s.wall) →
        (x.w ≠ 6 ∨ ∀ p e, decodeSlot 7 ((s.stream x.ag).word c.pc 7) ≠ .ok (.cdrive p e)) → drives)) ∧
    (MayTouch c 4096 A 4096 → (∃ z ∈ c.acc70, ac.clash z = true) → Raises (.cdrive pd a) s x structural) ∧
    BadFoot (.cdrive pd a) s x 4096 A 4096 ∧
    (pos.toNat < (s.shapeOf x.ag).2 → MayTouch c 4096 A 4096 →
      (∀ t r, x.ag = .core t r → (verdict = none → catches) ∧
        (∀ k, verdict = some k → Raises (.ccatch pd a pos) s x (fault k))) ∧
      (∀ m, x.ag = .mgmt m → catches)) ∧
    (pos.toNat < (s.shapeOf x.ag).2 → BadFoot (.ccatch pd a pos) s x 4096 A 4096) ∧
    ((s.shapeOf x.ag).2 ≤ pos.toNat → Raises (.ccatch pd a pos) s x illegalOperand)

/-- R30, R238, R239, R277: drives and catches on the span buses, and what happens where they meet. -/
def Obligations.Calliope : Prop :=
  Sys2Proof.Claims.BusMeetings ∧ Sys2Proof.Claims.DriveAndCatch

/-- R214, R249, R344, R236, R230: a command begins in its start cycle, and only there: it keeps the snapshot of that cycle
and what a `phase.core` of its core has handed to the store path, and schedules its cycles; no register, bank, array, memory
or counter changes. A hint is appended to the hints as its record (none for length 0), a trigger stands until its counter
reaches the target (it is cancelled where the counter is not live or lost), and every granule of an `xget` becomes a read
request or, where no port of the partition leads to its package, a fault of cause 0x0B that names its index. -/
def Sys2Proof.Claims.CopyStart : Prop :=
  ∀ (s : State) (a : Agent) (id : Nat) (c : Core) (k : Cmd), s.core? a = some c → c.cmd? id = some k →
    let ports (dst : Nat) (w : BitVec 64) : List Nat :=
      s.leading (some (s.partOf a)) (s.planeOf dst) (w.extractLsb' 32 16)
    (k.started = false → k.start = s.now a →
      ∃ u d j, exec (.copyStart a id) s = .next u ∧ u.core? a = some d ∧
        u.gmem = s.gmem ∧ u.hmem = s.hmem ∧ u.ctrs = s.ctrs ∧
        d.cmd? id = some j ∧ j.started = true ∧ j.snap = c.snap ∧ j.op = k.op ∧ j.word = k.word ∧
        (∀ e ∈ c.egress, e.inPath = true → e.pub = true → e ∈ j.own) ∧
        d.bank = c.bank ∧ d.tarr = c.tarr ∧ d.stk = c.stk ∧ d.s = c.s ∧ d.v = c.v ∧ d.p = c.p ∧ d.f = c.f ∧
        (∀ q ∈ c.pend, q ∈ d.pend) ∧
        ((∀ ga l far, k.op ≠ .xmig ga l far) → u.hints = s.hints) ∧
        ((∀ t w h, k.op ≠ .xrts t w h) → u.trigs = s.trigs) ∧
        ((∀ t b l w, k.op ≠ .xget t b l w) → u.out = s.out ∧ d.raised = c.raised) ∧
        (∀ ga l far, k.op = .xmig ga l far → u.hints =
          if l = 0 then s.hints else s.hints ++ [(k.part, hintRecord (s.cmdCtx a k).asid ga l far)]) ∧
        (∀ t w h, k.op = .xrts t w h → u.trigs =
          if (s.ctr? h).any fun e => !e.lost then
            s.trigs ++ [{ id := s.nextId, handle := h, target := t, ports := w }] else s.trigs) ∧
        (∀ t b l w, k.op = .xget t b l w → ∀ i < l / 64,
          (ports (b + 64 * i) w ≠ [] → ∃ o ∈ u.out, o.src = .cmd a id ∧ o.msg.typ = 1 ∧
            o.msg.dpkg = w.extractLsb' 32 16 ∧ o.msg.addr = BitVec.ofNat 64 (b + 64 * i) ∧ o.msg.spkg = Config.pkgId) ∧
          (ports (b + 64 * i) w = [] → ∃ z ∈ d.raised, z.cause = 0x0B ∧ z.word = some k.word ∧ z.aux0 = BitVec.ofNat 64 i)))
    ∧ (k.started = true ∨ k.start ≠ s.now a → exec (.copyStart a id) s = .refused (.notEnabled "COPY_START"))

/-! ## Counters at their engines -/

/-- Operation `o` stands in the engines' input, no earlier operation of its source on its counter, or on its plane to its
die, waits there (R126, R242, R350), the engine is not giving the counter away (R373), and, but where it stands at the engine
already, a plane carries it and the engine runs (R351, R353, R357, R358, R398). -/
def Sys2Proof.Claims.Posted (s : State) (o : CtrOp) : Prop :=
  s.ctrOps.find? (fun p => p.id == o.id) = some o ∧ s.ctrFirst o = true ∧ s.ctrMoving o.handle = false ∧
    (o.stands = true ∨ s.ctrOpen o = true)

/-- R241, R126, R127, R130, R405: an add saturates and keeps the overrun of strict mode; an arm sets the target, or is
refused with cause 0x03; a clear ends strict mode; on a counter that is not live (0x13) or lost (0x11) nothing is applied and
the source is refused, at once or, while its core is away, when it is back. -/
def Sys2Proof.Claims.CounterEngine : Prop :=
  ∀ (s : State) (o : CtrOp), Sys2Proof.Claims.Posted s o →
    (∀ c, s.ctr? o.handle = some c → c.lost = false →
      (∀ amt : BitVec 64, o.kind = .add amt →
        ∃ d : Counter, exec (.counterOperation o.id) s =
            .next ((((s.dropCtr o).setCtr d).engineOp o.handle).appliedFor o.src) ∧
          d = { c with value := d.value, ovb := d.ovb, ovr := d.ovr, st := d.st } ∧
          d.value.toNat = min (c.value.toNat + amt.toNat) (2 ^ 64 - 1) ∧
          (c.st ≠ 0 ∧ c.target.ult d.value = true → d.ovb = true ∧
            d.ovr.toNat = min (d.value.toNat - c.target.toNat) (2 ^ 32 - 1)) ∧
          (¬ (c.st ≠ 0 ∧ c.target.ult d.value = true) → d.ovb = c.ovb ∧ d.ovr = c.ovr) ∧
          (c.st = 1 ∧ c.target.ule d.value = true → d.st = 2) ∧
          (¬ (c.st = 1 ∧ c.target.ule d.value = true) → d.st = c.st)) ∧
      (∀ b : BitVec 32, o.kind = .arm b →
        (c.st ≠ 1 → c.ovb = false → exec (.counterOperation o.id) s =
          .next (((s.dropCtr o).setCtr { c with st := 1, target := c.value + b.zeroExtend 64 }).engineOp o.handle)) ∧
        (c.st = 1 ∨ c.ovb = true → exec (.counterOperation o.id) s =
          .next (((s.dropCtr o).engineOp o.handle).refuseCtr o 0x03))) ∧
      (o.kind = .clear → exec (.counterOperation o.id) s =
        .next (((s.dropCtr o).setCtr { c with ovb := false, ovr := 0, st := 0 }).engineOp o.handle))) ∧
    (o.src.agent.any s.away = false →
      (s.ctr? o.handle = none → o.kind.isWait = false →
        exec (.counterRefusal o.id) s = .next ((s.dropCtr o).refuseCtr o 0x13)) ∧
      (∀ c, s.ctr? o.handle = some c → c.lost = true → o.kind.isWait = false →
        exec (.counterRefusal o.id) s = .next ((s.dropCtr o).refuseCtr o 0x11)))

/-- R405: what a refusal does to its source: the word that issued it, or the word of the command that did, will raise the
cause with the handle; a system add is dropped. -/
def Sys2Proof.Claims.RefusalReaches : Prop :=
  ∀ (s : State) (o : CtrOp) (cause : Nat),
    (o.src = .system → s.refuseCtr o cause = s) ∧
    (∀ a w b c, o.src = .slot a w b → s.core? a = some c →
      ∃ k, s.refuseCtr o cause = s.setCore a k ∧ k = { c with raised := k.raised } ∧
        ∃ z, k.raised = c.raised ++ [z] ∧ z.word = some w ∧ z.baddr = b ∧ z.cause.toNat = cause % 256 ∧ z.hnd = o.handle) ∧
    (∀ a id c k, o.src = .cmd a id → s.core? a = some c → c.cmds.find? (fun j => j.id == id) = some k →
      ∃ d, s.refuseCtr o cause = s.setCore a d ∧ d = { c with raised := d.raised, cmds := d.cmds } ∧
        (∃ z, d.raised = c.raised ++ [z] ∧ z.word = some k.word ∧ z.baddr = k.baddr ∧ z.cause.toNat = cause % 256 ∧
          z.hnd = o.handle) ∧
        d.cmds = c.cmds.map fun (j : Cmd) => if j.id = id then { j with outstanding := j.outstanding - 1 } else j)

/-- R129, R131: a wait forms its report once the value has reached the target, an armed wait the counter's own as it stood
when the wait arrived; a wait that is not yet satisfied stands at the engine; an overrun, an idle counter, a lost counter and
one that is not live are reported at once; the report then reaches the waiting agent over a plane that carries it (R358), and
a deadline that has passed without one is reported instead. -/
def Sys2Proof.Claims.CounterWaits : Prop :=
  (∀ (s : State) (o : CtrOp) (c : Counter), Sys2Proof.Claims.Posted s o → s.ctr? o.handle = some c →
    let served := if o.stands then s.dropCtr o else (s.dropCtr o).engineOp o.handle
    let forms (r : CtrRep) := exec (.counterOperation o.id) s = .next (served.formReport o r)
    let waits (k : CtrKind) :=
      (o.stands = false → exec (.counterOperation o.id) s = .next ({ s with ctrOps := s.ctrOps.map fun (p : CtrOp) =>
        if p.id = o.id then { p with kind := k, stands := true } else p }.engineOp o.handle)) ∧
      (o.stands = true → exec (.counterOperation o.id) s = .refused (.notEnabled "COUNTER_OPERATION"))
    (c.lost = true → (o.kind = .read → forms .homeLost) ∧ (o.kind.isWait = true → o.kind ≠ .read → forms .orphan)) ∧
    (c.lost = false →
      (∀ t : BitVec 64, o.kind = .wait t →
        (c.ovb = true → forms (.overrun c.target c.ovr)) ∧
        (c.ovb = false → t.ule c.value = true → forms (.value c.value)) ∧
        (c.ovb = false → c.value.ult t = true → waits (.wait t))) ∧
      (o.kind = .waitArmed →
        (c.ovb = true → forms (.overrun c.target c.ovr)) ∧
        (c.ovb = false → c.st = 0 → forms (.notArmed c.target c.value)) ∧
        (c.ovb = false → c.st ≠ 0 → c.target.ule c.value = true → forms (.value c.value)) ∧
        (c.ovb = false → c.st ≠ 0 → c.value.ult c.target = true → waits (.wait c.target))) ∧
      (o.kind = .read → forms (.value c.value)))) ∧
  (∀ (s : State) (o : CtrOp), Sys2Proof.Claims.Posted s o → s.ctr? o.handle = none → o.kind.isWait = true →
    o.src.agent.any s.away = false →
    exec (.counterRefusal o.id) s = .next ((s.dropCtr o).formReport o .orphan)) ∧
  (∀ (s : State) (o : CtrOp) (a : Agent) (c : Core) (w : Wait) (r : CtrRep), o.src.agent = some a → s.core? a = some c →
    c.wait = some w → w.op = o.id → s.formReport o r = s.setCore a { c with wait := some { w with formed := some r } }) ∧
  (∀ (s : State) (a : Agent) (c : Core) (w : Wait), s.core? a = some c → c.wait = some w → w.report = none →
    (∀ r, w.formed = some r → s.planeFree (ctrAddr w.handle) = true → exec (.counterReport a) s = .next (s.setCore a { c with wait := some { w with report := some r } })) ∧
    (w.op ≠ 0 → w.ticks = 0 → (∃ t, w.kind = .target t) ∨ w.kind = .armed → ∃ t v,
      exec (.cwaitDeadlineExpiry a) s =
        .next ({ s with ctrOps := s.ctrOps.filter fun o => o.id != w.op }.setCore a
          { c with wait := some { w with report := some (.expired t v) } }) ∧
      (∀ z, w.kind = .target z → t = z) ∧
      (∀ k, s.ctr? w.handle = some k → v = k.value ∧ (w.kind = .armed → t = k.target))))

/-- R126 to R131, R241, R405: counters at their engines, and waits on them. -/
def Obligations.Counters : Prop :=
  Sys2Proof.Claims.CounterEngine ∧ Sys2Proof.Claims.RefusalReaches ∧ Sys2Proof.Claims.CounterWaits

/-- The indices `j` to `j + n - 1` of a die may be allocated and are free (R315). -/
def Sys2Proof.Claims.FreeRun (s : State) (die j n : Nat) : Prop :=
  1 ≤ j ∧ j + n ≤ 2 ^ 28 - 1 ∧ ∀ c ∈ s.ctrs, c.handle.toNat / 2 ^ 28 = die →
    c.handle.toNat % 2 ^ 28 < j ∨ j + n ≤ c.handle.toNat % 2 ^ 28

/-- R315: CT_CTL of the current partition allocates, for one of its VFs, the lowest free run of indices as counters at their
reset values, and answers its first index; it answers 0xFFFFFFF and allocates nothing for another VF, where no such run is,
and on a die whose engine is off (log 57). It frees, from an index on, the counters which that VF and no task owns, with
their triggers, and answers 0xFFFFFFF where one of the named indices is not such a counter. -/
def Sys2Proof.Claims.CounterAllocation : Prop :=
  ∀ (s : State) (m : Nat) (v : BitVec 64), m < 2 →
    let p := (s.mg m).part.toNat
    let vf := (v.extractLsb' 32 7).toNat
    let n := (v.extractLsb' 40 16).toNat
    let die := (v.extractLsb' 56 4).toNat
    let idx := (v.extractLsb' 0 28).toNat
    let own := vf < 96 ∧ (s.vf vf).part.toNat = p
    let mine (c : Counter) : Bool :=
      c.handle.toNat / 2 ^ 28 == die && decide (idx ≤ c.handle.toNat % 2 ^ 28) &&
      decide (c.handle.toNat % 2 ^ 28 < idx + n) && c.vf == vf && c.task.isNone
    p < 12 →
    (v.extractLsb' 62 2 = 1 → ∃ t, exec (.ctAllocate m v) s = .next t ∧ t.trigs = s.trigs ∧
      (¬ own ∨ n = 0 ∨ 9 < die ∨ s.engineOff (BitVec.ofNat 32 (die * 2 ^ 28)) = true ∨ (∀ j, ¬ Sys2Proof.Claims.FreeRun s die j n) →
        t.ctrs = s.ctrs ∧ (t.bank p).ctCtl.extractLsb' 0 28 = 0xFFFFFFF) ∧
      (∀ i, own → 1 ≤ n → die ≤ 9 → s.engineOff (BitVec.ofNat 32 (die * 2 ^ 28)) = false → Sys2Proof.Claims.FreeRun s die i n → (∀ j < i, ¬ Sys2Proof.Claims.FreeRun s die j n) →
        ((t.bank p).ctCtl.extractLsb' 0 28).toNat = i ∧
        ∃ new : List Counter, t.ctrs = s.ctrs ++ new ∧ new.length = n ∧ ∀ (j : Nat) (c : Counter), new[j]? = some c →
          c = { handle := BitVec.ofNat 32 (die * 2 ^ 28 + i + j), value := 0, target := 0, st := 0, ovb := false, ovr := 0,
                vf := vf, task := none, lost := false })) ∧
    (v.extractLsb' 62 2 = 2 → ∃ t, exec (.ctFree m v) s = .next t ∧
      (¬ own → t.ctrs = s.ctrs ∧ t.trigs = s.trigs ∧ (t.bank p).ctCtl.extractLsb' 0 28 = 0xFFFFFFF) ∧
      (own → t.ctrs = (s.ctrs.filter fun c => !mine c) ∧
        (∀ z, z ∈ t.trigs ↔ z ∈ s.trigs ∧ ∀ c ∈ s.ctrs, mine c = true → c.handle ≠ z.handle) ∧
        ((t.bank p).ctCtl.extractLsb' 0 28).toNat = if (s.ctrs.filter mine).length < n then 0xFFFFFFF else idx))

/-- R372, R373: a move command is taken where it names two different dies of 0 to 9, none is under way, the destination is
neither gated nor in reset and some entry of the directory names the source, else it sets the command-refused bit; a move
ends with every entry of the directory that named its source naming its destination. R236: a trigger whose counter is live,
does not move and has reached the target swaps the active banks of its ports and is gone; it does not before. -/
def Sys2Proof.Claims.MovesAndTriggers : Prop :=
  (∀ (s : State) (src dst : BitVec 4),
    let ok := src.toNat ≤ 9 ∧ dst.toNat ≤ 9 ∧ src ≠ dst ∧ s.move = none ∧ s.dieDown dst.toNat = false ∧
      src ∈ s.dir.toArray.toList
    (ok → exec (.counterMove src dst) s = .next { s with move := some (src, dst) }) ∧
    (¬ ok → exec (.counterMove src dst) s = .next { s with seCref := true })) ∧
  (∀ (s : State) (src dst : BitVec 4), s.move = some (src, dst) → ∃ t, exec .counterMoveComplete s = .next t ∧
    t = { s with dir := t.dir, move := none } ∧
    ∀ d, d < 10 → vget 0 t.dir d = if vget 0 s.dir d = src then dst else vget 0 s.dir d) ∧
  (∀ (s : State) (z : Trig) (c : Counter), s.trigs.find? (fun u => u.id == z.id) = some z → s.ctr? z.handle = some c →
    let flip (p : Port) : Port := { p with act := !p.act }
    (c.lost = false → z.target.ule c.value = true → s.ctrMoving z.handle = false → ∃ t, exec (.routeSwap z.id) s = .next t ∧
      t = { s with trigs := t.trigs, ports := t.ports } ∧ t.trigs = (s.trigs.filter fun u => u.id != z.id) ∧
      ∀ q, q < 16 → t.port q = if z.ports.getLsbD q then flip (s.port q) else s.port q) ∧
    (c.lost = true ∨ c.value.ult z.target = true ∨ s.ctrMoving z.handle = true → exec (.routeSwap z.id) s = .refused (.notEnabled "ROUTE_SWAP")))

/-- R315, R372, R373, R236: CT_CTL, the moves of counters between engines, and the triggers of route banks. -/
def Obligations.CounterManagement : Prop :=
  Sys2Proof.Claims.CounterAllocation ∧ Sys2Proof.Claims.MovesAndTriggers

/-! ## Loads, stores and phases of G -/

/-- The byte that a read of G returns at `va`, which translates to `pa`: the snapshot's, where no store that the core has
still under way touches it; the youngest such store's, where that store has been handed over or has the class of the read
(R125, R253). -/
def Sys2Proof.Claims.OwnRead (snap : Mem) (own : List Egress) (ac : BitVec 2) (free va pa : Nat) (b : Byte) : Prop :=
  ((∀ e ∈ own, e.byteAt va = none) → b = snap.cell free pa) ∧
  (∀ l e l' v, own = l ++ e :: l' → e.byteAt va = some v → e.inPath = true ∨ e.ac = ac → (∀ z ∈ l', z.byteAt va = none) →
    b = v)

/-- R123, R135, R165 to R167, R335: what the walk of an access decides. A scalar load has its bytes at the translated
address, or fails with cause 0x0A and the sub-cause of R335. A vector load has the bytes of its active elements, or fails at
the lowest active element whose page fails; the fault-first form then has the elements before that one, unless it is the
first. A vector store that no element fails is let through. `locq` never fails: where the address does not translate it
returns 0. A computed address of 2^57 or more counts as an absent page by the model's choice (log 41). -/
def Sys2Proof.Claims.WalkDecides : Prop :=
  ∀ (s : State) (a : Agent) (f : Fetch) (how : Lookup),
    let st := s.walked a f how
    let cx := s.ctx a
    let reads (va pa : Nat) (b : Byte) := Sys2Proof.Claims.OwnRead f.snap f.own f.ac s.free va pa b
    (∀ d sz x, f.kind = .ldg d sz x →
      (∀ sub, s.translate cx f.va .rd (some f.ac) how = .error sub → st = .failed 0x0A (BitVec.ofNat 8 sub) 0 f.va) ∧
      (∀ pa pte, s.translate cx f.va .rd (some f.ac) how = .ok (pa, pte) → ∃ bs, st = .ready bs ∧ bs.length = sz ∧
        ∀ i b, bs[i]? = some b → reads (f.va + i) (pa + i) b)) ∧
    (∀ d sub, f.kind = .locq d → s.translate cx f.va .rd none how = .error sub → ∃ bs, st = .arrived bs ∧
      bs = List.replicate 8 0) ∧
    (∀ fd mask need, (∃ d cnt, f.kind = .vldg d fd mask cnt ∧ need = Need.rd) ∨ f.kind = .vstg fd mask ∧ need = Need.wr →
      let n := (gBytes fd).getD 4
      let page (e : Nat) := (f.va + e * n) / 4096
      let fails (e : Nat) (sub : Nat) : Prop := e < 1024 ∧ mask.getLsbD e = true ∧
        (2 ^ 45 ≤ page e ∧ sub = 1 ∨ page e < 2 ^ 45 ∧ s.translate cx (page e * 4096) need (some f.ac) how = .error sub)
      let first (e sub : Nat) : Prop := fails e sub ∧ ∀ j < e, ∀ z, ¬ fails j z
      let holds (bs : List Byte) (k : Nat) : Prop := bs.length = k * n ∧ ∀ e < k, mask.getLsbD e = true → ∀ pa pte,
        s.translate cx (page e * 4096) need (some f.ac) how = .ok (pa, pte) → ∀ i < n, (f.va + e * n + i) / 4096 = page e →
          ∃ b, bs[e * n + i]? = some b ∧ reads (f.va + e * n + i) (pa + (f.va + e * n + i) % 4096) b
      (∀ d cnt, f.kind = .vldg d fd mask cnt →
        ((∀ e sub, ¬ fails e sub) → ∃ bs, st = .ready bs ∧ holds bs 1024) ∧
        (∀ e sub, first e sub → cnt = none ∨ (∀ j < e, mask.getLsbD j = false) →
          st = .failed 0x0A (BitVec.ofNat 8 sub) e (f.va + e * n)) ∧
        (∀ e sub, first e sub → cnt ≠ none → (∃ j < e, mask.getLsbD j = true) → ∃ bs, st = .ready bs ∧ holds bs e)) ∧
      (f.kind = .vstg fd mask →
        ((∀ e sub, ¬ fails e sub) → st = .arrived []) ∧
        (∀ e sub, first e sub → st = .failed 0x0A (BitVec.ofNat 8 sub) e (f.va + e * n))))

/-- R212: when the walks of a product finish, every page of B must be a readable near-tier page on the stack that serves its
first page; its bytes are then those of its issue cycle's view of memory (`OwnRead`), and else the address fault names the
lowest address of B on the first page that is not. -/
def Sys2Proof.Claims.WalkDecidesProduct : Prop :=
  ∀ (s : State) (a : Agent) (g : Gemv) (how : Lookup), 0 < g.size →
    let st := s.walkedGemv a g how
    let inB (pg : Nat) : Prop := g.bva / 4096 ≤ pg ∧ pg ≤ (g.bva + g.size - 1) / 4096
    let stands (pg d : Nat) : Prop := pg < 2 ^ 45 ∧ ∃ pa pte,
      s.translate (s.ctx a) (pg * 4096) .rd (some 0) how = .ok (pa, pte) ∧ isFar pa = false ∧ homeOf pa = some d
    (∀ d, (∀ pg, inB pg → stands pg d) → ∃ bs, st = .ready bs ∧ bs.length = g.size ∧
      ∀ i b, bs[i]? = some b → ∀ pa pte,
        s.translate (s.ctx a) ((g.bva + i) / 4096 * 4096) .rd (some 0) how = .ok (pa, pte) →
        Sys2Proof.Claims.OwnRead g.snap g.own 0 s.free (g.bva + i) (pa + (g.bva + i) % 4096) b) ∧
    (∀ pg, inB pg → (∀ d, stands (g.bva / 4096) d → ¬ stands pg d) →
      (∀ q, inB q → q < pg → ∃ d, stands (g.bva / 4096) d ∧ stands q d) →
      st = .failed 0x08 0 0 (max g.bva (pg * 4096)))

/-- R123, R124, R165, R212, R335, R358, R371, R398: when the walk of an access finishes, which it does once every table it
reads can be reached, its outcome is decided (`WalkDecides`); the data that it has arrives, unless its page lies behind a
port that is down or no plane carries it; of a product one block more arrives; poison from far-tier memory fails the access;
the failures that are due are raised before the next bundle as deferred faults, and those accesses will be made again. -/
def Sys2Proof.Claims.LoadEvents : Prop :=
  ∀ (s : State) (a : Agent) (c : Core) (f : Fetch), s.core? a = some c →
    c.fetches.find? (fun g => g.id == f.id) = some f →
    let becomes (st : FetchSt) : Core :=
      { c with fetches := c.fetches.map fun (g : Fetch) => if g.id = f.id then { g with st := st } else g }
    (f.st = .walking → s.awaitsResume a f.due = false → ∀ cached, (∀ va ∈ f.pages,
        s.tablesDown (s.ctx a) va (.of cached) = false) → ∃ t k, exec (.walkComplete a f.id cached) s = .next t ∧
      t.core? a = some k ∧ k.s = c.s ∧ k.v = c.v ∧ k.p = c.p ∧ k.f = c.f ∧ k.bank = c.bank ∧ k.flags = c.flags ∧
      k.egress = c.egress ∧ k.raised = c.raised ∧ k.fetches.length = c.fetches.length ∧
      (∀ g ∈ k.fetches, g.id = f.id → g.st = s.walked a f (.of cached)) ∧
      t.gmem = s.gmem ∧ t.hmem = s.hmem ∧ t.ctrs = s.ctrs) ∧
    (∀ g, (∀ h ∈ c.fetches, h.id ≠ g.id) → c.gemv.find? (fun h => h.id == g.id && h.st == .walking) = some g →
      s.awaitsResume a g.due = false → ∀ cached, (∀ va ∈ g.pages, s.tablesDown (s.ctx a) va (.of cached) = false) →
      ∃ t k, exec (.walkComplete a g.id cached) s = .next t ∧
      t.core? a = some k ∧ k.raised = c.raised ∧ k.s = c.s ∧ k.tarr = c.tarr ∧ t.gmem = s.gmem ∧
      ∀ h ∈ k.gemv, h.id = g.id → h.st = s.walkedGemv a g (.of cached)) ∧
    (∀ data, f.st = .ready data →
      (s.anyPortDown (s.ctx a) f.pages = false →
        exec (.loadDataArrival a f.id) s = .next (s.setCore a (becomes (.arrived data)))) ∧
      (s.anyFar (s.ctx a) f.pages = true →
        exec (.cxlPoison a f.id) s = .next (s.setCore a (becomes (.failed 0x0B 0 0 f.va))))) ∧
    (∀ cause sub e addr, f.st = .failed cause sub e addr → f.due ≤ s.now a →
      ∃ t k, exec (.deferredFault a) s = .next t ∧ t.core? a = some k ∧
        (∃ r ∈ k.raised, r.cause = cause ∧ r.sub = sub ∧ r.word = some f.word ∧ r.deferred = true ∧ r.baddr = f.baddr ∧
          r.addr = BitVec.ofNat 64 addr) ∧
        (∀ g ∈ k.fetches, g.due ≤ s.now a → ∀ x y z w, g.st ≠ .failed x y z w)) ∧
    (∀ g data, c.fetches.find? (fun h => h.id == g.id) = none → c.gemv.find? (fun h => h.id == g.id) = some g →
      g.st = .ready data → g.arrived < g.nb → s.anyPortDown (s.ctx a) g.pages = false →
      exec (.loadDataArrival a g.id) s = .next (s.setCore a { c with gemv := c.gemv.map fun (h : Gemv) =>
        if h.id = g.id then { h with arrived := h.arrived + 1 } else h }))

/-- R246, R248, R253, R337, R347, R255, R278: the store path drains the entry whose turn it is (`drainNext`: the oldest of
the oldest phase in its alias class that neither failed nor waits). An entry that stores nothing leaves. Where its page
translates, it leaves for memory, at the translated address, and the entries before it in coherence order keep none of the
bytes that it stores; where it does not, its failure is raised as a page fault of the store's word and the entry stays, or,
while the troupe publishes for its end or its saving, it is discarded and the status of the task says so. -/
def Sys2Proof.Claims.StorePath : Prop :=
  ∀ (s : State) (a : Agent) (c : Core) (e : Egress), s.core? a = some c → s.drainNext a c = some e →
    let tr := s.translate (s.ctx a) e.va .wr (some e.ac) .any
    let gone := { c with egress := c.egress.erase e }
    (e.cut = false → (∀ b ∈ e.bytes, b = none) → exec (.storePathDrain a) s = .next (s.setCore a gone)) ∧
    (e.cut = true ∨ (∃ b ∈ e.bytes, b ≠ none) →
      (∀ pa pte, tr = .ok (pa, pte) → ∃ t k, exec (.storePathDrain a) s = .next t ∧ t.core? a = some k ∧
        k.raised = c.raised ∧ k.s = c.s ∧ k.v = c.v ∧ k.bank = c.bank ∧ t.gmem = s.gmem ∧ t.hmem = s.hmem ∧ t.ctrs = s.ctrs ∧
        (∀ l l', c.egress = l ++ e :: l' → e ∉ l → ∃ l1, k.egress = l1 ++ l' ∧ l1.length = l.length ∧
          ∀ (i : Nat) (f g : Egress), l[i]? = some f → l1[i]? = some g → g = { f with bytes := g.bytes, cut := g.cut } ∧
            ∀ x, g.byteAt x = if (e.byteAt x).isSome then none else f.byteAt x) ∧
        (homeOf pa ≠ none → k.snap = (if e.pub then c.snap.writeO pa e.bytes else c.snap) ∧
          ((∃ b ∈ e.bytes, b ≠ none) → ∃ g, t.ghist = s.ghist ++ [g] ∧ g.pa = pa ∧ g.bytes = e.bytes ∧ g.pub = e.pub ∧
            g.scope = 0 ∧ g.die = (c.site a).1 ∧ g.loc = (c.site a).2 ∧ g.seen = [])) ∧
        (homeOf pa = none ∨ (∀ b ∈ e.bytes, b = none) → t.ghist = s.ghist) ∧ (homeOf pa = none → k.snap = c.snap)) ∧
      (∀ sub, tr = .error sub → s.publishing a = false → ∃ k, exec (.storePathDrain a) s = .next (s.setCore a k) ∧
        k.egress.length = c.egress.length ∧ (∀ d ∈ k.egress, d = { e with failed := some (BitVec.ofNat 8 sub) } ∨ d ∈ c.egress) ∧
        ∃ r, k.raised = c.raised ++ [r] ∧ r.cause = 0x0A ∧ r.sub = BitVec.ofNat 8 sub ∧ r.addr = BitVec.ofNat 64 e.va ∧
          r.word = some e.word ∧ r.baddr = e.baddr ∧ r.deferred = true) ∧
      (∀ sub t r, tr = .error sub → s.publishing a = true → a = .core t r → ∃ u, exec (.storePathDrain a) s = .next u ∧
        u.core? a = some gone ∧ u.gmem = s.gmem ∧ u.ghist = s.ghist ∧
        ∀ x, s.troupe? t = some x → ∃ y, u.troupe? t = some y ∧
          y.status = some (x.status.getD (BitVec.ofNat 16 (0x0A00 + sub)))))

/-- R246, R251, R252, R331, R403: an engine's write of bytes at a physical address is visible to every agent at once: each
byte stored reads as stored, whatever earlier writes are still narrow, and every other byte as before. An address that is no
memory takes nothing. -/
def Sys2Proof.Claims.WideWrites : Prop :=
  ∀ (s : State) (pa : Nat) (bs : List (Option Byte)), s.gmem.wf = true →
    (homeOf pa = none → s.acceptWide pa bs = s) ∧
    (homeOf pa ≠ none → ∃ t, s.acceptWide pa bs = t ∧ t = { s with gmem := t.gmem, ghist := t.ghist } ∧
      (∀ i b, bs[i]? = some (some b) → t.gmem.get (pa + i) = b ∧ t.latest.get (pa + i) = b) ∧
      (∀ x, (∀ i b, bs[i]? = some (some b) → x ≠ pa + i) → t.gmem.get x = s.gmem.get x ∧ t.latest.get x = s.latest.get x))

/-- R247, R249: a phase of scope `k` completes once every write that it covers is accepted and, from package scope on, every
fence marker has left and is acknowledged. Below package scope the core's accepted writes are then published to the scope;
from package scope on they are in memory, where no byte that the core has not written changes. Either way the agent no longer
waits, and of the core only its snapshot is renewed. A phase that is not covered does not complete. -/
def Sys2Proof.Claims.Phases : Prop :=
  ∀ (s : State) (a : Agent) (c : Core) (w : Wait) (k : Nat), s.core? a = some c → c.wait = some w → w.kind = .phase k →
    s.gmem.wf = true →
    let mine (g : GWrite) : Prop := g.die = (c.site a).1 ∧ g.loc = (c.site a).2
    (s.covered a c k w.iss = true → w.marked k = true → ∃ t d, exec (.phaseComplete a) s = .next t ∧ t.core? a = some d ∧
      d = { c with wait := none, spills := [], accd := [], snap := d.snap } ∧
      t.hmem = s.hmem ∧ t.ctrs = s.ctrs ∧
      (k < 3 → t.gmem = s.gmem ∧ ∀ g ∈ t.ghist, mine g → g.pub = true ∧ k ≤ g.scope) ∧
      (3 ≤ k → (∀ g ∈ t.ghist, ¬ mine g) ∧
        ∀ x, (∀ g ∈ s.ghist, mine g → ∀ i b, g.bytes[i]? = some (some b) → x ≠ g.pa + i) → t.gmem.get x = s.gmem.get x)) ∧
    (s.covered a c k w.iss = false ∨ w.marked k = false → exec (.phaseComplete a) s = .refused (.notEnabled "PHASE_COMPLETE"))

/-- R123 to R125, R165 to R167, R246 to R249, R335, R337: loads arrive or fail, stores drain, phases complete. That a
computed address of 2^57 or more is on an absent page is the model's choice (log 41). -/
def Obligations.MemoryEvents : Prop :=
  Sys2Proof.Claims.WalkDecides ∧ Sys2Proof.Claims.WalkDecidesProduct ∧ Sys2Proof.Claims.LoadEvents ∧ Sys2Proof.Claims.StorePath ∧ Sys2Proof.Claims.WideWrites ∧
  Sys2Proof.Claims.Phases

/-! ## Arrivals, messages and batches -/

/-- R217, R218, R336, R358, R371, R384, R398: a piece of G or H that a command reads. Its walk ends; then its bytes are here,
once a plane carries them and every port and table on the way is up: those of H (of the host that presents the VF: R369), or
those that its snapshot and its core's own stores give at the translated addresses (`readRuns`); or it has failed: with the
sub-cause of R335 at its lowest failing page, with sub-cause 4 where the host's IOMMU refuses it, or with cause 0x0B where
far-tier memory returns poison. -/
def Sys2Proof.Claims.PiecesArrive : Prop :=
  ∀ (s : State) (a : Agent) (c : Core) (k : Cmd) (i : Nat), s.core? a = some c → c.cmd? k.id = some k →
    k.op.reads = true → k.started = true → k.next ≤ i → i < k.total →
    let q := k.piece i
    let put (p : Piece) : State := s.setCore a (c.setCmd (k.setPiece p))
    let first := ((k.source i).filterMap (·.1)).headD 0
    let arrives (res : PieceRes) := exec (.copyPieceArrival a k.id i res) s
    let pages := s.pagesOf (s.cmdCtx a k) .rd (some k.ac) (.of q.cached) (k.source i)
    (q.data = none → q.failed = none → Cmd.hasPhase c k.id 2 = false →
      (k.op.host = true →
        ((∀ g ∈ k.source i, s.hostFree (g.1.getD 0) g.2 = true) → ∀ l, arrives (.done l) = .next (put { q with
          walking := false,
          data := some ((k.source i).flatMap fun g => (s.hostMem (s.vfOf a)).read (g.1.getD 0) g.2) })) ∧
        arrives .iommu = .next (put { q with walking := false, failed := some (0x0A, 4, first) })) ∧
      (k.op.host = false →
        (∀ pg sub l, pageFault pages = some (pg, sub) → arrives (.done l) =
          .next (put { q with
            walking := false, failed := some (0x0A, BitVec.ofNat 8 sub, runAddr (k.source i) pg) })) ∧
        (pageFault pages = none →
          ((∀ e ∈ pages, ∀ pa, pagePa pages (e.1 * 4096) = some pa →
            s.portDown pa = false ∧ s.pageFree pa = true) → ∀ l, arrives (.done l) =
            .next { put { q with
              walking := false, data := some (readRuns k.snap k.own k.ac s.free pages (k.source i)) } with
                free := s.free + 1 }) ∧
          ((∃ e ∈ pages, ∃ pa, pagePa pages (e.1 * 4096) = some pa ∧ isFar pa = true) → arrives .poison =
            .next (put { q with walking := false, failed := some (0x0B, 0, first) }))))) ∧
    (k.op.host = false → (∀ f ∈ c.fetches, f.id ≠ k.id) → (∀ g ∈ c.gemv, g.id ≠ k.id) → q.walking = true →
      (∀ j < i, k.next ≤ j → (k.piece j).walking = false) → ∀ cached, (∀ va ∈ k.piecePages i,
        s.tablesDown (s.cmdCtx a k) va (.of cached) = false) → ∃ t d z, exec (.walkComplete a k.id cached) s = .next t ∧
        t.core? a = some d ∧ d.cmd? k.id = some z ∧ z.piece i = { q with walking := false, cached := cached } ∧
        d.bank = c.bank ∧ t.gmem = s.gmem ∧ t.hmem = s.hmem)

/-- R217, R251, R347, R358, R371: an entry of a command's store buffer that no earlier entry of its granule precedes, and no
failure before it. Memory accepts it: H, or G at its translated address, unless its page is moving or not reachable or no
plane carries it, when it waits; it then has left the buffer. It fails with the sub-cause of R335, with sub-cause 1 at a
computed address of 2^57 or more, which no page maps (log 41), or with sub-cause 4 where the host's IOMMU refuses it. -/
def Sys2Proof.Claims.BufferAccepted : Prop :=
  ∀ (s : State) (a : Agent) (c : Core) (k : Cmd) (n idx va : Nat) (bytes : List Byte) (l : List Byte),
    s.core? a = some c → c.cmd? k.id = some k → k.buf[n]? = some (idx, va, bytes) →
    (∀ j < n, ∀ e, k.buf[j]? = some e → e.2.1 / 64 ≠ va / 64) → (∀ f, k.failed = some f → idx < f.2.2.1) →
    let left := c.setCmd { k with buf := k.buf.eraseIdx n }
    let fails (sub : BitVec 8) := .next (s.setCore a (c.setCmd { k with failed := some (0x0A, sub, idx, va) }))
    let tr := s.translate (s.cmdCtx a k) va .wr (some k.ac) .any
    (k.op.host = true →
      (s.planeFree va = true →
        exec (.storeBufferAccept a k.id n (.done l)) s = .next ((s.setCore a left).hostWrite (s.vfOf a) va bytes)) ∧
      (s.planeFree va = false →
        exec (.storeBufferAccept a k.id n (.done l)) s = .refused (.notEnabled "STORE_BUFFER_ACCEPT")) ∧
      exec (.storeBufferAccept a k.id n .iommu) s = fails 4) ∧
    (k.op.host = false →
      (2 ^ 57 ≤ va → exec (.storeBufferAccept a k.id n (.done l)) s = fails 1) ∧
      (∀ sub, va < 2 ^ 57 → tr = .error sub → exec (.storeBufferAccept a k.id n (.done l)) s = fails (BitVec.ofNat 8 sub)) ∧
      (∀ pa pte, va < 2 ^ 57 → tr = .ok (pa, pte) →
        (pteMs pte = 1 ∨ s.switching pa = true ∨ s.portDown pa = true ∨ s.planeFree pa = false →
          exec (.storeBufferAccept a k.id n (.done l)) s = .refused (.notEnabled "STORE_BUFFER_ACCEPT")) ∧
        (pteMs pte ≠ 1 → s.switching pa = false → s.portDown pa = false → s.planeFree pa = true →
          exec (.storeBufferAccept a k.id n (.done l)) s =
            .next ((s.setCore a (left.spilledAt k va bytes)).acceptWide pa (bytes.map some)))))

/-- R218, R279: the failure of a running command is taken, once, with its cause, its address and its progress index (in AUX0,
whatever the cause: log 79): of an entry of its store buffer when no earlier entry is left, of a piece in the cycle in which
it is due. -/
def Sys2Proof.Claims.CommandFails : Prop :=
  ∀ (s : State) (a : Agent) (c : Core) (k : Cmd), s.core? a = some c → c.cmd? k.id = some k → k.reported = false →
    let takes (cause sub : BitVec 8) (idx addr : Nat) := exec (.copyDeferredFailure a k.id) s =
      .next (s.setCore a ((c.setCmd { k with reported := true }).raiseLate k.word k.baddr
        { cause := cause.toNat, sub := sub.toNat, addr := addr, aux0 := BitVec.ofNat 64 idx }))
    (∀ cause sub idx addr, k.failed = some (cause, sub, idx, addr) → (∀ e ∈ k.buf, idx ≤ e.1) → takes cause sub idx addr) ∧
    (k.failed = none → (∃ p ∈ c.pend, p.due ≤ s.now a ∧ p.act = .cmd k.id 1 k.next) →
      ∀ cause sub addr, (k.piece k.next).failed = some (cause, sub, addr) → takes cause sub k.next addr)

/-- R228, R212, R242: a granule that reaches a wall becomes eligible in the core's next VCC cycle; one for a wall that no
task holds only makes its counter add (log 24). Of the granules offered to a port it writes at most 8, none of which shares a
bank with another, and always the first; a granule that is written stands in the core's banks, and its counter add is posted,
or that of its block once no granule of the block is left. Where a granule is overdue, the troupe's cycle is stolen: every
port of the troupe writes in it, of overdue granules first. -/
def Sys2Proof.Claims.GranulesArrive : Prop :=
  (∀ (s : State) (g : Granule), s.flight.find? (fun h => h.id == g.id) = some g → g.since = none →
    (∀ c, s.core? g.dst = some c → exec (.arrivalReceived g.id) s = .next { s with
      flight := (s.flight.filter fun h => h.id != g.id) ++ [{ g with since := some (s.now g.dst + 1) }] }) ∧
    (s.core? g.dst = none → exec (.arrivalReceived g.id) s = .next (s.writeGranule g))) ∧
  (∀ (s : State) (g : Granule),
    let rest := s.flight.filter fun h => h.id != g.id
    let more : Prop := g.blk ≠ none ∧ ∃ h ∈ rest, h.blk = g.blk
    (s.writeGranule g).flight = rest ∧
    (∀ c, s.core? g.dst = some c → ∃ k, (s.writeGranule g).core? g.dst = some k ∧ k.bank = c.bank.write g.addr g.data) ∧
    (∀ h, g.ctr = some h →
      (more → (s.writeGranule g).ctrOps = s.ctrOps) ∧
      (¬ more → ∃ o, (s.writeGranule g).ctrOps = s.ctrOps ++ [o] ∧ o.handle = h ∧ o.src = g.src ∧
        o.kind = .add (BitVec.ofNat 64 g.amt))) ∧
    (g.ctr = none → (s.writeGranule g).ctrOps = s.ctrOps)) ∧
  (∀ l : List Granule, (portChoice [] l).Sublist l ∧ (portChoice [] l).length ≤ 8 ∧
    (portChoice [] l).Pairwise (fun g h => g.meets h = false) ∧ (∀ g l', l = g :: l' → g ∈ portChoice [] l) ∧
    (∀ g ∈ l, g ∉ portChoice [] l → (portChoice [] l).length = 8 ∨ ∃ h ∈ portChoice [] l, h.meets g = true)) ∧
  (∀ (s : State) (t r : Nat) (tr : Troupe) (g : Granule), s.troupe? t = some tr → g ∈ s.flight → g.dst = .core t r →
    g.overdue (tr.adv + 1) = true → exec (.stolenBankCycle t) s = .next ((tab tr.cores.length id).foldl (fun s r =>
      let mine := s.flight.filter fun g => g.dst == .core t r && g.since.isSome
      (portChoice [] ((mine.filter fun g => g.overdue (tr.adv + 1)) ++ mine.filter fun g => !g.overdue (tr.adv + 1))).foldl
        (fun s g => s.writeGranule g) s) s))

/-- R214 to R219, R228, R251: a copy command starts, its pieces arrive and are accepted, and it fails with its index;
granules reach the walls. -/
def Obligations.CopyEngines : Prop :=
  Sys2Proof.Claims.CopyStart ∧ Sys2Proof.Claims.PiecesArrive ∧ Sys2Proof.Claims.BufferAccepted ∧ Sys2Proof.Claims.CommandFails ∧
  Sys2Proof.Claims.GranulesArrive

/-- R80, R231: the oldest message of a sender to a queue is appended to the queue when the task is bound, is not being
restored and has room in it; it does not come while there is none. -/
def Sys2Proof.Claims.MessageDelivered : Prop :=
  ∀ (s : State) (m : InMsg) (c : Core) (tr : Troupe), s.inMsgs.find? (fun n => n.id == m.id) = some m →
    s.troupe? m.trp = some tr → s.core? (.core m.trp m.rank) = some c →
    (s.inMsgs.find? fun n => n.trp == m.trp && n.rank == m.rank && n.ch == m.ch && n.src == m.src) = some m →
    let room := (vget [] c.q (2 + m.ch)).length < qDepth (2 + m.ch)
    (room → tr.loading = false → exec (.messageDelivery m.id) s = .next ({ s with
      inMsgs := s.inMsgs.filter fun n => n.id != m.id }.setCore (.core m.trp m.rank)
        { c with q := vmod [] c.q (2 + m.ch) fun l => l ++ [m.data] })) ∧
    (¬ room ∨ tr.loading = true → exec (.messageDelivery m.id) s = .refused (.notEnabled "MESSAGE_DELIVERY"))

/-- R232, R218: the list of a batch is checked entry by entry before anything is sent: the first entry that breaks a rule of
R232 fails the command with its index, with cause 0x03, 0x10 or 0x0A (within one entry in this order, which is the model's:
log 47); otherwise every entry leaves for its engine, a G word with the address at which it translated, unless its page is
moving. -/
def Sys2Proof.Claims.BatchSent : Prop :=
  ∀ (s : State) (a : Agent) (c : Core) (k : Cmd) (op : AtomOp) (b n : Nat) (ctr : Option (BitVec 32)) (l : List Byte),
    s.core? a = some c → c.cmd? k.id = some k → k.op = .xbat op b n ctr → k.started = true → Cmd.hasPhase c k.id 0 = false →
    k.failed = none → k.total ≠ 0 → k.outstanding = 0 → k.next = 0 →
    let w (j : Nat) := batchEntry k.aux j
    let tgt (j : Nat) := ((w j).extractLsb' 0 57).toNat
    let onCtr := op = .cadd ∨ op = .cclr
    let size := if op = .cas ∨ op = .fadd then 4 else 8
    let tr (j : Nat) := s.translate (s.cmdCtx a k) (tgt j) .rdwr (some k.ac) .any
    let malformed (j : Nat) : Prop := (w j).extractLsb' 57 6 ≠ 0 ∨ onCtr ∧ 2 ^ 32 ≤ tgt j ∨ ¬ onCtr ∧ tgt j % size ≠ 0 ∨
      op = .cclr ∧ (w j).extractLsb' 64 64 ≠ 0
    let dead (j : Nat) : Prop := onCtr ∧ s.handleOk a (BitVec.ofNat 64 (tgt j)) = false
    let good (j : Nat) : Prop := ¬ malformed j ∧ ¬ dead j ∧ (¬ onCtr → ∃ pa pte, tr j = .ok (pa, pte))
    let fails (cause sub : BitVec 8) (j addr : Nat) := exec (.copyPieceArrival a k.id 0 (.done l)) s =
      .next (s.setCore a (c.setCmd { k with failed := some (cause, sub, j, addr) }))
    (∀ j < n, (∀ i < j, good i) →
      (malformed j → fails 0x03 0 j (tgt j)) ∧ (¬ malformed j → dead j → fails 0x10 0 j 0) ∧
      (∀ sub, ¬ malformed j → ¬ onCtr → tr j = .error sub → fails 0x0A (BitVec.ofNat 8 sub) j (tgt j))) ∧
    ((∀ j < n, good j) → ∃ es, exec (.copyPieceArrival a k.id 0 (.done l)) s =
        .next ({ s with nextId := s.nextId + n, atoms := s.atoms ++ es }.setCore a (c.setCmd { k with
          outstanding := n, next := 0, total := ((es.filter fun (e : AtomicE) => e.ret).length + 7) / 8 })) ∧
      es.length = n ∧ ∀ j e, es[j]? = some e → e.agent = a ∧ e.cmd = k.id ∧ e.idx = j ∧ e.op = op ∧ e.tgt = tgt j ∧
        e.sent = s.wall ∧ e.opnd = (w j).extractLsb' 64 64 ∧ e.ret = (w j).getLsbD 63 ∧ (onCtr → e.pa = none) ∧
        ∀ pa pte, ¬ onCtr → tr j = .ok (pa, pte) → (pteMs pte = 1 ∨ s.switching pa = true → e.pa = none) ∧
          (pteMs pte ≠ 1 → s.switching pa = false → e.pa = some pa))

/-- R237, R311, R347: the record of an `xenq` is written to the slot at the tail of its launch queue, the tail moves on, and
the counter gets 1; where the queue is full, disabled or the host's, the counter gets 2^32 and nothing is written; a slot
that does not translate fails the command, and a page that moves or is not reachable, or a plane that does not carry it
(R358), makes it wait. -/
def Sys2Proof.Claims.RecordEnqueued : Prop :=
  ∀ (s : State) (a : Agent) (c : Core) (k : Cmd) (src q v : Nat) (h : BitVec 32) (l : List Byte),
    s.core? a = some c → c.cmd? k.id = some k → k.op = .xenq src q h → k.started = true → Cmd.hasPhase c k.id 0 = false →
    k.failed = none → k.aux ≠ [] → s.vfOf a = some v →
    let lq := (s.vf v).queue q
    let va := lq.slot lq.tail
    let taken := s.setCore a (c.setCmd { k with aux := [] })
    let tr := s.translate { s.cmdCtx a k with asid := (s.vf v).asid.toNat } va .wr (some k.ac) .any
    let arrives := exec (.copyPieceArrival a k.id 0 (.done l)) s
    (lq.en = false ∨ lq.prod = false ∨ 2 ^ lq.lsz ≤ (lq.tail - lq.head).toNat →
      arrives = .next (taken.postCtr h (.add (BitVec.ofNat 64 (2 ^ 32))) (.cmd a k.id))) ∧
    (lq.en = true → lq.prod = true → (lq.tail - lq.head).toNat < 2 ^ lq.lsz →
      (∀ sub, tr = .error sub → arrives =
        .next (s.setCore a (c.setCmd { k with failed := some (0x0A, BitVec.ofNat 8 sub, 0, va) }))) ∧
      (∀ pa pte, tr = .ok (pa, pte) → s.writeWaits pa pte = true ∨ s.planeFree pa = false →
        arrives = .refused (.notEnabled "COPY_PIECE_ARRIVAL")) ∧
      (∀ pa pte, tr = .ok (pa, pte) → s.writeWaits pa pte = false → s.planeFree pa = true →
        arrives = .next (((taken.acceptWide pa (k.aux.map some)).modVf v fun x => x.modQueue q fun y =>
          y.produce (y.tail + 1) s.wall).postCtr h (.add 1) (.cmd a k.id))))

/-- R232, R233, R242, R252, R347, R358, R371, R405: an entry of a batch executes at its engine once every earlier entry to
its target has: a word of G takes the operator's result, a counter its add or its clear; the old value (a counter's value, or
the overrun that a clear drops) goes to the command where the entry asks for it, and the batch's counter, if it has one, gets
1. A counter that is not live or lost refuses it with cause 0x13 or 0x11, and the value is 0. A word whose page moves or is
not reachable waits, as does an entry whose plane does not carry it (R357, R358). A far-tier word that reads as poison fails
the command with the entry's index and cause 0x0B, and from that entry on the batch executes no more before its repair
(R371). -/
def Sys2Proof.Claims.BatchExecutes : Prop :=
  ∀ (s : State) (e : AtomicE) (c : Core) (k : Cmd), s.atoms.find? (fun f => f.id == e.id) = some e →
    (s.atoms.find? fun f => f.agent == e.agent && f.cmd == e.cmd && f.tgt == e.tgt) = some e →
    s.core? e.agent = some c → c.cmd? e.cmd = some k →
    let gone := { s with atoms := s.atoms.filter fun f => f.id != e.id }
    let returns (t : State) (v : BitVec 64) : State := if e.ret = true then
      (t.modCore e.agent fun c => { c with cmds := c.cmds.map fun j =>
        if j.id = e.cmd then { j with rets := j.rets ++ [(e.idx, v)] } else j }).emitReturns e.agent e.cmd else t
    let counts (t : State) : State := match k.op.batCtr with
      | some h => t.postCtr h (.add 1) (.cmd e.agent e.cmd)
      | none => t.appliedFor (.cmd e.agent e.cmd)
    let done (t : State) (old : BitVec 64) := exec (.batchedAtomicExecute e.id) s = .next (counts (returns t old))
    let h : BitVec 32 := BitVec.ofNat 32 e.tgt
    let refused (cause : Nat) := exec (.batchedAtomicExecute e.id) s = .next ((returns gone 0).refuseCtr
      { id := e.id, handle := h, kind := .clear, src := .cmd e.agent e.cmd, sent := e.sent } cause)
    let intact : Prop := ∀ f, k.failed = some f → e.idx < f.2.2.1
    let reaches (pa : Nat) : Prop := e.pa = some pa ∧ s.portDown pa = false ∨
      e.pa = none ∧ ∃ pte, s.translate (s.cmdCtx e.agent k) e.tgt .rdwr none .any = .ok (pa, pte) ∧ s.writeWaits pa pte = false
    let waits := exec (.batchedAtomicExecute e.id) s = .refused (.notEnabled "BATCHED_ATOMIC_EXECUTE")
    (e.op = .cadd ∨ e.op = .cclr → s.ctrMoving h = false →
      s.ctrOpen { id := e.id, handle := h, kind := .clear, src := .cmd e.agent e.cmd, sent := e.sent } = true →
      (s.ctr? h = none → refused 0x13) ∧
      (∀ d, s.ctr? h = some d → d.lost = true → refused 0x11) ∧
      (∀ d, s.ctr? h = some d → d.lost = false →
        (e.op = .cadd → done ((gone.setCtr (d.add e.opnd.toNat)).engineOp h) d.value) ∧
        (e.op = .cclr → done ((gone.setCtr { d with ovb := false, ovr := 0, st := 0 }).engineOp h) (d.ovr.zeroExtend 64)))) ∧
    (∀ pa, e.op ≠ .cadd → e.op ≠ .cclr → intact → reaches pa → s.planeOpen pa e.sent = true →
      let n := if e.op = .cas ∨ e.op = .fadd then 4 else 8
      let old : BitVec 64 := BitVec.ofNat 64 (s.latest.num pa n)
      let low (v : BitVec 64) : BitVec 32 := v.extractLsb' 0 32
      ∃ v : BitVec 64, done ((gone.poolAdd (dieOf pa) 0x23 1).acceptAtomic pa ((leBytes n v.toNat).map some)) old ∧
        (e.op = .add → v = old + e.opnd) ∧ (e.op = .and' → v = old &&& e.opnd) ∧
        (e.op = .or' → v = old ||| e.opnd) ∧ (e.op = .xor' → v = old ^^^ e.opnd) ∧
        (e.op = .umin → v.toNat = min old.toNat e.opnd.toNat) ∧ (e.op = .umax → v.toNat = max old.toNat e.opnd.toNat) ∧
        (e.op = .smin → v.toInt = min old.toInt e.opnd.toInt) ∧ (e.op = .smax → v.toInt = max old.toInt e.opnd.toInt) ∧
        (e.op = .swap → v = e.opnd) ∧
        (e.op = .cas → low v = if low old = low e.opnd then e.opnd.extractLsb' 32 32 else low old) ∧
        (e.op = .fadd → low v = (addExact (f32 (low old)) (f32 (low e.opnd))).1)) ∧
    (e.op ≠ .cadd → e.op ≠ .cclr →
      (∀ pa, e.pa = some pa → s.portDown pa = true ∨ s.planeOpen pa e.sent = false → waits) ∧ (¬ intact → waits)) ∧
    (∀ pa op b n ctr, e.op ≠ .cadd → e.op ≠ .cclr → k.op = .xbat op b n ctr → intact → reaches pa → isFar pa = true →
      (s.atoms.find? fun f => f.agent == e.agent && f.cmd == e.cmd && f.idx == e.idx && !f.op.onCounter) = some e →
      exec (.copyPieceArrival e.agent e.cmd e.idx .poison) s =
        .next (s.setCore e.agent (c.setCmd { k with failed := some (0x0B, 0, e.idx, e.tgt) })))

/-- R232: the old values of a batch reach queue 7 of the issuing core as entries of 16 words, 8 values of two words each, in
the order of the list among the entries that ask for them, the last entry padded with zeros; an entry leaves when its values
are known. -/
def Sys2Proof.Claims.BatchReturns : Prop :=
  ∀ (s : State) (t r : Nat) (c : Core) (k : Cmd), s.core? (.core t r) = some c → c.cmd? k.id = some k →
    let order := (tab (k.aux.length / 16) id).filter fun j => (batchEntry k.aux j).getLsbD 63
    let grp := (order.drop (8 * k.next)).take 8
    (∀ vals : List (BitVec 64), grp ≠ [] → grp.map (fun j => (k.rets.find? fun e => e.1 == j).map (·.2)) = vals.map some →
      ∃ m, s.emitReturn (.core t r) k.id = { s.setCore (.core t r) (c.setCmd { k with next := k.next + 1 }) with
          nextId := s.nextId + 1, inMsgs := s.inMsgs ++ [m] } ∧
        m.id = s.nextId ∧ m.trp = t ∧ m.rank = r ∧ m.ch = 5 ∧ m.src = .cmd (.core t r) k.id ∧ m.data.length = 16 ∧
        (∀ i v, vals[i]? = some v → m.data[2 * i]? = some (v.extractLsb' 0 32) ∧
          m.data[2 * i + 1]? = some (v.extractLsb' 32 32)) ∧
        ∀ i, 2 * vals.length ≤ i → i < 16 → m.data[i]? = some 0) ∧
    (grp = [] ∨ (∃ j ∈ grp, ∀ e ∈ k.rets, e.1 ≠ j) → s.emitReturn (.core t r) k.id = s)

/-- R80, R218, R231 to R233, R237, R242, R405: messages into queues, batches of atomics, and records into launch queues. -/
def Obligations.MessagesAndBatches : Prop :=
  Sys2Proof.Claims.MessageDelivered ∧ Sys2Proof.Claims.BatchSent ∧ Sys2Proof.Claims.BatchExecutes ∧
  Sys2Proof.Claims.BatchReturns ∧ Sys2Proof.Claims.RecordEnqueued

/-! ## Holds and ticks -/

/-- R22, R26, R383: a hold ends when no cause is left: the run of held cycles is over, and nothing else of the troupe changes
but its trace of the deviation; while a cause is left it does not end. A hold whose causes are other than 0x8, in the wall
cycle in which its run passes LIMIT, raises the timing fault on the core of the charged cause (the lowest code, then the
lowest rank), with the limit and the code, instead of the cycle's bundles. -/
def Sys2Proof.Claims.Holds : Prop :=
  ∀ (s : State) (t : Nat) (tr : Troupe), s.troupe? t = some tr →
    (tr.holds ≠ [] → s.holdsOf t tr = [] → ∃ y, exec (.holdEnd t) s = .next (s.setTroupe t y) ∧
      y = { tr with holds := [], run := 0, st := if tr.st = .held then .running else tr.st, dev := none, trec := y.trec } ∧
      ∃ l, y.trec = tr.trec ++ l) ∧
    (tr.holds = [] ∨ s.holdsOf t tr ≠ [] → exec (.holdEnd t) s = .refused (.notEnabled "HOLD_END")) ∧
    (∀ h, h ∈ s.holdsOf t tr →
      (∀ g ∈ s.holdsOf t tr, h.code < g.code ∨ h.code = g.code ∧ h.rank ≤ g.rank) →
      (∃ g ∈ s.holdsOf t tr, g.code ≠ 8) → tr.limit ≠ 0 → tr.limit.toNat ≤ tr.run →
      tr.st = .running ∨ tr.st = .held ∨ tr.st = .saving ∨ tr.st = .restoring →
      ∃ u y, exec (.holdLimitFault t) s = .next u ∧ u.troupe? t = some y ∧ u.cursor = .fin t ∧ y.holds = [] ∧ y.run = 0 ∧
        y.cores.length = tr.cores.length ∧ ∀ (r : Nat) (c : Core), tr.cores[r]? = some c → ∃ k, y.cores[r]? = some k ∧
          k.pc = c.pc ∧ k.s = c.s ∧ k.v = c.v ∧ k.bank = c.bank ∧
          (c.rank = h.rank → ∃ z, k.raised = c.raised ++ [z] ∧ z.cause = 0x05 ∧ z.sub = 0x01 ∧ z.word = none ∧
            z.deferred = false ∧ z.baddr = c.pc ∧ z.aux0 = tr.limit.zeroExtend 64 ∧ z.hcs = BitVec.ofNat 4 h.code) ∧
          (c.rank ≠ h.rank → k.raised = c.raised)) ∧
    (tr.limit = 0 ∨ (∀ g ∈ s.holdsOf t tr, g.code = 8) ∨ tr.run < tr.limit.toNat →
      exec (.holdLimitFault t) s = .refused (.notEnabled "HOLD_LIMIT_FAULT"))

/-- R37: where the running troupe begins the cycle D + 1 after its last safe point and the bundle of some unfinished core is
unmarked, the lowest rank whose program has not ended raises the timing fault before any bundle issues. That the distance
counts the advances since the safe point, and that it is this rank that raises, is the model's reading (log 28). -/
def Sys2Proof.Claims.SafePointDistance : Prop :=
  ∀ (s : State) (t r : Nat) (tr : Troupe) (c : Core), s.troupe? t = some tr → s.cursor = .bundle t 0 → tr.st = .running →
    (∀ k ∈ tr.cores, k.done = 0 ∧ k.raised = []) → tr.adv - tr.n0 = tr.image.dmax + 1 → tr.cores[r]? = some c → c.fin = none →
    (∀ j < r, ∀ k, tr.cores[j]? = some k → k.fin ≠ none) →
    ((∃ j k, tr.cores[j]? = some k ∧ k.fin = none ∧ s.marked (.core t j) k = false) → ∃ k z,
      exec (.safePointDistanceFault t) s = .next (s.setCore (.core t r) k) ∧ k = { c with raised := [z] } ∧
      z.cause = 0x05 ∧ z.sub = 0x03 ∧ z.word = none ∧ z.deferred = false ∧ z.baddr = c.pc) ∧
    ((∀ j k, tr.cores[j]? = some k → k.fin = none → s.marked (.core t j) k = true) →
      exec (.safePointDistanceFault t) s = .refused (.notEnabled "SAFE_POINT_DISTANCE_FAULT"))

/-- R27, R29, R128: a frame tick counts down the waits that began before its wall cycle, and changes no other core; an
aligned restart at the tick moves the VCC to the next multiple of 4,096 (in a save or restore routine the VCC stays) and the
troupe is aligned. -/
def Sys2Proof.Claims.Ticks : Prop :=
  (∀ s : State, s.wall % 4096 = 0 → s.released = true → ∃ u, exec .frameTick s = .next u ∧
    u = { s with troupes := u.troupes, mgmt := u.mgmt } ∧ u.troupes.length = s.troupes.length ∧
    ∀ a c, s.core? a = some c →
      (∀ w, c.wait = some w → w.since < s.wall → u.core? a = some { c with wait := some { w with ticks := w.ticks - 1 } }) ∧
      (∀ w, c.wait = some w → s.wall ≤ w.since → u.core? a = some c) ∧
      (c.wait = none → u.core? a = some c)) ∧
  (∀ (s : State) (t : Nat) (tr : Troupe), s.troupe? t = some tr → tr.realign = true → s.wall % 4096 = 0 →
    tr.st = .running ∨ tr.st = .saving ∨ tr.st = .restoring →
    ∃ u y, exec (.realignRelabel t) s = .next u ∧ u.troupe? t = some y ∧ y.realign = false ∧ y.unal = false ∧
      y.adv = tr.adv + 1 ∧ y.st = tr.st ∧ y.cores.length = tr.cores.length ∧
      (tr.st = .running → tr.vcc.toNat < 2 ^ 64 - 4096 → y.vcc.toNat % 4096 = 0 ∧ tr.vcc.toNat < y.vcc.toNat ∧
        y.vcc.toNat ≤ tr.vcc.toNat + 4096) ∧
      (tr.st ≠ .running → y.vcc = tr.vcc) ∧
      ∀ (r : Nat) (c : Core), tr.cores[r]? = some c → ∃ k, y.cores[r]? = some k ∧ k.done = 0 ∧ k.pc = c.pc ∧ k.s = c.s ∧
        k.pend = c.pend ∧ k.bank = c.bank)

/-! ## Commands of a troupe, saving, restoring, retirement -/

/-- R271, R276, R281, R282: the commands of TRP_CTL and the requests of the package. A resumption of a suspended troupe
begins 32 wall cycles later; a retirement ends the task with its status, its cores are free and its charges are kept; a
request sets its bit, a withdrawal takes it back; a command that the state does not allow is refused with CREF. That a
supervisor's withdrawal clears its own bit alone is the model's choice (log 36). -/
def Obligations.TroupeCommands : Prop :=
  ∀ (s : State) (t : Nat) (tr : Troupe), s.troupe? t = some tr →
    let refused := s.setTroupe t { tr with cref := true }
    (tr.st = .suspended → tr.noResume = false →
      exec (.resume t) s = .next (s.setTroupe t { tr with resumeAt := some (tr.resumeAt.getD (s.wall + 32)) })) ∧
    (tr.st ≠ .suspended ∨ tr.noResume = true → exec (.resume t) s = .next refused) ∧
    (∀ status : BitVec 16,
      (tr.st = .unbound ∨ tr.st = .retiring → exec (.retire t status) s = .next refused) ∧
      (tr.st ≠ .unbound → tr.st ≠ .retiring → ∃ u y, exec (.retire t status) s = .next u ∧ u.troupe? t = some y ∧
        y.st = .retiring ∧ y.status = some status ∧ y.normal = false ∧ y.cores = [] ∧ y.num = tr.num ∧ y.recs = tr.recs ∧
        y.en = tr.en + (tr.cores.map fun c => s.price c.chg).sum ∧ u.gmem = s.gmem ∧ u.hmem = s.hmem ∧ u.ghist = s.ghist ∧
        ∀ j, j ≠ t → u.troupe? j = s.troupe? j)) ∧
    (∀ cause : Fin 5,
      let bit := BitVec.ofNat 5 (2 ^ cause.val)
      (tr.st ≠ .unbound → tr.st ≠ .preempted → tr.st ≠ .retiring → exec (.requestPreemption t cause) s =
        .next (s.setTroupe t { tr with prq := tr.prq ||| bit, noPre := tr.noPre.map fun q => (q.1, q.2 &&& ~~~ bit) })) ∧
      (tr.st = .unbound ∨ tr.st = .preempted ∨ tr.st = .retiring →
        (cause.val < 2 → exec (.requestPreemption t cause) s = .next refused) ∧
        (2 ≤ cause.val → exec (.requestPreemption t cause) s = .refused (.notEnabled "REQUEST_PREEMPTION")))) ∧
    exec (.withdrawRequest t true) s = .next (s.setTroupe t { tr with prq := tr.prq &&& 0x1C }) ∧
    (tr.prq.getLsbD 0 = true →
      exec (.withdrawRequest t false) s = .next (s.setTroupe t { tr with prq := tr.prq &&& 0x1E })) ∧
    (tr.prq.getLsbD 0 = false → tr.prq.getLsbD 1 = true → exec (.withdrawRequest t false) s = .next refused) ∧
    (tr.prq.getLsbD 0 = false → tr.prq.getLsbD 1 = false → exec (.withdrawRequest t false) s = .next s)

/-- R35, R36, R38, R282, R283: a running troupe of which every unfinished core stands at a marked bundle with nothing in
flight, and of which a pre-emption is asked, takes it before its bundles issue: the lowest request names the cause, every
unfinished core starts at the save routine of its safe point with s63 at the saved block, the routine count starts at 0 and
the VCC stays. Where nothing is asked, or an unfinished core's bundle is unmarked, it does not. -/
def Sys2Proof.Claims.Preemption : Prop :=
  ∀ (s : State) (t : Nat) (tr : Troupe), s.troupe? t = some tr → s.cursor = .bundle t 0 → tr.st = .running →
    (∀ c ∈ tr.cores, c.done = 0 ∧ c.raised = []) →
    (tr.asked ≠ 0 → (∃ c ∈ tr.cores, c.fin = none) →
      (∀ r c, tr.cores[r]? = some c → c.fin = none → s.marked (.core t r) c = true ∧ c.inFlight tr.adv false = false) →
      ∃ y, exec (.preemptionTaken t) s = .next (s.setTroupe t y) ∧ y.st = .saving ∧ y.rcount = 0 ∧ y.prq = 0 ∧
        y.vcc = tr.vcc ∧ y.adv = tr.adv ∧ y.recs = tr.recs ∧ y.kept = tr.cores.map (fun c => (c.pc, c.fin)) ∧
        (∀ i < 5, tr.prq.getLsbD i = true → (∀ j < i, tr.prq.getLsbD j = false) → y.preCause = some (0x40 + i)) ∧
        y.cores.length = tr.cores.length ∧ ∀ r c, tr.cores[r]? = some c → ∃ k : Core, y.cores[r]? = some k ∧
          (c.fin ≠ none → k = { c with routineDone := true }) ∧
          (c.fin = none → k = { c with pc := k.pc, xfer := none, routineDone := false, s := k.s } ∧
            k.pc = ((tr.streamOf c.rank).sps.getD (s.spi (.core t r) c) (0, 0)).1 ∧
            ∀ d : SReg, k.rs d = if d = 63 then BitVec.ofNat 64 (64 * (tr.streamOf c.rank).bundles) else c.rs d)) ∧
    (tr.asked = 0 ∨ (∃ r c, tr.cores[r]? = some c ∧ c.fin = none ∧ s.marked (.core t r) c = false) →
      exec (.preemptionTaken t) s = .refused (.notEnabled "PREEMPTION_TAKEN"))

/-- R283 to R285, R255, R279: the routine of a core ends where its next bundle would be the one at the stream's end. Once
every routine has, nothing is in flight and every write is published, and the save regions can be reached, the save phase
ends: the kept state of each core is written to its save region, the pre-emption record is made, the task stands at its queue
as pre-empted and its cores are free; an entry that failed, or a save region that does not translate, retires the task with
its status instead. The restore phase ends likewise; the VCC then waits for the next frame tick. -/
def Sys2Proof.Claims.RoutinePhases : Prop :=
  ∀ (s : State) (t : Nat) (tr : Troupe), s.troupe? t = some tr →
    (∀ r c, s.core? (.core t r) = some c → tr.st = .saving ∨ tr.st = .restoring → c.idle = false → s.cursor = .bundle t r →
      (c.pc = s.streamEnd (.core t r) → exec (.routineEnd t r) s = .next { s.setCore (.core t r) { c with
        routineDone := true, xfer := none, done := 0xFF } with cursor := .bundle t (r + 1) }) ∧
      (c.pc ≠ s.streamEnd (.core t r) → exec (.routineEnd t r) s = .refused (.notEnabled "ROUTINE_END"))) ∧
    ((∀ c ∈ tr.cores, c.routineDone = true ∧ c.raised = []) →
      (tr.st = .saving → (∀ c ∈ tr.cores, c.fin = none → c.inFlight tr.adv true = false) → s.allPublished t tr = true →
        s.saveWaits tr = false →
        let asid := (s.vf tr.vf).asid.toNat
        let at' (k : Nat) : Nat := (s.vf tr.vf).saveAt tr.slot + 2 ^ 17 * k
        let pub := s.publishAll t tr
        let bad (k sub : Nat) : Prop := k < tr.cores.length ∧ pub.writeFault asid (at' k) 0x20000 = some sub
        ∃ u y, exec (.savePhaseEnd t) s = .next u ∧ u.troupe? t = some y ∧ y.cores = [] ∧ y.num = tr.num ∧
          (∀ st, tr.status = some st → y.st = .retiring ∧ y.status = some st ∧ y.normal = false) ∧
          (∀ k sub, tr.status = none → bad k sub → (∀ j < k, ∀ z, ¬ bad j z) →
            y.st = .retiring ∧ y.status = some (BitVec.ofNat 16 (0x0A00 + sub)) ∧ y.normal = false) ∧
          (tr.status = none → (∀ k sub, ¬ bad k sub) → y.st = .preempted ∧ y.recs = tr.recs ++ [tr.preRecord s.wall] ∧
            y.vcc = tr.vcc ∧ (tr.vf < 96 → tr.num ∈ ((u.vf tr.vf).queue tr.queue).resume) ∧
            (tr.part < 12 → (u.bank tr.part).ip.getLsbD 1 = true) ∧
            u.gmem = ((tr.cores.mapIdx fun r c => (r, c)).foldl (fun z q =>
              z.writeG asid (at' q.1) (z.keptBlock t q.1 tr q.2)) pub).gmem)) ∧
      (tr.st = .restoring → tr.loading = false → (∀ c ∈ tr.cores, c.fin = none → c.inFlight tr.adv false = false) →
        exec (.restorePhaseEnd t) s = .next (s.setTroupe t { tr with
          loading := true, loadedAt := s.wall, holds := [], run := 0, noPre := some (tr.adv, tr.prq) }))) ∧
    ((∃ c ∈ tr.cores, c.routineDone = false) →
      exec (.savePhaseEnd t) s = .refused (.notEnabled "SAVE_PHASE_END") ∧
      exec (.restorePhaseEnd t) s = .refused (.notEnabled "RESTORE_PHASE_END"))

/-- R284, R285, R286: once every routine of a phase has ended, an unfinished core that still has something in flight raises
the safe-point violation with sub-cause 0x2, instead of the phase's end, and the troupe retires with status 0x0602. -/
def Sys2Proof.Claims.RoutineViolation : Prop :=
  ∀ (s : State) (t : Nat) (tr : Troupe), s.cursor = .troupe t → s.troupe? t = some tr →
    tr.st = .saving ∨ tr.st = .restoring → tr.loading = false → tr.realign = false →
    (∀ c ∈ tr.cores, c.routineDone = true ∧ c.raised = [] ∧ c.wait = none) →
    let busy (c : Core) : Prop := c.fin = none ∧ c.inFlight tr.adv (tr.st == .saving) = true
    (∃ c ∈ tr.cores, busy c) →
    ∃ u y, step s = .next u ∧ u.cursor = .troupe (t + 1) ∧ u.gmem = s.gmem ∧ u.troupe? t = some y ∧
      y.cores.length = tr.cores.length ∧
      (∀ (r : Nat) (c : Core), tr.cores[r]? = some c →
        (busy c → ∃ z, y.cores[r]? = some { c with raised := [z] } ∧ z.cause = 0x06 ∧ z.sub = 0x02 ∧ z.word = none ∧
          z.deferred = false ∧ z.baddr = c.pc) ∧
        (¬ busy c → y.cores[r]? = some c)) ∧
      (y.settle s.wall).st = .retiring ∧ (y.settle s.wall).status = some 0x0602

/-- R39, R255, R212: a task of which every core has finished, with no command, timed write, load or local product under way,
whose writes are published, retires: normally with status 0, or with the status of an entry that failed. -/
def Sys2Proof.Claims.Retirement : Prop :=
  ∀ (s : State) (t : Nat) (tr : Troupe), s.troupe? t = some tr →
    let ended : Prop := (tr.st = .running ∨ tr.st = .held) ∧ tr.loading = false ∧ tr.cores ≠ [] ∧
      ∀ c ∈ tr.cores, c.fin ≠ none ∧ (c.done = 0 ∨ c.done = 0xFF) ∧ c.raised = [] ∧ (∀ k ∈ c.cmds, c.cmdOver k = true) ∧
        c.pend = [] ∧ c.fetches = [] ∧ ∀ g ∈ c.gemv, g.rem = true
    (ended → s.allPublished t tr = true → ∃ u y, exec (.taskRetire t) s = .next u ∧ u.troupe? t = some y ∧
      y.st = .retiring ∧ y.cores = [] ∧ y.recs = tr.recs ∧ y.vcc = tr.vcc ∧
      (tr.status = none → y.status = some 0 ∧ y.normal = true) ∧
      (∀ st, tr.status = some st → y.status = some st ∧ y.normal = false)) ∧
    (¬ ended ∨ s.allPublished t tr = false → exec (.taskRetire t) s = .refused (.notEnabled "TASK_RETIRE"))

/-- R35, R36, R38, R39, R255, R279, R282 to R286: pre-emption, the save and restore phases and their violation, and
retirement. -/
def Obligations.SavingAndRetirement : Prop :=
  Sys2Proof.Claims.Preemption ∧ Sys2Proof.Claims.RoutinePhases ∧ Sys2Proof.Claims.RoutineViolation ∧
  Sys2Proof.Claims.Retirement

/-- R275, R279, R286: a record has its fields at their places: of a raised cause, with the troupe's number, count of records
and VCC, and the routine count in AUX1 inside a routine; of a pre-emption, with the safe point's index and the marked bundle
of the lowest rank whose program has not ended. -/
def Sys2Proof.Claims.RecordFields : Prop :=
  ∀ (tr : Troupe) (wall : Nat),
    let has (z : Rec) (f : Raised) (rank : Nat) (rout : Bool) (spix : BitVec 12) : Prop :=
      z.extractLsb' 0 8 = f.cause ∧ z.extractLsb' 8 8 = f.done ∧ z.extractLsb' 16 16 = BitVec.ofNat 16 tr.seq ∧
      z.extractLsb' 32 8 = f.sub ∧ z.extractLsb' 40 8 = 0 ∧ z.extractLsb' 48 3 = BitVec.ofNat 3 (f.word.getD 0) ∧
      z.extractLsb' 51 2 = 0 ∧ z.getLsbD 53 = f.word.isSome ∧ z.getLsbD 54 = f.deferred ∧ z.getLsbD 55 = f.rtnw ∧
      z.getLsbD 56 = rout ∧ z.extractLsb' 57 15 = 0 ∧ z.extractLsb' 72 8 = BitVec.ofNat 8 rank ∧
      z.extractLsb' 80 16 = BitVec.ofNat 16 tr.num ∧ z.extractLsb' 96 4 = 0 ∧
      z.extractLsb' 100 28 = BitVec.ofNat 28 f.baddr ∧ z.extractLsb' 128 64 = tr.vcc ∧ z.extractLsb' 192 32 = f.hnd ∧
      z.extractLsb' 224 12 = spix ∧ z.extractLsb' 236 4 = f.hcs ∧ z.extractLsb' 240 16 = f.code ∧
      z.extractLsb' 256 64 = f.addr ∧ z.extractLsb' 320 64 = f.aux0 ∧
      z.extractLsb' 384 64 = (if rout then BitVec.ofNat 64 tr.rcount else f.aux1) ∧
      z.extractLsb' 448 64 = BitVec.ofNat 64 wall
    (∀ (f : Raised) (rank : Nat) (rout : Bool), (∀ w, f.word = some w → w < 8) → tr.rcount < 2 ^ 64 →
      has (f.pack tr rank wall rout) f rank rout 0) ∧
    (∀ (r : Nat) (c : Core) (pc : Nat) (q : Option (BitVec 32)) (f : Raised), tr.cores[r]? = some c → c.fin = none →
      (∀ j < r, ∀ k, tr.cores[j]? = some k → k.fin ≠ none) → tr.kept[r]? = some (pc, q) →
      f = { cause := BitVec.ofNat 8 (tr.preCause.getD 0x40), sub := 0, word := none, deferred := false, done := 0, baddr := pc,
            addr := 0, aux0 := 0, aux1 := 0, hnd := 0, code := 0, hcs := 0, rtnw := false, kill := false } →
      has (tr.preRecord wall) f c.rank false (BitVec.ofNat 12 tr.spix))

/-- R128, R129, R131, R278, R279: what a wait's failure leaves for its record: the cause, the handle, and for a passed
deadline and an idle counter the target and the value, for an overrun TARGET and OVR (the handle and the values of an idle
counter, cause 0x03, are read from R129: log 79). The wait stands to be made again. -/
def Sys2Proof.Claims.WaitFailures : Prop :=
  ∀ (c : Core) (w : Wait) (r : CtrRep) (nx : Nat), c.wait = some w → w.iss < nx → w.report = some r →
    let fails (cause : BitVec 8) (a0 a1 : BitVec 64) : Prop := ∃ z, (c.takeReport nx).raised = c.raised ++ [z] ∧
      z.cause = cause ∧ z.sub = 0 ∧ z.word = some 2 ∧ z.deferred = true ∧ z.baddr = w.baddr ∧ z.addr = 0 ∧
      z.hnd = w.handle ∧ z.aux0 = a0 ∧ z.aux1 = a1 ∧
      (c.takeReport nx).wait = some { w with formed := none, report := none, op := 0 }
    (r = .orphan → fails 0x13 0 0) ∧ (r = .homeLost → fails 0x11 0 0) ∧
    (∀ t o, r = .overrun t o → fails 0x14 t (o.zeroExtend 64)) ∧ (∀ t v, r = .notArmed t v → fails 0x03 t v) ∧
    (∀ t v, r = .expired t v → fails 0x12 t v) ∧
    (∀ v, r = .value v → (c.takeReport nx).wait = none ∧ (c.takeReport nx).raised = c.raised ∧
      ∃ p, (c.takeReport nx).pend = c.pend ++ [p] ∧ p.due = nx ∧ p.word = 2 ∧ p.act = .wS w.d v)

/-- R280: the partition's oldest waiting record (by its wall cycle, then by the place of its troupe, an order that is the
model's: log 1) goes as 64 bytes to its slot of the fault queue, the head moves on, bit 0 becomes pending and the record
waits no longer; in a full queue it waits, and bit 6 becomes pending; where the slot's memory cannot be reached it waits too
(R358, R371). R381: a sample makes, where records of type 3 are enabled, one trace record for each core of the troupe. -/
def Sys2Proof.Claims.RecordsWritten : Prop :=
  (∀ (s : State) (p t : Nat) (r : Rec) (l : List Rec) (tr : Troupe), p < 12 → s.troupe? t = some tr → tr.part = p →
    tr.recs = r :: l → (∀ j x q, s.troupe? j = some x → x.part = p → x.recs.head? = some q →
      r.toNat / 2 ^ 448 < q.toNat / 2 ^ 448 ∨ r.toNat / 2 ^ 448 = q.toNat / 2 ^ 448 ∧ t ≤ j) →
    let b := s.bank p
    let at' := b.frqBase.toNat / 4096 * 4096 + 64 * (b.frqHead.toNat % 2 ^ b.frqLsz.toNat)
    let full : Prop := 2 ^ b.frqLsz.toNat ≤ (b.frqHead - b.frqTail).toNat
    (¬ full → s.portDown at' = true ∨ s.planeFree at' = false →
      exec (.faultRecordWrite p) s = .refused (.notEnabled "FAULT_RECORD_WRITE")) ∧
    (full ∨ s.portDown at' = false ∧ s.planeFree at' = true → ∃ u, exec (.faultRecordWrite p) s = .next u ∧
      (full → u.gmem = s.gmem ∧ (u.bank p).frqHead = b.frqHead ∧ (u.bank p).ip = b.ip ||| 0x40 ∧ u.troupes = s.troupes) ∧
      (¬ full → (u.bank p).frqHead = b.frqHead + 1 ∧ (u.bank p).ip = b.ip ||| 1 ∧
        u.troupes = (s.setTroupe t { tr with recs := l }).troupes ∧
        (s.gmem.wf = true → homeOf at' ≠ none →
          (∀ i, i < 64 → u.latest.get (at' + i) = BitVec.ofNat 8 (r.toNat / 2 ^ (8 * i))) ∧
          ∀ x, x < at' ∨ at' + 64 ≤ x → u.latest.get x = s.latest.get x)))) ∧
  (∀ (s : State) (t : Nat) (tr : Troupe), s.troupe? t = some tr → s.cursor = .bundle t 0 → tr.st = .running →
    (∀ c ∈ tr.cores, c.done = 0) →
    let n := (s.bank tr.part).dbSper.toNat
    (n ≠ 0 → tr.vcc.toNat % 2 ^ n = 0 → exec (.traceSample t) s = .next (s.setTroupe t { tr with trec := tr.trec ++
      (if (s.bank tr.part).dbEn.getLsbD 2 then
        tr.cores.map fun c => (c.rank * 8 + 3, traceRec s.wall tr.vcc.toNat c.pc 0 tr.num c.rank 3 none tr.heldTotal)
      else []) })) ∧
    (n = 0 ∨ tr.vcc.toNat % 2 ^ n ≠ 0 → exec (.traceSample t) s = .refused (.notEnabled "TRACE_SAMPLE")))

/-- R22, R26, R27, R29, R37, R128, R129, R279, R280, R381: holds, ticks, the failures of waits, and the records that are
written. -/
def Obligations.HoldsAndRecords : Prop :=
  Sys2Proof.Claims.Holds ∧ Sys2Proof.Claims.SafePointDistance ∧ Sys2Proof.Claims.Ticks ∧ Sys2Proof.Claims.RecordFields ∧
  Sys2Proof.Claims.WaitFailures ∧ Sys2Proof.Claims.RecordsWritten

/-! ## Bundles -/

/-- R36, R89, R97, R210, R274, R283: at a core's turn its bundle begins. A bundle past the end of the stream raises 0x08 (but
not in a save or restore routine, which ends there; that an address beyond the end fails like the end itself is log 67), one
that fails decode 0x01 with its first failing word and sub-cause (a routine word's record names its store index), a marked
one with an effect in flight the safe-point violation, and no word of them acts; any other goes on with word 2. A bundle that
issues again under a DONE mask keeps it, and its marker is not checked again. -/
def Sys2Proof.Claims.BundleBegins : Prop :=
  ∀ (s : State) (t r : Nat) (tr : Troupe) (c : Core), s.troupe? t = some tr → tr.cores[r]? = some c →
    let a : Agent := .core t r
    let e := s.streamEnd a
    let fails (z : Raised) := exec (.bundleIssue a) s =
      .next { s.setCore a { c with raised := c.raised ++ [z] } with cursor := .bundle t (r + 1) }
    let early : Prop := s.marked a c = true ∧ tr.inRoutine = false ∧ c.done = 0 ∧ c.inFlight tr.adv false = true
    (s.cursor = .bundle t r → c.idle = false → c.done ≠ 0xFF →
      (e ≤ c.pc → tr.inRoutine = false → ∃ z, fails z ∧ z.cause = 0x08 ∧ z.sub = 0 ∧ z.word = none ∧ z.done = 2 ∧ z.baddr = c.pc - 64 ∧
        z.addr = BitVec.ofNat 64 e) ∧
      (c.pc = e → tr.inRoutine = true → exec (.bundleIssue a) s = .refused (.notEnabled "BUNDLE_ISSUE")) ∧
      (c.pc < e → ∀ w sub, s.bundleFault a c = some (w, sub) → ∃ z, fails z ∧ z.cause = 0x01 ∧ z.sub = BitVec.ofNat 8 sub ∧
        z.word = some w ∧ z.deferred = false ∧ z.done = 2 ∧ z.baddr = c.pc ∧
        (∀ i, w = 5 → s.word a c 5 = 0 → c.routineAt = some i → z.rtnw = true ∧ z.addr = BitVec.ofNat 64 i) ∧
        (w ≠ 5 ∨ s.word a c 5 ≠ 0 ∨ c.routineAt = none → z.rtnw = false)) ∧
      (c.pc < e → s.bundleFault a c = none →
        (early → ∃ z, fails z ∧ z.cause = 0x06 ∧ z.sub = 0x01 ∧ z.word = none ∧ z.baddr = c.pc) ∧
        (¬ early → exec (.bundleIssue a) s = .next { s.setCore a { c with
            done := c.done ||| 2, reissue := decide (c.done ≠ 0), rtnOn := if c.done = 0 then c.rtn else c.rtnOn,
            netw := BitVec.ofNat 64 (s.word a c 1), stop := tr.stopFor c, failed := false } with cursor := .word t r 2 })))

/-- R80, R81, R118 to R120, R209: once every word has taken effect, the bundle completes. Each queue that word 0 pops loses
its first entry, or sets its EP bit when it is empty. The loop levels that end here are tested from 7 down: the first whose
LOOPC is not 0 goes back to its start and counts down in the next cycle, and those before it are over. Where none goes back,
a transfer whose delay bundles are over takes its target, and otherwise the next bundle follows. In a save or restore routine
no level is tested. -/
def Sys2Proof.Claims.BundleCompletes : Prop :=
  ∀ (s : State) (t r : Nat) (tr : Troupe) (c : Core), s.troupe? t = some tr → tr.cores[r]? = some c →
    s.cursor = .word t r 8 →
    let a : Agent := .core t r
    let lvl (i : Nat) := vget ⟨false, 0, 0⟩ c.lvl i
    let ends (i : Nat) : Prop := tr.inRoutine = false ∧ i < 8 ∧ (lvl i).active = true ∧ (lvl i).fin = c.pc
    let spent (k : Core) (i : Nat) : Prop := i < 8 → vget ⟨false, 0, 0⟩ k.lvl i = { lvl i with active := false }
    let kept (k : Core) (i : Nat) : Prop := vget ⟨false, 0, 0⟩ k.lvl i = lvl i
    ∃ u k, exec (.bundleIssue a) s = .next u ∧ u.core? a = some k ∧ k.done = 0xFF ∧ k.s = c.s ∧ k.v = c.v ∧ k.p = c.p ∧
      k.bank = c.bank ∧ k.flags = c.flags ∧ k.raised = c.raised ∧ u.gmem = s.gmem ∧
      u.cursor = (if c.late = none then .bundle t (r + 1) else .late 1) ∧
      (c.rtnOn = c.rtn → k.rtn = c.rtn.map (· + 1)) ∧ (c.rtnOn ≠ c.rtn → k.rtn = c.rtn) ∧
      (∀ n, n < 8 →
        ((s.word a c 0).testBit n = true → vget [] k.q n = (vget [] c.q n).drop 1) ∧
        ((s.word a c 0).testBit n = false → vget [] k.q n = vget [] c.q n) ∧
        (k.ep.getLsbD n = (c.ep.getLsbD n || ((s.word a c 0).testBit n && (vget [] c.q n).isEmpty)))) ∧
      (∀ i, ends i → vget 0 c.loopc i ≠ 0 → (∀ j, i < j → ends j → vget 0 c.loopc j = 0) →
        k.pc = (lvl i).start ∧ k.xfer = none ∧ (∀ j, j ≤ i ∨ ¬ ends j → kept k j) ∧ (∀ j, i < j → ends j → spent k j) ∧
        ∃ p, k.pend = c.pend ++ [p] ∧ p.due = tr.adv + 1 ∧ p.act = .loopc (BitVec.ofNat 3 i) (vget 0 c.loopc i - 1)) ∧
      ((∀ i, ends i → vget 0 c.loopc i = 0) →
        k.pend = c.pend ∧ (∀ j, ends j → spent k j) ∧ (∀ j, ¬ ends j → kept k j) ∧
        (c.xfer = none → k.pc = c.pc + 64 ∧ k.xfer = none) ∧
        (∀ n g, c.xfer = some (n, g) → n ≤ 1 → k.pc = g ∧ k.xfer = none) ∧
        (∀ n g, c.xfer = some (n, g) → 2 ≤ n → k.pc = c.pc + 64 ∧ k.xfer = some (n - 1, g)))

/-- R99: a bundle of eight zero words issues and completes at once where no step or breakpoint stops it: it does what such a
bundle does, and that is to go on to the next bundle. -/
def Sys2Proof.Claims.IdleBundles : Prop :=
  ∀ (s : State) (t r : Nat) (tr : Troupe) (c : Core), s.troupe? t = some tr → tr.cores[r]? = some c →
    s.cursor = .bundle t r → c.idle = false → c.done = 0 → c.rtn = none → c.pc < s.streamEnd (.core t r) →
    (∀ w, w < 8 → s.word (.core t r) c w = 0) → tr.stopFor c = none →
    ∃ u k, exec (.idleBundle (.core t r)) s = .next u ∧ u.core? (.core t r) = some k ∧ k.done = 0xFF ∧ k.s = c.s ∧ k.v = c.v ∧
      k.p = c.p ∧ k.q = c.q ∧ k.ep = c.ep ∧ k.bank = c.bank ∧ k.raised = c.raised ∧ u.gmem = s.gmem ∧
      ((∀ i, i < 8 → (vget ⟨false, 0, 0⟩ c.lvl i).active = true → (vget ⟨false, 0, 0⟩ c.lvl i).fin ≠ c.pc) →
        k.pend = c.pend ∧
        (c.xfer = none → k.pc = c.pc + 64 ∧ k.xfer = none) ∧
        (∀ n g, c.xfer = some (n, g) → n ≤ 1 → k.pc = g ∧ k.xfer = none) ∧
        (∀ n g, c.xfer = some (n, g) → 2 ≤ n → k.pc = c.pc + 64 ∧ k.xfer = some (n - 1, g)))

/-- R97, R99, R272, R403: the bundles of a management core. One past its stream, or one that fails decode, enters a handler;
any other goes on with word 2. Whether SP is looked at there the spec does not say; the model does not (log 48). Its bundle
completes as a compute core's does; the return of a handler takes place after its delay bundles. -/
def Sys2Proof.Claims.ManagementBundles : Prop :=
  ∀ (s : State) (m : Nat), m < 2 →
    let x := s.mg m
    let c := x.core
    let a : Agent := .mgmt m
    let ready : Prop := s.cursor = .mword m 1 ∧ x.run = true ∧ x.dead = false ∧ x.stall ≤ s.wall ∧ c.raised = [] ∧
      x.halted = false ∧ c.idle = false
    (ready →
      (s.streamEnd a ≤ c.pc → exec (.bundleIssue a) s = .next { s.enter m (x.toHyp 0x08) (c.pc - 64)
        (ecause 0x08 0 x.lvl.toNat false x.ien false 2 0) (BitVec.ofNat 64 (s.streamEnd a)) with cursor := .mword m 9 }) ∧
      (∀ w sub, c.pc < s.streamEnd a → s.bundleFault a c = some (w, sub) → exec (.bundleIssue a) s =
        .next { s.mgmtFault m 0x01 sub w 2 false 0 with cursor := .mword m 9 }) ∧
      (c.pc < s.streamEnd a → s.bundleFault a c = none → exec (.bundleIssue a) s = .next { s.setCore a { c with
        done := c.done ||| 2, netw := 0, failed := false } with cursor := .mword m 2 })) ∧
    (s.cursor = .mword m 8 ∨ ready ∧ c.done = 0 ∧ c.pc < s.streamEnd a ∧ (∀ w, w < 8 → s.word a c w = 0) →
      let row : Instr := if s.cursor = .mword m 8 then .bundleIssue a else .idleBundle a
      (∀ i, i < 8 → (vget ⟨false, 0, 0⟩ c.lvl i).active = true → (vget ⟨false, 0, 0⟩ c.lvl i).fin ≠ c.pc) →
      ∃ u, exec row s = .next u ∧ u.cursor = .mword m 9 ∧ u.gmem = s.gmem ∧ u.mg (1 - m) = s.mg (1 - m) ∧
        (c.eret = none ∨ (∀ n g, c.xfer = some (n, g) → 2 ≤ n) →
          ∃ k, u.core? a = some k ∧ k.done = 0 ∧ k.s = c.s ∧ k.pend = c.pend ∧
            (c.xfer = none → k.pc = c.pc + 64 ∧ k.xfer = none) ∧
            (∀ n g, c.xfer = some (n, g) → n ≤ 1 → k.pc = g ∧ k.xfer = none) ∧
            (∀ n g, c.xfer = some (n, g) → 2 ≤ n → k.pc = c.pc + 64 ∧ k.xfer = some (n - 1, g))) ∧
        (∀ (ec : BitVec 64) n g, c.eret = some ec → c.xfer = some (n, g) → n ≤ 1 → (u.mg m).lvl = ec.extractLsb' 16 2 ∧
          (u.mg m).ien = ec.getLsbD 19 ∧ (u.mg m).core.pc = g ∧ (u.mg m).core.done = ec.extractLsb' 24 8))

/-- R36, R80, R81, R89, R97, R99, R118 to R120, R210, R274, R403: how bundles begin and complete. -/
def Obligations.BundleIssue : Prop :=
  Sys2Proof.Claims.BundleBegins ∧ Sys2Proof.Claims.BundleCompletes ∧ Sys2Proof.Claims.IdleBundles ∧
  Sys2Proof.Claims.ManagementBundles

/-- R19, R20, R57, R64, R66, R140: the results of a party perform. An effect that is due and alone in its cycle, of which
nothing has performed yet, reaches its register and no other, and its flags are raised: s0 and p0 take no value, an inactive
element of a vector register keeps its own, a write of FLAGS replaces them by what it writes and raises, and a read of FLAGS
takes them after the writes of the cycle. Of two writes of one register in one cycle the later one raises structural. -/
def Sys2Proof.Claims.DueResults : Prop :=
  (∀ (s : State) (t : Nat) (tr : Troupe), s.troupe? t = some tr → ∃ u, exec (.resultPerforms (.troupe t)) s = .next u ∧
    u.wall = s.wall ∧ u.cursor = s.cursor) ∧
  (∀ (s : State) (m : Nat), m < 2 → ∃ u, exec (.resultPerforms (.mgmt m)) s = .next u ∧ u.wall = s.wall ∧ u.cursor = s.cursor) ∧
  (∀ (s : State) (w : Party) (a : Agent) (c : Core) (p : Pend), s.core? a = some c →
    (∃ t tr, w = .troupe t ∧ a = .core t 0 ∧ s.troupe? t = some tr ∧ tr.cores = [c]) ∨ (∃ m, w = .mgmt m ∧ a = .mgmt m) →
    c.pend = [p] → c.fetches = [] → c.wrote = [] → p.due ≤ s.now a →
    let leaves (k : Core) : Prop := ∃ u l, exec (.resultPerforms w) s = .next u ∧
      u.core? a = some { k with wrote := l, cmds := k.cmds.filter fun d => !k.cmdOver d } ∧ u.gmem = s.gmem ∧ u.hmem = s.hmem
    let raised := { c with pend := [], flags := c.flags ||| p.flags }
    (∀ d v, p.act = .wS d v → leaves { raised with s := if d = 0 then c.s else vset c.s d.toNat v }) ∧
    (∀ d v, p.act = .wP d v → leaves { raised with p := if d = 0 then c.p else vset c.p d.toNat v }) ∧
    (∀ d v m, p.act = .wV d v m → leaves { raised with
      v := vset c.v d.toNat (gen 1024 fun e => if m.getLsbD e then el v e else el (c.rv d) e) }) ∧
    (∀ f v, p.act = .wF f v → leaves { raised with f := vset c.f f.toNat v }) ∧
    (∀ k v, p.act = .wK k v → leaves { raised with k := vset c.k k.toNat v }) ∧
    (∀ x v, p.act = .wX x v → leaves { raised with x := vset c.x x.toNat v }) ∧
    (∀ n v, p.act = .loopc n v → leaves { raised with loopc := vset c.loopc n.toNat v }) ∧
    (∀ q e, p.act = .push q e → leaves { raised with q := vmod [] c.q q fun l => l ++ [e] }) ∧
    (∀ v, p.act = .csrFlags v → leaves { raised with flags := v.truncate 7 ||| p.flags }) ∧
    (p.act = .flagsOnly → leaves raised) ∧
    (∀ d, p.act = .readFlags d → leaves { raised with
      pend := [{ p with due := p.iss + 1, act := .wS d ((c.flags ||| p.flags).zeroExtend 64) }] })) ∧
  (∀ (s : State) (t : Nat) (tr : Troupe) (c : Core) (p q : Pend) (d : SReg) (v z : BitVec 64), s.troupe? t = some tr →
    tr.cores = [c] → c.pend = [p, q] → c.fetches = [] → c.wrote = [] → c.raised = [] → p.due ≤ tr.adv → q.due ≤ tr.adv → d ≠ 0 → p.act = .wS d v →
    q.act = .wS d z → p.iss < q.iss ∨ p.iss = q.iss ∧ p.word < q.word →
    ∃ u k f, exec (.resultPerforms (.troupe t)) s = .next u ∧ u.core? (.core t 0) = some k ∧ k.raised = [f] ∧ f.cause = 0x04 ∧
      f.word = some q.word ∧ f.baddr = q.baddr)

/-! ## Management cores -/

/-- The registers whose writable bits take the written value and whose other bits read 0, with those bits: at supervisor
level (R267, R268, R280, R340, R366, R380, R387), and at hypervisor level (R272, R300, R301, R308, R334, R354). -/
def Sys2Proof.Claims.plainRegisters : List (BitVec 16 × BitVec 64) :=
  [(0x4001, 0xFFFFFFFFFFFFFFFF), (0x4002, 0x00000007FF1FFFFF), (0x4003, 0xFFFFFFFFFFFFFFFF), (0x4020, 0xFFFFFFFFFFFFFFFF),
   (0x4050, 0x01FFFFFFFFFFF000), (0x4070, 0x00000000000F1FFF), (0x40A0, 0x000FFFFFFFFFFFFF), (0x40B1, 0xFFFFFFFFFFFFFFFF),
   (0x8001, 0xFFFFFFFFFFFFFFFF), (0x8002, 0x00000007FF1FFFFF), (0x8003, 0xFFFFFFFFFFFFFFFF), (0x8043, 0x0000FFFFFFFFFFFF),
   (0x8044, 0x00000000FFFFFFFF), (0x8046, 0x0000FFFFFFFFFFFF), (0x8060, 0x000FFFFFFFFE0000), (0x8073, 0xFFFFFFFFFFFFFFFF)]

/-- R265, R267, R268, R280, R300, R308: a write of a system register by a core whose level may make it performs, and reaches
no memory and not the other management core: a register of `plainRegisters` then reads as written, in its writable bits. A
misaligned vector, a size, a partition's grace or a selection out of range, and the base of a VF with a task bound are not
taken; pending bits clear where a 1 is written, at supervisor level only the supervisor's; the level field of MC_STATUS is
not written. -/
def Sys2Proof.Claims.SystemRegisters : Prop :=
  ∀ (s : State) (m : Nat) (code : BitVec 16) (v : BitVec 64) (lvl : BitVec 2), m < 2 → sysFault code.toNat lvl = none →
    (s.mg m).part.toNat < 12 → s.vfSel.toNat < 96 → s.enVfSel.toNat < 96 →
    let x := s.mg m
    let p := x.part.toNat
    let b := s.bank p
    ∃ t, exec (.systemRegisterWrite m code v lvl) s = .next t ∧ t.gmem = s.gmem ∧ t.hmem = s.hmem ∧ t.wall = s.wall ∧
      t.mg (1 - m) = s.mg (1 - m) ∧ (t.mg m).lvl = x.lvl ∧ (t.mg m).part = x.part ∧ (t.mg m).core = x.core ∧
      let y := t.mg m
      let z := t.bank p
      (∀ mask, (code, mask) ∈ Sys2Proof.Claims.plainRegisters → t.sysRead m code.toNat = v &&& mask) ∧
      (code = 0x4000 → y.ien = v.getLsbD 3 ∧ y.sexl = v.getLsbD 4 ∧ y.hexl = if lvl = 2 then v.getLsbD 5 else x.hexl) ∧
      (code = 0x4004 → z.mcEvec = if v.toNat % 64 = 0 then v else b.mcEvec) ∧
      (code = 0x4008 → z.ip = b.ip &&& ~~~ (v.extractLsb' 0 8 &&& 0x4F) ∧
        y.ipHv = if lvl = 2 then x.ipHv &&& ~~~ (v.extractLsb' 0 10 &&& 0x330) else x.ipHv) ∧
      (code = 0x4009 → z.ie = v.extractLsb' 0 8 &&& 0x4F ∧ y.ieHv = if lvl = 2 then v.extractLsb' 0 10 &&& 0x330 else x.ieHv) ∧
      (code = 0x4021 → z.frqLsz = if 4 ≤ v.toNat % 32 ∧ v.toNat % 32 ≤ 16 then v.extractLsb' 0 5 else b.frqLsz) ∧
      (code = 0x4023 → z.frqTail = v.extractLsb' 0 32) ∧
      (code = 0x8004 → y.hvEvec = if v.toNat % 64 = 0 then v else x.hvEvec) ∧
      (code = 0x8040 → t.enVfSel = if v.toNat % 128 < 96 then v.extractLsb' 0 7 else s.enVfSel) ∧
      (code = 0x8058 → t.vfSel = if v.toNat % 128 < 96 then v.extractLsb' 0 7 else s.vfSel) ∧
      (code = 0x8048 → z.grace = if v.toNat % 2 ^ 21 ≤ 2 ^ 20 then v.extractLsb' 0 21 else b.grace) ∧
      (code = 0x8059 → (t.vf s.vfSel.toNat).en = v.getLsbD 63 ∧ (t.vf s.vfSel.toNat).job = v.extractLsb' 32 16 ∧
        (t.vf s.vfSel.toNat).asid = v.extractLsb' 0 14 ∧ (t.vf s.vfSel.toNat).part = (s.vf s.vfSel.toNat).part) ∧
      (code = 0x805A ∨ code = 0x805B ∨ code = 0x805C → s.vfBusy s.vfSel.toNat = true → t = s) ∧
      (s.vfBusy s.vfSel.toNat = false →
        (code = 0x805A → t.sysRead m 0x805A = v &&& 0x01FFFFFFFFFFF800) ∧
        (code = 0x805B → t.sysRead m 0x805B = v &&& 0x01FFFFFFFFFFFFFF) ∧
        (code = 0x805C → t.sysRead m 0x805C = v &&& 0x01FFFFFFFE000000))

/-- R264: HV_PART takes a partition number below 12 while no supervisor handler is active. R272, R273: between bundles the
lowest pending interrupt that is enabled enters its handler, the hypervisor's bits first, each kind only while its own
handler is not active; the entry names the interrupt's bit. An enabled pending interrupt ends a HALT, taken or not. -/
def Sys2Proof.Claims.InterruptsTaken : Prop :=
  (∀ (s : State) (m : Nat) (v : BitVec 64), m < 2 →
    (v.toNat % 16 < 12 → (s.mg m).sexl = false → exec (.hvPartWrite m v) s =
      .next (s.setMg m { s.mg m with part := v.extractLsb' 0 4 })) ∧
    (12 ≤ v.toNat % 16 ∨ (s.mg m).sexl = true → exec (.hvPartWrite m v) s = .next s)) ∧
  (∀ (s : State) (m : Nat), m < 2 → s.betweenBundles m = true →
    let x := s.mg m
    let on := s.mcIp m &&& s.mcIe m
    let takes (hyp : Bool) (i : Nat) := exec (.interruptTaken m) s = .next { s.enter m hyp x.core.pc
      (ecause i 0 x.lvl.toNat false x.ien true 0 0) 0 with cursor := .mword m 9 }
    (x.halted = true → on ≠ 0 → exec (.haltWake m) s = .next (s.setMg m { x with halted := false })) ∧
    (x.halted = false ∨ on = 0 → exec (.haltWake m) s = .refused (.notEnabled "HALT_WAKE")) ∧
    (∀ i ∈ [4, 5, 8, 9], x.ien = true → x.hexl = false → on.getLsbD i = true →
      (∀ j ∈ [4, 5, 8, 9], j < i → on.getLsbD j = false) → takes true i) ∧
    (∀ i ∈ [0, 1, 2, 3, 6], x.ien = true → x.sexl = false →
      (x.hexl = true ∨ ∀ j ∈ [4, 5, 8, 9], on.getLsbD j = false) → on.getLsbD i = true →
      (∀ j ∈ [0, 1, 2, 3, 6], j < i → on.getLsbD j = false) → takes false i) ∧
    (x.ien = false → exec (.interruptTaken m) s = .refused (.notEnabled "INTERRUPT_TAKEN")))

/-- R264 to R268, R272, R273, R280, R300, R308: writes of the system registers, and the interrupts of the management cores.
That each core has hypervisor bits of MC_IP of its own, which a write on the other leaves (log 5), and which bits gate an
interrupt (log 16), are the model's readings. -/
def Obligations.SystemWrites : Prop :=
  Sys2Proof.Claims.SystemRegisters ∧ Sys2Proof.Claims.InterruptsTaken

/-! ## Energy -/

/-- R303, R304: the VF is exhausted between `s` and `t`: each task bound for it is asked to pre-empt (cause 0x42), or is
stopped with status 0x4200 where its distance to a safe point is above the grace of its partition; a task that is not bound
for it stays. -/
def Sys2Proof.Claims.Exhausts (s : State) (v : Nat) (t : State) : Prop :=
  let short (tr : Troupe) : Prop := (s.bank tr.part).grace.toNat < tr.image.dmax
  let bound (tr : Troupe) : Prop := tr.vf = v ∧
    (tr.st = .running ∨ tr.st = .held ∨ tr.st = .suspended ∨ tr.st = .saving ∨ tr.st = .restoring)
  (t.vf v).exh = true ∧ ((t.vf v).stopd = true ↔ (s.vf v).stopd = true ∨ ∃ tr ∈ s.troupes, bound tr ∧ short tr) ∧
  t.troupes.length = s.troupes.length ∧ ∀ j tr, s.troupe? j = some tr → ∃ y, t.troupe? j = some y ∧ (¬ bound tr → y = tr) ∧
    (bound tr → short tr → y.st = .retiring ∧ y.status = some 0x4200 ∧ y.cores = [] ∧ y.recs = tr.recs) ∧
    (bound tr → ¬ short tr → y = { tr with prq := tr.prq ||| 4, noPre := tr.noPre.map fun q => (q.1, q.2 &&& ~~~ 4) })

/-- R294, R295, R302, R303: a charge adds its quota units to USED, keeps the fraction, and takes the units from an enabled
quota, beyond which they count as overdraft; where it takes the quota to its low-water mark, LOW is set and the counter gets
1 in the same wall cycle; where it takes it to 0, the VF is exhausted. No other VF changes. -/
def Sys2Proof.Claims.Charges : Prop :=
  ∀ (s : State) (v c : Nat), v < 96 → 0 < c → c ≤ (s.vf v).pend →
    let x := s.vf v
    let n := (x.frac + c) / 2 ^ 28
    let q := x.q.toNat
    let take := if x.qen = true then min q n else 0
    let low : Prop := x.len = true ∧ 0 < take ∧ x.loww.toNat < q ∧ q - take ≤ x.loww.toNat
    ∃ t, exec (.keeperCharge v c) s = .next t ∧ (t.vf v).frac = (x.frac + c) % 2 ^ 28 ∧
      (t.vf v).used = x.used + BitVec.ofNat 64 n ∧ (t.vf v).q.toNat = q - take ∧
      (t.vf v).ovd.toNat = min (x.ovd.toNat + (if x.qen = true then n - take else 0)) (2 ^ 48 - 1) ∧
      ((t.vf v).low = true ↔ x.low = true ∨ low) ∧ (∀ w, w < 96 → w ≠ v → t.vf w = s.vf w) ∧ t.gmem = s.gmem ∧
      (low → s.ctrMoving x.lctr = false → ∀ k, s.ctr? x.lctr = some k → k.lost = false → t.ctr? x.lctr = some (k.add 1)) ∧
      (¬ low → t.ctrs = s.ctrs) ∧
      (0 < take → take = q → Sys2Proof.Claims.Exhausts s v t) ∧
      (take = 0 ∨ take < q → t.troupes = s.troupes ∧ (t.vf v).exh = x.exh ∧ (t.vf v).pend = x.pend - c)

/-- R301: a write of the quota of the selected VF, or of its enable bits, takes effect at once: an enabled quota of 0
exhausts the VF unless it was exhausted, a quota above 0 or no enabled quota ends the exhaustion. -/
def Sys2Proof.Claims.QuotaWrites : Prop :=
  ∀ (s : State) (v : BitVec 64), s.enVfSel.toNat < 96 →
    let n := s.enVfSel.toNat
    let x := s.vf n
    let q : BitVec 48 := v.extractLsb' 0 48
    (q = 0 → x.qen = true → x.exh = false → ∃ t, exec (.enQuotaWrite v) s = .next t ∧ (t.vf n).q = 0 ∧
      Sys2Proof.Claims.Exhausts s n t) ∧
    (q ≠ 0 ∨ x.qen = false ∨ x.exh = true → exec (.enQuotaWrite v) s =
      .next (s.modVf n fun x => { x with q := q, exh := x.exh && decide (q = 0) })) ∧
    (v.getLsbD 0 = true → x.q = 0 → x.exh = false → ∃ t, exec (.enCtlWrite v) s = .next t ∧ (t.vf n).qen = true ∧
      (t.vf n).len = v.getLsbD 1 ∧ Sys2Proof.Claims.Exhausts s n t) ∧
    (v.getLsbD 0 = false ∨ x.q ≠ 0 ∨ x.exh = true → exec (.enCtlWrite v) s =
      .next (s.modVf n fun x => { x with qen := v.getLsbD 0, len := v.getLsbD 1, exh := x.exh && v.getLsbD 0 }))

/-- R298: a pool is divided by weight without loss: each share is the floor, and what is left goes to the first of the
greatest weight. -/
def Sys2Proof.Claims.Shares : Prop :=
  ∀ (p : Nat) (ws : List Nat), ws.sum ≠ 0 → (sharesOf p ws).length = ws.length ∧ (sharesOf p ws).sum = p ∧
    ∀ (i w : Nat), ws[i]? = some w → ∃ x : Nat, (sharesOf p ws)[i]? = some x ∧ p * w / ws.sum ≤ x ∧
      ((∃ (j z : Nat), ws[j]? = some z ∧ (w < z ∨ w = z ∧ j < i)) → x = p * w / ws.sum)

/-- R298, R299: in wall cycle 2,048 of the next interval the pool is settled: NSET counts; with no core-cycle reserved the
pool goes to the unattributed count, and otherwise over the VFs by their core-cycles, and within a VF over its tasks. A task
that has ended receives nothing, and its VF is charged for it. -/
def Sys2Proof.Claims.Settles : Prop :=
  (∀ s : State, s.released = true → 2 ^ 20 ≤ s.wall → s.wall % 2 ^ 20 = 2048 → s.nset.toNat < s.wall / 2 ^ 20 →
    let rs := tab 96 fun v => (s.vf v).reservedLast
    let begun := { s with poolLast := 0, nset := s.nset + 1 }
    (rs.sum = 0 → exec .settlement s = .next { begun with unatt := s.unatt + BitVec.ofNat 64 (s.poolLast / 256) }) ∧
    (rs.sum ≠ 0 → exec .settlement s = .next ((tab 96 fun v => v).foldl (fun z v =>
      if rs.getD v 0 = 0 then z else z.settleVf v ((sharesOf s.poolLast rs).getD v 0)) begun))) ∧
  (∀ (s : State) (v share : Nat) (tr : Troupe), s.troupes = [tr] → v < 96 → tr.vf = v → 0 < tr.reservedLast →
    ((s.vf v).q = 0 ∨ (s.vf v).qen = false) →
    let mine := (sharesOf share (tr.reservedLast :: (s.vf v).doneLast)).getD 0 0
    (s.settleVf v share).troupe? 0 = some (if tr.st ≠ .retiring then { tr with en := tr.en + mine, share := (s.wall, mine) } else tr))

/-- R294, R295, R298, R299, R301 to R304: charges, quotas and the settlement. -/
def Obligations.EnergyEvents : Prop :=
  Sys2Proof.Claims.Charges ∧ Sys2Proof.Claims.QuotaWrites ∧ Sys2Proof.Claims.Shares ∧ Sys2Proof.Claims.Settles

/-! ## Launch queues and partitions -/

/-- R268, R311: a host's doorbell raises DBL in the VF's partition, and moves the TAIL of a legal host-produced queue
forward, as far as its size admits; any other value is dropped. R323, R128: a head whose wait has lasted WDL frame ticks is
consumed with status 7. -/
def Sys2Proof.Claims.QueueEvents : Prop :=
  (∀ (s : State) (v q : Nat) (n : BitVec 32), v < 96 → q < 64 →
    let y := (s.vf v).queue q
    let rung := if (s.vf v).part.toNat < 12 then s.setIp (s.vf v).part.toNat 3 else s
    let ok : Prop := y.en = true ∧ y.prod = false ∧ (n - y.head).toNat ≤ 2 ^ y.lsz ∧ (n - y.tail).toNat < 2 ^ 31
    (ok → ∃ z, exec (.queueDoorbell v q n) s = .next (rung.modVf v fun w => w.modQueue q fun _ => z) ∧ z.tail = n ∧
      z.head = y.head ∧ z.resume = y.resume ∧ z.held = y.held ∧ z.base = y.base ∧ z.lsz = y.lsz) ∧
    (¬ ok → exec (.queueDoorbell v q n) s = .next rung)) ∧
  (∀ (s : State) (v q : Nat) (l : Launch) (b : Option (List Byte)), v < 96 →
    let y := (s.vf v).queue q
    s.headOf v y = some (.fresh l b) → s.wall % 4096 = 0 → (s.vf v).en = true → (s.vf v).part ≠ 0xF → y.en = true →
    (l.wv = true → s.waitOver v l = false → dlTicks l.wdl ≤ s.wall / 4096 - y.since / 4096 →
      exec (.launchWaitExpired v q) s =
        .next (((s.consume v q).nextHead v q).failLaunch (s.vf v).part.toNat v l 7)) ∧
    (l.wv = false ∨ s.waitOver v l = true ∨ s.wall / 4096 - y.since / 4096 < dlTicks l.wdl →
      exec (.launchWaitExpired v q) s = .refused (.notEnabled "LAUNCH_WAIT_EXPIRED")))

/-- R320, R407: a selection of a partition's round. A head whose record, image, slot or save region cannot be reached (R358,
R371) is passed over. Without an eligible head it ends. Otherwise it takes, of the eligible heads of the greatest aged
priority, the one that follows the last selected in cyclic order. A record that fails a check of R313 is consumed with its
status and the round goes on; a task that no free block of its shape, or no counters, can take is held at its queue and the
round ends; one that can is bound on the lowest block. -/
def Sys2Proof.Claims.Selection : Prop :=
  ∀ (s : State) (p : Nat), p < 12 →
    let hs := (s.heads p).filter fun e => s.eligible p e.1 e.2.2 && !s.headWaits e.1 e.2.2
    let eff (e : Nat × Nat × Head) : Nat := s.eff ((s.vf e.1).queue e.2.1) e.2.2
    let key (e : Nat × Nat × Head) : Nat := (64 * e.1 + e.2.1 + 6144 - vget 63 s.last p % 6144 - 1) % 6144
    let taken (e : Nat × Nat × Head) : Prop := e ∈ hs ∧ ∀ f ∈ hs, f = e ∨ eff f < eff e ∨ eff f = eff e ∧ key e < key f
    (hs = [] → s.selectOne p = (s, false)) ∧
    (∀ v q l b, taken (v, q, .fresh l b) →
      let used := s.consume v q
      let hold (h : Option (Launch × Nat)) : State :=
        (used.modVf v fun x => x.modQueue q fun y => { y with held := h }).nextHead v q
      (∀ st, used.check p v l b = .bad st → s.selectOne p = ((used.nextHead v q).failLaunch p v l st, true)) ∧
      (∀ img, used.check p v l b = .task img →
        (∀ cores, used.place p l.shape l.m = some cores →
          (l.nctr = 0 ∨ used.freeRun (cores.headD (0, 0)).1 l.nctr ≠ none) →
          s.selectOne p = (((hold none).bindNew p v q l (eff (v, q, .fresh l b)) cores).setLast p (64 * v + q), true)) ∧
        (used.place p l.shape l.m = none ∨ (∃ cores, used.place p l.shape l.m = some cores ∧ l.nctr ≠ 0 ∧
            used.freeRun (cores.headD (0, 0)).1 l.nctr = none) → s.selectOne p =
          (hold (some (l, ((s.vf v).queue q).since)), false))))

/-- R317, R319, R323, R249: a binding: the lowest free number, context slot and entry; the cores of the placement at their
launch values; the parameter block in the slot, for a task whose image and slot can be read and written; the troupe is
loading, and starts on a later frame tick. -/
def Sys2Proof.Claims.Binding : Prop :=
  ∀ (s : State) (p v q : Nat) (l : Launch) (img : Image) (prio slot num : Nat) (cores : List (Nat × Nat)),
    s.freeSlot v = some slot → s.freeNumber = some num → s.loadImage v l = some img → l.nctr = 0 →
    s.writeFault (s.vf v).asid.toNat ((s.vf v).slotAt slot) 256 = none →
    let span := ((shapeSize img.shape img.m).getD (1, 1)).1
    ∃ y, (s.bindNew p v q l prio cores).troupe? s.freeEntry = some y ∧ y.num = num ∧ y.vf = v ∧ y.part = p ∧ y.slot = slot ∧
      y.image = img ∧ y.launch = l ∧ y.st = .running ∧ y.loading = true ∧ y.loadedAt = s.wall ∧ y.vcc = 0 ∧
      y.limit = 0x10000 ∧ y.prq = 0 ∧ y.recs = [] ∧ y.cores.length = cores.length ∧
      ∀ k at' c, cores[k]? = some at' → y.cores[k]? = some c → c.rank = k ∧ c.lrank = k % span ∧ c.spos = k / span ∧
        c.die = at'.1 ∧ c.loc = at'.2 ∧ c.pc = 0 ∧ c.rs 1 = BitVec.ofNat 64 ((s.vf v).slotAt slot) ∧
        (∀ i, i < 8 → c.rs (BitVec.ofNat 6 (8 + i)) = l.params.getD i 0)

/-- R320, R323, R28, R255: in the wall cycle of a tick the distributor reads the queue tables and makes the round of every
partition, in ascending number. A loaded troupe starts on the next tick: at VCC 0, aligned, or at the n that it resumes,
aligned where that is a multiple of 4,096, with its cores at the bundles of that safe point and on fresh snapshots. -/
def Sys2Proof.Claims.Rounds : Prop :=
  (∀ s : State, s.wall % 4096 = 0 → s.released = true → exec .distributorRound s =
    .next ((tab 12 id).foldl (fun z p =>
      if (z.part p).exist then State.roundOf p (z.entries p + 1) (z.dropOrphans p) else z)
        ((tab 96 id).foldl (fun z v => z.readQueues v) s))) ∧
  (∀ (s : State) (p k : Nat), State.roundOf p (k + 1) s =
    if (s.selectOne p).2 then State.roundOf p k (s.selectOne p).1 else (s.selectOne p).1) ∧
  (∀ (s : State) (t : Nat) (tr : Troupe), s.troupe? t = some tr → tr.loading = true → s.wall % 4096 = 0 →
    tr.st = .running ∨ tr.st = .restoring →
    (tr.loadedAt < s.wall → ∃ u y, exec (.troupeStart t) s = .next u ∧ u.troupe? t = some y ∧ y.st = .running ∧
      y.loading = false ∧ y.resuming = true ∧ y.vcc = tr.vcc ∧ y.adv = tr.adv ∧ y.n0 = tr.adv ∧ u.gmem = s.gmem ∧
      (tr.st = .running → y.unal = false) ∧ (tr.st = .restoring → (y.unal = true ↔ tr.vcc.toNat % 4096 ≠ 0)) ∧
      y.cores.length = tr.cores.length ∧ ∀ (r : Nat) (c : Core), tr.cores[r]? = some c → ∃ k, y.cores[r]? = some k ∧
        k.s = c.s ∧ k.v = c.v ∧ k.bank = c.bank ∧ (tr.st = .running → k.pc = c.pc ∧ k.snap = c.snap) ∧
        (tr.st = .restoring → k.pc = (tr.kept.getD r (0, none)).1 ∧ k.done = 0 ∧ k.routineDone = false)) ∧
    (s.wall ≤ tr.loadedAt → exec (.troupeStart t) s = .refused (.notEnabled "TROUPE_START")))

/-- R28, R128, R249, R255, R268, R311, R313, R317, R319, R320, R323, R407: queues, selection, binding and start. That a
host's doorbell raises DBL in the VF's partition (log 16), when the tables and records are read (log 26), that loading ends
before the next tick (log 30), and that the snapshot is taken at the binding (log 40) are the model's readings. -/
def Obligations.LaunchEvents : Prop :=
  Sys2Proof.Claims.QueueEvents ∧ Sys2Proof.Claims.Selection ∧ Sys2Proof.Claims.Binding ∧ Sys2Proof.Claims.Rounds

/-- R325: what makes the descriptor `d` of a command INVALID: an ID above 11, a reserved bit, or a frame that is not wholly
installed. -/
def Sys2Proof.Claims.BadDescriptor (d : BitVec 512) : Prop :=
  11 < (d.extractLsb' 0 4).toNat ∨ d.extractLsb' 4 198 ≠ 0 ∨
  (∃ r ∈ descNear d, ∃ i < r.2, frameInstalled false (r.1 + i) = false) ∨
  (∃ r ∈ descFar d, ∃ i < r.2, frameInstalled true (r.1 + i) = false)

/-- R325: two partitions share a ring, a port, a VF or a frame. -/
def Sys2Proof.Claims.Shared (a b : Part) : Prop :=
  a.exist = true ∧ b.exist = true ∧ (a.rings &&& b.rings ≠ 0 ∨ a.ports &&& b.ports ≠ 0 ∨ a.vfs &&& b.vfs ≠ 0 ∨
    (∃ x ∈ a.near, ∃ y ∈ b.near, x.1 < y.1 + y.2 ∧ y.1 < x.1 + x.2) ∨
    (∃ x ∈ a.far, ∃ y ∈ b.far, x.1 < y.1 + y.2 ∧ y.1 < x.1 + x.2))

/-- R325, R326: a command given while one is pending is lost; one whose descriptor lies at no multiple of 64 is INVALID (2).
CREATE and RESIZE are INVALID for a bad descriptor and for a partition that exists, or does not, and CONFLICT (3) where
another partition shares what they name; REMOVE and DESTROY are INVALID for a bad ID or reserved bit, a ring that the
partition has not, or a partition that does not exist, and DESTROY is BUSY (1) without force while a task holds cores; MODE
takes twelve descriptors, in any order, one without a resource standing for an absent partition; it is INVALID for a bad one,
for two of one ID and for two that share, and BUSY likewise. Every other command waits as pending. -/
def Sys2Proof.Claims.PartitionCommandsBegin : Prop :=
  ∀ (s : State) (a : BitVec 52) (force : Bool),
    let lost (i : Instr) : Prop := exec i s = .next { s with ptLost := true }
    let d : BitVec 512 := BitVec.ofNat 512 (s.latest.num a.toNat 64)
    let i := (d.extractLsb' 0 4).toNat
    let ends (i : Instr) (res : Nat) : Prop := exec i s = .next ({ s with ptSt := 2, ptRes := BitVec.ofNat 4 res, ptCmd := none }.setHvIp 9)
    let waits (i : Instr) (c : PtCmd) : Prop := exec i s = .next { s with ptSt := 1, ptCmd := some c }
    let conflict : Prop := ∃ j < 12, j ≠ i ∧ Sys2Proof.Claims.Shared (Part.ofDesc d) (s.part j)
    let plain : Prop := i ≤ 11 ∧ d.extractLsb' 4 198 = 0
    let foreign : Prop := descRings d &&& ~~~ (s.part i).rings ≠ 0
    let busy : Prop := force = false ∧ ∃ tr ∈ s.troupes, tr.part = i ∧ tr.live = true ∧ tr.cores ≠ []
    let ds (k : Nat) : BitVec 512 := BitVec.ofNat 512 (s.latest.num (a.toNat + 64 * k) 64)
    let names (k j : Nat) : Prop := (ds k).extractLsb' 4 508 ≠ 0 ∧ ((ds k).extractLsb' 0 4).toNat = j
    let sets (v : List (BitVec 512)) : Prop := v.length = 12 ∧ ∀ j w, v[j]? = some w →
      (∀ k < 12, names k j → (∀ i < k, ¬ names i j) → w = ds k) ∧ ((∀ k < 12, ¬ names k j) → w = 0)
    let part (w : BitVec 512) : Part := if w.extractLsb' 4 508 = 0 then Sys2Proof.Machine.Part.none else Part.ofDesc w
    let badSet (v : List (BitVec 512)) : Prop := (∃ k < 12, Sys2Proof.Claims.BadDescriptor (ds k)) ∨
      (∃ k < 12, ∃ i < k, ∃ j, names k j ∧ names i j) ∨
      ∃ k < 12, ∃ j < k, Sys2Proof.Claims.Shared (part (v.getD k 0)) (part (v.getD j 0))
    let busySet (v : List (BitVec 512)) : Prop := force = false ∧ ∃ tr ∈ s.troupes, tr.part < 12 ∧
      v.getD tr.part 0 ≠ (s.part tr.part).desc ∧ tr.live = true ∧ tr.cores ≠ []
    let all : List Instr := [.create a, .resize a, .remove a, .destroy a force, .mode_ a force]
    (∀ tr ∈ s.troupes, tr.part < 12) →
    (s.ptSt = 1 → ∀ i ∈ all, lost i) ∧
    (s.ptSt ≠ 1 → a.toNat % 64 ≠ 0 → ∀ i ∈ all, ends i 2) ∧
    (s.ptSt ≠ 1 → a.toNat % 64 = 0 →
      (Sys2Proof.Claims.BadDescriptor d ∨ (s.part i).exist = true → ends (.create a) 2) ∧
      (¬ Sys2Proof.Claims.BadDescriptor d → (s.part i).exist = false →
        (conflict → ends (.create a) 3) ∧ (¬ conflict → waits (.create a) { op := 1, id := i, descs := [d] })) ∧
      (Sys2Proof.Claims.BadDescriptor d ∨ (s.part i).exist = false → ends (.resize a) 2) ∧
      (¬ Sys2Proof.Claims.BadDescriptor d → (s.part i).exist = true →
        (conflict → ends (.resize a) 3) ∧ (¬ conflict → waits (.resize a) { op := 2, id := i, descs := [d] })) ∧
      (¬ plain ∨ foreign → ends (.remove a) 2) ∧
      (plain → ¬ foreign → waits (.remove a) { op := 3, id := i, descs := [d] }) ∧
      (¬ plain ∨ (s.part i).exist = false → ends (.destroy a force) 2) ∧
      (plain → (s.part i).exist = true → (busy → ends (.destroy a force) 1) ∧
        (¬ busy → waits (.destroy a force) { op := 4, id := i, descs := [] })) ∧
      (∀ v, sets v →
        (badSet v → ends (.mode_ a force) 2) ∧
        (¬ badSet v → (busySet v → ends (.mode_ a force) 1) ∧
          (¬ busySet v → waits (.mode_ a force) { op := 5, id := 0, descs := v }))))

/-- R326, R327, R329: once no affected task holds a core, the change is made in one wall cycle, with RES 0: the partitions
are those that the command describes, and a VF belongs to the lowest one that names it, or to none; a pre-empted task whose
VF left its partition has ended. R326: a read of PT_RES gives its value at issue+1 and acknowledges a result. -/
def Sys2Proof.Claims.PartitionChanges : Prop :=
  (∀ (s : State) (c : PtCmd), s.ptCmd = some c → (∀ tr ∈ s.troupes, tr.holdsCores = true → s.affects c tr = false) →
    let d := c.descs.headD 0
    let owner (t : State) (v : Nat) (o : BitVec 4) : Prop :=
      let has (i : Nat) : Prop := i < 12 ∧ (t.part i).exist = true ∧ (t.part i).vfs.getLsbD v = true
      (∀ i, has i → (∀ j < i, ¬ has j) → o = BitVec.ofNat 4 i) ∧ ((∀ i, ¬ has i) → o = 0xF)
    ∃ t, exec .partitionChangeApplied s = .next t ∧ t.ptSt = 2 ∧ t.ptRes = 0 ∧ t.ptCmd = none ∧ t.wall = s.wall ∧
      (∀ v, v < 96 → owner t v (t.vf v).part) ∧
      (c.id < 12 →
        (c.op = 1 ∨ c.op = 2 → t.part c.id = Part.ofDesc d) ∧
        (c.op = 3 → (t.part c.id).rings = (s.part c.id).rings &&& ~~~ (descRings d) ∧
          (t.part c.id).vfs = (s.part c.id).vfs ∧ (t.part c.id).near = (s.part c.id).near) ∧
        (c.op = 4 → t.part c.id = Sys2Proof.Machine.Part.none)) ∧
      (1 ≤ c.op → c.op ≤ 4 → ∀ k, k < 12 → k ≠ c.id → t.part k = s.part k) ∧
      (c.op = 5 → ∀ k, k < 12 → t.part k = if c.descs.getD k 0 = (s.part k).desc then s.part k else modePart (c.descs.getD k 0)) ∧
      (∀ j tr, s.troupe? j = some tr → tr.st = .preempted → tr.vf < 96 → (s.vf tr.vf).part ≠ 0xF →
        (t.vf tr.vf).part ≠ (s.vf tr.vf).part → ∃ y, t.troupe? j = some y ∧ y.st = .retiring)) ∧
  (∀ (s : State) (m : Nat) (d : BitVec 6), m < 2 → ∃ t p, exec (.ptResRead m d) s = .next t ∧
    t.ptSt = (if s.ptSt = 2 then 0 else s.ptSt) ∧ (t.mg m).core.pend = (s.mg m).core.pend ++ [p] ∧
    p.due = (s.mg m).adv + 1 ∧ p.act = .wS d s.ptResValue)

/-- R325 to R327, R329: the commands on partitions, and the changes that they make. That a descriptor that names nothing is
an absent partition of MODE, that two of one ID are INVALID, and that an address which is no multiple of 64 is, are the
model's readings (log 36). -/
def Obligations.PartitionCommands : Prop :=
  Sys2Proof.Claims.PartitionCommandsBegin ∧ Sys2Proof.Claims.PartitionChanges

/-! ## Invalidations and page moves -/

/-- R338, R340: an invalidation begins, or is refused with ERR when one is busy, when a supervisor names an ASID of another
partition, or when a range names no page; once no read and no batched atomic that used a matching entry is out, the cached
entries that match leave, and BSY clears. That no other entry leaves is the model's choice (log 42). -/
def Sys2Proof.Claims.Invalidations : Prop :=
  (∀ (s : State) (m : Nat) (asid : BitVec 14) (npg : BitVec 32) (lvl : BitVec 2), m < 2 → (s.mg m).part.toNat < 12 →
    let p := (s.mg m).part.toNat
    let b := s.bank p
    let begins (i : Option Nat × Nat × Nat) : State := s.modBank p fun b => { b with invBsy := true, inv := some i }
    let refused : State := s.modBank p fun b => { b with invErr := true }
    (b.invBsy = true → exec (.invalidateRange m asid npg lvl) s = .next refused ∧
      exec (.invalidateAsid m asid lvl) s = .next refused ∧ exec (.invalidatePartition m) s = .next refused) ∧
    (lvl = 1 → s.asidPart asid.toNat ≠ p → exec (.invalidateRange m asid npg lvl) s = .next refused ∧
      exec (.invalidateAsid m asid lvl) s = .next refused) ∧
    (npg = 0 → exec (.invalidateRange m asid npg lvl) s = .next refused) ∧
    (b.invBsy = false → exec (.invalidatePartition m) s = .next (begins (none, 0, 0)) ∧
      (lvl ≠ 1 ∨ s.asidPart asid.toNat = p →
        (npg ≠ 0 → exec (.invalidateRange m asid npg lvl) s =
          .next (begins (some asid.toNat, fld b.invVa.toNat 12 45, npg.toNat))) ∧
        exec (.invalidateAsid m asid lvl) s = .next (begins (some asid.toNat, 0, 0))))) ∧
  (∀ (s : State) (p : Nat) (i : Option Nat × Nat × Nat), p < 12 → (s.bank p).inv = some i →
    (∀ r ∈ s.readsOut, s.invMatch p i r.1 r.2 1 = false) →
    ∃ t, exec (.invalidationComplete p) s = .next t ∧ (t.bank p).invBsy = false ∧ (t.bank p).inv = none ∧
      t.tlbs = s.tlbs.filter fun z => !s.invMatch p i z.asid z.base z.size) ∧
  (∀ (s : State) (p base size : Nat) (asid npg page a : Nat), npg ≠ 0 → s.invMatch p (some asid, page, npg) a base size =
    (asid == a && (decide (page * 4096 < base + size) && decide (base < (page + npg) * 4096))))

/-- R345, R346: a far-tier die's engine claims the next command of a ring and marks the leaf that it moves; a command whose
checks fail is taken with its status and changes nothing. Premises: the ring and the page's tables can be reached (R357,
R371). -/
def Sys2Proof.Claims.MovesClaimed : Prop :=
  ∀ (s : State) (p die vf : Nat) (bytes : List Byte), p < 12 → s.migDie p = some die → s.lowestVf p = some vf →
    let b := s.bank p
    let lsz := fld b.mgCq.toNat 0 4
    let asid := (s.vf vf).asid.toNat
    lsz ≠ 0 → b.mgCHead ≠ b.mgCTail → s.migRunning die < 4 →
    let cmdVa := fld b.mgCq.toNat 12 45 * 4096 + 32 * (b.mgCHead.toNat % 2 ^ lsz)
    s.readG asid cmdVa 32 = some bytes → s.unitWaits asid cmdVa 32 = false →
    let n := leNat bytes
    s.tablesDown (unitCtx (fld n 64 14)) (fld n 128 57) .tables = false →
    let l := s.moveLeaf p (fld n 64 14) (fld n 128 57)
    (∀ z g, l = some z → g ∈ s.migs → g.ptePa ≠ z.at') →
    ∃ t g, exec (.migrationClaim p) s = .next t ∧ (t.bank p).mgCHead = b.mgCHead + 1 ∧ t.migs = s.migs ++ [g] ∧
      g.part = p ∧ g.die = die ∧ g.dst = fld n 192 60 ∧ g.va = fld n 128 57 ∧ g.asid = fld n 64 14 ∧ g.ctr = bv n 96 32 ∧
      (∀ st, s.moveBad p n = some st → g.stage = 0x10 + st ∧ t.gmem = s.gmem) ∧
      (s.moveBad p n = none → ∀ z, l = some z → g.stage = 1 ∧ g.old = pteFrame z.pte ∧ g.size = z.size ∧ g.ptePa = z.at' ∧
        t.gmem = (s.putPte z.at' (pteSet z.pte 1 none)).gmem)

/-- R345, R346: the page is copied once its range is quiet; the leaf is switched to DST unless its entry has changed; the
command ends with STATUS and DONE in its slot of the ring, where that can be reached, and the add to CTR. -/
def Sys2Proof.Claims.PageMoves : Prop :=
  ∀ (s : State) (g : Mig), s.mig? g.id = some g →
    (g.stage = 1 → s.migWaits g = false → s.invQuiet g.part g.range = true → ∃ t, exec (.migrationCopy g.id) s = .next t ∧
      t.gmem = s.gmem.write g.dst (s.gmem.read g.old g.size) ∧ t.mig? g.id = some { g with stage := 3 } ∧
      t.tlbs = s.tlbs.filter fun z => !s.invMatch g.part g.range z.asid z.base z.size) ∧
    (g.stage = 3 → s.migWaits g = false →
      let e := s.ptWord g.ptePa
      (pteV e = true → pteMs e = 1 → pteFrame e = g.old → exec (.migrationSwitch g.id) s =
        .next ((s.putPte g.ptePa (pteSet e 0 (some g.dst))).setMig { g with stage := 4 })) ∧
      (pteV e = false ∨ pteMs e ≠ 1 ∨ pteFrame e ≠ g.old →
        exec (.migrationSwitch g.id) s = .next (s.setMig { g with stage := 0x13 }))) ∧
    (let done (s : State) (status : Nat) : State :=
      let b0 := ((s.readG g.ringAsid g.cmdVa 1).getD [0]).headD 0
      let u := { s.writeG g.ringAsid g.cmdVa [b0 ||| 1, BitVec.ofNat 8 status] with
        migs := s.migs.filter fun h => h.id != g.id }
      if g.ctr = 0 then u else u.postSignal g.ctr
    (s.unitWaits g.ringAsid g.cmdVa 2 = false → s.dieDown g.die = false →
    (g.stage = 4 → s.invQuiet g.part g.range = true →
      exec (.migrationEnd g.id) s = .next (done (s.dropTlbs g.part g.range) 0)) ∧
    (0x10 ≤ g.stage → exec (.migrationEnd g.id) s = .next (done s (g.stage - 0x10)))))

/-- R342, R344: a hint of a partition that has an engine and a VF enters the partition's ring in the ASID of its lowest VF,
or is dropped and counted where the ring is disabled or full; while die 9 is down the engine of die 8 takes over and
continues its commands: those of die 8 stay, one whose leaf still moves between frames that die 8 reaches is resumed at the
copy, and one whose leaf does not move or that names frames behind die 9 ends with 0x02. Where a command that failed its
checks stands is the model's choice (log 36). -/
def Sys2Proof.Claims.HintsAndTakeover : Prop :=
  (∀ (s : State) (p v : Nat) (r : BitVec 128) (l : List (Nat × BitVec 128)), s.hints = (p, r) :: l → p < 12 →
    (s.migDie p).isSome = true → s.lowestVf p = some v →
    let u : State := { s with hints := l }
    let b := s.bank p
    let lsz := fld b.mgHq.toNat 0 4
    let asid := (s.vf v).asid.toNat
    let va := fld b.mgHq.toNat 12 45 * 4096 + 16 * (b.mgHTail.toNat % 2 ^ lsz)
    u.unitWaits asid va 16 = false →
    (lsz = 0 ∨ 2 ^ lsz ≤ (b.mgHTail - b.mgHHead).toNat → exec .migrationHint s =
      .next (u.modBank p fun b => { b with mgDrop := sat32 b.mgDrop 1 })) ∧
    (lsz ≠ 0 → (b.mgHTail - b.mgHHead).toNat < 2 ^ lsz → u.writeFault asid va 16 = none → exec .migrationHint s =
      .next ((u.writeG asid va (leBytes 16 r.toNat)).modBank p fun b => { b with mgHTail := b.mgHTail + 1 }))) ∧
  (∀ s : State, s.dieDown 9 = true → s.migOdd = false → ∃ t, exec .migrationTakeover s = .next t ∧ t.migOdd = true ∧
    (∀ p, t.migDie p = if s.dieDown 8 then none else some 8) ∧
    ∀ (i : Nat) (g : Mig), s.migs[i]? = some g → ∃ h, t.migs[i]? = some h ∧
      let e := s.ptWord g.ptePa
      (g.die ≠ 9 → h = g) ∧
      (g.die = 9 → h.die = 8 ∧
        (pteV e = true → pteMs e = 1 → g.ptePa ≠ 0 → behindDie9 g.old = false → behindDie9 g.dst = false →
          g.stage < 0x10 → h.stage = 1 ∧ h.old = pteFrame e) ∧
        (pteV e = false ∨ pteMs e ≠ 1 ∨ behindDie9 g.old = true ∨ behindDie9 g.dst = true → h.stage = 0x12)))

/-- R338, R340, R342, R344 to R346: invalidations and page moves. Which cached entries stay and what becomes of the commands
of an engine that is taken over are the model's choices (logs 36 and 42). -/
def Obligations.Translations : Prop :=
  Sys2Proof.Claims.Invalidations ∧ Sys2Proof.Claims.MovesClaimed ∧ Sys2Proof.Claims.PageMoves ∧
  Sys2Proof.Claims.HintsAndTakeover

/-! ## The fabric -/

/-- A message that its receiver accepts here (R349, R352, R359): well formed, on a plane that is not dead, for this package,
and, but for an acknowledgement, the next of its stream. -/
def Sys2Proof.Claims.Arrives (s : State) (m : Msg) (via : Option Nat) : Prop :=
  msgBad m = false ∧ s.onDeadPlane m via = false ∧ m.dpkg = Config.pkgId ∧ (m.typ = 8 ∨ m.seq = s.expected m)

/-- The state after the acceptance of a message that came through the port `via`: its stream's next SEQ, the port's digest,
and the acknowledgement that leaves. -/
def Sys2Proof.Claims.took (s : State) (m : Msg) (via : Option Nat) : State :=
  if m.typ = 8 then s.digest m via else ((s.accept m).digest m via).acknowledge m via

/-- R230, R231, R288, R349: an accepted write is written where its job's address space puts it, paid by the VF that owns the
memory, and its add follows the write; one that does not translate, and an add whose counter is not there or has lost its
home, are refused; an `xsend.msg` waits for its slot at the core it names of the task that has the mailbox, and is refused
where there is none. The layout of the payload, and with it where the alias class of R335 stands, is the model's (log 21). -/
def Sys2Proof.Claims.WritesArrive : Prop :=
  ∀ (s : State) (m : Msg) (via : Option Nat), Sys2Proof.Claims.Arrives s m via →
    let u := Sys2Proof.Claims.took s m via
    let h : BitVec 32 := bv m.inl.toNat 64 32
    (m.typ = 0 → s.jobVf (msgJob m) = none → exec (.writeMessage m via) s = .next (u.refuse m 0x0B)) ∧
    (∀ v, m.typ = 0 → s.jobVf (msgJob m) = some v →
      let cx := unitCtx (s.vf v).asid.toNat
      let va := m.addr.toNat % 2 ^ 57
      let tr := s.translate cx va .wr (some (bv m.inl.toNat 97 2)) .tables
      (∀ e, tr = .error e → exec (.writeMessage m via) s = .next (u.refuse m 0x0B)) ∧
      (∀ pa pte, tr = .ok (pa, pte) → s.writeWaits pa pte = false → s.tablesDown cx va .tables = false →
        let w := (u.acceptWide pa (m.data.map some)).payArrival v m via (dieOf pa) (granuleCharge pa m.ndat.toNat)
        (fld m.inl.toNat 96 1 = 0 → exec (.writeMessage m via) s = .next w) ∧
        (fld m.inl.toNat 96 1 = 1 →
          (s.vfCounter v h = none → exec (.writeMessage m via) s = .next (w.refuse m 0x13)) ∧
          (∀ c, s.vfCounter v h = some c → exec (.writeMessage m via) s =
            .next (if c.lost then w.refuse m 0x11 else w.postCtr h (.add (m.inl.truncate 64)) .system))))) ∧
    (m.typ = 5 →
      let a := m.addr.toNat / 512
      (s.mailbox (msgJob m) (a / 1024) = none → exec (.writeMessage m via) s = .next (u.refuse m 0x0B)) ∧
      (∀ t tr c k, s.mailbox (msgJob m) (a / 1024) = some t → s.troupe? t = some tr →
        shapeSize tr.image.shape tr.image.m = some (c, k) →
        (c * k ≤ a / 4 % 256 → exec (.writeMessage m via) s = .next (u.refuse m 0x0B)) ∧
        (a / 4 % 256 < c * k → ∃ g die, g.trp = t ∧ g.rank = a / 4 % 256 ∧ g.ch = a % 4 ∧
          g.data = (tab 16 fun i => BitVec.ofNat 32 (numAt m.data (4 * i) 4)) ∧ exec (.writeMessage m via) s =
            .next ({ u.fresh with inMsgs := u.inMsgs ++ [g] }.payArrival tr.vf m via die []))))

/-- R230, R252, R288, R349: an accepted read is answered with the latest accepted bytes, or refused where it does not
translate; an accepted answer becomes a granule on its way to the wall of the core that asked, with the command's add of 64.
-/
def Sys2Proof.Claims.ReadsArrive : Prop :=
  ∀ (s : State) (m : Msg) (via : Option Nat), Sys2Proof.Claims.Arrives s m via →
    let u := Sys2Proof.Claims.took s m via
    let n := m.inl.toNat
    let q := arrivalDie m via
    (m.typ = 1 → s.jobVf (msgJob m) = none → exec (.readRequest m via) s = .next (u.refuse m 0x0B)) ∧
    (∀ v, m.typ = 1 → s.jobVf (msgJob m) = some v →
      let cx := unitCtx (s.vf v).asid.toNat
      let va := m.addr.toNat % 2 ^ 57
      let tr := s.translate cx va .rd (some (bv m.inl.toNat 97 2)) .tables
      (∀ e, tr = .error e → exec (.readRequest m via) s = .next (u.refuse m 0x0B)) ∧
      (∀ pa pte, tr = .ok (pa, pte) → s.portDown pa = false → s.tablesDown cx va .tables = false → exec (.readRequest m via) s =
        .next ((u.payArrival v m via (dieOf pa) (granuleCharge pa 1 ++ (q, 0x11, 2) :: crossings (dieOf pa) q 2)).reply m 2 n
          (s.latest.read pa 64) (s.planeOf m.addr.toNat)))) ∧
    (m.typ = 2 →
      (s.agentOf m.ddie.toNat (fld n 64 16) = none → exec (.readResponse m via) s = .next u) ∧
      (∀ a c k dst src len w v, s.agentOf m.ddie.toNat (fld n 64 16) = some a → s.core? a = some c →
        c.cmd? (fld n 32 32) = some k → k.op = .xget dst src len w → s.vfOf a = some v →
        let g : Granule := { id := u.nextId, dst := a, addr := dst + 64 * fld n 0 32, data := m.data.take 64,
                             ctr := if w[63] then some (w.truncate 32) else none, amt := 64, src := .cmd a k.id, since := none }
        let x : State := { u.fresh with flight := u.flight ++ [g] }
        exec (.readResponse m via) s = .next (x.payArrival v m via (x.dieOfAgent a) [])))

/-- R351, R352, R355, R359: a marker of another package is answered with what names it; a marker's answer takes the marker
that it names off those that its core awaits, and an answer that names none changes nothing; an acknowledged message leaves
the replay buffer, and its command has one write fewer outstanding; a refused one is not resent and its fault is raised at
its source, before its acknowledgement or after it; a plane-down message declares its plane dead and is not passed on. What a
marker within the package was sent with tells whether a quiesce holds its answer back (log 57). -/
def Sys2Proof.Claims.SignalsArrive : Prop :=
  ∀ (s : State) (m : Msg) (via : Option Nat), Sys2Proof.Claims.Arrives s m via →
    let u := Sys2Proof.Claims.took s m via
    let n := m.inl.toNat
    (m.typ = 6 → exec (.fenceMarker m via) s =
      .next (if m.spkg = Config.pkgId then u else u.reply m 7 (m.agt.toNat + m.seq.toNat * 2 ^ 16) [] m.pln)) ∧
    (m.typ = 7 →
      (s.agentOf m.ddie.toNat (fld n 0 16) = none → exec (.markerAcknowledgement m via) s = .next u) ∧
      (∀ a c, s.agentOf m.ddie.toNat (fld n 0 16) = some a → s.core? a = some c →
        let inside (k : Mark) : Prop := k.out = none ∧ m.spkg = Config.pkgId ∧ k.plane = m.pln.toNat ∧ k.die = m.sdie.toNat ∧
          k.seq = bv n 16 16
        let outside (k : Mark) : Prop := ∃ id o, k.out = some id ∧ o ∈ s.out ++ s.acked ∧ o.id = id ∧ o.msg.typ = 6 ∧
          o.msg.sdie = m.ddie ∧ o.msg.agt.toNat = fld n 0 16 ∧ o.msg.dpkg = m.spkg ∧ o.msg.pln = m.pln ∧ o.msg.seq = bv n 16 16
        ((∀ k ∈ c.marks, ¬ inside k ∧ ¬ outside k) → exec (.markerAcknowledgement m via) s = .next u) ∧
        (∀ k, k ∈ c.marks → inside k ∨ outside k → (∀ j ∈ c.marks, inside j ∨ outside j → j = k) →
          (k.out = none → s.qs = none ∨ k.sent < s.qsFrom) →
          ∃ t x, exec (.markerAcknowledgement m via) s = .next t ∧ t.core? a = some x ∧
            (∀ w, c.wait = some w → x.wait = some { w with markers := w.markers.erase k }) ∧
            (∀ l, c.pubMarks = some l → x.pubMarks = some (l.erase k))))) ∧
    (m.typ = 8 →
      (s.outMsg? m.ddie (fld n 0 16) m.spkg m.pln m.seq = none → exec (.acknowledgement m via) s = .next u) ∧
      (∀ o, s.outMsg? m.ddie (fld n 0 16) m.spkg m.pln m.seq = some o →
        let x := { u with out := u.out.filter fun p => p.id != o.id }.remember o
        exec (.acknowledgement m via) s = .next (if o.msg.typ = 0 ∨ o.msg.typ = 5 then x.appliedFor o.src else x))) ∧
    (m.typ = 9 →
      let named (o : OutMsg) : Bool := o.named m.ddie (fld n 0 16) m.spkg (bv n 32 2) (bv n 16 16)
      let waiting := u.outMsg? m.ddie (fld n 0 16) m.spkg (bv n 32 2) (bv n 16 16)
      (waiting = none → u.acked.find? named = none → exec (.refusal m via) s = .next u) ∧
      (∀ o, waiting = some o ∨ (waiting = none ∧ u.acked.find? named = some o) →
        (∀ a, o.src.agent = some a → s.away a = false) →
        let x : State := { u with out := u.out.filter fun p => p.id != o.id, acked := u.acked.filter fun p => p.id != o.id }
        let y := if waiting.isSome ∨ o.msg.typ = 1 then x.appliedFor o.src else x
        (o.src.agent = none → exec (.refusal m via) s = .next y) ∧
        (∀ a, o.src.agent = some a → exec (.refusal m via) s =
          .next (y.modCore a fun c => c.raiseLate o.rep.1 o.rep.2.1 (o.refusal (fld n 40 8)))))) ∧
    (m.typ = 0xA → exec (.planeDown m via) s = .next (u.declareDead (m.inl.truncate 2) true))

/-- R349, R351, R352, R359, R365: a malformed message only counts an error on its die; one on a dead plane is discarded; one
for another package is passed on, or refused where no port leads there; one out of its stream's order is discarded, and
acknowledged again if it had been accepted before. Which SEQ counts as accepted before, and how one without a route is
refused, are the model's choices (logs 22 and 31). -/
def Sys2Proof.Claims.MessagesNotTaken : Prop :=
  ∀ (s : State) (m : Msg) (via : Option Nat),
    let ends (t : State) : Prop :=
      (m.typ = 0 ∨ m.typ = 5 → exec (.writeMessage m via) s = .next t) ∧
      (m.typ = 1 → exec (.readRequest m via) s = .next t) ∧ (m.typ = 2 → exec (.readResponse m via) s = .next t) ∧
      (m.typ = 6 → exec (.fenceMarker m via) s = .next t) ∧ (m.typ = 7 → exec (.markerAcknowledgement m via) s = .next t) ∧
      (m.typ = 8 → exec (.acknowledgement m via) s = .next t) ∧ (m.typ = 9 → exec (.refusal m via) s = .next t) ∧
      (m.typ = 0xA → exec (.planeDown m via) s = .next t)
    (msgBad m = true → ends (s.countErr (arrivalDie m via) 7 true) ∧
      exec (.writeMessage m via) s = .next (s.countErr (arrivalDie m via) 7 true)) ∧
    (msgBad m = false → s.onDeadPlane m via = true → ends s) ∧
    (msgBad m = false → s.onDeadPlane m via = false →
      (m.dpkg ≠ Config.pkgId →
        let plane := BitVec.ofNat 2 ((via.map (· % 4)).getD m.pln.toNat)
        (s.leading none plane m.dpkg = [] → ends (s.noRoute m)) ∧
        (s.leading none plane m.dpkg ≠ [] →
          let o : OutMsg := { id := s.nextId, msg := m, plane := plane, part := none, injected := false, ports := [],
                              first := 0, last := 0, src := .system }
          ends ({ s.fresh with out := s.out ++ [o] }.digest m via))) ∧
      (m.dpkg = Config.pkgId → m.typ ≠ 8 → m.seq ≠ s.expected m →
        ends (if s.seenSeq m then s.acknowledge m via else s)))

/-- R230, R231, R288, R349, R351, R352, R355, R359, R365: what each type of message does when it is accepted, and what
becomes of one that is not. Layouts, the SEQ of a stream's first message and the refusal of one without a route are the
model's choices (logs 21, 22, 31 and 57). -/
def Obligations.Messages : Prop :=
  Sys2Proof.Claims.WritesArrive ∧ Sys2Proof.Claims.ReadsArrive ∧ Sys2Proof.Claims.SignalsArrive ∧
  Sys2Proof.Claims.MessagesNotTaken

/-- R348, R352, R354, R356, R357: when RT has passed since the oldest unacknowledged message of a stream was sent, it and its
stream's later ones are sent again, marked RPL, and no other, and the ports that each has gone through stay known; one
unacknowledged for TMO, and a link that fails to retrain, declare the plane dead; a drain that is over rewrites the map over
the planes that live and counts a rehash, and one that exceeds QTMO marks the planes that still hold messages dead; KILL and
REVIVE are taken or refused with CREF; a retrained link is up. From when a message's time counts after a replay, what counts
as unacknowledged within the package, and that a link's failure counts on both its dies, are the model's choices (logs 31,
57, 58 and 63). -/
def Sys2Proof.Claims.Planes : Prop :=
  (∀ (s : State) (o : OutMsg), s.out.find? (fun p => p.id == o.id) = some o → o.injected = true →
    s.planeDead o.plane.toNat = false → s.routeUp o = true →
    (o.last + s.tmo.toNat / 16 ≤ s.wall → o.last < s.wall → (∀ p ∈ s.streamMsgs o, o.id ≤ p.id) →
      (∀ p q, p ∈ s.out → q ∈ s.out → p.id = q.id → p = q) →
      ∃ t, exec (.resendTimeout o.id) s = .next t ∧ t.out.length = s.out.length ∧
        ∀ (i : Nat) (p : OutMsg), s.out[i]? = some p → ∃ q : OutMsg, t.out[i]? = some q ∧
          (p ∈ s.streamMsgs o → q = { p with last := s.wall, msg := { p.msg with rpl := true }, ports := q.ports } ∧
            ∃ l, q.ports = l ++ p.ports) ∧
          (p ∉ s.streamMsgs o → q = p)) ∧
    (o.first + s.tmo.toNat ≤ s.wall → exec (.ackTimeout o.id) s = .next (s.declareDead o.plane false))) ∧
  (∀ (s : State) (edge : Nat) (plane : BitVec 2), edge < 17 →
    ((edge, plane) ∉ s.linksDown → exec (.linkDown edge plane) s =
      .next ((({ s with linksDown := s.linksDown ++ [(edge, plane)] }.countErr (edgeDies edge).1 7 true).countErr
        (edgeDies edge).2 7 true).declareDead plane false)) ∧
    (∀ old, ∃ t, exec (.ucieLinkRetrained edge plane old) s = .next t ∧
      t.linksDown = s.linksDown.filter (fun e => e != (edge, plane)) ∧
      (∀ e, e ∈ t.linksOld ↔ if e = (edge, plane) then old = true else e ∈ s.linksOld) ∧
      t = { s with linksDown := t.linksDown, linksOld := t.linksOld })) ∧
  (∀ (s : State) (k r : BitVec 4), s.qs = some (k, r) →
    (s.drained k = true → ∃ t, exec .quiesceDrainDone s = .next t ∧ t.qs = none ∧ t.nreh = s.nreh + 1 ∧
      t.live = (s.live &&& ~~~ k) ||| (r &&& ~~~ k) ∧
      ∀ b, b < 64 → planesOf t.live ≠ [] →
        vget 0 t.pmap b = BitVec.ofNat 2 ((planesOf t.live).getD (b % (planesOf t.live).length) 0)) ∧
    (s.drained k = false → s.qsAt + s.qtmo.toNat < s.wall →
      ∃ t d, exec .quiesceTimeout s = .next t ∧ t.qsAt = s.wall ∧ t.qs = some (d, r) ∧
        ∀ p, p < 4 → d.getLsbD p = (k.getLsbD p || (s.live.getLsbD p && s.pendingOn p)))) ∧
  (∀ (s : State) (p : Nat), s.pendingOn p = true ↔ (∃ o ∈ s.out, o.injected = true ∧ o.plane.toNat = p) ∨
    ∃ q ∈ s.inner, q.1 = p ∧ q.2 < s.qsFrom) ∧
  (∀ (s : State) (plane : BitVec 2),
    let refused : State := { s with fbCref := true }
    (s.qs ≠ none → exec (.kill plane) s = .next refused ∧ exec (.revive plane) s = .next refused) ∧
    (s.qs = none → s.live.getLsbD plane.toNat = true → exec (.revive plane) s = .next refused ∧
      exec (.kill plane) s = .next (if (planesOf s.live).length ≤ 1 then refused else s.declareDead plane false)) ∧
    (s.qs = none → s.live.getLsbD plane.toNat = false → exec (.kill plane) s = .next refused ∧
      ((∃ e ∈ s.linksDown, e.2 = plane) → exec (.revive plane) s = .next refused) ∧
      ((∀ e ∈ s.linksDown, e.2 ≠ plane) → exec (.revive plane) s =
        .next ({ s with qs := some (0, BitVec.ofNat 4 (2 ^ plane.toNat)), qsAt := s.wall, qsFrom := s.wall }.setHvIp 5))))

/-- R252, R347, R369, R371: a CXL port goes down and comes up; HP_LNK follows the host links, at the generations and widths
that a port has, and the training of die 1's port fixes HP_CFG; a host's read returns the latest accepted bytes and changes
nothing, and its write is accepted where its pages do not move and their memory is reached. A CXL peer's accesses use the
address space that the hypervisor assigns, whose value is free (log 59). That its pages are found by the tables in memory is
the model's choice (log 42). -/
def Sys2Proof.Claims.PackageEdges : Prop :=
  (∀ (s : State) (port : BitVec 3),
    (∃ t, exec (.cxlLinkDown port) s = .next t ∧ t = { s with cxlDown := t.cxlDown } ∧
      ∀ i, i < 8 → t.cxlDown.getLsbD i = (s.cxlDown.getLsbD i || i == port.toNat)) ∧
    (∃ t, exec (.cxlLinkUp port) s = .next t ∧ t = { s with cxlDown := t.cxlDown } ∧
      ∀ i, i < 8 → t.cxlDown.getLsbD i = (s.cxlDown.getLsbD i && i != port.toNat))) ∧
  (∀ (s : State) (gen wid : BitVec 4),
    let f := if gen = 0 then 0 else wid.toNat + 16 * gen.toNat
    let fits : Prop := 5 ≤ gen.toNat ∧ gen.toNat ≤ 7 ∧ 2 ≤ wid.toNat ∧ wid.toNat ≤ 4
    (gen = 0 ∨ fits → ∃ t, exec (.hostPortLinkChange 0 gen wid) s = .next t ∧ fld t.hpLnk.toNat 0 8 = f ∧
      fld t.hpLnk.toNat 8 24 = fld s.hpLnk.toNat 8 24 ∧ t.hpSet = s.hpSet) ∧
    (gen = 0 ∨ (fits ∧ s.hpCfg ≠ 0) → ∃ t, exec (.hostPortLinkChange 1 gen wid) s = .next t ∧ fld t.hpLnk.toNat 16 8 = f ∧
      t.hpSet = (s.hpSet || gen != 0) ∧ fld t.hpLnk.toNat 0 16 = fld s.hpLnk.toNat 0 16)) ∧
  (∀ (s : State) (acc : HostAccess), acc.peer = false ∨ s.hpCfg = 2 →
    let asid : Nat := if acc.peer = true then Config.peerAsid.toNat else acc.asid.toNat
    (acc.write = false → s.unitWaits asid acc.va.toNat acc.len = false → exec (.hostMemoryAccess acc) s =
      .next (s.tell (.data acc.va.toNat (s.readG asid acc.va.toNat acc.len)))) ∧
    (acc.write = true → s.unitWriteWaits asid acc.va.toNat acc.data.length = false →
      exec (.hostMemoryAccess acc) s = .next (s.writeG asid acc.va.toNat acc.data)))

/-- R348, R352, R354, R356, R357, R252, R347, R369, R371: planes that die, and the ports at the edges of the package. Times
of a replay, and the tables of a host's access, are the model's choices (logs 31, 42, 57, 58, 59 and 63). -/
def Obligations.PlanesAndEdges : Prop :=
  Sys2Proof.Claims.Planes ∧ Sys2Proof.Claims.PackageEdges

/-! ## Optical ports -/

/-- Command `op` of an optical port: where it is allowed it runs, and the port is left otherwise as `p`; elsewhere, and while
another command runs or the port is gated, it is refused with CERR and nothing else changes. The write of the same command in
the wall cycle in which it began is the same command (log 66). -/
def Sys2Proof.Claims.PortRuns (i : Instr) (s : State) (q op : Nat) (wl : BitVec 4) (allowed : Prop) (p : Port) : Prop :=
  let free := (s.port q).busy = none ∧ s.gatePort.getLsbD q = false
  let same := (s.port q).busy = some (BitVec.ofNat 4 op, wl) ∧ (s.port q).began = s.wall
  (free → allowed → exec i s = .next (s.setPort q { p with busy := some (BitVec.ofNat 4 op, wl), began := s.wall })) ∧
  (¬ (free ∧ allowed) → ¬ same → exec i s = .next (s.setPort q { s.port q with cerr := true })) ∧
  (same → exec i s = .next s)

/-- R361, R362: each command of an optical port runs in the states that its row allows and is refused with CERR in every
other, and while one runs; the same command of the same wall cycle is one (log 66). -/
def Sys2Proof.Claims.OpticalCommands : Prop :=
  ∀ (s : State) (port wl : BitVec 4),
    let q := port.toNat
    let p := s.port q
    let lit := p.st = 1 ∨ p.st = 2
    Sys2Proof.Claims.PortRuns (.laserOn port) s q 1 0 (p.st = 0) p ∧
    Sys2Proof.Claims.PortRuns (.lock_ port wl) s q 2 wl (lit ∧ wl.toNat ≤ 8) (p.setWl wl.toNat (p.wl wl.toNat % 2)) ∧
    Sys2Proof.Claims.PortRuns (.train port wl) s q 3 wl (lit ∧ wl.toNat ≤ 8 ∧ p.wl wl.toNat % 2 = 1)
      (p.setWl wl.toNat (p.wl wl.toNat % 4)) ∧
    Sys2Proof.Claims.PortRuns (.map_ port) s q 4 0 (lit ∧ p.mapOk = true) p ∧
    Sys2Proof.Claims.PortRuns (.enable port) s q 5 0 (p.st = 2) p ∧
    Sys2Proof.Claims.PortRuns (.drain port) s q 6 0 (p.st = 3) { p with st := 4 } ∧
    Sys2Proof.Claims.PortRuns (.disable port) s q 7 0 (p.st = 2 ∨ p.st = 5) p ∧
    Sys2Proof.Claims.PortRuns (.laserOff port) s q 8 0 (lit ∨ p.st = 5) p

/-- R361, R362: when a command of an optical port ends, BUSY clears, FAB is raised, and the port has what the row of the
command gives: its state, the LOCK, TRND and FAIL bits of the wavelength, the eye, the lanes and the peer; a DRAIN ends once
no message that went through the port is unacknowledged. Loss of signal on a mapped wavelength fails a port that carries
traffic. -/
def Sys2Proof.Claims.OpticalEnds : Prop :=
  ∀ (s : State) (port wl : BitVec 4) (op : BitVec 4) (locked : Bool) (ew eh peer : BitVec 16),
    let q := port.toNat
    let p := s.port q
    let w := wl.toNat
    let eyeOk := 320 ≤ ew.toNat ∧ 120 ≤ eh.toNat
    (p.busy = some (op, wl) → 1 ≤ op.toNat → op.toNat ≤ 8 → (op = 6 → s.portQuiet q = true) → w ≤ 8 → ∃ z : Port,
      exec (.opticalCommandEnd port locked ew eh peer) s = .next (((s.setPort q z).setHvIp 5).injectAll) ∧ z.busy = none ∧
      z.cerr = p.cerr ∧ z.lmap = p.lmap ∧ z.rtA = p.rtA ∧ z.rtB = p.rtB ∧ z.act = p.act ∧
      (op = 1 → z.st = 1 ∧ z.wst = 0) ∧
      (op = 2 → z.st = p.st ∧ z.wl w = if locked then 1 else 4) ∧
      (op = 3 → z.st = p.st ∧ (eyeOk → z.wl w = p.wl w % 2 + 2) ∧ (¬ eyeOk → z.wl w = p.wl w % 4 + 4) ∧
        vget 0 z.eye w = ew ++ eh) ∧
      (op = 4 → z.st = 2 ∧ z.lanes = p.lmap ∧ z.peer = peer ∧ z.wst = p.wst) ∧
      (op = 5 → z.st = 3 ∧ z.wst = p.wst) ∧ (op = 6 → z.st = 2 ∧ z.wst = p.wst) ∧
      (op = 7 → z.st = 1 ∧ ∀ i, i < 9 → z.wl i = p.wl i % 2 + p.wl i / 4 * 4) ∧
      (op = 8 → z.st = 0 ∧ z.wst = 0)) ∧
    (p.st = 3 ∨ p.st = 4 → w ∈ laneWls p.lanes → exec (.lossOfSignal port wl) s =
      .next ((s.setPort q { p with st := 5, los := true, busy := none }).setHvIp 5))

/-- R363 to R366, R385: a route entry of a port of the partition is written into the inactive bank only, and one of a port of
another partition is not written; a write of OP_DIG replaces the digest, and its count restarts. A topology command drains
its ports, brings them down once nothing sent through them is unacknowledged, adding 1 to READY for each that is in LIT, and
on GO locks, trains, maps and enables each: up with result 0 where all its wavelengths come up and its peer is the expected
one, LINKUP with 1 where the peer is another, LIT with 2 where a wavelength fails; all end with 3 when GDL has passed. A port
in another state stays there with 2, and READY's count of it, are the model's choices (log 60). -/
def Sys2Proof.Claims.RoutesAndTopology : Prop :=
  (∀ (s : State) (m : Nat) (v : BitVec 64), m < 2 → (s.mg m).part.toNat < 12 →
    let b := (s.mg m).part.toNat
    let sel := (s.bank b).rtSel
    let q := rtPort sel
    let p := s.port q
    let e := BitVec.ofNat 64 (bit (v.getLsbD 63) * 2 ^ 63 + v.toNat % 2 ^ 16)
    ((s.part b).ports.getLsbD q = false → exec (.rtDataWrite m v) s = .next s) ∧
    ((s.part b).ports.getLsbD q = true →
      (p.act = sel.getLsbD 12 → exec (.rtDataWrite m v) s = .next (s.modBank b fun b => { b with rtCref := true })) ∧
      (p.act ≠ sel.getLsbD 12 → ∃ z, exec (.rtDataWrite m v) s = .next (s.setPort q z) ∧
        z = { p with rtA := z.rtA, rtB := z.rtB } ∧
        let bank (p : Port) (b : Bool) := if b then p.rtB else p.rtA
        bank z p.act = bank p p.act ∧
        ∀ i, getRoute (bank z (!p.act)) i = if i = sel.toNat % 2 ^ 12 then e else getRoute (bank p (!p.act)) i))) ∧
  (∀ (s : State) (port : BitVec 4) (v : BitVec 64), exec (.opDigWrite port v) s =
    .next (s.setPort port.toNat { s.port port.toNat with dig := v, dcnt := 0 })) ∧
  (∀ (s : State) (c : Topo) (l : List Topo), s.topo = c :: l →
    let es := topoEntries c.body
    (es.map (·.1)).Nodup → (∀ e ∈ es, e.1 < 16) →
    (c.started = false → (∀ e ∈ es, (s.port e.1).busy = none) →
      (c.draining = false → ∃ u : State, exec .topologyCommand s = .next (u.setHvIp 5) ∧ u.topo = { c with draining := true } :: l ∧
        (∀ e ∈ es, u.port e.1 = { s.port e.1 with st := if (s.port e.1).st = 3 then 4 else (s.port e.1).st }) ∧
        ∀ q, q ∉ es.map (·.1) → u.port q = s.port q) ∧
      (c.draining = true → (∀ e ∈ es, s.portQuiet e.1 = true) → ∃ u : State, exec .topologyCommand s =
          .next (((es.filter fun e => (s.port e.1).st != 0).foldl (fun (z : State) _ =>
            z.signal (BitVec.ofNat 32 (numAt c.body 8 4)) 1) u).setHvIp 5) ∧
        u.topo = { c with started := true, since := s.wall } :: l ∧
        (∀ e ∈ es, (u.port e.1).st = if (s.port e.1).st = 0 then 0 else 1) ∧
        ∀ q, q ∉ es.map (·.1) → u.port q = s.port q)) ∧
    (c.started = true → s.topoGo c = true → s.resWaits c = false →
      ∀ (held : List (List Bool)) (ends : List FarEnd),
      let far (j : Nat) : FarEnd := ends.getD j ⟨[], 0⟩
      let lit (j q i w : Nat) : Prop :=
        let p := s.port q
        let e := (far j).eyes.getD i 0
        w ≤ 8 ∧ (if p.wl w / 4 = 1 then (held.getD j []).getD w false = true else p.wl w % 2 = 1) ∧
          320 ≤ e.toNat / 2 ^ 16 ∧ 120 ≤ e.toNat % 2 ^ 16
      let comes (j q : Nat) : Prop := (laneWls (s.port q).lmap).Nodup ∧
        ∀ i w, (laneWls (s.port q).lmap)[i]? = some w → lit j q i w
      ∃ (u : State) (res : List Nat), exec (.topologyGo held ends) s =
          .next (((u.endTopo c l res).setHvIp 5).injectAll) ∧ res.length = es.length ∧
        u = { s with ports := u.ports } ∧ (∀ q, q ∉ es.map (·.1) → u.port q = s.port q) ∧
        ∀ (j q : Nat) (pk : BitVec 16), es[j]? = some (q, pk) →
          ((s.port q).st ≠ 1 → res[j]? = some 2 ∧ u.port q = s.port q) ∧
          ((s.port q).st = 1 → ¬ comes j q → res[j]? = some 2 ∧ (u.port q).st = 1) ∧
          ((s.port q).st = 1 → comes j q → (u.port q).lanes = (s.port q).lmap ∧ (u.port q).peer = (far j).peer ∧
            ((far j).peer = pk → res[j]? = some 0 ∧ (u.port q).st = 3) ∧
            ((far j).peer ≠ pk → res[j]? = some 1 ∧ (u.port q).st = 2))) ∧
    (c.started = true → s.topoGo c = false → s.resWaits c = false → s.wall % 4096 = 0 →
      dlTicks (BitVec.ofNat 16 (numAt c.body 16 2)) ≤ s.wall / 4096 - c.since / 4096 →
      exec .topologyGoExpired s = .next (s.endTopo c l (es.map fun _ => 3))))

/-- R361 to R366, R385: optical ports, routes and topology commands. What a topology command does with a port in another
state, and a command written twice in a wall cycle, are the model's choices (logs 60 and 66). -/
def Obligations.OpticalPorts : Prop :=
  Sys2Proof.Claims.OpticalCommands ∧ Sys2Proof.Claims.OpticalEnds ∧ Sys2Proof.Claims.RoutesAndTopology

/-! ## Resets, power and the mailbox -/

/-- R388, R399: a power-on reset leaves the reset state but for the fuses, a package reset also keeps the trip, a host-port
reset touches its port alone; the end of a die's reset answers RESETD, and far-tier die 1 starts its management core at
bundle 0 and takes back the odd partitions. -/
def Sys2Proof.Claims.Resets : Prop :=
  ∀ s : State,
    exec .powerOnReset s =
      .next { State.reset with script := s.script, free := s.free, hmem := s.hmem, hmem2 := s.hmem2, minSvn := s.minSvn } ∧
    exec .packageReset s =
      .next { State.reset with script := s.script, free := s.free, hmem := s.hmem, hmem2 := s.hmem2, minSvn := s.minSvn,
                               trip := s.trip } ∧
    exec .hostPortReset s = .next { s with hpCfg := 0, hpSet := false, hpLnk := s.hpLnk &&& 0xFF } ∧
    (∀ d, s.resetting = some d → ∃ t, exec .dieResetComplete s = .next t ∧ t.resetting = none ∧
      (s.mbOp = 0x14 → s.mbBusy = true → t.mbDone = true ∧ t.mbStatus = 0) ∧
      (d = 9 → (t.mg 1).run = true ∧ (t.mg 1).lvl = 2 ∧ (t.mg 1).ien = false ∧ (t.mg 1).core.pc = 0 ∧ t.mg 0 = s.mg 0 ∧
        t.migOdd = false) ∧
      (d ≠ 9 → t.mgmt = s.mgmt))

/-- R400 to R402: the clamp, after a sample or for a supply (an input: log 14), takes fi to 3, sets CLMP, raises CLMP
and MSI-X vector 1, and its trigger counts as recent for 1 ms of the 800 MHz clock; a sensor at TTRIP trips the package and
the host link goes down; a sample of a die's monitors enters each reading, counts the samples, the entries of a supply below
0.9 × the die's state voltage and its minimum, and a sensor at TCLAMP makes the clamp due; a write of a droop monitor sets
VMIN to 0xFFFF. -/
def Sys2Proof.Claims.Monitors : Prop :=
  (∀ s : State,
    exec .clamp s = .next
      (({ s with fi := 3, clmp := true, clampTill := s.wall + 800000 + 1, clampDue := false }.setHvIp 4).tell (.msix 1)) ∧
    (s.clampRecent = true ↔ s.clampDue = true ∨ s.wall < s.clampTill) ∧
    (s.hot 1840 = true → exec .thermalTrip s =
      .next ({ s with trip := true, hpLnk := 0, cursor := .idle }.tell .linkDown))) ∧
  (∀ (s : State) (die : Fin 10) (smp : MonSample), ∃ t, exec (.monitorSample die smp) s = .next t ∧
    (t.hot 1600 = true → t.clampDue = true ∧ t.clampTill = s.wall + 800000 + 1) ∧
    (t.hot 1600 = false → t.clampDue = s.clampDue ∧ t.clampTill = s.clampTill) ∧
    (∀ d, d ≠ die.val → vget Mon.reset t.mons d = vget Mon.reset s.mons d) ∧
    (let x := vget Mon.reset s.mons die.val
     let y := vget Mon.reset t.mons die.val
     let seen (j : Nat) : List (BitVec 16) := smp.supply.getD j []
     let below (j : Nat) : List Bool :=
       (seen j).map fun v => decide (10 * v.toNat < 36 * viMv (vget 0 s.vi die.val).toNat)
     (∀ (i : Nat) (w : BitVec 64), x.temp[i]? = some w → ∃ z : BitVec 64, y.temp[i]? = some z ∧
       z.toNat / 2 ^ 32 = (w.toNat / 2 ^ 32 + 1) % 2 ^ 32 ∧ z.getLsbD 31 = (smp.temp.getD i (false, 0)).1 ∧
       fld z.toNat 16 15 = 0 ∧ (z.truncate 16 : BitVec 16) = (smp.temp.getD i (false, 0)).2) ∧
     (∀ (j : Nat) (w : BitVec 64), x.droop[j]? = some w → ∃ z : BitVec 64, y.droop[j]? = some z ∧
       z.toNat / 2 ^ 32 = min (w.toNat / 2 ^ 32 +
         (((x.low.getD j false :: below j).zip (below j)).filter fun q => !q.1 && q.2).length) (2 ^ 32 - 1) ∧
       z.toNat % 2 ^ 32 = (seen j).foldl (fun n v => min n v.toNat) (w.toNat % 2 ^ 16)) ∧
     (∀ (j : Nat) (b : Bool), x.low[j]? = some b → y.low[j]? = some ((below j).getLastD b)) ∧
     (∀ (k : Nat) (w : BitVec 64), x.proc[k]? = some w → ∃ z : BitVec 64, y.proc[k]? = some z ∧
       z.toNat / 2 ^ 32 = w.toNat / 2 ^ 32 ∧ z.toNat % 2 ^ 32 = (smp.rosc.getD k 0).toNat))) ∧
  (∀ (s : State) (die : Fin 10) (j : Fin 8), ∃ t, exec (.droopVminWrite die j) s = .next t ∧
    ∀ w : BitVec 64, (vget Mon.reset s.mons die.val).droop[j.val]? = some w →
      ∃ z : BitVec 64, (vget Mon.reset t.mons die.val).droop[j.val]? = some z ∧ z.toNat % 2 ^ 16 = 0xFFFF ∧
        z.toNat / 2 ^ 32 = w.toNat / 2 ^ 32)

/-- R278, R384, R387: an uncorrectable soft error found on a read is counted on its die and raises 0x28 in its core; a
corrected error, and one of HBM4E or of a UCIe link, is counted alone on its die (the input that tells it, and where the
fault is taken, are the model's choices: logs 32 and 63); LCK and ISO are set where the grant allows, a refused one sets REF,
and clearing a grant clears the matching bit. -/
def Sys2Proof.Claims.ErrorsAndProfiling : Prop :=
  (∀ (s : State) (a : Agent) (c : Core) (kind at_ : BitVec 4) (word : BitVec 3), s.core? a = some c →
    1 ≤ kind.toNat → kind.toNat ≤ 5 → at_.toNat < 10 →
    ∃ die, (∀ t r, a = .core t r → die = c.die) ∧ (∀ m, a = .mgmt m → die = 8 + m) ∧
      exec (.memoryError a ⟨kind, at_, false⟩ word) s = .next ((s.countErr die kind.toNat true).modCore a fun c =>
        c.raiseLate word.toNat c.pc { cause := 0x28, sub := kind.toNat })) ∧
  (∀ (s : State) (a : Agent) (e : SoftError) (word : BitVec 3), e.die.toNat < 10 →
    1 ≤ e.kind.toNat → e.kind.toNat ≤ 7 → e.corrected = true ∨ 6 ≤ e.kind.toNat →
    exec (.memoryError a e word) s = .next (s.countErr e.die.toNat e.kind.toNat !e.corrected)) ∧
  (∀ (s : State) (m : Nat) (v : BitVec 64), m < 2 → (s.mg m).part.toNat < 12 →
    let p := (s.mg m).part.toNat
    let b := s.bank p
    (∃ t, exec (.dbProfWrite m v) s = .next t ∧ (t.bank p).dbGrant = b.dbGrant ∧
      (t.bank p).dbProf.getLsbD 63 = (v.getLsbD 63 && b.dbGrant.getLsbD 0) ∧
      (t.bank p).dbProf.getLsbD 62 = (v.getLsbD 62 && b.dbGrant.getLsbD 1) ∧
      (t.bank p).dbProf.getLsbD 32 = ((b.dbProf.getLsbD 32 && v.getLsbD 32) || (v.getLsbD 63 && !b.dbGrant.getLsbD 0) ||
        (v.getLsbD 62 && !b.dbGrant.getLsbD 1))) ∧
    (∃ t, exec (.dbGrantWrite m v) s = .next t ∧ (t.bank p).dbGrant = v.truncate 2 ∧
      (t.bank p).dbProf.getLsbD 63 = (b.dbProf.getLsbD 63 && v.getLsbD 0) ∧
      (t.bank p).dbProf.getLsbD 62 = (b.dbProf.getLsbD 62 && v.getLsbD 1)))

/-- R278, R384, R387, R388, R399 to R402: resets, the clamp and the trip, monitors, soft errors and profiling. The reset
values that no rule gives, the supply's clamp, and the inputs that tell an error are the model's choices (logs 4, 14, 32 and
63). -/
def Obligations.ResetsAndMonitors : Prop :=
  Sys2Proof.Claims.Resets ∧ Sys2Proof.Claims.Monitors ∧ Sys2Proof.Claims.ErrorsAndProfiling

/-- The mailbox command in hand has code `op` and waits to be carried out. -/
def Sys2Proof.Claims.InHand (s : State) (op : BitVec 8) : Prop := s.mbDone = false ∧ s.mbBusy = false ∧ s.mbOp = op

/-- R389, R393, R394: the host's writes of the RW fields are held; a doorbell starts a command while DONE = 1 with the fields
of that moment (log 64), an unlisted one ends as INVALID, and one while DONE = 0 starts nothing; REL releases the cores once,
and a write of MB_RESP ends a forwarded command. -/
def Sys2Proof.Claims.Doorbells : Prop :=
  ∀ (s : State) (cmd : BitVec 64) (args : Vector (BitVec 64) 8) (ring : Bool) (v : BitVec 64),
    let op : BitVec 8 := cmd.truncate 8
    let held : State := { s with hostCmd := cmd, hostArgs := args }
    let taken : State := { held with mbDone := false, mbBusy := false, mbCmd := cmd, mbArgs := args }.hostDbl
    (s.mbDone = false ∨ ring = false → exec (.mailboxDoorbell cmd args ring) s = .next held) ∧
    (s.mbDone = true → ring = true → exec (.mailboxDoorbell cmd args ring) s =
      .next (if mbListed op then taken else taken.mbFinish 2)) ∧
    (s.mbWord 0 = s.hostCmd ∧ (∀ i, i < 8 → s.mbWord (i + 1) = vget 0 s.hostArgs i) ∧
      (s.mbWord 9).getLsbD 63 = s.mbDone ∧ (s.mbWord 9).extractLsb' 0 16 = s.mbStatus ∧
      (s.mbWord 9).extractLsb' 16 16 = s.mbCmd.extractLsb' 16 16) ∧
    (mbListed op = true ↔
      op.toNat ∈ [0x01, 0x02, 0x03, 0x10, 0x11, 0x12, 0x13, 0x14, 0x20, 0x30]) ∧
    (v.getLsbD 0 = true → s.released = false → ∃ t, exec (.btCtlRelease v) s = .next t ∧ t.released = true ∧ t.wall = 0 ∧
      t.clampTill = s.clampTill - s.wall) ∧
    (v.getLsbD 0 = false ∨ s.released = true → exec (.btCtlRelease v) s = .next s) ∧
    (s.mbDone = false → s.mbBusy = true → s.mbOp = 0x30 →
      exec (.mbRespWrite v) s = .next (s.mbFinish (v.toNat % 2 ^ 16))) ∧
    (s.mbDone = true ∨ s.mbBusy = false ∨ s.mbOp ≠ 0x30 → exec (.mbRespWrite v) s = .next s) ∧
    (∀ n, (s.mbFinish n).mbDone = true ∧ (s.mbFinish n).mbBusy = false ∧ (s.mbFinish n).mbStatus = BitVec.ofNat 16 n ∧
      (s.mbFinish n).hostOut = s.hostOut ++ [.msix 0])

/-- R389, R390, R394: the ROM's commands are ORDER once the firmware runs, and the firmware's before it; LOAD copies the
image into boot SRAM, or is INVALID; BOOT is ORDER without an image, AUTH for one that R390 does not accept, and else starts
both management cores at bundle 0, hypervisor level and IEN 0, keeps the measurement and locks the device secret. An argument
that R394 does not allow is answered INVALID by the model's choice (log 64). -/
def Sys2Proof.Claims.BootCommands : Prop :=
  ∀ s : State, let order := s.mbFinish 4
    (s.booted = true →
      (Sys2Proof.Claims.InHand s 0x01 → exec .load s = .next order) ∧ (Sys2Proof.Claims.InHand s 0x02 → exec .boot s = .next order)) ∧
    (s.booted = false →
      (Sys2Proof.Claims.InHand s 0x03 → exec .commit s = .next order) ∧ (Sys2Proof.Claims.InHand s 0x10 → exec .setf s = .next order) ∧
      (Sys2Proof.Claims.InHand s 0x11 → exec .setv s = .next order) ∧ (Sys2Proof.Claims.InHand s 0x12 → exec .gate s = .next order) ∧
      (Sys2Proof.Claims.InHand s 0x13 → exec .ungate s = .next order) ∧ (Sys2Proof.Claims.InHand s 0x14 → exec .resetd s = .next order) ∧
      (Sys2Proof.Claims.InHand s 0x20 → exec .attest s = .next order) ∧ (Sys2Proof.Claims.InHand s 0x30 → exec .fwd s = .next order) ∧
      (Sys2Proof.Claims.InHand s 0x01 →
        let a := (vget 0 s.mbArgs 0).toNat
        let n := (vget 0 s.mbArgs 1).toNat
        (a % 4096 = 0 → 512 ≤ n → n ≤ 2 ^ 24 → ∃ t, exec .load s = .next t ∧ t.sramLen = some n ∧ t.mbStatus = 0 ∧
          t.mbDone = true ∧ ∀ i, i < n → t.sram.get i = s.hmem.get (a + i)) ∧
        (a % 4096 ≠ 0 ∨ n < 512 ∨ 2 ^ 24 < n → exec .load s = .next (s.mbFinish 2))) ∧
      (Sys2Proof.Claims.InHand s 0x02 →
        (s.sramLen = none → exec .boot s = .next order) ∧
        (∀ n, s.sramLen = some n → firmware s.minSvn (s.sram.read 0 n) = none → exec .boot s = .next (s.mbFinish 3)) ∧
        (∀ n img, s.sramLen = some n → firmware s.minSvn (s.sram.read 0 n) = some img → ∃ t, exec .boot s = .next t ∧
          t.booted = true ∧ t.mbStatus = 0 ∧ t.mbDone = true ∧ t.svn = numAt (s.sram.read 0 n) 8 8 ∧ t.secretLocked = true ∧
          t.measure = sha384 ((s.sram.read 0 n).take 256 ++ (s.sram.read 0 n).drop 512) ∧
          ∀ m, m < 2 → (t.mg m).run = true ∧ (t.mg m).lvl = 2 ∧ (t.mg m).ien = false ∧
            (t.mg m).core.pc = 0 ∧ some (t.mg m).stream = img.streams.head?) ∧
        (∀ minSvn b img, firmware minSvn b = some img → numAt b 0 4 = 0x1A4E4D46 ∧ numAt b 4 2 = 1 ∧ numAt b 6 1 < 4 ∧
          512 + numAt b 16 8 = b.length ∧ minSvn ≤ numAt b 8 8 ∧ Config.slotLive (numAt b 6 1) = true ∧
          sha384 ((b.drop 128).take 97) = Config.slotHash (numAt b 6 1) ∧
          ecdsaVerify ((b.drop 128).take 97) ((b.drop 256).take 96) (sha384 (b.take 256 ++ b.drop 512)) = true ∧
          Image.ofBytes (b.drop 512) = some img ∧ img.shape = 0)))

/-- R387, R394 to R396, R398 to R400: what each firmware command checks and does, and the statuses OK, BUSY, INVALID and
CLAMPED that it answers; SETF and SETV wait while a clock lock covers a die that they name. The keys and certificates that an
attestation holds come from free values (logs 13 and 61), where a forwarded command is written is free (log 62), and that an
argument which R392 does not allow is INVALID is the model's choice (log 64). -/
def Sys2Proof.Claims.FirmwareCommands : Prop :=
  ∀ s : State, s.booted = true →
    let arg (i : Nat) : Nat := (vget 0 s.mbArgs i).toNat
    (Sys2Proof.Claims.InHand s 0x03 →
      (s.minSvn ≤ arg 0 → arg 0 ≤ s.svn → arg 0 ≤ 64 → exec .commit s = .next ({ s with minSvn := arg 0 }.mbFinish 0)) ∧
      (arg 0 < s.minSvn ∨ s.svn < arg 0 ∨ 64 < arg 0 → exec .commit s = .next (s.mbFinish 2))) ∧
    (s.lockWaits = true → (Sys2Proof.Claims.InHand s 0x10 → exec .setf s = .refused (.notEnabled "SETF")) ∧
      (Sys2Proof.Claims.InHand s 0x11 → exec .setv s = .refused (.notEnabled "SETV"))) ∧
    (s.lockWaits = true ↔ ∃ d p, d < 8 ∧ p < 12 ∧ (s.mbOp = 0x10 ∨ (vget 0 s.mbArgs 0).getLsbD d = true) ∧
      (s.bank p).dbProf.getLsbD 63 = true ∧ fld (s.part p).rings.toNat (8 * d) 8 ≠ 0) ∧
    (Sys2Proof.Claims.InHand s 0x10 → s.lockWaits = false →
      (s.targetOk = false → exec .setf s = .next (s.mbFinish 2)) ∧
      (s.targetOk = true → arg 0 % 4 < 3 → s.clampRecent = true → exec .setf s = .next (s.mbFinish 5)) ∧
      (s.targetOk = true → arg 0 % 4 = 3 ∨ s.clampRecent = false →
        exec .setf s = .next { s with clmp := false, mbBusy := true })) ∧
    (Sys2Proof.Claims.InHand s 0x11 → s.lockWaits = false →
      (s.targetOk = false → exec .setv s = .next (s.mbFinish 2)) ∧
      (s.targetOk = true → exec .setv s = .next { s with mbBusy := true })) ∧
    (s.mbOp = 0x10 → (s.targetOk = true ↔ ∀ d, d < 10 → fiMv (arg 0 % 4) ≤ viMv (vget 0 s.vi d).toNat)) ∧
    (s.mbOp = 0x11 → (s.targetOk = true ↔ (∃ d, d < 10 ∧ (vget 0 s.mbArgs 0).getLsbD d = true) →
      fiMv s.fi.toNat ≤ viMv (arg 1 % 4))) ∧
    (let kind := arg 0 % 256
     let idx := arg 1
     (Sys2Proof.Claims.InHand s 0x12 →
       (s.gated kind idx = some false → s.gateBusy kind idx = true → exec .gate s = .next (s.mbFinish 1)) ∧
       (s.gated kind idx = some false → s.gateBusy kind idx = false →
         exec .gate s = .next ((s.setGate kind idx true).mbFinish 0)) ∧
       (s.gated kind idx ≠ some false → exec .gate s = .next (s.mbFinish 2))) ∧
     (Sys2Proof.Claims.InHand s 0x13 →
       (s.gated kind idx = some true → exec .ungate s = .next { s with mbBusy := true }) ∧
       (s.gated kind idx ≠ some true → exec .ungate s = .next (s.mbFinish 2)))) ∧
    (Sys2Proof.Claims.InHand s 0x14 →
      let d := arg 0 % 16
      (d < 8 → exec .resetd s = .next { s.resetDie d with mbBusy := true }) ∧
      (d = 9 → exec .resetd s = .next { s.takeOver.resetDie 9 with mbBusy := true }) ∧
      (d = 8 ∨ 9 < d → exec .resetd s = .next (s.mbFinish 2)) ∧
      (∀ e a, dieOf a = e → (s.resetDie e).gmem.get a = 0) ∧
      (∀ e, (s.resetDie e).resetting = some e ∧ (∀ q, q < 16 → q / 2 = e → ((s.resetDie e).port q).st = 0) ∧
        (∀ z ∈ (s.resetDie e).tlbs, z.die ≠ e) ∧ (e = 9 → ((s.resetDie e).mg 1) = Mgmt.reset))) ∧
    (Sys2Proof.Claims.InHand s 0x20 →
      (arg 6 % 64 = 0 → exec .attest s =
        .next ({ s with hmem := s.hmem.write (arg 6) s.attestation, free := s.free + 8 }.mbFinish 0)) ∧
      (arg 6 % 64 ≠ 0 → exec .attest s = .next (s.mbFinish 2))) ∧
    (Sys2Proof.Claims.InHand s 0x30 →
      exec .fwd s = .next (({ s with hcb := some (s.mbCmd, s.mbArgs), mbBusy := true }.acceptWide Config.hostCmd
        ((hcbBytes s.mbCmd s.mbArgs).map some)).hostDbl))

/-- R387, R395, R396, R398, R400: a command that takes time ends: an ungated unit is powered, every die is in the state asked
for, not before the clock locks of the dies that it names are over, and a target that a clamp has meanwhile made illegal ends
as CLAMPED with no change. -/
def Sys2Proof.Claims.SlowCommandsEnd : Prop :=
  ∀ s : State, s.mbDone = false → s.mbBusy = true →
    let arg (i : Nat) : Nat := (vget 0 s.mbArgs i).toNat
    (s.mbOp = 0x13 → exec .ungateComplete s = .next ((s.setGate (arg 0 % 256) (arg 1) false).mbFinish 0)) ∧
    (s.lockWaits = true → s.mbOp = 0x10 ∨ s.mbOp = 0x11 →
      exec .powerStateReached s = .refused (.notEnabled "POWER_STATE_REACHED")) ∧
    (s.mbOp = 0x10 ∨ s.mbOp = 0x11 → s.lockWaits = false → s.targetOk = false → exec .powerStateReached s = .next (s.mbFinish 5)) ∧
    (s.mbOp = 0x10 → s.lockWaits = false → s.targetOk = true →
      exec .powerStateReached s = .next ({ s with fi := BitVec.ofNat 2 (arg 0) }.mbFinish 0)) ∧
    (s.mbOp = 0x11 → s.lockWaits = false → s.targetOk = true → ∃ t, exec .powerStateReached s = .next t ∧
      t = { s with vi := t.vi }.mbFinish 0 ∧
      ∀ d, d < 10 → (vget 0 t.vi d : BitVec 2) =
        if (vget 0 s.mbArgs 0).getLsbD d then BitVec.ofNat 2 (arg 1) else vget 0 s.vi d)

/-- R387, R389, R390, R393 to R396, R398 to R400: the mailbox and its commands. What is free or chosen is in logs 13, 61, 62
and 64. -/
def Obligations.Mailbox : Prop :=
  Sys2Proof.Claims.Doorbells ∧ Sys2Proof.Claims.BootCommands ∧ Sys2Proof.Claims.FirmwareCommands ∧
  Sys2Proof.Claims.SlowCommandsEnd

/-! ## The machine as a whole -/

/-- R64: s0 reads 0 and p0 reads all ones, a write of either is discarded, and two writes of either that perform in one cycle
are no conflict. -/
def Obligations.HardWiredRegisters : Prop :=
  ∀ (c : Core) (v : BitVec 64) (b : BitVec 1024), c.rs 0 = 0 ∧ c.ws 0 v = c ∧ c.rp 0 = BitVec.allOnes 1024 ∧ c.wp 0 b = c ∧
    (∀ d e : SReg, d ≠ 0 → (c.ws d v).rs e = if e = d then v else c.rs e) ∧
    ((∀ p ∈ c.pend, (∃ w, p.act = .wS 0 w) ∨ ∃ w, p.act = .wP 0 w) → c.fetches = [] → ∀ now, losers (c.writesDue now) = [])

/-- R19, R77, R121, R122: the local accesses of a core perform on its wall: a store writes its bytes, and every other byte
and register is as before; a load's value is due at issue+4 and the wall is unchanged. -/
def Sys2Proof.Claims.LocalAccessesPerform : Prop :=
  ∀ (s : State) (t : Nat) (tr : Troupe) (c : Core) (p : Pend), s.troupe? t = some tr → tr.cores = [c] → c.pend = [p] →
    c.fetches = [] → p.due ≤ tr.adv → c.bank.wf = true →
    (∀ (v : BitVec 64) (a size : Nat), p.act = .stb v a size none → size ≤ 8 → vget 0 c.holder (a / 65536) = c.loc % 4 →
      ∃ u k, exec (.resultPerforms (.troupe t)) s = .next u ∧ u.core? (.core t 0) = some k ∧ k.pend = [] ∧ k.s = c.s ∧
        k.tarr = c.tarr ∧
        ∀ x, k.bank.get x = if a ≤ x ∧ x < a + size then BitVec.ofNat 8 (v.toNat / 2 ^ (8 * (x - a))) else c.bank.get x) ∧
    (∀ (d : SReg) (a size : Nat) (sx : Bool), p.act = .ldb d a size sx none → vget 0 c.holder (a / 65536) = c.loc % 4 →
      ∃ u k, exec (.resultPerforms (.troupe t)) s = .next u ∧ u.core? (.core t 0) = some k ∧ k.bank = c.bank ∧ k.s = c.s ∧
        k.pend = [{ p with due := p.iss + 4, act := .wS d (extend size sx (c.bank.num a size)) }])

/-- R19, R20, R77, R121, R122: what is due performs: registers, and the local memory of a core. -/
def Obligations.ResultsPerform : Prop :=
  Sys2Proof.Claims.DueResults ∧ Sys2Proof.Claims.LocalAccessesPerform

/-- A step runs the decoded instruction (R89, R94, R97, R210, R274): the word that a core or a management core has reached,
and the next input whose time has come, have exactly the effect of `exec`; a word that does not decode raises its cause. A
Calliope word is judged with those of the other cores once every troupe has had its turn (R30, R239): reached before that it
is set aside, and reached after that it has its effect. -/
def Obligations.StepRunsInstruction : Prop :=
  (∀ (s : State) (t r w : Nat) (tr : Troupe) (c : Core), s.cursor = .word t r w → 2 ≤ w → w ≤ 7 → s.troupe? t = some tr →
    s.core? (.core t r) = some c → c.failed = false → (∀ k, c.stop = some k → w < k) → c.done.getLsbD w = false →
    let x : Iss := ⟨.core t r, w, tr.adv, c⟩
    let word := s.word (.core t r) c w
    let aside := c.late = none ∧ 6 ≤ w ∧ isCalliope w word = true
    (aside → step s = .next { s.setCore (.core t r) { c with late := some [] } with cursor := .bundle t (r + 1) }) ∧
    (¬ aside →
      (∀ i, s.fetchWord x (some tr.image) = .ok i → step s = exec i s) ∧
      (∀ e, s.fetchWord x (some tr.image) = .error e → step s = .next (s.except x (s.ownWord x) e)) ∧
      ((w = 5 → c.rtnOn = none) → (∀ i, decodeSlot w word = .ok i → step s = exec i s) ∧
        ∀ sub, decodeSlot w word = .bad sub → step s = .next (s.except x c { cause := 0x01, sub := sub })))) ∧
  (∀ (s : State) (m w : Nat), s.cursor = .mword m w → w = 2 ∨ w = 6 ∨ w = 7 → (s.mg m).core.done.getLsbD w = false →
    let c := (s.mg m).core
    (∀ i, decodeSlot w (s.word (.mgmt m) c w) = .ok i → step s = exec i s) ∧
    (∀ sub, decodeSlot w (s.word (.mgmt m) c w) = .bad sub →
      step s = .next (s.except ⟨.mgmt m, w, (s.mg m).adv, c⟩ c { cause := 0x01, sub := sub }))) ∧
  (∀ (s : State) (n : Nat) (i : Instr) (l : List (Nat × Instr)), s.cursor = .idle → s.trip = false → s.script = (n, i) :: l →
    n ≤ s.wall → step s = exec i { s with script := l })

/-- R95 to R97, R100 to R103, R139, R203, R214: words written out from the encodings of the spec decode to the instructions
they stand for: opcode in [63:56], the predicate in [55:51], the fields in their places; and the words reserved by R97 are
refused with their sub-cause. -/
def Obligations.WordsDecode : Prop :=
  -- add s3, s4, s5
  let t : Pd := { neg := false, reg := 0 }
  decodeSlot 2 0x0100620A00000000 = .ok (.add t 3 4 5) ∧
  -- the same under the inverted predicate p1
  decodeSlot 2 0x0188620A00000000 = .ok (.add { neg := true, reg := 1 } 3 4 5) ∧
  decodeSlot 2 0 = .ok .nop ∧
  -- the worked examples of the spec: cwait s20, s9, s10 with a deadline; eret; topk; radd; solve
  decodeSlot 2 0x510284940C000000 = .ok (.cwait t 20 9 10 0x0600) ∧
  decodeSlot 2 0x7A00000000000000 = .ok (.eret t) ∧
  decodeSlot 4 0x621A040E02800000 = .ok (.topk { neg := false, reg := 3 } .f32 false 8 2 7 false false 5) ∧
  decodeSlot 3 0x7003085000000000 = .ok (.radd t 12 4 5) ∧
  decodeSlot 3 0x6029931800200000 = .ok (.solve { neg := false, reg := 5 } true 6 9 12 2) ∧
  -- vadd v1, v2, v3; mzero a2; xcpy s1, s2, s3 five cycles late
  decodeSlot 3 0x0100443000000000 = .ok (.vadd t 1 2 3) ∧
  decodeSlot 5 0x0302000000000000 = .ok (.mzero t 2) ∧
  decodeSlot 6 0x0100028210600000 = .ok (.xcpy t 1 2 3 0 5) ∧
  -- a reserved bit, an unlisted opcode, a scan instruction in word 3
  decodeSlot 2 0x0100620A00000001 = .bad 4 ∧
  decodeSlot 2 0xFF00000000000000 = .bad 3 ∧
  decodeSlot 3 0x621A040E02800000 = .bad 6

/-- Decode and encode agree: every well-formed word, with every operand at every value, is read back from its encoding by the
decoder of its slot. -/
def Obligations.EncodeDecode : Prop :=
  ∀ i : Instr, i.WellFormed →
    (i.slot = .S → decodeOpS (encode i) = .ok i) ∧ (i.slot = .V → decodeOpV (encode i) = .ok i) ∧
    (i.slot = .M → decodeOpM (encode i) = .ok i) ∧ (i.slot = .C → decodeOpC (encode i) = .ok i)

/-- Every step keeps the three plain memories of the package in canonical form. -/
def Obligations.StepKeepsMemory : Prop :=
  ∀ s t : State, s.memWf = true → step s = .next t → t.memWf = true

/-- The memories of the reset state are in canonical form, and read 0 everywhere (log 4 names the value). -/
def Obligations.ResetMemory : Prop :=
  State.reset.memWf = true ∧ ∀ a, State.reset.gmem.get a = 0 ∧ State.reset.sram.get a = 0

/-- What the spec gives at reset: R389 the management cores held, no core released; R266 hypervisor level, interrupts off;
R280 FRQ_SIZE 4; R300 EN_GRACE 0x100000; R320 LAST 63; R357 four live planes and the default map; R356 QTMO and TMO; R362
every port OFF with the identity lane map; R372 every die serves its own counters; R402 VMIN 0xFFFF; R325 no partition. -/
def Obligations.ResetValues : Prop :=
  let s := State.reset
  s.released = false ∧ s.booted = false ∧ s.troupes = [] ∧ s.live = 0xF ∧ s.tmo = 0x100000 ∧ s.qtmo = 0x100000 ∧
  s.hpCfg = 0 ∧ s.trip = false ∧ s.ctrs = [] ∧
  (∀ m, m < 2 → (s.mg m).run = false ∧ (s.mg m).lvl = 2 ∧ (s.mg m).ien = false ∧ (s.mg m).part = 0) ∧
  (∀ p, p < 12 → (s.bank p).frqLsz = 4 ∧ (s.bank p).grace = 0x100000 ∧ (s.bank p).ip = 0 ∧ (s.bank p).ie = 0 ∧
    (s.part p).exist = false ∧ vget 0 s.last p = 63) ∧
  (∀ d, d < 10 → vget 0 s.dir d = BitVec.ofNat 4 d ∧ (vget Mon.reset s.mons d).droop.map (· % 2 ^ 16) = List.replicate 8 0xFFFF) ∧
  (∀ b, b < 64 → vget 0 s.pmap b = BitVec.ofNat 2 (b % 4)) ∧
  (∀ q, q < 16 → (s.port q).st = 0 ∧ (s.port q).lmap = 0x76543210 ∧ (s.port q).act = false) ∧
  (∀ v, v < 96 → (s.vf v).en = false ∧ (s.vf v).part = 0xF)
end

