-- ==== Sys2Proof/Laws/Memory.lean ====
section
/-!
SUPPORT. Byte memories: every operation keeps the canonical form, and a read after a write.
-/

namespace Sys2Proof.Machine

/-- The canonical form as two facts about the list. -/
theorem Mem.wf_iff (m : Mem) : m.wf = true ↔ (∀ c ∈ m, c.2 ≠ 0) ∧ m.Pairwise fun c d => c.1 < d.1 := by
  induction m with
  | nil => simp [Mem.wf]
  | cons c m ih =>
    cases m with
    | nil => simp [Mem.wf]
    | cons d l =>
      simp only [Mem.wf, Bool.and_eq_true, decide_eq_true_eq, ih, List.pairwise_cons]
      constructor
      · rintro ⟨⟨h1, h2⟩, h3, h4, h5⟩
        refine ⟨?_, ?_, h4, h5⟩
        · intro x hx
          rcases List.mem_cons.1 hx with rfl | hx
          · exact of_decide_eq_true (by simpa using h1)
          · exact h3 x hx
        · intro x hx
          rcases List.mem_cons.1 hx with rfl | hx
          · exact h2
          · exact Nat.lt_trans h2 (h4 x hx)
      · rintro ⟨h1, h2, h4, h5⟩
        refine ⟨⟨by simpa using h1 c (by simp), h2 d (by simp)⟩, fun x hx => h1 x (by simp [hx]), h4, h5⟩

theorem Mem.wf_nil : Mem.wf [] = true := rfl

/-- Every address that `set` lists was listed, or is the one written. -/
theorem Mem.mem_set {m : Mem} {a : Nat} {b : Byte} {c : Host.Cell} (h : c ∈ m.set a b) :
    c ∈ m ∨ (c = (a, b) ∧ b ≠ 0) := by
  induction m with
  | nil => unfold Mem.set at h; split at h <;> simp_all
  | cons d m ih =>
    unfold Mem.set at h
    split at h
    · split at h
      · exact .inl h
      · rename_i hb
        rcases List.mem_cons.1 h with rfl | h
        · exact .inr ⟨rfl, hb⟩
        · exact .inl h
    · split at h
      · split at h
        · exact .inl (List.mem_cons_of_mem _ h)
        · rename_i hb
          rcases List.mem_cons.1 h with rfl | h
          · exact .inr ⟨rfl, hb⟩
          · exact .inl (List.mem_cons_of_mem _ h)
      · rcases List.mem_cons.1 h with rfl | h
        · simp
        · rcases ih h with h | h
          · exact .inl (List.mem_cons_of_mem _ h)
          · exact .inr h

/-- A write of one byte keeps the canonical form. -/
theorem Mem.wf_set {m : Mem} (h : m.wf = true) (a : Nat) (b : Byte) : (m.set a b).wf = true := by
  rw [Mem.wf_iff] at h ⊢
  obtain ⟨hz, hs⟩ := h
  refine ⟨fun c hc => ?_, ?_⟩
  · rcases Mem.mem_set hc with hc | ⟨rfl, hb⟩
    · exact hz c hc
    · exact hb
  · clear hz
    induction m with
    | nil => unfold Mem.set; split <;> simp
    | cons d m ih =>
      rw [List.pairwise_cons] at hs
      unfold Mem.set
      split
      · rename_i had
        split
        · exact List.pairwise_cons.2 hs
        · refine List.pairwise_cons.2 ⟨fun x hx => ?_, List.pairwise_cons.2 hs⟩
          rcases List.mem_cons.1 hx with rfl | hx
          · exact had
          · exact Nat.lt_trans had (hs.1 x hx)
      · split
        · rename_i had
          split
          · exact hs.2
          · exact List.pairwise_cons.2 ⟨fun x hx => had ▸ hs.1 x hx, hs.2⟩
        · refine List.pairwise_cons.2 ⟨fun x hx => ?_, ih hs.2⟩
          rcases Mem.mem_set hx with hx | ⟨rfl, -⟩
          · exact hs.1 x hx
          · show d.1 < a
            omega

theorem Mem.wf_write {m : Mem} (h : m.wf = true) (a : Nat) (l : List Byte) : (m.write a l).wf = true := by
  induction l generalizing m a with
  | nil => exact h
  | cons b l ih => exact ih (Mem.wf_set h a b) (a + 1)

theorem Mem.wf_writeO {m : Mem} (h : m.wf = true) (a : Nat) (l : List (Option Byte)) : (m.writeO a l).wf = true := by
  induction l generalizing m a with
  | nil => exact h
  | cons b l ih =>
    cases b with
    | none => exact ih h (a + 1)
    | some b => exact ih (Mem.wf_set h a b) (a + 1)

theorem Mem.wf_putNum {m : Mem} (h : m.wf = true) (a n v : Nat) : (m.putNum a n v).wf = true := Mem.wf_write h a _

theorem Mem.wf_move {m : Mem} (h : m.wf = true) (o a n : Nat) : (m.move o a n).wf = true := Mem.wf_write h a _

/-- What a reset of a die leaves. -/
theorem Mem.wf_filter {m : Mem} (h : m.wf = true) (p : Host.Cell → Bool) : Mem.wf (m.filter p) = true := by
  rw [Mem.wf_iff] at h ⊢
  exact ⟨fun c hc => h.1 c (List.mem_filter.1 hc).1, h.2.filter p⟩

/-- An address below every listed one reads 0. -/
theorem Mem.get_below {m : Mem} {a : Nat} (h : ∀ c ∈ m, a < c.1) : m.get a = 0 := by
  induction m with
  | nil => rfl
  | cons c m ih =>
    have := h c (by simp)
    rw [Mem.get, if_neg (by omega)]
    exact ih fun x hx => h x (by simp [hx])

/-- Reading one byte after writing one. -/
theorem Mem.get_set {m : Mem} (h : m.wf = true) (a : Nat) (b : Byte) (x : Nat) :
    (m.set a b).get x = if x = a then b else m.get x := by
  rw [Mem.wf_iff] at h
  replace h := h.2
  induction m with
  | nil =>
    unfold Mem.set
    split
    · rename_i hb; subst hb; simp [Mem.get]
    · simp [Mem.get, eq_comm]
  | cons c m ih =>
    rw [List.pairwise_cons] at h
    unfold Mem.set
    split
    · rename_i hac
      split
      · rename_i hb
        subst hb
        by_cases hx : x = a
        · subst hx
          rw [if_pos rfl]
          refine Mem.get_below fun y hy => ?_
          rcases List.mem_cons.1 hy with rfl | hy
          · exact hac
          · exact Nat.lt_trans hac (h.1 y hy)
        · rw [if_neg hx]
      · by_cases hx : x = a
        · subst hx; simp [Mem.get]
        · rw [Mem.get, if_neg (fun e => hx e.symm), if_neg hx]
    · split
      · rename_i hac
        split
        · rename_i hb
          subst hb
          by_cases hx : x = a
          · subst hx
            rw [if_pos rfl]
            exact Mem.get_below fun y hy => hac ▸ h.1 y hy
          · rw [if_neg hx]
            conv_rhs => rw [Mem.get, if_neg (by omega)]
        · by_cases hx : x = a
          · subst hx; simp [Mem.get]
          · rw [if_neg hx]
            simp only [Mem.get]
            rw [if_neg (fun e => hx e.symm), if_neg (by omega)]
      · rename_i h1 h2
        simp only [Mem.get]
        by_cases hc : c.1 = x
        · rw [if_pos hc, if_pos hc, if_neg (by omega)]
        · rw [if_neg hc, if_neg hc]
          exact ih h.2

/-- Reading one byte after writing several. -/
theorem Mem.get_write {m : Mem} (h : m.wf = true) (a : Nat) (l : List Byte) (x : Nat) :
    (m.write a l).get x = if a ≤ x ∧ x < a + l.length then l.getD (x - a) 0 else m.get x := by
  induction l generalizing m a with
  | nil => rw [if_neg (by simp only [List.length_nil]; omega)]; rfl
  | cons b l ih =>
    rw [Mem.write, ih (Mem.wf_set h a b), Mem.get_set h]
    simp only [List.length_cons]
    by_cases h1 : x = a
    · subst h1
      rw [if_neg (by omega), if_pos rfl, if_pos (by omega)]
      simp
    · rw [if_neg h1]
      by_cases h2 : a + 1 ≤ x ∧ x < a + 1 + l.length
      · rw [if_pos h2, if_pos (by omega)]
        obtain ⟨k, rfl⟩ : ∃ k, x = a + 1 + k := ⟨x - (a + 1), by omega⟩
        have e1 : a + 1 + k - (a + 1) = k := by omega
        have e2 : a + 1 + k - a = k + 1 := by omega
        rw [e1, e2, List.getD_cons_succ]
      · rw [if_neg h2, if_neg (by omega)]

/-- A read of the bytes just written. -/
theorem Mem.read_write {m : Mem} (h : m.wf = true) (a : Nat) (l : List Byte) :
    (m.write a l).read a l.length = l := by
  refine List.ext_getElem? fun i => ?_
  rw [Mem.read, getElem?_tab]
  by_cases hi : i < l.length
  · rw [if_pos hi, Mem.get_write h, if_pos (by omega)]
    simp [hi]
  · rw [if_neg hi, List.getElem?_eq_none (by omega)]

/-- A write of all the bytes of a list is a plain write. -/
theorem Mem.writeO_some (m : Mem) (a : Nat) (l : List Byte) : m.writeO a (l.map some) = m.write a l := by
  induction l generalizing m a with
  | nil => rfl
  | cons b l ih => exact ih _ _

end Sys2Proof.Machine
end

