-- ==== Sys2Proof/Laws/Network.lean ====
section
/-!
SUPPORT. The network of R73 under the setting that `solve` stores (log 11): `portOf_solveSw`, every line leaves from the
port that it is routed to. The colouring of the loop differs on the two lines of every switch, each half is again a
permutation, and the path of a line through the stages follows the halves.
-/

namespace Sys2Proof.Laws.Network

open Sys2Proof Sys2Proof.Machine

theorem tab_eq_map {α : Type} (n : Nat) (f : Nat → α) : tab n f = (List.range n).map f := by
  apply List.ext_getElem?; intro i
  rw [getElem?_tab]
  by_cases h : i < n <;> simp [h]

theorem getD_set {α : Type} (a : Array α) (i j : Nat) (x d : α) :
    (a.setIfInBounds i x).getD j d = if i = j ∧ j < a.size then x else a.getD j d := by
  simp only [Array.getD_eq_getD_getElem?, Array.getElem?_setIfInBounds]
  split <;> rename_i h
  · subst h; by_cases h2 : i < a.size <;> simp [h2]
  · simp [h]

/-- The lines of `src` are those below `n`, each once. -/
def Perm (n : Nat) (src : Array Nat) : Prop :=
  (∀ i, i < n → src.getD i 0 < n) ∧ ∀ i j, i < n → j < n → src.getD i 0 = src.getD j 0 → i = j

theorem Perm.onto {n : Nat} {src : Array Nat} (h : Perm n src) (q : Nat) (hq : q < n) :
    ∃ e, e < n ∧ src.getD e 0 = q := by
  let f : Fin n → Fin n := fun i => ⟨src.getD i 0, h.1 i i.2⟩
  have hi : Function.Injective f := fun a b hab => Fin.ext (h.2 a b a.2 b.2 (by simpa [f] using hab))
  obtain ⟨e, he⟩ := Finite.injective_iff_surjective.mp hi ⟨q, hq⟩
  exact ⟨e, e.2, by simpa [f] using congrArg Fin.val he⟩

theorem inversePerm_left {n : Nat} {src : Array Nat} (h : Perm n src) (e : Nat) (he : e < n) :
    (inversePerm n src).getD (src.getD e 0) 0 = e := by
  have key : ∀ (l : List Nat) (a : Array Nat), a.size = n → (∀ x ∈ l, x < n) →
      (e ∈ l ∨ a.getD (src.getD e 0) 0 = e) →
      (l.foldl (fun a e => a.setIfInBounds (src.getD e 0) e) a).getD (src.getD e 0) 0 = e := by
    intro l
    induction l with
    | nil => intro a _ _ hx; simpa using hx
    | cons x l ih =>
      intro a hs hl hx
      have hxn : x < n := hl x (by simp)
      refine ih _ (by simpa using hs) (fun y hy => hl y (by simp [hy])) ?_
      rw [getD_set, hs]
      by_cases hxe : x = e
      · subst hxe; exact .inr (if_pos ⟨rfl, h.1 x hxn⟩)
      · have : src.getD x 0 ≠ src.getD e 0 := fun hh => hxe (h.2 x e hxn he hh)
        rw [if_neg (by simp only [not_and]; intro hh; exact absurd hh this)]
        rcases hx with hx | hx
        · rcases List.mem_cons.mp hx with hx | hx
          · exact absurd hx.symm hxe
          · exact .inl hx
        · exact .inr hx
  exact key _ _ (by simp) (by simp [tab_eq_map]) (.inl (by simp [tab_eq_map, he]))

theorem inversePerm_right {n : Nat} {src : Array Nat} (h : Perm n src) (q : Nat) (hq : q < n) :
    (inversePerm n src).getD q 0 < n ∧ src.getD ((inversePerm n src).getD q 0) 0 = q := by
  obtain ⟨e, he, rfl⟩ := h.onto q hq
  rw [inversePerm_left h e he]; exact ⟨he, rfl⟩

/-- The other line of the pair (i, i + h). -/
def opp (h e : Nat) : Nat := (e + h) % (2 * h)

theorem opp_lt {h e : Nat} (he : e < 2 * h) : opp h e < 2 * h := Nat.mod_lt _ (by omega)
theorem opp_eq {h e : Nat} (he : e < 2 * h) : opp h e = if e < h then e + h else e - h := by
  unfold opp; split
  · exact Nat.mod_eq_of_lt (by omega)
  · rw [show e + h = (e - h) + 2 * h by omega, Nat.add_mod_right]; exact Nat.mod_eq_of_lt (by omega)
theorem opp_opp {h e : Nat} (he : e < 2 * h) : opp h (opp h e) = e := by
  rw [opp_eq (opp_lt he), opp_eq he]; split <;> split <;> omega
theorem opp_ne {h e : Nat} (he : e < 2 * h) (hp : 0 < h) : opp h e ≠ e := by
  rw [opp_eq he]; split <;> omega

theorem mod_half {h x : Nat} (hx : x < 2 * h) : x % h = if x < h then x else x - h := by
  split
  · exact Nat.mod_eq_of_lt ‹_›
  · rw [Nat.mod_eq_sub_mod (by omega)]; exact Nat.mod_eq_of_lt (by omega)

/-- The output whose input shares a switch with the input of `e`. -/
def mate (h : Nat) (src : Array Nat) (e : Nat) : Nat :=
  (inversePerm (2 * h) src).getD (opp h (src.getD e 0)) 0

section
variable {h : Nat} {src : Array Nat} (hp : Perm (2 * h) src)
include hp

theorem mate_lt {e : Nat} (he : e < 2 * h) : mate h src e < 2 * h :=
  (inversePerm_right hp _ (opp_lt (hp.1 e he))).1
theorem src_mate {e : Nat} (he : e < 2 * h) : src.getD (mate h src e) 0 = opp h (src.getD e 0) :=
  (inversePerm_right hp _ (opp_lt (hp.1 e he))).2
theorem mate_mate {e : Nat} (he : e < 2 * h) : mate h src (mate h src e) = e := by
  have h1 := src_mate hp he
  apply hp.2 _ _ (mate_lt hp (mate_lt hp he)) he
  rw [src_mate hp (mate_lt hp he), h1, opp_opp (hp.1 e he)]
theorem mate_ne {e : Nat} (he : e < 2 * h) (h0 : 0 < h) : mate h src e ≠ e := by
  intro hh
  have h1 := src_mate hp he
  rw [hh] at h1
  exact opp_ne (hp.1 e he) h0 h1.symm
end

/-- The colour of a line, if it has one. -/
def colourOf (col : Array (Option Bool)) (e : Nat) : Option Bool := col.getD e none

/-- A colouring in which each coloured output and its partner differ, and each but those named and its mate. -/
structure Partly (h : Nat) (src : Array Nat) (s e : Nat) (col : Array (Option Bool)) : Prop where
  size : col.size = 2 * h
  out : ∀ x b, x < 2 * h → colourOf col x = some b → colourOf col (opp h x) = some (!b)
  inp : ∀ x b, x < 2 * h → colourOf col x = some b → x ≠ s → x ≠ mate h src e → colourOf col (mate h src x) = some (!b)
  now : colourOf col e = none ∨ e = s
  start : (e = s ∧ colourOf col s = none ∧ colourOf col (mate h src e) = none) ∨ (colourOf col s = some false ∧ colourOf col (mate h src e) = some true)

/-- A colouring in which partners differ and mates differ, wherever it colours. -/
structure Proper (h : Nat) (src : Array Nat) (col : Array (Option Bool)) : Prop where
  size : col.size = 2 * h
  out : ∀ x b, x < 2 * h → colourOf col x = some b → colourOf col (opp h x) = some (!b)
  inp : ∀ x b, x < 2 * h → colourOf col x = some b → colourOf col (mate h src x) = some (!b)

/-- What is not coloured yet. -/
def bare (h : Nat) (col : Array (Option Bool)) : Finset Nat := (Finset.range (2 * h)).filter fun x => colourOf col x = none

theorem Partly.next {h : Nat} {src : Array Nat} (hp : Perm (2 * h) src) (h0 : 0 < h) {s e : Nat}
    {col : Array (Option Bool)} (he : e < 2 * h) (hc : Partly h src s e col) (hn : colourOf col e = none) :
    let col' := (col.setIfInBounds e (some false)).setIfInBounds (opp h e) (some true)
    Partly h src s (mate h src (opp h e)) col' ∧ (bare h col').card < (bare h col).card ∧
      (∀ x, colourOf col x ≠ none → colourOf col' x = colourOf col x) ∧ colourOf col' e = some false := by
  intro col'
  have ho := opp_lt he
  have hne := opp_ne he h0
  have hcol : ∀ x, colourOf col' x = if x = opp h e then some true else if x = e then some false else colourOf col x := by
    intro x
    simp only [col', colourOf, getD_set, Array.size_setIfInBounds, hc.size]
    by_cases h1 : x = opp h e
    · subst h1; simp [ho]
    · by_cases h2 : x = e
      · subst h2; simp [h1, Ne.symm h1, he]
      · simp [h1, h2, Ne.symm h1, Ne.symm h2]
  have hon : colourOf col (opp h e) = none := by
    cases hh : colourOf col (opp h e) with
    | none => rfl
    | some b => have := hc.out _ b ho hh; rw [opp_opp he, hn] at this; cases this
  have hce : colourOf col' e = some false := by simp [hcol, Ne.symm hne]
  have hco : colourOf col' (opp h e) = some true := by simp [hcol]
  have hold : ∀ x, colourOf col x ≠ none → colourOf col' x = colourOf col x := by
    intro x hx
    rw [hcol, if_neg (by rintro rfl; exact hx hon), if_neg (by rintro rfl; exact hx hn)]
  have hm : mate h src (mate h src (opp h e)) = opp h e := mate_mate hp ho
  refine ⟨⟨by simp [col', hc.size], ?_, ?_, ?_, ?_⟩, ?_, hold, hce⟩
  · intro x b hx hb
    by_cases h1 : x = opp h e
    · subst h1; rw [opp_opp he, hce]; rw [hco] at hb; cases hb; rfl
    · by_cases h2 : x = e
      · subst h2; rw [hco]; rw [hce] at hb; cases hb; rfl
      · rw [hcol, if_neg h1, if_neg h2] at hb
        have := hc.out x b hx hb
        rw [hold _ (by simp [this]), this]
  · intro x b hx hb hxs hxm
    rw [hm] at hxm
    by_cases h2 : x = e
    · subst h2
      rw [hce] at hb; cases hb
      rcases hc.start with ⟨h3, _⟩ | ⟨_, h3⟩
      · exact absurd h3 hxs
      · rw [hold _ (by simp [h3]), h3]; rfl
    · rw [hcol, if_neg hxm, if_neg h2] at hb
      by_cases h3 : x = mate h src e
      · subst h3
        rw [mate_mate hp he, hce]
        rcases hc.start with ⟨_, _, h4⟩ | ⟨_, h4⟩
        · rw [h4] at hb; cases hb
        · rw [h4] at hb; cases hb; rfl
      · have := hc.inp x b hx hb hxs h3
        rw [hold _ (by simp [this]), this]
  · by_cases hfs : mate h src (opp h e) = s
    · exact .inr hfs
    · left
      have hf := mate_lt hp ho
      have hfm : mate h src (opp h e) ≠ mate h src e := by
        intro hh; rw [hh, mate_mate hp he] at hm; exact hne hm.symm
      have hfe : mate h src (opp h e) ≠ e := by
        intro hh; rw [hh] at hm
        rcases hc.start with ⟨h3, _⟩ | ⟨_, h3⟩
        · exact hfs (hh.trans h3)
        · rw [hm, hon] at h3; cases h3
      rw [hcol, if_neg (mate_ne hp ho h0), if_neg hfe]
      cases hh : colourOf col (mate h src (opp h e)) with
      | none => rfl
      | some b =>
        have := hc.inp _ b hf hh hfs hfm
        rw [hm, hon] at this; cases this
  · right
    rw [hm, hco]
    refine ⟨?_, rfl⟩
    rcases hc.start with ⟨h3, _⟩ | ⟨h3, _⟩
    · rw [← h3, hce]
    · rw [hold _ (by simp [h3]), h3]
  · apply Finset.card_lt_card
    refine ⟨?_, ?_⟩
    · intro x hx
      simp only [bare, Finset.mem_filter] at hx ⊢
      refine ⟨hx.1, ?_⟩
      by_contra hh; rw [hold x hh] at hx; exact hh hx.2
    · intro hsub
      have : e ∈ bare h col' := hsub (by simp [bare, he, hn])
      simp [bare, hce] at this

theorem Partly.proper {h : Nat} {src : Array Nat} (hp : Perm (2 * h) src) {s e : Nat} {col : Array (Option Bool)}
    (hs : s < 2 * h) (hc : Partly h src s e col) (hb : colourOf col e ≠ none) :
    Proper h src col ∧ colourOf col s ≠ none := by
  have hes : e = s := hc.now.resolve_left hb
  subst hes
  obtain ⟨h1, h2⟩ : colourOf col e = some false ∧ colourOf col (mate h src e) = some true :=
    hc.start.resolve_left fun h => hb h.2.1
  refine ⟨⟨hc.size, hc.out, ?_⟩, hb⟩
  intro x b hx hxb
  by_cases h3 : x = e
  · subst h3; rw [h2]; rw [h1] at hxb; cases hxb; rfl
  · by_cases h4 : x = mate h src e
    · subst h4; rw [mate_mate hp hs, h1]; rw [h2] at hxb; cases hxb; rfl
    · exact hc.inp x b hx hxb h3 h4

theorem colourChain_proper {h : Nat} {src : Array Nat} (hp : Perm (2 * h) src) (h0 : 0 < h) {s : Nat} (hs : s < 2 * h) :
    ∀ (fuel e : Nat) (col : Array (Option Bool)), e < 2 * h → (bare h col).card ≤ fuel → Partly h src s e col →
      let col' := colourChain h src (inversePerm (2 * h) src) fuel e col
      Proper h src col' ∧ colourOf col' s ≠ none ∧ ∀ x, colourOf col x ≠ none → colourOf col' x ≠ none := by
  intro fuel
  induction fuel with
  | zero =>
    intro e col he hb hc
    have : colourOf col e ≠ none := by
      intro hn
      have : e ∈ bare h col := by simp [bare, he, hn]
      rw [Finset.card_eq_zero.mp (by omega : (bare h col).card = 0)] at this
      simp at this
    obtain ⟨h1, h2⟩ := hc.proper hp hs this
    exact ⟨h1, h2, fun _ h => h⟩
  | succ fuel ih =>
    intro e col he hb hc
    simp only [colourChain]
    cases hn : col.getD e none with
    | some b =>
      obtain ⟨h1, h2⟩ := hc.proper hp hs (by simp [colourOf, hn])
      exact ⟨h1, h2, fun _ h => h⟩
    | none =>
      obtain ⟨h1, h2, h3, _⟩ := hc.next hp h0 he hn
      obtain ⟨h4, h5, h6⟩ := ih (mate h src (opp h e)) _ (mate_lt hp (opp_lt he)) (by omega) h1
      exact ⟨h4, h5, fun x hx => h6 x (by rw [h3 x hx]; exact hx)⟩

/-- The colouring of `routeBits` colours every line properly. -/
theorem colouring_proper {h : Nat} {src : Array Nat} (hp : Perm (2 * h) src) (h0 : 0 < h) :
    let col := (tab h id).foldl (fun c e => colourChain h src (inversePerm (2 * h) src) (2 * h) e c) (Array.replicate (2 * h) none)
    Proper h src col ∧ ∀ x, x < 2 * h → colourOf col x ≠ none := by
  have key : ∀ (l : List Nat) (col : Array (Option Bool)), (∀ x ∈ l, x < h) → Proper h src col →
      let col' := l.foldl (fun c e => colourChain h src (inversePerm (2 * h) src) (2 * h) e c) col
      Proper h src col' ∧ ∀ x, (x ∈ l ∨ colourOf col x ≠ none) → colourOf col' x ≠ none := by
    intro l
    induction l with
    | nil => intro col _ hc; exact ⟨hc, by simp⟩
    | cons s l ih =>
      intro col hl hc
      have hs : s < h := hl s (by simp)
      have hcard : (bare h col).card ≤ 2 * h := by
        simpa [bare] using Finset.card_filter_le (Finset.range (2 * h)) fun x => colourOf col x = none
      have step : let col' := colourChain h src (inversePerm (2 * h) src) (2 * h) s col
          Proper h src col' ∧ colourOf col' s ≠ none ∧ ∀ x, colourOf col x ≠ none → colourOf col' x ≠ none := by
        cases hn : colourOf col s with
        | none =>
          refine colourChain_proper hp h0 (by omega) _ _ _ (by omega) hcard
            ⟨hc.size, hc.out, fun x b hx hb _ _ => hc.inp x b hx hb, .inl hn, .inl ⟨rfl, hn, ?_⟩⟩
          cases hm : colourOf col (mate h src s) with
          | none => rfl
          | some b =>
            have := hc.inp _ b (mate_lt hp (by omega)) hm
            rw [mate_mate hp (by omega), hn] at this; cases this
        | some b =>
          have : colourChain h src (inversePerm (2 * h) src) (2 * h) s col = col := by
            rw [show 2 * h = (2 * h - 1) + 1 by omega, colourChain]
            simp only [colourOf] at hn
            rw [hn]
          rw [this]; exact ⟨hc, by simp [hn], fun _ h => h⟩
      obtain ⟨h1, h2, h3⟩ := step
      obtain ⟨h4, h5⟩ := ih _ (fun x hx => hl x (by simp [hx])) h1
      refine ⟨h4, fun x hx => h5 x ?_⟩
      rcases hx with hx | hx
      · rcases List.mem_cons.mp hx with rfl | hx
        · exact .inr h2
        · exact .inl hx
      · exact .inr (h3 x hx)
  obtain ⟨h1, h2⟩ := key (tab h id) (Array.replicate (2 * h) none) (by simp [tab_eq_map])
    (by
      have h0 : ∀ x, colourOf (Array.replicate (2 * h) none) x = none := by
        intro x; simp only [colourOf, Array.getD_eq_getD_getElem?, Array.getElem?_replicate]; split <;> rfl
      exact ⟨by simp, fun x b _ hb => (by rw [h0] at hb; cases hb), fun x b _ hb => (by rw [h0] at hb; cases hb)⟩)
  refine ⟨h1, fun x hx => ?_⟩
  by_cases hxh : x < h
  · exact h2 x (.inl (by simp [tab_eq_map, hxh]))
  · have ho : opp h x < h := by rw [opp_eq hx, if_neg hxh]; omega
    have := h2 (opp h x) (.inl (by simp [tab_eq_map, ho]))
    cases hc : colourOf _ (opp h x) with
    | none => exact absurd hc this
    | some b => have := h1.out _ b (by omega) hc; rw [opp_opp hx] at this; rw [this]; simp

/-! ## The bits of the switches -/

/-- The stages of the sub-network of 2^n lines, in the order in which a path from an output meets them. -/
def stagesOf : Nat → List Nat
  | 0 => []
  | lv + 1 => if lv = 0 then [9] else (9 + lv) :: (stagesOf lv ++ [9 - lv])

theorem stagesOf_mem {n s : Nat} (hn : n ≤ 10) (hs : s ∈ stagesOf n) : 10 ≤ s + n ∧ s < 9 + n ∧ stageD s < n := by
  induction n with
  | zero => simp [stagesOf] at hs
  | succ lv ih =>
    simp only [stagesOf] at hs
    split at hs
    · simp at hs; subst hs; simp [stageD]; omega
    · simp only [List.mem_cons, List.mem_append, List.not_mem_nil, or_false] at hs
      rcases hs with rfl | hs | rfl
      · simp [stageD]; split <;> omega
      · have := ih (by omega) hs; omega
      · simp [stageD]; omega

/-- The bit of the switch that line p meets in stage s. -/
def bitAt (s p : Nat) : Nat := s * 512 + switchOf s p

theorem switchOf_lt {s p : Nat} (hs : s ≤ 18) (hp : p < 1024) : switchOf s p < 512 := by
  have hd : stageD s ≤ 9 := by simp only [stageD]; split <;> omega
  unfold switchOf
  generalize stageD s = d at *
  have h1 : p / 2 ^ (d + 1) < 2 ^ (9 - d) := by
    apply Nat.div_lt_of_lt_mul
    rw [← pow_add, show d + 1 + (9 - d) = 10 by omega]; exact hp
  have h2 : p % 2 ^ d < 2 ^ d := Nat.mod_lt _ (by positivity)
  have h3 : 2 ^ (9 - d) * 2 ^ d = 512 := by rw [← pow_add, show 9 - d + d = 9 by omega]; rfl
  have h4 := Nat.mul_le_mul_right (2 ^ d) (Nat.succ_le_of_lt h1)
  rw [Nat.succ_mul, h3] at h4
  omega

theorem bitAt_inj {s s' p p' : Nat} (hs : s ≤ 18) (hs' : s' ≤ 18) (hp : p < 1024) (hp' : p' < 1024)
    (h : bitAt s p = bitAt s' p') : s = s' ∧ switchOf s p = switchOf s' p' := by
  have := switchOf_lt hs hp; have := switchOf_lt hs' hp'
  unfold bitAt at h; omega

theorem switchOf_div (s p : Nat) : switchOf s p / 2 ^ stageD s = p / 2 ^ (stageD s + 1) := by
  unfold switchOf
  rw [Nat.add_comm, Nat.add_mul_div_right _ _ (by positivity), Nat.div_eq_of_lt (Nat.mod_lt _ (by positivity)), Nat.zero_add]

/-- Two lines that meet one switch lie in one block of every wider power of two. -/
theorem switchOf_block {s p p' lv : Nat} (hd : stageD s < lv) (h : switchOf s p = switchOf s p') : p / 2 ^ lv = p' / 2 ^ lv := by
  have h1 := switchOf_div s p
  rw [h, switchOf_div] at h1
  have : ∀ q : Nat, q / 2 ^ lv = q / 2 ^ (stageD s + 1) / 2 ^ (lv - (stageD s + 1)) := by
    intro q; rw [Nat.div_div_eq_div_mul, ← pow_add]; congr 2; omega
  rw [this, this, h1]

theorem block_of {n base q : Nat} (hb : base % 2 ^ n = 0) (hq : q < 2 ^ n) : (base + q) / 2 ^ n = base / 2 ^ n := by
  obtain ⟨c, rfl⟩ := Nat.dvd_of_mod_eq_zero hb
  rw [Nat.mul_add_div (by positivity), Nat.div_eq_of_lt hq, Nat.mul_div_cancel_left _ (by positivity)]; rfl

/-- In the outer stages of a sub-network of 2h lines, the switch of a line is that of the line's number modulo h. -/
theorem switchOf_outer {s lv base q : Nat} (hd : stageD s = lv) (hb : base % 2 ^ (lv + 1) = 0) (hq : q < 2 ^ (lv + 1)) :
    switchOf s (base + q) = base / 2 ^ (lv + 1) * 2 ^ lv + q % 2 ^ lv := by
  unfold switchOf
  rw [hd, block_of hb hq]
  obtain ⟨c, rfl⟩ := Nat.dvd_of_mod_eq_zero hb
  rw [pow_succ, Nat.mul_assoc, Nat.mul_add_mod]

/-- The colour of a line in `routeBits`: whether its path runs through the upper half. -/
def colours (h : Nat) (src : Array Nat) : Array (Option Bool) :=
  (tab h id).foldl (fun c e => colourChain h src (inversePerm (2 * h) src) (2 * h) e c) (Array.replicate (2 * h) none)
def upper (h : Nat) (src : Array Nat) (e : Nat) : Bool := ((colours h src).getD e none).getD false

/-- The routing of one half. -/
def half (h : Nat) (src : Array Nat) (c : Bool) : Array Nat :=
  (tab h fun j => src.getD (if upper h src j == c then j else j + h) 0 % h).toArray

theorem routeBits_succ (lv base : Nat) (src : Array Nat) (h0 : lv ≠ 0) :
    routeBits (lv + 1) base src =
      (((tab (2 ^ lv) id).filter fun i => upper (2 ^ lv) src i).map fun i => (18 - (9 - lv)) * 512 + switchOf (18 - (9 - lv)) (base + i)) ++
      (((tab (2 ^ lv) id).filter fun i => upper (2 ^ lv) src ((inversePerm (2 * 2 ^ lv) src).getD i 0)).map
        fun i => (9 - lv) * 512 + switchOf (9 - lv) (base + i)) ++
      routeBits lv base (half (2 ^ lv) src false) ++ routeBits lv (base + 2 ^ lv) (half (2 ^ lv) src true) := by
  rw [routeBits]; simp only [h0, if_false]; rfl

section
variable {h : Nat} {src : Array Nat} (hp : Perm (2 * h) src) (h0 : 0 < h)
include hp h0

theorem colour_upper {e : Nat} (he : e < 2 * h) : colourOf (colours h src) e = some (upper h src e) := by
  have h2 := (colouring_proper hp h0).2 e he
  unfold upper
  cases hc : colourOf (colours h src) e with
  | none => exact absurd hc h2
  | some b => unfold colourOf at hc; rw [hc]; rfl

theorem upper_opp {e : Nat} (he : e < 2 * h) : upper h src (opp h e) = !upper h src e := by
  have := (colouring_proper hp h0).1.out e _ he (colour_upper hp h0 he)
  have h2 := colour_upper hp h0 (opp_lt he)
  exact Option.some.inj (h2.symm.trans this)

theorem upper_mate {e : Nat} (he : e < 2 * h) : upper h src (mate h src e) = !upper h src e := by
  have := (colouring_proper hp h0).1.inp e _ he (colour_upper hp h0 he)
  have h2 := colour_upper hp h0 (mate_lt hp he)
  exact Option.some.inj (h2.symm.trans this)

/-- Line i goes to the half of its colour, where it stands at i mod h. -/
theorem half_getD {i : Nat} (hi : i < 2 * h) : (half h src (upper h src i)).getD (i % h) 0 = src.getD i 0 % h := by
  have hm : i % h < h := Nat.mod_lt _ h0
  have hi' : (if upper h src (i % h) == upper h src i then i % h else i % h + h) = i := by
    by_cases hlt : i < h
    · rw [Nat.mod_eq_of_lt hlt]; simp
    · have e1 : i % h = i - h := by rw [mod_half hi, if_neg hlt]
      have e2 : opp h i = i - h := by rw [opp_eq hi, if_neg hlt]
      rw [e1, ← e2, upper_opp hp h0 hi, e2]
      cases upper h src i <;> simp <;> omega
  rw [half, Array.getD_eq_getD_getElem?, List.getElem?_toArray, getElem?_tab, if_pos hm, Option.getD_some, hi']

theorem half_at {j : Nat} (hj : j < h) (c : Bool) :
    ∃ i, i < 2 * h ∧ upper h src i = c ∧ i % h = j := by
  by_cases hu : upper h src j = c
  · exact ⟨j, by omega, hu, Nat.mod_eq_of_lt hj⟩
  · refine ⟨j + h, by omega, ?_, by rw [Nat.add_mod_right, Nat.mod_eq_of_lt hj]⟩
    have e1 : opp h j = j + h := by rw [opp_eq (by omega), if_pos hj]
    rw [← e1, upper_opp hp h0 (by omega)]
    cases c <;> simp_all

theorem half_perm (c : Bool) : Perm h (half h src c) := by
  constructor
  · intro j hj
    obtain ⟨i, hi, rfl, rfl⟩ := half_at hp h0 hj c
    rw [half_getD hp h0 hi]; exact Nat.mod_lt _ h0
  · intro j j' hj hj' he
    obtain ⟨i, hi, hc, rfl⟩ := half_at hp h0 hj c
    obtain ⟨i', hi', hc', rfl⟩ := half_at hp h0 hj' c
    have e1 := half_getD hp h0 hi; have e2 := half_getD hp h0 hi'
    rw [hc] at e1; rw [hc'] at e2
    rw [e1, e2] at he
    have hx := hp.1 i hi; have hy := hp.1 i' hi'
    have : src.getD i' 0 = src.getD i 0 ∨ src.getD i' 0 = opp h (src.getD i 0) := by
      rw [opp_eq hx]
      rw [mod_half hx, mod_half hy] at he
      split at he <;> split at he <;> split <;> omega
    rcases this with hh | hh
    · rw [hp.2 _ _ hi' hi hh]
    · rw [← src_mate hp hi] at hh
      have := hp.2 _ _ hi' (mate_lt hp hi) hh
      have h3 := upper_mate hp h0 hi
      rw [← this, hc, hc'] at h3; cases c <;> cases h3
end


/-! ## What the bits of a sub-network are -/

theorem mem_tab_id {n i : Nat} : i ∈ tab n id ↔ i < n := by simp [tab_eq_map]

/-- Every bit of a sub-network is one of its stages' at one of its lines. -/
theorem routeBits_at : ∀ (n base : Nat) (src : Array Nat), n ≤ 10 → ∀ b ∈ routeBits n base src,
    ∃ s ∈ stagesOf n, ∃ q, q < 2 ^ n ∧ b = bitAt s (base + q)
  | 0, _, _, _ => by simp [routeBits]
  | lv + 1, base, src, hn => by
    intro b hb
    by_cases h0 : lv = 0
    · subst h0
      rw [routeBits] at hb
      simp only [if_true] at hb
      split at hb
      · simp only [List.mem_singleton] at hb; exact ⟨9, by simp [stagesOf], 0, by simp, by simp [hb, bitAt]⟩
      · simp at hb
    · have hst : ∀ s ∈ stagesOf lv, s ∈ stagesOf (lv + 1) := fun s hs => by simp [stagesOf, h0, hs]
      have hpow : 2 ^ (lv + 1) = 2 ^ lv + 2 ^ lv := by rw [pow_succ]; omega
      rw [routeBits_succ lv base src h0] at hb
      simp only [List.mem_append, List.mem_map, List.mem_filter, mem_tab_id] at hb
      rcases hb with ((⟨i, ⟨hi, _⟩, rfl⟩ | ⟨i, ⟨hi, _⟩, rfl⟩) | hb) | hb
      · exact ⟨9 + lv, by simp [stagesOf, h0], i, by omega, by rw [bitAt, show 18 - (9 - lv) = 9 + lv by omega]⟩
      · exact ⟨9 - lv, by simp [stagesOf, h0], i, by omega, rfl⟩
      · obtain ⟨s, hs, q, hq, rfl⟩ := routeBits_at lv base _ (by omega) b hb
        exact ⟨s, hst s hs, q, by omega, rfl⟩
      · obtain ⟨s, hs, q, hq, rfl⟩ := routeBits_at lv _ _ (by omega) b hb
        exact ⟨s, hst s hs, 2 ^ lv + q, by omega, by rw [Nat.add_assoc]⟩

/-- A sub-network lies within the 1,024 lines, on a multiple of its size. -/
structure Sub (n base : Nat) : Prop where
  le : n ≤ 10
  al : base % 2 ^ n = 0
  top : base + 2 ^ n ≤ 1024

theorem Sub.low {lv base : Nat} (h : Sub (lv + 1) base) : Sub lv base := by
  have hpow : 2 ^ (lv + 1) = 2 ^ lv * 2 := pow_succ 2 lv
  refine ⟨by have := h.le; omega, ?_, by have := h.top; omega⟩
  have := h.al; rw [hpow] at this; exact Nat.mod_eq_zero_of_dvd (dvd_trans ⟨2, rfl⟩ (Nat.dvd_of_mod_eq_zero this))
theorem Sub.high {lv base : Nat} (h : Sub (lv + 1) base) : Sub lv (base + 2 ^ lv) := by
  have hpow : 2 ^ (lv + 1) = 2 ^ lv * 2 := pow_succ 2 lv
  refine ⟨by have := h.le; omega, by rw [Nat.add_mod_right]; exact h.low.al, by have := h.top; omega⟩

section
variable {lv base : Nat} (hs : Sub (lv + 1) base) (src : Array Nat) (h0 : lv ≠ 0)
include hs h0

theorem out_bit {q : Nat} (hq : q < 2 ^ (lv + 1)) :
    bitAt (9 + lv) (base + q) ∈ routeBits (lv + 1) base src ↔ upper (2 ^ lv) src (q % 2 ^ lv) = true := by
  have hle := hs.le; have htop := hs.top; have hhi := hs.high.top
  have hd : stageD (9 + lv) = lv := by simp only [stageD]; split <;> omega
  have hd' : stageD (9 - lv) = lv := by simp only [stageD]; split <;> omega
  have hpow : 2 ^ (lv + 1) = 2 ^ lv + 2 ^ lv := by rw [pow_succ]; omega
  have hin : ∀ b sr, base ≤ b → b + 2 ^ lv ≤ 1024 → bitAt (9 + lv) (base + q) ∉ routeBits lv b sr := by
    intro b sr _ hb hm
    obtain ⟨s, hss, q', hq', he⟩ := routeBits_at lv _ _ (by omega) _ hm
    obtain ⟨h1, h2, _⟩ := stagesOf_mem (by omega) hss
    have := (bitAt_inj (by omega) (by omega) (by omega) (by omega) he).1; omega
  rw [routeBits_succ lv base src h0]
  simp only [List.mem_append, List.mem_map, List.mem_filter, mem_tab_id, hin base _ le_rfl (by omega),
    hin (base + 2 ^ lv) _ (by omega) hhi, or_false]
  rw [show 18 - (9 - lv) = 9 + lv by omega]
  have hm : q % 2 ^ lv < 2 ^ lv := Nat.mod_lt _ (by positivity)
  constructor
  · rintro (⟨i, ⟨hi, hu⟩, he⟩ | ⟨i, ⟨hi, hu⟩, he⟩)
    · have := (bitAt_inj (by omega) (by omega) (by omega) (by omega) he).2
      rw [switchOf_outer hd hs.al (by omega), switchOf_outer hd hs.al hq, Nat.mod_eq_of_lt hi] at this
      rw [← Nat.add_left_cancel this]; exact hu
    · have := (bitAt_inj (by omega) (by omega) (by omega) (by omega) he).1; omega
  · intro hu
    refine .inl ⟨q % 2 ^ lv, ⟨hm, hu⟩, ?_⟩
    rw [bitAt, switchOf_outer hd hs.al (by omega), switchOf_outer hd hs.al hq, Nat.mod_mod]

theorem in_bit {q : Nat} (hq : q < 2 ^ (lv + 1)) :
    bitAt (9 - lv) (base + q) ∈ routeBits (lv + 1) base src ↔
      upper (2 ^ lv) src ((inversePerm (2 * 2 ^ lv) src).getD (q % 2 ^ lv) 0) = true := by
  have hle := hs.le; have htop := hs.top; have hhi := hs.high.top
  have hd : stageD (9 + lv) = lv := by simp only [stageD]; split <;> omega
  have hd' : stageD (9 - lv) = lv := by simp only [stageD]; split <;> omega
  have hpow : 2 ^ (lv + 1) = 2 ^ lv + 2 ^ lv := by rw [pow_succ]; omega
  have hin : ∀ b sr, base ≤ b → b + 2 ^ lv ≤ 1024 → bitAt (9 - lv) (base + q) ∉ routeBits lv b sr := by
    intro b sr _ hb hm
    obtain ⟨s, hss, q', hq', he⟩ := routeBits_at lv _ _ (by omega) _ hm
    obtain ⟨h1, h2, _⟩ := stagesOf_mem (by omega) hss
    have := (bitAt_inj (by omega) (by omega) (by omega) (by omega) he).1; omega
  rw [routeBits_succ lv base src h0]
  simp only [List.mem_append, List.mem_map, List.mem_filter, mem_tab_id, hin base _ le_rfl (by omega),
    hin (base + 2 ^ lv) _ (by omega) hhi, or_false]
  rw [show 18 - (9 - lv) = 9 + lv by omega]
  have hm : q % 2 ^ lv < 2 ^ lv := Nat.mod_lt _ (by positivity)
  constructor
  · rintro (⟨i, ⟨hi, hu⟩, he⟩ | ⟨i, ⟨hi, hu⟩, he⟩)
    · have := (bitAt_inj (by omega) (by omega) (by omega) (by omega) he).1; omega
    · have := (bitAt_inj (by omega) (by omega) (by omega) (by omega) he).2
      rw [switchOf_outer hd' hs.al (by omega), switchOf_outer hd' hs.al hq, Nat.mod_eq_of_lt hi] at this
      rw [← Nat.add_left_cancel this]; exact hu
  · intro hu
    refine .inr ⟨q % 2 ^ lv, ⟨hm, hu⟩, ?_⟩
    rw [bitAt, switchOf_outer hd' hs.al (by omega), switchOf_outer hd' hs.al hq, Nat.mod_mod]

/-- The bits of the inner stages are those of the half in which the line lies. -/
theorem inner_bit (c : Bool) {s q : Nat} (hss : s ∈ stagesOf lv) (hq : q < 2 ^ lv) :
    let b := base + cond c (2 ^ lv) 0
    bitAt s (b + q) ∈ routeBits (lv + 1) base src ↔ bitAt s (b + q) ∈ routeBits lv b (half (2 ^ lv) src c) := by
  intro b
  have hle := hs.le; have htop := hs.top; have hhi := hs.high.top
  have hpow : 2 ^ (lv + 1) = 2 ^ lv + 2 ^ lv := by rw [pow_succ]; omega
  obtain ⟨h1, h2, h3⟩ := stagesOf_mem (by omega) hss
  have hb : b + q < 1024 := by cases c <;> simp only [b, cond] <;> omega
  have hother : ∀ b' sr, Sub lv b' → b' / 2 ^ lv ≠ b / 2 ^ lv → b % 2 ^ lv = 0 → bitAt s (b + q) ∉ routeBits lv b' sr := by
    intro b' sr hb' hne hal hm
    obtain ⟨s', hss', q', hq', he⟩ := routeBits_at lv _ _ (by omega) _ hm
    obtain ⟨h1', h2', _⟩ := stagesOf_mem (by omega) hss'
    have ht := hb'.top
    obtain ⟨rfl, hsw⟩ := bitAt_inj (by omega) (by omega) (by omega) (by omega) he
    have := switchOf_block h3 hsw
    rw [block_of hal hq, block_of hb'.al hq'] at this
    exact hne this.symm
  have hdiv : (base + 2 ^ lv) / 2 ^ lv = base / 2 ^ lv + 1 := Nat.add_div_right _ (by positivity)
  rw [routeBits_succ lv base src h0]
  simp only [List.mem_append, List.mem_map, List.mem_filter, mem_tab_id]
  have hno1 : ¬ ∃ a, (a < 2 ^ lv ∧ upper (2 ^ lv) src a = true) ∧ (18 - (9 - lv)) * 512 + switchOf (18 - (9 - lv)) (base + a) = bitAt s (b + q) := by
    rintro ⟨a, ⟨ha, _⟩, he⟩
    have := (bitAt_inj (s := 18 - (9 - lv)) (by omega) (by omega) (by omega) hb he).1; omega
  have hno2 : ¬ ∃ a, (a < 2 ^ lv ∧ upper (2 ^ lv) src ((inversePerm (2 * 2 ^ lv) src).getD a 0) = true) ∧
      (9 - lv) * 512 + switchOf (9 - lv) (base + a) = bitAt s (b + q) := by
    rintro ⟨a, ⟨ha, _⟩, he⟩
    have := (bitAt_inj (s := 9 - lv) (by omega) (by omega) (by omega) hb he).1; omega
  simp only [hno1, hno2, false_or]
  cases c
  · have : bitAt s (b + q) ∉ routeBits lv (base + 2 ^ lv) (half (2 ^ lv) src true) :=
      hother _ _ hs.high (by simp only [b, cond, Nat.add_zero]; omega) (by simp only [b, cond, Nat.add_zero]; exact hs.low.al)
    simp only [this, or_false]; rfl
  · have : bitAt s (b + q) ∉ routeBits lv base (half (2 ^ lv) src false) :=
      hother _ _ hs.low (by simp only [b, cond]; omega) (by simp only [b, cond]; exact hs.high.al)
    simp only [this, false_or]; rfl
end


theorem routeBits_nodup : ∀ (n base : Nat) (src : Array Nat), Sub n base → (routeBits n base src).Nodup
  | 0, _, _, _ => by simp [routeBits]
  | lv + 1, base, src, hs => by
    by_cases h0 : lv = 0
    · subst h0
      rw [routeBits]; simp only [if_true]; split <;> simp
    · have hle := hs.le; have htop := hs.top; have hhi := hs.high.top
      have hd : stageD (9 + lv) = lv := by simp only [stageD]; split <;> omega
      have hd' : stageD (9 - lv) = lv := by simp only [stageD]; split <;> omega
      have hpow : 2 ^ (lv + 1) = 2 ^ lv + 2 ^ lv := by rw [pow_succ]; omega
      have hmap : ∀ s f, s ≤ 18 → stageD s = lv →
          (((tab (2 ^ lv) id).filter f).map fun i => s * 512 + switchOf s (base + i)).Nodup := by
        intro s f hs18 hsd
        refine List.Nodup.map_on ?_ (List.Nodup.filter _ (by simpa [tab_eq_map] using List.nodup_range))
        intro x hx y hy he
        simp only [List.mem_filter, mem_tab_id] at hx hy
        have := (bitAt_inj hs18 hs18 (by omega) (by omega) he).2
        rw [switchOf_outer hsd hs.al (by omega), switchOf_outer hsd hs.al (by omega), Nat.mod_eq_of_lt hx.1,
          Nat.mod_eq_of_lt hy.1] at this
        omega
      have hout : ∀ b' sr s i, Sub lv b' → i < 2 ^ lv → s = 9 + lv ∨ s = 9 - lv → bitAt s (base + i) ∉ routeBits lv b' sr := by
        intro b' sr s i hb' hi hse hm
        obtain ⟨s', hss, q', hq', he⟩ := routeBits_at lv _ _ (by omega) _ hm
        obtain ⟨h1, h2, _⟩ := stagesOf_mem (by omega) hss
        have ht := hb'.top
        have := (bitAt_inj (by omega) (by omega) (by omega) (by omega) he).1; omega
      rw [routeBits_succ lv base src h0, show 18 - (9 - lv) = 9 + lv by omega]
      rw [List.nodup_append, List.nodup_append, List.nodup_append]
      refine ⟨⟨⟨hmap _ _ (by omega) hd, hmap _ _ (by omega) hd', ?_⟩, routeBits_nodup lv _ _ hs.low, ?_⟩,
        routeBits_nodup lv _ _ hs.high, ?_⟩
      · intro a ha b hb hab
        simp only [List.mem_map, List.mem_filter, mem_tab_id] at ha hb
        obtain ⟨i, ⟨hi, _⟩, rfl⟩ := ha; obtain ⟨j, ⟨hj, _⟩, rfl⟩ := hb
        have := (bitAt_inj (s := 9 + lv) (s' := 9 - lv) (by omega) (by omega) (by omega) (by omega) hab).1; omega
      · intro a ha b hb hab
        subst hab
        simp only [List.mem_append, List.mem_map, List.mem_filter, mem_tab_id] at ha
        rcases ha with ⟨i, ⟨hi, _⟩, rfl⟩ | ⟨i, ⟨hi, _⟩, rfl⟩
        · exact hout _ _ _ i hs.low hi (.inl rfl) hb
        · exact hout _ _ _ i hs.low hi (.inr rfl) hb
      · intro a ha b hb hab
        subst hab
        simp only [List.mem_append, List.mem_map, List.mem_filter, mem_tab_id] at ha
        rcases ha with (⟨i, ⟨hi, _⟩, rfl⟩ | ⟨i, ⟨hi, _⟩, rfl⟩) | ha
        · exact hout _ _ _ i hs.high hi (.inl rfl) hb
        · exact hout _ _ _ i hs.high hi (.inr rfl) hb
        · obtain ⟨s, hss, q, hq, rfl⟩ := routeBits_at lv _ _ (by omega) _ ha
          obtain ⟨s', hss', q', hq', he⟩ := routeBits_at lv _ _ (by omega) _ hb
          obtain ⟨h1, h2, h3⟩ := stagesOf_mem (by omega) hss
          obtain ⟨h1', h2', _⟩ := stagesOf_mem (by omega) hss'
          obtain ⟨rfl, hsw⟩ := bitAt_inj (by omega) (by omega) (by omega) (by omega) he
          have := switchOf_block h3 hsw
          rw [block_of hs.low.al hq, block_of hs.high.al hq', Nat.add_div_right _ (by positivity)] at this
          omega

/-! ## The path of a line -/

/-- One stage of a path, under the switches that `M` sets. -/
def cross (M : Nat → Bool) (p s : Nat) : Nat := if M (bitAt s p) then partner s p else p

theorem partner_outer {s lv base q : Nat} (hd : stageD s = lv) (hb : base % 2 ^ (lv + 1) = 0) (hq : q < 2 ^ (lv + 1)) :
    partner s (base + q) = base + opp (2 ^ lv) q := by
  have hpow : 2 ^ (lv + 1) = 2 * 2 ^ lv := by rw [pow_succ]; omega
  have h0 : 0 < 2 ^ lv := by positivity
  obtain ⟨c, rfl⟩ := Nat.dvd_of_mod_eq_zero hb
  rw [opp_eq (by omega)]
  unfold partner
  rw [hd, hpow]
  have : (2 * 2 ^ lv * c + q) / 2 ^ lv % 2 = q / 2 ^ lv := by
    rw [show 2 * 2 ^ lv * c = 2 ^ lv * (2 * c) by ring, Nat.mul_add_div h0, Nat.mul_add_mod]
    exact Nat.mod_eq_of_lt (Nat.div_lt_of_lt_mul (by omega))
  rw [this]
  by_cases hlt : q < 2 ^ lv
  · rw [if_pos (Nat.div_eq_of_lt hlt), if_pos hlt]; omega
  · have : q / 2 ^ lv ≠ 0 := by
      have := Nat.div_pos (Nat.le_of_not_lt hlt) h0; omega
    rw [if_neg this, if_neg hlt]; omega

theorem cross_routed : ∀ (n base : Nat) (src : Array Nat) (M : Nat → Bool), Sub n base → Perm (2 ^ n) src →
    (∀ s ∈ stagesOf n, ∀ q, q < 2 ^ n → (M (bitAt s (base + q)) = true ↔ bitAt s (base + q) ∈ routeBits n base src)) →
    ∀ i, i < 2 ^ n → (stagesOf n).foldl (cross M) (base + i) = base + src.getD i 0
  | 0, base, src, M, hs, hp, hM, i, hi => by
    have h1 := hp.1 i hi
    simp only [pow_zero, Nat.lt_one_iff] at hi h1
    simp [stagesOf, hi, hi ▸ h1]
  | lv + 1, base, src, M, hs, hp, hM, i, hi => by
    have hle := hs.le
    have hpow : 2 ^ (lv + 1) = 2 * 2 ^ lv := by rw [pow_succ]; omega
    have hpos : 0 < 2 ^ lv := by positivity
    by_cases h0 : lv = 0
    · subst h0
      have hd9 : stageD 9 = 0 := rfl
      have hr : ∀ q, q < 2 ^ 1 → (bitAt 9 (base + q) ∈ routeBits 1 base src ↔ src.getD 0 0 = 1) := by
        intro q hq
        have e : bitAt 9 (base + q) = bitAt 9 (base + 0) := by
          rw [bitAt, bitAt, switchOf_outer hd9 hs.al hq, switchOf_outer hd9 hs.al (by omega)]; simp [Nat.mod_one]
        rw [e, routeBits]; simp only [if_true, Nat.add_zero]
        split <;> rename_i hh
        · exact ⟨fun _ => hh, fun _ => List.mem_singleton.mpr rfl⟩
        · exact ⟨fun hm => (by cases hm), fun hm => absurd hm hh⟩
      have hm := hM 9 (by simp [stagesOf]) i hi
      rw [hr i hi] at hm
      have a1 := hp.1 0 (by omega); have a2 := hp.1 1 (by omega)
      have a3 := hp.2 0 1 (by omega) (by omega)
      simp only [stagesOf, if_true, List.foldl_cons, List.foldl_nil, cross]
      rw [partner_outer hd9 hs.al hi, opp_eq (by omega)]
      have hi2 : i = 0 ∨ i = 1 := by omega
      by_cases hc : M (bitAt 9 (base + i)) = true
      · have := hm.mp hc
        rw [if_pos hc]
        rcases hi2 with rfl | rfl
        · simp only [pow_zero, Nat.lt_one_iff, if_true]; omega
        · simp only [pow_zero, Nat.lt_one_iff, if_neg (by omega : ¬ (1 : Nat) = 0)]; omega
      · have : ¬ src.getD 0 0 = 1 := fun hh => hc (hm.mpr hh)
        rw [if_neg hc]
        rcases hi2 with rfl | rfl <;> omega
    · have hd : stageD (9 + lv) = lv := by simp only [stageD]; split <;> omega
      have hd' : stageD (9 - lv) = lv := by simp only [stageD]; split <;> omega
      rw [hpow] at hp
      have hi' : i < 2 * 2 ^ lv := by omega
      have hq := hp.1 i hi'
      have hst : stagesOf (lv + 1) = (9 + lv) :: (stagesOf lv ++ [9 - lv]) := by simp [stagesOf, h0]
      obtain ⟨c, hc⟩ : ∃ c, upper (2 ^ lv) src i = c := ⟨_, rfl⟩
      have hfirst : cross M (base + i) (9 + lv) = base + cond c (2 ^ lv) 0 + i % 2 ^ lv := by
        have hm := (hM (9 + lv) (by simp [hst]) i hi).trans (out_bit hs src h0 hi)
        have ho := upper_opp hp hpos hi'
        rw [opp_eq hi'] at ho
        unfold cross
        rw [partner_outer hd hs.al hi, opp_eq hi']
        rw [mod_half hi'] at hm ⊢
        by_cases hlt : i < 2 ^ lv
        · rw [if_pos hlt] at hm ho ⊢
          rw [hc] at hm
          rw [if_pos hlt]
          cases c
          · rw [if_neg (by rw [hm]; simp)]; simp
          · rw [if_pos (hm.mpr rfl)]; simp only [cond]; omega
        · rw [if_neg hlt] at hm ho ⊢
          rw [ho, hc] at hm
          rw [if_neg hlt]
          cases c
          · rw [if_pos (hm.mpr rfl)]; simp
          · rw [if_neg (by rw [hm]; simp)]; simp only [cond]; omega
      have hinner : (stagesOf lv).foldl (cross M) (base + cond c (2 ^ lv) 0 + i % 2 ^ lv) =
          base + cond c (2 ^ lv) 0 + src.getD i 0 % 2 ^ lv := by
        have hsub : Sub lv (base + cond c (2 ^ lv) 0) := by cases c; exacts [hs.low, hs.high]
        rw [cross_routed lv _ (half (2 ^ lv) src c) M hsub (half_perm hp hpos c) ?_ _ (Nat.mod_lt _ hpos), ← hc,
          half_getD hp hpos hi']
        intro s hss q hq
        refine Iff.trans ?_ (inner_bit hs src h0 c hss hq)
        rw [Nat.add_assoc]
        exact hM s (by simp [hst, hss]) _ (by cases c <;> simp only [cond] <;> omega)
      have hlast : cross M (base + cond c (2 ^ lv) 0 + src.getD i 0 % 2 ^ lv) (9 - lv) = base + src.getD i 0 := by
        have hr : cond c (2 ^ lv) 0 + src.getD i 0 % 2 ^ lv < 2 ^ (lv + 1) := by
          have := Nat.mod_lt (src.getD i 0) hpos; cases c <;> simp only [cond] <;> omega
        have hrm : (cond c (2 ^ lv) 0 + src.getD i 0 % 2 ^ lv) % 2 ^ lv = src.getD i 0 % 2 ^ lv := by
          cases c <;> simp [cond]
        have hm := (hM (9 - lv) (by simp [hst]) _ hr).trans (in_bit hs src h0 hr)
        rw [hrm] at hm
        have hmu := upper_mate hp hpos hi'
        have hinv := inversePerm_left hp i hi'
        unfold cross
        rw [Nat.add_assoc, partner_outer hd' hs.al hr, opp_eq (by omega)]
        unfold mate at hmu
        rw [opp_eq hq] at hmu
        rw [mod_half hq] at *
        by_cases hlt : src.getD i 0 < 2 ^ lv
        · rw [if_pos hlt] at *
          rw [hinv, hc] at hm
          cases c
          · rw [if_neg (by rw [hm]; simp)]; simp
          · rw [if_pos (hm.mpr rfl)]; simp only [cond]; rw [if_neg (by omega)]; omega
        · rw [if_neg hlt] at *
          rw [hmu, hc] at hm
          cases c
          · rw [if_pos (hm.mpr rfl)]; simp only [cond]; rw [if_pos (by omega)]; omega
          · rw [if_neg (by rw [hm]; simp)]; simp only [cond]; omega
      rw [hst, List.foldl_cons, hfirst, List.foldl_append, hinner]
      simpa using hlast

/-! ## The setting of the whole network -/

theorem testBit_bits (l : List Nat) (hl : l.Nodup) (j : Nat) :
    (l.foldl (fun m i => m + 2 ^ i) 0).testBit j = decide (j ∈ l) := by
  have key : ∀ (l : List Nat) (m : Nat), l.Nodup → (∀ i ∈ l, m.testBit i = false) →
      (l.foldl (fun m i => m + 2 ^ i) m).testBit j = (m.testBit j || decide (j ∈ l)) := by
    intro l
    induction l with
    | nil => intro m _ _; simp
    | cons i l ih =>
      intro m hn hm
      have hi := hm i (by simp)
      have hadd : m + 2 ^ i = m ||| 2 ^ i := by
        have hlt : m + 2 ^ i < 2 ^ (m + 2 ^ i) := Nat.lt_two_pow_self
        have hdis : BitVec.ofNat (m + 2 ^ i) m &&& BitVec.ofNat (m + 2 ^ i) (2 ^ i) = 0#_ := by
          apply BitVec.eq_of_getLsbD_eq; intro k hk
          rw [BitVec.getLsbD_and, BitVec.getLsbD_ofNat, BitVec.getLsbD_ofNat, Nat.testBit_two_pow]
          by_cases h : i = k
          · subst h; simp [hi]
          · simp [h]
        have := congrArg BitVec.toNat (BitVec.add_eq_or_of_and_eq_zero _ _ hdis)
        rw [← BitVec.ofNat_add, BitVec.toNat_or, BitVec.toNat_ofNat, BitVec.toNat_ofNat, BitVec.toNat_ofNat,
          Nat.mod_eq_of_lt hlt, Nat.mod_eq_of_lt (a := m) (lt_of_le_of_lt (Nat.le_add_right _ _) hlt),
          Nat.mod_eq_of_lt (lt_of_le_of_lt (Nat.le_add_left _ _) hlt)] at this
        exact this
      obtain ⟨hni, hnl⟩ := List.nodup_cons.mp hn
      rw [List.foldl_cons, hadd, ih _ hnl]
      · rw [Nat.testBit_or, Nat.testBit_two_pow]
        by_cases hk : i = j <;> simp [hk, Ne.symm, List.mem_cons]
      · intro k hk
        rw [Nat.testBit_or, Nat.testBit_two_pow, hm k (by simp [hk])]
        simp; rintro rfl; exact hni hk
  simpa using key l 0 hl (by simp)

/-- R73, R168: under the setting that `solve` stores, every line leaves from the port that it is routed to. -/
theorem portOf_solveSw (src : Array Nat) (hp : Perm 1024 src) (e : Nat) (he : e < 1024) :
    portOf (solveSw src) e = src.getD e 0 := by
  have hs : Sub 10 0 := ⟨le_rfl, rfl, le_rfl⟩
  have hst : stagesOf 10 = tab 19 fun i => 18 - i := by decide
  have hbit : ∀ s p, s ≤ 18 → p < 1024 → (solveSw src).getLsbD (bitAt s p) = decide (bitAt s p ∈ routeBits 10 0 src) := by
    intro s p h1 h2
    have := switchOf_lt h1 h2
    rw [solveSw, BitVec.getLsbD_ofNat, testBit_bits _ (routeBits_nodup 10 0 src hs)]
    simp; intro _; unfold bitAt; omega
  have := cross_routed 10 0 src (fun i => (solveSw src).getLsbD i) hs hp (by
    intro s hss q hq
    obtain ⟨_, h2, _⟩ := stagesOf_mem le_rfl hss
    rw [Nat.zero_add, hbit s q (by omega) hq]; simp) e he
  rw [hst, Nat.zero_add, Nat.zero_add] at this
  exact this

end Sys2Proof.Laws.Network
end

