-- ==== Sys2Proof/Laws/State.lean ====
section
/-!
SUPPORT. What each update of the state leaves alone: one lemma per field and update, and for the updates that branch one
equation that names everything they can change.
-/

namespace Sys2Proof.Machine

/-! `setTroupe` changes `troupes` alone. -/

@[simp] theorem State.setTroupe_cursor (s : State) (t : Nat) (x : Troupe) : (s.setTroupe t x).cursor = s.cursor := rfl
@[simp] theorem State.setTroupe_wall (s : State) (t : Nat) (x : Troupe) : (s.setTroupe t x).wall = s.wall := rfl
@[simp] theorem State.setTroupe_script (s : State) (t : Nat) (x : Troupe) : (s.setTroupe t x).script = s.script := rfl
@[simp] theorem State.setTroupe_free (s : State) (t : Nat) (x : Troupe) : (s.setTroupe t x).free = s.free := rfl
@[simp] theorem State.setTroupe_nextId (s : State) (t : Nat) (x : Troupe) : (s.setTroupe t x).nextId = s.nextId := rfl
@[simp] theorem State.setTroupe_mgmt (s : State) (t : Nat) (x : Troupe) : (s.setTroupe t x).mgmt = s.mgmt := rfl
@[simp] theorem State.setTroupe_banks (s : State) (t : Nat) (x : Troupe) : (s.setTroupe t x).banks = s.banks := rfl
@[simp] theorem State.setTroupe_parts (s : State) (t : Nat) (x : Troupe) : (s.setTroupe t x).parts = s.parts := rfl
@[simp] theorem State.setTroupe_vfs (s : State) (t : Nat) (x : Troupe) : (s.setTroupe t x).vfs = s.vfs := rfl
@[simp] theorem State.setTroupe_gmem (s : State) (t : Nat) (x : Troupe) : (s.setTroupe t x).gmem = s.gmem := rfl
@[simp] theorem State.setTroupe_ghist (s : State) (t : Nat) (x : Troupe) : (s.setTroupe t x).ghist = s.ghist := rfl
@[simp] theorem State.setTroupe_hmem (s : State) (t : Nat) (x : Troupe) : (s.setTroupe t x).hmem = s.hmem := rfl
@[simp] theorem State.setTroupe_sram (s : State) (t : Nat) (x : Troupe) : (s.setTroupe t x).sram = s.sram := rfl
@[simp] theorem State.setTroupe_ctrs (s : State) (t : Nat) (x : Troupe) : (s.setTroupe t x).ctrs = s.ctrs := rfl
@[simp] theorem State.setTroupe_ctrOps (s : State) (t : Nat) (x : Troupe) : (s.setTroupe t x).ctrOps = s.ctrOps := rfl
@[simp] theorem State.setTroupe_ports (s : State) (t : Nat) (x : Troupe) : (s.setTroupe t x).ports = s.ports := rfl
@[simp] theorem State.setTroupe_out (s : State) (t : Nat) (x : Troupe) : (s.setTroupe t x).out = s.out := rfl
@[simp] theorem State.setTroupe_flight (s : State) (t : Nat) (x : Troupe) : (s.setTroupe t x).flight = s.flight := rfl
@[simp] theorem State.setTroupe_live (s : State) (t : Nat) (x : Troupe) : (s.setTroupe t x).live = s.live := rfl
@[simp] theorem State.setTroupe_tlbs (s : State) (t : Nat) (x : Troupe) : (s.setTroupe t x).tlbs = s.tlbs := rfl
@[simp] theorem State.setTroupe_hmem2 (s : State) (t : Nat) (x : Troupe) : (s.setTroupe t x).hmem2 = s.hmem2 := rfl
@[simp] theorem State.setTroupe_qs (s : State) (t : Nat) (x : Troupe) : (s.setTroupe t x).qs = s.qs := rfl
@[simp] theorem State.setTroupe_qsFrom (s : State) (t : Nat) (x : Troupe) : (s.setTroupe t x).qsFrom = s.qsFrom := rfl
@[simp] theorem State.setTroupe_pmap (s : State) (t : Nat) (x : Troupe) : (s.setTroupe t x).pmap = s.pmap := rfl
@[simp] theorem State.setTroupe_expect (s : State) (t : Nat) (x : Troupe) : (s.setTroupe t x).expect = s.expect := rfl
@[simp] theorem State.setTroupe_nextSeq (s : State) (t : Nat) (x : Troupe) : (s.setTroupe t x).nextSeq = s.nextSeq := rfl
@[simp] theorem State.setTroupe_topo (s : State) (t : Nat) (x : Troupe) : (s.setTroupe t x).topo = s.topo := rfl
@[simp] theorem State.setTroupe_hostCmd (s : State) (t : Nat) (x : Troupe) : (s.setTroupe t x).hostCmd = s.hostCmd := rfl
@[simp] theorem State.setTroupe_hostArgs (s : State) (t : Nat) (x : Troupe) : (s.setTroupe t x).hostArgs = s.hostArgs := rfl
@[simp] theorem State.setTroupe_mbBusy (s : State) (t : Nat) (x : Troupe) : (s.setTroupe t x).mbBusy = s.mbBusy := rfl
@[simp] theorem State.setTroupe_fi (s : State) (t : Nat) (x : Troupe) : (s.setTroupe t x).fi = s.fi := rfl
@[simp] theorem State.setTroupe_vi (s : State) (t : Nat) (x : Troupe) : (s.setTroupe t x).vi = s.vi := rfl
@[simp] theorem State.setTroupe_clampDue (s : State) (t : Nat) (x : Troupe) : (s.setTroupe t x).clampDue = s.clampDue := rfl
@[simp] theorem State.setTroupe_mons (s : State) (t : Nat) (x : Troupe) : (s.setTroupe t x).mons = s.mons := rfl
@[simp] theorem State.setTroupe_hostOut (s : State) (t : Nat) (x : Troupe) : (s.setTroupe t x).hostOut = s.hostOut := rfl

/-! `setMg` changes `mgmt` alone. -/

@[simp] theorem State.setMg_cursor (s : State) (m : Nat) (x : Mgmt) : (s.setMg m x).cursor = s.cursor := rfl
@[simp] theorem State.setMg_wall (s : State) (m : Nat) (x : Mgmt) : (s.setMg m x).wall = s.wall := rfl
@[simp] theorem State.setMg_script (s : State) (m : Nat) (x : Mgmt) : (s.setMg m x).script = s.script := rfl
@[simp] theorem State.setMg_free (s : State) (m : Nat) (x : Mgmt) : (s.setMg m x).free = s.free := rfl
@[simp] theorem State.setMg_nextId (s : State) (m : Nat) (x : Mgmt) : (s.setMg m x).nextId = s.nextId := rfl
@[simp] theorem State.setMg_troupes (s : State) (m : Nat) (x : Mgmt) : (s.setMg m x).troupes = s.troupes := rfl
@[simp] theorem State.setMg_banks (s : State) (m : Nat) (x : Mgmt) : (s.setMg m x).banks = s.banks := rfl
@[simp] theorem State.setMg_parts (s : State) (m : Nat) (x : Mgmt) : (s.setMg m x).parts = s.parts := rfl
@[simp] theorem State.setMg_vfs (s : State) (m : Nat) (x : Mgmt) : (s.setMg m x).vfs = s.vfs := rfl
@[simp] theorem State.setMg_gmem (s : State) (m : Nat) (x : Mgmt) : (s.setMg m x).gmem = s.gmem := rfl
@[simp] theorem State.setMg_ghist (s : State) (m : Nat) (x : Mgmt) : (s.setMg m x).ghist = s.ghist := rfl
@[simp] theorem State.setMg_hmem (s : State) (m : Nat) (x : Mgmt) : (s.setMg m x).hmem = s.hmem := rfl
@[simp] theorem State.setMg_sram (s : State) (m : Nat) (x : Mgmt) : (s.setMg m x).sram = s.sram := rfl
@[simp] theorem State.setMg_ctrs (s : State) (m : Nat) (x : Mgmt) : (s.setMg m x).ctrs = s.ctrs := rfl
@[simp] theorem State.setMg_ctrOps (s : State) (m : Nat) (x : Mgmt) : (s.setMg m x).ctrOps = s.ctrOps := rfl
@[simp] theorem State.setMg_ports (s : State) (m : Nat) (x : Mgmt) : (s.setMg m x).ports = s.ports := rfl
@[simp] theorem State.setMg_out (s : State) (m : Nat) (x : Mgmt) : (s.setMg m x).out = s.out := rfl
@[simp] theorem State.setMg_flight (s : State) (m : Nat) (x : Mgmt) : (s.setMg m x).flight = s.flight := rfl
@[simp] theorem State.setMg_live (s : State) (m : Nat) (x : Mgmt) : (s.setMg m x).live = s.live := rfl
@[simp] theorem State.setMg_tlbs (s : State) (m : Nat) (x : Mgmt) : (s.setMg m x).tlbs = s.tlbs := rfl
@[simp] theorem State.setMg_hmem2 (s : State) (m : Nat) (x : Mgmt) : (s.setMg m x).hmem2 = s.hmem2 := rfl
@[simp] theorem State.setMg_qs (s : State) (m : Nat) (x : Mgmt) : (s.setMg m x).qs = s.qs := rfl
@[simp] theorem State.setMg_qsFrom (s : State) (m : Nat) (x : Mgmt) : (s.setMg m x).qsFrom = s.qsFrom := rfl
@[simp] theorem State.setMg_pmap (s : State) (m : Nat) (x : Mgmt) : (s.setMg m x).pmap = s.pmap := rfl
@[simp] theorem State.setMg_expect (s : State) (m : Nat) (x : Mgmt) : (s.setMg m x).expect = s.expect := rfl
@[simp] theorem State.setMg_nextSeq (s : State) (m : Nat) (x : Mgmt) : (s.setMg m x).nextSeq = s.nextSeq := rfl
@[simp] theorem State.setMg_topo (s : State) (m : Nat) (x : Mgmt) : (s.setMg m x).topo = s.topo := rfl
@[simp] theorem State.setMg_hostCmd (s : State) (m : Nat) (x : Mgmt) : (s.setMg m x).hostCmd = s.hostCmd := rfl
@[simp] theorem State.setMg_hostArgs (s : State) (m : Nat) (x : Mgmt) : (s.setMg m x).hostArgs = s.hostArgs := rfl
@[simp] theorem State.setMg_mbBusy (s : State) (m : Nat) (x : Mgmt) : (s.setMg m x).mbBusy = s.mbBusy := rfl
@[simp] theorem State.setMg_fi (s : State) (m : Nat) (x : Mgmt) : (s.setMg m x).fi = s.fi := rfl
@[simp] theorem State.setMg_vi (s : State) (m : Nat) (x : Mgmt) : (s.setMg m x).vi = s.vi := rfl
@[simp] theorem State.setMg_clampDue (s : State) (m : Nat) (x : Mgmt) : (s.setMg m x).clampDue = s.clampDue := rfl
@[simp] theorem State.setMg_mons (s : State) (m : Nat) (x : Mgmt) : (s.setMg m x).mons = s.mons := rfl
@[simp] theorem State.setMg_hostOut (s : State) (m : Nat) (x : Mgmt) : (s.setMg m x).hostOut = s.hostOut := rfl

/-! `modBank` changes `banks` alone. -/

@[simp] theorem State.modBank_cursor (s : State) (p : Nat) (f : Bank → Bank) : (s.modBank p f).cursor = s.cursor := rfl
@[simp] theorem State.modBank_wall (s : State) (p : Nat) (f : Bank → Bank) : (s.modBank p f).wall = s.wall := rfl
@[simp] theorem State.modBank_script (s : State) (p : Nat) (f : Bank → Bank) : (s.modBank p f).script = s.script := rfl
@[simp] theorem State.modBank_free (s : State) (p : Nat) (f : Bank → Bank) : (s.modBank p f).free = s.free := rfl
@[simp] theorem State.modBank_nextId (s : State) (p : Nat) (f : Bank → Bank) : (s.modBank p f).nextId = s.nextId := rfl
@[simp] theorem State.modBank_troupes (s : State) (p : Nat) (f : Bank → Bank) : (s.modBank p f).troupes = s.troupes := rfl
@[simp] theorem State.modBank_mgmt (s : State) (p : Nat) (f : Bank → Bank) : (s.modBank p f).mgmt = s.mgmt := rfl
@[simp] theorem State.modBank_parts (s : State) (p : Nat) (f : Bank → Bank) : (s.modBank p f).parts = s.parts := rfl
@[simp] theorem State.modBank_vfs (s : State) (p : Nat) (f : Bank → Bank) : (s.modBank p f).vfs = s.vfs := rfl
@[simp] theorem State.modBank_gmem (s : State) (p : Nat) (f : Bank → Bank) : (s.modBank p f).gmem = s.gmem := rfl
@[simp] theorem State.modBank_ghist (s : State) (p : Nat) (f : Bank → Bank) : (s.modBank p f).ghist = s.ghist := rfl
@[simp] theorem State.modBank_hmem (s : State) (p : Nat) (f : Bank → Bank) : (s.modBank p f).hmem = s.hmem := rfl
@[simp] theorem State.modBank_sram (s : State) (p : Nat) (f : Bank → Bank) : (s.modBank p f).sram = s.sram := rfl
@[simp] theorem State.modBank_ctrs (s : State) (p : Nat) (f : Bank → Bank) : (s.modBank p f).ctrs = s.ctrs := rfl
@[simp] theorem State.modBank_ctrOps (s : State) (p : Nat) (f : Bank → Bank) : (s.modBank p f).ctrOps = s.ctrOps := rfl
@[simp] theorem State.modBank_ports (s : State) (p : Nat) (f : Bank → Bank) : (s.modBank p f).ports = s.ports := rfl
@[simp] theorem State.modBank_out (s : State) (p : Nat) (f : Bank → Bank) : (s.modBank p f).out = s.out := rfl
@[simp] theorem State.modBank_flight (s : State) (p : Nat) (f : Bank → Bank) : (s.modBank p f).flight = s.flight := rfl
@[simp] theorem State.modBank_live (s : State) (p : Nat) (f : Bank → Bank) : (s.modBank p f).live = s.live := rfl
@[simp] theorem State.modBank_tlbs (s : State) (p : Nat) (f : Bank → Bank) : (s.modBank p f).tlbs = s.tlbs := rfl
@[simp] theorem State.modBank_hmem2 (s : State) (p : Nat) (f : Bank → Bank) : (s.modBank p f).hmem2 = s.hmem2 := rfl
@[simp] theorem State.modBank_qs (s : State) (p : Nat) (f : Bank → Bank) : (s.modBank p f).qs = s.qs := rfl
@[simp] theorem State.modBank_qsFrom (s : State) (p : Nat) (f : Bank → Bank) : (s.modBank p f).qsFrom = s.qsFrom := rfl
@[simp] theorem State.modBank_pmap (s : State) (p : Nat) (f : Bank → Bank) : (s.modBank p f).pmap = s.pmap := rfl
@[simp] theorem State.modBank_expect (s : State) (p : Nat) (f : Bank → Bank) : (s.modBank p f).expect = s.expect := rfl
@[simp] theorem State.modBank_nextSeq (s : State) (p : Nat) (f : Bank → Bank) : (s.modBank p f).nextSeq = s.nextSeq := rfl
@[simp] theorem State.modBank_topo (s : State) (p : Nat) (f : Bank → Bank) : (s.modBank p f).topo = s.topo := rfl
@[simp] theorem State.modBank_hostCmd (s : State) (p : Nat) (f : Bank → Bank) : (s.modBank p f).hostCmd = s.hostCmd := rfl
@[simp] theorem State.modBank_hostArgs (s : State) (p : Nat) (f : Bank → Bank) : (s.modBank p f).hostArgs = s.hostArgs := rfl
@[simp] theorem State.modBank_mbBusy (s : State) (p : Nat) (f : Bank → Bank) : (s.modBank p f).mbBusy = s.mbBusy := rfl
@[simp] theorem State.modBank_fi (s : State) (p : Nat) (f : Bank → Bank) : (s.modBank p f).fi = s.fi := rfl
@[simp] theorem State.modBank_vi (s : State) (p : Nat) (f : Bank → Bank) : (s.modBank p f).vi = s.vi := rfl
@[simp] theorem State.modBank_clampDue (s : State) (p : Nat) (f : Bank → Bank) : (s.modBank p f).clampDue = s.clampDue := rfl
@[simp] theorem State.modBank_mons (s : State) (p : Nat) (f : Bank → Bank) : (s.modBank p f).mons = s.mons := rfl
@[simp] theorem State.modBank_hostOut (s : State) (p : Nat) (f : Bank → Bank) : (s.modBank p f).hostOut = s.hostOut := rfl

/-! `modVf` changes `vfs` alone. -/

@[simp] theorem State.modVf_cursor (s : State) (v : Nat) (f : Vf → Vf) : (s.modVf v f).cursor = s.cursor := rfl
@[simp] theorem State.modVf_wall (s : State) (v : Nat) (f : Vf → Vf) : (s.modVf v f).wall = s.wall := rfl
@[simp] theorem State.modVf_script (s : State) (v : Nat) (f : Vf → Vf) : (s.modVf v f).script = s.script := rfl
@[simp] theorem State.modVf_free (s : State) (v : Nat) (f : Vf → Vf) : (s.modVf v f).free = s.free := rfl
@[simp] theorem State.modVf_nextId (s : State) (v : Nat) (f : Vf → Vf) : (s.modVf v f).nextId = s.nextId := rfl
@[simp] theorem State.modVf_troupes (s : State) (v : Nat) (f : Vf → Vf) : (s.modVf v f).troupes = s.troupes := rfl
@[simp] theorem State.modVf_mgmt (s : State) (v : Nat) (f : Vf → Vf) : (s.modVf v f).mgmt = s.mgmt := rfl
@[simp] theorem State.modVf_banks (s : State) (v : Nat) (f : Vf → Vf) : (s.modVf v f).banks = s.banks := rfl
@[simp] theorem State.modVf_parts (s : State) (v : Nat) (f : Vf → Vf) : (s.modVf v f).parts = s.parts := rfl
@[simp] theorem State.modVf_gmem (s : State) (v : Nat) (f : Vf → Vf) : (s.modVf v f).gmem = s.gmem := rfl
@[simp] theorem State.modVf_ghist (s : State) (v : Nat) (f : Vf → Vf) : (s.modVf v f).ghist = s.ghist := rfl
@[simp] theorem State.modVf_hmem (s : State) (v : Nat) (f : Vf → Vf) : (s.modVf v f).hmem = s.hmem := rfl
@[simp] theorem State.modVf_sram (s : State) (v : Nat) (f : Vf → Vf) : (s.modVf v f).sram = s.sram := rfl
@[simp] theorem State.modVf_ctrs (s : State) (v : Nat) (f : Vf → Vf) : (s.modVf v f).ctrs = s.ctrs := rfl
@[simp] theorem State.modVf_ctrOps (s : State) (v : Nat) (f : Vf → Vf) : (s.modVf v f).ctrOps = s.ctrOps := rfl
@[simp] theorem State.modVf_ports (s : State) (v : Nat) (f : Vf → Vf) : (s.modVf v f).ports = s.ports := rfl
@[simp] theorem State.modVf_out (s : State) (v : Nat) (f : Vf → Vf) : (s.modVf v f).out = s.out := rfl
@[simp] theorem State.modVf_flight (s : State) (v : Nat) (f : Vf → Vf) : (s.modVf v f).flight = s.flight := rfl
@[simp] theorem State.modVf_live (s : State) (v : Nat) (f : Vf → Vf) : (s.modVf v f).live = s.live := rfl
@[simp] theorem State.modVf_tlbs (s : State) (v : Nat) (f : Vf → Vf) : (s.modVf v f).tlbs = s.tlbs := rfl
@[simp] theorem State.modVf_hmem2 (s : State) (v : Nat) (f : Vf → Vf) : (s.modVf v f).hmem2 = s.hmem2 := rfl
@[simp] theorem State.modVf_qs (s : State) (v : Nat) (f : Vf → Vf) : (s.modVf v f).qs = s.qs := rfl
@[simp] theorem State.modVf_qsFrom (s : State) (v : Nat) (f : Vf → Vf) : (s.modVf v f).qsFrom = s.qsFrom := rfl
@[simp] theorem State.modVf_pmap (s : State) (v : Nat) (f : Vf → Vf) : (s.modVf v f).pmap = s.pmap := rfl
@[simp] theorem State.modVf_expect (s : State) (v : Nat) (f : Vf → Vf) : (s.modVf v f).expect = s.expect := rfl
@[simp] theorem State.modVf_nextSeq (s : State) (v : Nat) (f : Vf → Vf) : (s.modVf v f).nextSeq = s.nextSeq := rfl
@[simp] theorem State.modVf_topo (s : State) (v : Nat) (f : Vf → Vf) : (s.modVf v f).topo = s.topo := rfl
@[simp] theorem State.modVf_hostCmd (s : State) (v : Nat) (f : Vf → Vf) : (s.modVf v f).hostCmd = s.hostCmd := rfl
@[simp] theorem State.modVf_hostArgs (s : State) (v : Nat) (f : Vf → Vf) : (s.modVf v f).hostArgs = s.hostArgs := rfl
@[simp] theorem State.modVf_mbBusy (s : State) (v : Nat) (f : Vf → Vf) : (s.modVf v f).mbBusy = s.mbBusy := rfl
@[simp] theorem State.modVf_fi (s : State) (v : Nat) (f : Vf → Vf) : (s.modVf v f).fi = s.fi := rfl
@[simp] theorem State.modVf_vi (s : State) (v : Nat) (f : Vf → Vf) : (s.modVf v f).vi = s.vi := rfl
@[simp] theorem State.modVf_clampDue (s : State) (v : Nat) (f : Vf → Vf) : (s.modVf v f).clampDue = s.clampDue := rfl
@[simp] theorem State.modVf_mons (s : State) (v : Nat) (f : Vf → Vf) : (s.modVf v f).mons = s.mons := rfl
@[simp] theorem State.modVf_hostOut (s : State) (v : Nat) (f : Vf → Vf) : (s.modVf v f).hostOut = s.hostOut := rfl

/-! `modPart` changes `parts` alone. -/

@[simp] theorem State.modPart_cursor (s : State) (p : Nat) (f : Part → Part) : (s.modPart p f).cursor = s.cursor := rfl
@[simp] theorem State.modPart_wall (s : State) (p : Nat) (f : Part → Part) : (s.modPart p f).wall = s.wall := rfl
@[simp] theorem State.modPart_script (s : State) (p : Nat) (f : Part → Part) : (s.modPart p f).script = s.script := rfl
@[simp] theorem State.modPart_free (s : State) (p : Nat) (f : Part → Part) : (s.modPart p f).free = s.free := rfl
@[simp] theorem State.modPart_nextId (s : State) (p : Nat) (f : Part → Part) : (s.modPart p f).nextId = s.nextId := rfl
@[simp] theorem State.modPart_troupes (s : State) (p : Nat) (f : Part → Part) : (s.modPart p f).troupes = s.troupes := rfl
@[simp] theorem State.modPart_mgmt (s : State) (p : Nat) (f : Part → Part) : (s.modPart p f).mgmt = s.mgmt := rfl
@[simp] theorem State.modPart_banks (s : State) (p : Nat) (f : Part → Part) : (s.modPart p f).banks = s.banks := rfl
@[simp] theorem State.modPart_vfs (s : State) (p : Nat) (f : Part → Part) : (s.modPart p f).vfs = s.vfs := rfl
@[simp] theorem State.modPart_gmem (s : State) (p : Nat) (f : Part → Part) : (s.modPart p f).gmem = s.gmem := rfl
@[simp] theorem State.modPart_ghist (s : State) (p : Nat) (f : Part → Part) : (s.modPart p f).ghist = s.ghist := rfl
@[simp] theorem State.modPart_hmem (s : State) (p : Nat) (f : Part → Part) : (s.modPart p f).hmem = s.hmem := rfl
@[simp] theorem State.modPart_sram (s : State) (p : Nat) (f : Part → Part) : (s.modPart p f).sram = s.sram := rfl
@[simp] theorem State.modPart_ctrs (s : State) (p : Nat) (f : Part → Part) : (s.modPart p f).ctrs = s.ctrs := rfl
@[simp] theorem State.modPart_ctrOps (s : State) (p : Nat) (f : Part → Part) : (s.modPart p f).ctrOps = s.ctrOps := rfl
@[simp] theorem State.modPart_ports (s : State) (p : Nat) (f : Part → Part) : (s.modPart p f).ports = s.ports := rfl
@[simp] theorem State.modPart_out (s : State) (p : Nat) (f : Part → Part) : (s.modPart p f).out = s.out := rfl
@[simp] theorem State.modPart_flight (s : State) (p : Nat) (f : Part → Part) : (s.modPart p f).flight = s.flight := rfl
@[simp] theorem State.modPart_live (s : State) (p : Nat) (f : Part → Part) : (s.modPart p f).live = s.live := rfl
@[simp] theorem State.modPart_tlbs (s : State) (p : Nat) (f : Part → Part) : (s.modPart p f).tlbs = s.tlbs := rfl
@[simp] theorem State.modPart_hmem2 (s : State) (p : Nat) (f : Part → Part) : (s.modPart p f).hmem2 = s.hmem2 := rfl
@[simp] theorem State.modPart_qs (s : State) (p : Nat) (f : Part → Part) : (s.modPart p f).qs = s.qs := rfl
@[simp] theorem State.modPart_qsFrom (s : State) (p : Nat) (f : Part → Part) : (s.modPart p f).qsFrom = s.qsFrom := rfl
@[simp] theorem State.modPart_pmap (s : State) (p : Nat) (f : Part → Part) : (s.modPart p f).pmap = s.pmap := rfl
@[simp] theorem State.modPart_expect (s : State) (p : Nat) (f : Part → Part) : (s.modPart p f).expect = s.expect := rfl
@[simp] theorem State.modPart_nextSeq (s : State) (p : Nat) (f : Part → Part) : (s.modPart p f).nextSeq = s.nextSeq := rfl
@[simp] theorem State.modPart_topo (s : State) (p : Nat) (f : Part → Part) : (s.modPart p f).topo = s.topo := rfl
@[simp] theorem State.modPart_hostCmd (s : State) (p : Nat) (f : Part → Part) : (s.modPart p f).hostCmd = s.hostCmd := rfl
@[simp] theorem State.modPart_hostArgs (s : State) (p : Nat) (f : Part → Part) : (s.modPart p f).hostArgs = s.hostArgs := rfl
@[simp] theorem State.modPart_mbBusy (s : State) (p : Nat) (f : Part → Part) : (s.modPart p f).mbBusy = s.mbBusy := rfl
@[simp] theorem State.modPart_fi (s : State) (p : Nat) (f : Part → Part) : (s.modPart p f).fi = s.fi := rfl
@[simp] theorem State.modPart_vi (s : State) (p : Nat) (f : Part → Part) : (s.modPart p f).vi = s.vi := rfl
@[simp] theorem State.modPart_clampDue (s : State) (p : Nat) (f : Part → Part) : (s.modPart p f).clampDue = s.clampDue := rfl
@[simp] theorem State.modPart_mons (s : State) (p : Nat) (f : Part → Part) : (s.modPart p f).mons = s.mons := rfl
@[simp] theorem State.modPart_hostOut (s : State) (p : Nat) (f : Part → Part) : (s.modPart p f).hostOut = s.hostOut := rfl

/-! `setPort` changes `ports` alone. -/

@[simp] theorem State.setPort_cursor (s : State) (q : Nat) (p : Port) : (s.setPort q p).cursor = s.cursor := rfl
@[simp] theorem State.setPort_wall (s : State) (q : Nat) (p : Port) : (s.setPort q p).wall = s.wall := rfl
@[simp] theorem State.setPort_script (s : State) (q : Nat) (p : Port) : (s.setPort q p).script = s.script := rfl
@[simp] theorem State.setPort_free (s : State) (q : Nat) (p : Port) : (s.setPort q p).free = s.free := rfl
@[simp] theorem State.setPort_nextId (s : State) (q : Nat) (p : Port) : (s.setPort q p).nextId = s.nextId := rfl
@[simp] theorem State.setPort_troupes (s : State) (q : Nat) (p : Port) : (s.setPort q p).troupes = s.troupes := rfl
@[simp] theorem State.setPort_mgmt (s : State) (q : Nat) (p : Port) : (s.setPort q p).mgmt = s.mgmt := rfl
@[simp] theorem State.setPort_banks (s : State) (q : Nat) (p : Port) : (s.setPort q p).banks = s.banks := rfl
@[simp] theorem State.setPort_parts (s : State) (q : Nat) (p : Port) : (s.setPort q p).parts = s.parts := rfl
@[simp] theorem State.setPort_vfs (s : State) (q : Nat) (p : Port) : (s.setPort q p).vfs = s.vfs := rfl
@[simp] theorem State.setPort_gmem (s : State) (q : Nat) (p : Port) : (s.setPort q p).gmem = s.gmem := rfl
@[simp] theorem State.setPort_ghist (s : State) (q : Nat) (p : Port) : (s.setPort q p).ghist = s.ghist := rfl
@[simp] theorem State.setPort_hmem (s : State) (q : Nat) (p : Port) : (s.setPort q p).hmem = s.hmem := rfl
@[simp] theorem State.setPort_sram (s : State) (q : Nat) (p : Port) : (s.setPort q p).sram = s.sram := rfl
@[simp] theorem State.setPort_ctrs (s : State) (q : Nat) (p : Port) : (s.setPort q p).ctrs = s.ctrs := rfl
@[simp] theorem State.setPort_ctrOps (s : State) (q : Nat) (p : Port) : (s.setPort q p).ctrOps = s.ctrOps := rfl
@[simp] theorem State.setPort_out (s : State) (q : Nat) (p : Port) : (s.setPort q p).out = s.out := rfl
@[simp] theorem State.setPort_flight (s : State) (q : Nat) (p : Port) : (s.setPort q p).flight = s.flight := rfl
@[simp] theorem State.setPort_live (s : State) (q : Nat) (p : Port) : (s.setPort q p).live = s.live := rfl
@[simp] theorem State.setPort_tlbs (s : State) (q : Nat) (p : Port) : (s.setPort q p).tlbs = s.tlbs := rfl
@[simp] theorem State.setPort_hmem2 (s : State) (q : Nat) (p : Port) : (s.setPort q p).hmem2 = s.hmem2 := rfl
@[simp] theorem State.setPort_qs (s : State) (q : Nat) (p : Port) : (s.setPort q p).qs = s.qs := rfl
@[simp] theorem State.setPort_qsFrom (s : State) (q : Nat) (p : Port) : (s.setPort q p).qsFrom = s.qsFrom := rfl
@[simp] theorem State.setPort_pmap (s : State) (q : Nat) (p : Port) : (s.setPort q p).pmap = s.pmap := rfl
@[simp] theorem State.setPort_expect (s : State) (q : Nat) (p : Port) : (s.setPort q p).expect = s.expect := rfl
@[simp] theorem State.setPort_nextSeq (s : State) (q : Nat) (p : Port) : (s.setPort q p).nextSeq = s.nextSeq := rfl
@[simp] theorem State.setPort_topo (s : State) (q : Nat) (p : Port) : (s.setPort q p).topo = s.topo := rfl
@[simp] theorem State.setPort_hostCmd (s : State) (q : Nat) (p : Port) : (s.setPort q p).hostCmd = s.hostCmd := rfl
@[simp] theorem State.setPort_hostArgs (s : State) (q : Nat) (p : Port) : (s.setPort q p).hostArgs = s.hostArgs := rfl
@[simp] theorem State.setPort_mbBusy (s : State) (q : Nat) (p : Port) : (s.setPort q p).mbBusy = s.mbBusy := rfl
@[simp] theorem State.setPort_fi (s : State) (q : Nat) (p : Port) : (s.setPort q p).fi = s.fi := rfl
@[simp] theorem State.setPort_vi (s : State) (q : Nat) (p : Port) : (s.setPort q p).vi = s.vi := rfl
@[simp] theorem State.setPort_clampDue (s : State) (q : Nat) (p : Port) : (s.setPort q p).clampDue = s.clampDue := rfl
@[simp] theorem State.setPort_mons (s : State) (q : Nat) (p : Port) : (s.setPort q p).mons = s.mons := rfl
@[simp] theorem State.setPort_hostOut (s : State) (q : Nat) (p : Port) : (s.setPort q p).hostOut = s.hostOut := rfl

/-! `setHvIp` changes `mgmt` alone. -/

@[simp] theorem State.setHvIp_cursor (s : State) (i : Nat) : (s.setHvIp i).cursor = s.cursor := rfl
@[simp] theorem State.setHvIp_wall (s : State) (i : Nat) : (s.setHvIp i).wall = s.wall := rfl
@[simp] theorem State.setHvIp_script (s : State) (i : Nat) : (s.setHvIp i).script = s.script := rfl
@[simp] theorem State.setHvIp_free (s : State) (i : Nat) : (s.setHvIp i).free = s.free := rfl
@[simp] theorem State.setHvIp_nextId (s : State) (i : Nat) : (s.setHvIp i).nextId = s.nextId := rfl
@[simp] theorem State.setHvIp_troupes (s : State) (i : Nat) : (s.setHvIp i).troupes = s.troupes := rfl
@[simp] theorem State.setHvIp_banks (s : State) (i : Nat) : (s.setHvIp i).banks = s.banks := rfl
@[simp] theorem State.setHvIp_parts (s : State) (i : Nat) : (s.setHvIp i).parts = s.parts := rfl
@[simp] theorem State.setHvIp_vfs (s : State) (i : Nat) : (s.setHvIp i).vfs = s.vfs := rfl
@[simp] theorem State.setHvIp_gmem (s : State) (i : Nat) : (s.setHvIp i).gmem = s.gmem := rfl
@[simp] theorem State.setHvIp_ghist (s : State) (i : Nat) : (s.setHvIp i).ghist = s.ghist := rfl
@[simp] theorem State.setHvIp_hmem (s : State) (i : Nat) : (s.setHvIp i).hmem = s.hmem := rfl
@[simp] theorem State.setHvIp_sram (s : State) (i : Nat) : (s.setHvIp i).sram = s.sram := rfl
@[simp] theorem State.setHvIp_ctrs (s : State) (i : Nat) : (s.setHvIp i).ctrs = s.ctrs := rfl
@[simp] theorem State.setHvIp_ctrOps (s : State) (i : Nat) : (s.setHvIp i).ctrOps = s.ctrOps := rfl
@[simp] theorem State.setHvIp_ports (s : State) (i : Nat) : (s.setHvIp i).ports = s.ports := rfl
@[simp] theorem State.setHvIp_out (s : State) (i : Nat) : (s.setHvIp i).out = s.out := rfl
@[simp] theorem State.setHvIp_flight (s : State) (i : Nat) : (s.setHvIp i).flight = s.flight := rfl
@[simp] theorem State.setHvIp_live (s : State) (i : Nat) : (s.setHvIp i).live = s.live := rfl
@[simp] theorem State.setHvIp_tlbs (s : State) (i : Nat) : (s.setHvIp i).tlbs = s.tlbs := rfl
@[simp] theorem State.setHvIp_hmem2 (s : State) (i : Nat) : (s.setHvIp i).hmem2 = s.hmem2 := rfl
@[simp] theorem State.setHvIp_qs (s : State) (i : Nat) : (s.setHvIp i).qs = s.qs := rfl
@[simp] theorem State.setHvIp_qsFrom (s : State) (i : Nat) : (s.setHvIp i).qsFrom = s.qsFrom := rfl
@[simp] theorem State.setHvIp_pmap (s : State) (i : Nat) : (s.setHvIp i).pmap = s.pmap := rfl
@[simp] theorem State.setHvIp_expect (s : State) (i : Nat) : (s.setHvIp i).expect = s.expect := rfl
@[simp] theorem State.setHvIp_nextSeq (s : State) (i : Nat) : (s.setHvIp i).nextSeq = s.nextSeq := rfl
@[simp] theorem State.setHvIp_topo (s : State) (i : Nat) : (s.setHvIp i).topo = s.topo := rfl
@[simp] theorem State.setHvIp_hostCmd (s : State) (i : Nat) : (s.setHvIp i).hostCmd = s.hostCmd := rfl
@[simp] theorem State.setHvIp_hostArgs (s : State) (i : Nat) : (s.setHvIp i).hostArgs = s.hostArgs := rfl
@[simp] theorem State.setHvIp_mbBusy (s : State) (i : Nat) : (s.setHvIp i).mbBusy = s.mbBusy := rfl
@[simp] theorem State.setHvIp_fi (s : State) (i : Nat) : (s.setHvIp i).fi = s.fi := rfl
@[simp] theorem State.setHvIp_vi (s : State) (i : Nat) : (s.setHvIp i).vi = s.vi := rfl
@[simp] theorem State.setHvIp_clampDue (s : State) (i : Nat) : (s.setHvIp i).clampDue = s.clampDue := rfl
@[simp] theorem State.setHvIp_mons (s : State) (i : Nat) : (s.setHvIp i).mons = s.mons := rfl
@[simp] theorem State.setHvIp_hostOut (s : State) (i : Nat) : (s.setHvIp i).hostOut = s.hostOut := rfl

/-! `nextWord` changes `cursor` alone. -/

@[simp] theorem State.nextWord_wall (s : State) : s.nextWord.wall = s.wall := rfl
@[simp] theorem State.nextWord_script (s : State) : s.nextWord.script = s.script := rfl
@[simp] theorem State.nextWord_free (s : State) : s.nextWord.free = s.free := rfl
@[simp] theorem State.nextWord_nextId (s : State) : s.nextWord.nextId = s.nextId := rfl
@[simp] theorem State.nextWord_troupes (s : State) : s.nextWord.troupes = s.troupes := rfl
@[simp] theorem State.nextWord_mgmt (s : State) : s.nextWord.mgmt = s.mgmt := rfl
@[simp] theorem State.nextWord_banks (s : State) : s.nextWord.banks = s.banks := rfl
@[simp] theorem State.nextWord_parts (s : State) : s.nextWord.parts = s.parts := rfl
@[simp] theorem State.nextWord_vfs (s : State) : s.nextWord.vfs = s.vfs := rfl
@[simp] theorem State.nextWord_gmem (s : State) : s.nextWord.gmem = s.gmem := rfl
@[simp] theorem State.nextWord_ghist (s : State) : s.nextWord.ghist = s.ghist := rfl
@[simp] theorem State.nextWord_hmem (s : State) : s.nextWord.hmem = s.hmem := rfl
@[simp] theorem State.nextWord_sram (s : State) : s.nextWord.sram = s.sram := rfl
@[simp] theorem State.nextWord_ctrs (s : State) : s.nextWord.ctrs = s.ctrs := rfl
@[simp] theorem State.nextWord_ctrOps (s : State) : s.nextWord.ctrOps = s.ctrOps := rfl
@[simp] theorem State.nextWord_ports (s : State) : s.nextWord.ports = s.ports := rfl
@[simp] theorem State.nextWord_out (s : State) : s.nextWord.out = s.out := rfl
@[simp] theorem State.nextWord_flight (s : State) : s.nextWord.flight = s.flight := rfl
@[simp] theorem State.nextWord_live (s : State) : s.nextWord.live = s.live := rfl
@[simp] theorem State.nextWord_tlbs (s : State) : s.nextWord.tlbs = s.tlbs := rfl
@[simp] theorem State.nextWord_hmem2 (s : State) : s.nextWord.hmem2 = s.hmem2 := rfl
@[simp] theorem State.nextWord_qs (s : State) : s.nextWord.qs = s.qs := rfl
@[simp] theorem State.nextWord_qsFrom (s : State) : s.nextWord.qsFrom = s.qsFrom := rfl
@[simp] theorem State.nextWord_pmap (s : State) : s.nextWord.pmap = s.pmap := rfl
@[simp] theorem State.nextWord_expect (s : State) : s.nextWord.expect = s.expect := rfl
@[simp] theorem State.nextWord_nextSeq (s : State) : s.nextWord.nextSeq = s.nextSeq := rfl
@[simp] theorem State.nextWord_topo (s : State) : s.nextWord.topo = s.topo := rfl
@[simp] theorem State.nextWord_hostCmd (s : State) : s.nextWord.hostCmd = s.hostCmd := rfl
@[simp] theorem State.nextWord_hostArgs (s : State) : s.nextWord.hostArgs = s.hostArgs := rfl
@[simp] theorem State.nextWord_mbBusy (s : State) : s.nextWord.mbBusy = s.mbBusy := rfl
@[simp] theorem State.nextWord_fi (s : State) : s.nextWord.fi = s.fi := rfl
@[simp] theorem State.nextWord_vi (s : State) : s.nextWord.vi = s.vi := rfl
@[simp] theorem State.nextWord_clampDue (s : State) : s.nextWord.clampDue = s.clampDue := rfl
@[simp] theorem State.nextWord_mons (s : State) : s.nextWord.mons = s.mons := rfl
@[simp] theorem State.nextWord_hostOut (s : State) : s.nextWord.hostOut = s.hostOut := rfl

/-! `fresh` changes `nextId` alone. -/

@[simp] theorem State.fresh_cursor (s : State) : s.fresh.cursor = s.cursor := rfl
@[simp] theorem State.fresh_wall (s : State) : s.fresh.wall = s.wall := rfl
@[simp] theorem State.fresh_script (s : State) : s.fresh.script = s.script := rfl
@[simp] theorem State.fresh_free (s : State) : s.fresh.free = s.free := rfl
@[simp] theorem State.fresh_troupes (s : State) : s.fresh.troupes = s.troupes := rfl
@[simp] theorem State.fresh_mgmt (s : State) : s.fresh.mgmt = s.mgmt := rfl
@[simp] theorem State.fresh_banks (s : State) : s.fresh.banks = s.banks := rfl
@[simp] theorem State.fresh_parts (s : State) : s.fresh.parts = s.parts := rfl
@[simp] theorem State.fresh_vfs (s : State) : s.fresh.vfs = s.vfs := rfl
@[simp] theorem State.fresh_gmem (s : State) : s.fresh.gmem = s.gmem := rfl
@[simp] theorem State.fresh_ghist (s : State) : s.fresh.ghist = s.ghist := rfl
@[simp] theorem State.fresh_hmem (s : State) : s.fresh.hmem = s.hmem := rfl
@[simp] theorem State.fresh_sram (s : State) : s.fresh.sram = s.sram := rfl
@[simp] theorem State.fresh_ctrs (s : State) : s.fresh.ctrs = s.ctrs := rfl
@[simp] theorem State.fresh_ctrOps (s : State) : s.fresh.ctrOps = s.ctrOps := rfl
@[simp] theorem State.fresh_ports (s : State) : s.fresh.ports = s.ports := rfl
@[simp] theorem State.fresh_out (s : State) : s.fresh.out = s.out := rfl
@[simp] theorem State.fresh_flight (s : State) : s.fresh.flight = s.flight := rfl
@[simp] theorem State.fresh_live (s : State) : s.fresh.live = s.live := rfl
@[simp] theorem State.fresh_tlbs (s : State) : s.fresh.tlbs = s.tlbs := rfl
@[simp] theorem State.fresh_hmem2 (s : State) : s.fresh.hmem2 = s.hmem2 := rfl
@[simp] theorem State.fresh_qs (s : State) : s.fresh.qs = s.qs := rfl
@[simp] theorem State.fresh_qsFrom (s : State) : s.fresh.qsFrom = s.qsFrom := rfl
@[simp] theorem State.fresh_pmap (s : State) : s.fresh.pmap = s.pmap := rfl
@[simp] theorem State.fresh_expect (s : State) : s.fresh.expect = s.expect := rfl
@[simp] theorem State.fresh_nextSeq (s : State) : s.fresh.nextSeq = s.nextSeq := rfl
@[simp] theorem State.fresh_topo (s : State) : s.fresh.topo = s.topo := rfl
@[simp] theorem State.fresh_hostCmd (s : State) : s.fresh.hostCmd = s.hostCmd := rfl
@[simp] theorem State.fresh_hostArgs (s : State) : s.fresh.hostArgs = s.hostArgs := rfl
@[simp] theorem State.fresh_mbBusy (s : State) : s.fresh.mbBusy = s.mbBusy := rfl
@[simp] theorem State.fresh_fi (s : State) : s.fresh.fi = s.fi := rfl
@[simp] theorem State.fresh_vi (s : State) : s.fresh.vi = s.vi := rfl
@[simp] theorem State.fresh_clampDue (s : State) : s.fresh.clampDue = s.clampDue := rfl
@[simp] theorem State.fresh_mons (s : State) : s.fresh.mons = s.mons := rfl
@[simp] theorem State.fresh_hostOut (s : State) : s.fresh.hostOut = s.hostOut := rfl

/-! `tell` changes `hostOut` alone. -/

theorem State.tell_frame (s : State) (n : HostNote) : s.tell n = { s with hostOut := s.hostOut ++ [n] } := rfl
@[simp] theorem State.tell_cursor (s : State) (n : HostNote) : (s.tell n).cursor = s.cursor := rfl
@[simp] theorem State.tell_wall (s : State) (n : HostNote) : (s.tell n).wall = s.wall := rfl
@[simp] theorem State.tell_script (s : State) (n : HostNote) : (s.tell n).script = s.script := rfl
@[simp] theorem State.tell_free (s : State) (n : HostNote) : (s.tell n).free = s.free := rfl
@[simp] theorem State.tell_nextId (s : State) (n : HostNote) : (s.tell n).nextId = s.nextId := rfl
@[simp] theorem State.tell_troupes (s : State) (n : HostNote) : (s.tell n).troupes = s.troupes := rfl
@[simp] theorem State.tell_mgmt (s : State) (n : HostNote) : (s.tell n).mgmt = s.mgmt := rfl
@[simp] theorem State.tell_banks (s : State) (n : HostNote) : (s.tell n).banks = s.banks := rfl
@[simp] theorem State.tell_parts (s : State) (n : HostNote) : (s.tell n).parts = s.parts := rfl
@[simp] theorem State.tell_vfs (s : State) (n : HostNote) : (s.tell n).vfs = s.vfs := rfl
@[simp] theorem State.tell_gmem (s : State) (n : HostNote) : (s.tell n).gmem = s.gmem := rfl
@[simp] theorem State.tell_ghist (s : State) (n : HostNote) : (s.tell n).ghist = s.ghist := rfl
@[simp] theorem State.tell_hmem (s : State) (n : HostNote) : (s.tell n).hmem = s.hmem := rfl
@[simp] theorem State.tell_sram (s : State) (n : HostNote) : (s.tell n).sram = s.sram := rfl
@[simp] theorem State.tell_ctrs (s : State) (n : HostNote) : (s.tell n).ctrs = s.ctrs := rfl
@[simp] theorem State.tell_ctrOps (s : State) (n : HostNote) : (s.tell n).ctrOps = s.ctrOps := rfl
@[simp] theorem State.tell_ports (s : State) (n : HostNote) : (s.tell n).ports = s.ports := rfl
@[simp] theorem State.tell_out (s : State) (n : HostNote) : (s.tell n).out = s.out := rfl
@[simp] theorem State.tell_flight (s : State) (n : HostNote) : (s.tell n).flight = s.flight := rfl
@[simp] theorem State.tell_live (s : State) (n : HostNote) : (s.tell n).live = s.live := rfl
@[simp] theorem State.tell_tlbs (s : State) (n : HostNote) : (s.tell n).tlbs = s.tlbs := rfl
@[simp] theorem State.tell_hmem2 (s : State) (n : HostNote) : (s.tell n).hmem2 = s.hmem2 := rfl
@[simp] theorem State.tell_qs (s : State) (n : HostNote) : (s.tell n).qs = s.qs := rfl
@[simp] theorem State.tell_qsFrom (s : State) (n : HostNote) : (s.tell n).qsFrom = s.qsFrom := rfl
@[simp] theorem State.tell_pmap (s : State) (n : HostNote) : (s.tell n).pmap = s.pmap := rfl
@[simp] theorem State.tell_expect (s : State) (n : HostNote) : (s.tell n).expect = s.expect := rfl
@[simp] theorem State.tell_nextSeq (s : State) (n : HostNote) : (s.tell n).nextSeq = s.nextSeq := rfl
@[simp] theorem State.tell_topo (s : State) (n : HostNote) : (s.tell n).topo = s.topo := rfl
@[simp] theorem State.tell_hostCmd (s : State) (n : HostNote) : (s.tell n).hostCmd = s.hostCmd := rfl
@[simp] theorem State.tell_hostArgs (s : State) (n : HostNote) : (s.tell n).hostArgs = s.hostArgs := rfl
@[simp] theorem State.tell_mbBusy (s : State) (n : HostNote) : (s.tell n).mbBusy = s.mbBusy := rfl
@[simp] theorem State.tell_fi (s : State) (n : HostNote) : (s.tell n).fi = s.fi := rfl
@[simp] theorem State.tell_vi (s : State) (n : HostNote) : (s.tell n).vi = s.vi := rfl
@[simp] theorem State.tell_clampDue (s : State) (n : HostNote) : (s.tell n).clampDue = s.clampDue := rfl
@[simp] theorem State.tell_mons (s : State) (n : HostNote) : (s.tell n).mons = s.mons := rfl

/-! ## Updates that branch -/

/-- Shared events change the interval's pool alone. -/
theorem State.poolAdd_frame (s : State) (die cls n : Nat) :
    s.poolAdd die cls n = { s with pool := (s.poolAdd die cls n).pool } := by
  unfold State.poolAdd; split <;> rfl

/-- A direct charge changes the VFs alone. -/
theorem State.chargeOwner_frame (s : State) (v : Nat) (l : List (Nat × Nat × Nat)) :
    s.chargeOwner v l = { s with vfs := (s.chargeOwner v l).vfs } := rfl

/-- What an access to G costs a core is added to its charges; nothing else of it changes but the leaves it has paid for. -/
theorem Core.addCharges_frame (c : Core) (l : List (Nat × Nat × Nat)) :
    c.addCharges l = { c with chg := (c.addCharges l).chg } := rfl


theorem State.modTroupe_frame (s : State) (t : Nat) (f : Troupe → Troupe) :
    s.modTroupe t f = { s with troupes := (s.modTroupe t f).troupes } := by
  unfold State.modTroupe; cases s.troupe? t <;> rfl

theorem State.setCore_frame (s : State) (a : Agent) (c : Core) :
    s.setCore a c = { s with troupes := (s.setCore a c).troupes, mgmt := (s.setCore a c).mgmt } := by
  cases a with
  | core t r => rw [State.setCore, State.modTroupe_frame]
  | mgmt m => rfl

theorem State.modCore_frame (s : State) (a : Agent) (f : Core → Core) :
    s.modCore a f = { s with troupes := (s.modCore a f).troupes, mgmt := (s.modCore a f).mgmt } := by
  unfold State.modCore
  cases s.core? a with
  | none => rfl
  | some c => exact State.setCore_frame s a (f c)

/-- The completion of a word moves on to the next one and changes the issuing agent's core, nothing else. -/
theorem State.did_frame (s : State) (x : Iss) (c : Core) :
    s.did x c = { s with troupes := (s.did x c).troupes, mgmt := (s.did x c).mgmt, cursor := s.cursor.nextWord } := by
  unfold State.did State.nextWord
  rw [State.setCore_frame]

@[simp] theorem State.modTroupe_wall (s : State) (t : Nat) (f : Troupe → Troupe) : (s.modTroupe t f).wall = s.wall := by rw [State.modTroupe_frame]
@[simp] theorem State.modTroupe_script (s : State) (t : Nat) (f : Troupe → Troupe) : (s.modTroupe t f).script = s.script := by rw [State.modTroupe_frame]
@[simp] theorem State.modTroupe_gmem (s : State) (t : Nat) (f : Troupe → Troupe) : (s.modTroupe t f).gmem = s.gmem := by rw [State.modTroupe_frame]
@[simp] theorem State.modTroupe_ghist (s : State) (t : Nat) (f : Troupe → Troupe) : (s.modTroupe t f).ghist = s.ghist := by rw [State.modTroupe_frame]
@[simp] theorem State.modTroupe_hmem (s : State) (t : Nat) (f : Troupe → Troupe) : (s.modTroupe t f).hmem = s.hmem := by rw [State.modTroupe_frame]
@[simp] theorem State.modTroupe_sram (s : State) (t : Nat) (f : Troupe → Troupe) : (s.modTroupe t f).sram = s.sram := by rw [State.modTroupe_frame]
@[simp] theorem State.modTroupe_banks (s : State) (t : Nat) (f : Troupe → Troupe) : (s.modTroupe t f).banks = s.banks := by rw [State.modTroupe_frame]
@[simp] theorem State.modTroupe_parts (s : State) (t : Nat) (f : Troupe → Troupe) : (s.modTroupe t f).parts = s.parts := by rw [State.modTroupe_frame]
@[simp] theorem State.modTroupe_vfs (s : State) (t : Nat) (f : Troupe → Troupe) : (s.modTroupe t f).vfs = s.vfs := by rw [State.modTroupe_frame]
@[simp] theorem State.modTroupe_ctrs (s : State) (t : Nat) (f : Troupe → Troupe) : (s.modTroupe t f).ctrs = s.ctrs := by rw [State.modTroupe_frame]
@[simp] theorem State.modTroupe_ctrOps (s : State) (t : Nat) (f : Troupe → Troupe) : (s.modTroupe t f).ctrOps = s.ctrOps := by rw [State.modTroupe_frame]
@[simp] theorem State.modTroupe_ports (s : State) (t : Nat) (f : Troupe → Troupe) : (s.modTroupe t f).ports = s.ports := by rw [State.modTroupe_frame]
@[simp] theorem State.modTroupe_out (s : State) (t : Nat) (f : Troupe → Troupe) : (s.modTroupe t f).out = s.out := by rw [State.modTroupe_frame]
@[simp] theorem State.modTroupe_live (s : State) (t : Nat) (f : Troupe → Troupe) : (s.modTroupe t f).live = s.live := by rw [State.modTroupe_frame]
@[simp] theorem State.modTroupe_tlbs (s : State) (t : Nat) (f : Troupe → Troupe) : (s.modTroupe t f).tlbs = s.tlbs := by rw [State.modTroupe_frame]
@[simp] theorem State.modTroupe_hmem2 (s : State) (t : Nat) (f : Troupe → Troupe) : (s.modTroupe t f).hmem2 = s.hmem2 := by rw [State.modTroupe_frame]
@[simp] theorem State.modTroupe_qs (s : State) (t : Nat) (f : Troupe → Troupe) : (s.modTroupe t f).qs = s.qs := by rw [State.modTroupe_frame]
@[simp] theorem State.modTroupe_qsFrom (s : State) (t : Nat) (f : Troupe → Troupe) : (s.modTroupe t f).qsFrom = s.qsFrom := by rw [State.modTroupe_frame]
@[simp] theorem State.modTroupe_pmap (s : State) (t : Nat) (f : Troupe → Troupe) : (s.modTroupe t f).pmap = s.pmap := by rw [State.modTroupe_frame]
@[simp] theorem State.modTroupe_expect (s : State) (t : Nat) (f : Troupe → Troupe) : (s.modTroupe t f).expect = s.expect := by rw [State.modTroupe_frame]
@[simp] theorem State.modTroupe_nextSeq (s : State) (t : Nat) (f : Troupe → Troupe) : (s.modTroupe t f).nextSeq = s.nextSeq := by rw [State.modTroupe_frame]
@[simp] theorem State.modTroupe_topo (s : State) (t : Nat) (f : Troupe → Troupe) : (s.modTroupe t f).topo = s.topo := by rw [State.modTroupe_frame]
@[simp] theorem State.modTroupe_hostCmd (s : State) (t : Nat) (f : Troupe → Troupe) : (s.modTroupe t f).hostCmd = s.hostCmd := by rw [State.modTroupe_frame]
@[simp] theorem State.modTroupe_hostArgs (s : State) (t : Nat) (f : Troupe → Troupe) : (s.modTroupe t f).hostArgs = s.hostArgs := by rw [State.modTroupe_frame]
@[simp] theorem State.modTroupe_mbBusy (s : State) (t : Nat) (f : Troupe → Troupe) : (s.modTroupe t f).mbBusy = s.mbBusy := by rw [State.modTroupe_frame]
@[simp] theorem State.modTroupe_fi (s : State) (t : Nat) (f : Troupe → Troupe) : (s.modTroupe t f).fi = s.fi := by rw [State.modTroupe_frame]
@[simp] theorem State.modTroupe_vi (s : State) (t : Nat) (f : Troupe → Troupe) : (s.modTroupe t f).vi = s.vi := by rw [State.modTroupe_frame]
@[simp] theorem State.modTroupe_clampDue (s : State) (t : Nat) (f : Troupe → Troupe) : (s.modTroupe t f).clampDue = s.clampDue := by rw [State.modTroupe_frame]
@[simp] theorem State.modTroupe_mons (s : State) (t : Nat) (f : Troupe → Troupe) : (s.modTroupe t f).mons = s.mons := by rw [State.modTroupe_frame]
@[simp] theorem State.modTroupe_hostOut (s : State) (t : Nat) (f : Troupe → Troupe) : (s.modTroupe t f).hostOut = s.hostOut := by rw [State.modTroupe_frame]

@[simp] theorem State.setCore_wall (s : State) (a : Agent) (c : Core) : (s.setCore a c).wall = s.wall := by rw [State.setCore_frame]
@[simp] theorem State.setCore_script (s : State) (a : Agent) (c : Core) : (s.setCore a c).script = s.script := by rw [State.setCore_frame]
@[simp] theorem State.setCore_gmem (s : State) (a : Agent) (c : Core) : (s.setCore a c).gmem = s.gmem := by rw [State.setCore_frame]
@[simp] theorem State.setCore_ghist (s : State) (a : Agent) (c : Core) : (s.setCore a c).ghist = s.ghist := by rw [State.setCore_frame]
@[simp] theorem State.setCore_hmem (s : State) (a : Agent) (c : Core) : (s.setCore a c).hmem = s.hmem := by rw [State.setCore_frame]
@[simp] theorem State.setCore_sram (s : State) (a : Agent) (c : Core) : (s.setCore a c).sram = s.sram := by rw [State.setCore_frame]
@[simp] theorem State.setCore_banks (s : State) (a : Agent) (c : Core) : (s.setCore a c).banks = s.banks := by rw [State.setCore_frame]
@[simp] theorem State.setCore_parts (s : State) (a : Agent) (c : Core) : (s.setCore a c).parts = s.parts := by rw [State.setCore_frame]
@[simp] theorem State.setCore_vfs (s : State) (a : Agent) (c : Core) : (s.setCore a c).vfs = s.vfs := by rw [State.setCore_frame]
@[simp] theorem State.setCore_ctrs (s : State) (a : Agent) (c : Core) : (s.setCore a c).ctrs = s.ctrs := by rw [State.setCore_frame]
@[simp] theorem State.setCore_ctrOps (s : State) (a : Agent) (c : Core) : (s.setCore a c).ctrOps = s.ctrOps := by rw [State.setCore_frame]
@[simp] theorem State.setCore_ports (s : State) (a : Agent) (c : Core) : (s.setCore a c).ports = s.ports := by rw [State.setCore_frame]
@[simp] theorem State.setCore_out (s : State) (a : Agent) (c : Core) : (s.setCore a c).out = s.out := by rw [State.setCore_frame]
@[simp] theorem State.setCore_live (s : State) (a : Agent) (c : Core) : (s.setCore a c).live = s.live := by rw [State.setCore_frame]
@[simp] theorem State.setCore_tlbs (s : State) (a : Agent) (c : Core) : (s.setCore a c).tlbs = s.tlbs := by rw [State.setCore_frame]
@[simp] theorem State.setCore_hmem2 (s : State) (a : Agent) (c : Core) : (s.setCore a c).hmem2 = s.hmem2 := by rw [State.setCore_frame]
@[simp] theorem State.setCore_qs (s : State) (a : Agent) (c : Core) : (s.setCore a c).qs = s.qs := by rw [State.setCore_frame]
@[simp] theorem State.setCore_qsFrom (s : State) (a : Agent) (c : Core) : (s.setCore a c).qsFrom = s.qsFrom := by rw [State.setCore_frame]
@[simp] theorem State.setCore_pmap (s : State) (a : Agent) (c : Core) : (s.setCore a c).pmap = s.pmap := by rw [State.setCore_frame]
@[simp] theorem State.setCore_expect (s : State) (a : Agent) (c : Core) : (s.setCore a c).expect = s.expect := by rw [State.setCore_frame]
@[simp] theorem State.setCore_nextSeq (s : State) (a : Agent) (c : Core) : (s.setCore a c).nextSeq = s.nextSeq := by rw [State.setCore_frame]
@[simp] theorem State.setCore_topo (s : State) (a : Agent) (c : Core) : (s.setCore a c).topo = s.topo := by rw [State.setCore_frame]
@[simp] theorem State.setCore_hostCmd (s : State) (a : Agent) (c : Core) : (s.setCore a c).hostCmd = s.hostCmd := by rw [State.setCore_frame]
@[simp] theorem State.setCore_hostArgs (s : State) (a : Agent) (c : Core) : (s.setCore a c).hostArgs = s.hostArgs := by rw [State.setCore_frame]
@[simp] theorem State.setCore_mbBusy (s : State) (a : Agent) (c : Core) : (s.setCore a c).mbBusy = s.mbBusy := by rw [State.setCore_frame]
@[simp] theorem State.setCore_fi (s : State) (a : Agent) (c : Core) : (s.setCore a c).fi = s.fi := by rw [State.setCore_frame]
@[simp] theorem State.setCore_vi (s : State) (a : Agent) (c : Core) : (s.setCore a c).vi = s.vi := by rw [State.setCore_frame]
@[simp] theorem State.setCore_clampDue (s : State) (a : Agent) (c : Core) : (s.setCore a c).clampDue = s.clampDue := by rw [State.setCore_frame]
@[simp] theorem State.setCore_mons (s : State) (a : Agent) (c : Core) : (s.setCore a c).mons = s.mons := by rw [State.setCore_frame]
@[simp] theorem State.setCore_hostOut (s : State) (a : Agent) (c : Core) : (s.setCore a c).hostOut = s.hostOut := by rw [State.setCore_frame]

@[simp] theorem State.modCore_wall (s : State) (a : Agent) (f : Core → Core) : (s.modCore a f).wall = s.wall := by rw [State.modCore_frame]
@[simp] theorem State.modCore_script (s : State) (a : Agent) (f : Core → Core) : (s.modCore a f).script = s.script := by rw [State.modCore_frame]
@[simp] theorem State.modCore_gmem (s : State) (a : Agent) (f : Core → Core) : (s.modCore a f).gmem = s.gmem := by rw [State.modCore_frame]
@[simp] theorem State.modCore_ghist (s : State) (a : Agent) (f : Core → Core) : (s.modCore a f).ghist = s.ghist := by rw [State.modCore_frame]
@[simp] theorem State.modCore_hmem (s : State) (a : Agent) (f : Core → Core) : (s.modCore a f).hmem = s.hmem := by rw [State.modCore_frame]
@[simp] theorem State.modCore_sram (s : State) (a : Agent) (f : Core → Core) : (s.modCore a f).sram = s.sram := by rw [State.modCore_frame]
@[simp] theorem State.modCore_banks (s : State) (a : Agent) (f : Core → Core) : (s.modCore a f).banks = s.banks := by rw [State.modCore_frame]
@[simp] theorem State.modCore_parts (s : State) (a : Agent) (f : Core → Core) : (s.modCore a f).parts = s.parts := by rw [State.modCore_frame]
@[simp] theorem State.modCore_vfs (s : State) (a : Agent) (f : Core → Core) : (s.modCore a f).vfs = s.vfs := by rw [State.modCore_frame]
@[simp] theorem State.modCore_ctrs (s : State) (a : Agent) (f : Core → Core) : (s.modCore a f).ctrs = s.ctrs := by rw [State.modCore_frame]
@[simp] theorem State.modCore_ctrOps (s : State) (a : Agent) (f : Core → Core) : (s.modCore a f).ctrOps = s.ctrOps := by rw [State.modCore_frame]
@[simp] theorem State.modCore_ports (s : State) (a : Agent) (f : Core → Core) : (s.modCore a f).ports = s.ports := by rw [State.modCore_frame]
@[simp] theorem State.modCore_out (s : State) (a : Agent) (f : Core → Core) : (s.modCore a f).out = s.out := by rw [State.modCore_frame]
@[simp] theorem State.modCore_live (s : State) (a : Agent) (f : Core → Core) : (s.modCore a f).live = s.live := by rw [State.modCore_frame]
@[simp] theorem State.modCore_tlbs (s : State) (a : Agent) (f : Core → Core) : (s.modCore a f).tlbs = s.tlbs := by rw [State.modCore_frame]
@[simp] theorem State.modCore_hmem2 (s : State) (a : Agent) (f : Core → Core) : (s.modCore a f).hmem2 = s.hmem2 := by rw [State.modCore_frame]
@[simp] theorem State.modCore_qs (s : State) (a : Agent) (f : Core → Core) : (s.modCore a f).qs = s.qs := by rw [State.modCore_frame]
@[simp] theorem State.modCore_qsFrom (s : State) (a : Agent) (f : Core → Core) : (s.modCore a f).qsFrom = s.qsFrom := by rw [State.modCore_frame]
@[simp] theorem State.modCore_pmap (s : State) (a : Agent) (f : Core → Core) : (s.modCore a f).pmap = s.pmap := by rw [State.modCore_frame]
@[simp] theorem State.modCore_expect (s : State) (a : Agent) (f : Core → Core) : (s.modCore a f).expect = s.expect := by rw [State.modCore_frame]
@[simp] theorem State.modCore_nextSeq (s : State) (a : Agent) (f : Core → Core) : (s.modCore a f).nextSeq = s.nextSeq := by rw [State.modCore_frame]
@[simp] theorem State.modCore_topo (s : State) (a : Agent) (f : Core → Core) : (s.modCore a f).topo = s.topo := by rw [State.modCore_frame]
@[simp] theorem State.modCore_hostCmd (s : State) (a : Agent) (f : Core → Core) : (s.modCore a f).hostCmd = s.hostCmd := by rw [State.modCore_frame]
@[simp] theorem State.modCore_hostArgs (s : State) (a : Agent) (f : Core → Core) : (s.modCore a f).hostArgs = s.hostArgs := by rw [State.modCore_frame]
@[simp] theorem State.modCore_mbBusy (s : State) (a : Agent) (f : Core → Core) : (s.modCore a f).mbBusy = s.mbBusy := by rw [State.modCore_frame]
@[simp] theorem State.modCore_fi (s : State) (a : Agent) (f : Core → Core) : (s.modCore a f).fi = s.fi := by rw [State.modCore_frame]
@[simp] theorem State.modCore_vi (s : State) (a : Agent) (f : Core → Core) : (s.modCore a f).vi = s.vi := by rw [State.modCore_frame]
@[simp] theorem State.modCore_clampDue (s : State) (a : Agent) (f : Core → Core) : (s.modCore a f).clampDue = s.clampDue := by rw [State.modCore_frame]
@[simp] theorem State.modCore_mons (s : State) (a : Agent) (f : Core → Core) : (s.modCore a f).mons = s.mons := by rw [State.modCore_frame]
@[simp] theorem State.modCore_hostOut (s : State) (a : Agent) (f : Core → Core) : (s.modCore a f).hostOut = s.hostOut := by rw [State.modCore_frame]

@[simp] theorem State.did_wall (s : State) (x : Iss) (c : Core) : (s.did x c).wall = s.wall := by rw [State.did_frame]
@[simp] theorem State.did_script (s : State) (x : Iss) (c : Core) : (s.did x c).script = s.script := by rw [State.did_frame]
@[simp] theorem State.did_gmem (s : State) (x : Iss) (c : Core) : (s.did x c).gmem = s.gmem := by rw [State.did_frame]
@[simp] theorem State.did_ghist (s : State) (x : Iss) (c : Core) : (s.did x c).ghist = s.ghist := by rw [State.did_frame]
@[simp] theorem State.did_hmem (s : State) (x : Iss) (c : Core) : (s.did x c).hmem = s.hmem := by rw [State.did_frame]
@[simp] theorem State.did_sram (s : State) (x : Iss) (c : Core) : (s.did x c).sram = s.sram := by rw [State.did_frame]
@[simp] theorem State.did_banks (s : State) (x : Iss) (c : Core) : (s.did x c).banks = s.banks := by rw [State.did_frame]
@[simp] theorem State.did_parts (s : State) (x : Iss) (c : Core) : (s.did x c).parts = s.parts := by rw [State.did_frame]
@[simp] theorem State.did_vfs (s : State) (x : Iss) (c : Core) : (s.did x c).vfs = s.vfs := by rw [State.did_frame]
@[simp] theorem State.did_ctrs (s : State) (x : Iss) (c : Core) : (s.did x c).ctrs = s.ctrs := by rw [State.did_frame]
@[simp] theorem State.did_ctrOps (s : State) (x : Iss) (c : Core) : (s.did x c).ctrOps = s.ctrOps := by rw [State.did_frame]
@[simp] theorem State.did_ports (s : State) (x : Iss) (c : Core) : (s.did x c).ports = s.ports := by rw [State.did_frame]
@[simp] theorem State.did_out (s : State) (x : Iss) (c : Core) : (s.did x c).out = s.out := by rw [State.did_frame]
@[simp] theorem State.did_live (s : State) (x : Iss) (c : Core) : (s.did x c).live = s.live := by rw [State.did_frame]
@[simp] theorem State.did_tlbs (s : State) (x : Iss) (c : Core) : (s.did x c).tlbs = s.tlbs := by rw [State.did_frame]
@[simp] theorem State.did_hmem2 (s : State) (x : Iss) (c : Core) : (s.did x c).hmem2 = s.hmem2 := by rw [State.did_frame]
@[simp] theorem State.did_qs (s : State) (x : Iss) (c : Core) : (s.did x c).qs = s.qs := by rw [State.did_frame]
@[simp] theorem State.did_qsFrom (s : State) (x : Iss) (c : Core) : (s.did x c).qsFrom = s.qsFrom := by rw [State.did_frame]
@[simp] theorem State.did_pmap (s : State) (x : Iss) (c : Core) : (s.did x c).pmap = s.pmap := by rw [State.did_frame]
@[simp] theorem State.did_expect (s : State) (x : Iss) (c : Core) : (s.did x c).expect = s.expect := by rw [State.did_frame]
@[simp] theorem State.did_nextSeq (s : State) (x : Iss) (c : Core) : (s.did x c).nextSeq = s.nextSeq := by rw [State.did_frame]
@[simp] theorem State.did_topo (s : State) (x : Iss) (c : Core) : (s.did x c).topo = s.topo := by rw [State.did_frame]
@[simp] theorem State.did_hostCmd (s : State) (x : Iss) (c : Core) : (s.did x c).hostCmd = s.hostCmd := by rw [State.did_frame]
@[simp] theorem State.did_hostArgs (s : State) (x : Iss) (c : Core) : (s.did x c).hostArgs = s.hostArgs := by rw [State.did_frame]
@[simp] theorem State.did_mbBusy (s : State) (x : Iss) (c : Core) : (s.did x c).mbBusy = s.mbBusy := by rw [State.did_frame]
@[simp] theorem State.did_fi (s : State) (x : Iss) (c : Core) : (s.did x c).fi = s.fi := by rw [State.did_frame]
@[simp] theorem State.did_vi (s : State) (x : Iss) (c : Core) : (s.did x c).vi = s.vi := by rw [State.did_frame]
@[simp] theorem State.did_clampDue (s : State) (x : Iss) (c : Core) : (s.did x c).clampDue = s.clampDue := by rw [State.did_frame]
@[simp] theorem State.did_mons (s : State) (x : Iss) (c : Core) : (s.did x c).mons = s.mons := by rw [State.did_frame]
@[simp] theorem State.did_hostOut (s : State) (x : Iss) (c : Core) : (s.did x c).hostOut = s.hostOut := by rw [State.did_frame]

/-- An update that changes none of the three plain memories keeps their form. -/
theorem State.memWf_congr {s t : State} (hg : t.gmem = s.gmem) (hh : t.hmem = s.hmem) (hs : t.sram = s.sram) :
    t.memWf = s.memWf := by
  unfold State.memWf; rw [hg, hh, hs]

end Sys2Proof.Machine
end

