-- ==== Sys2Proof/Laws/Words.lean ====
section
/-!
SUPPORT. What the shared forms of a word do: one lemma for each form and each way it can end.
-/

namespace Sys2Proof.Machine

theorem coreWord_of_active {pd : Pd} {s : State} {x : Iss} (cls : Nat) (f : Iss → Res) (h : s.issuer = some x)
    (hp : x.core.on pd = true) :
    coreWord pd (some cls) s f = .next (s.finish x (f { x with core := x.core.charge cls 1 })) := by
  simp [coreWord, h, hp]

theorem coreWord_of_active_none {pd : Pd} {s : State} {x : Iss} (f : Iss → Res) (h : s.issuer = some x)
    (hp : x.core.on pd = true) : coreWord pd none s f = .next (s.finish x (f x)) := by
  simp [coreWord, h, hp]

theorem coreWord_of_inactive {pd : Pd} {s : State} {x : Iss} (cls : Option Nat) (f : Iss → Res)
    (h : s.issuer = some x) (hp : x.core.on pd = false) : coreWord pd cls s f = .next (s.did x x.core) := by
  simp [coreWord, h, hp]

theorem coreWord_of_no_issuer {pd : Pd} {s : State} (cls : Option Nat) (f : Iss → Res) (h : s.issuer = none) :
    coreWord pd cls s f = .refused .noIssuer := by
  simp [coreWord, h]

theorem vecWord_of_issuer {pd : Pd} {s : State} {x : Iss} (cls : Nat) (f : Iss → BitVec 1024 → Res)
    (h : s.issuer = some x) :
    vecWord pd (some cls) s f =
      .next (s.finish x (f (if x.core.mask pd = 0 then x else { x with core := x.core.charge cls 1 })
        (x.core.mask pd))) := by
  simp only [vecWord, h]
  split <;> rfl

theorem vecWord_of_issuer_none {pd : Pd} {s : State} {x : Iss} (f : Iss → BitVec 1024 → Res)
    (h : s.issuer = some x) : vecWord pd none s f = .next (s.finish x (f x (x.core.mask pd))) := by
  simp [vecWord, h]

theorem pkgWord_of_active {pd : Pd} {s : State} {x : Iss} (f : Iss → State ⊕ Exc) (h : s.issuer = some x)
    (hp : x.core.on pd = true) :
    pkgWord pd s f = match f { x with core := x.core.charge 0x01 1 } with
      | .inl s' => .next s'
      | .inr e => .next (s.except x x.core e) := by
  generalize hr : f { x with core := x.core.charge 0x01 1 } = r
  cases r <;> simp only [pkgWord, h, hp, if_true, hr]

theorem pkgWord_of_inactive {pd : Pd} {s : State} {x : Iss} (f : Iss → State ⊕ Exc) (h : s.issuer = some x)
    (hp : x.core.on pd = false) : pkgWord pd s f = .next (s.did x x.core) := by
  simp [pkgWord, h, hp]

/-! ## What an issuer is -/

/-- The issuing word's core is the core that its agent names. -/
theorem core_of_issuer {s : State} {x : Iss} (h : s.issuer = some x) : s.core? x.ag = some x.core := by
  unfold State.issuer at h
  split at h
  · obtain ⟨c, hc, rfl⟩ := Option.map_eq_some_iff.mp h
    exact hc
  · obtain ⟨c, hc, rfl⟩ := Option.map_eq_some_iff.mp h
    exact hc
  · cases h

theorem troupe_setTroupe_same {s : State} {t : Nat} {x y : Troupe} (h : s.troupe? t = some x) :
    (s.setTroupe t y).troupe? t = some y := by
  unfold State.troupe? at h
  have := (List.getElem?_eq_some_iff.mp h).1
  simp [State.setTroupe, State.troupe?, this]

theorem troupe_setTroupe_ne {s : State} {t u : Nat} {y : Troupe} (h : t ≠ u) :
    (s.setTroupe t y).troupe? u = s.troupe? u := by
  simp [State.setTroupe, State.troupe?, h]

theorem mg_setMg_same {s : State} {m : Nat} {y : Mgmt} (h : m < 2) : (s.setMg m y).mg m = y := by
  simp [State.setMg, State.mg, vget_vset_same, h]

theorem mg_setMg_ne {s : State} {m k : Nat} {y : Mgmt} (h : m ≠ k) : (s.setMg m y).mg k = s.mg k := by
  simp [State.setMg, State.mg, vget_vset_ne, h]

/-- An agent's core, once set, is what was set. -/
theorem core_setCore_same {s : State} {a : Agent} {c k : Core} (h : s.core? a = some k) :
    (s.setCore a c).core? a = some c := by
  cases a with
  | core t r =>
    simp only [State.core?] at h
    obtain ⟨x, hx, hr⟩ := Option.bind_eq_some_iff.mp h
    have hl := (List.getElem?_eq_some_iff.mp hr).1
    simp [State.setCore, State.modTroupe, hx, State.core?, troupe_setTroupe_same hx, hl]
  | mgmt m =>
    simp only [State.core?] at h
    split at h
    · rename_i hm
      simp [State.setCore, State.core?, mg_setMg_same hm, hm]
    · cases h

/-- Setting one agent's core leaves every other agent's core alone. -/
theorem core_setCore_ne {s : State} {a b : Agent} {c : Core} (h : b ≠ a) :
    (s.setCore a c).core? b = s.core? b := by
  cases a with
  | core t r =>
    cases b with
    | core u q =>
      simp only [State.setCore, State.modTroupe, State.core?]
      cases hx : s.troupe? t with
      | none => rfl
      | some x =>
        by_cases htu : t = u
        · subst htu
          have hqr : r ≠ q := fun e => h (by rw [e])
          simp [troupe_setTroupe_same hx, hx, hqr]
        · simp [troupe_setTroupe_ne htu]
    | mgmt m =>
      simp only [State.setCore, State.modTroupe, State.core?]
      cases s.troupe? t <;> rfl
  | mgmt m =>
    cases b with
    | core u q => rfl
    | mgmt k =>
      have hk : m ≠ k := fun e => h (by rw [e])
      simp [State.setCore, State.core?, mg_setMg_ne hk]

/-- `setCore` changes nothing but the troupes and the management cores. -/
theorem setCore_frame (s : State) (a : Agent) (c : Core) :
    s.setCore a c = { s with troupes := (s.setCore a c).troupes, mgmt := (s.setCore a c).mgmt } := by
  cases a with
  | core t r =>
    simp only [State.setCore, State.modTroupe]
    cases s.troupe? t <;> rfl
  | mgmt m => rfl

end Sys2Proof.Machine
end

