-- ==== Sys2Proof/Laws/Ops.lean ====
section
/-!
SUPPORT. What the shared operations can do, said once each: how a word ends, what taking an exception changes, and that
the memories keep their canonical form.
-/

namespace Sys2Proof.Machine

/-- Scheduling an effect appends it to the core's pending effects and changes nothing else. -/
theorem Core.sched_eq (c : Core) (x : Iss) (n : Nat) (act : Act) (fl : Fl) :
    c.sched x n act fl =
      (let p : Pend := ⟨x.now + n, x.now, x.w, c.pc, act, fl, if x.w = 5 then c.rtnOn else none⟩
       { c with pend := c.pend ++ [p] }) := rfl

/-- A raised cause is appended to the core's causes and marks the bundle as failed; nothing else changes. -/
theorem Core.raise_eq (c : Core) (w : Nat) (e : Exc) (dfr : Bool) (done : BitVec 8) (b : Nat) (rtn : Option Nat) :
    ∃ r, c.raise w e dfr done b rtn = { c with failed := true, raised := c.raised ++ [r] } ∧
      r.cause = BitVec.ofNat 8 e.cause ∧ r.sub = BitVec.ofNat 8 e.sub ∧ r.word = some w ∧ r.deferred = dfr ∧ r.done = done ∧
      r.baddr = b ∧ r.aux0 = e.aux0 ∧ r.hnd = e.hnd ∧ r.code = e.code :=
  ⟨_, rfl, rfl, rfl, rfl, rfl, rfl, rfl, rfl, rfl, rfl⟩

/-- On a compute core, taking an exception records the cause in the core and moves on: the troupe acts on it at the end of
its cycle. -/
theorem State.except_core (s : State) (t r w n : Nat) (k c : Core) (e : Exc) :
    s.except ⟨.core t r, w, n, k⟩ c e =
      (s.setCore (.core t r) (c.raise w e false (c.done ||| 2) c.pc (if w = 5 then c.rtnOn else none))).nextWord := rfl

/-! ## The plain memories -/

theorem State.memWf_setCore (s : State) (a : Agent) (c : Core) : (s.setCore a c).memWf = s.memWf :=
  memWf_congr (by simp) (by simp) (by rw [State.setCore_frame])

theorem State.memWf_modCore (s : State) (a : Agent) (f : Core → Core) : (s.modCore a f).memWf = s.memWf :=
  memWf_congr (by simp) (by simp) (by rw [State.modCore_frame])

theorem State.memWf_did (s : State) (x : Iss) (c : Core) : (s.did x c).memWf = s.memWf :=
  memWf_congr (by simp) (by simp) (by rw [State.did_frame])

theorem State.memWf_modBank (s : State) (p : Nat) (f : Bank → Bank) : (s.modBank p f).memWf = s.memWf := rfl

theorem State.memWf_setIp (s : State) (p i : Nat) : (s.setIp p i).memWf = s.memWf := rfl

theorem State.memWf_postCtr (s : State) (h : BitVec 32) (k : CtrKind) (src : CtrSrc) :
    (s.postCtr h k src).memWf = s.memWf := rfl

theorem State.memWf_tell (s : State) (n : HostNote) : (s.tell n).memWf = s.memWf := rfl

theorem State.memWf_acceptNarrow (s : State) (pa : Nat) (bs : List (Option Byte)) (pub : Bool) (die loc : Nat) :
    (s.acceptNarrow pa bs pub die loc).memWf = s.memWf := by
  unfold State.acceptNarrow
  split <;> rfl

theorem State.memWf_iff (s : State) : s.memWf = true ↔ s.gmem.wf = true ∧ s.hmem.wf = true ∧ s.sram.wf = true := by
  rw [State.memWf, Bool.and_eq_true, Bool.and_eq_true, and_assoc]

theorem State.memWf_acceptWide {s : State} (h : s.memWf = true) (pa : Nat) (bs : List (Option Byte)) :
    (s.acceptWide pa bs).memWf = true := by
  unfold State.acceptWide
  split
  · exact h
  · rw [State.memWf_iff] at h ⊢
    exact ⟨Mem.wf_writeO h.1 pa bs, h.2⟩

theorem State.memWf_acceptAtomic {s : State} (h : s.memWf = true) (pa : Nat) (bs : List (Option Byte)) :
    (s.acceptAtomic pa bs).memWf = true := by
  unfold State.acceptAtomic
  split
  · exact h
  · rw [State.memWf_iff] at h ⊢
    exact ⟨Mem.wf_writeO h.1 pa bs, h.2⟩

/-- A property of states that every step of a fold keeps holds at its end. -/
theorem State.foldl_keeps {α : Type} (P : State → Prop) (f : State → α → State) (hf : ∀ s x, P s → P (f s x)) (l : List α)
    {s : State} (h : P s) : P (l.foldl f s) := by
  induction l generalizing s with
  | nil => exact h
  | cons x l ih => exact ih (hf s x h)

theorem State.memWf_acceptUnit {s : State} (h : s.memWf = true) (pa : Nat) (bs : List (Option Byte)) :
    (s.acceptUnit pa bs).memWf = true := by
  unfold State.acceptUnit
  refine State.foldl_keeps (fun s => s.memWf = true) _ (fun s g hs => ?_) _ (State.memWf_acceptWide h pa bs)
  split
  · exact State.memWf_acceptWide hs _ _
  · split
    · exact State.memWf_acceptWide hs _ _
    · exact hs

/-- Writes merged one after another keep the canonical form. -/
theorem wf_settleWide (p : GWrite → Bool) (l kept : List GWrite) {m : Mem} (h : m.wf = true) :
    Mem.wf (settleWide p m kept l).1 = true := by
  induction l generalizing m kept with
  | nil => exact h
  | cons w l ih =>
    unfold settleWide
    split
    · exact ih _ (Mem.wf_writeO h _ _)
    · exact ih _ h

theorem State.memWf_publish {s : State} (h : s.memWf = true) (die loc x : Nat) : (s.publish die loc x).memWf = true := by
  unfold State.publish
  split
  · exact h
  · rw [State.memWf_iff] at h ⊢
    exact ⟨wf_settleWide _ _ _ h.1, h.2⟩

theorem State.memWf_ringTrace {s : State} (h : s.memWf = true) (p : Nat) (r : BitVec 256) :
    (s.ringTrace p r).memWf = true := by
  rw [State.ringTrace]
  split
  · exact h
  · rw [State.memWf_modBank]
    exact State.memWf_acceptWide h _ _

/-- Taking an exception leaves the memories alone. -/
theorem State.memWf_except (s : State) (x : Iss) (c : Core) (e : Exc) : (s.except x c e).memWf = s.memWf := by
  obtain ⟨a, w, n, k⟩ := x
  cases a with
  | core t r => exact State.memWf_setCore s (.core t r) _
  | mgmt m =>
    unfold State.except State.mgmtFault State.enter
    dsimp only
    split
    · exact State.memWf_setCore s (.mgmt m) c
    · split <;> exact State.memWf_setCore s (.mgmt m) c

/-- However a word ends, the memories are as before. -/
theorem State.memWf_finish (s : State) (x : Iss) (r : Res) : (s.finish x r).memWf = s.memWf := by
  cases r with
  | done c => exact State.memWf_did s x c
  | exc e => exact State.memWf_except s x _ e
  | doneExc c e => exact State.memWf_except s x _ e

end Sys2Proof.Machine
end

