-- ==== Sys2Proof/Laws/PerInstr.lean ====
section
/-!
SUPPORT. Family Encoding: a row of the table that is no slot word has no encoding.
-/

namespace Sys2Proof.Laws.Encoding

/-- A row that is no slot word encodes to the word of zeros, which is `nop` (R93). -/
def Statement (i : Instr) : Prop := i.isWord = false → encode i = 0

theorem bundleIssue (a : Agent) : Statement (.bundleIssue a) := fun _ => rfl
theorem idleBundle (a : Agent) : Statement (.idleBundle a) := fun _ => rfl
theorem nop : Statement (.nop) := fun _ => rfl
theorem resultPerforms (w : Party) : Statement (.resultPerforms w) := fun _ => rfl
theorem add (pd : Pd) (d : SReg) (a : SReg) (b : SReg) : Statement (.add pd d a b) := fun h => Bool.noConfusion h
theorem sub (pd : Pd) (d : SReg) (a : SReg) (b : SReg) : Statement (.sub pd d a b) := fun h => Bool.noConfusion h
theorem mul (pd : Pd) (d : SReg) (a : SReg) (b : SReg) : Statement (.mul pd d a b) := fun h => Bool.noConfusion h
theorem mulh (pd : Pd) (d : SReg) (a : SReg) (b : SReg) : Statement (.mulh pd d a b) := fun h => Bool.noConfusion h
theorem mulhu (pd : Pd) (d : SReg) (a : SReg) (b : SReg) : Statement (.mulhu pd d a b) := fun h => Bool.noConfusion h
theorem div (pd : Pd) (d : SReg) (a : SReg) (b : SReg) : Statement (.div pd d a b) := fun h => Bool.noConfusion h
theorem divu (pd : Pd) (d : SReg) (a : SReg) (b : SReg) : Statement (.divu pd d a b) := fun h => Bool.noConfusion h
theorem rem_ (pd : Pd) (d : SReg) (a : SReg) (b : SReg) : Statement (.rem_ pd d a b) := fun h => Bool.noConfusion h
theorem remu (pd : Pd) (d : SReg) (a : SReg) (b : SReg) : Statement (.remu pd d a b) := fun h => Bool.noConfusion h
theorem and_ (pd : Pd) (d : SReg) (a : SReg) (b : SReg) : Statement (.and_ pd d a b) := fun h => Bool.noConfusion h
theorem or_ (pd : Pd) (d : SReg) (a : SReg) (b : SReg) : Statement (.or_ pd d a b) := fun h => Bool.noConfusion h
theorem xor_ (pd : Pd) (d : SReg) (a : SReg) (b : SReg) : Statement (.xor_ pd d a b) := fun h => Bool.noConfusion h
theorem andn (pd : Pd) (d : SReg) (a : SReg) (b : SReg) : Statement (.andn pd d a b) := fun h => Bool.noConfusion h
theorem min_ (pd : Pd) (d : SReg) (a : SReg) (b : SReg) : Statement (.min_ pd d a b) := fun h => Bool.noConfusion h
theorem max_ (pd : Pd) (d : SReg) (a : SReg) (b : SReg) : Statement (.max_ pd d a b) := fun h => Bool.noConfusion h
theorem minu (pd : Pd) (d : SReg) (a : SReg) (b : SReg) : Statement (.minu pd d a b) := fun h => Bool.noConfusion h
theorem maxu (pd : Pd) (d : SReg) (a : SReg) (b : SReg) : Statement (.maxu pd d a b) := fun h => Bool.noConfusion h
theorem shl (pd : Pd) (d : SReg) (a : SReg) (b : SReg) : Statement (.shl pd d a b) := fun h => Bool.noConfusion h
theorem shr (pd : Pd) (d : SReg) (a : SReg) (b : SReg) : Statement (.shr pd d a b) := fun h => Bool.noConfusion h
theorem sar (pd : Pd) (d : SReg) (a : SReg) (b : SReg) : Statement (.sar pd d a b) := fun h => Bool.noConfusion h
theorem rol (pd : Pd) (d : SReg) (a : SReg) (b : SReg) : Statement (.rol pd d a b) := fun h => Bool.noConfusion h
theorem clz (pd : Pd) (d : SReg) (a : SReg) : Statement (.clz pd d a) := fun h => Bool.noConfusion h
theorem ctz (pd : Pd) (d : SReg) (a : SReg) : Statement (.ctz pd d a) := fun h => Bool.noConfusion h
theorem popc (pd : Pd) (d : SReg) (a : SReg) : Statement (.popc pd d a) := fun h => Bool.noConfusion h
theorem sel (pd : Pd) (d : SReg) (a : SReg) (b : SReg) (c : PReg) : Statement (.sel pd d a b c) := fun h => Bool.noConfusion h
theorem cmp (pd : Pd) (cc : Cond) (d : SReg) (a : SReg) (b : SReg) : Statement (.cmp pd cc d a b) := fun h => Bool.noConfusion h
theorem cmpp (pd : Pd) (cc : Cond) (d : PReg) (a : SReg) (b : SReg) : Statement (.cmpp pd cc d a b) := fun h => Bool.noConfusion h
theorem addi (pd : Pd) (d : SReg) (a : SReg) (imm : BitVec 32) : Statement (.addi pd d a imm) := fun h => Bool.noConfusion h
theorem andi (pd : Pd) (d : SReg) (a : SReg) (imm : BitVec 32) : Statement (.andi pd d a imm) := fun h => Bool.noConfusion h
theorem ori (pd : Pd) (d : SReg) (a : SReg) (imm : BitVec 32) : Statement (.ori pd d a imm) := fun h => Bool.noConfusion h
theorem xori (pd : Pd) (d : SReg) (a : SReg) (imm : BitVec 32) : Statement (.xori pd d a imm) := fun h => Bool.noConfusion h
theorem shli (pd : Pd) (d : SReg) (a : SReg) (n : BitVec 6) : Statement (.shli pd d a n) := fun h => Bool.noConfusion h
theorem shri (pd : Pd) (d : SReg) (a : SReg) (n : BitVec 6) : Statement (.shri pd d a n) := fun h => Bool.noConfusion h
theorem sari (pd : Pd) (d : SReg) (a : SReg) (n : BitVec 6) : Statement (.sari pd d a n) := fun h => Bool.noConfusion h
theorem muli (pd : Pd) (d : SReg) (a : SReg) (imm : BitVec 32) : Statement (.muli pd d a imm) := fun h => Bool.noConfusion h
theorem cmpi (pd : Pd) (cc : CondI) (d : SReg) (a : SReg) (imm : BitVec 32) : Statement (.cmpi pd cc d a imm) := fun h => Bool.noConfusion h
theorem cmppi (pd : Pd) (cc : CondI) (d : PReg) (a : SReg) (imm : BitVec 32) : Statement (.cmppi pd cc d a imm) := fun h => Bool.noConfusion h
theorem li (pd : Pd) (d : SReg) (imm : BitVec 32) : Statement (.li pd d imm) := fun h => Bool.noConfusion h
theorem lui (pd : Pd) (d : SReg) (a : SReg) (imm : BitVec 32) : Statement (.lui pd d a imm) := fun h => Bool.noConfusion h
theorem fmt (pd : Pd) (f : FReg) (a : SReg) (imm : BitVec 32) : Statement (.fmt pd f a imm) := fun h => Bool.noConfusion h
theorem br (pd : Pd) (disp : BitVec 32) : Statement (.br pd disp) := fun h => Bool.noConfusion h
theorem jr (pd : Pd) (a : SReg) : Statement (.jr pd a) := fun h => Bool.noConfusion h
theorem call (pd : Pd) (d : SReg) (disp : BitVec 32) : Statement (.call pd d disp) := fun h => Bool.noConfusion h
theorem callr (pd : Pd) (d : SReg) (a : SReg) : Statement (.callr pd d a) := fun h => Bool.noConfusion h
theorem ret (pd : Pd) (a : SReg) : Statement (.ret pd a) := fun h => Bool.noConfusion h
theorem loop (pd : Pd) (lvl : Lvl) (disp : BitVec 32) : Statement (.loop pd lvl disp) := fun h => Bool.noConfusion h
theorem ldb (pd : Pd) (d : SReg) (a : SReg) (off : BitVec 24) (sz : Size) (sx : Bool) (rv : Bool) : Statement (.ldb pd d a off sz sx rv) := fun h => Bool.noConfusion h
theorem stb (pd : Pd) (d : SReg) (a : SReg) (off : BitVec 24) (sz : Size) (rv : Bool) : Statement (.stb pd d a off sz rv) := fun h => Bool.noConfusion h
theorem ldt (pd : Pd) (d : SReg) (a : SReg) (off : BitVec 24) (sz : Size) (sx : Bool) : Statement (.ldt pd d a off sz sx) := fun h => Bool.noConfusion h
theorem stt (pd : Pd) (d : SReg) (a : SReg) (off : BitVec 24) (sz : Size) : Statement (.stt pd d a off sz) := fun h => Bool.noConfusion h
theorem ldg (pd : Pd) (d : SReg) (a : SReg) (off : BitVec 24) (sz : Size) (sx : Bool) (ac : ACls) : Statement (.ldg pd d a off sz sx ac) := fun h => Bool.noConfusion h
theorem stg (pd : Pd) (d : SReg) (a : SReg) (off : BitVec 24) (sz : Size) (ac : ACls) : Statement (.stg pd d a off sz ac) := fun h => Bool.noConfusion h
theorem cadd (pd : Pd) (a : SReg) (b : SReg) : Statement (.cadd pd a b) := fun h => Bool.noConfusion h
theorem cwait (pd : Pd) (d : SReg) (a : SReg) (b : SReg) (dl : BitVec 16) : Statement (.cwait pd d a b dl) := fun h => Bool.noConfusion h
theorem cwaitArmed (pd : Pd) (d : SReg) (a : SReg) (dl : BitVec 16) : Statement (.cwaitArmed pd d a dl) := fun h => Bool.noConfusion h
theorem carm (pd : Pd) (a : SReg) (b : SReg) : Statement (.carm pd a b) := fun h => Bool.noConfusion h
theorem cread (pd : Pd) (d : SReg) (a : SReg) : Statement (.cread pd d a) := fun h => Bool.noConfusion h
theorem hgive (pd : Pd) (a : SReg) (b : SReg) : Statement (.hgive pd a b) := fun h => Bool.noConfusion h
theorem htake (pd : Pd) (a : SReg) : Statement (.htake pd a) := fun h => Bool.noConfusion h
theorem hquery (pd : Pd) (d : SReg) (a : SReg) : Statement (.hquery pd d a) := fun h => Bool.noConfusion h
theorem phase (pd : Pd) (scope : Scope) : Statement (.phase pd scope) := fun h => Bool.noConfusion h
theorem realign (pd : Pd) : Statement (.realign pd) := fun h => Bool.noConfusion h
theorem locq (pd : Pd) (d : SReg) (a : SReg) : Statement (.locq pd d a) := fun h => Bool.noConfusion h
theorem csrr (pd : Pd) (d : SReg) (csr : BitVec 12) : Statement (.csrr pd d csr) := fun h => Bool.noConfusion h
theorem csrw (pd : Pd) (csr : BitVec 12) (a : SReg) : Statement (.csrw pd csr a) := fun h => Bool.noConfusion h
theorem trap (pd : Pd) (code : BitVec 16) (a : SReg) : Statement (.trap pd code a) := fun h => Bool.noConfusion h
theorem syscRetire (pd : Pd) (a : SReg) : Statement (.syscRetire pd a) := fun h => Bool.noConfusion h
theorem syscCall (pd : Pd) (d : SReg) (code : BitVec 16) (a : SReg) : Statement (.syscCall pd d code a) := fun h => Bool.noConfusion h
theorem sprd (pd : Pd) (d : SReg) (code : BitVec 16) : Statement (.sprd pd d code) := fun h => Bool.noConfusion h
theorem spwr (pd : Pd) (code : BitVec 16) (a : SReg) : Statement (.spwr pd code a) := fun h => Bool.noConfusion h
theorem eret (pd : Pd) : Statement (.eret pd) := fun h => Bool.noConfusion h
theorem halt (pd : Pd) : Statement (.halt pd) := fun h => Bool.noConfusion h
theorem haltWake (m : Nat) : Statement (.haltWake m) := fun _ => rfl
theorem vadd (pd : Pd) (d : VRegN) (a : VRegN) (b : VRegN) : Statement (.vadd pd d a b) := fun h => Bool.noConfusion h
theorem vsub (pd : Pd) (d : VRegN) (a : VRegN) (b : VRegN) : Statement (.vsub pd d a b) := fun h => Bool.noConfusion h
theorem vmul (pd : Pd) (d : VRegN) (a : VRegN) (b : VRegN) : Statement (.vmul pd d a b) := fun h => Bool.noConfusion h
theorem vfma (pd : Pd) (d : VRegN) (a : VRegN) (b : VRegN) (c : VRegN) : Statement (.vfma pd d a b c) := fun h => Bool.noConfusion h
theorem vfnma (pd : Pd) (d : VRegN) (a : VRegN) (b : VRegN) (c : VRegN) : Statement (.vfnma pd d a b c) := fun h => Bool.noConfusion h
theorem vmin (pd : Pd) (d : VRegN) (a : VRegN) (b : VRegN) : Statement (.vmin pd d a b) := fun h => Bool.noConfusion h
theorem vmax (pd : Pd) (d : VRegN) (a : VRegN) (b : VRegN) : Statement (.vmax pd d a b) := fun h => Bool.noConfusion h
theorem vabs (pd : Pd) (d : VRegN) (a : VRegN) : Statement (.vabs pd d a) := fun h => Bool.noConfusion h
theorem vneg (pd : Pd) (d : VRegN) (a : VRegN) : Statement (.vneg pd d a) := fun h => Bool.noConfusion h
theorem vcmp (pd : Pd) (cc : FCond) (d : PReg) (a : VRegN) (b : VRegN) : Statement (.vcmp pd cc d a b) := fun h => Bool.noConfusion h
theorem fclass (pd : Pd) (d : VRegN) (a : VRegN) : Statement (.fclass pd d a) := fun h => Bool.noConfusion h
theorem cvt (pd : Pd) (kind : CvtKind) (mode : RMode) (d : VRegN) (a : VRegN) (f : FReg) : Statement (.cvt pd kind mode d a f) := fun h => Bool.noConfusion h
theorem viadd (pd : Pd) (d : VRegN) (a : VRegN) (b : VRegN) : Statement (.viadd pd d a b) := fun h => Bool.noConfusion h
theorem visub (pd : Pd) (d : VRegN) (a : VRegN) (b : VRegN) : Statement (.visub pd d a b) := fun h => Bool.noConfusion h
theorem vimul (pd : Pd) (d : VRegN) (a : VRegN) (b : VRegN) : Statement (.vimul pd d a b) := fun h => Bool.noConfusion h
theorem vimin (pd : Pd) (d : VRegN) (a : VRegN) (b : VRegN) : Statement (.vimin pd d a b) := fun h => Bool.noConfusion h
theorem vimax (pd : Pd) (d : VRegN) (a : VRegN) (b : VRegN) : Statement (.vimax pd d a b) := fun h => Bool.noConfusion h
theorem viminu (pd : Pd) (d : VRegN) (a : VRegN) (b : VRegN) : Statement (.viminu pd d a b) := fun h => Bool.noConfusion h
theorem vimaxu (pd : Pd) (d : VRegN) (a : VRegN) (b : VRegN) : Statement (.vimaxu pd d a b) := fun h => Bool.noConfusion h
theorem vand (pd : Pd) (d : VRegN) (a : VRegN) (b : VRegN) : Statement (.vand pd d a b) := fun h => Bool.noConfusion h
theorem vor (pd : Pd) (d : VRegN) (a : VRegN) (b : VRegN) : Statement (.vor pd d a b) := fun h => Bool.noConfusion h
theorem vxor (pd : Pd) (d : VRegN) (a : VRegN) (b : VRegN) : Statement (.vxor pd d a b) := fun h => Bool.noConfusion h
theorem vshl (pd : Pd) (d : VRegN) (a : VRegN) (b : VRegN) : Statement (.vshl pd d a b) := fun h => Bool.noConfusion h
theorem vshr (pd : Pd) (d : VRegN) (a : VRegN) (b : VRegN) : Statement (.vshr pd d a b) := fun h => Bool.noConfusion h
theorem vsar (pd : Pd) (d : VRegN) (a : VRegN) (b : VRegN) : Statement (.vsar pd d a b) := fun h => Bool.noConfusion h
theorem vicmp (pd : Pd) (cc : Cond) (d : PReg) (a : VRegN) (b : VRegN) : Statement (.vicmp pd cc d a b) := fun h => Bool.noConfusion h
theorem vsel (pd : Pd) (d : VRegN) (a : VRegN) (b : VRegN) (ps : PReg) : Statement (.vsel pd d a b ps) := fun h => Bool.noConfusion h
theorem vexp2 (pd : Pd) (d : VRegN) (a : VRegN) : Statement (.vexp2 pd d a) := fun h => Bool.noConfusion h
theorem vlog2 (pd : Pd) (d : VRegN) (a : VRegN) : Statement (.vlog2 pd d a) := fun h => Bool.noConfusion h
theorem vrcp (pd : Pd) (d : VRegN) (a : VRegN) : Statement (.vrcp pd d a) := fun h => Bool.noConfusion h
theorem vrsqrt (pd : Pd) (d : VRegN) (a : VRegN) : Statement (.vrsqrt pd d a) := fun h => Bool.noConfusion h
theorem vsqrt (pd : Pd) (d : VRegN) (a : VRegN) : Statement (.vsqrt pd d a) := fun h => Bool.noConfusion h
theorem vsin (pd : Pd) (d : VRegN) (a : VRegN) : Statement (.vsin pd d a) := fun h => Bool.noConfusion h
theorem vcos (pd : Pd) (d : VRegN) (a : VRegN) : Statement (.vcos pd d a) := fun h => Bool.noConfusion h
theorem vtanh (pd : Pd) (d : VRegN) (a : VRegN) : Statement (.vtanh pd d a) := fun h => Bool.noConfusion h
theorem vsigm (pd : Pd) (d : VRegN) (a : VRegN) : Statement (.vsigm pd d a) := fun h => Bool.noConfusion h
theorem vgelu (pd : Pd) (d : VRegN) (a : VRegN) : Statement (.vgelu pd d a) := fun h => Bool.noConfusion h
theorem verf (pd : Pd) (d : VRegN) (a : VRegN) : Statement (.verf pd d a) := fun h => Bool.noConfusion h
theorem rotr (pd : Pd) (d : VRegN) (a : VRegN) (s : SReg) (imm : BitVec 16) : Statement (.rotr pd d a s imm) := fun h => Bool.noConfusion h
theorem rotc (pd : Pd) (d : VRegN) (a : VRegN) (s : SReg) (imm : BitVec 16) : Statement (.rotc pd d a s imm) := fun h => Bool.noConfusion h
theorem bcr (pd : Pd) (d : VRegN) (a : VRegN) (s : SReg) (imm : BitVec 16) : Statement (.bcr pd d a s imm) := fun h => Bool.noConfusion h
theorem bcc (pd : Pd) (d : VRegN) (a : VRegN) (s : SReg) (imm : BitVec 16) : Statement (.bcc pd d a s imm) := fun h => Bool.noConfusion h
theorem redr (pd : Pd) (op : RedOp) (d : VRegN) (a : VRegN) : Statement (.redr pd op d a) := fun h => Bool.noConfusion h
theorem redc (pd : Pd) (op : RedOp) (d : VRegN) (a : VRegN) : Statement (.redc pd op d a) := fun h => Bool.noConfusion h
theorem vsplat (pd : Pd) (d : VRegN) (s : SReg) (imm : BitVec 16) : Statement (.vsplat pd d s imm) := fun h => Bool.noConfusion h
theorem vsplatQ (pd : Pd) (d : VRegN) (q : QReg) : Statement (.vsplatQ pd d q) := fun h => Bool.noConfusion h
theorem vext (pd : Pd) (sx : Bool) (d : VRegN) (a : VRegN) (s : SReg) (imm : BitVec 16) : Statement (.vext pd sx d a s imm) := fun h => Bool.noConfusion h
theorem vextQ (pd : Pd) (d : VRegN) (q : QReg) : Statement (.vextQ pd d q) := fun h => Bool.noConfusion h
theorem vins (pd : Pd) (d : VRegN) (a : VRegN) (s : SReg) (idx : BitVec 10) : Statement (.vins pd d a s idx) := fun h => Bool.noConfusion h
theorem pcnt (pd : Pd) (d : PReg) (a : PReg) (s : SReg) (imm : BitVec 16) : Statement (.pcnt pd d a s imm) := fun h => Bool.noConfusion h
theorem ppop (pd : Pd) (d : VRegN) (a : PReg) : Statement (.ppop pd d a) := fun h => Bool.noConfusion h
theorem pand (pd : Pd) (d : PReg) (a : PReg) (b : PReg) : Statement (.pand pd d a b) := fun h => Bool.noConfusion h
theorem por (pd : Pd) (d : PReg) (a : PReg) (b : PReg) : Statement (.por pd d a b) := fun h => Bool.noConfusion h
theorem pxor (pd : Pd) (d : PReg) (a : PReg) (b : PReg) : Statement (.pxor pd d a b) := fun h => Bool.noConfusion h
theorem pandn (pd : Pd) (d : PReg) (a : PReg) (b : PReg) : Statement (.pandn pd d a b) := fun h => Bool.noConfusion h
theorem pnot (pd : Pd) (d : PReg) (a : PReg) : Statement (.pnot pd d a) := fun h => Bool.noConfusion h
theorem vld (pd : Pd) (d : VRegN) (net : Bool) (row : SReg) (f : FReg) (s : SReg) : Statement (.vld pd d net row f s) := fun h => Bool.noConfusion h
theorem vst (pd : Pd) (d : VRegN) (row : SReg) (f : FReg) (s : SReg) : Statement (.vst pd d row f s) := fun h => Bool.noConfusion h
theorem vldt (pd : Pd) (d : VRegN) (s : SReg) (col : Bool) : Statement (.vldt pd d s col) := fun h => Bool.noConfusion h
theorem vstt (pd : Pd) (d : VRegN) (s : SReg) (col : Bool) : Statement (.vstt pd d s col) := fun h => Bool.noConfusion h
theorem vldg (pd : Pd) (d : VRegN) (f : FReg) (ac : ACls) (s : SReg) : Statement (.vldg pd d f ac s) := fun h => Bool.noConfusion h
theorem vldgFf (pd : Pd) (d : VRegN) (cnt : SReg) (f : FReg) (ac : ACls) (s : SReg) : Statement (.vldgFf pd d cnt f ac s) := fun h => Bool.noConfusion h
theorem vstg (pd : Pd) (d : VRegN) (f : FReg) (ac : ACls) (s : SReg) : Statement (.vstg pd d f ac s) := fun h => Bool.noConfusion h
theorem solve (pd : Pd) (q : Bool) (d : PReg) (a : VRegN) (cnt : SReg) (slot : BitVec 3) : Statement (.solve pd q d a cnt slot) := fun h => Bool.noConfusion h
theorem sort (pd : Pd) (kt : KeyT) (asc : Bool) (d : VRegN) (a : VRegN) (cnt : SReg) (qd : Bool) (qn : Bool) : Statement (.sort pd kt asc d a cnt qd qn) := fun h => Bool.noConfusion h
theorem topk (pd : Pd) (kt : KeyT) (asc : Bool) (d : VRegN) (a : VRegN) (cnt : SReg) (qd : Bool) (qn : Bool) (k : BitVec 10) : Statement (.topk pd kt asc d a cnt qd qn k) := fun h => Bool.noConfusion h
theorem cntoff (pd : Pd) (d : VRegN) (a : VRegN) (cnt : SReg) (qd : Bool) (qn : Bool) (k : BitVec 10) : Statement (.cntoff pd d a cnt qd qn k) := fun h => Bool.noConfusion h
theorem pfx (pd : Pd) (kt : KeyT) (exc : Bool) (d : VRegN) (a : VRegN) (cnt : SReg) (qd : Bool) (qn : Bool) : Statement (.pfx pd kt exc d a cnt qd qn) := fun h => Bool.noConfusion h
theorem comp (pd : Pd) (kt : KeyT) (d : VRegN) (a : VRegN) (cnt : SReg) (qd : Bool) (qn : Bool) : Statement (.comp pd kt d a cnt qd qn) := fun h => Bool.noConfusion h
theorem radd (pd : Pd) (d : VRegN) (a : VRegN) (b : VRegN) : Statement (.radd pd d a b) := fun h => Bool.noConfusion h
theorem rmul (pd : Pd) (d : VRegN) (a : VRegN) (b : VRegN) : Statement (.rmul pd d a b) := fun h => Bool.noConfusion h
theorem rnar (pd : Pd) (d : VRegN) (a : VRegN) : Statement (.rnar pd d a) := fun h => Bool.noConfusion h
theorem rshr (pd : Pd) (d : VRegN) (a : VRegN) (n : BitVec 5) : Statement (.rshr pd d a n) := fun h => Bool.noConfusion h
theorem rleak (pd : Pd) (d : VRegN) (a : VRegN) (n : BitVec 5) (f : FReg) : Statement (.rleak pd d a n f) := fun h => Bool.noConfusion h
theorem rmark (pd : Pd) (s : SReg) : Statement (.rmark pd s) := fun h => Bool.noConfusion h
theorem uadd (pd : Pd) (d : VRegN) (a : VRegN) (b : VRegN) : Statement (.uadd pd d a b) := fun h => Bool.noConfusion h
theorem umul (pd : Pd) (d : VRegN) (a : VRegN) (b : VRegN) : Statement (.umul pd d a b) := fun h => Bool.noConfusion h
theorem unar (pd : Pd) (d : VRegN) (a : VRegN) : Statement (.unar pd d a) := fun h => Bool.noConfusion h
theorem ushr (pd : Pd) (d : VRegN) (a : VRegN) (n : BitVec 5) : Statement (.ushr pd d a n) := fun h => Bool.noConfusion h
theorem uleak (pd : Pd) (d : VRegN) (a : VRegN) (n : BitVec 5) (f : FReg) : Statement (.uleak pd d a n f) := fun h => Bool.noConfusion h
theorem ucheck (pd : Pd) (s : SReg) : Statement (.ucheck pd s) := fun h => Bool.noConfusion h
theorem mldw (pd : Pd) (wb : WReg) (a : SReg) (f : FReg) (rows : BitVec 7) : Statement (.mldw pd wb a f rows) := fun h => Bool.noConfusion h
theorem mldwt (pd : Pd) (wb : WReg) (a : SReg) (f : FReg) (rows : BitVec 7) (col : Bool) : Statement (.mldwt pd wb a f rows col) := fun h => Bool.noConfusion h
theorem mzero (pd : Pd) (acc : AReg) : Statement (.mzero pd acc) := fun h => Bool.noConfusion h
theorem mzeroInt (pd : Pd) (acc : AReg) (f : FReg) : Statement (.mzeroInt pd acc f) := fun h => Bool.noConfusion h
theorem macc (pd : Pd) (acc : AReg) (wb : WReg) (a : SReg) (f : FReg) (rows : BitVec 7) (xa : XReg) (xb : XReg) (sc : Bool) (sp : Bool) : Statement (.macc pd acc wb a f rows xa xb sc sp) := fun h => Bool.noConfusion h
theorem maccp (pd : Pd) (acc : AReg) (wb : WReg) (a : SReg) (f : FReg) (rows : BitVec 7) (xa : XReg) (xb : XReg) (sc : Bool) : Statement (.maccp pd acc wb a f rows xa xb sc) := fun h => Bool.noConfusion h
theorem mscale (pd : Pd) (acc : AReg) (a : SReg) : Statement (.mscale pd acc a) := fun h => Bool.noConfusion h
theorem mswap (pd : Pd) : Statement (.mswap pd) := fun h => Bool.noConfusion h
theorem mcomp (pd : Pd) (wb : WReg) (a : SReg) (f : FReg) : Statement (.mcomp pd wb a f) := fun h => Bool.noConfusion h
theorem mdrain (pd : Pd) (acc : AReg) (a : SReg) (f : FReg) (rows : BitVec 7) (res : Bool) (r : SReg) (drp : Bool) (ks : KReg) (ko : KReg) : Statement (.mdrain pd acc a f rows res r drp ks ko) := fun h => Bool.noConfusion h
theorem mdrainRev (pd : Pd) (acc : AReg) (a : SReg) (f : FReg) (rows : BitVec 7) (r : SReg) : Statement (.mdrainRev pd acc a f rows r) := fun h => Bool.noConfusion h
theorem mdrainUndo (pd : Pd) (acc : AReg) (a : SReg) (f : FReg) (rows : BitVec 7) (r : SReg) : Statement (.mdrainUndo pd acc a f rows r) := fun h => Bool.noConfusion h
theorem msave (pd : Pd) (acc : AReg) (a : SReg) (rows : BitVec 7) : Statement (.msave pd acc a rows) := fun h => Bool.noConfusion h
theorem mrstr (pd : Pd) (acc : AReg) (a : SReg) (rows : BitVec 7) : Statement (.mrstr pd acc a rows) := fun h => Bool.noConfusion h
theorem mcall (pd : Pd) (entry : BitVec 12) (k : KReg) (a : SReg) : Statement (.mcall pd entry k a) := fun h => Bool.noConfusion h
theorem mset (pd : Pd) (k : KReg) (a : SReg) : Statement (.mset pd k a) := fun h => Bool.noConfusion h
theorem mgemv (pd : Pd) (k : KReg) (a : SReg) (b : SReg) (f : FReg) : Statement (.mgemv pd k a b f) := fun h => Bool.noConfusion h
theorem mend (pd : Pd) : Statement (.mend pd) := fun h => Bool.noConfusion h
theorem mgemvBlockLanding (t : Nat) (r : Nat) (id : Nat) : Statement (.mgemvBlockLanding t r id) := fun _ => rfl
theorem xcpy (pd : Pd) (d : SReg) (a : SReg) (n : SReg) (pat : BitVec 9) (dly : BitVec 12) : Statement (.xcpy pd d a n pat dly) := fun h => Bool.noConfusion h
theorem xfill (pd : Pd) (d : SReg) (a : SReg) (n : SReg) (h : Bool) (ac : ACls) (dly : BitVec 12) : Statement (.xfill pd d a n h ac dly) := fun h => Bool.noConfusion h
theorem xstore (pd : Pd) (d : SReg) (a : SReg) (n : SReg) (h : Bool) (ac : ACls) (dly : BitVec 12) : Statement (.xstore pd d a n h ac dly) := fun h => Bool.noConfusion h
theorem xtld (pd : Pd) (d : SReg) (a : SReg) (n : SReg) (f : FReg) (ac : ACls) (dly : BitVec 12) : Statement (.xtld pd d a n f ac dly) := fun h => Bool.noConfusion h
theorem xtst (pd : Pd) (d : SReg) (a : SReg) (n : SReg) (f : FReg) (ac : ACls) (dly : BitVec 12) : Statement (.xtst pd d a n f ac dly) := fun h => Bool.noConfusion h
theorem xrsp (pd : Pd) (a : SReg) (n : SReg) (ac : ACls) (dly : BitVec 12) : Statement (.xrsp pd a n ac dly) := fun h => Bool.noConfusion h
theorem xrfl (pd : Pd) (a : SReg) (n : SReg) (ac : ACls) (dly : BitVec 12) : Statement (.xrfl pd a n ac dly) := fun h => Bool.noConfusion h
theorem xmig (pd : Pd) (a : SReg) (n : SReg) (kind : FReg) (dly : BitVec 12) : Statement (.xmig pd a n kind dly) := fun h => Bool.noConfusion h
theorem xscl (pd : Pd) (x : XReg) (a : SReg) (dly : BitVec 12) : Statement (.xscl pd x a dly) := fun h => Bool.noConfusion h
theorem xwin (pd : Pd) (d : SReg) (a : SReg) (map : SReg) (cm : Bool) (f : FReg) (ac : ACls) (dly : BitVec 12) : Statement (.xwin pd d a map cm f ac dly) := fun h => Bool.noConfusion h
theorem xrows (pd : Pd) (d : SReg) (a : SReg) (map : SReg) (ac : ACls) (dly : BitVec 12) : Statement (.xrows pd d a map ac dly) := fun h => Bool.noConfusion h
theorem xrowsSc (pd : Pd) (d : SReg) (a : SReg) (map : SReg) (ac : ACls) (dly : BitVec 12) : Statement (.xrowsSc pd d a map ac dly) := fun h => Bool.noConfusion h
theorem xmcast (pd : Pd) (d : SReg) (a : SReg) (n : SReg) (ctr : SReg) (dly : BitVec 12) : Statement (.xmcast pd d a n ctr dly) := fun h => Bool.noConfusion h
theorem xsend (pd : Pd) (d : SReg) (a : SReg) (n : SReg) (ctr : SReg) (ac : ACls) (dly : BitVec 12) : Statement (.xsend pd d a n ctr ac dly) := fun h => Bool.noConfusion h
theorem xsendMsg (pd : Pd) (a : SReg) (rcv : SReg) (ch : BitVec 2) (dly : BitVec 12) : Statement (.xsendMsg pd a rcv ch dly) := fun h => Bool.noConfusion h
theorem xget (pd : Pd) (d : SReg) (a : SReg) (n : SReg) (ctr : SReg) (ac : ACls) (dly : BitVec 12) : Statement (.xget pd d a n ctr ac dly) := fun h => Bool.noConfusion h
theorem xrts (pd : Pd) (a : SReg) (n : SReg) (ctr : SReg) (dly : BitVec 12) : Statement (.xrts pd a n ctr dly) := fun h => Bool.noConfusion h
theorem xbat (pd : Pd) (aop : AtomOp) (a : SReg) (n : SReg) (ctr : SReg) (ac : ACls) (dly : BitVec 12) : Statement (.xbat pd aop a n ctr ac dly) := fun h => Bool.noConfusion h
theorem xenq (pd : Pd) (a : SReg) (q : SReg) (ctr : SReg) (ac : ACls) (dly : BitVec 12) : Statement (.xenq pd a q ctr ac dly) := fun h => Bool.noConfusion h
theorem cdrive (pd : Pd) (a : SReg) : Statement (.cdrive pd a) := fun h => Bool.noConfusion h
theorem ccatch (pd : Pd) (a : SReg) (pos : BitVec 3) : Statement (.ccatch pd a pos) := fun h => Bool.noConfusion h
theorem copyStart (a : Agent) (id : Nat) : Statement (.copyStart a id) := fun _ => rfl
theorem copyPieceArrival (a : Agent) (id : Nat) (piece : Nat) (res : PieceRes) : Statement (.copyPieceArrival a id piece res) := fun _ => rfl
theorem storeBufferAccept (a : Agent) (id : Nat) (piece : Nat) (res : PieceRes) : Statement (.storeBufferAccept a id piece res) := fun _ => rfl
theorem copyDeferredFailure (a : Agent) (id : Nat) : Statement (.copyDeferredFailure a id) := fun _ => rfl
theorem arrivalReceived (id : Nat) : Statement (.arrivalReceived id) := fun _ => rfl
theorem stolenBankCycle (t : Nat) : Statement (.stolenBankCycle t) := fun _ => rfl
theorem counterOperation (id : Nat) : Statement (.counterOperation id) := fun _ => rfl
theorem counterRefusal (id : Nat) : Statement (.counterRefusal id) := fun _ => rfl
theorem counterReport (a : Agent) : Statement (.counterReport a) := fun _ => rfl
theorem cwaitDeadlineExpiry (a : Agent) : Statement (.cwaitDeadlineExpiry a) := fun _ => rfl
theorem routeSwap (id : Nat) : Statement (.routeSwap id) := fun _ => rfl
theorem batchedAtomicExecute (id : Nat) : Statement (.batchedAtomicExecute id) := fun _ => rfl
theorem messageDelivery (id : Nat) : Statement (.messageDelivery id) := fun _ => rfl
theorem loadDataArrival (a : Agent) (id : Nat) : Statement (.loadDataArrival a id) := fun _ => rfl
theorem walkComplete (a : Agent) (id : Nat) (cached : Bool) : Statement (.walkComplete a id cached) := fun _ => rfl
theorem deferredFault (a : Agent) : Statement (.deferredFault a) := fun _ => rfl
theorem phaseComplete (a : Agent) : Statement (.phaseComplete a) := fun _ => rfl
theorem storePathDrain (a : Agent) : Statement (.storePathDrain a) := fun _ => rfl
theorem holdEnd (t : Nat) : Statement (.holdEnd t) := fun _ => rfl
theorem holdLimitFault (t : Nat) : Statement (.holdLimitFault t) := fun _ => rfl
theorem safePointDistanceFault (t : Nat) : Statement (.safePointDistanceFault t) := fun _ => rfl
theorem frameTick : Statement (.frameTick) := fun _ => rfl
theorem realignRelabel (t : Nat) : Statement (.realignRelabel t) := fun _ => rfl
theorem preemptionTaken (t : Nat) : Statement (.preemptionTaken t) := fun _ => rfl
theorem savePhaseEnd (t : Nat) : Statement (.savePhaseEnd t) := fun _ => rfl
theorem restorePhaseEnd (t : Nat) : Statement (.restorePhaseEnd t) := fun _ => rfl
theorem routineEnd (t : Nat) (r : Nat) : Statement (.routineEnd t r) := fun _ => rfl
theorem taskRetire (t : Nat) : Statement (.taskRetire t) := fun _ => rfl
theorem faultRecordWrite (part : Nat) : Statement (.faultRecordWrite part) := fun _ => rfl
theorem interruptTaken (m : Nat) : Statement (.interruptTaken m) := fun _ => rfl
theorem resume (t : Nat) : Statement (.resume t) := fun _ => rfl
theorem retire (t : Nat) (status : BitVec 16) : Statement (.retire t status) := fun _ => rfl
theorem requestPreemption (t : Nat) (cause : Fin 5) : Statement (.requestPreemption t cause) := fun _ => rfl
theorem withdrawRequest (t : Nat) (hyp : Bool) : Statement (.withdrawRequest t hyp) := fun _ => rfl
theorem hvPartWrite (m : Nat) (v : BitVec 64) : Statement (.hvPartWrite m v) := fun _ => rfl
theorem systemRegisterWrite (m : Nat) (code : BitVec 16) (v : BitVec 64) (lvl : BitVec 2) : Statement (.systemRegisterWrite m code v lvl) := fun _ => rfl
theorem keeperCharge (vf : Nat) (c : Nat) : Statement (.keeperCharge vf c) := fun _ => rfl
theorem settlement : Statement (.settlement) := fun _ => rfl
theorem enQuotaWrite (v : BitVec 64) : Statement (.enQuotaWrite v) := fun _ => rfl
theorem enCtlWrite (v : BitVec 64) : Statement (.enCtlWrite v) := fun _ => rfl
theorem distributorRound : Statement (.distributorRound) := fun _ => rfl
theorem troupeStart (t : Nat) : Statement (.troupeStart t) := fun _ => rfl
theorem launchWaitExpired (vf : Nat) (q : Nat) : Statement (.launchWaitExpired vf q) := fun _ => rfl
theorem queueDoorbell (vf : Nat) (q : Nat) (t : BitVec 32) : Statement (.queueDoorbell vf q t) := fun _ => rfl
theorem ctAllocate (m : Nat) (v : BitVec 64) : Statement (.ctAllocate m v) := fun _ => rfl
theorem ctFree (m : Nat) (v : BitVec 64) : Statement (.ctFree m v) := fun _ => rfl
theorem topologyCommand : Statement (.topologyCommand) := fun _ => rfl
theorem topologyGo (held : List (List Bool)) (ends : List FarEnd) : Statement (.topologyGo held ends) := fun _ => rfl
theorem topologyGoExpired : Statement (.topologyGoExpired) := fun _ => rfl
theorem create (addr : BitVec 52) : Statement (.create addr) := fun _ => rfl
theorem resize (addr : BitVec 52) : Statement (.resize addr) := fun _ => rfl
theorem remove (addr : BitVec 52) : Statement (.remove addr) := fun _ => rfl
theorem destroy (addr : BitVec 52) (force : Bool) : Statement (.destroy addr force) := fun _ => rfl
theorem mode_ (addr : BitVec 52) (force : Bool) : Statement (.mode_ addr force) := fun _ => rfl
theorem partitionChangeApplied : Statement (.partitionChangeApplied) := fun _ => rfl
theorem ptResRead (m : Nat) (d : BitVec 6) : Statement (.ptResRead m d) := fun _ => rfl
theorem invalidateRange (m : Nat) (asid : BitVec 14) (npg : BitVec 32) (lvl : BitVec 2) : Statement (.invalidateRange m asid npg lvl) := fun _ => rfl
theorem invalidateAsid (m : Nat) (asid : BitVec 14) (lvl : BitVec 2) : Statement (.invalidateAsid m asid lvl) := fun _ => rfl
theorem invalidatePartition (m : Nat) : Statement (.invalidatePartition m) := fun _ => rfl
theorem invalidationComplete (part : Nat) : Statement (.invalidationComplete part) := fun _ => rfl
theorem migrationClaim (part : Nat) : Statement (.migrationClaim part) := fun _ => rfl
theorem migrationCopy (id : Nat) : Statement (.migrationCopy id) := fun _ => rfl
theorem migrationSwitch (id : Nat) : Statement (.migrationSwitch id) := fun _ => rfl
theorem migrationEnd (id : Nat) : Statement (.migrationEnd id) := fun _ => rfl
theorem migrationHint : Statement (.migrationHint) := fun _ => rfl
theorem migrationTakeover : Statement (.migrationTakeover) := fun _ => rfl
theorem writeMessage (m : Msg) (via : Option Nat) : Statement (.writeMessage m via) := fun _ => rfl
theorem readRequest (m : Msg) (via : Option Nat) : Statement (.readRequest m via) := fun _ => rfl
theorem readResponse (m : Msg) (via : Option Nat) : Statement (.readResponse m via) := fun _ => rfl
theorem fenceMarker (m : Msg) (via : Option Nat) : Statement (.fenceMarker m via) := fun _ => rfl
theorem markerAcknowledgement (m : Msg) (via : Option Nat) : Statement (.markerAcknowledgement m via) := fun _ => rfl
theorem acknowledgement (m : Msg) (via : Option Nat) : Statement (.acknowledgement m via) := fun _ => rfl
theorem refusal (m : Msg) (via : Option Nat) : Statement (.refusal m via) := fun _ => rfl
theorem planeDown (m : Msg) (via : Option Nat) : Statement (.planeDown m via) := fun _ => rfl
theorem resendTimeout (id : Nat) : Statement (.resendTimeout id) := fun _ => rfl
theorem ackTimeout (id : Nat) : Statement (.ackTimeout id) := fun _ => rfl
theorem linkDown (edge : Nat) (plane : BitVec 2) : Statement (.linkDown edge plane) := fun _ => rfl
theorem quiesceDrainDone : Statement (.quiesceDrainDone) := fun _ => rfl
theorem quiesceTimeout : Statement (.quiesceTimeout) := fun _ => rfl
theorem kill (plane : BitVec 2) : Statement (.kill plane) := fun _ => rfl
theorem revive (plane : BitVec 2) : Statement (.revive plane) := fun _ => rfl
theorem laserOn (port : BitVec 4) : Statement (.laserOn port) := fun _ => rfl
theorem lock_ (port : BitVec 4) (wl : BitVec 4) : Statement (.lock_ port wl) := fun _ => rfl
theorem train (port : BitVec 4) (wl : BitVec 4) : Statement (.train port wl) := fun _ => rfl
theorem map_ (port : BitVec 4) : Statement (.map_ port) := fun _ => rfl
theorem enable (port : BitVec 4) : Statement (.enable port) := fun _ => rfl
theorem drain (port : BitVec 4) : Statement (.drain port) := fun _ => rfl
theorem disable (port : BitVec 4) : Statement (.disable port) := fun _ => rfl
theorem laserOff (port : BitVec 4) : Statement (.laserOff port) := fun _ => rfl
theorem opticalCommandEnd (port : BitVec 4) (locked : Bool) (eyew : BitVec 16) (eyeh : BitVec 16) (peer : BitVec 16) : Statement (.opticalCommandEnd port locked eyew eyeh peer) := fun _ => rfl
theorem lossOfSignal (port : BitVec 4) (wl : BitVec 4) : Statement (.lossOfSignal port wl) := fun _ => rfl
theorem rtDataWrite (m : Nat) (v : BitVec 64) : Statement (.rtDataWrite m v) := fun _ => rfl
theorem counterMove (src : BitVec 4) (dst : BitVec 4) : Statement (.counterMove src dst) := fun _ => rfl
theorem counterMoveComplete : Statement (.counterMoveComplete) := fun _ => rfl
theorem cxlPoison (a : Agent) (id : Nat) : Statement (.cxlPoison a id) := fun _ => rfl
theorem cxlLinkDown (port : BitVec 3) : Statement (.cxlLinkDown port) := fun _ => rfl
theorem memoryError (a : Agent) (e : SoftError) (word : BitVec 3) : Statement (.memoryError a e word) := fun _ => rfl
theorem traceSample (t : Nat) : Statement (.traceSample t) := fun _ => rfl
theorem dbProfWrite (m : Nat) (v : BitVec 64) : Statement (.dbProfWrite m v) := fun _ => rfl
theorem dbGrantWrite (m : Nat) (v : BitVec 64) : Statement (.dbGrantWrite m v) := fun _ => rfl
theorem opDigWrite (port : BitVec 4) (v : BitVec 64) : Statement (.opDigWrite port v) := fun _ => rfl
theorem powerOnReset : Statement (.powerOnReset) := fun _ => rfl
theorem packageReset : Statement (.packageReset) := fun _ => rfl
theorem hostPortReset : Statement (.hostPortReset) := fun _ => rfl
theorem mailboxDoorbell (cmd : BitVec 64) (args : Vector (BitVec 64) 8) (ring : Bool) : Statement (.mailboxDoorbell cmd args ring) := fun _ => rfl
theorem load : Statement (.load) := fun _ => rfl
theorem boot : Statement (.boot) := fun _ => rfl
theorem commit : Statement (.commit) := fun _ => rfl
theorem setf : Statement (.setf) := fun _ => rfl
theorem setv : Statement (.setv) := fun _ => rfl
theorem powerStateReached : Statement (.powerStateReached) := fun _ => rfl
theorem gate : Statement (.gate) := fun _ => rfl
theorem ungate : Statement (.ungate) := fun _ => rfl
theorem resetd : Statement (.resetd) := fun _ => rfl
theorem attest : Statement (.attest) := fun _ => rfl
theorem fwd : Statement (.fwd) := fun _ => rfl
theorem mbRespWrite (v : BitVec 64) : Statement (.mbRespWrite v) := fun _ => rfl
theorem btCtlRelease (v : BitVec 64) : Statement (.btCtlRelease v) := fun _ => rfl
theorem clamp : Statement .clamp := fun _ => rfl
theorem thermalTrip : Statement (.thermalTrip) := fun _ => rfl
theorem monitorSample (die : Fin 10) (smp : MonSample) : Statement (.monitorSample die smp) := fun _ => rfl
theorem droopVminWrite (die : Fin 10) (j : Fin 8) : Statement (.droopVminWrite die j) := fun _ => rfl
theorem cxlLinkUp (port : BitVec 3) : Statement (.cxlLinkUp port) := fun _ => rfl
theorem ucieLinkRetrained (edge : Nat) (plane : BitVec 2) (old : Bool) : Statement (.ucieLinkRetrained edge plane old) := fun _ => rfl
theorem hostPortLinkChange (port : Fin 2) (gen : BitVec 4) (wid : BitVec 4) : Statement (.hostPortLinkChange port gen wid) := fun _ => rfl
theorem hostMemoryAccess (acc : HostAccess) : Statement (.hostMemoryAccess acc) := fun _ => rfl
theorem ungateComplete : Statement (.ungateComplete) := fun _ => rfl
theorem dieResetComplete : Statement (.dieResetComplete) := fun _ => rfl

end Sys2Proof.Laws.Encoding
end

