-- ==== Sys2Proof/Tests/Slice0.lean ====
section
/-!
SUPPORT. Tests of the model. A witness shows a concrete state and operands that meet the hypotheses of a statement, one
for each of its clauses; the other tests take their expected values from the spec's encodings and tables.
-/

open Sys2Proof Sys2Proof.Machine Sys2Proof.Claims

namespace Sys2Proof.Tests

set_option Elab.async false

/-! ## Well-formedness: each check refuses its ill-formed term -/

/-- The predicate p0, not inverted. -/
def t0 : Pd := ⟨false, 0⟩

theorem test_illFormed_scalar :
    (Instr.loop t0 0 0).wf = false ∧ (Instr.loop t0 0 0xFFFFFFFF).wf = false ∧ (Instr.loop t0 0 1).wf = true ∧
    (Instr.cwait t0 1 2 3 0x0800).wf = false ∧ (Instr.cwait t0 1 2 3 0x0801).wf = true ∧
    (Instr.cwaitArmed t0 1 2 0xF800).wf = false ∧ (Instr.cwaitArmed t0 1 2 1).wf = true ∧
    (Instr.syscCall t0 1 0 2).wf = false ∧ (Instr.syscCall t0 1 1 2).wf = true := by decide

theorem test_illFormed_scan :
    (Instr.sort t0 .f32 true 2 3 4 true false).wf = false ∧ (Instr.sort t0 .f32 true 3 3 4 false false).wf = false ∧
    (Instr.sort t0 .f32 true 2 3 4 false true).wf = false ∧ (Instr.sort t0 .f32 true 2 3 4 false false).wf = true ∧
    (Instr.topk t0 .f32 true 1 3 4 false false 5).wf = false ∧ (Instr.topk t0 .f32 true 0 3 4 true true 5).wf = true ∧
    (Instr.cntoff t0 0 3 4 true false 256).wf = false ∧ (Instr.cntoff t0 0 3 4 true false 255).wf = true ∧
    (Instr.pfx t0 .i32 true 5 3 4 true false).wf = false ∧ (Instr.pfx t0 .i32 true 5 3 4 false false).wf = true ∧
    (Instr.comp t0 .u32 0 3 4 true false).wf = false ∧ (Instr.comp t0 .i32 0 3 4 true false).wf = true := by decide

theorem test_illFormed_matrix :
    (Instr.macc t0 0 0 1 1 9 1 2 true false).wf = false ∧ (Instr.macc t0 0 0 1 1 9 2 3 true false).wf = false ∧
    (Instr.macc t0 0 0 1 1 9 2 4 true false).wf = true ∧
    (Instr.mdrain t0 0 1 1 9 false 5 false 0 0).wf = false ∧ (Instr.mdrain t0 0 1 1 9 false 0 false 1 0).wf = false ∧
    (Instr.mdrain t0 0 1 1 9 true 5 true 1 2).wf = true ∧
    (Instr.mcall t0 7 1 0).wf = false ∧ (Instr.mcall t0 7 1 5).wf = true ∧
    (Instr.mgemv t0 3 1 2 1).wf = false ∧ (Instr.mgemv t0 2 1 2 1).wf = true := by decide

theorem test_illFormed_copy :
    (Instr.xcpy t0 1 2 3 264 0).wf = false ∧ (Instr.xcpy t0 1 2 3 263 0).wf = true ∧
    (Instr.xsend t0 0 1 0 2 0 0).wf = false ∧ (Instr.xsend t0 0 1 3 2 0 0).wf = true ∧
    (Instr.xrts t0 1 2 0 0).wf = false ∧ (Instr.xrts t0 1 2 3 0).wf = true ∧
    (Instr.xenq t0 1 2 0 0 0).wf = false ∧ (Instr.xenq t0 1 2 3 0 0).wf = true := by decide

/-! ## Small states -/

/-- A core whose scalar registers hold `l`. -/
def regs (l : List (BitVec 64)) : Core := { Core.launch with s := gen 64 fun i => l.getD i 0 }

/-- The package right after reset with one troupe of the cores `cs`, of which the first has reached word `w`. -/
def troupeAt (g : Troupe → Troupe) (cs : List Core) (w : Nat) : State :=
  let tr := troupeOf 0 (bundleStream []) Core.launch
  { State.reset with troupes := [g { tr with cores := cs }], cursor := .word 0 0 w }

/-- The same with the one core `c`. -/
def coreAt (c : Core) (w : Nat) : State := troupeAt id [c] w

/-- The word that the core issues. -/
def issOf (c : Core) (w : Nat) : Iss := ⟨.core 0 0, w, 0, c⟩

/-- Management core 0, at level `lvl`, has reached word 2. -/
def mgmtAt (c : Core) (lvl : BitVec 2) : State :=
  { State.reset.setMg 0 { State.reset.mg 0 with run := true, lvl := lvl, core := c, stream := bundleStream [] } with
    cursor := .mword 0 2 }

def issM (c : Core) : Iss := ⟨.mgmt 0, 2, 0, c⟩

/-- A copy command of word 6 that starts at once. -/
def cmdOf (op : CopyOp) : Cmd :=
  { id := 9, op := op, word := 6, baddr := 0, iss := 0, start := 0, ac := 0, started := false, snap := [], own := [], next := 0,
    total := 0, pieces := [], aux := [], pat := none, buf := [], rets := [], outstanding := 0, failed := none, reported := false,
    xasid := 0, part := 0 }

/-- A pass into accumulator 0 from buffer 0 whose last row enters in cycle `n`. -/
def passTo0 (n : Nat) : Pass :=
  { id := 0, iss := 0, int := false, acc := 0, wbi := 0, wb := WBuf.launch, addr := 0, fda := 1, rows := 1, scale := none,
    lanes := 2, lastEntry := n }

theorem issuer_coreAt (c : Core) (w : Nat) : (coreAt c w).issuer = some (issOf c w) := rfl

theorem issuer_mgmtAt (c : Core) (lvl : BitVec 2) : (mgmtAt c lvl).issuer = some (issM c) := rfl

/-- An `eret` with PLVL 0 raises illegal-operand. -/
theorem eret_raises {s : State} {x : Iss} {m : Nat} (hr : Runs s x t0) (ha : x.ag = .mgmt m)
    (hp : fld (s.handlerRegs m).2.toNat 16 2 = 0) : Raises (.eret t0) s x illegalOperand := by
  obtain ⟨hi, ho⟩ := hr
  simp [Raises, exec, execEret, mgmtWord, pkgWord, hi, ho, ha, hp]

/-- A HALT on a core of a troupe raises privilege. -/
theorem halt_raises {s : State} {x : Iss} {t r : Nat} (hr : Runs s x t0) (ha : x.ag = .core t r) :
    Raises (.halt t0) s x privilege := by
  obtain ⟨hi, ho⟩ := hr
  simp [Raises, exec, execHalt, mgmtWord, pkgWord, hi, ho, ha]

/-! ## Witnesses: the scalar slot -/

/-- Words of the statements that ask nothing but an active word that issues: `ScalarLogic`, `ScalarArithmetic`, and in
words 3, 5, 6 and 7 the vector, matrix and copy statements. -/
theorem wit_Runs : Runs (coreAt Core.launch 2) (issOf Core.launch 2) t0 ∧ Runs (coreAt Core.launch 3) (issOf Core.launch 3) t0 ∧
    Runs (coreAt Core.launch 5) (issOf Core.launch 5) t0 ∧ Runs (coreAt Core.launch 6) (issOf Core.launch 6) t0 ∧
    Runs (coreAt Core.launch 7) (issOf Core.launch 7) t0 ∧ OnCore (issOf Core.launch 2) :=
  ⟨⟨rfl, by decide +kernel⟩, ⟨rfl, by decide +kernel⟩, ⟨rfl, by decide +kernel⟩, ⟨rfl, by decide +kernel⟩,
    ⟨rfl, by decide +kernel⟩, 0, 0, rfl⟩

/-- `ScalarArithmetic`: both edge cases of a division, the smallest number by −1 and any number by 0. -/
theorem wit_ScalarArithmetic :
    let c := regs [0, 0x8000000000000000, -1, 0]
    Runs (coreAt c 2) (issOf c 2) t0 ∧ (c.rs 1).toInt = -2 ^ 63 ∧ (c.rs 2).toInt = -1 ∧ c.rs 3 = 0 :=
  ⟨⟨rfl, by decide +kernel⟩, by decide +kernel, by decide +kernel, by decide +kernel⟩

/-- `ScalarArithmetic`: a legal value of `fmt` (f7's at launch) and one of a reserved format code. -/
theorem wit_FormatDescriptor :
    let c := regs [0, 0x00003319, 0xE]
    Runs (coreAt c 2) (issOf c 2) t0 ∧ fmtLegal ((c.rs 1 + (0 : BitVec 32).signExtend 64).truncate 32) = true ∧
    fmtLegal ((c.rs 2 + (0 : BitVec 32).signExtend 64).truncate 32) = false :=
  ⟨⟨rfl, by decide +kernel⟩, by decide +kernel, by decide +kernel⟩

/-- `ControlWords`: targets at the first and the last bundle, one just behind the stream that is no bundle, one beyond
the stream, and a transfer that is outstanding. -/
theorem wit_ControlTransfer :
    let c := regs [0, 0, 192, 193, 320]
    let d := { c with xfer := some (2, 64) }
    Runs (coreAt c 2) (issOf c 2) t0 ∧
    MayTransfer (coreAt c 2) (issOf c 2) (BitVec.ofNat 64 0 + (3 : BitVec 32).signExtend 64 * 64).toNat ∧
    MayTransfer (coreAt c 2) (issOf c 2) (c.rs 1).toNat ∧ MayTransfer (coreAt c 2) (issOf c 2) (c.rs 2).toNat ∧
    (c.rs 3).toNat % 64 ≠ 0 ∧ ((coreAt c 2).stream (.core 0 0)).bundles * 64 < (c.rs 4).toNat ∧
    Runs (coreAt d 2) (issOf d 2) t0 ∧ (d.rs 2).toNat % 64 = 0 ∧
    (d.rs 2).toNat < ((coreAt d 2).stream (.core 0 0)).bundles * 64 ∧ d.xfer ≠ none := by
  refine ⟨⟨rfl, ?_⟩, ?_, ?_, ?_, ?_, ?_, ⟨rfl, ?_⟩, ?_, ?_, ?_⟩ <;> first | decide +kernel | (unfold MayTransfer OffStream BadlyPlaced; decide +kernel)

/-- `ControlWords`: targets off the stream, by their alignment and beyond it; a good target from a delay bundle, and from a
bundle that is the second delay bundle before the end of an active level. -/
theorem wit_BadTransfer :
    let c := regs [0, 0, 193, 320]
    let d := { c with xfer := some (2, 64) }
    let e := { c with lvl := vset c.lvl 7 ⟨true, 64, 128⟩ }
    Runs (coreAt c 2) (issOf c 2) t0 ∧ OffStream (coreAt c 2) (issOf c 2) (c.rs 2).toNat ∧
    OffStream (coreAt c 2) (issOf c 2) (c.rs 3).toNat ∧
    (Runs (coreAt d 2) (issOf d 2) t0 ∧ ¬ OffStream (coreAt d 2) (issOf d 2) (c.rs 1).toNat ∧ BadlyPlaced (coreAt d 2) (issOf d 2)) ∧
    (Runs (coreAt e 2) (issOf e 2) t0 ∧ ¬ OffStream (coreAt e 2) (issOf e 2) (c.rs 1).toNat ∧ BadlyPlaced (coreAt e 2) (issOf e 2)) := by
  refine ⟨⟨rfl, ?_⟩, ?_, ?_, ⟨⟨rfl, ?_⟩, ?_, ?_⟩, ⟨rfl, ?_⟩, ?_, ?_⟩ <;>
    first | decide +kernel | (unfold OffStream; decide +kernel) | (unfold BadlyPlaced; decide +kernel)

/-- `ControlWords` in a save routine: the end of the stream is a target. -/
theorem wit_ControlTransferRoutine :
    let c := regs [0, 256]
    let s := troupeAt (fun tr => { tr with st := .saving }) [c] 2
    Runs s (issOf c 2) t0 ∧ s.inRoutine (.core 0 0) = true ∧ MayTransfer s (issOf c 2) (c.rs 1).toNat := by
  refine ⟨⟨rfl, ?_⟩, ?_, ?_⟩ <;> first | decide +kernel | (unfold MayTransfer OffStream BadlyPlaced; decide +kernel)

/-- `ControlWords`: temporal levels with the trip counts 0 and 5, a spatial one, and a loop in a delay bundle. -/
theorem wit_LoopInstruction :
    let c := Core.launch
    let d := { c with xfer := some (2, 64) }
    let lp (tr : Troupe) := { tr with image := { tr.image with
      loop := vset (vset (vset tr.image.loop 0 (1#64 <<< 62)) 1 ((1#64 <<< 62) ||| 5)) 2 (3#64 <<< 61) } }
    let s := troupeAt lp [c] 2
    let E (k : Nat) : BitVec 64 := vget 0 (lp (troupeOf 0 (bundleStream []) Core.launch)).image.loop k
    ((E 7).extractLsb' 62 2 ≠ 1 ∧ ((E 1).extractLsb' 62 2 = 1 ∧ (E 1).getLsbD 61 = false) ∧
      ((E 2).extractLsb' 62 2 = 1 ∧ (E 2).getLsbD 61 = true) ∧ s.inRoutine (.core 0 0) = false) ∧
    Runs s (issOf c 2) t0 ∧ s.inRoutine (.core 0 0) = false ∧ c.xfer = none ∧
    s.tripCount (.core 0 0) (0 : Lvl).toNat = some 0 ∧ s.tripCount (.core 0 0) (1 : Lvl).toNat = some (4 + 1) ∧
    s.tripCount (.core 0 0) (7 : Lvl).toNat = none ∧
    Runs (troupeAt lp [d] 2) (issOf d 2) t0 ∧ (troupeAt lp [d] 2).inRoutine (.core 0 0) = false ∧ d.xfer ≠ none := by
  refine ⟨?_, ⟨rfl, ?_⟩, ?_, ?_, ?_, ?_, ?_, ⟨rfl, ?_⟩, ?_, ?_⟩ <;> decide +kernel

/-- `LocalLoadStore`: with RV = 0, addresses at the last word of the wall and of the array, at the first beyond each, and a
misaligned one; with RV = 1 the last of the ring's space and the first beyond. -/
theorem wit_LocalLoadStore :
    let c := regs [0, 0x7FFFF8, 0x3FFF8, 0x800000, 0x40000, 3, 0x1FFFFF8, 0x2000000]
    let V (a : SReg) := (c.rs a + (0 : BitVec 24).signExtend 64).toNat
    Runs (coreAt c 2) (issOf c 2) t0 ∧ (V 1 < 2 ^ 23 ∧ V 1 % 8 = 0) ∧ (V 2 < 2 ^ 18 ∧ V 2 % 8 = 0) ∧ 2 ^ 23 ≤ V 3 ∧
    2 ^ 18 ≤ V 4 ∧ (V 5 < 2 ^ 18 ∧ V 5 % 8 ≠ 0) ∧ (V 6 < 2 ^ 25 ∧ V 6 % 8 = 0) ∧ 2 ^ 25 ≤ V 7 := by
  refine ⟨⟨rfl, ?_⟩, ?_, ?_, ?_, ?_, ?_, ?_, ?_⟩ <;> decide +kernel

/-- A store of `n` entries in the egress buffer. -/
def egressOf (n : Nat) : Egress :=
  { va := 0, bytes := [], ac := 0, iss := 0, word := 2, baddr := 0, cap := n, inPath := false, failed := none }

/-- `GlobalLoadStore`: the last doubleword of G and the first address beyond it, a misaligned one, and an egress buffer
with one entry free and with none. -/
theorem wit_GlobalLoadStore :
    let c := { regs [0, 0x1FFFFFFFFFFFFF8, 0x200000000000000, 3] with egress := [egressOf 8191] }
    let d := { c with egress := [egressOf 8192] }
    let V (a : SReg) := (c.rs a + (0 : BitVec 24).signExtend 64).toNat
    Runs (coreAt c 2) (issOf c 2) t0 ∧ Runs (coreAt d 2) (issOf d 2) t0 ∧ (V 1 < 2 ^ 57 ∧ V 1 % 8 = 0) ∧ 2 ^ 57 ≤ V 2 ∧
    (V 3 < 2 ^ 57 ∧ V 3 % 8 ≠ 0) ∧ c.egressUsed < 8192 ∧ 8192 ≤ d.egressUsed := by
  refine ⟨⟨rfl, ?_⟩, ⟨rfl, ?_⟩, ?_, ?_, ?_, ?_, ?_⟩ <;> decide +kernel

/-- `SpecialRegisterAccess`: a core of a troupe, and each clause's register numbers at the ends of their ranges. -/
theorem wit_SpecialRegisterAccess :
    let c := regs [0, 0x100000, 8, 0x100010]
    Runs (coreAt c 2) (issOf c 2) t0 ∧ OnCore (issOf c 2) ∧ (∃ tr, (coreAt c 2).troupe? 0 = some tr) ∧
    ((0x010 : BitVec 12).toNat = 0x010 + 0 ∧ (0x017 : BitVec 12).toNat = 0x010 + 7 ∧ (0x018 : BitVec 12).toNat = 0x018 + (0 : BitVec 3).toNat ∧
      (0x01F : BitVec 12).toNat = 0x018 + (7 : BitVec 3).toNat) ∧
    ((c.rs 1).toNat % 2 ^ 21 % 16 = 0 ∧ (c.rs 1).toNat % 2 ^ 21 ≤ 2 ^ 20) ∧ (c.rs 2).toNat % 2 ^ 21 % 16 ≠ 0 ∧
    2 ^ 20 < (c.rs 3).toNat % 2 ^ 21 ∧
    (∀ n : BitVec 12, n ∈ [0x001, 0x017, 0x020, 0x031, 0xFFF] → n ≠ 0x000 ∧ n ≠ 0x030 ∧ n ≠ 0x040 ∧ (n.toNat < 0x018 ∨ 0x01F < n.toNat)) ∧
    (∀ n : BitVec 12, n ∈ [0x005, 0x00F, 0x021, 0x02F, 0x032, 0x03F, 0x041, 0xFFF] →
      (0x005 ≤ n.toNat ∧ n.toNat < 0x010 ∨ 0x021 ≤ n.toNat ∧ n.toNat < 0x030 ∨ 0x032 ≤ n.toNat ∧ n.toNat < 0x040 ∨ 0x041 ≤ n.toNat)) := by
  refine ⟨⟨rfl, ?_⟩, ⟨0, 0, rfl⟩, ⟨_, rfl⟩, ?_, ?_, ?_, ?_, ?_, ?_⟩ <;> decide +kernel

/-- `SpecialRegisterAccess` on a management core: WALL, both ends of LOOPC, and registers below, between and above them. -/
theorem wit_ManagementRegisters :
    Runs (mgmtAt Core.launch 1) (issM Core.launch) t0 ∧ (issM Core.launch).ag = .mgmt 0 ∧
    (0x018 : BitVec 12).toNat = 0x018 + (0 : BitVec 3).toNat ∧ (0x01F : BitVec 12).toNat = 0x018 + (7 : BitVec 3).toNat ∧
    ∀ n : BitVec 12, n ∈ [0x000, 0x017, 0x020, 0xFFF] → (n.toNat < 0x018 ∨ 0x01F < n.toNat) ∧ n ≠ 0x002 :=
  ⟨⟨rfl, by decide +kernel⟩, rfl, by decide, by decide, by decide⟩

/-- `TrapsAndServices`: the first code of the supervisor's and the last of the reserved ones, and an encoding of `trap`. -/
theorem wit_TrapsAndServices : Runs (coreAt Core.launch 2) (issOf Core.launch 2) t0 ∧ 0x100 ≤ (0x100 : BitVec 16).toNat ∧
    (0xFF : BitVec 16).toNat < 0x100 ∧ decodeSlot 2 (encode (.trap t0 0xFFFF 63)) = .ok (.trap t0 0xFFFF 63) :=
  ⟨⟨rfl, by decide +kernel⟩, by decide +kernel, by decide +kernel, by decide +kernel⟩

/-- `PrivilegedWords`: a core of a troupe; a management core at supervisor level, with a supervisor's register, a
hypervisor's, and one that is not listed; PT_RES with a result that stands. -/
theorem wit_PrivilegedWords :
    (Runs (coreAt Core.launch 2) (issOf Core.launch 2) t0 ∧ OnCore (issOf Core.launch 2)) ∧
    Runs (mgmtAt Core.launch 1) (issM Core.launch) t0 ∧ (issM Core.launch).ag = .mgmt 0 ∧
    ((mgmtAt Core.launch 1).mg 0).lvl = 1 ∧
    (sysListed.contains (0x4001 : BitVec 16).toNat = true ∧ (0x4001 : BitVec 16).toNat / 2 ^ 14 ≤ (1 : BitVec 2).toNat ∧ (0x4001 : BitVec 16) ≠ 0x8051) ∧
    (sysListed.contains (0x8001 : BitVec 16).toNat = true ∧ (1 : BitVec 2).toNat < (0x8001 : BitVec 16).toNat / 2 ^ 14) ∧
    sysListed.contains (0xBFFF : BitVec 16).toNat = false ∧
    (let s : State := { mgmtAt Core.launch 2 with ptSt := 2 }
     Runs s (issM Core.launch) t0 ∧ s.ptSt = 2 ∧ sysListed.contains (0x8051 : BitVec 16).toNat = true ∧
       (0x8051 : BitVec 16).toNat / 2 ^ 14 ≤ (s.mg 0).lvl.toNat) := by
  refine ⟨⟨⟨rfl, ?_⟩, 0, 0, rfl⟩, ⟨rfl, ?_⟩, rfl, ?_, ?_, ?_, ?_, ⟨rfl, ?_⟩, rfl, ?_, ?_⟩ <;> decide +kernel

/-- `ReturnFromException`: hypervisor and supervisor level with the saved levels 1, 2 and 0, 3, and EPC at the last
bundle. -/
theorem wit_ReturnFromException :
    let hv (plvl : Nat) : State := (mgmtAt Core.launch 2).setMg 0
      { (mgmtAt Core.launch 2).mg 0 with hvEpc := 192, hvEcause := BitVec.ofNat 64 (plvl * 2 ^ 16), hexl := true }
    let sv : State := (mgmtAt Core.launch 1).modBank 0 fun b => { b with mcEpc := 192, mcEcause := 0x10000 }
    (∀ p, p < 4 → fld ((hv p).mg 0).hvEcause.toNat 16 2 = p) ∧
    (Runs (hv 2) (issM Core.launch) t0 ∧ MayTransfer (hv 2) (issM Core.launch) ((hv 2).mg 0).hvEpc.toNat) ∧
    (Runs sv (issM Core.launch) t0 ∧ (sv.mg 0).lvl ≠ 2 ∧ fld (sv.bank 0).mcEcause.toNat 16 2 = 1 ∧
      MayTransfer sv (issM Core.launch) (sv.bank 0).mcEpc.toNat) := by
  refine ⟨?_, ⟨⟨rfl, ?_⟩, ?_⟩, ⟨rfl, ?_⟩, ?_, ?_, ?_⟩ <;> first | decide +kernel | (unfold MayTransfer OffStream BadlyPlaced; decide +kernel)

/-- `FaultsTaken`: an `eret` with PLVL 0 raises at hypervisor level, with and without an active handler, and at supervisor
level; a privileged word raises on a core of a troupe. -/
theorem wit_FaultsTaken :
    let hv (h : Bool) : State := (mgmtAt Core.launch 2).setMg 0 { (mgmtAt Core.launch 2).mg 0 with hexl := h }
    (∀ h, (hv h).issuer = some (issM Core.launch) ∧ Raises (.eret t0) (hv h) (issM Core.launch) illegalOperand) ∧
    ((mgmtAt Core.launch 1).issuer = some (issM Core.launch) ∧
      Raises (.eret t0) (mgmtAt Core.launch 1) (issM Core.launch) illegalOperand) ∧
    (Raises (.halt t0) (coreAt Core.launch 2) (issOf Core.launch 2) privilege ∧ OnCore (issOf Core.launch 2)) := by
  refine ⟨fun h => ⟨rfl, ?_⟩, ⟨rfl, ?_⟩, ?_, 0, 0, rfl⟩
  · exact eret_raises (m := 0) ⟨rfl, by decide +kernel⟩ rfl (by cases h <;> decide +kernel)
  · exact eret_raises (m := 0) ⟨rfl, by decide +kernel⟩ rfl (by decide +kernel)
  · exact halt_raises ⟨rfl, by decide +kernel⟩ rfl

/-- Counter 5 of die 0, of VF 0, idle. -/
def ctr5 : Counter :=
  { handle := 5, value := 7, target := 0, st := 0, ovb := false, ovr := 0, vf := 0, task := none, lost := false }

/-- `CounterWords`: a handle that the agent may name and one that is not live; operands of `carm` at both ends of its range
and just outside. -/
theorem wit_CounterWords :
    let c := regs [0, 5, 6, 1, 0xFFFFFFFF, 0, 0x100000000]
    let s := { coreAt c 2 with ctrs := [ctr5] }
    Runs s (issOf c 2) t0 ∧ s.handleOk (.core 0 0) (c.rs 1) = true ∧ s.handleOk (.core 0 0) (c.rs 2) = false ∧
    (0 < (c.rs 3).toNat ∧ (c.rs 4).toNat < 2 ^ 32) ∧ (c.rs 5).toNat = 0 ∧ 2 ^ 32 ≤ (c.rs 6).toNat := by
  refine ⟨⟨rfl, ?_⟩, ?_, ?_, ?_, ?_, ?_⟩ <;> decide +kernel

/-- `BufferHandles`: of a ring of two cores, buffer 127 of core 0, held at home; a neighbour's buffer; a ring core that is
not of the troupe; operands outside their ranges; and a buffer of which a pass has still to read a row. -/
theorem wit_BufferHandles :
    let c := regs [0, 127, 128, 511, 512, 1, 3, 4]
    let s := troupeAt id [c, { Core.launch with rank := 1, lrank := 1, loc := 1, holder := gen 128 fun _ => 1 }] 2
    let x := issOf c 2
    Runs s x t0 ∧
    ((c.rs 1).toNat < 512 ∧ (c.rs 5).toNat < 4 ∧ s.holderOf x.ag x.core 0 127 = 0 ∧ s.ringCore x.ag x.core 1 ≠ none ∧ x.core.mustTouch 127 = false) ∧
    (s.holderOf x.ag x.core ((c.rs 2).toNat / 128) ((c.rs 2).toNat % 128) ≠ 0 ∧ (c.rs 2).toNat / 128 ≠ 0) ∧
    ((c.rs 3).toNat < 512 ∧ s.ringCore x.ag x.core (c.rs 6).toNat = none) ∧ 512 ≤ (c.rs 4).toNat ∧ 4 ≤ (c.rs 7).toNat ∧
    (let d := { c with passes := [{ passTo0 2 with addr := 127 * 65536 }],
                       pend := [{ due := 2, iss := 0, word := 5, baddr := 0, act := .aRow 0 0, flags := 0, rtn := none }] }
     Runs (coreAt d 2) (issOf d 2) t0 ∧ (coreAt d 2).holderOf (.core 0 0) d 0 127 = 0 ∧ d.mustTouch 127 = true) := by
  refine ⟨⟨rfl, ?_⟩, ?_, ?_, ?_, ?_, ?_, ⟨rfl, ?_⟩, ?_, ?_⟩ <;> decide +kernel

/-- `WordsInGeneral`: a word whose predicate p1 is clear, and one under p0; both kinds of scope. -/
theorem wit_WordsInGeneral :
    Core.launch.on ⟨false, 1⟩ = false ∧ (coreAt Core.launch 2).issuer = some (issOf Core.launch 2) ∧
    pdOf (encode (.add ⟨false, 1⟩ 3 4 5)) = ⟨false, 1⟩ ∧ (Instr.add ⟨false, 1⟩ 3 4 5).slot = .S ∧
    Core.launch.on t0 = true ∧ Scope.core ≠ .pkg := by
  refine ⟨?_, rfl, ?_, ?_, ?_, ?_⟩ <;> decide +kernel

/-! ## Witnesses: the vector slots and their units -/

/-- The word that the core issues `n` cycles after its troupe's start, and a state in which it does. -/
def issAt (c : Core) (w n : Nat) : Iss := ⟨.core 0 0, w, n, c⟩

def coreAtN (c : Core) (w n : Nat) : State := troupeAt (fun tr => { tr with adv := n }) [c] w

theorem issuer_coreAtN (c : Core) (w n : Nat) : (coreAtN c w n).issuer = some (issAt c w n) := rfl

/-- `VectorIntegers`, `VectorFloats`, `RearrangeAndReduce`: any vector word, all of whose elements are active. -/
theorem wit_VectorWords : (coreAt Core.launch 3).issuer = some (issOf Core.launch 3) ∧ Core.launch.on t0 = true ∧
    Core.launch.mask t0 = BitVec.allOnes 1024 ∧ ([1] : List (BitVec 32)) ≠ [] := by
  refine ⟨rfl, ?_, ?_, ?_⟩ <;> decide +kernel

/-- `VectorFloats`, `ConversionsAndFunctions`, `InversesRestore`: the first and last codes of each kind of NaN, both
infinities, both zeros. -/
theorem wit_VectorFloats :
    IsNan 0x7F800001 ∧ IsNan 0xFFFFFFFF ∧ ¬ IsNan 0x7F800000 ∧ IsInf 0x7F800000 ∧ IsInf 0xFF800000 ∧
    (0x00000000 : BitVec 32).extractLsb' 0 31 = 0 ∧ (0x80000000 : BitVec 32).extractLsb' 0 31 = 0 := by
  unfold IsNan IsInf; decide

/-- `ConversionsAndFunctions`: descriptors that suit a kind and one that does not; the unit free in the fourth cycle after
another special function and occupied in the third; a word of inactive elements. -/
theorem wit_ConversionsAndFunctions :
    let c := { Core.launch with sfu := some (0, 3) }
    (coreAt Core.launch 3).issuer = some (issOf Core.launch 3) ∧ (cvtElem .fi .rne (Core.launch.rf 5)).isSome = true ∧
    cvtElem .fi .rne (Core.launch.rf 1) = none ∧ fmtLegal (Core.launch.rf 5) = true ∧
    ((coreAtN c 3 4).issuer = some (issAt c 3 4) ∧ ∀ t w, c.sfu = some (t, w) → t + 4 ≤ 4) ∧
    ((coreAtN c 3 3).issuer = some (issAt c 3 3) ∧ (¬ ∀ t w, c.sfu = some (t, w) → t + 4 ≤ 3) ∧ c.mask t0 ≠ 0) ∧
    c.mask ⟨false, 1⟩ = 0 := by
  refine ⟨rfl, ?_, ?_, ?_, ⟨rfl, ?_⟩, ⟨rfl, ?_, ?_⟩, ?_⟩
  · decide +kernel
  · rfl
  · decide +kernel
  · rintro t w h; cases h; decide
  · intro h; have := h 0 3 rfl; omega
  · decide +kernel
  · decide +kernel

theorem wit_SumOrderFree : ([0x3F800000, 0x7F800000] : List (BitVec 32)).Perm [0x7F800000, 0x3F800000] := List.Perm.swap _ _ _

/-- `LocalLoadStore`: the only sub-column of a 32-bit format and the first beyond; the first and the last line of both
directions; a line between two; an address beyond the array. -/
theorem wit_VectorLocalMemory :
    let c := regs [0, 0, 1, 1008, 258048, 16, 0x40000]
    (coreAt c 3).issuer = some (issOf c 3) ∧ subOk (c.rf 0) (c.rs 1) = true ∧ subOk (c.rf 0) (c.rs 2) = false ∧
    ((c.rs 3).toNat = 63 * 16 ∧ (c.rs 4).toNat = 63 * 4096 ∧ (c.rs 1).toNat = 0 * 16) ∧
    ((c.rs 5).toNat < 2 ^ 18 ∧ ∀ j, j < 64 → (c.rs 5).toNat ≠ j * 4096) ∧
    ((c.rs 2).toNat < 2 ^ 18 ∧ ∀ j, j < 64 → (c.rs 2).toNat ≠ j * 16) ∧ 2 ^ 18 ≤ (c.rs 6).toNat := by
  refine ⟨rfl, ?_, ?_, ?_, ?_, ?_, ?_⟩ <;> decide +kernel

/-- `VectorGlobalMemory`: a format of 4 bytes and one without a code size; the last aligned address of G, a misaligned one,
one beyond; an egress buffer with just room for 512 entries and with one less; masks with all elements and with none. -/
theorem wit_VectorGlobalMemory :
    let c := { regs [0, 0x1FFFFFFFFFFFFFC, 2, 0x200000000000000] with egress := [egressOf 7680] }
    let d := { c with egress := [egressOf 7681] }
    ((coreAt c 3).issuer = some (issOf c 3) ∧ (coreAt d 3).issuer = some (issOf d 3)) ∧
    (gBytes (c.rf 0) = some 4 ∧ (c.rs 1).toNat < 2 ^ 57 ∧ (c.rs 1).toNat % 4 = 0) ∧ c.egressUsed + 4 * 128 ≤ 8192 ∧
    8192 < d.egressUsed + 4 * 128 ∧ gBytes (c.rf 7) = none ∧ (c.mask t0 ≠ 0 ∧ c.mask ⟨false, 1⟩ = 0) ∧ fmtLegal (c.rf 0) = true ∧ ((c.rs 2).toNat < 2 ^ 57 ∧ (c.rs 2).toNat % 4 ≠ 0) ∧
    2 ^ 57 ≤ (c.rs 3).toNat := by
  refine ⟨⟨rfl, rfl⟩, ?_, ?_, ?_, ?_, ?_, ?_, ?_, ?_⟩ <;> decide +kernel

/-- A core whose v1 holds `f e` in element e. -/
def withV1 (f : Nat → BitVec 32) : Core := { Core.launch with v := vset Core.launch.v 1 (gen 1024 f) }

theorem rv_withV1 (c : Core) (f : Nat → BitVec 32) (hc : c.v = (withV1 f).v) (e : Nat) (h : e < 1024) :
    el (c.rv 1) e = f e := by
  have : c.rv 1 = gen 1024 f := by
    unfold Core.rv
    rw [hc]
    exact vget_vset_same _ _ 1 _ (by decide)
  rw [this]; simp [el, h]

theorem all_withV1 (c : Core) (f : Nat → BitVec 32) (hc : c.v = (withV1 f).v) (P : BitVec 32 → Prop) (n : Nat) (hn : n ≤ 1024)
    (hp : ∀ e, e < n → P (f e)) (e : Nat) (h : e < n) : P (el (c.rv 1) e) := by
  rw [rv_withV1 c f hc e (by omega)]; exact hp e h

theorem mask_withV1 (f : Nat → BitVec 32) : ((withV1 f).mask t0).getLsbD 1023 = true := by
  have h : (withV1 f).mask t0 = Core.launch.mask t0 := rfl
  rw [h]; decide +kernel

/-- `Solver`: the last word of the wall in every element; the solver free in the eighth cycle and busy in the seventh; q6
with seven entries and with eight. -/
theorem wit_Solver :
    let c : Core := { withV1 fun _ => 0x7FFFFC with solv := some (0, 3), q := vset Core.launch.q 6 (tab 7 fun _ => []) }
    let d : Core := { c with q := vset Core.launch.q 6 (tab 8 fun _ => []) }
    let free (n : Nat) := ∀ t w, c.solv = some (t, w) → t + 8 ≤ n
    ((coreAtN c 3 8).issuer = some (issAt c 3 8) ∧ (coreAtN d 3 8).issuer = some (issAt d 3 8)) ∧
    (∀ e, e < 1024 → (c.mask t0).getLsbD e = true → (el (c.rv 1) e).toNat < 2 ^ 23 ∧ (el (c.rv 1) e).toNat % 4 = 0) ∧
    free 8 ∧ ¬ free 7 ∧ c.qfill 6 < 8 ∧ 8 ≤ d.qfill 6 := by
  refine ⟨⟨rfl, rfl⟩, ?_, ?_, ?_, ?_, ?_⟩
  · intro e h _
    exact all_withV1 _ (fun _ => 0x7FFFFC) rfl (fun b => b.toNat < 2 ^ 23 ∧ b.toNat % 4 = 0) 1024 (le_refl _) (fun _ _ => by decide) e h
  · rintro t w h; cases h; decide
  · intro h; have := h 0 3 rfl; omega
  · decide +kernel
  · decide +kernel

/-- `Solver`: element 1023 is the first that fails, beyond the wall and misaligned. -/
theorem wit_SolverFails (bad : BitVec 32) (hb : bad = 0x800000 ∨ bad = 0x000002) :
    let c := withV1 fun e => if e = 1023 then bad else 0
    (coreAt c 3).issuer = some (issOf c 3) ∧ (c.mask t0).getLsbD 1023 = true ∧
    (∀ j, j < 1023 → (c.mask t0).getLsbD j = true → (el (c.rv 1) j).toNat < 2 ^ 23 ∧ (el (c.rv 1) j).toNat % 4 = 0) ∧
    (2 ^ 23 ≤ (el (c.rv 1) 1023).toNat ∨ (el (c.rv 1) 1023).toNat < 2 ^ 23 ∧ (el (c.rv 1) 1023).toNat % 4 ≠ 0) := by
  refine ⟨rfl, ?_, ?_, ?_⟩
  · exact mask_withV1 _
  · intro j h _
    rw [rv_withV1 _ (fun e => if e = 1023 then bad else 0) rfl j (by omega)]
    have : j ≠ 1023 := by omega
    simp [this]
  · rw [rv_withV1 _ (fun e => if e = 1023 then bad else 0) rfl 1023 (by decide)]
    rcases hb with rfl | rfl <;> decide

/-- `ScanInstructions`: the unit free when its interval has passed and busy a cycle before; room for two images in q0, and
none. -/
theorem wit_ScanInstructions :
    let c : Core := { Core.launch with scan := some (0, 32, 4), q := vset Core.launch.q 0 (tab 2 fun _ => []) }
    let d : Core := { c with q := vset Core.launch.q 0 (tab 3 fun _ => []) }
    let free (n : Nat) := ∀ t k w, c.scan = some (t, k, w) → t + k ≤ n
    ((coreAtN c 4 32).issuer = some (issAt c 4 32) ∧ (coreAtN d 4 32).issuer = some (issAt d 4 32)) ∧ free 32 ∧ ¬ free 31 ∧
    c.qfill (bit false) + 2 ≤ 4 ∧ ¬ d.qfill (bit false) + 2 ≤ 4 := by
  refine ⟨⟨rfl, rfl⟩, ?_, ?_, ?_, ?_⟩
  · rintro t k w h; cases h; decide
  · intro h; have := h 0 32 4 rfl; omega
  · decide +kernel
  · decide +kernel

/-- Every segment of a launched core is resident and idle. -/
theorem segs_launch (c : Core) (hr : c.rseg = 0xFFFF) (hc : c.cmds = []) (a b : Nat) (hb : b < 16) (g : Nat) (_ : a ≤ g) (h : g ≤ b) :
    c.rseg.getLsbD g = true ∧ c.segBusy g = false := by
  have : g < 16 := by omega
  rw [hr]
  refine ⟨?_, by simp [Core.segBusy, Core.sweep, hc]⟩
  interval_cases g <;> rfl

/-- `ReversibleUnit`: the last record that fits, one that does not, and a marker; both formats of RLEAK, and another. -/
theorem wit_ReversibleForward :
    let c : Core := { Core.launch with top := 1044336 }
    let d : Core := { Core.launch with top := 1044352 }
    ((coreAt c 3).issuer = some (issOf c 3) ∧ MayPush (issOf c 3) 4240 ∧ MayPush (issOf c 3) 16 ∧ c.on t0 = true) ∧
    ((coreAt d 3).issuer = some (issOf d 3) ∧ d.stkUse ≠ some 0 ∧ 2 ^ 20 < d.top + 4240) ∧
    ((c.rf 0).extractLsb' 0 4 = 0 ∧ (c.rf 6).extractLsb' 0 4 = 8) ∧ ((c.rf 1).extractLsb' 0 4 ≠ 0 ∧ (c.rf 1).extractLsb' 0 4 ≠ 8) := by
  refine ⟨⟨rfl, ⟨?_, ?_, ?_⟩, ⟨?_, ?_, ?_⟩, ?_⟩, ⟨rfl, ?_, ?_⟩, ?_, ?_⟩
  · simp [issOf, Core.launch]
  · decide +kernel
  · exact segs_launch _ rfl rfl _ _ (by decide)
  · simp [issOf, Core.launch]
  · decide +kernel
  · exact segs_launch _ rfl rfl _ _ (by decide)
  · decide +kernel
  · simp [Core.launch]
  · decide +kernel
  · decide +kernel
  · decide +kernel

/-- A core whose remainder stack holds one record of `size` bytes of all zeros behind the tag `g`. -/
def stackedWith (g : Tag) (size : Nat) : Core :=
  { Core.launch with top := size, stk := Mem.write [] 0 (leBytes 16 (g.pack 0)) }

theorem mayPop_stackedWith (g : Tag) (size w : Nat) (hs : 0 < size) (hb : size ≤ 2 ^ 20) :
    MayPop (issOf (stackedWith g size) w) size := by
  refine ⟨by simp [issOf, stackedWith, Core.launch], by simp [issOf, stackedWith], ?_, ?_⟩
  · simp [issOf, Core.pushPending, stackedWith, Core.launch]
  · refine segs_launch _ rfl rfl _ _ ?_
    show (size - 1) / 65536 < 16
    omega

/-- `ReversibleUnit`: a record that an undo of v7 meets, at the bottom of the stack, and another's; a marker. -/
theorem wit_ReversibleUndo :
    let g : Tag := { cls := 1, reg := 7 }
    let m : Tag := { cls := 0xF, mid := 0 }
    let u : Tag := { cls := 5, reg := 7, fd := 6, sh := 31, fmt := 8 }
    let at0 (g : Tag) (n : Nat) : Nat := (stackedWith g n).stk.num ((stackedWith g n).top - n) 16
    ((coreAt (stackedWith g 4240) 3).issuer = some (issOf (stackedWith g 4240) 3) ∧ MayPop (issOf (stackedWith g 4240) 3) 4240 ∧
      TagNames (at0 g 4240) 0 1 7 0 t0 0 ∧ ¬ TagNames (at0 g 4240) 0 2 7 0 t0 0) ∧
    (TagNames (at0 u 4240) 0 5 7 6 t0 31 ∧ at0 u 4240 / 2 ^ 22 % 2 ^ 4 = ((stackedWith u 4240).rf 6).toNat % 16) ∧
    ((stackedWith m 16).on t0 = true ∧ MayPop (issOf (stackedWith m 16) 3) 16 ∧ TagAt (at0 m 16) 0 ∧ at0 m 16 % 2 ^ 4 = 0xF ∧
      at0 m 16 / 2 ^ 64 % 2 ^ 32 = ((stackedWith m 16).rs 0).toNat % 2 ^ 32) := by
  refine ⟨⟨rfl, mayPop_stackedWith _ _ _ ?_ ?_, ?_, ?_⟩, ⟨?_, ?_⟩, ?_, mayPop_stackedWith _ _ _ ?_ ?_, ?_, ?_, ?_⟩ <;>
    first | decide +kernel | (unfold TagNames TagAt; decide +kernel) | (unfold TagAt; decide +kernel)

/-- `ReversibleUnit`, `MatrixDrains`: every fault of a push and of a pop of 4,240 bytes, one stack for each. -/
theorem wit_StackFaults :
    let c (t : Nat) : Core := { Core.launch with top := t }
    let used := { c 4240 with stkUse := some 0 }
    let away := { c 4240 with rseg := 0xFFFE }
    let spill : Core := { c 4240 with cmds := [cmdOf (.xrsp 0 0)] }
    let pushed := { c 4240 with pend := [{ due := 6, iss := 0, word := 3, baddr := 0, act := .stk 0 [], flags := 0, rtn := none }] }
    (coreAt used 3).issuer = some (issOf used 3) ∧ used.stkUse = some (issOf used 3).now ∧
    ((c 1044352).stkUse ≠ some 0 ∧ 2 ^ 20 < (c 1044352).top + 4240) ∧ (c 4239).top < 4240 ∧
    ((c 4240).stkUse ≠ some 0 ∧ 4240 ≤ (c 4240).top ∧ (c 4240).top + 4240 ≤ 2 ^ 20) ∧
    (away.rseg.getLsbD 0 = false ∧ 4240 / 65536 ≤ 0 ∧ 0 ≤ (4240 + 4240 - 1) / 65536) ∧
    ((∀ g, g ≤ (4240 - 1) / 65536 → spill.rseg.getLsbD g = true) ∧ spill.segBusy 0 = true) ∧ pushed.pushPending 0 = true := by
  refine ⟨rfl, ?_, ?_, ?_, ?_, ?_, ⟨?_, ?_⟩, ?_⟩
  case refine_6 => intro g h; have : g = 0 := by omega
                   subst this; decide +kernel
  all_goals decide +kernel

/-- `InversesRestore`: the largest shift, and a number that is no NaN. -/
theorem wit_InversesRestore : (31 : Nat) < 32 ∧ IsNan 0x7FC00000 ∧ ¬ IsNan 0xFF7FFFFF ∧ 0 ≤ (0x7FFFFFFF : BitVec 32).toInt ∧
    (0x80000000 : BitVec 32).toInt < 0 := by
  unfold IsNan; decide

/-! ## Witnesses: the matrix slot -/

/-- A core at home holds all its own buffers. -/
theorem mayTouch_home (c : Core) (al b n : Nat) (hh : c.holder = Core.launch.holder) (hl : c.loc = 0) (ha : b % al = 0)
    (hn : b + n ≤ 2 ^ 23) : MayTouch c al b n := by
  refine ⟨ha, hn, fun g _ _ => ?_⟩
  rw [hh, hl]
  simp [Core.launch]

/-- `MatrixSetup`: 128 rows of BF16 and of a BPI tile at the end of the wall; both corners of T; a compressed tile; a wrong
descriptor and a misaligned block; a buffer that a pass still uses in the load's last cycle; a BPI tile whose K exceeds its
bits. -/
theorem wit_WeightLoads :
    let c := regs [0, 8355840, 131584, 8351744, 2048, 8380416]
    Runs (coreAt c 5) (issOf c 5) t0 ∧ MayLoad (issOf c 5) 0 ∧
    (((c.rf 1).extractLsb' 0 4).toNat = 1 ∧ MayTouch c 4096 (c.rs 1).toNat (weightBytes (c.rf 1) 128)) ∧
    ((c.rf 7).extractLsb' 0 4 = 9 ∧ ((c.rf 7).extractLsb' 12 3).toNat ≤ ((c.rf 7).extractLsb' 8 3).toNat ∧
      MayTouch c 4096 (c.rs 5).toNat (weightBytes (c.rf 7) 128)) ∧
    ((c.rs 2).toNat < 2 ^ 18 ∧ (c.rs 2).toNat % 4 = 0 ∧ (c.rs 2).toNat / 1024 % 128 = 0 ∧ (c.rs 2).toNat / 4 % 256 % 128 = 0) ∧
    MayTouch c 4096 (c.rs 3).toNat (2048 * (fmtOf (c.rf 1)).width + 4096) ∧ ((c.rf 0).extractLsb' 0 4).toNat = 0 ∧
    (c.rs 4).toNat % 4096 ≠ 0 ∧
    (let d := { c with passes := [passTo0 3] }
     Runs (coreAt d 5) (issOf d 5) t0 ∧ ¬ MayLoad (issOf d 5) 0 ∧ ((d.rf 1).extractLsb' 0 4).toNat = 1 ∧
       MayTouch d 4096 (d.rs 1).toNat (weightBytes (d.rf 1) 128) ∧ MayTouch d 4096 (d.rs 3).toNat (2048 * (fmtOf (d.rf 1)).width + 4096)) ∧
    (let e := { c with f := vset c.f 7 0x00007319 }
     Runs (coreAt e 5) (issOf e 5) t0 ∧ (e.rf 7).extractLsb' 0 4 = 9 ∧
       ((e.rf 7).extractLsb' 8 3).toNat < ((e.rf 7).extractLsb' 12 3).toNat) := by
  refine ⟨⟨rfl, ?_⟩, ⟨rfl, ?_⟩, ⟨?_, mayTouch_home _ _ _ _ rfl rfl ?_ ?_⟩, ⟨?_, ?_, mayTouch_home _ _ _ _ rfl rfl ?_ ?_⟩, ?_,
    mayTouch_home _ _ _ _ rfl rfl ?_ ?_, ?_, ?_, ⟨⟨rfl, ?_⟩, ?_, ?_, mayTouch_home _ _ _ _ rfl rfl ?_ ?_,
    mayTouch_home _ _ _ _ rfl rfl ?_ ?_⟩, ⟨rfl, ?_⟩, ?_, ?_⟩ <;> first | decide +kernel | (unfold MayLoad; decide +kernel)

/-- A core whose accumulator 0 is in integer mode with fraction `fr`, and whose buffer 0 has format `wf`. -/
def intCore (fr : BitVec 5) (wf : BitVec 4) (l : List (BitVec 64)) : Core :=
  { regs l with acc := vset Core.launch.acc 0 { Acc.zero with int := true, frac := fr },
                w := vset Core.launch.w 0 { WBuf.launch with wf := wf } }

/-- `MatrixSetup`: an idle accumulator and one that a pass uses, in both modes; each kind of descriptor; a weight load under
way; a buffer that a pass leaves just in time for a swap, and one cycle too late. -/
theorem wit_MatrixHousekeeping :
    let c := Core.launch
    let d := { c with passes := [passTo0 0] }
    let m := intCore 0 6 []
    Runs (coreAt c 5) (issOf c 5) t0 ∧ (c.accBusy 0 = false ∧ (vget Acc.zero c.acc 0).int = false) ∧
    (Runs (coreAt d 5) (issOf d 5) t0 ∧ d.accBusy 0 = true ∧ (vget Acc.zero d.acc 0).int = false) ∧
    (Runs (coreAt m 5) (issOf m 5) t0 ∧ (vget Acc.zero m.acc 0).int = true) ∧
    (((c.rf 5).extractLsb' 0 4).toNat = 6 ∧ ((c.rf 3).extractLsb' 0 4).toNat = 3 ∧ ((c.rf 1).extractLsb' 0 4).toNat = 1) ∧
    (c.wload = none ∧ (∀ p ∈ c.pend, ∀ i w, p.act ≠ .wDone i w) ∧ ∀ p ∈ d.passes, p.wbi < 2 → p.lastEntry + 127 < 128) ∧
    ((coreAtN d 5 127).issuer = some (issAt d 5 127) ∧ d.on t0 = true ∧ ∃ p ∈ d.passes, p.wbi < 2 ∧ 127 ≤ p.lastEntry + 127) := by
  refine ⟨⟨rfl, ?_⟩, ⟨?_, ?_⟩, ⟨⟨rfl, ?_⟩, ?_, ?_⟩, ⟨⟨rfl, ?_⟩, ?_⟩, ?_, ⟨rfl, (fun p hp => by cases hp), ?_⟩, rfl, ?_, ?_⟩
  all_goals decide +kernel

/-- `MatrixPasses`: a dense pass of two lanes over 128 rows at the end of the wall, one of one lane with scales, a sparse
one, integer passes of both activation formats, and a pass whose accumulator another has taken. -/
theorem wit_MatrixPasses :
    let c := regs [0, 8355840]
    let e := { c with w := vset c.w 0 { WBuf.launch with wf := 3 } }
    let z := { c with w := vset c.w 0 { WBuf.launch with spa := true } }
    let i6 := intCore 0 6 [0, 8372224]
    let i9 := intCore 9 9 [0, 8372224]
    (Runs (coreAt c 5) (issOf c 5) t0 ∧ (vget WBuf.launch c.w 0).spa = false ∧ (vget Acc.zero c.acc 0).int = false ∧
      MayTouch c 4096 (c.rs 1).toNat (128 * ({ passTo0 0 with fda := c.rf 1 } : Pass).rowBytes) ∧ c.passFault 0 0 0 2 127 = none ∧
      c.acc70 = []) ∧
    (Runs (coreAt e 5) (issOf e 5) t0 ∧ 3 ≤ (vget WBuf.launch e.w 0).wf.toNat ∧ ((e.rf 3).extractLsb' 0 4).toNat = 3 ∧
      MayTouch e 4096 (e.rs 1).toNat (128 * ({ passTo0 0 with fda := e.rf 3 } : Pass).rowBytes) ∧ e.passFault 0 0 0 1 127 = none) ∧
    (Runs (coreAt z 5) (issOf z 5) t0 ∧ (vget WBuf.launch z.w 0).spa = true ∧ z.passFault 0 0 0 2 0 = none) ∧
    (Runs (coreAt i6 5) (issOf i6 5) t0 ∧ (vget WBuf.launch i6.w 0).wf = 6 ∧ (vget Acc.zero i6.acc 0).int = true ∧
      ((i6.rf 5).extractLsb' 0 4).toNat = 6 ∧ MayTouch i6 4096 (i6.rs 1).toNat (128 * 128) ∧ i6.passFault 0 0 0 2 63 = none) ∧
    (Runs (coreAt i9 5) (issOf i9 5) t0 ∧ (vget WBuf.launch i9.w 0).wf = 9 ∧ (vget Acc.zero i9.acc 0).frac = 9 ∧
      ((i9.rf 3).extractLsb' 0 4).toNat = 3) ∧
    (let p := { c with passes := [passTo0 0] }
     Runs (coreAt p 5) (issOf p 5) t0 ∧ p.passFault 0 0 0 2 127 ≠ none ∧
       MayTouch p 4096 (p.rs 1).toNat (128 * (128 * (fmtOf (p.rf 1)).width / 8)) ∧ (vget WBuf.launch p.w 0).spa = false ∧
       (vget Acc.zero p.acc 0).int = false) := by
  refine ⟨⟨⟨rfl, ?_⟩, ?_, ?_, mayTouch_home _ _ _ _ rfl rfl ?_ ?_, ?_, rfl⟩,
    ⟨⟨rfl, ?_⟩, ?_, ?_, mayTouch_home _ _ _ _ rfl rfl ?_ ?_, ?_⟩, ⟨⟨rfl, ?_⟩, ?_, ?_⟩,
    ⟨⟨rfl, ?_⟩, ?_, ?_, ?_, mayTouch_home _ _ _ _ rfl rfl ?_ ?_, ?_⟩, ⟨⟨rfl, ?_⟩, ?_, ?_, ?_⟩,
    ⟨rfl, ?_⟩, ?_, mayTouch_home _ _ _ _ rfl rfl ?_ ?_, ?_, ?_⟩ <;> decide +kernel

/-- `MatrixDrains`: 128 rows of BF16 drained and reduced, pushed and popped, saved at the end of the wall; an integer
accumulator; a misaligned address. -/
theorem wit_MatrixDrains :
    let c := regs [0, 8355840, 8257536, 2048]
    let g := drainTag t0 0 1 (Core.launch.rf 1)
    let d := stackedWith g 67600
    let i := intCore 0 6 []
    (Runs (coreAt c 5) (issOf c 5) t0 ∧ ((c.rf 1).extractLsb' 0 4).toNat = 1 ∧ (vget Acc.zero c.acc 0).int = false ∧
      MayTouch c 4096 (c.rs 1).toNat (128 * 16 * (fmtOf (c.rf 1)).width) ∧ MayTouch c 4096 (c.rs 2).toNat (128 * 1024) ∧
      MayPush (issOf c 5) 67600 ∧ (c.rs 3).toNat % 4096 ≠ 0) ∧
    (Runs (coreAt d 5) (issOf d 5) t0 ∧ (vget Acc.zero d.acc 0).int = false ∧ MayTouch d 4096 (d.rs 1).toNat 32768 ∧
      MayPop (issOf d 5) (16 + 528 * 128) ∧
      TagNames (d.stk.num (d.top - 67600) 16) (d.top - 67600) 6 0 1 t0 0 ∧ d.stk.num (d.top - 67600) 16 / 2 ^ 22 % 2 ^ 4 = 1) ∧
    (Runs (coreAt i 5) (issOf i 5) t0 ∧ (vget Acc.zero i.acc 0).int = true) := by
  refine ⟨⟨⟨rfl, ?_⟩, ?_, ?_, mayTouch_home _ _ _ _ rfl rfl ?_ ?_, mayTouch_home _ _ _ _ rfl rfl ?_ ?_, ⟨?_, ?_, ?_⟩, ?_⟩,
    ⟨⟨rfl, ?_⟩, ?_, mayTouch_home _ _ _ _ rfl rfl ?_ ?_, mayPop_stackedWith _ _ _ ?_ ?_, ?_, ?_⟩,
    ⟨rfl, ?_⟩, ?_⟩
  all_goals first | decide +kernel | (unfold TagNames TagAt; decide +kernel)

/-- `ProductAndRoutines`: no routine running and one; a product of one block at the end of the wall, a product for another
VF's counter 5, and parameters out of range; a counter that is not live, another format, a bad address and a bad landing. -/
theorem wit_RoutinesAndProduct :
    let c := { regs [0, 8384512, 64, 0x200000000000000] with
      k := (⟨#[0x007FFE0000010020, 0, 0x8000000000010020, 5, 0, 0, 0x0000000100010020, 0], rfl⟩ : Vector (BitVec 64) 8), gemv := [] }
    let s := { coreAt c 5 with ctrs := [ctr5] }
    let r := { Core.launch with rtnOn := some 0 }
    Runs s (issOf c 5) t0 ∧ c.rtnOn = none ∧ (Runs (coreAt r 5) (issOf r 5) t0 ∧ r.rtnOn ≠ none) ∧
    gemvPar (c.rk 0) (c.rk 1) = some { rem := false, land := 8388096, nb := 1, k := 32, ctr := 0 } ∧
    gemvPar (c.rk 2) (c.rk 3) = some { rem := true, land := 0, nb := 1, k := 32, ctr := 5 } ∧ gemvPar (c.rk 4) (c.rk 5) = none ∧
    s.handleOk (.core 0 0) ((5 : BitVec 32).zeroExtend 64) = true ∧
    (c.rf 1).extractLsb' 0 4 = 1 ∧ (c.rs 2).toNat % 64 = 0 ∧ MayTouch c 4096 (c.rs 1).toNat (32 * (fmtOf (c.rf 1)).width / 8) ∧
    MayTouch c 512 8388096 512 ∧ c.gemv.length < 4 ∧
    (s.handleOk (.core 0 0) ((6 : BitVec 32).zeroExtend 64) = false ∧ (c.rf 0).extractLsb' 0 4 = 0 ∧ (c.rs 3).toNat % 64 = 0 ∧
      2 ^ 57 ≤ (c.rs 3).toNat ∧ ∃ p, gemvPar (c.rk 6) (c.rk 7) = some p ∧ p.land % 512 ≠ 0) := by
  refine ⟨⟨rfl, ?_⟩, rfl, ⟨⟨rfl, ?_⟩, ?_⟩, ?_, ?_, ?_, ?_, ?_, ?_, mayTouch_home _ _ _ _ rfl rfl ?_ ?_,
    mayTouch_home _ _ _ _ rfl rfl ?_ ?_, ?_, ?_, ?_, ?_, ?_, ⟨_, rfl, ?_⟩⟩ <;> decide +kernel

/-- `ProductAndRoutines`: the last block of a product falls due; of a remote one for a core of the troupe, and for one that is
not. -/
theorem wit_ProductBlockLands (rem : Bool) (land : Nat) (hl : land = 0 ∨ land = 3 * 2 ^ 23) :
    let g : Gemv := { id := 9, iss := 0, baddr := 0, rem := rem, land := land, nb := 1, k := 32, ctr := 0, a := 0, bva := 0,
                      f := 1, abytes := [], arrived := 1, snap := [], own := [], st := .ready [], next := 0 }
    let c := { Core.launch with gemv := [g] }
    let s := coreAtN c 5 2050
    s.core? (.core 0 0) = some c ∧ c.gemv.find? (fun g => g.id == 9) = some g ∧ g.next < g.arrived ∧ g.next + 1 = g.nb ∧
    g.iss + 2050 + 2 * g.next = s.now (.core 0 0) ∧ (land = 0 → s.ringWall (.core 0 0) c (land / 2 ^ 23) ≠ none) ∧
    (land = 3 * 2 ^ 23 → s.ringWall (.core 0 0) c (land / 2 ^ 23) = none) := by
  rcases hl with rfl | rfl <;> cases rem <;> refine ⟨rfl, ?_, ?_, ?_, ?_, ?_, ?_⟩ <;> decide +kernel

/-! ## Witnesses: the copy slots -/

/-- `CopyWithinTheCore`: the longest copy that fits, at the end of the wall; both ends of a count and just outside; fills and
stores of one block and of the whole wall; a segment that is resident and one that is not; one scale block. -/
theorem wit_CopyBlocks :
    let c := { regs [0, 7864320, 8384512, 4096, 8388608, 128, 1, 129, 0, 0x1FFFFFFFFFFF000, 15, 14, 8388352] with rseg := 0x8000 }
    let x := issOf c 6
    Runs (coreAt c 6) x t0 ∧
    ((c.rs 5).toNat = 128 ∧ MayTouch c 4096 (c.rs 1).toNat (128 * 4096) ∧ (c.rs 6).toNat = 1 ∧ MayTouch c 4096 (c.rs 2).toNat 4096) ∧
    ((c.rs 8).toNat = 0 ∧ 128 < (c.rs 7).toNat) ∧
    ((c.rs 3).toNat % 4096 = 0 ∧ (c.rs 4).toNat ≤ 2 ^ 23 ∧ MayTouch c 4096 (c.rs 8).toNat (c.rs 4).toNat) ∧
    ((c.rs 9).toNat % 4096 = 0 ∧ (c.rs 9).toNat < 2 ^ 57) ∧ (c.rs 6).toNat % 4096 ≠ 0 ∧
    ((c.rs 10).toNat < 16 ∧ c.rseg.getLsbD (c.rs 10).toNat = true ∧ c.segBusy (c.rs 10).toNat = false) ∧
    ((c.rs 11).toNat < 16 ∧ c.rseg.getLsbD (c.rs 11).toNat = false ∧ c.segBusy (c.rs 11).toNat = false) ∧
    MayTouch c 256 (c.rs 12).toNat 256 := by
  refine ⟨⟨rfl, ?_⟩, ⟨?_, mayTouch_home _ _ _ _ rfl rfl ?_ ?_, ?_, mayTouch_home _ _ _ _ rfl rfl ?_ ?_⟩, ?_,
    ⟨?_, ?_, mayTouch_home _ _ _ _ rfl rfl ?_ ?_⟩, ?_, ?_, ?_, ?_, mayTouch_home _ _ _ _ rfl rfl ?_ ?_⟩ <;> decide +kernel

/-- `CopyWithinTheCore`: a shape of all 256 lines; one cell at the last corner; one line too many; a map and a list at the
end of the wall; the longest hint, and each kind. -/
theorem wit_CopyShapes :
    let c := regs [0, 0x00FF00FF, 0, 262140, 0x1FFFFFFFFFFFFFC, 8384512, 8388576, 8388592, 0x10000000000, 0x0100, 8388604]
    let x := issOf c 6
    Runs (coreAt c 6) x t0 ∧ ((c.rf 0).extractLsb' 0 4).toNat = 0 ∧
    (ShapeFits (c.rs 2).toNat (c.rs 1) ∧ (c.rs 1).extractLsb' 24 7 = 0 ∧ (c.rs 1).extractLsb' 8 8 = 0) ∧
    (ShapeFits (c.rs 3).toNat (c.rs 2) ∧ (c.rs 3).toNat < 2 ^ 18 ∧ (c.rs 3).toNat % 4 = 0 ∧ (c.rs 4).toNat < 2 ^ 57 ∧ (c.rs 4).toNat % 4 = 0) ∧
    (c.rs 9).extractLsb' 8 8 ≠ 0 ∧ ((c.rs 5).toNat < 2 ^ 23 ∧ (c.rs 5).toNat % 4096 = 0 ∧ MayTouch c 32 (c.rs 6).toNat 32) ∧
    ((c.rf 6).extractLsb' 0 4).toNat = 8 ∧ ((c.rs 10).toNat < 2 ^ 23 ∧ (c.rs 10).toNat % 4 = 0 ∧ MayTouch c 16 (c.rs 7).toNat 16) ∧
    ((c.rs 8).toNat % 65536 = 0 ∧ (c.rs 8).toNat ≤ 2 ^ 40) ∧ (1 : FReg).toNat < 2 ∧ 2 ≤ (2 : FReg).toNat := by
  refine ⟨⟨rfl, ?_⟩, ?_, ⟨?_, ?_⟩, ⟨?_, ?_⟩, ?_, ⟨?_, ?_, mayTouch_home _ _ _ _ rfl rfl ?_ ?_⟩, ?_,
    ⟨?_, ?_, mayTouch_home _ _ _ _ rfl rfl ?_ ?_⟩, ?_, ?_⟩ <;> first | decide +kernel | (unfold ShapeFits; decide +kernel)

/-- `CopyFabric`: another package, whatever the id of this one. -/
theorem wit_CopyFabricAway : ∃ K : BitVec 64, K.extractLsb' 32 16 ≠ Config.pkgId ∧ K.extractLsb' 48 16 = 0 ∧
    K.extractLsb' 8 8 = 0 ∧ K.extractLsb' 16 16 ≠ 0 := by
  by_cases h : Config.pkgId = 1
  · exact ⟨0x0000000200010000, by rw [h]; decide, by decide, by decide, by decide⟩
  · refine ⟨0x0000000100010000, fun e => h ?_, by decide, by decide, by decide⟩
    rw [← e]; decide

/-- `CopyFabric`: multicasts to the one core of the one stack, with and without a counter; the longest transfers of both
kinds; triggers of ports of the partition and of another; batches of 1 and of 256; the last launch queue. -/
theorem wit_CopyFabric :
    let c := regs [0, 0x0000000100000000, 0x100000, 0x1000000, 64, 5, 0x8001, 1, 256, 63, 0, 2, 0x10000, 8388352, 0x8000]
    let s := { { coreAt c 6 with ctrs := [ctr5] } with
      parts := vset State.reset.parts 0 { Machine.Part.none with exist := true, ports := 0x8001 } }
    let W := c.rs 1
    Runs s (issOf c 6) t0 ∧
    (((W : BitVec 64).extractLsb' 0 23).toNat % 64 = 0 ∧ W.extractLsb' 32 32 ≠ 0 ∧ (W.extractLsb' 32 32).toNat < 2 ^ (s.shapeOf (.core 0 0)).1 ∧
      W.extractLsb' 27 5 = 0 ∧ W.getLsbD 23 = false ∧ (W.extractLsb' 24 3).toNat < (s.shapeOf (.core 0 0)).2) ∧
    ((c.rs 2).toNat = 2 ^ 20 ∧ MayTouch c 64 (c.rs 10).toNat (c.rs 2).toNat ∧ (c.rs 4).toNat = 64) ∧ s.handleOk (.core 0 0) (c.rs 5) = true ∧
    ((c.rs 3).toNat = 2 ^ 24 ∧ (c.rs 3).toNat % 64 = 0) ∧
    ((c.rs 6).toNat < 2 ^ 16 ∧ BitVec.ofNat 16 (c.rs 6).toNat &&& ~~~ (s.part (s.partOf (.core 0 0))).ports = 0 ∧
      s.trigPending (BitVec.ofNat 16 (c.rs 6).toNat) = false) ∧
    (BitVec.ofNat 16 (c.rs 11).toNat &&& ~~~ (s.part (s.partOf (.core 0 0))).ports ≠ 0) ∧
    ((c.rs 7).toNat = 1 ∧ (c.rs 8).toNat = 256 ∧ MayTouch c 16 (c.rs 10).toNat (16 * 256)) ∧
    ((c.rs 9).toNat < 64 ∧ MayTouch c 256 (c.rs 13).toNat 256) := by
  refine ⟨⟨rfl, ?_⟩, ?_, ⟨?_, mayTouch_home _ _ _ _ rfl rfl ?_ ?_, ?_⟩, ?_, ?_, ?_, ?_,
    ⟨?_, ?_, mayTouch_home _ _ _ _ rfl rfl ?_ ?_⟩, ⟨?_, mayTouch_home _ _ _ _ rfl rfl ?_ ?_⟩⟩ <;> decide +kernel

/-- `Calliope`: the last block of the wall, and one that is not aligned; an empty bus; the one span of the troupe and a
position outside. -/
theorem wit_Calliope :
    let c := regs [0, 8384512, 64]
    let s := coreAt c 7
    Runs s (issOf c 7) t0 ∧ MayTouch c 4096 (c.rs 1).toNat 4096 ∧ (c.acc70 = [] ∧ s.bus = []) ∧
    ((c.rs 2).toNat % 4096 ≠ 0 ∧ (c.rs 2).toNat + 4096 ≤ 2 ^ 23) ∧ (0 : BitVec 3).toNat < (s.shapeOf (.core 0 0)).2 ∧
    (s.shapeOf (.core 0 0)).2 ≤ (1 : BitVec 3).toNat := by
  refine ⟨⟨rfl, ?_⟩, mayTouch_home _ _ _ _ rfl rfl ?_ ?_, ⟨rfl, rfl⟩, ?_, ?_, ?_⟩ <;> decide +kernel

/-! ## Witnesses: events of cores, counters and memory -/

/-- Page tables of ASID 0 of partition 0: the first 2 MiB at their own place, the next at theirs, the third MiB pair under a
move (MS = 1), then a page that may not be used. -/
def tables : Mem :=
  let put (m : Mem) (a v : Nat) : Mem := m.write a (leBytes 8 v)
  put (put (put (put (put (put (put (put [] 0 0x1001) 0x1000 0x2001) 0x2000 0x3001) 0x3000 0x4001) 0x4000 0x3DB) 0x4008 0x2003DB)
    0x4010 0x4007DB) 0x8000 0x0807060504030201

/-- VF 0 of job 5 in partition 0, with the first frame of die 0. -/
def mapped (s : State) : State :=
  { s with gmem := tables, parts := vset s.parts 0 { Machine.Part.none with exist := true, near := [(0, 1)], ports := 1 },
           vfs := vset s.vfs 0 { Vf.reset with en := true, part := 0, job := 5 } }

def withCmd (k : Cmd) : Core := { Core.launch with cmds := [k] }

/-- `CopyEngines`: a command in its start cycle, a hint, a trigger of a live counter, and one that has started. -/
theorem wit_CopyStart :
    let k := cmdOf (.xcpy 0 4096 1 0)
    let m := cmdOf (.xmig 0 0x10000 true)
    let r := cmdOf (.xrts 7 1 5)
    let d := { k with started := true }
    let s (k : Cmd) : State := { coreAt (withCmd k) 6 with ctrs := [ctr5] }
    (∀ z ∈ [k, m, r, d], (s z).core? (.core 0 0) = some (withCmd z) ∧ (withCmd z).cmd? 9 = some z) ∧
    (k.started = false ∧ k.start = (s k).now (.core 0 0)) ∧ (s r).ctr? 5 ≠ none ∧ d.started = true := by
  intro k m r d s
  refine ⟨fun z hz => ⟨rfl, ?_⟩, ⟨rfl, rfl⟩, ?_, rfl⟩
  · simp only [List.mem_cons, List.not_mem_nil, or_false] at hz
    rcases hz with rfl | rfl | rfl | rfl <;> decide
  · decide +kernel

/-- An operation of the first core on counter 5. -/
def opOf (k : CtrKind) : CtrOp := { id := 3, handle := 5, kind := k, src := .slot (.core 0 0) 2 0, stands := false }

def ctrState (k : CtrKind) (cs : List Counter) : State := { State.reset with ctrOps := [opOf k], ctrs := cs }

theorem ctrOpen_ctrState (k : CtrKind) (cs : List Counter) : (ctrState k cs).ctrOpen (opOf k) = true := by
  have h1 : (ctrState k cs).planeOpen (ctrAddr 5) 0 = true := by
    have e : (ctrState k cs).planeOpen (ctrAddr 5) 0 = State.reset.planeOpen (ctrAddr 5) 0 := rfl
    rw [e]; decide +kernel
  have h2 : (ctrState k cs).engineOff 5 = false := by
    have e : (ctrState k cs).engineOff 5 = State.reset.engineOff 5 := rfl
    rw [e]; decide +kernel
  have h3 : (ctrState k cs).inBuffer (opOf k) = true := by simp [State.inBuffer, ctrState, opOf]
  show ((ctrState k cs).planeOpen (ctrAddr 5) 0 && (ctrState k cs).inBuffer (opOf k) && !(ctrState k cs).engineOff 5) = true
  rw [h1, h2, h3]; rfl

/-- `Counters`: adds at a counter whose value is one below the largest, armed with the target just reached and strictly
passed; an idle and an armed counter for an arm, and one with an overrun; a counter that is not live, and a lost one. -/
theorem wit_CounterEngine :
    let top : Counter := { ctr5 with value := 0xFFFFFFFFFFFFFFFE, st := 1, target := 0xFFFFFFFFFFFFFFFF }
    let past : Counter := { top with target := 0xFFFFFFFFFFFFFFFD }
    (∀ k c, Posted (ctrState k [c]) (opOf k)) ∧
    (∀ k, (ctrState k [top]).ctr? (opOf k).handle = some top ∧ top.lost = false) ∧ top.st ≠ 0 ∧
    past.target.ult past.value = true ∧ (ctr5.st ≠ 1 ∧ ctr5.ovb = false) ∧ ({ ctr5 with ovb := true } : Counter).ovb = true ∧
    (∀ k, (ctrState k []).ctr? (opOf k).handle = none ∧ Posted (ctrState k []) (opOf k)) ∧ (opOf (.add 1)).kind.isWait = false ∧
    (ctrState (.add 1) [{ ctr5 with lost := true }]).ctr? 5 = some { ctr5 with lost := true } := by
  refine ⟨fun k c => ⟨?_, ?_, rfl, Or.inr (ctrOpen_ctrState _ _)⟩, fun k => ⟨rfl, rfl⟩, ?_, ?_, ⟨?_, ?_⟩, rfl,
    fun k => ⟨rfl, ?_, ?_, rfl, Or.inr (ctrOpen_ctrState _ _)⟩, rfl, ?_⟩ <;>
    first | decide | simp [ctrState, opOf, State.ctrFirst]

/-- A wait of the core on counter 5. -/
def waitOf (k : WaitKind) (f : Option CtrRep) (ticks : Nat) : Wait :=
  { kind := k, d := 1, handle := 5, dl := 1, ticks := ticks, baddr := 0, since := 0, formed := f, report := none, iss := 0, op := 3,
    markers := [] }

/-- `Counters`: a target just reached and one just missed; armed and idle counters; an overrun; an orphan; a report that is
formed; a deadline that has passed. -/
theorem wit_CounterWaits :
    let c (w : Wait) : Core := { Core.launch with wait := some w }
    let r := waitOf (.target 7) (some (.value 7)) 1
    let e := waitOf .armed none 0
    ctr5.value = 7 ∧ ((7 : BitVec 64).ule ctr5.value = true ∧ ctr5.value.ult 8 = true ∧ ctr5.ovb = false ∧ ctr5.st = 0) ∧
    (ctr5.lost = false ∧ ({ ctr5 with lost := true } : Counter).lost = true ∧ CtrKind.isWait .read = true ∧
      ({ State.reset with ctrs := [] } : State).ctr? 5 = none) ∧
    (∀ w, (coreAt (c w) 2).core? (.core 0 0) = some (c w)) ∧ ((c r).wait = some r ∧ r.report = none ∧ r.formed = some (.value 7)) ∧
    (e.op ≠ 0 ∧ e.ticks = 0 ∧ e.kind = .armed ∧ e.report = none) := by
  refine ⟨rfl, ?_, ?_, fun _ => rfl, ⟨rfl, rfl, rfl⟩, ?_⟩ <;> decide

/-- `CounterManagement`: an allocation of one counter on the last die and of a VF of another partition, a free; a move that is
possible and one to the same die; a move that ends; a trigger whose counter has just reached its target. -/
theorem wit_CounterManagement :
    let s := mapped State.reset
    let v : BitVec 64 := 0x4900010000000000
    let w : BitVec 64 := 0x4900015F00000000
    let z : Trig := { id := 1, handle := 5, target := 7, ports := 1 }
    let u := { State.reset with trigs := [z], ctrs := [ctr5] }
    (fld v.toNat 62 2 = 1 ∧ fld v.toNat 56 4 = 9 ∧ fld v.toNat 40 16 = 1 ∧ fld v.toNat 32 7 = 0 ∧ (s.vf 0).part.toNat = (s.mg 0).part.toNat ∧
      s.freeRun 9 1 = some 1) ∧
    (fld w.toNat 32 7 = 95 ∧ (s.vf 95).part.toNat ≠ (s.mg 0).part.toNat) ∧ fld (0x8000000000000000 : BitVec 64).toNat 62 2 = 2 ∧
    (s.move = none ∧ s.dieDown 9 = false ∧ (0 : BitVec 4) ∈ s.dir.toArray.toList) ∧ ({ s with move := some (0, 9) } : State).move = some (0, 9) ∧
    (u.trigs.find? (fun t => t.id == z.id) = some z ∧ u.ctr? z.handle = some ctr5 ∧ z.target.ule ctr5.value = true) := by
  refine ⟨?_, ?_, ?_, ?_, rfl, ?_, ?_, ?_⟩
  · decide +kernel
  · decide +kernel
  · decide +kernel
  · decide +kernel
  · decide
  · decide +kernel
  · decide

/-- A read of `va` by the first core. -/
def fetchOf (va : Nat) (st : FetchSt) : Fetch :=
  { id := 4, kind := .ldg 1 8 false, va := va, ac := 0, iss := 0, due := 0, word := 2, baddr := 0, snap := [], own := [], st := st }

def withFetch (f : Fetch) : Core := { Core.launch with fetches := [f] }

/-- `MemoryEvents`: a read that is walking, one whose data is on the way, one that has failed and is due. -/
theorem wit_LoadEvents :
    let s (f : Fetch) : State := mapped (coreAt (withFetch f) 2)
    (∀ f, (s f).core? (.core 0 0) = some (withFetch f) ∧ (f.id = 4 → (withFetch f).fetches.find? (fun g => g.id == f.id) = some f)) ∧
    (fetchOf 0 .walking).st = .walking ∧ (s (fetchOf 0 .walking)).awaitsResume (.core 0 0) 0 = false ∧
    (s (fetchOf 0 (.ready []))).anyPortDown ((s (fetchOf 0 (.ready []))).ctx (.core 0 0)) (fetchOf 0 (.ready [])).pages = false ∧
    (fetchOf 0 (.failed 0x0A 1 0 0)).st = .failed 0x0A 1 0 0 ∧ (fetchOf 0 (.failed 0x0A 1 0 0)).due ≤ (s (fetchOf 0 .walking)).now (.core 0 0) := by
  refine ⟨fun f => ⟨rfl, fun _ => ?_⟩, rfl, ?_, ?_, rfl, ?_⟩
  · simp [withFetch]
  · decide +kernel
  · decide +kernel
  · decide +kernel

/-- `MemoryEvents`: a page of a CXL port, which a management core reads by its physical address. -/
theorem wit_CxlPoison :
    let f := fetchOf (2 ^ 43) (.ready [])
    let s : State := (mgmtAt (withFetch f) 2).modBank 0 fun b => { b with xasid := 1#64 <<< 63 }
    s.core? (.mgmt 0) = some (withFetch f) ∧ s.anyFar (s.ctx (.mgmt 0)) f.pages = true := ⟨rfl, by decide +kernel⟩

/-- `MemoryEvents`: an entry that memory accepts, the last byte of the page; one whose page is not mapped; a phase that waits
for nothing more. -/
theorem wit_StorePathAndPhase :
    let e (va : Nat) : Egress := { egressOf 1 with va := va, bytes := [some 1], inPath := true }
    let c (va : Nat) : Core := { Core.launch with egress := [e va] }
    let s (va : Nat) : State := mapped (coreAt (c va) 2)
    let w : Wait := { waitOf (.phase 3) none 0 with iss := 0 }
    let d : Core := { Core.launch with wait := some w }
    (∀ va ∈ [0x1FFFFF, 0x600000], (s va).core? (.core 0 0) = some (c va) ∧ (s va).drainNext (.core 0 0) (c va) = some (e va)) ∧
    (s 0).publishing (.core 0 0) = false ∧ ((s 0).entryTarget (.core 0 0) (e 0x1FFFFF)).toOption = some (0x1FFFFF, 0x3DB) ∧
    ((s 0).entryTarget (.core 0 0) (e 0x600000)).toOption = none ∧
    ((coreAt d 2).core? (.core 0 0) = some d ∧ (coreAt d 2).covered (.core 0 0) d 3 w.iss = true ∧ w.marked 2 = true ∧
      ({ w with sent := true } : Wait).marked 3 = true) := by
  intro e c s w d
  refine ⟨fun va hv => ⟨rfl, ?_⟩, ?_, ?_, ?_, rfl, ?_, rfl, rfl⟩
  · simp only [List.mem_cons, List.not_mem_nil, or_false] at hv
    rcases hv with rfl | rfl <;> decide +kernel
  · decide +kernel
  · decide +kernel
  · decide +kernel
  · decide +kernel

/-- `CopyEngines`: pieces of a fill from host memory, the first and the last; entries of a store buffer for H and for G; a
failure that nothing older holds back; a granule just received and one that is overdue. -/
theorem wit_CopyEvents :
    let k : Cmd := { cmdOf (.xfill true 0 0 8192) with started := true, total := 2 }
    let b : Cmd := { cmdOf (.xstore false 0 0 4096) with started := true, total := 1, buf := [(0, 0x1FFFC0, [1])] }
    let f : Cmd := { k with failed := some (0x0A, 1, 0, 0) }
    let h (src : Nat) : Cmd := { cmdOf (.xfill false 0 src 4096) with started := true, total := 1 }
    let v (src : Nat) : State := mapped (coreAt (withCmd (h src)) 6)
    let pages (src : Nat) := (v src).pagesOf ((v src).cmdCtx (.core 0 0) (h src)) .rd (some 0) (.of false) ((h src).source 0)
    let g : Granule := { id := 8, dst := .core 0 0, addr := 0, data := [1], ctr := none, amt := 0, src := .system, since := none }
    let s : State := mapped (coreAt (withCmd b) 6)
    let u : State := { coreAtN Core.launch 6 7 with flight := [{ g with since := some 0 }] }
    ((coreAt (withCmd k) 6).core? (.core 0 0) = some (withCmd k) ∧ (withCmd k).cmd? k.id = some k) ∧
    (k.op.reads = true ∧ k.op.host = true ∧ k.started = true ∧ k.next ≤ 0 ∧ 1 < k.total ∧ (k.piece 1).data = none ∧ (k.piece 1).failed = none ∧
      Cmd.hasPhase (withCmd k) k.id 2 = false) ∧
    (pageFault (pages 0x600000) = some (0x600, 1) ∧ pageFault (pages 0x1FF000) = none ∧
      ∀ e ∈ pages 0x1FF000, ∀ pa, pagePa (pages 0x1FF000) (e.1 * 4096) = some pa → (v 0x1FF000).portDown pa = false) ∧
    (b.buf[0]? = some (0, 0x1FFFC0, [1]) ∧ blockedEntry b.buf 0 = false ∧ b.failed = none ∧ b.op.host = false ∧
      (s.translate (s.cmdCtx (.core 0 0) b) 0x1FFFC0 .wr (some b.ac) .any).toOption = some (0x1FFFC0, 0x3DB) ∧ pteMs 0x3DB ≠ 1 ∧
      s.portDown 0x1FFFC0 = false) ∧
    (Cmd.failure (withCmd f) f 0).isSome = true ∧
    (g.since = none ∧ ({ coreAt Core.launch 6 with flight := [g] } : State).flight.find? (fun h => h.id == g.id) = some g) ∧
    (({ g with since := some 0 } : Granule) ∈ u.flight ∧ ({ g with since := some 0 } : Granule).overdue (7 + 1) = true) := by
  intro k b f h v pages g s u
  have hq : ∀ e ∈ pages 0x1FF000, (pagePa (pages 0x1FF000) (e.1 * 4096)).all fun pa => !(v 0x1FF000).portDown pa := by decide +kernel
  refine ⟨⟨rfl, ?_⟩, ?_, ⟨?_, ?_, fun e he pa hpa => ?_⟩, ?_, ?_, ⟨rfl, ?_⟩, ?_, ?_⟩
  · decide
  · decide +kernel
  · decide +kernel
  · decide +kernel
  · have := hq e he
    rw [hpa] at this
    simpa using this
  · decide +kernel
  · decide +kernel
  · decide
  · exact List.mem_cons_self
  · decide

/-- `MessagesAndBatches`: a message for a queue with one entry free; entries of a batch on a counter, and on a word of G. -/
theorem wit_MessagesAndBatches :
    let m : InMsg := { id := 6, trp := 0, rank := 0, ch := 0, data := [], src := .system }
    let c : Core := { Core.launch with q := vset Core.launch.q 2 (tab (qDepth 2 - 1) fun _ => []) }
    let s : State := { coreAt c 2 with inMsgs := [m] }
    let k := cmdOf (.xbat .cadd 0 1 none)
    let e (op : AtomOp) (t : Nat) : AtomicE := { id := 7, agent := .core 0 0, cmd := 9, idx := 0, op := op, tgt := t, pa := none, opnd := 1, ret := false }
    let u (op : AtomOp) (t : Nat) : State := { mapped (coreAt (withCmd k) 6) with atoms := [e op t], ctrs := [ctr5] }
    (s.inMsgs.find? (fun n => n.id == m.id) = some m ∧ s.core? (.core 0 0) = some c ∧ (vget [] c.q 2).length < qDepth 2 ∧
      (∃ tr, s.troupe? m.trp = some tr ∧ tr.loading = false) ∧
      (s.inMsgs.find? fun n => n.trp == m.trp && n.rank == m.rank && n.ch == m.ch && n.src == m.src) = some m) ∧
    (∀ op t, ((u op t).atoms.find? (fun f => f.id == (e op t).id) = some (e op t)) ∧
      ((u op t).atoms.find? fun f => f.agent == (e op t).agent && f.cmd == (e op t).cmd && f.tgt == (e op t).tgt) = some (e op t)) ∧
    (k.op.batCtr = none ∧ (withCmd k).cmd? 9 = some k) ∧ ((u .cadd 5).ctrMoving 5 = false ∧ (u .cadd 5).ctr? 5 = some ctr5 ∧ (u .cadd 6).ctr? 6 = none) ∧
    ((u .add 0x1FFFF8).translate ((u .add 0x1FFFF8).cmdCtx (.core 0 0) k) 0x1FFFF8 .rdwr none .any).toOption = some (0x1FFFF8, 0x3DB) := by
  refine ⟨⟨?_, rfl, ?_, ⟨_, rfl, rfl⟩, ?_⟩, fun op t => ⟨?_, ?_⟩, ⟨rfl, ?_⟩, ⟨?_, ?_, ?_⟩, ?_⟩
  any_goals (first | decide +kernel | decide)
  · simp
  · simp

/-! ## Witnesses: troupes and bundles -/

/-- The turn of the first core, whose stream is `words`, has come. -/
def turnAt (g : Troupe → Troupe) (cs : List Core) (words : List Nat) : State :=
  let tr := troupeOf 0 (bundleStream words) Core.launch
  { State.reset with troupes := [g { tr with cores := cs }], cursor := .bundle 0 0 }

/-- `HoldsAndRecords`: a hold whose cause has cleared; a run of held cycles just over its limit; a program that has met no
safe point for DMAX + 1 cycles; a realignment in a tick's wall cycle; a wait when a frame tick comes. -/
theorem wit_HoldsAndTicks :
    let h : Hold := { code := 1, rank := 0, baddr := 0, slot := none }
    let c : Core := { Core.launch with wait := some (waitOf (.phase 3) none 5) }
    let s := turnAt (fun tr => { tr with holds := [h] }) [Core.launch] []
    let l := turnAt (fun tr => { tr with limit := 1, run := 1 }) [c] []
    let d := turnAt (fun tr => { tr with adv := 2 ^ 20 + 1 }) [Core.launch] []
    let r := turnAt (fun tr => { tr with realign := true, vcc := 4095 }) [Core.launch] []
    let f : State := { turnAt id [c] [] with wall := 4096, released := true }
    (∃ tr, s.troupe? 0 = some tr ∧ tr.holds ≠ [] ∧ s.holdsOf 0 tr = []) ∧
    (∃ tr, l.troupe? 0 = some tr ∧ (Machine.charged (l.holdsOf 0 tr)).map (·.rank) = some 0 ∧ tr.overLimit (l.holdsOf 0 tr) = true ∧
      tr.st = .running ∧ ∃ k ∈ tr.cores, k.rank = 0) ∧
    (∃ tr, d.troupe? 0 = some tr ∧ d.cursor = .bundle 0 0 ∧ d.tooFar 0 tr = true) ∧
    (∃ tr, r.troupe? 0 = some tr ∧ tr.realign = true ∧ r.wall % 4096 = 0 ∧ tr.st = .running ∧ tr.vcc.toNat < 2 ^ 64 - 4096) ∧
    (f.wall % 4096 = 0 ∧ f.released = true ∧ f.core? (.core 0 0) = some c ∧ ∃ w, c.wait = some w ∧ w.since < f.wall) := by
  refine ⟨⟨_, rfl, ?_, ?_⟩, ⟨_, rfl, ?_, ?_, rfl, _, List.mem_cons_self, rfl⟩, ⟨_, rfl, rfl, ?_⟩,
    ⟨_, rfl, rfl, ?_, rfl, ?_⟩, ?_, rfl, rfl, _, rfl, ?_⟩
  all_goals first | rfl | decide +kernel

/-- `TroupeCommands`: a suspended troupe that may be resumed, and one that may not; a retiring one; a running one with and
without a request of the supervisor or of the hypervisor. -/
theorem wit_TroupeCommands :
    let s (st : TSt) (nr : Bool) (p : BitVec 5) : State := turnAt (fun tr => { tr with st := st, noResume := nr, prq := p }) [Core.launch] []
    ∀ st nr p, ∃ tr, (s st nr p).troupe? 0 = some tr ∧ tr.st = st ∧ tr.noResume = nr ∧ tr.prq = p ∧ tr.resumeAt = none :=
  fun _ _ _ => ⟨_, rfl, rfl, rfl, rfl, rfl⟩

/-- `SavingAndRetirement`: a request at a marked bundle; the end of a save routine; the ends of both phases; a task of which
every core has finished. -/
theorem wit_SavingAndRetirement :
    let p := turnAt (fun tr => { tr with prq := 1 }) [Core.launch] [0x100]
    let c : Core := { Core.launch with pc := 256 }
    let e := turnAt (fun tr => { tr with st := .saving }) [c] []
    let o : Core := { Core.launch with routineDone := true, pubMarks := some [] }
    let v := turnAt (fun tr => { tr with st := .saving }) [o] []
    let b := turnAt (fun tr => { tr with st := .restoring }) [o] []
    let f := turnAt id [{ Core.launch with fin := some 0, pubMarks := some [] }] []
    (∃ tr, p.troupe? 0 = some tr ∧ p.preempts 0 tr = true ∧ ∃ k : Core, tr.cores[0]? = some k ∧ k.fin = none) ∧
    (e.core? (.core 0 0) = some c ∧ c.idle = false ∧ c.pc = e.streamEnd (.core 0 0)) ∧
    (∃ tr, v.troupe? 0 = some tr ∧ tr.st = .saving ∧ tr.routinesOver = true ∧ tr.raisedAll = [] ∧
      (∀ k ∈ tr.cores, k.fin = none → k.inFlight tr.adv true = false) ∧ v.allPublished 0 tr = true) ∧
    (∃ tr, b.troupe? 0 = some tr ∧ tr.st = .restoring ∧ tr.loading = false ∧ tr.routinesOver = true ∧ tr.raisedAll = [] ∧
      ∀ k ∈ tr.cores, k.fin = none → k.inFlight tr.adv false = false) ∧
    (∃ tr, f.troupe? 0 = some tr ∧ f.retires 0 tr = true ∧ tr.status = none) := by
  refine ⟨⟨_, rfl, ?_, _, rfl, ?_⟩, ⟨rfl, ?_, ?_⟩, ⟨_, rfl, rfl, ?_, ?_, ?_, ?_⟩, ⟨_, rfl, rfl, ?_, ?_, ?_, ?_⟩, _, rfl, ?_, ?_⟩
  all_goals first | rfl | decide +kernel

/-- `HoldsAndRecords`: a record that waits, for a queue with room and for a full one of 16 slots; a sample that is due. -/
theorem wit_RecordsWritten :
    let s (h : BitVec 32) : State := (turnAt (fun tr => { tr with recs := [7] }) [Core.launch] []).modBank 0 fun b =>
      { b with frqHead := h, frqTail := 0, dbSper := 4 }
    (∀ h, (s h).memWf = true) ∧ (∀ h, ∃ tr, (s h).oldestRec 0 = some (0, 7) ∧ (s h).troupe? 0 = some tr) ∧ ((s 15).bank 0).frqFull = false ∧
    ((s 16).bank 0).frqFull = true ∧ ((s 15).bank 0).frqBase.toNat < 2 ^ 52 ∧
    (∃ tr, (s 0).troupe? 0 = some tr ∧ (s 0).cursor = .bundle 0 0 ∧ tr.st = .running ∧ tr.freshCycle = true ∧
      ((s 0).bank tr.part).dbSper ≠ 0 ∧ tr.vcc.toNat % 2 ^ ((s 0).bank tr.part).dbSper.toNat = 0 ∧ ((s 0).bank tr.part).dbEn = 0) := by
  refine ⟨fun _ => rfl, fun _ => ⟨_, rfl, rfl⟩, ?_, ?_, ?_, _, rfl, rfl, rfl, ?_, ?_, ?_, ?_⟩ <;> decide +kernel

/-- `BundleIssue`: a bundle to be issued; one past the end; one with a reserved opcode; a marked one with an effect in flight;
the completion of one inside a loop's body, before and at the last delay bundle of a transfer; one of all zeros. -/
theorem wit_BundleIssue :
    let s := turnAt id [Core.launch] []
    let e : Core := { Core.launch with pc := 256 }
    let m : Core := { Core.launch with pend := [{ due := 9, iss := 0, word := 2, baddr := 0, act := .flagsOnly, flags := 0, rtn := none }] }
    let bad := turnAt id [Core.launch] [0, 0, 0xFF00000000000000]
    let mk := turnAt id [m] [0x100]
    let w (x : Option (Nat × Nat)) : State := { turnAt id [{ Core.launch with xfer := x }] [] with cursor := .word 0 0 8 }
    (∃ tr, s.troupe? 0 = some tr ∧ tr.cores[0]? = some Core.launch ∧ Core.launch.idle = false ∧ Core.launch.done = 0 ∧
      Core.launch.pc < s.streamEnd (.core 0 0) ∧ s.bundleFault (.core 0 0) Core.launch = none ∧ s.marked (.core 0 0) Core.launch = false ∧
      s.allZero (.core 0 0) Core.launch = true ∧ tr.stopFor Core.launch = none ∧ Core.launch.rtn = none) ∧
    ((turnAt id [e] []).core? (.core 0 0) = some e ∧ e.idle = false ∧ e.done = 0 ∧ (turnAt id [e] []).streamEnd (.core 0 0) ≤ e.pc) ∧
    bad.bundleFault (.core 0 0) Core.launch = some (2, 3) ∧
    (∃ tr, mk.troupe? 0 = some tr ∧ mk.bundleFault (.core 0 0) m = none ∧ mk.marked (.core 0 0) m = true ∧ tr.inRoutine = false ∧ m.inFlight tr.adv false = true) ∧
    (∀ x ∈ [none, some (1, 64), some (2, 64)], (w x).cursor = .word 0 0 8 ∧ (w x).core? (.core 0 0) = some { Core.launch with xfer := x }) ∧
    (∀ i, i < 8 → (vget ⟨false, 0, 0⟩ Core.launch.lvl i).active = false) := by
  refine ⟨⟨_, rfl, rfl, ?_, ?_, ?_, ?_, ?_, ?_, ?_, ?_⟩, ⟨rfl, ?_, ?_, ?_⟩, ?_, ⟨_, rfl, ?_, ?_, ?_, ?_⟩, fun x _ => ⟨rfl, rfl⟩, ?_⟩
  all_goals first | rfl | decide +kernel

/-- `ResultsPerform`: the one due write of a management core; a store of the last doubleword of the wall, and a load of it. -/
theorem wit_ResultsPerform :
    let p (a : Act) : Pend := { due := 0, iss := 0, word := 2, baddr := 0, act := a, flags := 0, rtn := none }
    let c (a : Act) : Core := { Core.launch with pend := [p a] }
    let m := mgmtAt (c (.wS 63 7)) 2
    ((m.mg 0).core.pend = [p (.wS 63 7)] ∧ (m.mg 0).core.fetches = [] ∧ (p (.wS 63 7)).due ≤ (m.mg 0).adv) ∧
    (∀ a, ∃ tr, (coreAt (c a) 2).troupe? 0 = some tr ∧ tr.cores = [c a] ∧ (c a).pend = [p a] ∧ (c a).fetches = [] ∧ (p a).due ≤ tr.adv ∧
      (c a).bank.wf = true) ∧
    vget 0 Core.launch.holder (0x7FFFF8 / 65536) = Core.launch.loc % 4 :=
  ⟨⟨rfl, rfl, Nat.le_refl _⟩, fun _ => ⟨_, rfl, rfl, rfl, rfl, Nat.le_refl _, rfl⟩, by decide +kernel⟩

/-- `HardWiredRegisters`: two due writes of s0. -/
theorem wit_HardWiredRegisters :
    let p (v : BitVec 64) : Pend := { due := 0, iss := 0, word := 2, baddr := 0, act := .wS 0 v, flags := 0, rtn := none }
    let c : Core := { Core.launch with pend := [p 1, p 2] }
    (∀ q ∈ c.pend, (∃ w, q.act = .wS 0 w) ∨ ∃ w, q.act = .wP 0 w) ∧ c.fetches = [] ∧ (1 : SReg) ≠ 0 := by
  intro p c
  refine ⟨?_, rfl, by decide⟩
  intro q hq
  simp only [c, List.mem_cons, List.not_mem_nil, or_false] at hq
  rcases hq with rfl | rfl
  · exact Or.inl ⟨_, rfl⟩
  · exact Or.inl ⟨_, rfl⟩

/-- `StepRunsInstruction`: a core that has reached a word that decodes, and one that does not; a management core; an input. -/
theorem wit_StepRunsInstruction :
    let good : State := { turnAt id [Core.launch] [0, 0, 0x0100620A00000000] with cursor := .word 0 0 2 }
    let bad : State := { turnAt id [Core.launch] [0, 0, 0xFF00000000000000] with cursor := .word 0 0 2 }
    let m : State := { mgmtAt Core.launch 2 with cursor := .mword 0 2 }
    let i : State := { State.reset with script := [(0, .frameTick)] }
    (good.core? (.core 0 0) = some Core.launch ∧ Core.launch.failed = false ∧ Core.launch.stop = none ∧ Core.launch.done.getLsbD 2 = false ∧
      decodeSlot 2 (good.word (.core 0 0) Core.launch 2) = .ok (.add t0 3 4 5)) ∧
    decodeSlot 2 (bad.word (.core 0 0) Core.launch 2) = .bad 3 ∧
    (m.cursor = .mword 0 2 ∧ (m.mg 0).core.done.getLsbD 2 = false ∧ decodeSlot 2 (m.word (.mgmt 0) (m.mg 0).core 2) = .ok .nop) ∧
    (i.cursor = .idle ∧ i.trip = false ∧ i.script = [(0, .frameTick)] ∧ 0 ≤ i.wall) := by
  refine ⟨⟨rfl, rfl, rfl, ?_, ?_⟩, ?_, ⟨rfl, ?_, ?_⟩, rfl, rfl, rfl, Nat.zero_le _⟩ <;> decide +kernel

/-- `StepKeepsMemory`: from the reset state a step answers a next state. -/
theorem wit_StepKeepsMemory : State.reset.memWf = true ∧ ∃ t, step State.reset = .next t := ⟨rfl, _, rfl⟩

/-! ## Witnesses: management and package -/

/-- `SystemWrites`: writes at their levels; the last partition and the first that is none; between bundles, halted with an
enabled interrupt of the hypervisor and of the supervisor. -/
theorem wit_SystemWrites :
    let s (hv : Bool) : State :=
      let b := mgmtAt Core.launch 1
      let m : Mgmt := { b.mg 0 with halted := true, ien := true, ipHv := if hv then 0x10 else 0, ieHv := if hv then 0x10 else 0 }
      ({ b.setMg 0 m with cursor := .mword 0 1 }).modBank 0 fun b => { b with ip := 1, ie := 1 }
    (sysFault (0x8001 : BitVec 16).toNat 2 = none ∧ sysFault (0x8004 : BitVec 16).toNat 2 = none ∧ sysFault (0x4004 : BitVec 16).toNat 1 = none ∧
      sysFault (0x4021 : BitVec 16).toNat 1 = none ∧ sysFault (0x4000 : BitVec 16).toNat 1 = none) ∧
    ((11 : BitVec 64).toNat % 16 < 12 ∧ 12 ≤ (12 : BitVec 64).toNat % 16) ∧
    ((s true).betweenBundles 0 = true ∧ ((s true).mg 0).halted = true ∧ (s true).wakes 0 = true ∧ (s true).interrupt 0 = some (4, true)) ∧
    ((s false).betweenBundles 0 = true ∧ (s false).interrupt 0 = some (0, false)) := by
  refine ⟨?_, ?_, ?_, ?_⟩ <;> decide +kernel

/-- `EnergyEvents`: a charge that just exhausts an enabled quota, and one of a VF without; a selected VF; the settlement of the
first interval. -/
theorem wit_EnergyEvents :
    let s : State := { State.reset with
      vfs := vset (vset State.reset.vfs 95 { Vf.reset with pend := 2 ^ 28, q := 1, qen := true }) 0 { Vf.reset with pend := 1 },
      enVfSel := 95, wall := Config.settle + 2048 }
    (0 < 2 ^ 28 ∧ 2 ^ 28 ≤ (s.vf 95).pend ∧ (s.vf 95).qen = true ∧ ((s.vf 95).frac + 2 ^ 28) / 2 ^ 28 = 1 ∧ (s.vf 95).q.toNat ≤ 1) ∧
    (1 ≤ (s.vf 0).pend ∧ (s.vf 0).qen = false) ∧ s.enVfSel.toNat < 96 ∧ (((1 : BitVec 64).truncate 48 : BitVec 48) ≠ 0) ∧
    (Config.settle ≤ s.wall ∧ s.wall % Config.settle = 2048 ∧ s.nset.toNat < s.wall / Config.settle ∧ ∀ v, v < 96 → (s.vf v).reservedLast = 0) := by
  refine ⟨?_, ?_, ?_, ?_, ?_⟩ <;> decide +kernel

/-- A launch record in host memory whose head waits, with a deadline of one tick, for a counter that does not reach its
target. -/
def waitingQueue : State :=
  let n := 1 * 2 ^ 6 + 1 * 2 ^ 112 + 5 * 2 ^ 160 + 8 * 2 ^ 384
  { State.reset with
    ctrs := [{ ctr5 with vf := 0 }], hmem := Mem.write [] 0 (leBytes 64 n), wall := 4096, released := true,
    vfs := vset State.reset.vfs 0
      { Vf.reset with en := true, part := 0, queues := [{ LQueue.none with en := true, spc := true, tail := 1 }] } }

/-- `LaunchEvents`: a doorbell that is ignored; a round; a head whose wait has lasted its deadline; a troupe that is loaded. -/
theorem wit_LaunchEvents :
    let s := waitingQueue
    let l := { turnAt (fun tr => { tr with loading := true, loadedAt := 0 }) [Core.launch] [] with wall := 4096 }
    (((State.reset.vf 95).queue 63).en = false) ∧ (s.wall % 4096 = 0 ∧ s.released = true ∧ ∀ p, p < 12 → (s.part p).exist = false) ∧
    (s.waitExpired 0 0 = true ∧ (match s.headOf 0 ((s.vf 0).queue 0) with | some (.fresh _ _) => true | _ => false) = true) ∧
    (∃ tr, l.troupe? 0 = some tr ∧ tr.loading = true ∧ l.wall % 4096 = 0 ∧ tr.loadedAt < l.wall ∧ tr.st = .running) := by
  refine ⟨?_, ?_, ⟨?_, ?_⟩, _, rfl, rfl, ?_, ?_, rfl⟩ <;> decide +kernel

/-- The partition descriptor of id 1 with ring 0. -/
def desc1 : Nat := 1 + 2 ^ 448

/-- `PartitionCommands`: a command while one is pending; descriptors that are accepted, invalid and in conflict; a partition
with and without a troupe; a command whose tasks have left. -/
theorem wit_PartitionCommands :
    let s : State := { State.reset with gmem := Mem.write (Mem.write [] 0 (leBytes 64 desc1)) 64 (leBytes 64 0xF) }
    let p : Part := { Machine.Part.none with exist := true, rings := 1 }
    let own : State := { s with parts := vset s.parts 1 p }
    let other : State := { s with parts := vset s.parts 0 p }
    let busy : State := { own with troupes := [{ troupeOf 0 (bundleStream []) Core.launch with part := 1 }] }
    let c : PtCmd := { op := 1, id := 1, descs := [BitVec.ofNat 512 desc1] }
    ({ s with ptSt := 1 } : State).ptSt = 1 ∧ s.ptSt ≠ 1 ∧ s.descRefused (s.descAt 0) false = none ∧ own.descRefused (own.descAt 0) true = none ∧
    own.descRefused (own.descAt 0) false = some 2 ∧ other.descRefused (other.descAt 0) false = some 3 ∧
    (descId (own.descAt 0) ≤ 11 ∧ descRings (own.descAt 0) &&& ~~~ (own.part 1).rings = 0) ∧ 11 < descId (s.descAt 64) ∧ (s.part 1).exist = false ∧
    (∃ tr ∈ busy.troupes, tr.part = 1 ∧ tr.holdsCores = true) ∧ (∀ tr ∈ own.troupes, tr.part = 1 → tr.holdsCores = false) ∧
    (∃ k, k < 12 ∧ descId ((s.modeDescs 0).getD k 0) ≠ k) ∧
    (({ s with ptCmd := some c } : State).ptCmd = some c ∧ ∀ tr ∈ ({ s with ptCmd := some c } : State).troupes, tr.holdsCores = true → s.affects c tr = false) := by
  refine ⟨rfl, ?_, ?_, ?_, ?_, ?_, ?_, ?_, ?_, ⟨_, List.mem_cons_self, rfl, ?_⟩, ?_, ⟨0, ?_, ?_⟩, rfl, ?_⟩
  all_goals decide +kernel

/-- `Translations`: an invalidation of the last page, by supervisor and hypervisor, of an own and of another's ASID, with one
already running; a range that is quiet. -/
theorem wit_Invalidations :
    let s := mapped State.reset
    let b := s.modBank 0 fun b => { b with invBsy := true, inv := some (some 0, 511, 1) }
    (s.mg 0).part.toNat < 12 ∧ (s.bank 0).invBsy = false ∧ s.asidPart 0 = (s.mg 0).part.toNat ∧ s.asidPart 1 = 0 ∧
    ((s.modBank 0 id).bank 0 = s.bank 0) ∧ ({ s with mgmt := vset s.mgmt 0 { s.mg 0 with part := 11 } } : State).asidPart 0 ≠ 11 ∧
    (1 : BitVec 32) ≠ 0 ∧ (b.bank 0).invBsy = true ∧ (b.bank 0).inv = some (some 0, 511, 1) ∧ b.invQuiet 0 (some 0, 511, 1) = true := by
  refine ⟨?_, ?_, ?_, ?_, ?_, ?_, ?_, ?_, ?_, ?_⟩ <;> decide +kernel

/-- A command in the ring: move the page at 2 MiB to `dst`. -/
def moveWords (dst : Nat) : List Byte := leBytes 32 (2 ^ 21 * 2 ^ 128 + dst * 2 ^ 192)

/-- Partition 0 with a ring of 16 commands at 0x9000. -/
def moving (dst : Nat) : State :=
  let s := mapped State.reset
  { s with gmem := tables.write 0x9000 (moveWords dst) }.modBank 0 fun b => { b with mgCq := 0x9004, mgCTail := 1 }

/-- A move of the page at 2 MiB that has come to `stage`; the page's leaf is at `pte`. -/
def migOf (stage pte old : Nat) : Mig :=
  { id := 2, part := 0, die := 8, ringAsid := 0, cmdVa := 0x9000, asid := 0, va := 2 ^ 22, dst := 2 ^ 23, ctr := 0, ptePa := pte, size := 2 ^ 21,
    old := old, stage := stage }

/-- `Translations`: a command that passes and one that does not; each stage of a move; a leaf that was changed; hints; the
other far die's engine. -/
theorem wit_PageMoves :
    let s := moving (2 ^ 23)
    let m (st pte old : Nat) : State := { mapped State.reset with migs := [migOf st pte old] }
    let n (dst : Nat) := leNat (moveWords dst)
    (s.migDie 0 = some 8 ∧ s.lowestVf 0 = some 0 ∧ (s.bank 0).mgCHead ≠ (s.bank 0).mgCTail ∧ s.migRunning 8 < 4 ∧
      s.readG 0 (fld (s.bank 0).mgCq.toNat 12 45 * 4096 + 32 * ((s.bank 0).mgCHead.toNat % 2 ^ 4)) 32 = some (moveWords (2 ^ 23))) ∧
    (s.moveBad 0 (n (2 ^ 23)) = none ∧ (s.moveLeaf 0 (fld (n (2 ^ 23)) 64 14) (fld (n (2 ^ 23)) 128 57)).isSome = true ∧ s.migs = []) ∧
    (moving 1).moveBad 0 (n 1) = some 1 ∧
    ((m 1 0x4010 0x400000).mig? 2 = some (migOf 1 0x4010 0x400000) ∧ (m 1 0x4010 0x400000).migWaits (migOf 1 0x4010 0x400000) = false ∧
      (m 4 0x4010 0x400000).dieDown (migOf 4 0x4010 0x400000).die = false ∧
      ((s.vf 0).part.toNat < 12 → (s.migDie (s.vf 0).part.toNat).isSome = true) ∧
      (m 1 0x4010 0x400000).invQuiet 0 (migOf 1 0x4010 0x400000).range = true) ∧
    (let e := BitVec.ofNat 64 ((m 3 0x4010 0x400000).latest.num 0x4010 8); pteV e = true ∧ pteMs e = 1 ∧ pteFrame e = 0x400000) ∧
    pteMs (BitVec.ofNat 64 ((m 3 0x4008 0x200000).latest.num 0x4008 8)) ≠ 1 ∧ 0x10 ≤ (migOf 0x11 0x4010 0).stage ∧
    (({ State.reset with gateFt1 := true } : State).dieDown 9 = true ∧ State.reset.migOdd = false ∧
      (migOf 1 0 0).die ≠ 9) := by
  refine ⟨?_, ?_, ?_, ?_, ?_, ?_, ?_, ?_⟩ <;> decide +kernel

/-- A message to this package: type, inline bytes, plane and sequence number. -/
def msgOf (typ : BitVec 4) (inl : BitVec 352) (seq : BitVec 16) : Msg :=
  { inl := inl, rsv := 0, pln := 0, rpl := false, agt := 0, addr := 0x1FFFC0, seq := seq, dpkg := Config.pkgId, spkg := Config.pkgId + 1,
    sdie := 0, ddie := 0, typ := typ, ndat := 0, data := [] }

theorem arrives_msgOf (s : State) (typ : BitVec 4) (inl : BitVec 352) (via : Option Nat) (ht : typ.toNat < 0xB)
    (hp : s.planeDead 0 = false) (hv : via = none ∨ via = some 4) (he : s.expect = []) : Arrives s (msgOf typ inl 0) via := by
  refine ⟨?_, ?_, rfl, Or.inr ?_⟩
  · have h : ¬ 0xB ≤ typ.toNat := by omega
    simp [msgBad, msgOf, h]
  · rcases hv with rfl | rfl <;> simp [State.onDeadPlane, msgOf, hp]
  · simp [State.expected, he, msgOf]

/-- `Messages`: each type arrives; a job of a VF and one of none, a page that is mapped, a counter of the VF; a core that waits
for markers; a message that an acknowledgement or a refusal names; one out of order, and a malformed one. -/
theorem wit_Messages :
    let job : BitVec 352 := BitVec.ofNat 352 (5 * 2 ^ 112 + 5 * 2 ^ 64 + 2 ^ 96)
    let k : Mark := { out := some 12, plane := 0, die := 0, seq := 0, sent := 0 }
    let j : Mark := { out := none, plane := 0, die := 3, seq := 4, sent := 0 }
    let c : Core := { Core.launch with wait := some { waitOf (.phase 4) none 0 with markers := [k, j] } }
    let o : OutMsg := { id := 12, msg := { msgOf 0 0 0 with dpkg := Config.pkgId + 1, spkg := Config.pkgId }, plane := 0, part := none,
                        injected := true, ports := [], first := 0, last := 0, src := .system }
    let s : State := { mapped (coreAt c 2) with ctrs := [ctr5], out := [o] }
    (∀ typ inl via, typ.toNat < 0xB → via = none ∨ via = some 4 → Arrives s (msgOf typ inl 0) via) ∧
    (s.jobVf 6 = none ∧ s.jobVf (msgJob (msgOf 0 job 0)) = some 0) ∧
    ((s.translate (unitCtx (s.vf 0).asid.toNat) ((msgOf 0 job 0).addr.toNat % 2 ^ 57) .wr none .tables).toOption = some (0x1FFFC0, 0x3DB) ∧
      (s.translate (unitCtx (s.vf 0).asid.toNat) ((msgOf 1 job 0).addr.toNat % 2 ^ 57) .rd none .tables).toOption = some (0x1FFFC0, 0x3DB) ∧
      s.portDown 0x1FFFC0 = false) ∧
    ((msgOf 0 job 0).inl.getLsbD 96 = true ∧ s.vfCounter 0 (bv job.toNat 64 32) = some ctr5 ∧ (msgOf 0 0 0).inl.getLsbD 96 = false) ∧
    (s.agentOf 0 0 = some (.core 0 0) ∧ s.core? (.core 0 0) = some c ∧ s.agentOf 1 0 = none) ∧
    (s.outMsg? 0 0 (Config.pkgId + 1) 0 0 = some o) ∧ (msgOf 0 0 1).seq ≠ s.expected (msgOf 0 0 1) ∧
    msgBad { msgOf 0 0 0 with rsv := 1 } = true ∧ (msgOf 6 0 0).spkg ≠ Config.pkgId := by
  refine ⟨fun typ inl via h hv => arrives_msgOf _ _ _ _ h rfl hv rfl, ?_, ?_, ?_, ⟨?_, rfl, ?_⟩, ?_, ?_, ?_, ?_⟩
  · decide +kernel
  · decide +kernel
  · decide +kernel
  · decide +kernel
  · decide +kernel
  · simp [State.outMsg?, OutMsg.named, msgOf]
  · simp [State.expected, msgOf, mapped, coreAt, troupeAt, State.reset]
  · rfl
  · simp [msgOf]

/-- `PlanesAndEdges`: a message whose RT and one whose TMO has just passed, over an active port that leads to its package; a link
of the last edge, up and down; a quiesce that has drained, and one that has not within QTMO; a live and a dead plane. -/
theorem wit_Planes :
    let p : Port := { Port.reset with st := 3, rtA := [(7, (1#64 <<< 63) ||| 7)] }
    let o : OutMsg := { id := 12, msg := { msgOf 0 0 0 with dpkg := 7 }, plane := 0, part := none, injected := true, ports := [], first := 0,
                        last := 0, src := .system }
    let s (w : Nat) : State := { State.reset with ports := vset State.reset.ports 0 p, out := [o], wall := w }
    let q : State := { s (0x100000 + 1) with qs := some (2, 0) }
    ((∀ w, (s w).out.find? (fun p => p.id == o.id) = some o) ∧ (s 0x10000).resendDue o = true ∧ (s 0x100000).overdue o.id = true) ∧
    (((16, 3) : Nat × BitVec 2) ∉ (s 0).linksDown ∧ (16 : Nat) < 17) ∧
    (({ s 0 with qs := some (1, 0) } : State).drained 1 = true ∧ q.drained 2 = false ∧ q.qsAt + q.qtmo.toNat < q.wall) ∧
    (q.qs ≠ none ∧ (s 0).qs = none ∧ (s 0).live.getLsbD 3 = true ∧ 1 < (planesOf (s 0).live).length ∧
      ({ s 0 with live := 7 } : State).live.getLsbD 3 = false ∧ ∀ e ∈ (s 0).linksDown, e.2 ≠ 3) := by
  refine ⟨⟨fun w => ?_, ?_, ?_⟩, ?_, ?_, ?_⟩
  · simp
  all_goals decide +kernel

/-- `PlanesAndEdges`: a host link that trains while HP_CFG is not 0; a peer's write where HP_CFG allows it, over the edge of a
page. -/
theorem wit_PackageEdges :
    let s : State := { mapped State.reset with hpCfg := 2 }
    let acc : HostAccess := { peer := true, asid := 0, va := 0xFFC, write := true, data := tab 8 fun _ => 1, len := 8 }
    ((6 : BitVec 4) ≠ 0 ∧ s.hpCfg ≠ 0 ∧ (acc.peer = false ∨ s.hpCfg = 2)) ∧
    (∀ r ∈ pageRuns acc.va.toNat acc.data.length, (s.translate (unitCtx 0) r.1 .wr none .tables).toOption = some (r.1, 0x3DB)) ∧
    (pageRuns acc.va.toNat acc.data.length = [(0xFFC, 4), (0x1000, 4)] ∧ pteMs 0x3DB ≠ 1 ∧ s.portDown 0xFFC = false) := by
  refine ⟨?_, ?_, ?_⟩ <;> decide +kernel

/-- `OpticalPorts`: a port in each of its states, with and without a running command, with a locked wavelength and a map. -/
theorem wit_OpticalCommands :
    let s (st : BitVec 4) (b : Option (BitVec 4 × BitVec 4)) : State :=
      { State.reset with ports := vset State.reset.ports 15 { Port.reset with st := st, busy := b, wst := 1 } }
    (∀ st b, ((s st b).port 15).st = st ∧ ((s st b).port 15).busy = b ∧ (s st b).gatePort.getLsbD 15 = false) ∧
    (((s 1 none).port 15).wl 0 % 2 = 1 ∧ ((s 1 none).port 15).wl 8 % 2 = 0 ∧ (8 : BitVec 4).toNat ≤ 8) ∧
    ((s 2 none).port 15).mapOk = false ∧ (s 4 (some (6, 0))).portQuiet 15 = true ∧ (0 : BitVec 4).toNat ∈ laneWls ((s 3 none).port 15).lanes := by
  refine ⟨fun st b => ⟨rfl, rfl, ?_⟩, ?_, ?_, ?_, ?_⟩
  · simp [State.reset]
  all_goals decide +kernel

/-- `OpticalPorts`: MAP with every lane's wavelength trained. -/
theorem wit_MapOk : ({ Port.reset with st := 1, wst := 0x36DB6DB } : Port).mapOk = true := by decide +kernel

/-- `OpticalPorts`: a port of the partition, with the selected bank active and inactive; a topology command of one port that may
begin, one that goes, and one whose deadline of a tick has passed. -/
theorem wit_RoutesAndTopology :
    let s (sel : BitVec 64) : State := (mapped State.reset).modBank 0 fun b => { b with rtSel := sel }
    let body : List Byte := leBytes 12 (1 + 2 ^ 16) ++ leBytes 4 5 ++ tab 64 fun _ => 0
    let c (st : Bool) : Topo := { id := 1, vf := 0, launch := Launch.none, asid := 0, body := body, since := 0, started := st }
    let t (st : Bool) (k : List Counter) : State := { State.reset with topo := [c st], ctrs := k, wall := 4096 }
    (((s 0).part 0).ports.getLsbD (rtPort (s 0 |>.bank 0).rtSel) = true ∧ ((s 0).port 0).act = (0 : BitVec 64).getLsbD 12 ∧
      ((s 0x1000).port 0).act ≠ (0x1000 : BitVec 64).getLsbD 12 ∧ rtPort 0x1000 = 0) ∧
    ((s 0x10000).part 0).ports.getLsbD (rtPort 0x10000) = false ∧
    ((c false).started = false ∧ ∀ e ∈ topoEntries (c false).body, (t false []).portQuiet e.1 = true ∧ ((t false []).port e.1).busy = none) ∧
    ((c true).started = true ∧ (t true [ctr5]).topoGo (c true) = true ∧ (t true []).topoGo (c true) = false) ∧
    ((t true []).wall % 4096 = 0 ∧ dlTicks (BitVec.ofNat 16 (numAt (c true).body 16 2)) ≤ (t true []).wall / 4096 - (c true).since / 4096) := by
  refine ⟨?_, ?_, ?_, ?_, ?_⟩ <;> decide +kernel

/-- `ResetsAndMonitors`: a die at 115 degrees; the end of a reset; an error of each end of the range of kinds. -/
theorem wit_ResetsAndMonitors :
    let s : State := { State.reset with mons := vset State.reset.mons 0 { Mon.reset with temp := [BitVec.ofNat 64 (1840 + 2 ^ 31)] } }
    s.hot 1840 = true ∧ ({ s with resetting := some 9 } : State).resetting = some 9 ∧ (vget Mon.reset s.mons 0).temp[0]? = some (BitVec.ofNat 64 (1840 + 2 ^ 31)) ∧
    (vget Mon.reset s.mons 0).droop[7]? = some 0xFFFF ∧ (1 ≤ (1 : BitVec 4).toNat ∧ (5 : BitVec 4).toNat ≤ 5) ∧
    (coreAt Core.launch 2).core? (.core 0 0) = some Core.launch ∧ (s.mg 0).part.toNat < 12 := by
  refine ⟨?_, rfl, ?_, ?_, ?_, rfl, ?_⟩ <;> decide +kernel

/-- `Mailbox`: a command in hand, before and after BOOT; the arguments of each at the ends of their ranges. -/
theorem wit_Mailbox :
    let s (op : BitVec 8) (b : Bool) (a : List (BitVec 64)) : State :=
      { State.reset with mbDone := false, mbCmd := op.zeroExtend 64, booted := b, mbArgs := gen 8 fun i => a.getD i 0, svn := 64 }
    (∀ op b a, InHand (s op b a) op ∧ (s op b a).booted = b) ∧ (State.reset.mbDone = true ∧ mbListed 0x01 = true ∧ mbListed 0xFF = false) ∧
    ((1 : BitVec 64).getLsbD 0 = true ∧ State.reset.released = false) ∧
    ((vget 0 (s 1 false [0x1000, 512]).mbArgs 0).toNat % 4096 = 0 ∧ 512 ≤ (vget 0 (s 1 false [0x1000, 512]).mbArgs 1).toNat) ∧
    (2 ^ 24 < (vget 0 (s 1 false [0, 0x1000001]).mbArgs 1).toNat ∧ (s 2 false []).sramLen = none) ∧
    ((s 3 true [64]).minSvn ≤ (vget 0 (s 3 true [64]).mbArgs 0).toNat ∧ (vget 0 (s 3 true [64]).mbArgs 0).toNat ≤ (s 3 true [64]).svn ∧
      64 < (vget 0 (s 3 true [65]).mbArgs 0).toNat) ∧
    ((s 0x10 true [0]).lockWaits = false ∧ (s 0x10 true [0]).clampRecent = false ∧
      ((s 0x10 true [0]).targetOk = true ∨ (s 0x10 true [0]).targetOk = false)) ∧
    ((s 0x12 true [0, 63]).gated 0 63 = some false ∧ (s 0x12 true [0, 63]).gateBusy 0 63 = false ∧ (s 0x12 true [0, 64]).gated 0 64 ≠ some false ∧
      ({ s 0x13 true [2, 15] with gatePort := 0x8000 } : State).gated 2 15 = some true) ∧
    ({ s 0x30 true [] with mbBusy := true } : State).mbBusy = true := by
  refine ⟨fun op b a => ⟨⟨rfl, rfl, by simp [State.mbOp]⟩, rfl⟩, ?_, ?_, ?_, ?_, ?_, ?_, ?_, rfl⟩ <;> decide +kernel

/-- `Mailbox`: both targets of SETF, one that the voltage carries and one that it does not. -/
theorem wit_MailboxTargets :
    let s (vi : BitVec 2) (f : BitVec 64) : State :=
      { State.reset with mbDone := false, mbCmd := 0x10, booted := true, mbArgs := gen 8 fun _ => f, vi := gen 10 fun _ => vi }
    (∃ vi f, (s vi f).targetOk = true) ∧ ∃ vi f, (s vi f).targetOk = false := by
  refine ⟨⟨0, 0, ?_⟩, ⟨3, 0, ?_⟩⟩ <;> decide +kernel

/-- `Mailbox`: a firmware package in the SRAM, bad and good; whether a good one exists is up to the fuses (log 13). -/
theorem wit_MailboxBoot (m : Mem) (n : Nat) (img : Image) (h : firmware 0 (m.read 0 n) = some img) :
    let s : State := { State.reset with mbDone := false, mbCmd := 2, sram := m, sramLen := some n }
    (InHand s 0x02 ∧ s.booted = false ∧ s.sramLen = some n ∧ firmware s.minSvn (s.sram.read 0 n) = some img) ∧
    firmware 0 (Mem.read [] 0 512) = none := by
  refine ⟨⟨⟨rfl, rfl, rfl⟩, rfl, rfl, h⟩, ?_⟩
  unfold firmware
  rw [if_neg]
  have h0 : numAt (Mem.read [] 0 512) 0 4 = 0 := by decide +kernel
  simp [h0]

/-! ## Witnesses of the further clauses -/

/-- `CopyWithinTheCore`, `CopyFabric`: an engine with 15 commands that are not over, and with 16; a footprint beyond the wall,
one that is misaligned, and one in a buffer that a neighbour holds; a busy segment; addresses of G beyond its end; a counter
that is not live; a trigger of the same port. -/
theorem wit_CopyFaults :
    let c := { regs [0, 8388352, 2048, 65536, 5, 6, 0x200000000000000, 0x1000, 1] with
      holder := vset Core.launch.holder 1 1, top := 4096, cmds := [{ cmdOf (.xrsp 0 15) with word := 7 }] }
    let full (n : Nat) : Core := { c with cmds := tab n fun i => { cmdOf (.xscl 0 0) with id := i } }
    let mine (k : Core) := (k.cmds.filter fun q => !k.cmdOver q).countP fun q => q.word == 6
    let s : State := { coreAt c 6 with ctrs := [ctr5], trigs := [{ id := 1, handle := 5, target := 9, ports := 1 }],
                                       parts := vset State.reset.parts 0 { Machine.Part.none with exist := true, ports := 1 } }
    (Runs (coreAt (full 15) 6) (issOf (full 15) 6) t0 ∧ mine (full 15) < 16 ∧ 16 ≤ mine (full 16)) ∧ Runs s (issOf c 6) t0 ∧
    (2 ^ 23 < (c.rs 1).toNat + 512 ∧ (c.rs 2).toNat % 4096 ≠ 0 ∧ (c.rs 3).toNat % 4096 = 0 ∧
      (c.rs 3).toNat / 65536 ≤ 1 ∧ 1 ≤ ((c.rs 3).toNat + 4096 - 1) / 65536 ∧ vget (c.loc % 4) c.holder 1 ≠ c.loc % 4) ∧
    (c.segBusy 15 = true ∧ c.rseg.getLsbD 15 = true) ∧ (2 ^ 57 ≤ (c.rs 6).toNat ∧ (c.rs 6).toNat % 64 = 0) ∧
    (s.handleOk (.core 0 0) (((c.rs 4).truncate 32 : BitVec 32).zeroExtend 64) = true ∧
      s.handleOk (.core 0 0) (((c.rs 5).truncate 32 : BitVec 32).zeroExtend 64) = false) ∧
    (BitVec.ofNat 16 (c.rs 8).toNat &&& ~~~ (s.part (s.partOf (.core 0 0))).ports = 0 ∧
      s.trigPending (BitVec.ofNat 16 (c.rs 8).toNat) = true) := by
  refine ⟨⟨⟨rfl, ?_⟩, ?_, ?_⟩, ⟨rfl, ?_⟩, ?_, ?_, ?_, ?_, ?_⟩ <;> decide +kernel

/-- `Calliope`: two drives of one bus; a drive of a bus that carries a record of this wall cycle, or its own troupe's record of
this VCC cycle; a drive and a catch of another troupe, aligned and not; words whose verdict stands, and a management core
whose bus is taken. -/
theorem wit_BusMeetings :
    let tr (u : Bool) : Troupe := { troupeOf 0 (bundleStream []) Core.launch with unal := u }
    let s (u : Bool) (b : List BusRec) : State := { State.reset with troupes := [tr u, tr false], bus := b, wall := 7 }
    let d (t w : Nat) : BusOp := { t := t, r := 0, w := w, die := 0, drive := true }
    let k (t : Nat) : BusOp := { t := t, r := 0, w := 7, die := 0, drive := false }
    let rc (wall : Nat) : BusRec := { die := 0, trp := 0, rank := 0, adv := 0, wall := wall, data := [], word := 6, baddr := 0 }
    ((∃ q ∈ [d 0 6, d 1 6], q.drive = true ∧ q.die = (d 0 6).die ∧ q ≠ d 0 6) ∧ d 0 6 ∈ [d 0 6, d 1 6]) ∧
    ((∃ r ∈ (s true [rc 7]).bus, r.die = (d 0 6).die ∧ r.wall = (s true [rc 7]).wall) ∧
      ∃ r ∈ (s true [rc 3]).bus, r.die = (d 0 6).die ∧ (d 0 6).die < 8 ∧ r.trp = (d 0 6).t ∧ r.adv = (s true [rc 3]).now (.core 0 0)) ∧
    ((∀ q ∈ [d 0 6], q.drive = true → q.die = 0 → q = d 0 6) ∧ (s true []).bus = []) ∧
    ((∃ x, (s true []).troupe? 0 = some x ∧ x.unal = true) ∧ (s true []).busTaken 0 0 ((s true []).now (.core 0 0)) = false ∧
      (∃ q ∈ [d 0 6, k 1], q.die = (d 0 6).die ∧ q.t ≠ (d 0 6).t ∧ q.drive ≠ (d 0 6).drive) ∧
      ([d 1 6, k 0].filter fun q => q.drive && q.die == (k 0).die).length = 1) ∧
    (let c := { regs [0, 4096] with late := some [(6, 4), (7, 5)] }
     let m : State := { mgmtAt (regs [0, 4096]) 1 with bus := [{ rc 0 with die := 8 }] }
     Runs (coreAt c 6) (issOf c 6) t0 ∧ (((c.late.getD []).find? fun q => q.1 == 6).map fun q => q.2) = some 4 ∧
       (((c.late.getD []).find? fun q => q.1 == 7).map fun q => q.2) = some 5 ∧ MayTouch c 4096 (c.rs 1).toNat 4096 ∧
       (∃ r ∈ m.bus, r.die = 8 + 0 ∧ r.wall = m.wall) ∧ (m.busSide (.mgmt 0) (issM (regs [0, 4096])).core).die = 8) := by
  refine ⟨⟨?_, ?_⟩, ⟨?_, ?_⟩, ⟨?_, rfl⟩, ⟨⟨_, rfl, rfl⟩, ?_, ?_, ?_⟩, ⟨rfl, ?_⟩, ?_, ?_, mayTouch_home _ _ _ _ rfl rfl ?_ ?_, ?_, ?_⟩ <;>
    decide +kernel

/-- A port of plane 0 that leads to package 7. -/
def port7 : Port := { Port.reset with st := 3, rtA := [(7, (1#64 <<< 63) ||| 7)] }

/-- `CopyEngines`: an `xget` of two granules in its start cycle, with a port that leads to its package and with none; a hint of
length 0; a trigger on a lost counter; a command before its start cycle. -/
theorem wit_CopyStartMore :
    let w : BitVec 64 := 7#64 <<< 32
    let g : Cmd := cmdOf (.xget 0 0x1000 128 w)
    let s (p : Port) : State := { mapped (coreAt (withCmd g) 6) with ports := vset State.reset.ports 0 p }
    let late : Cmd := { cmdOf (.xscl 0 0) with start := 3 }
    (∀ p, (s p).core? (.core 0 0) = some (withCmd g)) ∧ (withCmd g).cmd? 9 = some g ∧ g.start = 0 ∧ (0 : Nat) < 128 / 64 ∧
    (s port7).leading (some 0) ((s port7).planeOf 0x1000) (w.extractLsb' 32 16) ≠ [] ∧
    (s Port.reset).leading (some 0) ((s Port.reset).planeOf 0x1000) (w.extractLsb' 32 16) = [] ∧
    (({ s port7 with ctrs := [{ ctr5 with lost := true }] } : State).ctr? 5).any (fun e => !e.lost) = false ∧
    late.start ≠ (coreAt (withCmd late) 6).now (.core 0 0) := by
  refine ⟨fun _ => rfl, ?_, rfl, ?_, ?_, ?_, ?_, ?_⟩ <;> decide +kernel

/-- `Counters`: a wait that stands at its engine and one that does not, with the target one above the value; an armed wait on
a counter whose target is just reached and just missed; a refusal whose source is a word and one whose source is a command. -/
theorem wit_CounterWaitsStanding :
    let o (b : Bool) : CtrOp := { opOf (.wait 8) with stands := b }
    let s (b : Bool) (k : CtrKind) (src : CtrSrc) : State :=
      { coreAt (withCmd (cmdOf (.xscl 0 0))) 6 with ctrOps := [{ opOf k with stands := b, src := src }], ctrs := [ctr5] }
    (∀ b k src, (s b k src).ctrOps.find? (fun p => p.id == 3) = some { opOf k with stands := b, src := src }) ∧
    (∀ b, (s b (.wait 8) (opOf (.wait 8)).src).ctrFirst (o b) = true ∧ (s b (.wait 8) (opOf (.wait 8)).src).ctrMoving 5 = false) ∧
    ((8 : BitVec 64).ule ctr5.value = false ∧ ctr5.value.ult 8 = true) ∧
    (let a : Counter := { ctr5 with st := 1, target := 7 }
     a.st ≠ 0 ∧ a.target.ule a.value = true ∧ ({ a with target := 8 } : Counter).value.ult 8 = true) ∧
    ((s false (.add 1) (.cmd (.core 0 0) 9)).core? (.core 0 0) = some (withCmd (cmdOf (.xscl 0 0))) ∧
      (withCmd (cmdOf (.xscl 0 0))).cmds.find? (fun j => j.id == 9) = some (cmdOf (.xscl 0 0)) ∧
      CtrSrc.agent (.cmd (.core 0 0) 9) = some (.core 0 0) ∧ (s false (.add 1) .system).away (.core 0 0) = false) := by
  refine ⟨fun b k src => rfl, fun b => ⟨?_, ?_⟩, ?_, ?_, ?_, ?_, ?_, ?_⟩
  any_goals cases b
  all_goals first | rfl | decide +kernel

/-- `CounterManagement`: the lowest free run below a counter that stands, and the last run of a die; no run; a counter that CT_CTL
frees, of its VF and of no task; moves that are refused; a trigger whose counter is one below its target. -/
theorem wit_CounterRuns :
    let s : State := { mapped State.reset with ctrs := [ctr5] }
    (FreeRun s 0 1 4 ∧ FreeRun s 0 6 (2 ^ 28 - 7) ∧ FreeRun s 9 (2 ^ 28 - 2) 1) ∧
    (∀ j, ¬ FreeRun s 0 j (2 ^ 28 - 2)) ∧ (∀ j, j < 6 → ¬ FreeRun s 0 j 5) ∧ FreeRun s 0 6 5 ∧
    (ctr5.handle.toNat / 2 ^ 28 = 0 ∧ ctr5.handle.toNat % 2 ^ 28 = 5 ∧ ctr5.vf = 0 ∧ ctr5.task.isNone = true) ∧
    ((10 : BitVec 4).toNat > 9 ∧ (9 : BitVec 4).toNat ≤ 9) ∧
    (ctr5.value.ult ({ id := 1, handle := 5, target := 8, ports := 1 } : Trig).target = true) := by
  have hc : ∀ s : State, s.ctrs = [ctr5] → ∀ die j n, FreeRun s die j n ↔
      (1 ≤ j ∧ j + n ≤ 2 ^ 28 - 1 ∧ (die = 0 → 5 < j ∨ j + n ≤ 5)) := by
    intro s h die j n
    unfold FreeRun
    rw [h]
    have h5 : ctr5.handle.toNat = 5 := by decide
    simp [h5, eq_comm]
  intro s
  refine ⟨⟨?_, ?_, ?_⟩, fun j => ?_, fun j hj => ?_, ?_, ?_, ?_, ?_⟩
  any_goals rw [hc s rfl]
  all_goals first | omega | decide

/-- `MemoryEvents`: a scalar load that translates and one whose page is not mapped; a vector load of 1,024 codes of which only
the last lies on a page that is not; what the walk of a product finds, both pages on one stack and the second missing. -/
theorem wit_WalkDecides :
    let s := mapped (coreAt Core.launch 2)
    let cx := s.ctx (.core 0 0)
    let g (b : Nat) : Gemv := { id := 9, iss := 0, baddr := 0, rem := false, land := 0, nb := 1, k := 32, ctr := 0, a := 0, bva := b,
                                f := 1, abytes := [], arrived := 0, snap := [], own := [], st := .walking, next := 0 }
    (∀ how : Lookup, (s.translate cx 0x100 .rd (some 0) how).toOption.isSome = true ∧
      (s.translate cx 0x600000 .rd (some 0) how).toOption = none ∧ (s.translate cx 0x5FF000 .rd (some 0) how).toOption.isSome = true) ∧
    (gBytes 0 = some 4 ∧ (∀ e, e < 1023 → (0x5FF004 + e * 4) / 4096 = 0x5FF) ∧ (0x5FF004 + 1023 * 4) / 4096 = 0x600 ∧
      (BitVec.allOnes 1024).getLsbD 1023 = true) ∧
    ((g 0).size = 8192 ∧ (∀ how : Lookup, ∀ pg, pg < 2 → (s.translate cx (pg * 4096) .rd (some 0) how).toOption = some (pg * 4096, 0x3DB)) ∧
      homeOf 0x1000 = some 0 ∧ isFar 0x1000 = false ∧ ((g 0x5FF000).bva + (g 0x5FF000).size - 1) / 4096 = 0x600) := by
  refine ⟨fun how => ?_, ⟨?_, ?_, ?_, ?_⟩, ?_, fun how pg h => ?_, ?_, ?_, ?_⟩
  case refine_3 => intro e h; omega
  case refine_7 => interval_cases pg <;> cases how <;> decide +kernel
  any_goals cases how
  all_goals decide +kernel

/-- `MemoryEvents`: a product that walks, and one whose next block arrives; an entry that stores nothing; an entry that fails
while the troupe publishes; a phase that a store of its own cycle keeps open, below package scope and from it on. -/
theorem wit_MemoryEventsMore :
    let g (st : FetchSt) : Gemv := { id := 9, iss := 0, baddr := 0, rem := false, land := 0, nb := 2, k := 32, ctr := 0, a := 0,
                                     bva := 0, f := 1, abytes := [], arrived := 1, snap := [], own := [], st := st, next := 0 }
    let c (st : FetchSt) : Core := { Core.launch with gemv := [g st] }
    let e (b : Option Byte) (va : Nat) : Egress := { egressOf 1 with va := va, bytes := [b], inPath := true }
    let p (b : Option Byte) (va : Nat) : Core := { Core.launch with egress := [e b va], pubMarks := some [] }
    let w (k : Nat) : Wait := { waitOf (.phase k) none 0 with iss := 0 }
    let q (k : Nat) : Core := { Core.launch with wait := some (w k), egress := [e (some 1) 0] }
    ((c .walking).fetches = [] ∧ (c .walking).gemv.find? (fun h => h.id == 9 && h.st == .walking) = some (g .walking) ∧
      (coreAt (c .walking) 5).awaitsResume (.core 0 0) 0 = false) ∧
    ((c (.ready [])).gemv.find? (fun h => h.id == 9) = some (g (.ready [])) ∧ (g (.ready [])).arrived < (g (.ready [])).nb) ∧
    ((mapped (coreAt (p none 0) 2)).drainNext (.core 0 0) (p none 0) = some (e none 0)) ∧
    ((mapped (coreAt (p (some 1) 0x600000) 2)).drainNext (.core 0 0) (p (some 1) 0x600000) = some (e (some 1) 0x600000) ∧
      (mapped (coreAt (p (some 1) 0x600000) 2)).publishing (.core 0 0) = true) ∧
    (∀ k ∈ [2, 3, 5], (q k).wait = some (w k) ∧ (coreAt (q k) 2).covered (.core 0 0) (q k) k 0 = false ∧
      (coreAt { q k with egress := [] } 2).covered (.core 0 0) { q k with egress := [] } k 0 = true) ∧
    (State.reset.gmem.wf = true ∧ homeOf (96 * 10 ^ 9) = none ∧ homeOf 0 = some 0) := by
  refine ⟨⟨rfl, ?_, ?_⟩, ⟨?_, ?_⟩, ?_, ⟨?_, ?_⟩, fun k hk => ?_, ?_⟩
  case refine_8 =>
    simp only [List.mem_cons, List.not_mem_nil, or_false] at hk
    rcases hk with rfl | rfl | rfl <;> exact ⟨rfl, by decide +kernel⟩
  all_goals decide +kernel

/-- `CopyEngines`: a piece whose walk ends; entries that memory does not accept: one on a moving page, one not mapped, one
beyond G, and one for H; failures of an entry and of a piece that is due. -/
theorem wit_CopyEventsMore :
    let h : Cmd := { cmdOf (.xfill false 0 0x1000 4096) with started := true, total := 2 }
    let b (host : Bool) (va : Nat) : Cmd :=
      { cmdOf (.xstore host 0 0 4096) with started := true, total := 1, buf := [(3, va, [1])], failed := some (0x0A, 1, 4, 0) }
    let s (va : Nat) : State := mapped (coreAt (withCmd (b false va)) 6)
    let t (va : Nat) := ((s va).translate ((s va).cmdCtx (.core 0 0) (b false va)) va .wr (some 0) .any).toOption
    let f : Cmd := { h with pieces := [{ idx := 0, data := none, walking := false, cached := false, failed := some (0x0A, 1, 0x1000) }] }
    let d : Pend := { due := 0, iss := 0, word := 6, baddr := 0, act := .cmd 9 1 0, flags := 0, rtn := none }
    ((withCmd h).cmd? 9 = some h ∧ (h.piece 0).walking = true ∧ h.next ≤ 0 ∧ (withCmd h).fetches = [] ∧ (withCmd h).gemv = []) ∧
    ((b false 0).buf[0]? = some (3, 0, [1]) ∧ ∀ f, (b false 0).failed = some f → 3 < f.2.2.1) ∧
    ((t 0x400000).map (fun r => pteMs r.2) = some 1 ∧ t 0x600000 = none ∧ 2 ^ 57 ≤ 2 ^ 57 ∧ (b true 0).op.host = true ∧
      (t 0x200000).map (fun r => (pteMs r.2 == 1, (s 0).switching r.1, (s 0).portDown r.1)) = some (false, false, false)) ∧
    (∀ e ∈ ({ b false 0 with failed := some (0x0A, 1, 3, 0) } : Cmd).buf, 3 ≤ e.1) ∧
    (f.failed = none ∧ (f.piece f.next).failed = some (0x0A, 1, 0x1000) ∧
      ∃ p ∈ ({ withCmd f with pend := [d] } : Core).pend, p.due ≤ 0 ∧ p.act = .cmd f.id 1 f.next) := by
  refine ⟨⟨?_, ?_, ?_, rfl, rfl⟩, ⟨?_, ?_⟩, ?_, ?_, rfl, ?_, ?_⟩
  case refine_5 => rintro f hf; cases hf; decide
  all_goals decide +kernel

/-- `CopyEngines`: poison, in a piece that a management core reads by its physical address. -/
theorem wit_PiecePoison :
    let k : Cmd := { cmdOf (.xfill false 0 (2 ^ 43) 4096) with started := true, total := 1, xasid := 1#64 <<< 63 }
    let s : State := mgmtAt (withCmd k) 2
    let pages := s.pagesOf (s.cmdCtx (.mgmt 0) k) .rd (some 0) (.of false) (k.source 0)
    s.core? (.mgmt 0) = some (withCmd k) ∧ (withCmd k).cmd? 9 = some k ∧ pageFault pages = none ∧
    ∃ e ∈ pages, ∃ pa ∈ pagePa pages (e.1 * 4096), isFar pa = true :=
  ⟨rfl, by decide +kernel, by decide +kernel, by decide +kernel⟩

/-- `CopyEngines`: a granule for a wall that no task holds; two of one block, and the last of it; nine that offer themselves to a
port, of which two share a bank. -/
theorem wit_Granules :
    let g (a : Nat) (id : Nat) : Granule := { id := id, dst := .core 0 0, addr := a, data := tab 64 fun _ => 1, ctr := some 5,
                                              amt := 512, src := .system, since := some 0, blk := some 7 }
    let s : State := { coreAt Core.launch 6 with flight := [g 0 1, g 64 2] }
    let l := (tab 9 fun i => g (64 * i) i)
    ({ g 0 1 with dst := .core 4 0, since := none } : Granule).since = none ∧ s.core? (.core 4 0) = none ∧
    (∃ h ∈ s.flight.filter (fun h => h.id != 1), h.blk = (g 0 1).blk) ∧ (g 0 1).blk ≠ none ∧
    (∀ h ∈ (s.flight.filter fun h => h.id != 2).filter (fun h => h.id != 1), h.blk ≠ (g 0 1).blk) ∧
    (l.length = 9 ∧ (portChoice [] l).length = 8 ∧ (g 0 1).meets (g 0 2) = true ∧ portChoice [] [g 0 1, g 0 2] = [g 0 1]) := by
  refine ⟨rfl, ?_, ?_, ?_, ?_, ?_⟩ <;> decide +kernel

/-- An entry of the list of a batch. -/
def entry (tgt : Nat) (flags : Nat) (opnd : Nat) : List Byte := leBytes 16 (tgt + flags * 2 ^ 57 + opnd * 2 ^ 64)

/-- `MessagesAndBatches`: a queue without room, and a troupe that is loading; lists of a batch whose second entry is malformed,
names no live counter, or does not translate, and one that is good. -/
theorem wit_Batches :
    let m : InMsg := { id := 6, trp := 0, rank := 0, ch := 0, data := [], src := .system }
    let c : Core := { Core.launch with q := vset Core.launch.q 2 (tab (qDepth 2) fun _ => []) }
    let s : State := { coreAt c 2 with inMsgs := [m] }
    let k (op : AtomOp) (l : List (List Byte)) : Cmd := { cmdOf (.xbat op 0 2 none) with started := true, total := 1, aux := l.flatten }
    let u (op : AtomOp) (l : List (List Byte)) : State := { mapped (coreAt (withCmd (k op l)) 6) with ctrs := [ctr5] }
    let tgt (l : List (List Byte)) (j : Nat) := ((batchEntry l.flatten j).extractLsb' 0 57).toNat
    let G := [entry 0x1FFFF8 64 1, entry 0x200000 0 1]
    let C := [entry 5 0 1, entry 6 0 1]
    ((vget [] c.q 2).length = qDepth 2 ∧ s.inMsgs.find? (fun n => n.id == m.id) = some m ∧
      (∃ tr, ({ s with troupes := s.troupes.map fun tr => { tr with loading := true } } : State).troupe? 0 = some tr ∧ tr.loading = true)) ∧
    (∀ op l, (u op l).core? (.core 0 0) = some (withCmd (k op l)) ∧ (withCmd (k op l)).cmd? 9 = some (k op l) ∧
      Cmd.hasPhase (withCmd (k op l)) 9 0 = false ∧ (k op l).failed = none ∧ (k op l).total ≠ 0 ∧ (k op l).outstanding = 0) ∧
    (tgt G 0 = 0x1FFFF8 ∧ tgt G 1 = 0x200000 ∧ (batchEntry G.flatten 0).getLsbD 63 = true ∧
      ∀ j, j < 2 → ((u .add G).translate ((u .add G).cmdCtx (.core 0 0) (k .add G)) (tgt G j) .rdwr (some 0) .any).toOption.isSome = true) ∧
    ((batchEntry [entry 0 1 0].flatten 0).extractLsb' 57 6 ≠ 0 ∧ tgt [entry 4 0 0] 0 % 8 ≠ 0 ∧ 2 ^ 32 ≤ tgt [entry (2 ^ 32) 0 0] 0 ∧
      (batchEntry [entry 5 0 1].flatten 0).extractLsb' 64 64 ≠ 0) ∧
    ((u .cadd C).handleOk (.core 0 0) (BitVec.ofNat 64 (tgt C 0)) = true ∧ (u .cadd C).handleOk (.core 0 0) (BitVec.ofNat 64 (tgt C 1)) = false) ∧
    ((u .add G).translate ((u .add G).cmdCtx (.core 0 0) (k .add G)) (tgt [entry 0x600000 0 0] 0) .rdwr (some 0) .any).toOption = none := by
  refine ⟨⟨?_, ?_, _, rfl, rfl⟩, fun op l => ⟨rfl, ?_, rfl, rfl, ?_, rfl⟩, ?_, ?_, ?_, ?_⟩
  case refine_3 => simp [withCmd, Core.cmd?, cmdOf]
  case refine_4 => simp
  all_goals decide +kernel

/-- `MessagesAndBatches`: entries on a word that translates, that waits and that is not reachable, and on a lost counter; returns
of one full group and of none; an enqueue with a slot free, on a full queue, on pages that move or are not mapped. -/
theorem wit_BatchAndEnqueue :
    let k : Cmd := { cmdOf (.xbat .add 0 1 (some 5)) with started := true, aux := entry 0x1FFFF8 64 1, rets := [(0, 7)] }
    let s : State := { mapped (coreAt (withCmd k) 6) with ctrs := [{ ctr5 with lost := true }] }
    let far : State := { s with gateStk := 1 }
    let t (u : State) (va : Nat) := (u.translate (u.cmdCtx (.core 0 0) k) va .rdwr none .any).toOption
    let x : Cmd := { cmdOf (.xenq 0 0 5) with started := true, total := 1, aux := leBytes 256 1 }
    let lq (b n : Nat) : LQueue := { LQueue.none with en := true, prod := true, base := b, lsz := 4, tail := BitVec.ofNat 32 n }
    let e (b n : Nat) : State := { mapped (coreAt (withCmd x) 6) with
      vfs := vset State.reset.vfs 0 { Vf.reset with en := true, part := 0, queues := [lq b n] } }
    let slot (b n : Nat) := (e b n).translate { (e b n).cmdCtx (.core 0 0) x with asid := ((e b n).vf 0).asid.toNat } ((lq b n).slot (lq b n).tail) .wr (some 0) .any
    ((t s 0x1FFFF8).map (fun r => (r.1, s.writeWaits r.1 r.2)) = some (0x1FFFF8, false) ∧ far.portDown 0x1FFFF8 = true ∧ s.portDown 0x1FFFF8 = false ∧
      s.ctr? 5 = some { ctr5 with lost := true } ∧ s.ctrMoving 5 = false ∧ k.op.batCtr = some 5) ∧
    (((tab (k.aux.length / 16) id).filter fun j => (batchEntry k.aux j).getLsbD 63) = [0] ∧
      (k.rets.find? fun e => e.1 == 0).map (·.2) = some 7 ∧ ({ k with next := 1 } : Cmd).next = 1) ∧
    ((e 0 0).core? (.core 0 0) = some (withCmd x) ∧ (withCmd x).cmd? 9 = some x ∧ (e 0 0).vfOf (.core 0 0) = some 0 ∧
      ((e 0 15).vf 0).queue 0 = lq 0 15 ∧ ((lq 0 15).tail - (lq 0 15).head).toNat < 2 ^ 4 ∧ 2 ^ 4 ≤ ((lq 0 16).tail - (lq 0 16).head).toNat) ∧
    ((slot 0 15).toOption.map (fun r => (e 0 15).writeWaits r.1 r.2) = some false ∧
      (slot 0x400000 0).toOption.map (fun r => (e 0 0).writeWaits r.1 r.2) = some true ∧ (slot 0x600000 0).toOption = none) := by
  refine ⟨?_, ?_, ⟨rfl, ?_⟩, ?_⟩ <;> decide +kernel

/-- `HoldsAndRecords`: two holds of which the first is charged, in the cycle in which the run passes its limit, one cycle before it
and without a limit; a hold whose only cause is 0x8; a wait that began in the tick's wall cycle, and a realignment in a restore
routine; a marked bundle at the safe-point distance. -/
theorem wit_Holds :
    let c (w : Wait) : Core := { Core.launch with wait := some w }
    let ph := c (waitOf (.phase 3) none 5)
    let ct := c (waitOf (.target 8) none 5)
    let l (x : Core) (lim run : Nat) : State :=
      turnAt (fun tr => { tr with limit := BitVec.ofNat 32 lim, run := run }) [x, { x with rank := 1, lrank := 1, loc := 1 }] []
    let ev (x : Core) (lim run : Nat) := (((l x lim run).troupe? 0).map fun tr => ((l x lim run).holdsOf 0 tr).map fun h => (h.code, h.rank)).getD []
    let r := turnAt (fun tr => { tr with st := .restoring, realign := true }) [Core.launch] []
    let m := turnAt (fun tr => { tr with adv := 2 ^ 20 + 1 }) [Core.launch] [0x100]
    ((∃ h ∈ ev ph 1 1, (∀ g ∈ ev ph 1 1, h.1 < g.1 ∨ h.1 = g.1 ∧ h.2 ≤ g.2) ∧ h.1 ≠ 8) ∧ (1 : Nat) ≤ 1 ∧ (1 : BitVec 32) ≠ 0) ∧
    (ev ct 1 1 ≠ [] ∧ ∀ g ∈ ev ct 1 1, g.1 = 8) ∧
    (let w := { waitOf (.phase 3) none 5 with since := 4096 }
     let f : State := { turnAt id [c w] [] with wall := 4096, released := true }
     f.core? (.core 0 0) = some (c w) ∧ f.wall ≤ w.since) ∧
    (∃ tr, r.troupe? 0 = some tr ∧ tr.realign = true ∧ tr.st = .restoring) ∧
    (∃ tr, m.troupe? 0 = some tr ∧ tr.adv - tr.n0 = tr.image.dmax + 1 ∧ (∀ k ∈ tr.cores, k.done = 0 ∧ k.raised = []) ∧
      m.marked (.core 0 0) Core.launch = true) := by
  refine ⟨⟨?_, ?_, ?_⟩, ⟨?_, ?_⟩, ⟨rfl, ?_⟩, ⟨_, rfl, rfl, rfl⟩, _, rfl, ?_, ?_, ?_⟩ <;> decide +kernel

/-- `SavingAndRetirement`: a request that is asked for and one that is passed over, at a marked bundle with nothing in flight and at
an unmarked one; a save region that is mapped and one that is not; a task with a status, and one that has not ended. -/
theorem wit_Saving :
    let p (w : List Nat) (n : Option (Nat × BitVec 5)) : State := turnAt (fun tr => { tr with prq := 4, noPre := n }) [Core.launch] w
    let o : Core := { Core.launch with routineDone := true, pubMarks := some [] }
    let v (st : Option (BitVec 16)) : State := turnAt (fun tr => { tr with st := .saving, status := st }) [o] []
    let g : State := mapped (v none)
    let f := turnAt (fun tr => { tr with status := some 0x0A01 }) [{ Core.launch with fin := some 0, pubMarks := some [] }] []
    (∃ tr, (p [0x100] none).troupe? 0 = some tr ∧ (p [0x100] none).cursor = .bundle 0 0 ∧ tr.asked ≠ 0 ∧ tr.prq.getLsbD 2 = true ∧
      (∀ j < 2, tr.prq.getLsbD j = false) ∧ (p [0x100] none).marked (.core 0 0) Core.launch = true ∧ Core.launch.inFlight tr.adv false = false ∧
      Core.launch.fin = none) ∧
    (∃ tr, (p [0x100] (some (0, 4))).troupe? 0 = some tr ∧ tr.asked = 0) ∧ (p [] none).marked (.core 0 0) Core.launch = false ∧
    (∃ tr, g.troupe? 0 = some tr ∧ tr.status = none ∧ g.allPublished 0 tr = true ∧ tr.trec = [] ∧ (g.bank tr.part).dbEn = 0 ∧
      (g.publishAll 0 tr).writeFault (g.vf tr.vf).asid.toNat ((g.vf tr.vf).saveAt tr.slot) 0x20000 = none ∧
      ((v none).publishAll 0 tr).writeFault (g.vf tr.vf).asid.toNat ((g.vf tr.vf).saveAt tr.slot) 0x20000 ≠ none) ∧
    (∃ tr, (v (some 0x0A01)).troupe? 0 = some tr ∧ tr.status = some 0x0A01) ∧
    (∃ tr, f.troupe? 0 = some tr ∧ f.allPublished 0 tr = true ∧ tr.cores ≠ [] ∧ tr.st = .running ∧
      ∀ c ∈ tr.cores, c.fin ≠ none ∧ c.done = 0 ∧ c.raised = [] ∧ c.cmds = [] ∧ c.pend = [] ∧ c.fetches = [] ∧ c.gemv = []) ∧
    Core.launch.fin = none := by
  refine ⟨⟨_, rfl, rfl, ?_, ?_, ?_, ?_, ?_, rfl⟩, ⟨_, rfl, ?_⟩, ?_, ⟨_, rfl, rfl, ?_, rfl, ?_, ?_, ?_⟩, ⟨_, rfl, rfl⟩,
    ⟨_, rfl, ?_, ?_, rfl, ?_⟩, rfl⟩
  all_goals decide +kernel

/-- `BundleIssue`: a routine whose word does not decode; levels that end at this bundle with a count left and without; bundles of a
management core: one to issue, one past the end, one with a reserved opcode, and the return of a handler. -/
theorem wit_Bundles :
    let q : Core := { Core.launch with rtn := some 0 }
    let b := turnAt (fun tr => { tr with image := { tr.image with routines := [(7, 0xFF)] } }) [q] []
    let lv (n : BitVec 32) : Core := { Core.launch with lvl := vset Core.launch.lvl 7 ⟨true, 0, 0⟩, loopc := vset Core.launch.loopc 7 n }
    let w (n : BitVec 32) : State := { turnAt id [lv n] [] with cursor := .word 0 0 8 }
    let m (c : Core) (ws : List Nat) (k : Nat) : State :=
      { State.reset.setMg 0 { State.reset.mg 0 with run := true, lvl := 1, core := c, stream := bundleStream ws } with cursor := .mword 0 k }
    (b.core? (.core 0 0) = some q ∧ q.routineAt = some 0 ∧ b.word (.core 0 0) q 5 = 0 ∧ b.bundleFault (.core 0 0) q = some (5, 3)) ∧
    (∀ n ∈ [0, 2], ∃ tr, (w n).troupe? 0 = some tr ∧ tr.cores[0]? = some (lv n) ∧ tr.inRoutine = false ∧
      (vget ⟨false, 0, 0⟩ (lv n).lvl 7).active = true ∧ (vget ⟨false, 0, 0⟩ (lv n).lvl 7).fin = (lv n).pc ∧ vget 0 (lv n).loopc 7 = n) ∧
    (let s := m Core.launch [] 1
     let x := s.mg 0
     s.cursor = .mword 0 1 ∧ x.run = true ∧ x.dead = false ∧ x.stall ≤ s.wall ∧ x.core.raised = [] ∧ x.halted = false ∧ x.core.idle = false ∧
       x.core.pc < s.streamEnd (.mgmt 0) ∧ s.bundleFault (.mgmt 0) x.core = none) ∧
    (m { Core.launch with pc := 256 } [] 1).streamEnd (.mgmt 0) ≤ 256 ∧
    (m Core.launch [0, 0, 0xFF00000000000000] 1).bundleFault (.mgmt 0) Core.launch = some (2, 3) ∧
    (∀ n, n < 3 → (m { Core.launch with eret := some 0x90000, xfer := some (n, 64) } [] 8).core? (.mgmt 0) =
      some { Core.launch with eret := some 0x90000, xfer := some (n, 64) }) ∧
    (∀ i, i < 8 → (vget ⟨false, 0, 0⟩ Core.launch.lvl i).active = false) := by
  refine ⟨⟨rfl, rfl, ?_, ?_⟩, fun n hn => ⟨_, rfl, rfl, rfl, ?_⟩, ?_, ?_, ?_, fun n _ => rfl, ?_⟩
  case refine_3 =>
    simp only [List.mem_cons, List.not_mem_nil, or_false] at hn
    rcases hn with rfl | rfl <;> decide +kernel
  all_goals decide +kernel

/-- `ResultsPerform`: one due effect of each kind; two writes of one register, by two words of one cycle. -/
theorem wit_DueResults :
    let p (w : Nat) (a : Act) : Pend := { due := 0, iss := 0, word := w, baddr := 0, act := a, flags := IV, rtn := none }
    let s (l : List Pend) : State := coreAt { Core.launch with pend := l } 2
    (∀ l, (s l).core? (.core 0 0) = some { Core.launch with pend := l } ∧ ∃ tr, (s l).troupe? 0 = some tr ∧
      tr.cores = [{ Core.launch with pend := l }] ∧ tr.adv = 0) ∧
    ((p 2 (.wS 3 7)).iss = (p 3 (.wS 3 9)).iss ∧ (p 2 (.wS 3 7)).word < (p 3 (.wS 3 9)).word ∧ (3 : SReg) ≠ 0 ∧
      Core.launch.fetches = [] ∧ Core.launch.raised = []) :=
  ⟨fun _ => ⟨rfl, _, rfl, rfl, rfl⟩, rfl, by decide, by decide, rfl, rfl⟩

/-- `SystemWrites`: each register of the list is writable at its level; a VF with a task and one without; a partition change of
HV_PART that an active handler of the supervisor forbids; interrupts of the hypervisor while its handler is active. -/
theorem wit_SystemRegisters :
    let s := turnAt id [Core.launch] []
    let b (sx hx ie : Bool) : State :=
      { State.reset.setMg 0 { State.reset.mg 0 with run := true, ien := ie, sexl := sx, hexl := hx, ipHv := 0x10, ieHv := 0x10 } with
        cursor := .mword 0 1 }.modBank 0 fun b => { b with ip := 4, ie := 4 }
    (plainRegisters.all fun e => (sysFault e.1.toNat (if e.1.toNat < 0x8000 then 1 else 2)).isNone) = true ∧
    (∀ c ∈ [0x4008, 0x4009, 0x4023, 0x8040, 0x8058, 0x8048, 0x8059, 0x805A, 0x805B, 0x805C], sysFault c 2 = none) ∧
    (s.vfBusy s.vfSel.toNat = true ∧ State.reset.vfBusy State.reset.vfSel.toNat = false ∧ State.reset.vfSel.toNat < 96) ∧
    ((11 : BitVec 64).toNat % 16 < 12 ∧ ((b true false true).mg 0).sexl = true ∧ ((b false true true).mg 0).sexl = false) ∧
    (∀ sx hx ie, (b sx hx ie).betweenBundles 0 = true ∧ (((b sx hx ie).mcIp 0 &&& (b sx hx ie).mcIe 0).getLsbD 4 = true) ∧
      ((b sx hx ie).mcIp 0 &&& (b sx hx ie).mcIe 0).getLsbD 2 = true ∧ ((b sx hx ie).mg 0).ien = ie ∧ ((b sx hx ie).mg 0).hexl = hx) := by
  refine ⟨?_, ?_, ?_, ?_, ?_⟩
  · decide +kernel
  · decide +kernel
  · decide +kernel
  · decide +kernel
  · decide +kernel

/-- `EnergyEvents`: a charge that crosses the low-water mark, and one that exhausts a VF with a task within the grace, one
beyond it and one of another VF; writes of a quota; weights with a tie; an interval with reserved cycles, a running task and
one with a status. -/
theorem wit_Energy :
    let tr (d v : Nat) : Troupe :=
      { troupeOf 0 (bundleStream []) Core.launch with vf := v, image := { (troupeOf 0 (bundleStream []) Core.launch).image with dmax := d } }
    let v (q lo : Nat) (l e : Bool) : Vf := { Vf.reset with pend := 2 ^ 28, q := BitVec.ofNat 48 q, qen := e, len := l, loww := BitVec.ofNat 48 lo, lctr := 5 }
    let s (x : Vf) : State := { State.reset with vfs := vset State.reset.vfs 0 x, troupes := [tr 1 0, tr (2 ^ 20 + 1) 0, tr 1 1], ctrs := [ctr5] }
    let z (st : Option (BitVec 16)) : State := { State.reset with troupes := [{ tr 1 0 with reservedLast := 3, status := st }] }
    let e (r : Nat) : State := { State.reset with
      released := true, wall := 2 ^ 20 + 2048, vfs := vset State.reset.vfs 0 { Vf.reset with reservedLast := r } }
    (((s (v 2 1 true true)).vf 0).pend = 2 ^ 28 ∧ ((s (v 2 1 true true)).vf 0).loww.toNat < 2 ∧ (s (v 2 1 true true)).ctrMoving 5 = false ∧
      (s (v 2 1 true true)).ctr? 5 = some ctr5 ∧ ctr5.lost = false) ∧
    (((s (v 1 0 false true)).vf 0).q = 1 ∧ (tr 1 0).image.dmax ≤ ((s (v 1 0 false true)).bank 0).grace.toNat ∧
      ((s (v 1 0 false true)).bank 0).grace.toNat < (tr (2 ^ 20 + 1) 0).image.dmax ∧ (tr 1 0).st = .running ∧ (tr 1 1).vf ≠ 0) ∧
    ((s (v 1 0 false true)).enVfSel.toNat = 0 ∧ ((s (v 0 0 false false)).vf 0).q = 0 ∧ ((s (v 0 0 false false)).vf 0).exh = false ∧
      (1 : BitVec 64).getLsbD 0 = true ∧ (2 : BitVec 64).getLsbD 0 = false ∧ (0 : BitVec 64).extractLsb' 0 48 = 0) ∧
    (([2, 3, 3] : List Nat).sum ≠ 0 ∧ ([2, 3, 3] : List Nat)[1]? = some 3) ∧
    (∀ st, (z st).troupes = [{ tr 1 0 with reservedLast := 3, status := st }] ∧ ((z st).vf 0).q = 0) ∧
    ((e 0).wall % 2 ^ 20 = 2048 ∧ (e 0).nset.toNat < (e 0).wall / 2 ^ 20 ∧ (tab 96 fun v => ((e 0).vf v).reservedLast).sum = 0 ∧
      (tab 96 fun v => ((e 1).vf v).reservedLast).sum ≠ 0) := by
  refine ⟨?_, ?_, ?_, ?_, fun st => ⟨rfl, rfl⟩, ?_⟩ <;> decide +kernel

/-- A queue of VF 0 in partition 0, which has the first ring and four frames: `n` records wait, in host memory where `h`. -/
def queued (q : LQueue) : State :=
  { waitingQueue with
    parts := vset State.reset.parts 0 { Machine.Part.none with exist := true, rings := 1, near := [(0, 1)] },
    vfs := vset State.reset.vfs 0 { Vf.reset with en := true, part := 0, nslot := 1, queues := [q] } }

/-- `LaunchEvents`: a doorbell that moves the tail, as far as the queue is long and one beyond; a head that is eligible, and one
whose record is bad; a wait that is over and one whose deadline lies ahead; a round with no head; a resumed troupe. -/
theorem wit_Launch :
    let q : LQueue := { LQueue.none with en := true, spc := true, lsz := 4, tail := 1 }
    let s := queued q
    let go : State := { s with hmem := [] }
    let l := { turnAt (fun tr => { tr with loading := true, loadedAt := 0, st := .restoring, vcc := 4096 }) [Core.launch] [] with wall := 4096 }
    (q.en = true ∧ q.prod = false ∧ ((16 : BitVec 32) - q.head).toNat ≤ 2 ^ q.lsz ∧ ¬ ((17 : BitVec 32) - q.head).toNat ≤ 2 ^ q.lsz ∧
      ((16 : BitVec 32) - q.tail).toNat < 2 ^ 31 ∧ (s.vf 0).part.toNat < 12) ∧
    (s.heads 0).filter (fun e => s.eligible 0 e.1 e.2.2) = [] ∧
    ((go.heads 0).map (fun e => (e.1, e.2.1, go.eligible 0 e.1 e.2.2)) = [(0, 0, true)] ∧
      (go.heads 0).all (fun e => match e.2.2 with
        | .fresh l b => (match (go.consume 0 0).check 0 0 l b with
          | .bad 5 => true
          | _ => false)
        | _ => false) = true) ∧
    (match s.headOf 0 ((s.vf 0).queue 0) with
      | some (.fresh l _) => l.wv && !s.waitOver 0 l && dlTicks l.wdl ≤ s.wall / 4096 - ((s.vf 0).queue 0).since / 4096
      | _ => false) = true ∧
    (go.freeSlot 0 = some 0 ∧ go.freeNumber = some 0 ∧ (go.place 0 0 0).isSome = true ∧ (go.place 0 6 8).isNone = true) ∧
    (∃ tr, l.troupe? 0 = some tr ∧ tr.loading = true ∧ tr.st = .restoring ∧ tr.loadedAt < l.wall ∧ tr.vcc.toNat % 4096 = 0) := by
  refine ⟨?_, ?_, ⟨?_, ?_⟩, ?_, ?_, _, rfl, rfl, rfl, ?_, ?_⟩ <;> decide +kernel

/-- `PartitionCommands`: each defect of a descriptor; partitions that share a ring, a VF and a frame; a VF that leaves its
partition; the acknowledged result. -/
theorem wit_Partitions :
    let p (r : Nat) (v : Nat) (n : List (Nat × Nat)) : Part :=
      { Machine.Part.none with exist := true, rings := BitVec.ofNat 64 r, vfs := BitVec.ofNat 96 v, near := n }
    let s : State := { State.reset with troupes := [{ troupeOf 0 (bundleStream []) Core.launch with st := .preempted, cores := [] }],
                                        vfs := vset State.reset.vfs 0 { Vf.reset with part := 0 },
                                        parts := vset State.reset.parts 0 (p 1 1 []), ptCmd := some { op := 4, id := 0, descs := [] }, ptSt := 2 }
    (BadDescriptor 12 ∧ BadDescriptor 0x10 ∧ BadDescriptor (BitVec.ofNat 512 (1023 * 2 ^ 256 + 2 ^ 266)) ∧ ¬ BadDescriptor (BitVec.ofNat 512 desc1)) ∧
    (Shared (p 1 0 []) (p 1 0 []) ∧ Shared (p 1 1 []) (p 2 1 []) ∧ Shared (p 1 0 [(3, 2)]) (p 2 0 [(4, 1)]) ∧ ¬ Shared (p 1 1 [(3, 1)]) (p 2 2 [(4, 1)])) ∧
    (s.ptCmd = some { op := 4, id := 0, descs := [] } ∧ (∀ tr ∈ s.troupes, tr.holdsCores = true → s.affects { op := 4, id := 0, descs := [] } tr = false) ∧
      (∃ tr, s.troupe? 0 = some tr ∧ tr.st = .preempted ∧ tr.vf < 96 ∧ (s.vf tr.vf).part ≠ 0xF) ∧ s.ptSt = 2) ∧
    (∀ tr ∈ s.troupes, tr.part < 12) := by
  refine ⟨⟨Or.inl ?_, Or.inr (Or.inl ?_), Or.inr (Or.inr (Or.inl ?_)), ?_⟩, ?_, ⟨rfl, ?_, ⟨_, rfl, rfl, ?_, ?_⟩, rfl⟩, ?_⟩
  · decide +kernel
  · decide +kernel
  · decide +kernel
  · unfold BadDescriptor; decide +kernel
  · unfold Shared; decide +kernel
  all_goals decide +kernel

/-- `Translations`: a read that a matching entry holds up, and none; a move of die 9 whose leaf still moves, and one whose leaf does
not; hints for a ring with room, for a full one and for a disabled one. -/
theorem wit_MovesMore :
    let rd : Fetch := fetchOf 0 (.ready [])
    let s : State := mapped (coreAt (withFetch rd) 2)
    let i : Option Nat × Nat × Nat := (some 0, 0, 1)
    let g (st pte : Nat) : Mig := { migOf st pte 0x400000 with die := 9 }
    let d (st pte : Nat) : State := { mapped State.reset with gateFt1 := true, migs := [g st pte] }
    let h (q : BitVec 64) (t : BitVec 32) : State := { mapped State.reset with hints := [(0, 5)] }.modBank 0 fun b => { b with mgHq := q, mgHTail := t }
    let va (q t : Nat) : Nat := q / 4096 * 4096 + 16 * (t % 2 ^ (q % 16))
    (s.readsOut = [(0, 0)] ∧ s.invMatch 0 i 0 0 1 = true ∧ s.invMatch 0 (some 0, 1, 1) 0 0 1 = false) ∧
    ((d 1 0x4010).dieDown 9 = true ∧ (d 1 0x4010).migOdd = false ∧ pteV ((d 1 0x4010).ptWord 0x4010) = true ∧
      pteMs ((d 1 0x4010).ptWord 0x4010) = 1 ∧ behindDie9 0x400000 = false ∧ behindDie9 (2 ^ 23) = false ∧
      pteMs ((d 1 0x4008).ptWord 0x4008) ≠ 1 ∧ behindDie9 (2 ^ 43 + 4 * 2 ^ 40) = true) ∧
    (∀ q t, (h q t).hints = [(0, 5)]) ∧ ((h 0x9004 15).migDie 0).isSome = true ∧ (h 0x9004 15).lowestVf 0 = some 0 ∧
    (fld (0x9004 : BitVec 64).toNat 0 4 = 4 ∧ (((h 0x9004 15).bank 0).mgHTail - ((h 0x9004 15).bank 0).mgHHead).toNat < 2 ^ 4 ∧
      2 ^ 4 ≤ (((h 0x9004 16).bank 0).mgHTail - ((h 0x9004 16).bank 0).mgHHead).toNat ∧ fld (0x9000 : BitVec 64).toNat 0 4 = 0 ∧
      ({ h 0x9004 15 with hints := [] } : State).writeFault 0 (va 0x9004 15) 16 = none) := by
  refine ⟨?_, ?_, fun _ _ => rfl, ?_, ?_, ?_⟩ <;> decide +kernel

/-- `Messages`: a message for a slot of a mailbox task, for a slot beyond its cores, and of a job without one; the answer to an
`xget`; markers that a publication awaits; a refusal of a message that waits and of one already acknowledged; a task whose page
is moving; a lost counter. -/
theorem wit_MessagesMore :
    let job : BitVec 352 := BitVec.ofNat 352 (5 * 2 ^ 112)
    let g : Cmd := { cmdOf (.xget 0 0x1000 128 0) with started := true }
    let j : Mark := { out := none, plane := 0, die := 0, seq := 1, sent := 0 }
    let c : Core := { withCmd g with pubMarks := some [j] }
    let s : State := { mapped (troupeAt (fun tr => { tr with image := { tr.image with m := 0 } }) [c] 2) with ctrs := [{ ctr5 with lost := true }] }
    let o (typ : BitVec 4) : OutMsg := { id := 12, msg := { msgOf typ 0 0 with dpkg := Config.pkgId + 1 }, plane := 0, part := none,
                                         injected := true, ports := [], first := 0, last := 0, src := .cmd (.core 0 0) 9 }
    let w : State := { s with out := [o 1] }
    let a : State := { s with acked := [o 0] }
    (s.mailbox 5 0 = some 0 ∧ s.mailbox 6 0 = none ∧ s.mailbox 5 1 = none ∧ msgJob (msgOf 5 job 0) = 5 ∧
      ∃ tr, s.troupe? 0 = some tr ∧ shapeSize tr.image.shape tr.image.m = some (1, 1)) ∧
    (s.agentOf (msgOf 2 (9 * 2 ^ 32) 0).ddie.toNat 0 = some (.core 0 0) ∧ s.core? (.core 0 0) = some c ∧
      c.cmd? (fld (9 * 2 ^ 32 : BitVec 352).toNat 32 32) = some g ∧ s.vfOf (.core 0 0) = some 0) ∧
    (c.wait = none ∧ c.pubMarks = some [j]) ∧
    (w.outMsg? 0 0 (Config.pkgId + 1) 0 0 = some (o 1) ∧ (o 1).msg.typ = 1 ∧ (o 1).src.agent = some (.core 0 0) ∧ w.away (.core 0 0) = false) ∧
    (a.outMsg? 0 0 (Config.pkgId + 1) 0 0 = none ∧ a.acked.find? (fun p => p.named 0 0 (Config.pkgId + 1) 0 0) = some (o 0)) ∧
    (s.vfCounter 0 5 = some { ctr5 with lost := true } ∧ s.writeWaits 0x400000 0x4007DB = true ∧ s.writeWaits 0x1FFFC0 0x3DB = false) := by
  refine ⟨⟨?_, ?_, ?_, ?_, _, rfl, ?_⟩, ⟨?_, rfl, ?_, ?_⟩, ⟨rfl, rfl⟩, ⟨?_, rfl, rfl, ?_⟩, ⟨rfl, ?_⟩, ?_⟩
  case refine_9 => simp [State.outMsg?, OutMsg.named, msgOf]
  case refine_11 => simp [OutMsg.named, msgOf]
  all_goals decide +kernel

/-- `Messages`: a message on a dead plane; one for another package, which the ports lead to or do not, whatever the id of this one;
one accepted before. -/
theorem wit_MessagesNotTaken :
    let s (p : Port) : State := { State.reset with ports := vset State.reset.ports 0 p }
    let p : Port := { port7 with rtA := [(7, (1#64 <<< 63) ||| 7), (8, (1#64 <<< 63) ||| 8)] }
    let m : Msg := msgOf 0 0 3
    let e : State := { State.reset with expect := [(msgKey m, 4)] }
    (∃ k ∈ [7, 8], k ≠ Config.pkgId) ∧ ((s p).leading none 0 7 ≠ [] ∧ (s p).leading none 0 8 ≠ []) ∧
    ((s Port.reset).leading none 0 7 = [] ∧ (s Port.reset).leading none 0 8 = []) ∧
    (({ s p with live := 7 } : State).planeDead 3 = true ∧ ({ s p with live := 7 } : State).planeDead 0 = false) ∧ msgBad m = false ∧
    (e.expected m = 4 ∧ m.seq ≠ 4 ∧ e.seenSeq m = true) ∧ ({ m with seq := 5 } : Msg).seq ≠ 4 := by
  refine ⟨?_, ?_, ?_, ?_, ?_, ⟨?_, ?_, ?_⟩, ?_⟩
  · by_cases h : (7 : BitVec 16) = Config.pkgId
    · exact ⟨8, by simp, by rw [← h]; decide⟩
    · exact ⟨7, by simp, h⟩
  · decide +kernel
  · decide +kernel
  · decide +kernel
  · decide
  · simp [State.expected]
  · decide
  · simp [State.seenSeq, State.expected, msgOf]
  · decide

/-- `PlanesAndEdges`: the oldest message of a stream and a later one, both due; a link that is down; a peer's access that HP_CFG
does not allow. -/
theorem wit_PlanesMore :
    let o (i : Nat) : OutMsg := { id := i, msg := { msgOf 0 0 0 with dpkg := 7, spkg := 1 }, plane := 0, part := none, injected := true,
                                  ports := [], first := 0, last := 0, src := .system }
    let s : State := { State.reset with ports := vset State.reset.ports 0 port7, out := [o 12, o 13], wall := 0x10000,
                                        linksDown := [(16, 3)] }
    (s.planeDead 0 = false ∧ s.routeUp (o 12) = true ∧ (o 12).last + s.tmo.toNat / 16 ≤ s.wall ∧ (o 12).last < s.wall) ∧
    (((s.streamMsgs (o 12)).all fun p => decide ((o 12).id ≤ p.id)) = true ∧ (o 12).id ≠ (o 13).id) ∧
    (16, 3) ∈ s.linksDown := by
  refine ⟨?_, ?_, ?_⟩ <;> decide +kernel

/-- `OpticalPorts`: commands that end, of a wavelength at each end of the range; loss of a mapped signal; two ports of a topology
command that train, one whose map has a wavelength twice, and one whose peer is another. -/
theorem wit_OpticalEnds :
    let p (op wl : BitVec 4) (st : BitVec 4) : Port := { Port.reset with st := st, busy := some (op, wl) }
    let body : List Byte := leBytes 12 (2 + 5 * 2 ^ 64) ++ leBytes 4 5 ++ tab 48 (fun _ => 0) ++ leBytes 16 0 ++ leBytes 16 1
    let c : Topo := { id := 1, vf := 0, launch := Launch.none, asid := 0, body := body, since := 0, started := true }
    let s : State := { State.reset with topo := [c], ctrs := [ctr5], ports := vset State.reset.ports 1 { Port.reset with lmap := 0 } }
    let trained (q : Nat) : Bool := (laneWls (s.port q).lmap).eraseDups.length == 8 && (laneWls (s.port q).lmap).all (· ≤ 8)
    (∀ op ∈ [1, 2, 3, 4, 5, 7, 8], 1 ≤ (op : BitVec 4).toNat ∧ op.toNat ≤ 8 ∧ op ≠ 6 ∧ (p op 8 1).busy = some (op, 8)) ∧
    ((p 6 0 4).busy = some (6, 0) ∧ State.reset.portQuiet 0 = true) ∧
    ((p 6 0 4).st = 4 ∧ (7 : Nat) ∈ laneWls Port.reset.lmap) ∧
    (topoEntries c.body = [(0, 0), (1, 0)] ∧ ((topoEntries c.body).map (·.1)).Nodup ∧ (∀ e ∈ topoEntries c.body, e.1 < 16) ∧
      s.topoGo c = true ∧ trained 0 = true ∧ trained 1 = false) := by
  refine ⟨?_, ?_, ?_, ?_⟩ <;> decide +kernel

/-- `ResetsAndMonitors`, `Mailbox`: the firmware reads 0x0000_1A2B_8000_0640 in a sensor (R401); a write of the response with a
forwarded command in hand and without; commands that end with a target that the voltage carries and one that it does not. -/
theorem wit_MailboxEnds :
    let s (op : BitVec 8) (vi : BitVec 2) : State :=
      { State.reset with mbDone := false, mbBusy := true, mbCmd := op.zeroExtend 64, booted := true, mbArgs := gen 8 fun _ => 0,
                         vi := gen 10 fun _ => vi }
    let t : BitVec 64 := 0x00001A2B80000640
    (t.toNat / 2 ^ 32 = 0x1A2B ∧ t.getLsbD 31 = true ∧ (t.truncate 16 : BitVec 16) = 1600) ∧
    (∀ op vi, (s op vi).mbDone = false ∧ (s op vi).mbBusy = true ∧ (s op vi).mbOp = op) ∧
    ((s 0x10 0).targetOk ≠ (s 0x10 3).targetOk) ∧ State.reset.mbDone = true := by
  refine ⟨?_, fun _ _ => ⟨rfl, rfl, by simp [State.mbOp]⟩, ?_, ?_⟩ <;> decide +kernel

/-- `StepRunsInstruction`: a drive that is set aside, and the same once every troupe has had its turn; a routine word that stands
for word 5. -/
theorem wit_StepAside :
    let w : List Nat := [0, 0, 0, 0, 0, 0, 0x40 * 2 ^ 56]
    let s (l : Option (List (Nat × Nat))) : State := { turnAt id [{ Core.launch with late := l }] w with cursor := .word 0 0 6 }
    (∀ l, (s l).core? (.core 0 0) = some { Core.launch with late := l }) ∧ isCalliope 6 ((s none).word (.core 0 0) Core.launch 6) = true ∧
    decodeSlot 6 ((s none).word (.core 0 0) Core.launch 6) = .ok (.cdrive t0 0) ∧ Core.launch.failed = false ∧ Core.launch.stop = none ∧
    Core.launch.done.getLsbD 6 = false ∧ Core.launch.rtnOn = none :=
  ⟨fun _ => rfl, by decide +kernel, by decide +kernel, rfl, rfl, by decide +kernel, rfl⟩

/-! ## Witnesses of rounding, sorting and restoring -/

theorem toNat_code (n E M : Nat) (hn : n < 2) (hE : 0 < E ∧ E < 255) (hM : M < 2 ^ 23) :
    (BitVec.ofNat 32 (n * 2 ^ 31 + E * 2 ^ 23 + M)).toNat = n * 2 ^ 31 + E * 2 ^ 23 + M := by
  have h : n * 2 ^ 31 + E * 2 ^ 23 + M < 2 ^ 32 := by omega
  rw [BitVec.toNat_ofNat, Nat.mod_eq_of_lt h]

theorem isFin_code (n E M : Nat) (hn : n < 2) (hE : 0 < E ∧ E < 255) (hM : M < 2 ^ 23) :
    IsFin (BitVec.ofNat 32 (n * 2 ^ 31 + E * 2 ^ 23 + M)) := by
  have h1 : (n * 2 ^ 31 + E * 2 ^ 23 + M) / 2 ^ 23 % 2 ^ 8 = E := by omega
  intro h
  have := congrArg BitVec.toNat h
  rw [BitVec.extractLsb'_toNat, toNat_code n E M hn hE hM, Nat.shiftRight_eq_div_pow, h1] at this
  simp at this; omega

/-- The value of a code that is not subnormal, by sign, exponent and fraction. -/
theorem fval_code (n E M : Nat) (hn : n < 2) (hE : 0 < E ∧ E < 255) (hM : M < 2 ^ 23) :
    fval (BitVec.ofNat 32 (n * 2 ^ 31 + E * 2 ^ 23 + M)) = (if n = 1 then -1 else 1) * ((2 ^ 23 + M) * 2 ^ ((E : Int) - 127 - 23)) := by
  have e := toNat_code n E M hn hE hM
  have h1 : (n * 2 ^ 31 + E * 2 ^ 23 + M) / 2 ^ 23 % 2 ^ 8 = E := by omega
  have h2 : (n * 2 ^ 31 + E * 2 ^ 23 + M) % 2 ^ 23 = M := by omega
  have h3 : (n * 2 ^ 31 + E * 2 ^ 23 + M) / 2 ^ 31 % 2 = n := by omega
  have hm : FF.mb .fp32 = 23 := rfl
  have hb : FF.eb .fp32 = 8 := rfl
  have hi : FF.bias .fp32 = 127 := by decide
  unfold fval codeVal
  simp only [e, hm, hb, hi, h1, h2, h3, show 8 + 23 = 31 from rfl]
  rw [if_neg (by omega : ¬ E = 0)]
  push_cast
  ring

/-- `SpecialFunctionValues`: an operand of every binade of normal numbers, with every fraction and both signs; one of −150, the
greatest below 128, 128 itself, 2^−12 and the number before it; entries that are not both zero. -/
theorem wit_SpecialFunctionValues :
    (∀ (n : Nat) (k : Int) (m : Nat), n < 2 → -126 ≤ k → k ≤ 127 → m < 2 ^ 23 →
      ∃ b : BitVec 32, IsFin b ∧ |fval b| = (2 ^ 23 + m) * 2 ^ (k - 23) ∧ fval b = (if n = 1 then -1 else 1) * |fval b|) ∧
    (fval 0xC3160000 = -150 ∧ fval 0x43000000 = 128 ∧ fval 0x42FFFFFF < 128 ∧ fval 0xC3160001 < -150) ∧
    (fval 0x39800000 = 2 ^ (-12 : Int) ∧ fval 0x397FFFFF < 2 ^ (-12 : Int) ∧ 0 < fval 0x397FFFFF) ∧ ((1 : Int) ≠ 0 ∨ (0 : Int) ≠ 0) := by
  refine ⟨fun n k m hn hk1 hk2 hm => ?_, ?_, ?_, Or.inl one_ne_zero⟩
  · obtain ⟨E, rfl⟩ : ∃ E : Nat, k = (E : Int) - 127 := ⟨(k + 127).toNat, by omega⟩
    have h1 := isFin_code n E m hn ⟨by omega, by omega⟩ hm
    have h2 := fval_code n E m hn ⟨by omega, by omega⟩ hm
    have ha : |fval (BitVec.ofNat 32 (n * 2 ^ 31 + E * 2 ^ 23 + m))| = (2 ^ 23 + m) * 2 ^ ((E : Int) - 127 - 23) := by
      have hp : (0 : ℚ) < (2 ^ 23 + m) * 2 ^ ((E : Int) - 127 - 23) := by positivity
      rw [h2, abs_mul, abs_of_pos hp]
      split <;> simp
    exact ⟨_, h1, ha, by rw [ha, h2]⟩
  · have h (n E M : Nat) (hn : n < 2) (hE : 0 < E ∧ E < 255) (hM : M < 2 ^ 23) := fval_code n E M hn hE hM
    have h1 := h 1 134 0x160000 (by decide) (by decide) (by decide)
    have h2 := h 0 134 0 (by decide) (by decide) (by decide)
    have h3 := h 0 133 0x7FFFFF (by decide) (by decide) (by decide)
    have h4 := h 1 134 0x160001 (by decide) (by decide) (by decide)
    norm_num at h1 h2 h3 h4
    refine ⟨h1, h2, ?_, ?_⟩
    · rw [show (0x42FFFFFF : BitVec 32) = 1124073471#32 from rfl, h3]; norm_num
    · rw [show (0xC3160001 : BitVec 32) = 3272998913#32 from rfl, h4]; norm_num
  · have h (n E M : Nat) (hn : n < 2) (hE : 0 < E ∧ E < 255) (hM : M < 2 ^ 23) := fval_code n E M hn hE hM
    have h1 := h 0 115 0 (by decide) (by decide) (by decide)
    have h2 := h 0 114 0x7FFFFF (by decide) (by decide) (by decide)
    norm_num at h1 h2
    refine ⟨?_, ?_, ?_⟩
    · rw [show (0x39800000 : BitVec 32) = 964689920#32 from rfl, h1]; norm_num
    · rw [show (0x397FFFFF : BitVec 32) = 964689919#32 from rfl, h2]; norm_num
    · rw [show (0x397FFFFF : BitVec 32) = 964689919#32 from rfl, h2]; norm_num

/-- `RoundedResults`: the greatest finite code, both zeros and a subnormal one; a sum of terms; an infinite and a finite operand;
descriptors that suit each kind of conversion. -/
theorem wit_RoundedResults :
    (IsFin 0x7F7FFFFF ∧ IsFin 0 ∧ IsFin 0x80000000 ∧ IsFin 0x00000001 ∧ ¬ IsFin 0x7F800000) ∧
    (([0x3F800000, 0xFF7FFFFF] : List (BitVec 32)) ≠ [] ∧ ∀ b ∈ ([0x3F800000, 0xFF7FFFFF] : List (BitVec 32)), IsFin b) ∧
    (IsInf 0xFF800000 ∧ (0x3F800000 : BitVec 32).extractLsb' 0 31 ≠ 0) ∧ (1 : Nat) ≠ 0 ∧
    (fmtLegal (Core.launch.rf 5) = true ∧ (cvtElem .fi .rne (Core.launch.rf 5)).isSome = true ∧
      fmtLegal (Core.launch.rf 6) = true ∧
      (cvtElem .if' .rne (Core.launch.rf 6)).isSome = true) ∧
    (∀ f ∈ ([1, 2, 3, 4] : List FReg), fmtLegal (Core.launch.rf f) = true ∧ (cvtElem .ff .rtz (Core.launch.rf f)).isSome = true) := by
  refine ⟨?_, ⟨?_, ?_⟩, ?_, ?_, ?_, ?_⟩
  · unfold IsFin; decide
  · simp
  · intro b hb
    simp only [List.mem_cons, List.not_mem_nil, or_false] at hb
    rcases hb with rfl | rfl <;> (unfold IsFin; decide)
  · unfold IsInf; decide
  all_goals decide +kernel

/-- `Solver`: addresses of which each two name one bank and one word, or one bank and two words: an element that is first, one
served as an echo, and one that is not served. -/
theorem wit_SolvePattern :
    let v := (withV1 fun e => BitVec.ofNat 32 (e / 2 * 4 + (if e = 3 then 4096 else 0))).rv 1
    let m := BitVec.allOnes 1024
    let bank (e : Nat) : Nat := (el v e).toNat / 4 % 1024
    (∀ e, e < 1024 → (el v e).toNat < 2 ^ 23 ∧ (el v e).toNat % 4 = 0) ∧
    (Served v m 0 ∧ Served v m 1 ∧ bank 0 = bank 1 ∧ ¬ Served v m 3) ∧ (∀ e', e' < 0 → bank e' ≠ bank 0) := by
  intro v m bank
  have he (e : Nat) (h : e < 1024) : el v e = BitVec.ofNat 32 (e / 2 * 4 + (if e = 3 then 4096 else 0)) := rv_withV1 _ _ rfl e h
  have hm (e : Nat) (h : e < 1024) : m.getLsbD e = true := by
    show (BitVec.allOnes 1024).getLsbD e = true
    rw [BitVec.getLsbD_allOnes]
    exact decide_eq_true h
  refine ⟨fun e h => ?_, ⟨⟨hm 0 (by decide), ?_⟩, ⟨hm 1 (by decide), ?_⟩, ?_, ?_⟩, ?_⟩
  · rw [he e h]
    rw [BitVec.toNat_ofNat, Nat.mod_eq_of_lt (by split <;> omega)]
    split <;> omega
  · intro e' h; omega
  · intro e' h _ _ _
    have : e' = 0 := by omega
    subst this
    rw [he 0 (by decide), he 1 (by decide)]
    rfl
  · show (el v 0).toNat / 4 % 1024 = (el v 1).toNat / 4 % 1024
    rw [he 0 (by decide), he 1 (by decide)]
    rfl
  · rintro ⟨-, h⟩
    have := h 2 (by decide) (hm 2 (by decide)) (by rw [he 2 (by decide), he 3 (by decide)]; decide) (fun e'' h2 _ => by
      have : e'' = 0 ∨ e'' = 1 := by omega
      rcases this with rfl | rfl
      · rw [he 0 (by decide), he 3 (by decide)]; decide
      · rw [he 1 (by decide), he 3 (by decide)]; decide)
    rw [he 2 (by decide), he 3 (by decide)] at this
    exact absurd this (by decide)
  · intro e' h; omega

/-- `SortOrders`: the ends of the ranges of k and B; images whose terms are finite, and whose first two are the infinities. -/
theorem wit_SortOrders :
    (0 ≤ 1024 ∧ 1024 ≤ 1024 ∧ 1 ≤ 1 ∧ 256 ≤ 256 ∧ KeyT.f32 ≠ .u32 ∧ KeyT.i32 ≠ .u32) ∧
    (let v := (withV1 fun _ => 0x3F800000).rv 1
     ∀ b ∈ ((List.range 1024).filter fun e => takes .f32 v (BitVec.allOnes 1024) e).map fun e => el v e, IsFin b) ∧
    (let v := (withV1 fun e => if e = 0 then 0x7F800000 else 0xFF800000).rv 1
     ∃ l, l = (((List.range 2).filter fun e => takes .f32 v (BitVec.allOnes 1024) e).map fun e => el v e) ∧ 0x7F800000 ∈ l ∧ 0xFF800000 ∈ l) := by
  refine ⟨by decide, ?_, ?_⟩
  · intro v b hb
    obtain ⟨e, he, rfl⟩ := List.mem_map.1 hb
    have h : e < 1024 := List.mem_range.1 (List.mem_filter.1 he).1
    rw [show el v e = 0x3F800000 from rv_withV1 _ _ rfl e h]
    unfold IsFin; decide
  · intro v
    have h0 : el v 0 = 0x7F800000 := rv_withV1 _ (fun e => if e = 0 then 0x7F800000 else 0xFF800000) rfl 0 (by decide)
    have h1 : el v 1 = 0xFF800000 := rv_withV1 _ (fun e => if e = 0 then 0x7F800000 else 0xFF800000) rfl 1 (by decide)
    have t0 : takes .f32 v (BitVec.allOnes 1024) 0 = true := by unfold takes; rw [h0]; decide +kernel
    have t1 : takes .f32 v (BitVec.allOnes 1024) 1 = true := by unfold takes; rw [h1]; decide +kernel
    refine ⟨_, rfl, ?_, ?_⟩
    · exact List.mem_map.2 ⟨0, List.mem_filter.2 ⟨by decide, t0⟩, h0⟩
    · exact List.mem_map.2 ⟨1, List.mem_filter.2 ⟨by decide, t1⟩, h1⟩

/-- `InversesRestore`: operands that do not escape, the exact halves of a sum and a product, and a negative one of `rleak`. -/
theorem wit_FloatPairsRestore :
    (raddFwd 0x3F800000 0x3F800001).esc = false ∧ (rmulFwd 0x3F800001 0x40400000).esc = false ∧
    (rleakFwd false 31 0xBF800000).esc = false ∧ IsFin 0xBF800000 ∧ (0xBF800000 : BitVec 32).getLsbD 31 = true ∧
    (0x3F800000 : BitVec 32).getLsbD 31 = false ∧ ¬ IsNan 0x3F800000 := by
  unfold IsFin IsNan
  refine ⟨?_, ?_, ?_, ?_, ?_, ?_, ?_⟩ <;> decide +kernel

/-! ## Witnesses of planes, of what waits, and of poison -/

/-- `Counters`, `CounterManagement`: a plane that carries a report; an engine that runs, and one on a gated die; a counter that
moves and one that stays; an operation that stands at its engine. -/
theorem wit_CounterPlanes :
    (coreAt Core.launch 2).planeFree (ctrAddr 5) = true ∧
    (State.reset.engineOff (BitVec.ofNat 32 (9 * 2 ^ 28)) = false ∧ ({ State.reset with gateNear := 1 } : State).engineOff 0 = true) ∧
    (({ State.reset with move := some (0, 9) } : State).ctrMoving 5 = true ∧ State.reset.ctrMoving 5 = false) ∧
    Posted { ctrState (.wait 8) [ctr5] with ctrOps := [{ opOf (.wait 8) with stands := true }] } { opOf (.wait 8) with stands := true } := by
  refine ⟨?_, ⟨?_, ?_⟩, ⟨?_, ?_⟩, ⟨rfl, ?_, ?_, Or.inl rfl⟩⟩ <;> decide +kernel

/-- `MemoryEvents`, `CopyEngines`: the tables of a load, of a product and of a piece can be reached, the product's pages too. -/
theorem wit_TablesReached :
    let g : Gemv := { id := 9, iss := 0, baddr := 0, rem := false, land := 0, nb := 2, k := 32, ctr := 0, a := 0, bva := 0, f := 1,
                      abytes := [], arrived := 1, snap := [], own := [], st := .ready [], next := 0 }
    let k : Cmd := { cmdOf (.xfill false 0 0x1000 4096) with started := true, total := 1 }
    let s : State := mapped (coreAt Core.launch 2)
    let cx := s.ctx (.core 0 0)
    (∀ b : Bool, ∀ va ∈ (fetchOf 0 .walking).pages, s.tablesDown cx va (.of b) = false) ∧
    (∀ b : Bool, ∀ va ∈ g.pages, s.tablesDown cx va (.of b) = false) ∧ s.anyPortDown cx g.pages = false ∧
    (∀ b : Bool, ∀ va ∈ k.piecePages 0, s.tablesDown (s.cmdCtx (.core 0 0) k) va (.of b) = false) := by
  refine ⟨?_, ?_, ?_, ?_⟩ <;> decide +kernel

/-- `MemoryEvents`: an entry of whose bytes a later store has taken all. -/
theorem wit_CutEntry :
    let e : Egress := { egressOf 1 with va := 0x1FFFFF, bytes := [none], inPath := true, cut := true }
    let c : Core := { Core.launch with egress := [e] }
    e.cut = true ∧ (mapped (coreAt c 2)).drainNext (.core 0 0) c = some e ∧ c.egress = [] ++ e :: [] := by
  refine ⟨rfl, ?_, rfl⟩; decide +kernel

/-- `CopyEngines`, `MessagesAndBatches`: the planes that carry a piece, an entry of a store buffer and a record, and in a quiesce
carry none. -/
theorem wit_CopyPlanes :
    let k : Cmd := { cmdOf (.xfill true 0 0 8192) with started := true, total := 2 }
    let s : State := mapped (coreAt Core.launch 6)
    let q : State := { s with qs := some (1, 0), qsFrom := 5 }
    (∀ g ∈ k.source 1, s.hostFree (g.1.getD 0) g.2 = true) ∧ s.pageFree 0x1FF000 = true ∧
    (s.planeFree 0x1FFFC0 = true ∧ q.planeFree 0x1FFFC0 = false) ∧
    (s.planeOpen 0x1FFFF8 9 = true ∧ q.planeOpen (0x1FFFF8 ||| 512) 5 = false) := by
  refine ⟨?_, ?_, ?_, ?_⟩ <;> decide +kernel

/-- `MessagesAndBatches`: an entry on a counter that its plane carries; the first of a batch on far memory that returns poison,
before any failure, and an entry behind one. -/
theorem wit_BatchPoison :
    let k : Cmd := { cmdOf (.xbat .add 0 2 none) with started := true }
    let e : AtomicE := { id := 7, agent := .core 0 0, cmd := 9, idx := 0, op := .add, tgt := 2 ^ 43, pa := some (2 ^ 43), opnd := 1, ret := false }
    let s : State := { mapped (coreAt (withCmd k) 6) with atoms := [e], ctrs := [ctr5] }
    s.ctrOpen { id := 7, handle := 5, kind := .clear, src := .cmd (.core 0 0) 9, sent := 0 } = true ∧ s.ctrMoving 5 = false ∧
    (k.op = .xbat .add 0 2 none ∧ (∀ f, k.failed = some f → e.idx < f.2.2.1) ∧ e.pa = some (2 ^ 43) ∧ s.portDown (2 ^ 43) = false ∧
      isFar (2 ^ 43) = true ∧ s.planeOpen (2 ^ 43) e.sent = true ∧
      (s.atoms.find? fun f => f.agent == e.agent && f.cmd == e.cmd && f.idx == e.idx && !f.op.onCounter) = some e) ∧
    ¬ (∀ f, ({ k with failed := some (0x0B, 0, 0, 0) } : Cmd).failed = some f → e.idx < f.2.2.1) := by
  refine ⟨?_, ?_, ⟨rfl, ?_, rfl, ?_, ?_, ?_, ?_⟩, ?_⟩
  case refine_3 => rintro f hf; cases hf
  case refine_8 => intro h; exact absurd (h _ rfl) (by decide)
  all_goals decide +kernel

/-- `SavingAndRetirement`: a save region that can be reached; a core of a save and of a restore routine that has ended with an
effect in flight, beside one with none. -/
theorem wit_RoutineViolation :
    let p : Pend := { due := 9, iss := 0, word := 2, baddr := 0, act := .flagsOnly, flags := 0, rtn := none }
    let o : Core := { Core.launch with routineDone := true }
    let b : Core := { o with pend := [p], rank := 1 }
    let s (st : TSt) : State := { turnAt (fun tr => { tr with st := st }) [o, b] [] with cursor := .troupe 0 }
    (∀ st ∈ [TSt.saving, .restoring], ∃ tr, (s st).troupe? 0 = some tr ∧ (s st).cursor = .troupe 0 ∧ tr.st = st ∧ tr.loading = false ∧
      tr.realign = false ∧ tr.cores = [o, b] ∧ (∀ c ∈ tr.cores, c.routineDone = true ∧ c.raised = [] ∧ c.wait = none) ∧
      (b.fin = none ∧ b.inFlight tr.adv (st == .saving) = true) ∧ o.inFlight tr.adv (st == .saving) = false) ∧
    (∃ tr, (mapped (s .saving)).troupe? 0 = some tr ∧ (mapped (s .saving)).saveWaits tr = false) := by
  refine ⟨fun st hst => ⟨_, rfl, rfl, rfl, rfl, rfl, rfl, ?_⟩, _, rfl, ?_⟩
  · simp only [List.mem_cons, List.not_mem_nil, or_false] at hst
    rcases hst with rfl | rfl <;> decide +kernel
  · decide +kernel

/-- `HoldsAndRecords`: a slot of the fault queue that can be reached, and one that a quiesce or a gated stack keeps away. -/
theorem wit_RecordReached :
    let s : State := turnAt (fun tr => { tr with recs := [7] }) [Core.launch] []
    (s.portDown 0 = false ∧ s.planeFree 0 = true) ∧ ({ s with qs := some (1, 0) } : State).planeFree 0 = false ∧
    ({ s with gateStk := 1 } : State).portDown 0 = true := by
  refine ⟨?_, ?_, ?_⟩ <;> decide +kernel

/-- `HoldsAndRecords`: a fault of word 7 inside a routine; a pre-emption whose first unfinished core is the second; a wait issued
in the cycle before, with each report. -/
theorem wit_RecordFields :
    let f : Raised := { cause := 0x14, sub := 0, word := some 7, deferred := true, done := 0xFF, baddr := 64, addr := 0, aux0 := 1, aux1 := 2,
                        hnd := 5, code := 0, hcs := 0, rtnw := false, kill := false }
    let tr : Troupe := { troupeOf 0 (bundleStream []) Core.launch with
      cores := [{ Core.launch with fin := some 0 }, { Core.launch with rank := 1 }], kept := [(64, some 0), (128, none)] }
    ((∀ w, f.word = some w → w < 8) ∧ tr.rcount < 2 ^ 64) ∧
    (tr.cores[1]? = some { Core.launch with rank := 1 } ∧ ({ Core.launch with rank := 1 } : Core).fin = none ∧
      (∀ j < 1, ∀ k, tr.cores[j]? = some k → k.fin ≠ none) ∧ tr.kept[1]? = some (128, none)) ∧
    (∀ r, let w : Wait := { waitOf (.target 8) none 0 with report := some r }
      ({ Core.launch with wait := some w } : Core).wait = some w ∧ w.iss < 1 ∧ w.report = some r) := by
  refine ⟨⟨?_, ?_⟩, ⟨rfl, rfl, ?_, rfl⟩, fun r => ⟨rfl, Nat.zero_lt_one, rfl⟩⟩
  · rintro w hw; cases hw; decide
  · decide
  · intro j hj k hk
    have : j = 0 := by omega
    subst this
    cases hk
    decide

/-- `BundleIssue`: a core at the end of its stream outside and inside a routine, and beyond it; a bundle with a word to issue, and
one that idles. -/
theorem wit_BundleEnds :
    let e (pc : Nat) : Core := { Core.launch with pc := pc }
    let s (st : TSt) (pc : Nat) (w : List Nat) : State := turnAt (fun tr => { tr with st := st }) [e pc] w
    (∃ tr, (s .running 256 []).troupe? 0 = some tr ∧ tr.inRoutine = false ∧ (s .running 256 []).streamEnd (.core 0 0) = (e 256).pc ∧
      (s .running 320 []).streamEnd (.core 0 0) ≤ (e 320).pc ∧ (e 256).idle = false ∧ (e 256).done ≠ 0xFF) ∧
    (∃ tr, (s .saving 256 []).troupe? 0 = some tr ∧ tr.inRoutine = true ∧ (e 256).pc = (s .saving 256 []).streamEnd (.core 0 0)) ∧
    (∃ tr, (s .running 0 [0, 0, 0x0100620A00000000]).troupe? 0 = some tr ∧
      (s .running 0 [0, 0, 0x0100620A00000000]).bundleFault (.core 0 0) (e 0) = none ∧
      (s .running 0 [0, 0, 0x0100620A00000000]).marked (.core 0 0) (e 0) = false ∧
      (e 0).pc < (s .running 0 [0, 0, 0x0100620A00000000]).streamEnd (.core 0 0)) ∧
    (s .running 0 []).allZero (.core 0 0) (e 0) = true := by
  refine ⟨⟨_, rfl, ?_⟩, ⟨_, rfl, ?_⟩, ⟨_, rfl, ?_⟩, ?_⟩ <;> decide +kernel

/-- `ResultsPerform`: nothing has performed yet; a task that retires takes no share, one with a status does. -/
theorem wit_NothingPerformed : Core.launch.wrote = [] ∧ Core.launch.fetches = [] ∧ TSt.running ≠ .retiring ∧ ¬ TSt.retiring ≠ .retiring :=
  ⟨rfl, rfl, by decide, by decide⟩
/-- `PartitionCommands`: MODE with one descriptor out of its place and eleven that name nothing; one named twice; a change of a
partition whose task holds cores. -/
theorem wit_ModeSets :
    let s : State := { State.reset with gmem := Mem.write [] 320 (leBytes 64 desc1) }
    let d : State := { State.reset with gmem := Mem.write (Mem.write [] 320 (leBytes 64 desc1)) 0 (leBytes 64 desc1) }
    let ds (z : State) (k : Nat) : BitVec 512 := BitVec.ofNat 512 (z.latest.num (64 * k) 64)
    let names (z : State) (k j : Nat) : Prop := (ds z k).extractLsb' 4 508 ≠ 0 ∧ ((ds z k).extractLsb' 0 4).toNat = j
    let v : List (BitVec 512) := tab 12 fun j => if j = 1 then BitVec.ofNat 512 desc1 else 0
    let busy : State := { s with troupes := [{ troupeOf 0 (bundleStream []) Core.launch with part := 1 }] }
    (v.length = 12 ∧ (∀ j w, v[j]? = some w → (∀ k < 12, names s k j → (∀ i < k, ¬ names s i j) → w = ds s k) ∧
      ((∀ k < 12, ¬ names s k j) → w = 0)) ∧ (∀ k < 12, names s k 1 ↔ k = 5)) ∧
    (∃ k < 12, ∃ i < k, ∃ j, names d k j ∧ names d i j) ∧
    (∃ tr ∈ busy.troupes, tr.part < 12 ∧ v.getD tr.part 0 ≠ (busy.part tr.part).desc ∧ tr.live = true ∧ tr.cores ≠ []) := by
  intro s d ds names v busy
  have h5 : ∀ k < 12, (ds s k).extractLsb' 4 508 ≠ 0 ↔ k = 5 := by decide +kernel
  have e5 : ((ds s 5).extractLsb' 0 4).toNat = 1 := by decide +kernel
  have v5 : ds s 5 = BitVec.ofNat 512 desc1 := by decide +kernel
  refine ⟨⟨by simp [v], fun j w hw => ?_, fun k hk => ⟨fun h => (h5 k hk).1 h.1, ?_⟩⟩, ⟨5, by decide, 0, by decide, 1, ?_, ?_⟩, ?_⟩
  · simp only [v, getElem?_tab] at hw
    split at hw
    · cases hw
      refine ⟨fun k hk hn _ => ?_, fun hn => ?_⟩
      · have : k = 5 := (h5 k hk).1 hn.1
        subst this
        have : j = 1 := by rw [← hn.2, e5]
        simp [this, v5]
      · split
        · rename_i hj
          subst hj
          exact absurd ⟨(h5 5 (by decide)).2 rfl, e5⟩ (hn 5 (by decide))
        · rfl
    · cases hw
  · rintro rfl
    exact ⟨(h5 5 (by decide)).2 rfl, e5⟩
  · refine ⟨?_, ?_⟩ <;> decide +kernel
  · refine ⟨?_, ?_⟩ <;> decide +kernel
  · refine ⟨_, List.mem_cons_self, ?_, ?_, ?_, ?_⟩ <;> decide +kernel

/-- `Translations`: a ring, a page's tables, a command's slot and a hint's slot that can be reached. -/
theorem wit_MovesReached :
    let s := moving (2 ^ 23)
    let n := leNat (moveWords (2 ^ 23))
    let m : State := { mapped State.reset with migs := [migOf 4 0x4010 0x400000] }
    let h : State := { mapped State.reset with hints := [] }
    (s.unitWaits 0 0x9000 32 = false ∧ s.tablesDown (unitCtx (fld n 64 14)) (fld n 128 57) .tables = false) ∧
    m.unitWaits (migOf 4 0x4010 0x400000).ringAsid (migOf 4 0x4010 0x400000).cmdVa 2 = false ∧ h.unitWaits 0 (0x9000 + 16 * 15) 16 = false := by
  refine ⟨?_, ?_, ?_⟩ <;> decide +kernel

/-- `Messages`: an access whose tables can be reached, with the first and the last alias class; an answer that names the
marker of its die, and one that names none; a marker of another package. -/
theorem wit_MarkersAndClasses :
    let job (ac : Nat) : BitVec 352 := BitVec.ofNat 352 (ac * 2 ^ 97 + 5 * 2 ^ 112)
    let s := mapped State.reset
    let k : Mark := { out := some 12, plane := 0, die := 0, seq := 0, sent := 0 }
    let j : Mark := { out := none, plane := 0, die := 3, seq := 4, sent := 0 }
    let c : Core := { Core.launch with wait := some { waitOf (.phase 4) none 0 with markers := [k, j] } }
    let own (q : Nat) : Msg := { msgOf 7 (BitVec.ofNat 352 (q * 2 ^ 16)) 0 with spkg := Config.pkgId, sdie := 3 }
    let inside (q : Nat) (k : Mark) : Prop := k.out = none ∧ (own q).spkg = Config.pkgId ∧ k.plane = (own q).pln.toNat ∧
      k.die = (own q).sdie.toNat ∧ k.seq = bv (own q).inl.toNat 16 16
    let o : OutMsg := { id := 12, msg := { msgOf 6 0 0 with dpkg := Config.pkgId + 1, spkg := Config.pkgId }, plane := 0, part := none,
                        injected := true, ports := [], first := 0, last := 0, src := .system }
    (s.tablesDown (unitCtx 0) 0x1FFFC0 .tables = false ∧
      (s.translate (unitCtx 0) 0x1FFFC0 .wr (some (bv (job 0).toNat 97 2)) .tables).toOption = some (0x1FFFC0, 0x3DB) ∧
      (s.translate (unitCtx 0) 0x1FFFC0 .rd (some (bv (job 3).toNat 97 2)) .tables).toOption = some (0x1FFFC0, 0x3DB)) ∧
    (c.marks = [k, j] ∧ inside 4 j ∧ ¬ inside 4 k ∧ (∀ z ∈ c.marks, ¬ inside 5 z) ∧ (coreAt c 2).qs = none ∧
      fld (own 4).inl.toNat 0 16 = 0 ∧ (coreAt c 2).agentOf (own 4).ddie.toNat 0 = some (.core 0 0)) ∧
    (k.out = some o.id ∧ o.msg.typ = 6 ∧ o.msg.sdie = (msgOf 7 0 0).ddie ∧ o.msg.agt.toNat = fld (0 : BitVec 352).toNat 0 16 ∧
      o.msg.dpkg = (msgOf 7 0 0).spkg ∧ o.msg.pln = (msgOf 7 0 0).pln ∧ o.msg.seq = bv (0 : BitVec 352).toNat 16 16) := by
  intro job s k j c own inside o
  refine ⟨⟨?_, ?_, ?_⟩, ⟨rfl, ⟨rfl, rfl, rfl, rfl, ?_⟩, fun h => ?_, ?_, rfl, ?_, ?_⟩, rfl, rfl, rfl, ?_, rfl, rfl, ?_⟩
  · decide +kernel
  · decide +kernel
  · decide +kernel
  · show (4 : BitVec 16) = bv (BitVec.ofNat 352 (4 * 2 ^ 16)).toNat 16 16
    decide +kernel
  · exact absurd h.1 (by decide)
  · intro z hz h
    have hz : z = k ∨ z = j := by simpa [c, Core.marks, waitOf, Core.launch] using hz
    rcases hz with rfl | rfl
    · exact absurd h.1 (by decide)
    · have h5 : (4 : BitVec 16) = bv (BitVec.ofNat 352 (5 * 2 ^ 16)).toNat 16 16 := h.2.2.2.2
      exact absurd h5 (by decide +kernel)
  · show fld (BitVec.ofNat 352 (4 * 2 ^ 16)).toNat 0 16 = 0
    decide +kernel
  · show (coreAt c 2).agentOf 0 0 = some (.core 0 0)
    decide +kernel
  · decide
  · decide

/-- `PlanesAndEdges`: traffic within the package that holds a quiesce up, and none; the first and the last generation and width of
a host link, and what is no link; a host's accesses that can be reached. -/
theorem wit_PlanesWithin :
    let q : State := { ctrState (.add 1) [ctr5] with qs := some (1, 0), qsFrom := 1 }
    let fits (g w : Nat) : Prop := 5 ≤ g ∧ g ≤ 7 ∧ 2 ≤ w ∧ w ≤ 4
    (∃ p, p < 4 ∧ q.pendingOn p = true) ∧ ({ q with qsFrom := 0 } : State).pendingOn 0 = false ∧
    (fits 5 2 ∧ fits 7 4 ∧ ¬ fits 4 4 ∧ ¬ fits 7 5) ∧
    ((mapped State.reset).unitWaits 0 0xFFC 8 = false ∧ (mapped State.reset).unitWriteWaits 0 0xFFC 8 = false) := by
  refine ⟨⟨((State.reset.planeOf (ctrAddr 5)).toNat), ?_, ?_⟩, ?_, ?_, ?_⟩ <;> decide +kernel

/-- `OpticalPorts`: the same command of the same wall cycle, and of another; a topology command that drains, and one whose ports are
quiet; a port of which every wavelength comes up, by its lock and by FAIL, and one of which one does not; a RES that can be
written. -/
theorem wit_TopologySteps :
    let p : Port := { Port.reset with st := 1, busy := some (5, 0), began := 7 }
    let s (w : Nat) : State := { State.reset with ports := vset State.reset.ports 0 p, wall := w }
    let body : List Byte := leBytes 12 (1 + 2 ^ 16) ++ leBytes 4 5 ++ tab 64 fun _ => 0
    let c (d : Bool) : Topo := { id := 1, vf := 0, launch := Launch.none, asid := 0, body := body, since := 0, started := false, draining := d }
    let lit (w : Nat) : Port := { Port.reset with st := 1, wst := BitVec.ofNat 27 w }
    let eye : BitVec 32 := 320 * 2 ^ 16 + 120
    (((s 7).port 0).busy = some (BitVec.ofNat 4 5, 0) ∧ ((s 7).port 0).began = (s 7).wall ∧ ((s 8).port 0).began ≠ (s 8).wall) ∧
    ((∀ d, ({ State.reset with topo := [c d] } : State).topo = [c d] ∧ (c d).started = false) ∧
      (∀ e ∈ topoEntries body, (State.reset.port e.1).busy = none ∧ State.reset.portQuiet e.1 = true)) ∧
    ((laneWls Port.reset.lmap).Nodup ∧ (∀ w ∈ laneWls Port.reset.lmap, w ≤ 8 ∧ (lit 0x1249249).wl w % 2 = 1 ∧ (lit 0x4924924).wl w / 4 = 1) ∧
      (lit 0).wl 0 % 2 = 0 ∧ 320 ≤ eye.toNat / 2 ^ 16 ∧ 120 ≤ eye.toNat % 2 ^ 16) ∧
    (mapped State.reset).resWaits (c true) = false := by
  intro p s body c lit eye
  refine ⟨?_, ⟨fun d => ⟨rfl, rfl⟩, ?_⟩, ?_, ?_⟩ <;> decide +kernel

/-- `ResetsAndMonitors`: a clamp that a sample made due, and none; one whose millisecond is not over;
supplies of which two fall below 0.9 × 650 mV; a sensor at 100 degrees; errors of the last kinds. -/
theorem wit_ClampsAndErrors :
    let s : State := { State.reset with clampDue := true, clampTill := 800001, wall := 800000 }
    let hot : State := { State.reset with mons := vset State.reset.mons 9 { Mon.reset with temp := [BitVec.ofNat 64 (1600 + 2 ^ 31)] } }
    let below : List Bool := ([2340, 2339, 2340, 0] : List (BitVec 16)).map fun v => decide (10 * v.toNat < 36 * viMv 0)
    (s.clampDue = true ∧ State.reset.clampDue = false ∧ s.wall < s.clampTill) ∧ hot.hot 1600 = true ∧
    ((((false :: below).zip below).filter fun q => !q.1 && q.2).length = 2 ∧ below.getLastD false = true) ∧
    ((9 : BitVec 4).toNat < 10 ∧ 1 ≤ (1 : BitVec 4).toNat ∧ (7 : BitVec 4).toNat ≤ 7 ∧ 6 ≤ (6 : BitVec 4).toNat) := by
  refine ⟨?_, ?_, ?_, ?_⟩ <;> decide +kernel

/-- `Mailbox`: a lock that covers a die of SETF and of SETV's mask, and a die that the mask leaves out. -/
theorem wit_ClockLocks :
    let p : Part := { Machine.Part.none with exist := true, rings := 0x100 }
    let s (op : BitVec 8) (m : BitVec 64) : State :=
      { State.reset with mbDone := false, mbCmd := op.zeroExtend 64, booted := true, mbArgs := gen 8 fun _ => m,
                         parts := vset State.reset.parts 11 p }.modBank 11 fun b => { b with dbProf := 1#64 <<< 63 }
    (InHand (s 0x10 0) 0x10 ∧ (s 0x10 0).booted = true ∧ (s 0x10 0).lockWaits = true) ∧
    (InHand (s 0x11 2) 0x11 ∧ (s 0x11 2).lockWaits = true ∧ (s 0x11 1).lockWaits = false) ∧
    ((1 : Nat) < 8 ∧ (11 : Nat) < 12 ∧ (vget 0 (s 0x11 2).mbArgs 0).getLsbD 1 = true ∧ ((s 0x11 2).bank 11).dbProf.getLsbD 63 = true ∧
      fld ((s 0x11 2).part 11).rings.toNat (8 * 1) 8 ≠ 0) := by
  refine ⟨⟨⟨rfl, rfl, ?_⟩, ?_, ?_⟩, ⟨⟨rfl, rfl, ?_⟩, ?_, ?_⟩, ?_⟩ <;> decide +kernel
/-! ## A kernel image -/

theorem read_append (m : Mem) (a k n : Nat) : m.read a (k + n) = m.read a k ++ m.read (a + k) n := by
  apply List.ext_getElem?
  intro i
  simp only [Mem.read, List.getElem?_append, length_tab, getElem?_tab]
  by_cases h : i < k
  · simp [h, show i < k + n by omega]
  · by_cases h' : i - k < n
    · simp [h, h', show i < k + n by omega, show a + k + (i - k) = a + i by omega]
    · simp [h, h', show ¬ i < k + n by omega]

theorem read_above {m : Mem} {a : Nat} (n : Nat) (h : ∀ c ∈ m, c.1 < a) : m.read a n = List.replicate n 0 := by
  have g : ∀ (l : Mem) (x : Nat), (∀ c ∈ l, c.1 < x) → l.get x = 0 := by
    intro l x hl
    induction l with
    | nil => rfl
    | cons c l ih =>
      rw [Mem.get, if_neg (by have := hl c (by simp); omega)]
      exact ih fun d hd => hl d (by simp [hd])
  apply List.ext_getElem?
  intro i
  simp only [Mem.read, getElem?_tab, List.getElem?_replicate]
  split
  · rw [g m (a + i) fun c hc => by have := h c hc; omega]
  · rfl

/-- A number within the head of an image of a head and zeros. -/
theorem numAt_head (h : List Byte) (k : Nat) {off n : Nat} (hn : off + n ≤ h.length) :
    numAt (h ++ List.replicate k 0) off n = numAt h off n := by
  unfold numAt
  rw [List.drop_append_of_le_length (by omega), List.take_append_of_le_length (by simp; omega)]

/-- A number beyond the head is 0. -/
theorem numAt_zeros (h : List Byte) (k : Nat) {off : Nat} (n : Nat) (ho : h.length ≤ off) :
    numAt (h ++ List.replicate k 0) off n = 0 := by
  have z : ∀ j, leNat (List.replicate j (0 : Byte)) = 0 := by
    intro j
    induction j with
    | zero => rfl
    | succ j ih =>
      rw [List.replicate_succ, leNat, ih]
      rfl
  unfold numAt
  rw [List.drop_append, List.drop_eq_nil_of_le ho, List.drop_replicate, List.nil_append, List.take_replicate, z]

/-- The first 320 bytes of an image for four cores of a span: the header, with one level over them, and one stream of one idle
bundle, whose code, bank list and safe points lie, like the routine store, in the zeros that follow. -/
def imageHead : List Byte :=
  leBytes 256 (0x1A4E4B4C + 1 * 2 ^ 32 + 2 * 2 ^ 48 + 1 * 2 ^ 64 + 1 * 2 ^ 96 + (2 * 2 ^ 62 + 4) * 2 ^ 128 + 512 * 2 ^ (8 * 112) +
    512 * 2 ^ (8 * 120) + 256 * 2 ^ (8 * 128) + 33280 * 2 ^ (8 * 136)) ++
  leBytes 64 (0xF + 512 * 2 ^ (8 * 32) + 1 * 2 ^ (8 * 40) + 512 * 2 ^ (8 * 48) + 512 * 2 ^ (8 * 56))

/-- Bytes that begin with the head and go on with zeros to 33,280 are an image of its shape, whose loop table is good. -/
theorem image_ofBytes (b : List Byte) (hlen : b.length = 33280)
    (hn : ∀ off n, off + n ≤ 320 → numAt b off n = numAt imageHead off n) (hz : ∀ off n, 320 ≤ off → numAt b off n = 0) :
    ∃ img, Image.ofBytes b = some img ∧ img.shape = 2 ∧ img.m = 0 ∧ loopTableBad img 0 (tab 24 fun _ => 0) = none := by
  have hb : bankList b (33280 / 24 + 1) 512 = some [] := by
    rw [bankList, hlen, hz (512 + 8) 8 (by omega)]
    simp
  have hst : ∃ st : Stream, Stream.ofBytes b 256 = some st ∧ st.ranks = 0xF := by
    simp only [Stream.ofBytes, hlen, hn (256 + 32) 8 (by omega), hn (256 + 40) 4 (by omega), hn (256 + 44) 4 (by omega),
      hn (256 + 48) 8 (by omega), hn (256 + 56) 8 (by omega), hn 256 32 (by omega)]
    have e1 : numAt imageHead (256 + 32) 8 = 512 := by decide +kernel
    have e2 : numAt imageHead (256 + 40) 4 = 1 := by decide +kernel
    have e3 : numAt imageHead (256 + 44) 4 = 0 := by decide +kernel
    have e4 : numAt imageHead (256 + 48) 8 = 512 := by decide +kernel
    have e5 : numAt imageHead (256 + 56) 8 = 512 := by decide +kernel
    have e6 : numAt imageHead 256 32 = 0xF := by decide +kernel
    rw [e1, e2, e3, e4, e5, e6]
    rw [if_neg (by decide), if_neg (by simp [tab, tabFrom, hz 512 8 (by omega), fld]), hb]
    exact ⟨_, rfl, rfl⟩
  obtain ⟨st, hst, hr⟩ := hst
  have hsts : (tab 1 fun i => Stream.ofBytes b (256 + 64 * i)) = [some st] := by simp [tab, tabFrom, hst]
  have hro : ((tab 4096 fun i => numAt b (512 + 8 * i) 8).all routineOk) = true := by
    rw [List.all_eq_true]
    intro w hw
    obtain ⟨i, hi⟩ := List.getElem?_of_mem hw
    rw [getElem?_tab, hz (512 + 8 * i) 8 (by omega)] at hi
    split at hi
    · cases hi
      decide
    · cases hi
  have f0 : numAt imageHead 0 4 = 0x1A4E4B4C := by decide +kernel
  have f1 : numAt imageHead 4 2 = 1 := by decide +kernel
  have f2 : numAt imageHead 6 1 = 2 := by decide +kernel
  have f3 : numAt imageHead 7 1 = 0 := by decide +kernel
  have f4 : numAt imageHead 8 4 = 1 := by decide +kernel
  have f5 : numAt imageHead 12 4 = 1 := by decide +kernel
  have f6 : numAt imageHead 80 32 = 0 := by decide +kernel
  have f7 : numAt imageHead 112 8 = 512 := by decide +kernel
  have f8 : numAt imageHead 120 8 = 512 := by decide +kernel
  have f9 : numAt imageHead 128 8 = 256 := by decide +kernel
  have fa : numAt imageHead 144 112 = 0 := by decide +kernel
  have fb : numAt imageHead 136 8 = 33280 := by decide +kernel
  have fp : patIdx 0 = [] := by decide +kernel
  have fl : (gen 8 fun i => BitVec.ofNat 64 (numAt b (16 + 8 * i) 8)) =
      gen 8 fun i => BitVec.ofNat 64 (numAt imageHead (16 + 8 * i) 8) := by
    simp [gen, tab, tabFrom, hn]
  have hi : ∃ p r, Image.ofBytes b = some
      { shape := 2, m := 0, dmax := 1, loop := gen 8 fun i => BitVec.ofNat 64 (numAt imageHead (16 + 8 * i) 8),
        streams := [st], pats := p, routines := r } := by
    unfold Image.ofBytes
    simp only [hlen, hn 6 1 (by omega), hn 7 1 (by omega), hn 8 4 (by omega), hn 12 4 (by omega), hn 80 32 (by omega),
      hn 112 8 (by omega), hn 120 8 (by omega), hn 128 8 (by omega), hn 0 4 (by omega), hn 4 2 (by omega), hn 144 112 (by omega),
      hn 136 8 (by omega), f0, f1, f2, f3, f4, f5, f6, f7, f8, f9, fa, fb, fp, fl]
    rw [if_neg (by decide), hro, hsts, if_neg (by decide), if_neg (by simp [ranksOk, tab, tabFrom, shapeSize, hr])]
    exact ⟨_, _, rfl⟩
  obtain ⟨p, r, hi⟩ := hi
  have hbad : loopTableBad { shape := 2, m := 0, dmax := 1, loop := gen 8 fun i => BitVec.ofNat 64 (numAt imageHead (16 + 8 * i) 8),
                             streams := [], pats := [], routines := [] } 0 (tab 24 fun _ => 0) = none := by decide +kernel
  exact ⟨_, hi, rfl, rfl, hbad⟩

/-- A record in host memory that names the image at 0x10000 for four cores, in a queue of VF 0, which has the first frame and
the first ring; the troupes `trs` hold cores. -/
def launching (trs : List Troupe) : State :=
  { queued { LQueue.none with en := true, spc := true, lsz := 4, tail := 1 } with
    gmem := tables.write 0x10000 imageHead, troupes := trs, hmem := Mem.write [] 0 (leBytes 64 (2 * 2 ^ 29 + 0x10000 * 2 ^ 256)) }

theorem foldl_some {α β : Type} (f : Option (List β) → α → Option (List β)) (X : α → List β) (l : List α) (acc : List β)
    (h : ∀ r ∈ l, ∀ a, f (some a) r = some (a ++ X r)) : l.foldl f (some acc) = some (acc ++ l.flatMap X) := by
  induction l generalizing acc with
  | nil => simp
  | cons r l ih => rw [List.foldl_cons, h r (by simp), ih _ fun q hq => h q (by simp [hq])]; simp

/-- A read of a unit in a state without narrow writes, of pages that lie at their own addresses. -/
theorem readG_own (s : State) (asid va n : Nat) (hs : s.ghist = [])
    (ht : ∀ r ∈ pageRuns va n, s.translate (unitCtx asid) r.1 .rd none .tables = .ok (r.1, 0x3DB)) :
    s.readG asid va n = some ((pageRuns va n).flatMap fun r => s.gmem.read r.1 r.2) := by
  unfold State.readG
  refine foldl_some _ _ _ [] fun r hr a => ?_
  simp only [Option.bind_some, ht r hr, State.latest, hs, List.filter_nil, List.foldl_nil]

theorem readImage_own (s : State) (h0 : s.ghist = []) (hm : ∀ c ∈ s.gmem, c.1 < 0x10000 + 320)
    (hh : s.gmem.read 0x10000 320 = imageHead)
    (hp : ∀ r ∈ pageRuns 0x10000 33280, s.translate (unitCtx 0) r.1 .rd none .tables = .ok (r.1, 0x3DB)) :
    ∃ img, s.readImage 0 0x10000 = some img ∧ img.shape = 2 ∧ img.m = 0 ∧ loopTableBad img 0 (tab 24 fun _ => 0) = none := by
  have hl : imageHead.length = 320 := by decide +kernel
  have hr (n : Nat) : s.gmem.read 0x10000 (320 + n) = imageHead ++ List.replicate n 0 := by
    rw [read_append, hh, read_above _ hm]
  have hs : numAt (s.gmem.read 0x10000 256) 136 8 = 33280 := by
    have e : s.gmem.read 0x10000 256 = imageHead.take 256 := by
      rw [← hh, show 320 = 256 + 64 from rfl, read_append, List.take_left' (by simp only [Mem.read, length_tab])]
    rw [e]
    decide +kernel
  have p1 : pageRuns 0x10000 256 = [(0x10000, 256)] := by decide +kernel
  have p2 : pageRuns 0x10000 33280 = [(0x10000, 4096), (0x11000, 4096), (0x12000, 4096), (0x13000, 4096), (0x14000, 4096),
      (0x15000, 4096), (0x16000, 4096), (0x17000, 4096), (0x18000, 512)] := by decide +kernel
  have g1 : s.readG 0 0x10000 256 = some (s.gmem.read 0x10000 256) := by
    rw [readG_own s 0 0x10000 256 h0, p1, List.flatMap_cons, List.flatMap_nil, List.append_nil]
    intro r hr
    rw [p1] at hr
    cases List.mem_singleton.1 hr
    exact hp (0x10000, 4096) (by rw [p2]; exact List.mem_cons_self)
  have e : s.gmem.read 0x10000 (4096 + (4096 + (4096 + (4096 + (4096 + (4096 + (4096 + (4096 + 512)))))))) =
      (pageRuns 0x10000 33280).flatMap fun r => s.gmem.read r.1 r.2 := by
    rw [p2]
    simp only [read_append, List.flatMap_cons, List.flatMap_nil, List.append_nil]
  have g2 : s.readG 0 0x10000 33280 = some (s.gmem.read 0x10000 33280) := by
    rw [readG_own s 0 0x10000 33280 h0 hp, ← e]
  obtain ⟨img, hi, h⟩ := image_ofBytes (s.gmem.read 0x10000 (320 + 32960)) (by simp only [Mem.read, length_tab])
    (by intro off n h; rw [hr, numAt_head _ _ (by omega)])
    (by intro off n h; rw [hr, numAt_zeros _ _ _ (by omega)])
  refine ⟨img, ?_, h⟩
  rw [State.readImage, g1, Option.bind_some, hs, show max 256 33280 = 320 + 32960 from rfl, g2, Option.bind_some, hi]

/-- `LaunchEvents`: a head whose record passes its checks, and that a free block of its shape can take or, while a core of the
ring is held, none; the binding of its task. -/
theorem wit_TaskSelected :
    let b := leBytes 256 (2 * 2 ^ 29 + 0x10000 * 2 ^ 256)
    let l := Launch.ofBytes b
    let s := launching []
    let t := launching [{ troupeOf 0 (bundleStream []) Core.launch with vf := 1 }]
    (∀ z ∈ [s, t], (z.heads 0).filter (fun e => z.eligible 0 e.1 e.2.2) = [(0, 0, .fresh l (some b))] ∧
      ∃ img, (z.consume 0 0).check 0 0 l (some b) = .task img) ∧
    ((s.consume 0 0).place 0 l.shape l.m ≠ none ∧ l.nctr = 0 ∧ (t.consume 0 0).place 0 l.shape l.m = none) ∧
    (s.freeSlot 0 = some 0 ∧ s.freeNumber = some 0 ∧ (∃ img, s.loadImage 0 l = some img) ∧
      s.writeFault (s.vf 0).asid.toNat ((s.vf 0).slotAt 0) 256 = none) := by
  intro b l s t
  have good (z : State) (hi : ∃ img, z.readImage 0 0x10000 = some img ∧ img.shape = 2 ∧ img.m = 0 ∧
      loopTableBad img 0 (tab 24 fun _ => 0) = none) (hv : (z.vf 0).asid = 0) (hf : z.shapeFits 0 2 0 = true) :
      ∃ img, z.check 0 0 l (some b) = .task img := by
    obtain ⟨img, h1, h2, h3, h4⟩ := hi
    have e1 : launchOk b = true := by decide +kernel
    have e2 : l.sv = false ∧ l.wv = false ∧ l.typ = 0 ∧ l.kimg.toNat = 0x10000 ∧ l.shape = 2 ∧ l.m = 0 ∧ l.npar = 0 ∧
      l.params = tab 24 fun _ => 0 := by decide +kernel
    obtain ⟨e3, e4, e5, e6, e7, e8, e9, e10⟩ := e2
    refine ⟨img, ?_⟩
    simp only [State.check, e1, e3, e4, e5, e6, e7, e8, e9, e10, hv]
    simp [h1, h2, h3, hf, shapeSize]
    rw [show loopTableBad img 0 (tab 24 fun _ => 0#64) = none from h4]
  have fits (z : State) (h : z ∈ [s, s.consume 0 0, t, t.consume 0 0]) : ∃ img, z.readImage 0 0x10000 = some img ∧ img.shape = 2 ∧
      img.m = 0 ∧ loopTableBad img 0 (tab 24 fun _ => 0) = none := by
    apply readImage_own
    · revert z; decide +kernel
    · revert z; decide +kernel
    · revert z; decide +kernel
    · revert z; decide +kernel
  refine ⟨fun z hz => ⟨?_, good _ (fits _ ?_) ?_ ?_⟩, ⟨?_, ?_, ?_⟩, ?_, ?_, ?_, ?_⟩
  · revert z; decide +kernel
  · rcases List.mem_cons.1 hz with rfl | hz
    · simp
    · cases List.mem_singleton.1 hz
      simp
  · revert z; decide +kernel
  · revert z; decide +kernel
  · decide +kernel
  · decide +kernel
  · decide +kernel
  · decide +kernel
  · decide +kernel
  · obtain ⟨img, h1, h2, h3, -⟩ := fits s (by simp)
    have e : (s.vf 0).asid.toNat = 0 ∧ l.kimg.toNat = 0x10000 ∧ l.shape = 2 ∧ l.m = 0 := by decide +kernel
    exact ⟨img, by rw [State.loadImage, e.1, e.2.1, e.2.2.1, e.2.2.2, h1]; simp [h2, h3]⟩
  · decide +kernel

/-- `LaunchEvents`: a head that can be reached, and one whose image lies in a gated stack. -/
theorem wit_HeadReached :
    let b := leBytes 256 (2 * 2 ^ 29 + 0x10000 * 2 ^ 256)
    let s := launching []
    (s.heads 0).filter (fun e => s.eligible 0 e.1 e.2.2 && !s.headWaits e.1 e.2.2) = [(0, 0, .fresh (Launch.ofBytes b) (some b))] ∧
    (let t : State := { s with gateStk := 1 }
     (t.heads 0).filter (fun e => t.eligible 0 e.1 e.2.2 && !t.headWaits e.1 e.2.2) = []) := by
  refine ⟨?_, ?_⟩ <;> decide +kernel

/-! ## Decoding: one word of each format of R95, its fields put in place by hand, its opcode from R100 to R103 -/

theorem test_decode_scalar :
    decodeSlot 2 (0x02 * 2 ^ 56 + 63 * 2 ^ 45 + 62 * 2 ^ 39 + 61 * 2 ^ 33) = .ok (.sub t0 63 62 61) ∧
    decodeSlot 2 (0x20 * 2 ^ 56 + 1 * 2 ^ 45 + 2 * 2 ^ 39 + 0xFFFFFFFF * 2 ^ 7) = .ok (.addi t0 1 2 0xFFFFFFFF) ∧
    decodeSlot 2 (0x40 * 2 ^ 56 + 1 * 2 ^ 45 + 2 * 2 ^ 39 + 0xFFFFFC * 2 ^ 15 + 2 * 2 ^ 13 + 2 ^ 12 + 2 ^ 9) =
      .ok (.ldb t0 1 2 0xFFFFFC 2 true true) ∧
    decodeSlot 2 (0x30 * 2 ^ 56 + 0x80000001 * 2 ^ 7) = .ok (.br t0 0x80000001) ∧
    decodeSlot 2 (0x50 * 2 ^ 56 + 2 * 2 ^ 39 + 3 * 2 ^ 33) = .ok (.cadd t0 2 3) ∧
    decodeSlot 2 (0x60 * 2 ^ 56 + 1 * 2 ^ 45 + 0x040 * 2 ^ 27) = .ok (.csrr t0 1 0x040) ∧
    decodeSlot 2 (0x78 * 2 ^ 56 + 1 * 2 ^ 45 + 0x8001 * 2 ^ 23) = .ok (.sprd t0 1 0x8001) := by decide +kernel

theorem test_decode_vector :
    decodeSlot 3 (0x04 * 2 ^ 56 + 1 * 2 ^ 46 + 2 * 2 ^ 41 + 3 * 2 ^ 36 + 31 * 2 ^ 31) = .ok (.vfma t0 1 2 3 31) ∧
    decodeSlot 4 (0x36 * 2 ^ 56 + 1 * 2 ^ 46 + 63 * 2 ^ 35 + 0xFFFF * 2 ^ 19) = .ok (.vsplat t0 1 63 0xFFFF) ∧
    decodeSlot 3 (0x50 * 2 ^ 56 + 1 * 2 ^ 46 + 2 ^ 45 + 2 * 2 ^ 39 + 7 * 2 ^ 36 + 3 * 2 ^ 28) = .ok (.vld t0 1 true 2 7 3) ∧
    decodeSlot 4 (0x20 * 2 ^ 56 + 30 * 2 ^ 46 + 29 * 2 ^ 41) = .ok (.vexp2 t0 30 29) ∧
    decodeSlot 3 (0x78 * 2 ^ 56 + 1 * 2 ^ 46 + 2 * 2 ^ 41 + 3 * 2 ^ 36) = .ok (.uadd t0 1 2 3) := by decide +kernel

theorem test_decode_matrix :
    decodeSlot 5 (0x01 * 2 ^ 56 + 2 ^ 50 + 9 * 2 ^ 42 + 127 * 2 ^ 35 + 7 * 2 ^ 29) = .ok (.mldw t0 1 9 7 127) ∧
    decodeSlot 5 (0x11 * 2 ^ 56 + 3 * 2 ^ 49 + 9 * 2 ^ 43 + 127 * 2 ^ 18) = .ok (.msave t0 3 9 127) ∧
    decodeSlot 5 (0x21 * 2 ^ 56 + 7 * 2 ^ 48 + 9 * 2 ^ 42) = .ok (.mset t0 7 9) := by decide +kernel

theorem test_decode_copy :
    decodeSlot 6 (0x06 * 2 ^ 56 + 4095 * 2 ^ 39 + 2 * 2 ^ 27 + 3 * 2 ^ 21 + 3 * 2 ^ 10) = .ok (.xrsp t0 2 3 3 4095) ∧
    decodeSlot 7 (0x11 * 2 ^ 56 + 1 * 2 ^ 33 + 2 * 2 ^ 27 + 3 * 2 ^ 21 + 2 * 2 ^ 18) = .ok (.xrows t0 1 2 3 2 0) ∧
    decodeSlot 6 (0x22 * 2 ^ 56 + 1 * 2 ^ 33 + 2 * 2 ^ 27 + 3 * 2 ^ 21 + 4 * 2 ^ 15 + 1 * 2 ^ 11) = .ok (.xget t0 1 2 3 4 1 0) ∧
    decodeSlot 7 (0x31 * 2 ^ 56 + 2 * 2 ^ 33 + 3 * 2 ^ 27 + 4 * 2 ^ 21 + 1 * 2 ^ 15) = .ok (.xenq t0 2 3 4 1 0) ∧
    decodeSlot 6 (0x40 * 2 ^ 56 + 63 * 2 ^ 33) = .ok (.cdrive t0 63) := by decide +kernel

/-- A word whose operand breaks a limit is refused (sub-cause 0x5 of R97), as is an opcode of another slot. -/
theorem test_decode_refuses :
    decodeSlot 2 (0x35 * 2 ^ 56) = .bad 5 ∧ decodeSlot 5 (0x30 * 2 ^ 56) = .bad 3 ∧ decodeSlot 6 (0x50 * 2 ^ 56) = .bad 3 := by
  decide +kernel

/-! ## Values that the spec works out, or that arithmetic gives -/

/-- 1 + 1, the largest finite number doubled, the smallest subnormal halved; 2 − 3 × 1 rounded once. -/
theorem test_floats :
    fadd32 0x3F800000 0x3F800000 = (0x40000000, 0) ∧ (fadd32 0x7F7FFFFF 0x7F7FFFFF).1 = 0x7F800000 ∧
    (fmul32 0x00000001 0x3F000000).1 = 0x00000000 ∧ (ffma32 true 0x40400000 0x3F800000 0x40000000).1 = 0xBF800000 := by
  decide +kernel

/-- Arithmetic shift to the right and its payload (R181): −5 = −3 × 2 + 1. -/
theorem test_rshr : (rshrFwd 1 0xFFFFFFFB).d = 0xFFFFFFFD ∧ ushrInv 1 0xFFFFFFFD (rshrFwd 1 0xFFFFFFFB).pay = 0xFFFFFFFB := by
  decide +kernel

/-- SHA-384 of "abc": the worked example of FIPS 180-4. -/
theorem test_sha384 : sha384 [0x61, 0x62, 0x63] =
    beBytes 48 0xcb00753f45a35e8bb5a03d699ac65007272c32ab0eded1631a8b605a43ff5bed8086072ba1e7cc2358baeca134c825a7 := by
  decide +kernel

/-- The base point that RFC 5639 gives lies on the curve. -/
theorem test_basePoint : bpG.map (fun q => onCurve q.1 q.2) = some true := by decide +kernel

/-- −1 under `rleak` with n = 1 is −1/2, and the sum 1 + 2^−23 rounds as its halves say (R182, R178). -/
theorem test_rleak : (rleakFwd false 1 0xBF800000).d = 0xBF000000 ∧ (raddFwd 0x3F800000 0x3F800000).d = 0x40000000 := by
  decide +kernel

/-- A core runs `add s3, s4, s5` placed where the next step fetches: the sum wraps, and performs in the next cycle. -/
theorem test_step_add :
    (match step { coreAt (regs [0, 0, 0, 0, 0xFFFFFFFFFFFFFFFF, 2]) 2 with
        troupes := [troupeOf 0 (bundleStream [0, 0, 0x0100620A00000000]) (regs [0, 0, 0, 0, 0xFFFFFFFFFFFFFFFF, 2])] } with
      | .next u => (u.core? (.core 0 0)).map fun c => c.pend.map fun p => (p.due, p.act)
      | _ => none) = some [(1, .wS 3 1)] := by decide +kernel


end Sys2Proof.Tests
end

section
/-! The span buses (R30, R238, R239, R277): what the words of one wall cycle do where they meet, and drives and catches. -/

namespace Sys2Proof.Proofs.ExecutionModel

open Sys2Proof Sys2Proof.Machine Sys2Proof.Claims

/-! ## Meetings on a bus -/

/-- The troupe at position `t` lacks its alignment, as `State.busCause` asks it. -/
theorem unal_getD_iff (s : State) (t : Nat) :
    ((s.troupe? t).map (·.unal)).getD false = true ↔ ∃ tr, s.troupe? t = some tr ∧ tr.unal = true := by
  cases s.troupe? t <;> simp

theorem busTaken_iff (s : State) (die t now : Nat) :
    s.busTaken die t now = true ↔
      ∃ r ∈ s.bus, r.die = die ∧ (r.wall = s.wall ∨ die < 8 ∧ r.trp = t ∧ r.adv = now) := by
  simp [State.busTaken, and_assoc]

section
variable {s : State} {l : List BusOp} {o : BusOp}

/-- A drive that meets another drive, of this wall cycle or as a record, has the structural fault (R239, R277). -/
theorem busCause_drive_met (hd : o.drive = true)
    (h : (∃ q ∈ l, q.drive = true ∧ q.die = o.die ∧ q ≠ o) ∨ s.busTaken o.die o.t (s.now (.core o.t o.r)) = true) :
    s.busCause l o = some 4 := by
  have hc : (((l.filter fun q => q.drive && q.die == o.die).any fun q => q != o) ||
      s.busTaken o.die o.t (s.now (.core o.t o.r))) = true := by
    simpa [and_assoc] using h
  simp only [State.busCause, hd, hc, if_true]

/-- A drive that no other drive meets has the timing fault exactly where it meets a catch of another troupe and one of the two
is unaligned (R30). -/
theorem busCause_drive_alone (hd : o.drive = true) (h1 : ∀ q ∈ l, q.drive = true → q.die = o.die → q = o)
    (h2 : s.busTaken o.die o.t (s.now (.core o.t o.r)) = false) :
    s.busCause l o = if l.any fun q => !q.drive && q.die == o.die && q.t != o.t &&
      (((s.troupe? o.t).map (·.unal)).getD false || ((s.troupe? q.t).map (·.unal)).getD false) then some 5 else none := by
  have hc : ((l.filter fun q => q.drive && q.die == o.die).any fun q => q != o) = false := by
    simpa [not_or, imp.swap] using h1
  simp only [State.busCause, hd, hc, h2, if_true, Bool.or_self, Bool.false_eq_true, if_false]

/-- A catch has the timing fault exactly where its own troupe is unaligned and the one drive on its bus is another's (R30). -/
theorem busCause_catch (hd : o.drive = false) :
    s.busCause l o =
      if (l.filter fun q => q.drive && q.die == o.die).length = 1 ∧
          (∃ q ∈ l, q.drive = true ∧ q.die = o.die ∧ q.t ≠ o.t) ∧ ∃ tr, s.troupe? o.t = some tr ∧ tr.unal = true
        then some 5 else none := by
  simp only [State.busCause, hd, Bool.false_eq_true, if_false, ← unal_getD_iff]
  congr 1
  simp [and_assoc]

end

theorem busMeetings : BusMeetings := by
  intro s l o ho unal other
  refine ⟨fun hd h => busCause_drive_met hd (.inl h),
    fun hd h => busCause_drive_met hd (.inr ((busTaken_iff ..).2 h)), fun h1 h2 h3 => ?_, fun hd h1 h2 h3 => ?_,
    fun hd h1 h2 h3 => ?_⟩
  · cases hd : o.drive with
    | true =>
      have ht : s.busTaken o.die o.t (s.now (.core o.t o.r)) = false := by
        rw [← Bool.not_eq_true, busTaken_iff]
        rintro ⟨r, hr, hdie, hw⟩
        have := h2 r hr
        tauto
      rw [busCause_drive_alone hd (fun q hq a b => (h1 q hq a b).resolve_right (by simp [hd])) ht, if_neg]
      simp only [List.any_eq_true, Bool.and_eq_true, Bool.not_eq_true', beq_iff_eq, bne_iff_ne]
      rintro ⟨q, hq, ⟨⟨hqd, hdie⟩, hqt⟩, -⟩
      exact h3 q hq ⟨hdie, hqt, by simp [hqd, hd]⟩
    | false =>
      rw [busCause_catch hd, if_neg]
      rintro ⟨-, ⟨q, hq, hqd, hdie, hqt⟩, -⟩
      exact h3 q hq ⟨hdie, hqt, by simp [hqd, hd]⟩
  · obtain ⟨q, hq, ⟨hdie, hqt, hqd⟩, hu⟩ := h3
    rw [busCause_drive_alone hd h1 h2, if_pos]
    rw [hd] at hqd
    refine List.any_eq_true.2 ⟨q, hq, ?_⟩
    simp only [Bool.and_eq_true, Bool.or_eq_true, unal_getD_iff]
    exact ⟨by simp [hqd, hdie, hqt], hu⟩
  · obtain ⟨q, hq, ⟨hdie, hqt, hqd⟩, -⟩ := h1
    rw [hd] at hqd
    rw [busCause_catch hd, if_pos ⟨h2, ⟨q, hq, by simpa using hqd, hdie, hqt⟩, h3⟩]

/-! ## Drives and catches -/

/-- The buffers of a local range are held (R82). -/
theorem holds_iff (c : Core) (a n : Nat) (hn : 0 < n) :
    c.holds a n = true ↔ ∀ g, a / 65536 ≤ g → g ≤ (a + n - 1) / 65536 → vget (c.loc % 4) c.holder g = c.loc % 4 := by
  have hle : a / 65536 ≤ (a + n - 1) / 65536 := Nat.div_le_div_right (by omega)
  simp only [Core.holds, List.all_eq_true, beq_iff_eq, List.mem_iff_getElem?, getElem?_tab]
  constructor
  · intro h g hg1 hg2
    exact h g ⟨g - a / 65536, by rw [if_pos (by omega)]; congr 1; omega⟩
  · rintro h g ⟨i, hi⟩
    split at hi
    · obtain rfl := Option.some.inj hi
      exact h _ (by omega) (by omega)
    · cases hi

/-- A footprint that R216 admits passes the checks. -/
theorem copyFoot_none {c : Core} {al b n : Nat} (hn : 0 < n) (h : MayTouch c al b n) : c.copyFoot al b n = none := by
  obtain ⟨h1, h2, h3⟩ := h
  rw [Core.copyFoot, if_neg (by omega), if_neg (by omega), (holds_iff c b n hn).2 h3]
  rfl

/-- What raises the fault of a failed footprint check meets `BadFoot` (R216). -/
theorem badFoot_of_copyFoot {i : Instr} {s : State} {x : Iss} {al b n : Nat} (hn : 0 < n)
    (h : ∀ e, x.core.copyFoot al b n = some e → Raises i s x e) : BadFoot i s x al b n := by
  refine ⟨fun h1 => h _ (if_pos h1), fun h1 h2 => h _ ?_, ?_⟩
  · rw [Core.copyFoot, if_neg (by omega), if_pos h2]
  · rintro h1 h2 ⟨g, hg1, hg2, hg⟩
    have hh : x.core.holds b n = false := by
      rw [← Bool.not_eq_true, holds_iff _ _ _ hn]
      exact fun hall => hg (hall g hg1 hg2)
    refine h _ ?_
    rw [Core.copyFoot, if_neg (by omega), if_neg (by omega), hh]
    rfl

theorem driveFault_of_foot {c : Core} {ag : Agent} {now w : Nat} {a : SReg} {e : Exc}
    (h : c.copyFoot 4096 (c.rs a).toNat 4096 = some e) : c.driveFault ag now w a = some e := by
  unfold Core.driveFault
  simp only [h]

/-- Past its footprint a drive fails where its read meets another access of its cycle (R70). -/
theorem driveFault_of_no_foot {c : Core} {ag : Agent} {now w : Nat} {a : SReg}
    (h : c.copyFoot 4096 (c.rs a).toNat 4096 = none) : c.driveFault ag now w a =
      if c.acc70.any fun z => (driveAccess ag now w c.pc (c.rs a).toNat).clash z then some structural else none := by
  unfold Core.driveFault
  simp only [h]

theorem catchFault_of_pos {s : State} {ag : Agent} {c : Core} {a : SReg} {pos : BitVec 3} (h : pos.toNat < (s.shapeOf ag).2) :
    s.catchFault ag c a pos = c.copyFoot 4096 (c.rs a).toNat 4096 := by
  rw [State.catchFault, if_neg (by omega)]

/-- The record that the drive of word `x` puts on its bus (R238). -/
def driveRecord (s : State) (x : Iss) (a : SReg) : BusRec :=
  let b := s.busSide x.ag x.core
  { die := b.die, trp := b.trp.getD 0, rank := posOf x.ag, adv := b.adv, wall := s.wall,
    data := x.core.bank.read (x.core.rs a).toNat 4096, word := x.w, baddr := x.core.pc }

section
variable {s : State} {x : Iss} {pd : Pd} {a : SReg} {pos : BitVec 3}

/-! A charge is nothing that the checks of a word or the side of a bus show. -/

theorem busSide_charge (s : State) (a : Agent) (c : Core) (k n : Nat) : s.busSide a (c.charge k n) = s.busSide a c := by
  cases a <;> rfl

theorem driveFault_charge (c : Core) (k n : Nat) (ag : Agent) (now w : Nat) (a : SReg) :
    (c.charge k n).driveFault ag now w a = c.driveFault ag now w a := by
  have hf (b : Nat) : (c.charge k n).copyFoot 4096 b 4096 = c.copyFoot 4096 b 4096 := rfl
  have hr : (c.charge k n).rs a = c.rs a := rfl
  have ha : (c.charge k n).acc70 = c.acc70 := rfl
  have hp : (c.charge k n).pc = c.pc := rfl
  unfold Core.driveFault
  simp only [hf, hr, ha, hp]

theorem catchFault_charge (s : State) (ag : Agent) (c : Core) (k n : Nat) (a : SReg) (pos : BitVec 3) :
    s.catchFault ag (c.charge k n) a pos = s.catchFault ag c a pos := by
  unfold State.catchFault; rfl

theorem exec_cdrive (pd : Pd) (a : SReg) (s : State) : exec (.cdrive pd a) s = execCdrive pd a s := rfl

theorem exec_ccatch (pd : Pd) (a : SReg) (pos : BitVec 3) (s : State) :
    exec (.ccatch pd a pos) s = execCcatch pd a pos s := rfl

theorem cdrive_fault (h : Runs s x pd) {e : Exc} (hf : x.core.driveFault x.ag x.now x.w a = some e) :
    Raises (.cdrive pd a) s x e := by
  obtain ⟨hi, hp⟩ := h
  rw [Raises, exec_cdrive, execCdrive]
  simp only [hi, hp, driveFault_charge, hf, Bool.not_true, Bool.false_eq_true, if_false]

theorem cdrive_verdict (h : Runs s x pd) (hf : x.core.driveFault x.ag x.now x.w a = none) {k : Nat}
    (hv : s.busVerdict x true = some k) : Raises (.cdrive pd a) s x (busExc k) := by
  obtain ⟨hi, hp⟩ := h
  rw [Raises, exec_cdrive, execCdrive]
  simp only [hi, hp, driveFault_charge, hf, hv, Bool.not_true, Bool.false_eq_true, if_false]

/-- A drive that passes its checks and meets no other puts its record on the bus. -/
theorem cdrive_drives (h : Runs s x pd) (hf : x.core.driveFault x.ag x.now x.w a = none) (hv : s.busVerdict x true = none) :
    exec (.cdrive pd a) s = .next (({ s with bus := s.bus ++ [driveRecord s x a] } : State).did x
      { charged x.core [0x13] with
        acc70 := driveAccess x.ag x.now x.w x.core.pc (x.core.rs a).toNat :: x.core.acc70 }) := by
  obtain ⟨hi, hp⟩ := h
  rw [exec_cdrive, execCdrive]
  simp only [hi, hp, driveFault_charge, hf, hv, Bool.not_true, Bool.false_eq_true, if_false, busSide_charge]
  rfl

theorem ccatch_fault (h : Runs s x pd) {e : Exc} (hf : s.catchFault x.ag x.core a pos = some e) :
    Raises (.ccatch pd a pos) s x e := by
  obtain ⟨hi, hp⟩ := h
  rw [Raises, exec_ccatch, execCcatch]
  simp only [hi, hp, catchFault_charge, hf, Bool.not_true, Bool.false_eq_true, if_false]

theorem ccatch_verdict (h : Runs s x pd) (hf : s.catchFault x.ag x.core a pos = none) {k : Nat}
    (hv : s.busVerdict x false = some k) : Raises (.ccatch pd a pos) s x (busExc k) := by
  obtain ⟨hi, hp⟩ := h
  rw [Raises, exec_ccatch, execCcatch]
  simp only [hi, hp, catchFault_charge, hf, hv, Bool.not_true, Bool.false_eq_true, if_false]

/-- A catch that passes its checks and meets no drive out of alignment is due. -/
theorem ccatch_catches (h : Runs s x pd) (hf : s.catchFault x.ag x.core a pos = none) (hv : s.busVerdict x false = none) :
    Later (.ccatch pd a pos) s x [0x14] [(if pos.toNat = x.core.spos then 8 else 40,
      .catch' (x.core.rs a).toNat (s.dieAt x.ag pos.toNat) s.wall (pos.toNat == x.core.spos), 0)] := by
  obtain ⟨hi, hp⟩ := h
  rw [Later, Leaves, exec_ccatch, execCcatch]
  simp only [hi, hp, catchFault_charge, hf, hv, Bool.not_true, Bool.false_eq_true, if_false, Core.sched_eq,
    beq_iff_eq]
  rfl

end

/-- On a core the verdict is the one that the judgement of the wall cycle left (R30, R239). -/
theorem busVerdict_core {s : State} {x : Iss} {t r : Nat} (h : x.ag = .core t r) (d : Bool) :
    s.busVerdict x d = ((x.core.late.getD []).find? fun q => q.1 == x.w).map fun q => q.2 := by
  simp only [State.busVerdict, h]

/-- A management core's catch meets nothing: it is alone on its bus. -/
theorem busVerdict_mgmt_catch {s : State} {x : Iss} {m : Nat} (h : x.ag = .mgmt m) : s.busVerdict x false = none := by
  simp [State.busVerdict, h]

theorem busVerdict_mgmt_taken {s : State} {x : Iss} {m : Nat} (h : x.ag = .mgmt m)
    (hr : ∃ r ∈ s.bus, r.die = 8 + m ∧ r.wall = s.wall) : s.busVerdict x true = some 4 := by
  obtain ⟨r, hr, hd, hw⟩ := hr
  have ht := (busTaken_iff s (8 + m) 0 x.now).2 ⟨r, hr, hd, .inl hw⟩
  simp [State.busVerdict, h, ht]

theorem busVerdict_mgmt_free {s : State} {x : Iss} {m : Nat} (h : x.ag = .mgmt m)
    (hr : ∀ r ∈ s.bus, r.die = 8 + m → r.wall ≠ s.wall)
    (h7 : x.w ≠ 6 ∨ ∀ p e, decodeSlot 7 ((s.stream x.ag).word x.core.pc 7) ≠ .ok (.cdrive p e)) :
    s.busVerdict x true = none := by
  have ht : s.busTaken (8 + m) 0 x.now = false := by
    rw [← Bool.not_eq_true, busTaken_iff]
    rintro ⟨r, hm, hd, hw | ⟨hlt, -⟩⟩
    · exact hr r hm hd hw
    · omega
  rw [h] at h7
  simp only [State.busVerdict, h, ht, Bool.not_true, Bool.false_eq_true, if_false]
  split
  · rename_i hw hdec
    exact absurd hdec (h7.resolve_left (by simp [hw]) _ _)
  · rfl

theorem driveAndCatch : DriveAndCatch := by
  intro s x pd a pos hr c A b ac verdict fault drives catches
  have hdrives : c.driveFault x.ag x.now x.w a = none → s.busVerdict x true = none → drives := fun h1 h2 =>
    ⟨driveRecord s x a, _, cdrive_drives hr h1 h2, rfl, rfl, rfl, rfl, rfl, rfl⟩
  refine ⟨fun hm hz => ?_, fun hm ⟨z, hz, hzc⟩ => ?_, ?_, fun hp hm => ?_, fun hp => ?_, fun hp => ?_⟩
  · have hn : c.driveFault x.ag x.now x.w a = none := by
      rw [driveFault_of_no_foot (copyFoot_none (by omega) hm), if_neg]
      rw [List.any_eq_true]
      rintro ⟨z, hz', hc⟩
      exact Bool.noConfusion ((hz z hz').symm.trans hc)
    refine ⟨fun t r hag => ⟨fun hv => hdrives hn ?_, fun k hv => cdrive_verdict hr hn ?_⟩,
      fun m hag hb => cdrive_verdict hr hn (busVerdict_mgmt_taken hag hb),
      fun m hag hb h7 => hdrives hn (busVerdict_mgmt_free hag hb h7)⟩
    · exact (busVerdict_core hag true).trans hv
    · exact (busVerdict_core hag true).trans hv
  · refine cdrive_fault hr ?_
    rw [driveFault_of_no_foot (copyFoot_none (by omega) hm)]
    exact if_pos (List.any_eq_true.2 ⟨z, hz, hzc⟩)
  · exact badFoot_of_copyFoot (by omega) fun e he => cdrive_fault hr (driveFault_of_foot he)
  · have hn := (catchFault_of_pos (a := a) hp).trans (copyFoot_none (by omega) hm)
    refine ⟨fun t r hag => ⟨fun hv => ccatch_catches hr hn ?_, fun k hv => ccatch_verdict hr hn ?_⟩,
      fun m hag => ccatch_catches hr hn (busVerdict_mgmt_catch hag)⟩
    · exact (busVerdict_core hag false).trans hv
    · exact (busVerdict_core hag false).trans hv
  · exact badFoot_of_copyFoot (by omega) fun e he => ccatch_fault hr ((catchFault_of_pos hp).trans he)
  · exact ccatch_fault hr (if_pos hp)

/-- Settles O33: the meetings case by case of `State.busCause`; a word's own checks and its verdict decide what it does. -/
theorem calliope : Obligations.Calliope := ⟨busMeetings, driveAndCatch⟩

end Sys2Proof.Proofs.ExecutionModel
end

section
/-! Rules of the state's operations that the statements on the execution model share: setting one agent's core, and the
operations that leave the wall count and the cursor alone. -/

namespace Sys2Proof.Proofs.ExecutionModel

open Sys2Proof Sys2Proof.Machine Sys2Proof.Claims

/-! ## Setting a core -/

section
variable {s : State} {a : Agent} {c k l : Core}

theorem list_set_of_getElem? {α : Type} {l : List α} {i : Nat} {x : α} (h : l[i]? = some x) : l.set i x = l := by
  obtain ⟨hi, rfl⟩ := List.getElem?_eq_some_iff.1 h
  exact List.set_getElem_self hi

theorem vset_vget_self {α : Type} {n : Nat} (d : α) (v : Vector α n) (i : Nat) (h : i < n) : vset v i (vget d v i) = v := by
  have hl : i < v.toArray.toList.length := by simpa using h
  have := list_set_of_getElem? (List.getElem?_eq_getElem hl)
  apply Vector.toArray_inj.1
  apply Array.toList_inj.1
  simpa [vset, vget, List.getD_eq_getElem?_getD, h] using this

theorem vset_vset {α : Type} {n : Nat} (v : Vector α n) (i : Nat) (x y : α) : vset (vset v i x) i y = vset v i y := by
  simp [vset]

theorem vget_of_ge {α : Type} {n : Nat} (d : α) (v : Vector α n) (i : Nat) (h : n ≤ i) : vget d v i = d := by
  simp [vget, List.getD_eq_getElem?_getD, h]

theorem setTroupe_setTroupe (s : State) (t : Nat) (x y : Troupe) : (s.setTroupe t x).setTroupe t y = s.setTroupe t y := by
  simp [State.setTroupe]

theorem setTroupe_self {t : Nat} {x : Troupe} (h : s.troupe? t = some x) : s.setTroupe t x = s := by
  rw [State.setTroupe, list_set_of_getElem? h]

theorem modTroupe_of_some {t : Nat} {x : Troupe} (h : s.troupe? t = some x) (f : Troupe → Troupe) :
    s.modTroupe t f = s.setTroupe t (f x) := by
  rw [State.modTroupe, h]

theorem modTroupe_of_none {t : Nat} (h : s.troupe? t = none) (f : Troupe → Troupe) : s.modTroupe t f = s := by
  rw [State.modTroupe, h]

theorem core?_core_iff {t r : Nat} : s.core? (.core t r) = some c ↔ ∃ tr, s.troupe? t = some tr ∧ tr.cores[r]? = some c :=
  Option.bind_eq_some_iff

theorem setCore_core {t : Nat} {tr : Troupe} (h : s.troupe? t = some tr) (r : Nat) :
    s.setCore (.core t r) k = s.setTroupe t { tr with cores := tr.cores.set r k } := modTroupe_of_some h _

theorem setCore_self (h : s.core? a = some c) : s.setCore a c = s := by
  cases a with
  | core t r =>
    obtain ⟨tr, ht, hr⟩ := core?_core_iff.1 h
    rw [setCore_core ht, list_set_of_getElem? hr]
    exact setTroupe_self ht
  | mgmt m =>
    simp only [State.core?] at h
    split at h
    · rename_i hm
      cases h
      show { s with mgmt := vset s.mgmt m _ } = s
      rw [show ({ s.mg m with core := (s.mg m).core } : Mgmt) = vget Mgmt.reset s.mgmt m from rfl, vset_vget_self _ _ _ hm]
    · cases h

theorem setCore_setCore (s : State) (a : Agent) (c k : Core) : (s.setCore a c).setCore a k = s.setCore a k := by
  cases a with
  | core t r =>
    cases ht : s.troupe? t with
    | none =>
      have h (k : Core) : s.setCore (.core t r) k = s := modTroupe_of_none ht _
      rw [h, h]
    | some tr =>
      rw [setCore_core ht, setCore_core (troupe_setTroupe_same ht), setCore_core ht, setTroupe_setTroupe]
      simp
  | mgmt m =>
    by_cases hm : m < 2
    · simp only [State.setCore, mg_setMg_same hm]
      simp [State.setMg, vset_vset]
    · have h (v : Vector Mgmt 2) (y : Mgmt) : vset v m y = v := by
        apply Vector.toArray_inj.1
        apply Array.toList_inj.1
        simp only [vset]
        exact List.set_eq_of_length_le (by simp; omega)
      simp [State.setCore, State.setMg, h]

theorem modCore_of_some (h : s.core? a = some c) (f : Core → Core) : s.modCore a f = s.setCore a (f c) := by
  rw [State.modCore, h]

theorem modCore_of_none (h : s.core? a = none) (f : Core → Core) : s.modCore a f = s := by
  rw [State.modCore, h]

/-- Further changes of a core that was set change what was set. -/
theorem modCore_setCore (h : s.core? a = some c) (f : Core → Core) : (s.setCore a k).modCore a f = s.setCore a (f k) := by
  rw [modCore_of_some (core_setCore_same h), setCore_setCore]

end

/-! ## The wall count and the cursor -/

/-- When it is and where the machine stands: what no effect of a cycle changes. -/
def clock (s : State) : Nat × Cursor := (s.wall, s.cursor)

theorem clock_eq_iff {s u : State} : clock u = clock s ↔ u.wall = s.wall ∧ u.cursor = s.cursor := by
  simp [clock]

section
variable (s : State) (a : Agent) (now : Nat)

@[simp] theorem clock_setTroupe (t : Nat) (x : Troupe) : clock (s.setTroupe t x) = clock s := rfl

@[simp] theorem clock_modTroupe (t : Nat) (f : Troupe → Troupe) : clock (s.modTroupe t f) = clock s := by
  rw [State.modTroupe_frame]; rfl

@[simp] theorem clock_setCore (c : Core) : clock (s.setCore a c) = clock s := by rw [State.setCore_frame]; rfl

@[simp] theorem clock_modCore (f : Core → Core) : clock (s.modCore a f) = clock s := by rw [State.modCore_frame]; rfl

@[simp] theorem clock_clashFault (iss word baddr : Nat) (rtn : Option Nat) :
    clock (s.clashFault a now iss word baddr rtn) = clock s := clock_modCore ..

@[simp] theorem clock_handleLate (p : Pend) (x : Nat) : clock (s.handleLate a p x) = clock s := clock_modCore ..

@[simp] theorem clock_useBank (ac : Access) : clock (s.useBank a now ac) = clock s := by
  unfold State.useBank
  split
  · rfl
  · dsimp only; split <;> simp

@[simp] theorem clock_useBanks (l : List Access) : clock (s.useBanks a now l) = clock s := by
  unfold State.useBanks
  split
  · rfl
  · dsimp only; split <;> simp

@[simp] theorem clock_useT (ac : TAccess) : clock (s.useT a now ac) = clock s := by
  unfold State.useT
  split
  · rfl
  · dsimp only; split <;> simp

@[simp] theorem clock_access (p : Pend) (accs : List Access) (x : Nat) (f : Core → Core) :
    clock (s.access a now p accs x f) = clock s := by
  unfold State.access
  split
  · rfl
  · split <;> simp

/-- A fold of steps that each leave the clock alone leaves it alone. -/
theorem clock_foldl {α : Type} (f : State → α → State) (hf : ∀ s x, clock (f s x) = clock s) (l : List α) (s : State) :
    clock (l.foldl f s) = clock s :=
  State.foldl_keeps (fun u => clock u = clock s) f (fun u x h => (hf u x).trans h) l rfl

/-! ### Messages that leave -/

@[simp] theorem clock_takeSeq (m : Msg) : clock (s.takeSeq m).1 = clock s := by
  unfold State.takeSeq; dsimp only; split <;> rfl

@[simp] theorem clock_noRoute (m : Msg) : clock (s.noRoute m) = clock s := by
  unfold State.noRoute
  split
  · rfl
  · exact clock_takeSeq s _

end

end Sys2Proof.Proofs.ExecutionModel
end

section
/-! What is due performs (R19, R20): no effect of a cycle moves the clock; a single due effect reaches its register. -/

namespace Sys2Proof.Proofs.ExecutionModel

open Sys2Proof Sys2Proof.Machine Sys2Proof.Claims

/-! ## No effect moves the clock -/

section
variable (s : State) (a : Agent) (now : Nat) (p : Pend)

@[simp] theorem clock_appliedFor (src : CtrSrc) : clock (s.appliedFor src) = clock s := by
  unfold State.appliedFor
  split <;> simp

@[simp] theorem clock_refuseWaiting (o : OutMsg) : clock (s.refuseWaiting o) = clock s := by
  unfold State.refuseWaiting
  dsimp only
  split
  · simp; rfl
  · split
    · split <;> rfl
    · split
      · rfl
      · simp; rfl

@[simp] theorem clock_tryInject (o : OutMsg) : clock (s.tryInject o) = clock s := by
  unfold State.tryInject
  split
  · rfl
  · split
    · split <;> simp
    · split
      · rfl
      · exact clock_takeSeq s _

theorem clock_send {m : Msg} {part : Option Nat} {src : CtrSrc} {rep : Nat × Nat × Nat} {u : State}
    (h : s.send m part src rep = some u) : clock u = clock s := by
  unfold State.send at h
  dsimp only at h
  split at h
  · cases h
  · cases h
    simp; rfl

@[simp] theorem clock_sendFor (k : Cmd) (i : Nat) (m : Msg) : clock (s.sendFor a k i m) = clock s := by
  unfold State.sendFor
  split
  · rename_i u hu
    simp [clock_send s hu]
  · simp

/-! ### The engines -/

@[simp] theorem clock_toBuffer (k : Cmd) (es : List (Nat × Nat × List Byte)) (fl : Fl) :
    clock (s.toBuffer a k es fl) = clock s := clock_modCore ..

@[simp] theorem clock_killAtS (k : Cmd) (e : Exc) : clock (s.killAtS a k e) = clock s := clock_modCore ..

@[simp] theorem clock_cmdRead (c : Core) (k : Cmd) (i : Nat) : clock (s.cmdRead a now p c k i) = clock s := by
  unfold State.cmdRead
  extract_lets own rd accs bankUse adv
  have hb : clock bankUse = clock s := clock_useBanks ..
  split
  · simp
  · split
    case h_1 => simp
    case h_2 => simp [hb]
    case h_3 => simp
    case h_4 => simp
    case h_5 => simp [hb]
    case h_6 => split <;> simp [hb]
    case h_7 => simp; exact hb
    case h_8 => exact (clock_foldl _ (fun u j => clock_sendFor u a ..) _ _).trans ((clock_modCore ..).trans hb)
    case h_9 => exact (clock_sendFor ..).trans ((clock_modCore ..).trans hb)
    case h_10 => simp [hb]
    case h_11 => simp [hb]
    case h_12 => rfl

@[simp] theorem clock_cmdWrite (k : Cmd) (i : Nat) : clock (s.cmdWrite a now p k i) = clock s := by
  unfold State.cmdWrite
  extract_lets data k' runs blocks note
  split
  · simp
  · simp
  · split <;> simp

@[simp] theorem clock_cmdMap (c : Core) (k : Cmd) (i : Nat) : clock (s.cmdMap a now p c k i) = clock s := by
  unfold State.cmdMap
  extract_lets own
  split
  · dsimp only
    split
    · simp
    · split <;> simp
  · dsimp only
    split
    · simp
    · split
      · split <;> simp
      · simp
  · rfl

@[simp] theorem clock_doCmd (id ph i : Nat) : clock (s.doCmd a now p id ph i) = clock s := by
  unfold State.doCmd
  split
  · rfl
  · split
    · simp
    · split
      · simp
      · split
        · simp
        · split <;> simp

@[simp] theorem clock_doXcpyOut (id i : Nat) (v : VReg) : clock (s.doXcpyOut a now p id i v) = clock s := by
  unfold State.doXcpyOut
  split <;> simp

/-! ### The matrix slot, the banks and the array -/

@[simp] theorem clock_doWRow (k : Nat) : clock (s.doWRow a now p k) = clock s := by
  unfold State.doWRow
  split
  · rfl
  · split
    · rfl
    · dsimp only
      split
      · split <;> simp
      · split
        · split <;> simp
        · simp

@[simp] theorem clock_doARow (q i : Nat) : clock (s.doARow a now p q i) = clock s := by
  unfold State.doARow
  split <;> simp

@[simp] theorem clock_doDRes (id j : Nat) (img : List (BitVec 64)) : clock (s.doDRes a now p id j img) = clock s := by
  unfold State.doDRes
  split <;> simp

@[simp] theorem clock_doDOut (id j : Nat) (b sb : List Byte) (esc : BitVec 128) (fl : Fl) :
    clock (s.doDOut a now p id j b sb esc fl) = clock s := by
  unfold State.doDOut
  split <;> simp

@[simp] theorem clock_doRRow (id j : Nat) : clock (s.doRRow a now p id j) = clock s := by
  unfold State.doRRow
  split <;> simp

@[simp] theorem clock_doGemvA (id i : Nat) : clock (s.doGemvA a now p id i) = clock s := by
  unfold State.doGemvA
  split <;> simp

@[simp] theorem clock_doCatch (x die wall : Nat) : clock (s.doCatch a now p x die wall) = clock s := by
  unfold State.doCatch
  split <;> simp

@[simp] theorem clock_doLdb (d : BitVec 6) (x size : Nat) (sx : Bool) (rc : Option Nat) :
    clock (s.doLdb a now p d x size sx rc) = clock s := by
  unfold State.doLdb
  split
  · rfl
  · split
    · simp
    · split <;> simp

@[simp] theorem clock_doStb (v : BitVec 64) (x size : Nat) (rc : Option Nat) :
    clock (s.doStb a now p v x size rc) = clock s := by
  unfold State.doStb
  split
  · rfl
  · split
    · simp
    · split <;> simp

@[simp] theorem clock_doLdt (d : BitVec 6) (x size : Nat) (sx : Bool) : clock (s.doLdt a now p d x size sx) = clock s := by
  unfold State.doLdt
  split <;> simp

@[simp] theorem clock_doStt (v : BitVec 64) (x size : Nat) : clock (s.doStt a now p v x size) = clock s := by
  simp [State.doStt]

@[simp] theorem clock_doVld (d : BitVec 5) (pat : Pattern) (dyn : Bool) (row : Nat) (f : BitVec 32) (sub : Nat)
    (m : BitVec 1024) : clock (s.doVld a now p d pat dyn row f sub m) = clock s := by
  unfold State.doVld
  split
  · rfl
  · dsimp only; split <;> simp

@[simp] theorem clock_doVst (v : VReg) (pat : Pattern) (dyn : Bool) (row : Nat) (f : BitVec 32) (sub : Nat)
    (m : BitVec 1024) : clock (s.doVst a now p v pat dyn row f sub m) = clock s := by
  unfold State.doVst
  split
  · rfl
  · dsimp only; split <;> simp

@[simp] theorem clock_doVldt (d : BitVec 5) (j : Nat) (col : Bool) (m : BitVec 1024) :
    clock (s.doVldt a now p d j col m) = clock s := by
  unfold State.doVldt
  split
  · rfl
  · dsimp only; split <;> simp

@[simp] theorem clock_doVstt (v : VReg) (j : Nat) (col : Bool) (m : BitVec 1024) :
    clock (s.doVstt a now p v j col m) = clock s := by
  unfold State.doVstt
  split <;> simp

@[simp] theorem clock_handOver (iss : Nat) (pub : Bool) : clock (s.handOver a iss pub) = clock s := by
  unfold State.handOver
  split
  · rfl
  · exact clock_setCore s a _

@[simp] theorem clock_renew : clock (s.renew a) = clock s := by
  unfold State.renew
  split
  · rfl
  · exact clock_setCore s a _

@[simp] theorem clock_doPhaseCore (iss : Nat) : clock (s.doPhaseCore a iss) = clock s := by
  simp [State.doPhaseCore]

/-- One effect performs, and the clock stands: of each kind of effect. -/
theorem clock_doAct : clock (s.doAct a now p) = clock s := by
  unfold State.doAct
  dsimp only
  cases p.act with
  | holder o n new =>
    dsimp only
    split <;> simp
  | _ => simp

@[simp] theorem clock_performRank (k : Nat) : clock (s.performRank a now k) = clock s := by
  unfold State.performRank
  split
  · rfl
  · exact (clock_foldl _ (fun u q => clock_doAct u a now q) _ _).trans (clock_setCore ..)

@[simp] theorem clock_writeConflicts : clock (s.writeConflicts a now) = clock s := by
  unfold State.writeConflicts
  split
  · rfl
  · exact (clock_foldl _ (fun u w => clock_clashFault u a now ..) _ _).trans (clock_setCore ..)

/-- Everything that is due performs, and the clock stands. -/
theorem clock_performAll (l : List Agent) : clock (s.performAll l now) = clock s := by
  have hrank (k : Nat) (u : State) : clock (l.foldl (fun s a => s.performRank a now k) u) = clock u :=
    clock_foldl _ (fun u b => clock_performRank u b now k) _ _
  unfold State.performAll
  dsimp only
  refine (clock_foldl _ (fun u b => clock_modCore u b _) _ _).trans ?_
  refine (clock_foldl _ (fun u k => hrank k u) _ _).trans ?_
  refine (clock_foldl _ (fun u b => clock_modCore u b _) _ _).trans ?_
  exact (hrank 0 _).trans (clock_foldl _ (fun u b => clock_writeConflicts u b now) _ _)

theorem clock_handleConflicts (t : Nat) : clock (s.handleConflicts t now) = clock s := by
  unfold State.handleConflicts
  split
  · rfl
  · refine clock_foldl _ (fun u m => ?_) _ _
    split <;> simp

end

end Sys2Proof.Proofs.ExecutionModel
end

section
/-! The statement on due results (R19, R20, R57, R77, R121, R122). -/

namespace Sys2Proof.Proofs.ExecutionModel

open Sys2Proof Sys2Proof.Machine Sys2Proof.Claims

/-! ## One agent whose effects of one rank are due -/

section
variable {s : State} {a : Agent} {c c1 k : Core} {now r : Nat}

theorem foldl_of_eq_nil {α β : Type} {l : List α} (h : l = []) (f : β → α → β) (b : β) : l.foldl f b = b := by
  rw [h, List.foldl_nil]

/-- Where no effect has rank `r`, nothing performs at that rank. -/
theorem performRank_idle (h : s.core? a = some c) (hr : ∀ p ∈ c.pend, p.act.rank ≠ r) : s.performRank a now r = s := by
  have h1 : (c.pend.filter fun p => c.ready now p && p.act.rank == r) = [] := by
    rw [List.filter_eq_nil_iff]
    intro p hp
    simp [hr p hp]
  have h2 : (c.pend.filter fun p => !(c.ready now p && p.act.rank == r)) = c.pend := by
    rw [List.filter_eq_self]
    intro p hp
    simp [hr p hp]
  simp only [State.performRank, h, h1, h2, List.foldl_nil]
  exact setCore_self h

/-- Where every effect is ready and of rank `r`, all perform at that rank. -/
theorem performRank_all (h : s.core? a = some c) (hr : ∀ p ∈ c.pend, c.ready now p = true ∧ p.act.rank = r) :
    s.performRank a now r = c.pend.foldl (fun s p => s.doAct a now p) (s.setCore a { c with pend := [] }) := by
  have h1 : (c.pend.filter fun p => c.ready now p && p.act.rank == r) = c.pend := by
    rw [List.filter_eq_self]
    intro p hp
    simp [hr p hp]
  have h2 : (c.pend.filter fun p => !(c.ready now p && p.act.rank == r)) = [] := by
    rw [List.filter_eq_nil_iff]
    intro p hp
    simp [hr p hp]
  simp only [State.performRank, h, h1, h2]

theorem ranks_idle (h : s.core? a = some c) (l : List Nat) (hr : ∀ p ∈ c.pend, p.act.rank ∉ l) :
    l.foldl (fun s k => s.performRank a now k) s = s := by
  induction l with
  | nil => rfl
  | cons x l ih =>
    rw [List.foldl_cons, performRank_idle h fun p hp he => hr p hp (he ▸ List.mem_cons_self)]
    exact ih fun p hp hm => hr p hp (List.mem_cons_of_mem _ hm)

/-- A core with no load of G under way has none that performs. -/
theorem performFetches_nil (h : c.fetches = []) : c.performFetches now = c := by
  simp only [Core.performFetches, h, List.filter_nil, List.foldl_nil]
  rw [← h]

/-- Of the ranks after the writes of FLAGS, those before and those after `r`. -/
theorem ranks_split (hr : r ≤ 5) (h0 : r ≠ 0) :
    ∃ l m, [1, 2, 3, 4, 5] = l ++ r :: m ∧ r ∉ l ∧ ∀ x ∈ m, r < x := by
  obtain rfl | rfl | rfl | rfl | rfl : r = 1 ∨ r = 2 ∨ r = 3 ∨ r = 4 ∨ r = 5 := by omega
  · exact ⟨[], [2, 3, 4, 5], rfl, by decide, by decide⟩
  · exact ⟨[1], [3, 4, 5], rfl, by decide, by decide⟩
  · exact ⟨[1, 2], [4, 5], rfl, by decide, by decide⟩
  · exact ⟨[1, 2, 3], [5], rfl, by decide, by decide⟩
  · exact ⟨[1, 2, 3, 4], [], rfl, by decide, by decide⟩

/-- One agent's due effects, all of rank `r`: the conflicts of its writes leave the core as `c1`, its effects as `k`, with
nothing that has rank beyond `r`; then that is the outcome, but that commands which are over leave the list. -/
theorem performAll_of_rank (h : s.core? a = some c) (hw : s.writeConflicts a now = s.setCore a c1)
    (hf : c1.fetches = []) (hr : ∀ p ∈ c1.pend, c1.ready now p = true ∧ p.act.rank = r) (h5 : r ≤ 5)
    (hd : c1.pend.foldl (fun s p => s.doAct a now p) (s.setCore a { c1 with pend := [] }) = s.setCore a k)
    (hkf : k.fetches = []) (hk : ∀ q ∈ k.pend, q.act.rank ≤ r) :
    s.performAll [a] now = s.setCore a k.sweep := by
  have hc {x : Core} : (s.setCore a x).core? a = some x := core_setCore_same h
  have hfetch {x : Core} (hx : x.fetches = []) :
      ((s.setCore a x).modCore a fun c => c.performFetches now) = s.setCore a x := by
    rw [modCore_setCore h, performFetches_nil hx]
  have hrun : (s.setCore a c1).performRank a now r = s.setCore a k := by
    rw [performRank_all hc hr, setCore_setCore, hd]
  have hend : (s.setCore a k).modCore a Core.sweep = s.setCore a k.sweep := modCore_setCore h _
  show (([1, 2, 3, 4, 5].foldl (fun s k => s.performRank a now k)
    (((s.writeConflicts a now).performRank a now 0).modCore a fun c => c.performFetches now)).modCore a Core.sweep) = _
  rw [hw]
  by_cases h0 : r = 0
  · subst h0
    rw [hrun, hfetch hkf, ranks_idle hc _ fun q hq hm => ?_, hend]
    have := hk q hq
    simp at hm
    omega
  · obtain ⟨l, m, hlm, hl, hm⟩ := ranks_split h5 h0
    rw [performRank_idle hc fun p hp he => h0 ((hr p hp).2 ▸ he), hfetch hf, hlm, List.foldl_append, List.foldl_cons,
      ranks_idle hc l fun p hp => (hr p hp).2 ▸ hl, hrun,
      ranks_idle hc m fun q hq hmem => absurd (hm _ hmem) (Nat.not_lt.2 (hk q hq)), hend]

/-! ## The agents of the statement -/

/-- What a party with one core, or a management core, performs is what its agent performs, where no buffer moves. -/
theorem exec_resultPerforms_one {w : Party} (h : s.core? a = some c)
    (hw : (∃ t tr, w = .troupe t ∧ a = .core t 0 ∧ s.troupe? t = some tr ∧ tr.cores = [c]) ∨
      ∃ m, w = .mgmt m ∧ a = .mgmt m)
    (hm : ∀ p ∈ c.pend, ∀ o n x, p.act ≠ .holder o n x) :
    exec (.resultPerforms w) s = .next (s.performAll [a] (s.now a)) := by
  obtain ⟨t, tr, rfl, rfl, ht, hcs⟩ | ⟨m, rfl, rfl⟩ := hw
  · have hmoves : s.handleConflicts t tr.adv = s := by
      simp only [State.handleConflicts, ht]
      refine foldl_of_eq_nil ?_ _ _
      simp only [hcs, List.mapIdx_cons, List.mapIdx_nil, List.flatMap_cons, List.flatMap_nil, List.append_nil,
        List.filterMap_eq_nil_iff]
      intro p hp
      split
      · rename_i o n x he
        exact absurd he (hm p hp o n x)
      · rfl
    have hnow : s.now (.core t 0) = tr.adv := by simp [State.now, ht]
    show execResultPerforms (.troupe t) s = _
    simp only [execResultPerforms, ht, hmoves, hcs, hnow]
    rfl
  · have hm2 : m < 2 := by
      simp only [State.core?] at h
      split at h
      · assumption
      · cases h
    show execResultPerforms (.mgmt m) s = _
    simp only [execResultPerforms, hm2, if_true]

end

/-! ## Conflicts among few writes -/

theorem losers_of_length_le_one {l : List Wr} (h : l.length ≤ 1) : losers l = [] := by
  match l, h with
  | [], _ => rfl
  | [_], _ => rfl

section
variable {s : State} {a : Agent} {c : Core} {now : Nat} {p : Pend}

theorem writesDue_length_le_one (hp : c.pend = [p]) (hf : c.fetches = []) : (c.writesDue now).length ≤ 1 := by
  have h1 : ((c.locOf p.act).toList).length ≤ 1 := by cases c.locOf p.act <;> simp
  simp only [Core.writesDue, hp, hf, List.filter_nil, List.flatMap_nil, List.append_nil, List.filter_cons]
  split
  · simp [h1]
  · simp

/-- Writes that meet no other are noted, and nothing else changes (R20). -/
theorem writeConflicts_of_no_loser (h : s.core? a = some c) (h1 : c.wrote.flatMap (losersTo · (c.writesDue now)) = [])
    (h2 : losers (c.writesDue now) = []) :
    s.writeConflicts a now = s.setCore a { c with wrote := c.wrote ++ c.writesDue now } := by
  simp only [State.writeConflicts, h, h1, h2, List.append_nil, List.foldl_nil]

/-- An effect performs once it is due, unless it is a cycle of a copy command, a system register or a `phase.core`. -/
theorem ready_of_due (hd : p.due ≤ now) (hc : ∀ id ph i, p.act ≠ .cmd id ph i) (hs : ∀ x y z, p.act ≠ .sys x y z)
    (hph : p.act ≠ .phaseCore) : c.ready now p = true := by
  unfold Core.ready Core.pieceWaits Core.bufferFull
  cases ha : p.act with
  | cmd id ph i => exact absurd ha (hc id ph i)
  | sys x y z => exact absurd ha (hs x y z)
  | phaseCore => exact absurd ha hph
  | _ => simp [hd]

end

/-! ## Registers -/

/-- An effect that reaches a register or FLAGS of its core, or schedules the read of FLAGS. -/
def isRegister : Act → Bool
  | .wS .. | .wP .. | .wV .. | .wF .. | .wK .. | .wX .. | .loopc .. | .push .. | .csrFlags _ | .flagsOnly | .readFlags _ => true
  | _ => false

/-- What such an effect does to the core, once its flags are raised. -/
def registerEffect (p : Pend) (c : Core) : Core :=
  match p.act with
  | .wS d v => c.ws d v
  | .wP d v => c.wp d v
  | .wV d v m => c.wv d v m
  | .wF f v => { c with f := vset c.f f.toNat v }
  | .wK k v => { c with k := vset c.k k.toNat v }
  | .wX x v => { c with x := vset c.x x.toNat v }
  | .loopc n v => { c with loopc := vset c.loopc n.toNat v }
  | .push q e => { c with q := vmod [] c.q q fun l => l ++ [e] }
  | .csrFlags v => { c with flags := v.truncate 7 ||| p.flags }
  | .readFlags d => { c with pend := c.pend ++ [{ p with due := p.iss + 1, act := .wS d (c.flags.zeroExtend 64) }] }
  | _ => c

section
variable {s : State} {a : Agent} {c k : Core} {now : Nat} {p : Pend}

/-- `registerEffect` is what the model performs. -/
theorem doAct_register (h : s.core? a = some c) (hr : isRegister p.act = true) :
    s.doAct a now p = s.setCore a (registerEffect p { c with flags := c.flags ||| p.flags }) := by
  cases ha : p.act
  case wS | wP | wV | wF | wK | wX | loopc | push | csrFlags | flagsOnly | readFlags =>
    simp only [State.doAct, registerEffect, ha, modCore_of_some h, modCore_setCore h]
  all_goals
    rw [ha] at hr
    exact Bool.noConfusion hr

theorem rank_le (x : Act) : x.rank ≤ 5 := by
  cases x with
  | cmd id ph i =>
    match ph with
    | 0 => exact Nat.le_of_ble_eq_true rfl
    | 1 => exact Nat.le_of_ble_eq_true rfl
    | n + 2 => exact Nat.le_of_ble_eq_true rfl
  | _ => exact Nat.le_of_ble_eq_true rfl

/-- A single due effect on a register reaches it: the core is left as `k`, and memory as it was. -/
theorem register_performs {w : Party} (h : s.core? a = some c)
    (hw : (∃ t tr, w = .troupe t ∧ a = .core t 0 ∧ s.troupe? t = some tr ∧ tr.cores = [c]) ∨
      ∃ m, w = .mgmt m ∧ a = .mgmt m)
    (hp : c.pend = [p]) (hf : c.fetches = []) (hwr : c.wrote = []) (hd : p.due ≤ s.now a) (hr : isRegister p.act = true)
    (hk : ∀ l, registerEffect p { c with pend := [], flags := c.flags ||| p.flags, wrote := l } = { k with wrote := l })
    (hkf : k.fetches = []) (hkp : ∀ q ∈ k.pend, q.act.rank ≤ p.act.rank) :
    ∃ u l, exec (.resultPerforms w) s = .next u ∧
      u.core? a = some { k with wrote := l, cmds := k.cmds.filter fun d => !k.cmdOver d } ∧ u.gmem = s.gmem ∧ u.hmem = s.hmem := by
  have hready : ({ c with wrote := c.wrote ++ c.writesDue (s.now a) } : Core).ready (s.now a) p = true := by
    apply ready_of_due hd <;> intros <;> intro he <;> rw [he] at hr <;> exact Bool.noConfusion hr
  have hrun := performAll_of_rank (now := s.now a) (r := p.act.rank) h
    (writeConflicts_of_no_loser h (by rw [hwr]; rfl) (losers_of_length_le_one (writesDue_length_le_one hp hf)))
    hf (fun q hq => by
      obtain rfl : q = p := by simpa [hp] using hq
      exact ⟨hready, rfl⟩) (rank_le _)
    (k := { k with wrote := c.wrote ++ c.writesDue (s.now a) })
    (by
      simp only [hp, List.foldl_cons, List.foldl_nil]
      rw [doAct_register (core_setCore_same h) hr, setCore_setCore]
      exact congrArg _ (hk _))
    hkf hkp
  refine ⟨_, c.wrote ++ c.writesDue (s.now a), ?_, core_setCore_same h, by simp, by simp⟩
  rw [exec_resultPerforms_one h hw, hrun]
  · rfl
  · intro q hq o n x he
    obtain rfl : q = p := by simpa [hp] using hq
    rw [he] at hr
    exact Bool.noConfusion hr

end

theorem dueResults_clock (s : State) : (∀ (t : Nat) (tr : Troupe), s.troupe? t = some tr →
      ∃ u, exec (.resultPerforms (.troupe t)) s = .next u ∧ u.wall = s.wall ∧ u.cursor = s.cursor) ∧
    ∀ m, m < 2 → ∃ u, exec (.resultPerforms (.mgmt m)) s = .next u ∧ u.wall = s.wall ∧ u.cursor = s.cursor := by
  refine ⟨fun t tr ht => ?_, fun m hm => ?_⟩
  · refine ⟨(s.handleConflicts t tr.adv).performAll (tab tr.cores.length fun r => .core t r) tr.adv, ?_, clock_eq_iff.1 ?_⟩
    · show execResultPerforms (.troupe t) s = _
      simp only [execResultPerforms, ht]
    · exact (clock_performAll ..).trans (clock_handleConflicts ..)
  · refine ⟨s.performAll [.mgmt m] (s.now (.mgmt m)), ?_, clock_eq_iff.1 (clock_performAll ..)⟩
    show execResultPerforms (.mgmt m) s = _
    simp only [execResultPerforms, hm, if_true]

/-- Of two writes of one register in one cycle, that of the later issue is the loser (R20). -/
theorem losers_pair {x y : Wr} (hl : x.loc = y.loc) (h : x.iss < y.iss ∨ x.iss = y.iss ∧ x.word < y.word) :
    losers [x, y] = [y] := by
  have hc : chargedFirst y.iss y.word x.iss x.word = true := by
    simp only [chargedFirst, Bool.or_eq_true, Bool.and_eq_true, decide_eq_true_eq, beq_iff_eq]
    omega
  simp [losers, losersTo, hl, hc]

/-- The first structural fault of a cycle is recorded in the core, and nothing else of it changes. -/
theorem clashFault_first {s : State} {a : Agent} {c : Core} (h : s.core? a = some c) (hr : c.raised = [])
    (now iss word b : Nat) (rtn : Option Nat) : ∃ f : Raised,
      s.clashFault a now iss word b rtn = s.setCore a { c with raised := [f] } ∧ f.cause = 0x04 ∧ f.word = some word ∧
        f.baddr = b := by
  refine ⟨{ cause := 0x04, sub := 0, word := some word, deferred := decide (iss < now),
            done := if iss < now then 0xFF else BitVec.ofNat 8 (2 ^ word - 2), baddr := b, addr := BitVec.ofNat 64 (rtn.getD 0),
            aux0 := 0, aux1 := 0, hnd := 0, code := 0, hcs := 0, rtnw := rtn.isSome, kill := false }, ?_, rfl, rfl, rfl⟩
  rw [State.clashFault, modCore_of_some h]
  simp only [hr, List.any_nil, Bool.false_eq_true, if_false, Core.raise, List.nil_append]
  rfl

theorem two_writes_conflict (s : State) (t : Nat) (tr : Troupe) (c : Core) (p q : Pend) (d : SReg) (v z : BitVec 64)
    (ht : s.troupe? t = some tr) (hc : tr.cores = [c]) (hp : c.pend = [p, q]) (hf : c.fetches = []) (hwr : c.wrote = [])
    (hra : c.raised = []) (hdp : p.due ≤ tr.adv) (hdq : q.due ≤ tr.adv) (h0 : d ≠ 0) (hap : p.act = .wS d v)
    (haq : q.act = .wS d z) (hlt : p.iss < q.iss ∨ p.iss = q.iss ∧ p.word < q.word) :
    ∃ u k f, exec (.resultPerforms (.troupe t)) s = .next u ∧ u.core? (.core t 0) = some k ∧ k.raised = [f] ∧
      f.cause = 0x04 ∧ f.word = some q.word ∧ f.baddr = q.baddr := by
  have h : s.core? (.core t 0) = some c := core?_core_iff.2 ⟨tr, ht, by simp [hc]⟩
  have hdue : c.writesDue tr.adv = [⟨(0, d.toNat), p.iss, p.word, p.baddr, p.rtn⟩, ⟨(0, d.toNat), q.iss, q.word, q.baddr, q.rtn⟩] := by
    simp [Core.writesDue, hp, hf, hdp, hdq, Core.locOf, Act.loc, hap, haq, show ¬ d = 0#6 from h0]
  have hlos : losers (c.writesDue tr.adv) = [⟨(0, d.toNat), q.iss, q.word, q.baddr, q.rtn⟩] := by
    rw [hdue]; exact losers_pair rfl hlt
  have hc1 : s.writeConflicts (.core t 0) tr.adv =
      (s.setCore (.core t 0) { c with wrote := c.wrote ++ c.writesDue tr.adv }).clashFault (.core t 0) tr.adv q.iss q.word
        q.baddr q.rtn := by
    simp only [State.writeConflicts, h, hwr, hlos, List.flatMap_nil, List.nil_append, List.foldl_cons, List.foldl_nil]
  obtain ⟨f, hfault, hcause, hword, hb⟩ := clashFault_first
    (core_setCore_same (c := { c with wrote := c.wrote ++ c.writesDue tr.adv }) h) hra tr.adv q.iss q.word q.baddr q.rtn
  rw [hfault, setCore_setCore] at hc1
  have hready {x : Core} {y : Pend} {e : SReg} {u : BitVec 64} (hy : y.act = .wS e u) (hdy : y.due ≤ tr.adv) :
      x.ready tr.adv y = true := by
    apply ready_of_due hdy <;> simp [hy]
  have hrun := performAll_of_rank (now := tr.adv) (r := 2)
    (k := { c with pend := [], wrote := c.wrote ++ c.writesDue tr.adv, raised := [f], flags := c.flags ||| p.flags ||| q.flags,
                   s := vset (vset c.s d.toNat v) d.toNat z }) h hc1 hf (fun y hy => by
      obtain rfl | rfl : y = p ∨ y = q := by simpa [hp] using hy
      · exact ⟨hready hap hdp, by rw [hap]; rfl⟩
      · exact ⟨hready haq hdq, by rw [haq]; rfl⟩) (by omega)
    (by
      simp only [hp, List.foldl_cons, List.foldl_nil]
      rw [doAct_register (core_setCore_same h) (by rw [hap]; rfl), setCore_setCore,
        doAct_register (core_setCore_same h) (by rw [haq]; rfl), setCore_setCore]
      simp only [registerEffect, hap, haq, Core.ws, h0, if_false])
    hf (by simp)
  have hexec := exec_resultPerforms_one (w := .troupe t) h (.inl ⟨t, tr, rfl, rfl, ht, hc⟩) fun y hy o n x he => by
    obtain rfl | rfl : y = p ∨ y = q := by simpa [hp] using hy
    · rw [hap] at he; cases he
    · rw [haq] at he; cases he
  rw [show s.now (.core t 0) = tr.adv by simp [State.now, ht], hrun] at hexec
  exact ⟨_, _, f, hexec, core_setCore_same h, rfl, hcause, hword, hb⟩

theorem dueResults : DueResults := by
  refine ⟨fun s => (dueResults_clock s).1, fun s => (dueResults_clock s).2, ?_, two_writes_conflict⟩
  intro s w a c p h hw hp hf hwr hd leaves raised
  have hleaves (k : Core) (hr : isRegister p.act = true)
      (hk : ∀ l, registerEffect p { raised with wrote := l } = { k with wrote := l }) (hkf : k.fetches = [])
      (hkp : ∀ q ∈ k.pend, q.act.rank ≤ p.act.rank) : leaves k := register_performs h hw hp hf hwr hd hr hk hkf hkp
  refine ⟨fun d v ha => ?_, fun d v ha => ?_, fun d v m ha => ?_, fun f v ha => ?_, fun k v ha => ?_, fun x v ha => ?_,
    fun n v ha => ?_, fun q e ha => ?_, fun v ha => ?_, fun ha => ?_, fun d ha => ?_⟩
  · refine hleaves _ (by rw [ha]; rfl) (fun l => ?_) hf (by simp [raised])
    by_cases h0 : d = 0 <;> simp only [registerEffect, ha, Core.ws, h0, if_true, if_false, raised]
  · refine hleaves _ (by rw [ha]; rfl) (fun l => ?_) hf (by simp [raised])
    by_cases h0 : d = 0 <;> simp only [registerEffect, ha, Core.wp, h0, if_true, if_false, raised]
  · refine hleaves _ (by rw [ha]; rfl) (fun l => ?_) hf (by simp [raised])
    simp only [registerEffect, ha, Core.wv, raised]; rfl
  · refine hleaves _ (by rw [ha]; rfl) (fun l => ?_) hf (by simp [raised])
    simp only [registerEffect, ha, raised]
  · refine hleaves _ (by rw [ha]; rfl) (fun l => ?_) hf (by simp [raised])
    simp only [registerEffect, ha, raised]
  · refine hleaves _ (by rw [ha]; rfl) (fun l => ?_) hf (by simp [raised])
    simp only [registerEffect, ha, raised]
  · refine hleaves _ (by rw [ha]; rfl) (fun l => ?_) hf (by simp [raised])
    simp only [registerEffect, ha, raised]
  · refine hleaves _ (by rw [ha]; rfl) (fun l => ?_) hf (by simp [raised])
    simp only [registerEffect, ha, raised]
  · refine hleaves _ (by rw [ha]; rfl) (fun l => ?_) hf (by simp [raised])
    simp only [registerEffect, ha, raised]
  · refine hleaves _ (by rw [ha]; rfl) (fun l => ?_) hf (by simp [raised])
    simp only [registerEffect, ha, raised]
  · refine hleaves _ (by rw [ha]; rfl) (fun l => ?_) hf fun q hq => ?_
    · simp only [registerEffect, ha, raised, List.nil_append]
    · obtain rfl := List.mem_singleton.1 hq
      rw [ha]; exact Nat.le_of_ble_eq_true rfl

/-! ## The local memory -/

section
variable {s : State} {t : Nat} {tr : Troupe} {c k : Core} {p : Pend}

/-- Of a core a structural fault changes only what is raised; a fault of another position of a troupe of one core is not
raised at all. -/
theorem clashFault_single (ht : s.troupe? t = some tr) (hc : tr.cores.length = 1) (h : s.core? (.core t 0) = some c)
    (r now iss word b : Nat) (rtn : Option Nat) :
    ∃ l, s.clashFault (.core t r) now iss word b rtn = s.setCore (.core t 0) { c with raised := l } := by
  rw [State.clashFault]
  cases r with
  | zero =>
    rw [modCore_of_some h]
    split
    · exact ⟨c.raised, rfl⟩
    · obtain ⟨f, hf, -⟩ := Core.raise_eq c word structural (decide (iss < now))
        (if iss < now then 0xFF else BitVec.ofNat 8 (2 ^ word - 2)) b rtn
      exact ⟨c.raised ++ [f], by rw [hf]⟩
  | succ r =>
    rw [modCore_of_none (by simp [State.core?, ht, hc])]
    exact ⟨c.raised, (setCore_self h).symm⟩

/-- Of the core of a troupe of one core, an access to its wall changes only the list of the accesses and what is raised. -/
theorem useBank_single (ht : s.troupe? t = some tr) (hc : tr.cores.length = 1) (h : s.core? (.core t 0) = some c)
    (now : Nat) (ac : Access) :
    ∃ l m, s.useBank (.core t 0) now ac = s.setCore (.core t 0) { c with acc70 := m, raised := l } := by
  simp only [State.useBank, h]
  split
  · exact ⟨c.raised, _, rfl⟩
  · rw [setCore_core ht]
    obtain ⟨l, hl⟩ := clashFault_single (c := { c with acc70 := ac :: c.acc70 })
      (troupe_setTroupe_same (y := { tr with cores := tr.cores.set 0 { c with acc70 := ac :: c.acc70 } }) ht)
      (by simpa using hc) (by rw [← setCore_core ht]; exact core_setCore_same h) _ now _ _ _ _
    exact ⟨l, _, by rw [atPos, hl, ← setCore_core ht, setCore_setCore]⟩

/-- A single due effect that writes no register performs as it does alone. -/
theorem memory_performs (ht : s.troupe? t = some tr) (hc : tr.cores = [c]) (hp : c.pend = [p]) (hf : c.fetches = [])
    (hd : p.due ≤ tr.adv) (hl : c.locOf p.act = none) (hready : c.ready tr.adv p = true)
    (hm : ∀ o n x, p.act ≠ .holder o n x)
    (hk : (s.setCore (.core t 0) { c with pend := [] }).doAct (.core t 0) tr.adv p = s.setCore (.core t 0) k)
    (hkf : k.fetches = []) (hkp : ∀ q ∈ k.pend, q.act.rank ≤ p.act.rank) :
    ∃ u, exec (.resultPerforms (.troupe t)) s = .next u ∧ u.core? (.core t 0) = some k.sweep := by
  have h : s.core? (.core t 0) = some c := core?_core_iff.2 ⟨tr, ht, by simp [hc]⟩
  have hdue : c.writesDue tr.adv = [] := by
    simp [Core.writesDue, hp, hf, hl, hd]
  have hw : s.writeConflicts (.core t 0) tr.adv = s.setCore (.core t 0) c := by
    rw [writeConflicts_of_no_loser h (by simp [hdue, losersTo]) (by rw [hdue]; rfl), hdue, List.append_nil]
  have hmem {x : Pend} (hx : x ∈ c.pend) : x = p := by simpa [hp] using hx
  have hrun := performAll_of_rank h hw hf (fun q hq => ⟨hmem hq ▸ hready, hmem hq ▸ rfl⟩) (rank_le p.act)
    (by simpa only [hp, List.foldl_cons, List.foldl_nil] using hk) hkf hkp
  refine ⟨_, ?_, core_setCore_same h⟩
  rw [exec_resultPerforms_one h (.inl ⟨t, tr, rfl, rfl, ht, hc⟩) fun q hq => hmem hq ▸ hm,
    show s.now (.core t 0) = tr.adv by simp [State.now, ht], hrun]

/-- What a core that was set becomes when it accesses its wall. -/
theorem useBank_setCore (ht : s.troupe? t = some tr) (hc : tr.cores = [c]) (k : Core) (now : Nat) (ac : Access) :
    ∃ l m, (s.setCore (.core t 0) k).useBank (.core t 0) now ac =
      s.setCore (.core t 0) { k with acc70 := m, raised := l } := by
  have h : s.core? (.core t 0) = some c := core?_core_iff.2 ⟨tr, ht, by simp [hc]⟩
  rw [setCore_core ht]
  obtain ⟨l, m, hl⟩ := useBank_single (c := k)
    (troupe_setTroupe_same (y := { tr with cores := tr.cores.set 0 k }) ht)
    (by simp [hc]) (by rw [← setCore_core ht]; exact core_setCore_same h) now ac
  exact ⟨l, m, by rw [hl, ← setCore_core ht, setCore_setCore]⟩

theorem store_performs {v : BitVec 64} {a size : Nat} (ht : s.troupe? t = some tr) (hc : tr.cores = [c]) (hp : c.pend = [p])
    (hf : c.fetches = []) (hd : p.due ≤ tr.adv) (ha : p.act = .stb v a size none)
    (hh : vget 0 c.holder (a / 65536) = c.loc % 4) :
    ∃ u k, exec (.resultPerforms (.troupe t)) s = .next u ∧ u.core? (.core t 0) = some k ∧ k.pend = [] ∧ k.s = c.s ∧
      k.tarr = c.tarr ∧ k.bank = c.bank.write a (leBytes size v.toNat) := by
  have h : s.core? (.core t 0) = some c := core?_core_iff.2 ⟨tr, ht, by simp [hc]⟩
  obtain ⟨l, m, huse⟩ := useBank_setCore ht hc { c with pend := [], flags := c.flags ||| p.flags } tr.adv (spanAccess 0 p a size true)
  obtain ⟨u, hu, hcore⟩ := memory_performs
    (k := { c with pend := [], flags := c.flags ||| p.flags, acc70 := m, raised := l, bank := c.bank.write a (leBytes size v.toNat) })
    ht hc hp hf hd (by rw [ha]; rfl) (ready_of_due hd (by simp [ha]) (by simp [ha]) (by simp [ha])) (by simp [ha])
    (by simp only [State.doAct, ha, State.doStb, core_setCore_same h, State.wallOf, posOf, hh, ne_eq, not_true, if_false,
          huse, modCore_setCore h])
    hf (by simp)
  exact ⟨u, _, hu, hcore, rfl, rfl, rfl, rfl⟩

theorem load_performs {d : SReg} {a size : Nat} {sx : Bool} (ht : s.troupe? t = some tr) (hc : tr.cores = [c])
    (hp : c.pend = [p]) (hf : c.fetches = []) (hd : p.due ≤ tr.adv) (ha : p.act = .ldb d a size sx none)
    (hh : vget 0 c.holder (a / 65536) = c.loc % 4) :
    ∃ u k, exec (.resultPerforms (.troupe t)) s = .next u ∧ u.core? (.core t 0) = some k ∧ k.bank = c.bank ∧ k.s = c.s ∧
      k.pend = [{ p with due := p.iss + 4, act := .wS d (extend size sx (c.bank.num a size)) }] := by
  have h : s.core? (.core t 0) = some c := core?_core_iff.2 ⟨tr, ht, by simp [hc]⟩
  obtain ⟨l, m, huse⟩ := useBank_setCore ht hc { c with pend := [], flags := c.flags ||| p.flags } tr.adv (spanAccess 0 p a size false)
  obtain ⟨u, hu, hcore⟩ := memory_performs
    (k := { c with pend := [{ p with due := p.iss + 4, act := .wS d (extend size sx (c.bank.num a size)) }], acc70 := m,
                   flags := c.flags ||| p.flags, raised := l })
    ht hc hp hf hd (by rw [ha]; rfl) (ready_of_due hd (by simp [ha]) (by simp [ha]) (by simp [ha])) (by simp [ha])
    (by simp only [State.doAct, ha, State.doLdb, core_setCore_same h, State.wallOf, posOf, hh, ne_eq, not_true, if_false,
          huse, modCore_setCore h, Core.otherWall, Option.any_none, Bool.false_eq_true, List.nil_append])
    hf (fun q hq => by
      obtain rfl := List.mem_singleton.1 hq
      rw [ha]
      exact Nat.le_of_ble_eq_true rfl)
  exact ⟨u, _, hu, hcore, rfl, rfl, rfl⟩

end

theorem get_write_leBytes {m : Mem} (h : m.wf = true) (a size v x : Nat) :
    (m.write a (leBytes size v)).get x =
      if a ≤ x ∧ x < a + size then BitVec.ofNat 8 (v / 2 ^ (8 * (x - a))) else m.get x := by
  rw [Mem.get_write h, leBytes, length_tab]
  split
  · rw [List.getD_eq_getElem?_getD, getElem?_tab, if_pos (by omega), Option.getD_some]
  · rfl

theorem localAccessesPerform : LocalAccessesPerform := by
  intro s t tr c p ht hc hp hf hd hwf
  refine ⟨fun v a size ha _ hh => ?_, fun d a size sx ha hh => load_performs ht hc hp hf hd ha hh⟩
  obtain ⟨u, k, hu, hk, hpend, hs, htarr, hbank⟩ := store_performs ht hc hp hf hd ha hh
  exact ⟨u, k, hu, hk, hpend, hs, htarr, fun x => by rw [hbank, get_write_leBytes hwf]⟩

/-- Settles O54, by performing one agent's only due effect at its rank, and by the losers of two writes of one register. -/
theorem resultsPerform : Obligations.ResultsPerform := ⟨dueResults, localAccessesPerform⟩

end Sys2Proof.Proofs.ExecutionModel
end

section
/-! How a bundle begins and completes (R36, R80, R81, R89, R97, R99, R118 to R120, R210, R272 to R274, R403). -/

namespace Sys2Proof.Proofs.ExecutionModel

open Sys2Proof Sys2Proof.Machine Sys2Proof.Claims

/-! ## The pops of word 0 -/

/-- The pop that bit `n` of a mask asks for. -/
def popQueue (mask : Nat) (c : Core) (n : Nat) : Core :=
  if mask / 2 ^ n % 2 = 1 then
    match vget [] c.q n with
    | [] => { c with ep := c.ep ||| BitVec.ofNat 8 (2 ^ n) }
    | _ :: l => { c with q := vset c.q n l }
  else c

/-- What pops at the places `l` leave of a core's queues and EP bits. -/
def Popped (mask : Nat) (l : List Nat) (c : Core) (q : Vector (List (List (BitVec 32))) 8) (ep : BitVec 8) : Prop :=
  ∀ n, n < 8 → vget [] q n = (if n ∈ l ∧ mask.testBit n = true then (vget [] c.q n).drop 1 else vget [] c.q n) ∧
    ep.getLsbD n = (c.ep.getLsbD n || (decide (n ∈ l) && (mask.testBit n && (vget [] c.q n).isEmpty)))

theorem popQueue_spec (mask : Nat) (c : Core) (i : Nat) :
    ∃ q ep, popQueue mask c i = { c with q := q, ep := ep } ∧ Popped mask [i] c q ep := by
  have hbit : mask.testBit i = decide (mask / 2 ^ i % 2 = 1) := Nat.testBit_eq_decide_div_mod_eq
  unfold popQueue
  split
  case isFalse hb =>
    refine ⟨c.q, c.ep, rfl, fun n hn => ?_⟩
    by_cases hni : n = i
    · subst hni; simp [hbit, hb]
    · simp [hni]
  case isTrue hb =>
    split
    case h_1 hq =>
      refine ⟨c.q, _, rfl, fun n hn => ?_⟩
      rw [BitVec.getLsbD_or, BitVec.getLsbD_ofNat, Nat.testBit_two_pow]
      by_cases hni : n = i
      · subst hni; simp [hbit, hb, hq, hn]
      · simp [hni, Ne.symm hni]
    case h_2 x l hq =>
      refine ⟨_, c.ep, rfl, fun n hn => ?_⟩
      by_cases hni : n = i
      · subst hni; simp [hbit, hb, hq, vget_vset_same _ _ _ _ hn]
      · simp [hni, vget_vset_ne _ _ _ _ _ (Ne.symm hni)]

theorem foldl_popQueue (mask : Nat) (l : List Nat) (hl : l.Nodup) (c : Core) :
    ∃ q ep, l.foldl (popQueue mask) c = { c with q := q, ep := ep } ∧ Popped mask l c q ep := by
  induction l generalizing c with
  | nil => exact ⟨c.q, c.ep, rfl, fun n _ => by simp⟩
  | cons i l ih =>
    obtain ⟨hi, hl⟩ := List.nodup_cons.1 hl
    obtain ⟨q1, ep1, h1, hp1⟩ := popQueue_spec mask c i
    obtain ⟨q, ep, h, hp⟩ := ih hl { c with q := q1, ep := ep1 }
    refine ⟨q, ep, by rw [List.foldl_cons, h1, h], fun n hn => ?_⟩
    obtain ⟨hq1, he1⟩ := hp1 n hn
    obtain ⟨hq, he⟩ := hp n hn
    by_cases hni : n = i
    · subst hni
      simp only [List.mem_singleton, true_and, decide_true, Bool.true_and] at hq1 he1
      simp [hq, he, hq1, he1, hi]
    · simp only [List.mem_singleton, hni, false_and, if_false, decide_false, Bool.false_and, Bool.or_false] at hq1 he1
      simp [hq, he, hq1, he1, hni]

/-- The pops of a POP mask, of which the header's low byte is all that counts. -/
theorem pops_spec (c : Core) (header : Nat) :
    ∃ q ep, c.pops (header % 256) = { c with q := q, ep := ep } ∧
      ∀ n, n < 8 → (header.testBit n = true → vget [] q n = (vget [] c.q n).drop 1) ∧
        (header.testBit n = false → vget [] q n = vget [] c.q n) ∧
        ep.getLsbD n = (c.ep.getLsbD n || (header.testBit n && (vget [] c.q n).isEmpty)) := by
  obtain ⟨q, ep, h, hp⟩ := foldl_popQueue (header % 256) (tab 8 id) (by decide) c
  refine ⟨q, ep, h, fun n hn => ?_⟩
  have hm : n ∈ tab 8 id := List.mem_of_getElem? (i := n) (by rw [getElem?_tab, if_pos hn]; rfl)
  have ht : (header % 256).testBit n = header.testBit n := by
    rw [show 256 = 2 ^ 8 from rfl, Nat.testBit_mod_two_pow]; simp [hn]
  obtain ⟨hq, he⟩ := hp n hn
  rw [ht] at hq he
  simp only [hm, true_and, decide_true, Bool.true_and] at hq he
  exact ⟨fun hb => by rw [hq, if_pos hb], fun hb => by rw [hq, if_neg (by simp [hb])], he⟩

theorem pops_effect {c : Core} {header : Nat} {q : Vector (List (List (BitVec 32))) 8} {ep : BitVec 8}
    (hq : c.pops (header % 256) = { c with q := q, ep := ep }) (n : Nat) (hn : n < 8) :
    (header.testBit n = true → vget [] q n = (vget [] c.q n).drop 1) ∧
      (header.testBit n = false → vget [] q n = vget [] c.q n) ∧
      ep.getLsbD n = (c.ep.getLsbD n || (header.testBit n && (vget [] c.q n).isEmpty)) := by
  obtain ⟨q', ep', h, hp⟩ := pops_spec c header
  obtain rfl : q' = q := congrArg Core.q (h.symm.trans hq)
  obtain rfl : ep' = ep := congrArg Core.ep (h.symm.trans hq)
  exact hp n hn

theorem pops_zero (c : Core) : c.pops 0 = c := by
  have h (l : List Nat) : l.foldl (popQueue 0) c = c := by
    induction l with
    | nil => rfl
    | cons i l ih => rw [List.foldl_cons, show popQueue 0 c i = c by simp [popQueue], ih]
  exact h (tab 8 id)

/-! ## The end-of-body test -/

/-- The loop level of a core. -/
def levelOf (c : Core) (i : Nat) : Level := vget ⟨false, 0, 0⟩ c.lvl i

/-- The body of level `i` ends with the bundle at pc. -/
def levelEnds (c : Core) (i : Nat) : Bool := (levelOf c i).active && (levelOf c i).fin == c.pc

/-- Level `i` is over. -/
def levelOver (c : Core) (i : Nat) : Core := { c with lvl := vset c.lvl i { levelOf c i with active := false } }

theorem levelEnds_iff {c : Core} {i : Nat} :
    levelEnds c i = true ↔ (levelOf c i).active = true ∧ (levelOf c i).fin = c.pc := by
  simp [levelEnds]

theorem levelEnds_lt {c : Core} {i : Nat} (h : levelEnds c i = true) : i < 8 := by
  refine Nat.lt_of_not_le fun hi => ?_
  simp [levelEnds, levelOf, vget_of_ge _ _ _ hi] at h

/-- The levels of `c` once those of `l` above `b` that end at pc are over. -/
def LevelsOver (c : Core) (l : List Nat) (b : Option Nat) (v : Vector Level 8) : Prop :=
  ∀ j, vget ⟨false, 0, 0⟩ v j =
    if j ∈ l ∧ (∀ i ∈ b, i < j) ∧ levelEnds c j = true then { levelOf c j with active := false } else levelOf c j

theorem loopEnd_spec (l : List Nat) (hl : l.Pairwise (· > ·)) (c : Core) :
    ∃ v b, c.loopEnd l = ({ c with lvl := v }, b.map fun i => (i, (levelOf c i).start)) ∧
      (∀ i ∈ b, i ∈ l ∧ levelEnds c i = true ∧ vget 0 c.loopc i ≠ 0) ∧
      (∀ j ∈ l, (∀ i ∈ b, i < j) → levelEnds c j = true → vget 0 c.loopc j = 0) ∧ LevelsOver c l b v := by
  induction l generalizing c with
  | nil => exact ⟨c.lvl, none, rfl, by simp, by simp, fun j => by simp [levelOf]⟩
  | cons i l ih =>
    obtain ⟨hi, hl⟩ := List.pairwise_cons.1 hl
    have hil : i ∉ l := fun h => Nat.lt_irrefl i (hi i h)
    rw [Core.loopEnd]
    split
    case isFalse he =>
      have he : levelEnds c i = false := Bool.not_eq_true _ ▸ he
      obtain ⟨v, b, h, hb, hz, hv⟩ := ih hl c
      refine ⟨v, b, h, fun k hk => ?_, fun j hj hjb hje => ?_, fun j => ?_⟩
      · obtain ⟨hkl, hk⟩ := hb k hk
        exact ⟨List.mem_cons_of_mem _ hkl, hk⟩
      · obtain rfl | hj := List.mem_cons.1 hj
        · rw [he] at hje; cases hje
        · exact hz j hj hjb hje
      · rw [hv j]
        by_cases hji : j = i
        · subst hji; simp [he]
        · simp [hji]
    case isTrue he =>
      have he : levelEnds c i = true := he
      split
      case isTrue hne =>
        have hnot {j : Nat} (hj : j ∈ i :: l) : ¬ i < j := by
          obtain rfl | hj := List.mem_cons.1 hj
          · exact Nat.lt_irrefl _
          · exact Nat.lt_asymm (hi j hj)
        refine ⟨c.lvl, some i, rfl, ?_, fun j hj hjb => absurd (hjb i rfl) (hnot hj), fun j => ?_⟩
        · rintro k ⟨⟩; exact ⟨List.mem_cons_self, he, hne⟩
        · rw [if_neg fun h => hnot h.1 (h.2.1 i rfl)]; rfl
      case isFalse hz0 =>
        have hz0 : vget 0 c.loopc i = 0 := not_not.1 hz0
        have hd {j : Nat} (hj : j ≠ i) : levelOf (levelOver c i) j = levelOf c j := vget_vset_ne _ _ _ _ _ (Ne.symm hj)
        have hde {j : Nat} (hj : j ≠ i) : levelEnds (levelOver c i) j = levelEnds c j := by rw [levelEnds, hd hj]; rfl
        have hne {j : Nat} (hj : j ∈ l) : j ≠ i := fun h => hil (h ▸ hj)
        obtain ⟨v, b, h, hb, hz, hv⟩ := ih hl (levelOver c i)
        refine ⟨v, b, ?_, fun k hk => ?_, fun j hj hjb hje => ?_, fun j => ?_⟩
        · refine h.trans (congrArg (Prod.mk { c with lvl := v }) ?_)
          cases b with
          | none => rfl
          | some k => rw [Option.map_some, Option.map_some, hd (hne (hb k rfl).1)]
        · obtain ⟨hkl, hke, hk0⟩ := hb k hk
          exact ⟨List.mem_cons_of_mem _ hkl, hde (hne hkl) ▸ hke, hk0⟩
        · obtain rfl | hj := List.mem_cons.1 hj
          · exact hz0
          · exact hz j hj hjb (hde (hne hj) ▸ hje)
        · rw [hv j]
          by_cases hji : j = i
          · subst hji
            rw [if_neg fun h => hil h.1, if_pos ⟨List.mem_cons_self, fun k hk => hi k (hb k hk).1, he⟩]
            exact vget_vset_same _ _ _ _ (levelEnds_lt he)
          · rw [hd hji, hde hji]; simp [hji]

/-! ## Completion -/

/-- Where issue goes on and the transfer that stays pending, where no level goes back. -/
def nextBundle (c : Core) : Nat × Option (Nat × Nat) :=
  match c.xfer with
  | some (n, g) => if n ≤ 1 then (g, none) else (c.pc + 64, some (n - 1, g))
  | none => (c.pc + 64, none)

theorem nextBundle_spec (c : Core) : (c.xfer = none → (nextBundle c).1 = c.pc + 64 ∧ (nextBundle c).2 = none) ∧
    (∀ n g, c.xfer = some (n, g) → n ≤ 1 → (nextBundle c).1 = g ∧ (nextBundle c).2 = none) ∧
    (∀ n g, c.xfer = some (n, g) → 2 ≤ n → (nextBundle c).1 = c.pc + 64 ∧ (nextBundle c).2 = some (n - 1, g)) := by
  refine ⟨fun h => ?_, fun n g h hn => ?_, fun n g h hn => ?_⟩
  · simp [nextBundle, h]
  · simp [nextBundle, h, hn]
  · simp [nextBundle, h, show ¬ n ≤ 1 by omega]

/-- The count of a level that goes back, in the next cycle. -/
def countDown (c : Core) (now i : Nat) : Pend :=
  { due := now + 1, iss := now, word := 0, baddr := c.pc, act := .loopc (BitVec.ofNat 3 i) (vget 0 c.loopc i - 1), flags := 0,
    rtn := none }

/-- The core that completes a bundle: what every completion sets, and the parts that depend on the loop levels. -/
def completed (c : Core) (q : Vector (List (List (BitVec 32))) 8) (ep : BitVec 8) (lvl : Vector Level 8) (pc : Nat)
    (xfer : Option (Nat × Nat)) (pend : List Pend) : Core :=
  { c with q := q, ep := ep, lvl := lvl, pc := pc, xfer := xfer, pend := pend, done := 0xFF, failed := false,
           rtn := if c.rtnOn = c.rtn then c.rtn.map (· + 1) else c.rtn }

/-- The completed core where level `b` goes back, or none does. -/
def completion (c : Core) (q : Vector (List (List (BitVec 32))) 8) (ep : BitVec 8) (lvl : Vector Level 8) (now : Nat) :
    Option Nat → Core
  | some i => completed c q ep lvl (levelOf c i).start none (c.pend ++ [countDown c now i])
  | none => completed c q ep lvl (nextBundle c).1 (nextBundle c).2 c.pend

/-- How a bundle completes whose pops and loop levels are known. -/
theorem complete_eq {c : Core} {header now : Nat} {rout : Bool} {q : Vector (List (List (BitVec 32))) 8} {ep : BitVec 8}
    {v : Vector Level 8} {b : Option Nat} (hq : c.pops (header % 256) = { c with q := q, ep := ep })
    (hv : (if rout then ({ c with q := q, ep := ep }, none) else
        ({ c with q := q, ep := ep } : Core).loopEnd [7, 6, 5, 4, 3, 2, 1, 0]) =
      ({ c with q := q, ep := ep, lvl := v }, b.map fun i => (i, (levelOf c i).start))) :
    (c.complete header now rout).1 = completion c q ep v now b := by
  rw [Core.complete]
  simp only [hq, hv]
  cases b with
  | some i => rfl
  | none =>
    simp only [Option.map_none, completion, nextBundle]
    cases c.xfer with
    | none => rfl
    | some x =>
      dsimp only
      split <;> rfl

/-- A bundle completes: word 0 pops, and of the levels that end, `b` goes back and those above it are over. -/
theorem complete_spec (c : Core) (header now : Nat) (rout : Bool) : ∃ q ep v b,
    ((c.complete header now rout).1 = completion c q ep v now b) ∧
    c.pops (header % 256) = { c with q := q, ep := ep } ∧
    (∀ i ∈ b, rout = false ∧ levelEnds c i = true ∧ vget 0 c.loopc i ≠ 0) ∧
    (∀ j, rout = false → (∀ i ∈ b, i < j) → levelEnds c j = true → vget 0 c.loopc j = 0) ∧
    ∀ j, vget ⟨false, 0, 0⟩ v j = if rout = false ∧ (∀ i ∈ b, i < j) ∧ levelEnds c j = true
      then { levelOf c j with active := false } else levelOf c j := by
  obtain ⟨q, ep, hq, -⟩ := pops_spec c header
  cases rout with
  | true => exact ⟨q, ep, c.lvl, none, complete_eq hq rfl, hq, by simp, by simp, fun j => by simp [levelOf]⟩
  | false =>
    have hmem {j : Nat} (h : levelEnds c j = true) : j ∈ [7, 6, 5, 4, 3, 2, 1, 0] := by
      have := levelEnds_lt h
      simp only [List.mem_cons, List.not_mem_nil, or_false]
      omega
    obtain ⟨v, b, hv, hb, hz, hl⟩ := loopEnd_spec [7, 6, 5, 4, 3, 2, 1, 0] (by decide) { c with q := q, ep := ep }
    refine ⟨q, ep, v, b, complete_eq hq hv, hq, fun i hi => ⟨rfl, (hb i hi).2⟩, fun j _ hj he => hz j (hmem he) hj he,
      fun j => ?_⟩
    rw [hl j]
    exact if_congr ⟨fun ⟨_, hj, he⟩ => ⟨rfl, hj, he⟩, fun ⟨_, hj, he⟩ => ⟨hmem he, hj, he⟩⟩ rfl rfl

/-- Where no active level ends, none goes back and none is over. -/
theorem complete_straight {c : Core} (header now : Nat) (rout : Bool)
    (hn : ∀ i, i < 8 → (levelOf c i).active = true → (levelOf c i).fin ≠ c.pc) : ∃ q ep v,
    (c.complete header now rout).1 = completed c q ep v (nextBundle c).1 (nextBundle c).2 c.pend ∧
      c.pops (header % 256) = { c with q := q, ep := ep } := by
  obtain ⟨q, ep, v, b, hc, hq, hb, -⟩ := complete_spec c header now rout
  cases b with
  | none => exact ⟨q, ep, v, hc, hq⟩
  | some i =>
    obtain ⟨-, he, -⟩ := hb i rfl
    obtain ⟨ha, hf⟩ := levelEnds_iff.1 he
    exact absurd hf (hn i (levelEnds_lt he) ha)

/-! ## Traces and exec -/

section
variable {s : State} {t : Nat}

/-- A trace record is noted in the troupe alone. -/
theorem note_cases (s : State) (t wall vcc baddr hc rank typ : Nat) (slot : Option Nat) (data : Nat) :
    s.note t wall vcc baddr hc rank typ slot data = s ∨
      ∃ tr l, s.troupe? t = some tr ∧ s.note t wall vcc baddr hc rank typ slot data = s.setTroupe t { tr with trec := l } := by
  unfold State.note
  split
  · exact .inl rfl
  · split
    · exact .inr ⟨_, _, by assumption, rfl⟩
    · exact .inl rfl

theorem core?_setTroupe {tr x : Troupe} (h : s.troupe? t = some tr) (r : Nat) :
    (s.setTroupe t x).core? (.core t r) = x.cores[r]? := by
  show ((s.setTroupe t x).troupe? t).bind _ = _
  rw [troupe_setTroupe_same h]; rfl

theorem core?_note (s : State) (t r wall vcc baddr hc rank typ : Nat) (slot : Option Nat) (data : Nat) :
    (s.note t wall vcc baddr hc rank typ slot data).core? (.core t r) = s.core? (.core t r) := by
  obtain h | ⟨tr, l, ht, h⟩ := note_cases s t wall vcc baddr hc rank typ slot data
  · rw [h]
  · rw [h, core?_setTroupe ht]
    show _ = (s.troupe? t).bind _
    rw [ht]; rfl

@[simp] theorem gmem_note (s : State) (t wall vcc baddr hc rank typ : Nat) (slot : Option Nat) (data : Nat) :
    (s.note t wall vcc baddr hc rank typ slot data).gmem = s.gmem := by
  obtain h | ⟨tr, l, ht, h⟩ := note_cases s t wall vcc baddr hc rank typ slot data
  · rw [h]
  · rw [h]; rfl

@[simp] theorem cursor_note (s : State) (t wall vcc baddr hc rank typ : Nat) (slot : Option Nat) (data : Nat) :
    (s.note t wall vcc baddr hc rank typ slot data).cursor = s.cursor := by
  obtain h | ⟨tr, l, ht, h⟩ := note_cases s t wall vcc baddr hc rank typ slot data
  · rw [h]
  · rw [h]; rfl

theorem exec_bundleIssue_core (s : State) (t r : Nat) : exec (.bundleIssue (.core t r)) s =
    match s.issueCore t r with
    | some u => .next u
    | none => .refused (.notEnabled "BUNDLE_ISSUE") := rfl

theorem exec_idleBundle_core (s : State) (t r : Nat) : exec (.idleBundle (.core t r)) s =
    match s.idleCore t r with
    | some u => .next u
    | none => .refused (.notEnabled "IDLE_BUNDLE") := rfl

/-- The completion of a compute core's bundle leaves the completed core, and memory as it was. -/
theorem finishBundle_spec {tr : Troupe} {r : Nat} {c : Core} (h : s.core? (.core t r) = some c) (k : Core) :
    (s.finishBundle t r tr k).core? (.core t r) = some (k.complete (s.word (.core t r) k 0) tr.adv tr.inRoutine).1 ∧
      (s.finishBundle t r tr k).gmem = s.gmem ∧
      (s.finishBundle t r tr k).cursor = if k.late = none then .bundle t (r + 1) else .late 1 := by
  have hlate (x : Cursor) : (if k.late.isSome then Cursor.late 1 else x) = if k.late = none then x else .late 1 := by
    cases k.late <;> rfl
  unfold State.finishBundle
  rw [hlate]
  dsimp only
  split
  · split
    · exact ⟨core_setCore_same h, by simp, rfl⟩
    · exact ⟨(core?_note ..).trans (core_setCore_same h), by simp, by simp⟩
  · exact ⟨core_setCore_same h, by simp, rfl⟩

end

/-! ## A compute core's bundle -/

section
variable {s : State} {t r : Nat} {tr : Troupe} {c : Core}

theorem issueCore_begins (ht : s.troupe? t = some tr) (hr : tr.cores[r]? = some c) (hcur : s.cursor = .bundle t r)
    (hi : c.idle = false) (hd : c.done ≠ 0xFF) :
    s.issueCore t r =
      if tr.inRoutine && c.pc == s.streamEnd (.core t r) then none else some (s.startBundle t r tr c) := by
  simp only [State.issueCore, ht, hr, hcur, if_true, hi, show (c.done == 0xFF) = false from beq_false_of_ne hd,
    Bool.false_or]

theorem issueCore_completes (ht : s.troupe? t = some tr) (hr : tr.cores[r]? = some c) (hcur : s.cursor = .word t r 8) :
    s.issueCore t r = some (s.finishBundle t r tr c) := by
  simp [State.issueCore, ht, hr, hcur]

theorem idleCore_completes (ht : s.troupe? t = some tr) (hr : tr.cores[r]? = some c) (hcur : s.cursor = .bundle t r)
    (hi : c.idle = false) (hd : c.done = 0) (hrtn : c.rtn = none) (hpc : c.pc < s.streamEnd (.core t r))
    (hz : s.allZero (.core t r) c = true) (hstop : tr.stopFor c = none) :
    s.idleCore t r = some (s.finishBundle t r tr { c with rtnOn := none }) := by
  simp [State.idleCore, ht, hr, hcur, hi, hd, hrtn, hpc, hz, hstop]

theorem raiseAt_eq (c : Core) (word : Option Nat) (cause sub baddr addr : Nat) :
    ∃ z, c.raiseAt word cause sub baddr addr = { c with raised := c.raised ++ [z] } ∧ z.cause = BitVec.ofNat 8 cause ∧
      z.sub = BitVec.ofNat 8 sub ∧ z.word = word ∧ z.deferred = false ∧ z.done = 2 ∧ z.baddr = baddr ∧
      z.addr = BitVec.ofNat 64 addr :=
  ⟨_, rfl, rfl, rfl, rfl, rfl, rfl, rfl, rfl⟩

/-- A fault that decode raises on a word of a bundle, of a routine's store where `rtn` names its place. -/
theorem raise_decode (c : Core) (w sub b : Nat) (rtn : Option Nat) :
    ∃ z, { c.raise w { cause := 0x01, sub := sub } false 2 b rtn with failed := c.failed } =
        { c with raised := c.raised ++ [z] } ∧ z.cause = 0x01 ∧ z.sub = BitVec.ofNat 8 sub ∧ z.word = some w ∧
      z.deferred = false ∧ z.done = 2 ∧ z.baddr = b ∧ z.rtnw = rtn.isSome ∧ z.addr = BitVec.ofNat 64 (rtn.getD 0) :=
  ⟨_, rfl, rfl, rfl, rfl, rfl, rfl, rfl, rfl, rfl⟩

theorem bundleBegins : BundleBegins := by
  intro s t r tr c ht hr a e fails early hcur hi hd
  have hexec (h : ¬ (tr.inRoutine = true ∧ c.pc = e)) :
      exec (.bundleIssue a) s = .next (s.startBundle t r tr c) := by
    rw [exec_bundleIssue_core, issueCore_begins ht hr hcur hi hd, if_neg]
    simpa [e, a] using h
  refine ⟨fun he hn => ?_, fun he hn => ?_, fun he w sub hf => ?_, fun he hf => ?_⟩
  · obtain ⟨z, hz, hcause, hsub, hword, -, hdone, hb, haddr⟩ := raiseAt_eq c none 0x08 0 (c.pc - 64) e
    refine ⟨z, (hexec fun h => by simp [hn] at h).trans ?_, hcause, hsub, hword, hdone, hb, haddr⟩
    rw [State.startBundle, if_pos he, hz]
  · rw [exec_bundleIssue_core, issueCore_begins ht hr hcur hi hd, if_pos]
    simp [hn, he, e, a]
  · obtain ⟨z, hz, hcause, hsub, hword, hdfr, hdone, hb, hrtnw, haddr⟩ := raise_decode c w sub c.pc
      (if w = 5 then (if s.word a c 5 = 0 then c.routineAt else none) else none)
    refine ⟨z, (hexec fun h => by omega).trans ?_, hcause, hsub, hword, hdfr, hdone, hb, fun i hw h0 hat => ?_, fun h => ?_⟩
    · rw [State.startBundle, if_neg (Nat.not_le.2 he), ← hz]
      simp only [show s.bundleFault (.core t r) c = some (w, sub) from hf]
      rfl
    · rw [if_pos hw, if_pos h0, hat] at hrtnw haddr
      exact ⟨hrtnw, haddr⟩
    · rw [hrtnw]
      obtain h | h | h := h
      · rw [if_neg h]; rfl
      · rw [if_neg h, ite_self]; rfl
      · rw [h, ite_self, ite_self]; rfl
  · have hstart := hexec fun h => by omega
    rw [State.startBundle, if_neg (Nat.not_le.2 he)] at hstart
    simp only [show s.bundleFault (.core t r) c = none from hf] at hstart
    have hcheck : (s.marked (.core t r) c && !tr.inRoutine && c.done == 0 && c.inFlight tr.adv false) = true ↔ early := by
      simp [early, a, and_assoc]
    refine ⟨fun hearly => ?_, fun hearly => ?_⟩
    · obtain ⟨z, hz, hcause, hsub, hword, -, -, hb, -⟩ := raiseAt_eq c none 0x06 0x1 c.pc 0
      refine ⟨z, hstart.trans ?_, hcause, hsub, hword, hb⟩
      rw [if_pos (hcheck.2 hearly), hz]
    · rw [hstart, if_neg (mt hcheck.1 hearly)]
      have hre : (!(c.done == 0)) = decide (c.done ≠ 0) := by rw [beq_eq_decide, decide_not]
      simp only [hre, beq_iff_eq]
      rfl

theorem bundleCompletes : BundleCompletes := by
  intro s t r tr c ht hr hcur a lvl ends spent kept
  have h : s.core? a = some c := core?_core_iff.2 ⟨tr, ht, hr⟩
  obtain ⟨hcore, hmem, hnext⟩ := finishBundle_spec (tr := tr) h c
  obtain ⟨q, ep, v, b, hk, hq, hb, hz, hv⟩ := complete_spec c (s.word a c 0) tr.adv tr.inRoutine
  have hends (i : Nat) : ends i ↔ tr.inRoutine = false ∧ levelEnds c i = true := by
    exact ⟨fun ⟨hn, _, hl⟩ => ⟨hn, levelEnds_iff.2 hl⟩, fun ⟨hn, he⟩ => ⟨hn, levelEnds_lt he, levelEnds_iff.1 he⟩⟩
  have hkept {j : Nat} (hj : ¬ ((∀ i ∈ b, i < j) ∧ ends j)) : vget ⟨false, 0, 0⟩ v j = lvl j := by
    rw [hv j, if_neg fun ⟨hn, hjb, he⟩ => hj ⟨hjb, (hends j).2 ⟨hn, he⟩⟩]; rfl
  have hspent {j : Nat} (hjb : ∀ i ∈ b, i < j) (he : ends j) :
      vget ⟨false, 0, 0⟩ v j = { lvl j with active := false } := by
    obtain ⟨hn, he⟩ := (hends j).1 he
    rw [hv j, if_pos ⟨hn, hjb, he⟩]; rfl
  rw [hk] at hcore
  refine ⟨_, _, by rw [exec_bundleIssue_core, issueCore_completes ht hr hcur], hcore, ?_⟩
  cases b with
  | none =>
    refine ⟨rfl, rfl, rfl, rfl, rfl, rfl, rfl, hmem, hnext, fun hr => if_pos hr, fun hr => if_neg hr, pops_effect hq,
      fun i hi hne _ => ?_, fun _ => ⟨rfl, fun j he _ => hspent (by simp) he, fun j he => hkept fun h => he h.2, nextBundle_spec c⟩⟩
    obtain ⟨hn, he⟩ := (hends i).1 hi
    exact absurd (hz i hn (by simp) he) hne
  | some i =>
    obtain ⟨hn, he, hne⟩ := hb i rfl
    have hi : ends i := (hends i).2 ⟨hn, he⟩
    refine ⟨rfl, rfl, rfl, rfl, rfl, rfl, rfl, hmem, hnext, fun hr => if_pos hr, fun hr => if_neg hr, pops_effect hq,
      fun m hm hmne hmz => ?_, fun hall => absurd (hall i hi) hne⟩
    have hmi : m = i := by
      obtain hlt | heq | hgt := Nat.lt_trichotomy m i
      · exact absurd (hmz i hlt hi) hne
      · exact heq
      · obtain ⟨hmn, hme⟩ := (hends m).1 hm
        exact absurd (hz m hmn (by simpa using hgt) hme) hmne
    subst hmi
    refine ⟨rfl, rfl, fun j hj => hkept fun ⟨hjb, hje⟩ => ?_, fun j hj hje _ => hspent (by simpa using hj) hje,
      _, rfl, rfl, rfl⟩
    exact hj.elim (fun hle => absurd (hjb m rfl) (Nat.not_lt.2 hle)) fun hnot => hnot hje

/-- A bundle of zero words, as the statements name it. -/
theorem allZero_of {s : State} {a : Agent} {c : Core} (h : ∀ w, w < 8 → s.word a c w = 0) : s.allZero a c = true := by
  rw [State.allZero, List.all_eq_true]
  intro w hw
  obtain ⟨i, hi⟩ := List.getElem?_of_mem hw
  rw [getElem?_tab] at hi
  split at hi
  · cases hi
    exact beq_iff_eq.2 (h _ (by assumption))
  · cases hi

theorem idleBundles : IdleBundles := by
  intro s t r tr c ht hr hcur hi hd hrtn hpc hw hstop
  have h : s.core? (.core t r) = some c := core?_core_iff.2 ⟨tr, ht, hr⟩
  obtain ⟨hcore, hmem, -⟩ := finishBundle_spec (tr := tr) h { c with rtnOn := none }
  have hexec : exec (.idleBundle (.core t r)) s = .next (s.finishBundle t r tr { c with rtnOn := none }) := by
    rw [exec_idleBundle_core, idleCore_completes ht hr hcur hi hd hrtn hpc (allZero_of hw) hstop]
  have hw0 : s.word (.core t r) { c with rtnOn := none } 0 = 0 := hw 0 (by decide)
  rw [hw0] at hcore
  obtain ⟨q, ep, v, b, hk, hq, hb, -, -⟩ := complete_spec { c with rtnOn := none } 0 tr.adv tr.inRoutine
  rw [show 0 % 256 = 0 from rfl, pops_zero] at hq
  have hqq : q = c.q := (congrArg Core.q hq).symm
  have hee : ep = c.ep := (congrArg Core.ep hq).symm
  rw [hk] at hcore
  refine ⟨_, _, hexec, hcore, ?_⟩
  cases b with
  | none =>
    exact ⟨rfl, rfl, rfl, rfl, hqq, hee, rfl, rfl, hmem, fun _ => ⟨rfl, nextBundle_spec { c with rtnOn := none }⟩⟩
  | some i =>
    refine ⟨rfl, rfl, rfl, rfl, hqq, hee, rfl, rfl, hmem, fun hn => ?_⟩
    obtain ⟨-, he, -⟩ := hb i rfl
    obtain ⟨ha, hf⟩ := levelEnds_iff.1 he
    exact absurd hf (hn i (levelEnds_lt he) ha)

end

/-! ## A management core's bundle -/

section
variable {s : State} {m : Nat}

theorem exec_bundleIssue_mgmt (hm : m < 2) : exec (.bundleIssue (.mgmt m)) s =
    match s.issueMgmt m with
    | some u => .next u
    | none => .refused (.notEnabled "BUNDLE_ISSUE") := by
  show execBundleIssue (.mgmt m) s = _
  simp only [execBundleIssue, hm, if_true]
  rfl

theorem exec_idleBundle_mgmt (hm : m < 2) : exec (.idleBundle (.mgmt m)) s =
    match s.idleMgmt m with
    | some u => .next u
    | none => .refused (.notEnabled "IDLE_BUNDLE") := by
  show execIdleBundle (.mgmt m) s = _
  simp only [execIdleBundle, hm, if_true]
  rfl

/-- A repeated wait posts one counter operation and changes its own core alone. -/
theorem repeatWait_cases (s : State) (a : Agent) : s.repeatWait a = s ∨
    ∃ h k src c w, s.core? a = some c ∧ s.repeatWait a = (s.postCtr h k src).setCore a { c with wait := w } := by
  unfold State.repeatWait
  split
  · exact .inl rfl
  · rename_i c w hw
    obtain ⟨d, hd, hdw⟩ := Option.bind_eq_some_iff.1 hw
    obtain ⟨x, -, hx⟩ := Option.map_eq_some_iff.1 hdw
    cases hx
    dsimp only
    split
    · exact .inl rfl
    · split
      · exact .inl rfl
      · exact .inr ⟨_, _, _, _, _, hd, rfl⟩

theorem repeatWait_mgmt (s : State) (hm : m < 2) :
    (∃ w, (s.repeatWait (.mgmt m)).mg m = { s.mg m with core := { (s.mg m).core with wait := w } }) ∧
      (∀ k, m ≠ k → (s.repeatWait (.mgmt m)).mg k = s.mg k) ∧ (s.repeatWait (.mgmt m)).gmem = s.gmem := by
  obtain h | ⟨h, k, src, c, w, hc, h⟩ := repeatWait_cases s (.mgmt m)
  · exact ⟨⟨(s.mg m).core.wait, by rw [h]⟩, fun k _ => by rw [h], by rw [h]⟩
  · obtain rfl : (s.mg m).core = c := by simpa [State.core?, hm] using hc
    rw [h]
    exact ⟨⟨w, mg_setMg_same hm⟩, fun k hk => mg_setMg_ne hk, rfl⟩

/-- The return of a handler: the level and IEN of the entry, the bundle at EPC with its DONE mask. -/
theorem returnTo_spec (s : State) (hm : m < 2) (ec : BitVec 64) :
    ((s.returnTo m ec).mg m).lvl = ec.extractLsb' 16 2 ∧ ((s.returnTo m ec).mg m).ien = ec.getLsbD 19 ∧
      ((s.returnTo m ec).mg m).core.pc = (s.mg m).core.pc ∧
      ((s.returnTo m ec).mg m).core.done = ec.extractLsb' 24 8 ∧
      (∀ k, m ≠ k → (s.returnTo m ec).mg k = s.mg k) ∧ (s.returnTo m ec).gmem = s.gmem := by
  have hbv (i n : Nat) : bv ec.toNat i n = ec.extractLsb' i n := by
    simp only [bv, BitVec.extractLsb', Nat.shiftRight_eq_div_pow]
  unfold State.returnTo
  extract_lets x hyp kept _ c d k u
  have hd : d.pc = (s.mg m).core.pc ∧ d.done = bv ec.toNat 24 8 := by
    simp only [d]
    cases kept <;> exact ⟨rfl, rfl⟩
  have hu : u.mg m = _ := mg_setMg_same hm
  obtain ⟨⟨w, hw⟩, hne, hmem⟩ := repeatWait_mgmt u hm
  rw [hw, hu, ← hbv 16 2, ← hbv 24 8]
  exact ⟨rfl, rfl, hd.1, hd.2, fun j hj => (hne j hj).trans (mg_setMg_ne hj), hmem⟩

/-- A management core's bundle completes: without a return at its end, and with one. -/
theorem finishMgmt_spec (s : State) (hm : m < 2)
    (hn : ∀ i, i < 8 → (levelOf (s.mg m).core i).active = true → (levelOf (s.mg m).core i).fin ≠ (s.mg m).core.pc) :
    (s.finishMgmt m).cursor = .mword m 9 ∧ (s.finishMgmt m).gmem = s.gmem ∧
      (∀ k, m ≠ k → (s.finishMgmt m).mg k = s.mg k) ∧
      ((s.mg m).core.eret = none ∨ (∀ n g, (s.mg m).core.xfer = some (n, g) → 2 ≤ n) →
        ∃ q ep v, ((s.finishMgmt m).mg m).core = { completed (s.mg m).core q ep v (nextBundle (s.mg m).core).1
          (nextBundle (s.mg m).core).2 (s.mg m).core.pend with done := 0 }) ∧
      (∀ ec n g, (s.mg m).core.eret = some ec → (s.mg m).core.xfer = some (n, g) → n ≤ 1 →
        ((s.finishMgmt m).mg m).lvl = ec.extractLsb' 16 2 ∧ ((s.finishMgmt m).mg m).ien = ec.getLsbD 19 ∧
          ((s.finishMgmt m).mg m).core.pc = g ∧ ((s.finishMgmt m).mg m).core.done = ec.extractLsb' 24 8) := by
  obtain ⟨q, ep, v, hc, -⟩ := complete_straight (c := (s.mg m).core) (s.word (.mgmt m) (s.mg m).core 0) (s.now (.mgmt m))
    false hn
  unfold State.finishMgmt
  extract_lets a c jump c' u w
  have hu : u.mg m = { s.mg m with core := { c' with done := 0 } } ∧ (∀ k, m ≠ k → u.mg k = s.mg k) ∧ u.gmem = s.gmem := by
    simp only [u]
    rw [State.poolAdd_frame]
    exact ⟨mg_setMg_same hm, fun k hk => mg_setMg_ne hk, rfl⟩
  obtain ⟨hum, hune, humem⟩ := hu
  have hjump : jump = true ↔ ∃ n g, c.xfer = some (n, g) ∧ n ≤ 1 := by
    simp only [jump]
    cases c.xfer with
    | none => simp
    | some x => simp [Prod.ext_iff]
  have hw : (w = u ∧ ∀ ec n g, c.eret = some ec → c.xfer = some (n, g) → ¬ n ≤ 1) ∨
      ∃ ec n g, c.eret = some ec ∧ c.xfer = some (n, g) ∧ n ≤ 1 ∧ w = u.returnTo m ec := by
    cases he : c.eret with
    | none => exact .inl ⟨by simp only [w, he], by simp⟩
    | some ec =>
      by_cases hj : jump = true
      · obtain ⟨n, g, hx, h1⟩ := hjump.1 hj
        exact .inr ⟨ec, n, g, rfl, hx, h1, by simp only [w, he]; exact if_pos hj⟩
      · exact .inl ⟨by simp only [w, he]; exact if_neg hj, fun _ n g _ hx h1 => hj (hjump.2 ⟨n, g, hx, h1⟩)⟩
  obtain ⟨hwu, hnone⟩ | ⟨ec, n, g, he, hx, h1, hwu⟩ := hw
  · rw [hwu]
    refine ⟨rfl, humem, hune, fun _ => ⟨q, ep, v, ?_⟩, fun ec n g he hx h1 => absurd h1 (hnone ec n g he hx)⟩
    show (u.mg m).core = _
    rw [hum, ← hc]
  · obtain ⟨hlvl, hien, hpc, hdone, hne, hmem⟩ := returnTo_spec u hm ec
    rw [hwu]
    refine ⟨rfl, hmem.trans humem, fun k hk => (hne k hk).trans (hune k hk), fun h => ?_, fun ec' n' g' he' hx' _ => ?_⟩
    · obtain h | h := h
      · rw [show (s.mg m).core.eret = some ec from he] at h; cases h
      · have := h n g hx; omega
    · obtain rfl : ec = ec' := Option.some.inj (he.symm.trans he')
      obtain ⟨rfl, rfl⟩ : n = n' ∧ g = g' := by simpa using hx.symm.trans hx'
      have hg : (u.mg m).core.pc = g := by
        rw [hum]
        show (c.complete _ _ _).1.pc = g
        rw [hc]
        exact ((nextBundle_spec c).2.1 n g hx h1).1
      exact ⟨hlvl, hien, hpc.trans hg, hdone⟩

theorem managementBundles : ManagementBundles := by
  intro s m hm x c a ready
  have hone : m ≠ 1 - m := by omega
  have hcore {u : State} : u.core? a = some (u.mg m).core := if_pos hm
  have hbetween (h : ready) : s.betweenOrRedo m = true := by
    obtain ⟨hcur, hrun, hdead, hstall, hra, -, -⟩ := h
    simpa [State.betweenOrRedo, hcur, c, x] using ⟨⟨⟨hrun, hdead⟩, hstall⟩, hra⟩
  have hstart (h : ready) : exec (.bundleIssue a) s = .next (s.startMgmt m) := by
    obtain ⟨-, -, -, -, -, hhalt, hidle⟩ := id h
    rw [exec_bundleIssue_mgmt hm, State.issueMgmt, if_pos]
    rw [hbetween h, show (s.mg m).halted = false from hhalt, show (s.mg m).core.idle = false from hidle]
    rfl
  refine ⟨fun h => ⟨fun he => ?_, fun w sub he hf => ?_, fun he hf => ?_⟩, fun h => ?_⟩
  · rw [hstart h, State.startMgmt, if_pos he]; rfl
  · rw [hstart h, State.startMgmt, if_neg (Nat.not_le.2 he)]
    simp only [show s.bundleFault (.mgmt m) (s.mg m).core = some (w, sub) from hf]
    rfl
  · rw [hstart h, State.startMgmt, if_neg (Nat.not_le.2 he)]
    simp only [show s.bundleFault (.mgmt m) (s.mg m).core = none from hf]
    rfl
  · intro row hn
    have hexec : exec row s = .next (s.finishMgmt m) := by
      by_cases h8 : s.cursor = .mword m 8
      · have hno : s.betweenOrRedo m = false := by simp [State.betweenOrRedo, h8]
        simp only [row, h8, if_true]
        rw [exec_bundleIssue_mgmt hm, State.issueMgmt, hno, if_pos h8]
        rfl
      · obtain ⟨hr, hd, hpc, hw⟩ := h.resolve_left h8
        obtain ⟨hcur, hrun, hdead, hstall, hra, hhalt, hidle⟩ := hr
        simp only [row, h8, if_false]
        rw [exec_idleBundle_mgmt hm, State.idleMgmt, if_pos]
        have hz := allZero_of (a := .mgmt m) hw
        simpa [State.betweenBundles, hcur, c, x] using ⟨⟨⟨⟨⟨⟨⟨⟨hrun, hdead⟩, hstall⟩, hd⟩, hra⟩, hhalt⟩, hidle⟩, hpc⟩, hz⟩
    obtain ⟨hcur, hmem, hne, hgo, hback⟩ := finishMgmt_spec s hm hn
    refine ⟨_, hexec, hcur, hmem, hne _ hone, fun hret => ?_, hback⟩
    obtain ⟨q, ep, v, hk⟩ := hgo hret
    refine ⟨_, hcore, ?_⟩
    rw [hk]
    exact ⟨rfl, rfl, rfl, nextBundle_spec c⟩

/-- Settles O42, by what `Core.complete` leaves of a core (`complete_spec`) and the checks at a bundle's begin. -/
theorem bundleIssue : Obligations.BundleIssue :=
  ⟨bundleBegins, bundleCompletes, idleBundles, managementBundles⟩

end

end Sys2Proof.Proofs.ExecutionModel
end

section
/-! Holds, the distance of safe points, and frame ticks (R22, R26, R27, R29, R37, R383). -/

namespace Sys2Proof.Proofs.ExecutionModel

open Sys2Proof Sys2Proof.Machine Sys2Proof.Claims

/-! ## What the trace, the ring and the advance leave alone -/

section
variable {s : State} {t : Nat} {tr : Troupe}

@[simp] theorem troupe?_modBank (s : State) (p : Nat) (f : Bank → Bank) (j : Nat) :
    (s.modBank p f).troupe? j = s.troupe? j := rfl

@[simp] theorem troupe?_acceptWide (s : State) (pa : Nat) (bs : List (Option Byte)) (j : Nat) :
    (s.acceptWide pa bs).troupe? j = s.troupe? j := by
  unfold State.acceptWide
  split <;> rfl

@[simp] theorem troupe?_ringTrace (s : State) (p : Nat) (r : BitVec 256) (j : Nat) :
    (s.ringTrace p r).troupe? j = s.troupe? j := by
  unfold State.ringTrace
  dsimp only
  split <;> simp

/-- The records of past values leave the troupe; nothing else of it changes. -/
theorem troupe?_flushTrace (h : s.troupe? t = some tr) (upTo : Option Nat) :
    ∃ l, (s.flushTrace t upTo).troupe? t = some { tr with trec := l } := by
  have hring (l : List (Nat × BitVec 256)) (u : State) :
      (l.foldl (fun s r => s.ringTrace tr.part r.2) u).troupe? t = u.troupe? t := by
    induction l generalizing u with
    | nil => rfl
    | cons r l ih => rw [List.foldl_cons, ih, troupe?_ringTrace]
  simp only [State.flushTrace, h]
  exact ⟨_, (hring _ _).trans (troupe_setTroupe_same h)⟩

/-- The end of a deviation run changes the troupe's trace alone. -/
theorem endDeviation_spec (h : s.troupe? t = some tr) :
    ∃ l, s.endDeviation t = s.setTroupe t { tr with dev := none, trec := tr.trec ++ l } := by
  simp only [State.endDeviation, h]
  cases hd : tr.dev with
  | none =>
    have hself : { tr with dev := none, trec := tr.trec ++ [] } = tr := by rw [List.append_nil, ← hd]
    exact ⟨[], by rw [hself]; exact (setTroupe_self h).symm⟩
  | some d =>
    dsimp only
    have h' : (s.setTroupe t { tr with dev := none }).troupe? t = some { tr with dev := none } := troupe_setTroupe_same h
    simp only [State.note, h']
    split
    · exact ⟨_, setTroupe_setTroupe ..⟩
    · exact ⟨[], by rw [List.append_nil]⟩

/-- The core as the next VCC cycle begins and as it is charged for it. -/
def advancedCore (c : Core) : Core := c.newCycle.charge 0x00 1

/-- The troupe one cycle on. -/
def advanced (tr : Troupe) (l : List (Nat × BitVec 256)) : Troupe :=
  { tr with trec := l, adv := tr.adv + 1, vcc := if tr.inRoutine then tr.vcc else tr.vcc + 1,
            rcount := if tr.inRoutine then tr.rcount + 1 else tr.rcount, cores := tr.cores.map advancedCore }

theorem advance_spec (h : s.troupe? t = some tr) : ∃ l, (s.advance t).troupe? t = some (advanced tr l) := by
  simp only [State.advance, h]
  by_cases hr : tr.inRoutine = true
  · rw [if_pos hr, modTroupe_of_some h]
    exact ⟨tr.trec, troupe_setTroupe_same h⟩
  · rw [if_neg hr]
    obtain ⟨l, hl⟩ := troupe?_flushTrace h (some tr.vcc.toNat)
    rw [modTroupe_of_some hl]
    exact ⟨l, troupe_setTroupe_same hl⟩

end

/-! ## Holds -/

section
variable {s : State} {t : Nat} {tr : Troupe} {h : Hold} {hs : List Hold}

/-- `h` is charged before `g`, or is its equal (R25). -/
def ChargedBefore (h g : Hold) : Prop := h.code < g.code ∨ h.code = g.code ∧ h.rank ≤ g.rank

theorem foldl_charged (l : List Hold) (b : Hold) : ∃ h, l.foldl (fun b h => match b with
      | none => some h
      | some x => if h.code < x.code || (h.code == x.code && h.rank < x.rank) then some h else some x) (some b) = some h ∧
    (h = b ∨ h ∈ l) ∧ ChargedBefore h b ∧ ∀ g ∈ l, ChargedBefore h g := by
  induction l generalizing b with
  | nil => exact ⟨b, rfl, .inl rfl, .inr ⟨rfl, Nat.le_refl _⟩, by simp⟩
  | cons x l ih =>
    have htrans {a b c : Hold} (h1 : ChargedBefore a b) (h2 : ChargedBefore b c) : ChargedBefore a c := by
      unfold ChargedBefore at *; omega
    rw [List.foldl_cons]
    by_cases hx : x.code < b.code ∨ x.code = b.code ∧ x.rank < b.rank
    · obtain ⟨h, he, hm, hb, hl⟩ := ih x
      refine ⟨h, ?_, .inr ?_, htrans hb (by unfold ChargedBefore; omega), fun g hg => ?_⟩
      · rw [← he]
        simp only [Bool.or_eq_true, Bool.and_eq_true, decide_eq_true_eq, beq_iff_eq, hx, if_true]
      · exact hm.elim (fun e => e ▸ List.mem_cons_self) (List.mem_cons_of_mem _)
      · obtain rfl | hg := List.mem_cons.1 hg
        · exact hb
        · exact hl g hg
    · obtain ⟨h, he, hm, hb, hl⟩ := ih b
      refine ⟨h, ?_, hm.imp id (List.mem_cons_of_mem _), hb, fun g hg => ?_⟩
      · rw [← he]
        simp only [Bool.or_eq_true, Bool.and_eq_true, decide_eq_true_eq, beq_iff_eq, hx, if_false]
      · obtain rfl | hg := List.mem_cons.1 hg
        · exact htrans hb (by unfold ChargedBefore; omega)
        · exact hl g hg

/-- The charged cause has the code and the rank of every first one. -/
theorem charged_of_first (hm : h ∈ hs) (hl : ∀ g ∈ hs, ChargedBefore h g) :
    ∃ g, Machine.charged hs = some g ∧ g.code = h.code ∧ g.rank = h.rank := by
  cases hs with
  | nil => cases hm
  | cons x l =>
    obtain ⟨g, he, hg, hx, hgl⟩ := foldl_charged l x
    have h1 : ChargedBefore g h := by
      obtain rfl | hm := List.mem_cons.1 hm
      · exact hx
      · exact hgl h hm
    have h2 : ChargedBefore h g := hl g (hg.elim (fun e => e ▸ List.mem_cons_self) (List.mem_cons_of_mem _))
    unfold ChargedBefore at h1 h2
    exact ⟨g, he, by omega, by omega⟩

theorem exec_holdEnd (s : State) (h : s.troupe? t = some tr) : exec (.holdEnd t) s =
    if tr.holds.isEmpty || !(s.holdsOf t tr).isEmpty then .refused (.notEnabled "HOLD_END")
    else .next ((s.endDeviation t).modTroupe t fun tr =>
      { tr with holds := [], run := 0, st := if tr.st == .held then .running else tr.st }) := by
  show execHoldEnd t s = _
  simp only [execHoldEnd, h]
  rfl

theorem holdEnd_ends (ht : s.troupe? t = some tr) (h1 : tr.holds ≠ []) (h2 : s.holdsOf t tr = []) :
    ∃ y, exec (.holdEnd t) s = .next (s.setTroupe t y) ∧
      y = { tr with holds := [], run := 0, st := if tr.st = .held then .running else tr.st, dev := none, trec := y.trec } ∧
      ∃ l, y.trec = tr.trec ++ l := by
  obtain ⟨l, hl⟩ := endDeviation_spec ht
  refine ⟨{ tr with holds := [], run := 0, st := if tr.st == .held then .running else tr.st, dev := none,
                    trec := tr.trec ++ l }, ?_, ?_, l, rfl⟩
  · rw [exec_holdEnd s ht, if_neg (by simp [h1, h2]), hl, modTroupe_of_some (troupe_setTroupe_same ht), setTroupe_setTroupe]
  · simp only [beq_iff_eq]

/-- What the timing fault of a hold raises on a core. -/
def limitFault (limit : BitVec 32) (code : Nat) (c : Core) : Raised :=
  { cause := 0x05, sub := 0x01, word := none, deferred := false, done := 2, baddr := c.pc, addr := 0,
    aux0 := limit.zeroExtend 64, aux1 := 0, hnd := 0, code := 0, hcs := BitVec.ofNat 4 code, rtnw := false, kill := false }

/-- What it makes of a core: the first that the hold is charged to raises it. -/
def limitCore (limit : BitVec 32) (h : Hold) (c : Core) : Core :=
  if c.rank = h.rank then { c with raised := c.raised ++ [limitFault limit h.code c] } else c

theorem overLimit_iff : tr.overLimit hs = true ↔ tr.limit ≠ 0 ∧ (∃ g ∈ hs, g.code ≠ 8) ∧ tr.limit.toNat ≤ tr.run := by
  have h0 : tr.limit ≠ 0 ↔ tr.limit.toNat ≠ 0 := by rw [Ne, Ne, BitVec.toNat_eq]; rfl
  rw [Troupe.overLimit, Bool.and_eq_true, bne_iff_ne, decide_eq_true_iff, Troupe.nextRun]
  by_cases hany : hs.any (fun h => h.code != 8) = true
  · rw [if_pos hany]
    have : ∃ g ∈ hs, g.code ≠ 8 := by simpa using hany
    exact ⟨fun ⟨ha, hb⟩ => ⟨ha, this, by omega⟩, fun ⟨ha, _, hb⟩ => ⟨ha, by omega⟩⟩
  · rw [if_neg hany]
    exact ⟨fun ⟨_, hb⟩ => absurd hb (by omega), fun ⟨_, hb, _⟩ => absurd (by simpa using hb) hany⟩

theorem exec_holdLimitFault (ht : s.troupe? t = some tr) : exec (.holdLimitFault t) s =
    match Machine.charged (s.holdsOf t tr) with
    | none => .refused (.notEnabled "HOLD_LIMIT_FAULT")
    | some h =>
      if !tr.overLimit (s.holdsOf t tr) || (tr.st != .running && tr.st != .held && tr.st != .saving && tr.st != .restoring) then
        .refused (.notEnabled "HOLD_LIMIT_FAULT")
      else .next { ((if tr.resuming then s.endDeviation t else (s.endDeviation t).advance t).modTroupe t fun x =>
        { x with holds := [], run := 0, resuming := false, st := if x.st == .held then .running else x.st,
                 cores := x.cores.map (limitCore tr.limit h) }) with cursor := .fin t } := by
  show execHoldLimitFault t s = _
  simp only [execHoldLimitFault, ht]
  rfl

theorem holdLimit_raises (ht : s.troupe? t = some tr) (hm : h ∈ s.holdsOf t tr)
    (hfirst : ∀ g ∈ s.holdsOf t tr, ChargedBefore h g) (hany : ∃ g ∈ s.holdsOf t tr, g.code ≠ 8) (h0 : tr.limit ≠ 0)
    (hrun : tr.limit.toNat ≤ tr.run) (hst : tr.st = .running ∨ tr.st = .held ∨ tr.st = .saving ∨ tr.st = .restoring) :
    ∃ u y f, exec (.holdLimitFault t) s = .next u ∧ u.troupe? t = some y ∧ u.cursor = .fin t ∧ y.holds = [] ∧ y.run = 0 ∧
      y.cores = tr.cores.map (fun c => limitCore tr.limit h (f c)) ∧ (f = id ∨ f = advancedCore) := by
  obtain ⟨g, hg, hcode, hrank⟩ := charged_of_first hm hfirst
  have hcore : limitCore tr.limit g = limitCore tr.limit h := by
    funext c; simp only [limitCore, hcode, hrank]
  have hexec := exec_holdLimitFault (s := s) ht
  rw [hg] at hexec
  dsimp only at hexec
  rw [if_neg (by
    rw [overLimit_iff.2 ⟨h0, hany, hrun⟩]
    obtain h | h | h | h := hst <;> rw [h] <;> decide), hcore] at hexec
  obtain ⟨l, hl⟩ := endDeviation_spec ht
  have hend : (s.endDeviation t).troupe? t = some { tr with dev := none, trec := tr.trec ++ l } := by
    rw [hl]; exact troupe_setTroupe_same ht
  by_cases hres : tr.resuming = true
  · rw [if_pos hres, modTroupe_of_some hend] at hexec
    exact ⟨_, _, id, hexec, troupe_setTroupe_same hend, rfl, rfl, rfl, rfl, .inl rfl⟩
  · rw [if_neg hres] at hexec
    obtain ⟨l', hl'⟩ := advance_spec hend
    rw [modTroupe_of_some hl'] at hexec
    refine ⟨_, _, advancedCore, hexec, troupe_setTroupe_same hl', rfl, rfl, rfl, ?_, .inr rfl⟩
    exact List.map_map

theorem holds : Holds := by
  intro s t tr ht
  refine ⟨holdEnd_ends ht, fun h => ?_, fun h hm hfirst hany h0 hrun hst => ?_, fun h => ?_⟩
  · rw [exec_holdEnd s ht, if_pos]
    simpa [List.isEmpty_iff] using h
  · obtain ⟨u, y, f, hexec, hy, hcur, hholds, hyrun, hcores, hf⟩ := holdLimit_raises ht hm hfirst hany h0 hrun hst
    refine ⟨u, y, hexec, hy, hcur, hholds, hyrun, by rw [hcores, List.length_map], fun r c hr => ?_⟩
    refine ⟨limitCore tr.limit h (f c), by rw [hcores, List.getElem?_map, hr]; rfl, ?_⟩
    have hfc : (f c).pc = c.pc ∧ (f c).s = c.s ∧ (f c).v = c.v ∧ (f c).bank = c.bank ∧ (f c).rank = c.rank ∧
        (f c).raised = c.raised := by
      obtain rfl | rfl := hf <;> exact ⟨rfl, rfl, rfl, rfl, rfl, rfl⟩
    obtain ⟨hpc, hs, hv, hb, hrk, hra⟩ := hfc
    by_cases hr : c.rank = h.rank
    · rw [limitCore, if_pos (hrk.trans hr)]
      exact ⟨hpc, hs, hv, hb, fun _ => ⟨_, by rw [hra], rfl, rfl, rfl, rfl, hpc, rfl, rfl⟩, fun hne => absurd hr hne⟩
    · rw [limitCore, if_neg (hrk ▸ hr)]
      exact ⟨hpc, hs, hv, hb, fun he => absurd he hr, fun _ => hra⟩
  · have hover : tr.overLimit (s.holdsOf t tr) = false := by
      rw [Bool.eq_false_iff]
      intro ho
      obtain ⟨h0, ⟨g, hg, hne⟩, hle⟩ := overLimit_iff.1 ho
      obtain h | h | h := h
      · exact h0 h
      · exact hne (h g hg)
      · omega
    rw [exec_holdLimitFault ht, hover]
    cases Machine.charged (s.holdsOf t tr) <;> rfl

end

/-! ## The distance of safe points -/

section
variable {s : State} {t : Nat} {tr : Troupe}

theorem mapIdx_all {α : Type} {l : List α} {f : Nat → α → Bool} :
    ((l.mapIdx f).all fun b => b) = true ↔ ∀ i x, l[i]? = some x → f i x = true := by
  rw [List.all_eq_true]
  constructor
  · intro h i x hx
    exact h _ (List.mem_of_getElem? (i := i) (by rw [List.getElem?_mapIdx, hx]; rfl))
  · intro h b hb
    obtain ⟨i, hi⟩ := List.getElem?_of_mem hb
    rw [List.getElem?_mapIdx] at hi
    obtain ⟨x, hx, rfl⟩ := Option.map_eq_some_iff.1 hi
    exact h i x hx

/-- The lowest rank whose program has not ended. -/
theorem lowestUnfinished_of {r : Nat} {c : Core} (hr : tr.cores[r]? = some c) (hf : c.fin = none)
    (hlow : ∀ j < r, ∀ k, tr.cores[j]? = some k → k.fin ≠ none) : tr.lowestUnfinished = some (r, c) := by
  obtain ⟨hlt, rfl⟩ := List.getElem?_eq_some_iff.1 hr
  rw [Troupe.lowestUnfinished, List.find?_eq_some_iff_getElem]
  refine ⟨by simp [hf], r, by simpa using hlt, by simp, fun j hj => ?_⟩
  have hjl : j < tr.cores.length := Nat.lt_trans hj hlt
  have := hlow j hj tr.cores[j] (List.getElem?_eq_getElem hjl)
  simpa [Option.isSome_iff_ne_none] using this

theorem atSafePoint_iff (hu : tr.allFinished = false) : s.atSafePoint t tr = true ↔
    ∀ j k, tr.cores[j]? = some k → k.fin = none → s.marked (.core t j) k = true := by
  rw [State.atSafePoint, hu, Bool.not_false, Bool.true_and, mapIdx_all]
  refine forall_congr' fun j => forall_congr' fun k => imp_congr_right fun _ => ?_
  cases k.fin <;> simp

theorem allFinished_eq_false {r : Nat} {c : Core} (hr : tr.cores[r]? = some c) (hf : c.fin = none) :
    tr.allFinished = false := by
  rw [Troupe.allFinished, List.all_eq_false]
  exact ⟨c, List.mem_of_getElem? hr, by simp [Core.finished, hf]⟩

theorem freshCycle_of (h : ∀ k ∈ tr.cores, k.done = 0) : tr.freshCycle = true := by
  rw [Troupe.freshCycle, List.all_eq_true]
  exact fun k hk => beq_iff_eq.2 (h k hk)

theorem raisedAll_of (h : ∀ k ∈ tr.cores, k.raised = []) : tr.raisedAll = [] := by
  rw [Troupe.raisedAll, List.flatMap_eq_nil_iff]
  exact fun k hk => by rw [h k hk]; rfl

theorem exec_safePointDistanceFault (ht : s.troupe? t = some tr) (hcur : s.cursor = .bundle t 0) :
    exec (.safePointDistanceFault t) s =
      if s.tooFar t tr then
        match tr.lowestUnfinished with
        | none => .refused (.notEnabled "SAFE_POINT_DISTANCE_FAULT")
        | some (r, _) => .next (s.modCore (.core t r) fun c => c.raiseAt none 0x05 0x3 c.pc 0)
      else .refused (.notEnabled "SAFE_POINT_DISTANCE_FAULT") := by
  show execSafePointDistanceFault t s = _
  simp only [execSafePointDistanceFault, ht, hcur, ne_eq, not_true, decide_false, Bool.false_or, Bool.not_eq_true']
  by_cases h : s.tooFar t tr = true
  · rw [if_pos h, if_neg (by simp [h])]; rfl
  · rw [if_neg h, if_pos (by simpa using h)]; rfl

theorem safePointDistance : SafePointDistance := by
  intro s t r tr c ht hcur hst hfresh hdist hr hf hlow
  have hu := allFinished_eq_false hr hf
  have hfar : s.tooFar t tr = !s.atSafePoint t tr := by
    rw [State.tooFar, hst, hu, freshCycle_of fun k hk => (hfresh k hk).1, hdist, raisedAll_of fun k hk => (hfresh k hk).2]
    simp
  refine ⟨fun ⟨j, k, hj, hkf, hm⟩ => ?_, fun hall => ?_⟩
  · have hsp : s.atSafePoint t tr = false := by
      rw [Bool.eq_false_iff, Ne, atSafePoint_iff hu]
      intro h
      rw [h j k hj hkf] at hm
      cases hm
    obtain ⟨z, hz, hcause, hsub, hword, hdfr, -, hb, -⟩ := raiseAt_eq c none 0x05 0x3 c.pc 0
    have hra : c.raised = [] := (hfresh c (List.mem_of_getElem? hr)).2
    refine ⟨{ c with raised := [z] }, z, ?_, rfl, hcause, hsub, hword, hdfr, hb⟩
    rw [exec_safePointDistanceFault ht hcur, hfar, hsp, Bool.not_false, if_pos rfl, lowestUnfinished_of hr hf hlow]
    show Host.Outcome.next (s.modCore (.core t r) _) = _
    rw [modCore_of_some (core?_core_iff.2 ⟨tr, ht, hr⟩), hz, hra]
    rfl
  · rw [exec_safePointDistanceFault ht hcur, hfar, (atSafePoint_iff hu).2 hall, if_neg (by decide)]

end

/-! ## Frame ticks -/

/-- The state after a frame tick. -/
def ticked (s : State) : State :=
  { s with troupes := s.troupes.map fun tr => { tr with cores := tr.cores.map (Core.tick s.wall) },
           mgmt := gen 2 fun m => { s.mg m with core := (s.mg m).core.tick s.wall } }

/-- A tick passes at every core, and at no other part of the state. -/
theorem core?_ticked (s : State) (a : Agent) : (ticked s).core? a = (s.core? a).map (Core.tick s.wall) := by
  cases a with
  | core t r =>
    show ((ticked s).troupe? t).bind _ = ((s.troupe? t).bind _).map _
    rw [show (ticked s).troupe? t = (s.troupe? t).map fun tr => { tr with cores := tr.cores.map (Core.tick s.wall) } from
      List.getElem?_map]
    cases s.troupe? t with
    | none => rfl
    | some tr => exact List.getElem?_map
  | mgmt m =>
    simp only [State.core?]
    split
    case isTrue hm =>
      have : (ticked s).mg m = { s.mg m with core := (s.mg m).core.tick s.wall } :=
        (vget_gen ..).trans (if_pos hm)
      rw [this]; rfl
    case isFalse => rfl

theorem exec_frameTick {s : State} (hw : s.wall % 4096 = 0) (hr : s.released = true) :
    exec .frameTick s = .next (ticked s) := by
  show execFrameTick s = _
  have : ¬ (decide (s.wall % Config.tick ≠ 0) || !s.released) = true := by
    rw [hr, show s.wall % Config.tick = 0 from hw]; decide
  rw [execFrameTick, if_neg this]
  rfl

section
variable {s : State} {t : Nat} {tr : Troupe}

/-- The VCC value of an aligned restart: the next multiple of 4,096 (R29). -/
theorem realigned_spec {v : Nat} (hv : v < 2 ^ 64 - 4096) :
    (BitVec.ofNat 64 ((v / 4096 + 1) * 4096)).toNat % 4096 = 0 ∧ v < (BitVec.ofNat 64 ((v / 4096 + 1) * 4096)).toNat ∧
      (BitVec.ofNat 64 ((v / 4096 + 1) * 4096)).toNat ≤ v + 4096 := by
  have h : (v / 4096 + 1) * 4096 < 2 ^ 64 := by omega
  rw [BitVec.toNat_ofNat, Nat.mod_eq_of_lt h]
  omega

theorem realign_spec (ht : s.troupe? t = some tr) (hre : tr.realign = true) (hw : s.wall % 4096 = 0)
    (hst : tr.st = .running ∨ tr.st = .saving ∨ tr.st = .restoring) :
    ∃ u l, exec (.realignRelabel t) s = .next u ∧ u.troupe? t = some { advanced tr l with
      vcc := if tr.inRoutine then tr.vcc else BitVec.ofNat 64 ((tr.vcc.toNat / Config.tick + 1) * Config.tick), unal := false,
      realign := false, resuming := true, cores := (advanced tr l).cores.map fun c => { c with realign := false } } := by
  obtain ⟨l, hl⟩ := advance_spec ht
  have hgo : ¬ (!tr.realign || decide (s.wall % Config.tick ≠ 0) ||
      !(tr.st == .running || tr.st == .saving || tr.st == .restoring)) = true := by
    rw [hre, show s.wall % Config.tick = 0 from hw]
    obtain h | h | h := hst <;> rw [h] <;> decide
  have hexec : exec (.realignRelabel t) s = .next ((s.advance t).modTroupe t fun x =>
      { x with vcc := if tr.inRoutine then tr.vcc else BitVec.ofNat 64 ((tr.vcc.toNat / Config.tick + 1) * Config.tick),
               unal := false, realign := false, resuming := true, cores := x.cores.map fun c => { c with realign := false } }) := by
    show execRealignRelabel t s = _
    simp only [execRealignRelabel, ht]
    exact if_neg hgo
  rw [modTroupe_of_some hl] at hexec
  exact ⟨_, l, hexec, troupe_setTroupe_same hl⟩

theorem ticks : Ticks := by
  refine ⟨fun s hw hr => ⟨ticked s, exec_frameTick hw hr, rfl, List.length_map .., fun a c hc => ?_⟩,
    fun s t tr ht hre hw hst => ?_⟩
  · rw [core?_ticked, hc]
    refine ⟨fun w hwt hlt => ?_, fun w hwt hle => ?_, fun hn => ?_⟩
    · simp only [Option.map_some, Core.tick, hwt, hlt, if_true]
    · simp only [Option.map_some, Core.tick, hwt, Nat.not_lt.2 hle, if_false]
    · simp only [Option.map_some, Core.tick, hn]
  · obtain ⟨u, l, hexec, hu⟩ := realign_spec ht hre hw hst
    refine ⟨u, _, hexec, hu, rfl, rfl, rfl, rfl, by simp [advanced], fun hrun hv => ?_, fun hne => ?_, fun r c hr => ?_⟩
    · have hin : tr.inRoutine = false := by rw [Troupe.inRoutine, hrun]; rfl
      simp only [hin, Bool.false_eq_true, if_false]
      exact realigned_spec hv
    · have hin : tr.inRoutine = true := by
        rw [Troupe.inRoutine]
        obtain h | h | h := hst
        · exact absurd h hne
        · rw [h]; rfl
        · rw [h]; rfl
      simp only [hin, if_true]
    · refine ⟨{ advancedCore c with realign := false }, ?_, rfl, rfl, rfl, rfl, rfl⟩
      simp [advanced, hr]

end

end Sys2Proof.Proofs.ExecutionModel
end

section
/-! Fault and pre-emption records, the failures of waits, and what the records' writes and trace samples leave (R128, R129,
R279, R280, R381). -/

namespace Sys2Proof.Proofs.ExecutionModel

open Sys2Proof Sys2Proof.Machine Sys2Proof.Claims

/-! ## Fields one above the other -/

/-- Fields, each with its width, from the lowest bit on. -/
def packFields : List (Nat × Nat) → Nat
  | [] => 0
  | (f, w) :: l => f + 2 ^ w * packFields l

/-- A word holds the fields `l` from bit `o` on. -/
def HoldsFields {n : Nat} (z : BitVec n) : Nat → List (Nat × Nat) → Prop
  | _, [] => True
  | o, (f, w) :: l => z.extractLsb' o w = BitVec.ofNat w f ∧ HoldsFields z (o + w) l

theorem holdsFields_of_bits {n : Nat} {z : BitVec n} {l : List (Nat × Nat)} (hl : ∀ x ∈ l, x.1 < 2 ^ x.2) {o : Nat}
    (hn : o + (l.map Prod.snd).sum ≤ n) (hz : ∀ j, o + j < n → z.getLsbD (o + j) = (packFields l).testBit j) :
    HoldsFields z o l := by
  induction l generalizing o with
  | nil => trivial
  | cons x l ih =>
    obtain ⟨f, w⟩ := x
    obtain ⟨hf, hl⟩ := List.forall_mem_cons.1 hl
    rw [List.map_cons, List.sum_cons] at hn
    have hlow : (f + 2 ^ w * packFields l) % 2 ^ w = f := by
      rw [Nat.add_mul_mod_self_left, Nat.mod_eq_of_lt hf]
    have hhigh : (f + 2 ^ w * packFields l) / 2 ^ w = packFields l := by
      rw [Nat.add_mul_div_left _ _ (Nat.two_pow_pos w), Nat.div_eq_of_lt hf, Nat.zero_add]
    refine ⟨BitVec.eq_of_getLsbD_eq fun j hj => ?_, ih hl (by omega) fun j hj => ?_⟩
    · rw [BitVec.getLsbD_extractLsb', hz j (by omega), BitVec.getLsbD_ofNat, packFields]
      nth_rw 2 [← hlow]
      rw [Nat.testBit_mod_two_pow, decide_eq_true hj, Bool.true_and, Bool.true_and]
    · rw [Nat.add_assoc, hz (w + j) (by omega), packFields]
      nth_rw 2 [← hhigh]
      rw [Nat.testBit_div_two_pow, Nat.add_comm j w]

theorem holdsFields_pack {n : Nat} {l : List (Nat × Nat)} (hl : ∀ x ∈ l, x.1 < 2 ^ x.2) (hn : (l.map Prod.snd).sum ≤ n) :
    HoldsFields (BitVec.ofNat n (packFields l)) 0 l :=
  holdsFields_of_bits hl (by omega) fun j hj => by
    rw [BitVec.getLsbD_ofNat, decide_eq_true hj, Bool.true_and, Nat.zero_add]

theorem getLsbD_of_extract {n o : Nat} {z : BitVec n} {b : Bool} (h : z.extractLsb' o 1 = BitVec.ofNat 1 (bit b)) :
    z.getLsbD o = b := by
  have := congrArg (fun v => v.getLsbD 0) h
  rw [BitVec.getLsbD_extractLsb'] at this
  cases b <;> simpa [bit] using this

/-! ## The fields of a record (R279) -/

/-- The fields of a record, with the safe point's index. -/
def recordFields (f : Raised) (tr : Troupe) (rank wall : Nat) (rout : Bool) (spix : Nat) : List (Nat × Nat) :=
  [(f.cause.toNat, 8), (f.done.toNat, 8), (tr.seq % 2 ^ 16, 16), (f.sub.toNat, 8), (0, 8), (f.word.getD 0, 3), (0, 2),
   (bit f.word.isSome, 1), (bit f.deferred, 1), (bit f.rtnw, 1), (bit rout, 1), (0, 15), (rank % 256, 8),
   (tr.num % 2 ^ 16, 16), (0, 4), (f.baddr % 2 ^ 28, 28), (tr.vcc.toNat, 64), (f.hnd.toNat, 32), (spix % 4096, 12),
   (f.hcs.toNat, 4), (f.code.toNat, 16), (f.addr.toNat, 64), (f.aux0.toNat, 64),
   (if rout then tr.rcount else f.aux1.toNat, 64), (wall % 2 ^ 64, 64)]

theorem bit_lt (b : Bool) : bit b < 2 ^ 1 := by cases b <;> decide

theorem recordFields_fit {f : Raised} {tr : Troupe} (hw : ∀ w, f.word = some w → w < 8) (rank wall : Nat) (rout : Bool)
    (hc : rout = true → tr.rcount < 2 ^ 64) (spix : Nat) : ∀ x ∈ recordFields f tr rank wall rout spix, x.1 < 2 ^ x.2 := by
  have hword : f.word.getD 0 < 2 ^ 3 := by
    cases h : f.word with
    | none => decide
    | some w => exact hw w h
  have haux : (if rout then tr.rcount else f.aux1.toNat) < 2 ^ 64 := by
    split
    · exact hc (by assumption)
    · exact f.aux1.isLt
  have hmod (x n : Nat) : x % 2 ^ n < 2 ^ n := Nat.mod_lt _ (Nat.two_pow_pos n)
  simp only [recordFields, List.forall_mem_cons]
  exact ⟨f.cause.isLt, f.done.isLt, hmod _ 16, f.sub.isLt, by decide, hword, by decide, bit_lt _, bit_lt _, bit_lt _, bit_lt _,
    by decide, hmod _ 8, hmod _ 16, by decide, hmod _ 28, tr.vcc.isLt, f.hnd.isLt, hmod _ 12, f.hcs.isLt, f.code.isLt,
    f.addr.isLt, f.aux0.isLt, haux, hmod _ 64, by simp⟩

/-- The places of a record's fields: the widths of those below. -/
theorem record_places (cause done seq sub word ws dfr rtnw rout rank num baddr vcc hnd hcs code addr aux0 aux1 wall spix : Nat) :
    cause + done * 2 ^ 8 + seq * 2 ^ 16 + sub * 2 ^ 32 + word * 2 ^ 48 + ws * 2 ^ 53 + dfr * 2 ^ 54 + rtnw * 2 ^ 55 +
      rout * 2 ^ 56 + rank * 2 ^ 72 + num * 2 ^ 80 + baddr * 2 ^ 100 + vcc * 2 ^ 128 + hnd * 2 ^ 192 + hcs * 2 ^ 236 +
      code * 2 ^ 240 + addr * 2 ^ 256 + aux0 * 2 ^ 320 + aux1 * 2 ^ 384 + wall * 2 ^ 448 + spix * 2 ^ 224 =
    packFields [(cause, 8), (done, 8), (seq, 16), (sub, 8), (0, 8), (word, 3), (0, 2), (ws, 1), (dfr, 1), (rtnw, 1), (rout, 1),
      (0, 15), (rank, 8), (num, 16), (0, 4), (baddr, 28), (vcc, 64), (hnd, 32), (spix, 12), (hcs, 4), (code, 16), (addr, 64),
      (aux0, 64), (aux1, 64), (wall, 64)] := by
  have h320 : 2 ^ 320 = 2 ^ 160 * 2 ^ 160 := by rw [← pow_add]
  have h384 : 2 ^ 384 = 2 ^ 192 * 2 ^ 192 := by rw [← pow_add]
  have h448 : 2 ^ 448 = 2 ^ 224 * 2 ^ 224 := by rw [← pow_add]
  simp only [packFields, h320, h384, h448]
  ring

theorem recordFields_width (f : Raised) (tr : Troupe) (rank wall : Nat) (rout : Bool) (spix : Nat) :
    ((recordFields f tr rank wall rout spix).map Prod.snd).sum = 512 := by
  simp only [recordFields, List.map_cons, List.map_nil, List.sum_cons, List.sum_nil, Nat.reduceAdd]

theorem pack_eq (f : Raised) (tr : Troupe) (rank wall : Nat) (rout : Bool) (spix : Nat) :
    f.pack tr rank wall rout + BitVec.ofNat 512 (spix % 4096 * 2 ^ 224) =
      BitVec.ofNat 512 (packFields (recordFields f tr rank wall rout spix)) := by
  rw [Raised.pack, ← BitVec.ofNat_add, record_places]
  rfl

theorem ofNat_mod (n x : Nat) : BitVec.ofNat n (x % 2 ^ n) = BitVec.ofNat n x :=
  BitVec.eq_of_toNat_eq (by simp)

theorem recordFields_hold : RecordFields := by
  intro tr wall has
  have key (z : Rec) (f : Raised) (rank : Nat) (rout : Bool) (spix : Nat) (hw : ∀ w, f.word = some w → w < 8)
      (hc : rout = true → tr.rcount < 2 ^ 64)
      (hz : z = f.pack tr rank wall rout + BitVec.ofNat 512 (spix % 4096 * 2 ^ 224)) : has z f rank rout (BitVec.ofNat 12 spix) := by
    have h := holdsFields_pack (n := 512) (recordFields_fit hw rank wall rout hc spix) (recordFields_width ..).le
    rw [← pack_eq, ← hz] at h
    simp only [recordFields, HoldsFields] at h
    obtain ⟨hcause, hdone, hseq, hsub, z40, hword, z51, hws, hdfr, hrtnw, hrout, z57, hrank, hnum, z96, hbaddr, hvcc, hhnd,
      hspix, hhcs, hcode, haddr, haux0, haux1, hwall, -⟩ := h
    have hself {n : Nat} (v : BitVec n) : BitVec.ofNat n v.toNat = v := by simp
    refine ⟨hcause.trans (hself _), hdone.trans (hself _), hseq.trans (ofNat_mod ..), hsub.trans (hself _), z40, hword, z51,
      getLsbD_of_extract hws, getLsbD_of_extract hdfr, getLsbD_of_extract hrtnw, getLsbD_of_extract hrout, z57, hrank.trans (ofNat_mod 8 rank), hnum.trans (ofNat_mod ..), z96, hbaddr.trans (ofNat_mod ..),
      hvcc.trans (hself _), hhnd.trans (hself _), hspix.trans (ofNat_mod 12 spix), hhcs.trans (hself _), hcode.trans (hself _),
      haddr.trans (hself _), haux0.trans (hself _), haux1.trans ?_, hwall.trans (ofNat_mod ..)⟩
    split
    · rfl
    · exact hself _
  refine ⟨fun f rank rout hw hc => key _ f rank rout 0 hw (fun _ => hc) (by simp), ?_⟩
  intro r c pc q f hr hf hlow hk hfe
  refine key _ f c.rank false tr.spix (by rw [hfe]; simp) (by simp) ?_
  rw [Troupe.preRecord, lowestUnfinished_of hr hf hlow, hfe]
  simp only [Option.getD_some, List.getD_eq_getElem?_getD, hk]

/-! ## The failures of waits -/

/-- A failure that becomes known after its cycle is raised in the core alone. -/
theorem raiseLate_eq (c : Core) (w b : Nat) (e : Exc) : ∃ z, c.raiseLate w b e = { c with raised := c.raised ++ [z] } ∧
    z.cause = BitVec.ofNat 8 e.cause ∧ z.sub = BitVec.ofNat 8 e.sub ∧ z.word = some w ∧ z.deferred = true ∧ z.baddr = b ∧
    z.addr = BitVec.ofNat 64 e.addr ∧ z.hnd = e.hnd ∧ z.aux0 = e.aux0 ∧ z.aux1 = e.aux1 :=
  ⟨_, rfl, rfl, rfl, rfl, rfl, rfl, rfl, rfl, rfl, rfl⟩

/-- What the report of a failed wait raises. -/
def reportFault (w : Wait) : CtrRep → Exc
  | .value _ => { cause := 0 }
  | .orphan => { cause := 0x13, hnd := w.handle }
  | .homeLost => { cause := 0x11, hnd := w.handle }
  | .overrun tg o => { cause := 0x14, hnd := w.handle, aux0 := tg, aux1 := o.zeroExtend 64 }
  | .notArmed tg v => { cause := 0x03, hnd := w.handle, aux0 := tg, aux1 := v }
  | .expired tg v => { cause := 0x12, hnd := w.handle, aux0 := tg, aux1 := v }

theorem reportAt_of {c : Core} {w : Wait} {r : CtrRep} {nx : Nat} (hw : c.wait = some w) (hi : w.iss < nx)
    (hr : w.report = some r) : c.reportAt nx = some (w, r) := by
  simp [Core.reportAt, hw, hi, hr]

/-- A failure is raised, and the wait stands to be made again. -/
theorem takeReport_fails {c : Core} {w : Wait} {r : CtrRep} {nx : Nat} (hat : c.reportAt nx = some (w, r))
    (hv : ∀ v, r ≠ .value v) : c.takeReport nx =
      { c.raiseLate 2 w.baddr (reportFault w r) with wait := some { w with formed := none, report := none, op := 0 } } := by
  rw [Core.takeReport, hat]
  cases r with
  | value v => exact absurd rfl (hv v)
  | orphan | homeLost | overrun | notArmed | expired => rfl

theorem waitFailures : WaitFailures := by
  intro c w r nx hw hi hr fails
  have hat := reportAt_of hw hi hr
  have hfail (hv : ∀ v, r ≠ .value v) (hsub : (reportFault w r).sub = 0) (haddr : (reportFault w r).addr = 0)
      (hhnd : (reportFault w r).hnd = w.handle) :
      fails (BitVec.ofNat 8 (reportFault w r).cause) (reportFault w r).aux0 (reportFault w r).aux1 := by
    obtain ⟨z, hz, hcause, hs, hword, hdfr, hb, ha, hh, ha0, ha1⟩ := raiseLate_eq c 2 w.baddr (reportFault w r)
    rw [hsub] at hs
    rw [haddr] at ha
    refine ⟨z, ?_, hcause, hs, hword, hdfr, hb, ha, hh.trans hhnd, ha0, ha1, ?_⟩
    · rw [takeReport_fails hat hv, hz]
    · rw [takeReport_fails hat hv]
  refine ⟨fun h => ?_, fun h => ?_, fun t o h => ?_, fun t v h => ?_, fun t v h => ?_, fun v h => ?_⟩
  · subst h; exact hfail (by simp) rfl rfl rfl
  · subst h; exact hfail (by simp) rfl rfl rfl
  · subst h; exact hfail (by simp) rfl rfl rfl
  · subst h; exact hfail (by simp) rfl rfl rfl
  · subst h; exact hfail (by simp) rfl rfl rfl
  · subst h
    rw [Core.takeReport, hat]
    exact ⟨rfl, rfl, _, rfl, rfl, rfl, rfl⟩

/-! ## Writes that every agent sees -/

/-- One byte of a memory after a write of some bytes. -/
theorem get_writeO {m : Mem} (h : m.wf = true) (a : Nat) (l : List (Option Byte)) (x : Nat) :
    (m.writeO a l).get x = (if a ≤ x then (l.getD (x - a) none).getD (m.get x) else m.get x) := by
  induction l generalizing m a with
  | nil => simp [Mem.writeO]
  | cons b l ih =>
    have hstep (k : Mem) (hk : k.wf = true) (hx : x ≠ a → k.get x = m.get x) (hb : x = a → k.get x = b.getD (m.get x)) :
        (k.writeO (a + 1) l).get x = if a ≤ x then ((b :: l).getD (x - a) none).getD (m.get x) else m.get x := by
      rw [ih hk]
      obtain hlt | heq | hgt := Nat.lt_trichotomy x a
      · rw [if_neg (by omega), if_neg (by omega), hx (by omega)]
      · subst heq
        rw [if_neg (by omega), if_pos (Nat.le_refl _), hb rfl, Nat.sub_self, List.getD_cons_zero]
      · obtain ⟨k', rfl⟩ : ∃ k', x = a + 1 + k' := ⟨x - (a + 1), by omega⟩
        rw [if_pos (by omega), if_pos (by omega), hx (by omega), show a + 1 + k' - (a + 1) = k' by omega,
          show a + 1 + k' - a = k' + 1 by omega, List.getD_cons_succ]
    cases b with
    | none => exact hstep m h (fun _ => rfl) fun _ => rfl
    | some b =>
      refine hstep (m.set a b) (Mem.wf_set h a b) (fun hx => ?_) fun hx => ?_
      · rw [Mem.get_set h, if_neg hx]
      · rw [Mem.get_set h, if_pos hx]; rfl

/-- The byte that an accepted write names at an address. -/
def byteOf (w : GWrite) (x : Nat) : Option Byte := if w.pa ≤ x then w.bytes.getD (x - w.pa) none else none

theorem get_writeO_byteOf {m : Mem} (h : m.wf = true) (w : GWrite) (x : Nat) :
    (m.writeO w.pa w.bytes).get x = (byteOf w x).getD (m.get x) := by
  rw [get_writeO h, byteOf]
  split <;> rfl

/-- Memory under a list of writes, latest last. -/
theorem get_foldl_writeO {m : Mem} (h : m.wf = true) (l : List GWrite) (x : Nat) :
    (l.foldl (fun m w => m.writeO w.pa w.bytes) m).get x = l.foldl (fun b w => (byteOf w x).getD b) (m.get x) := by
  induction l generalizing m with
  | nil => rfl
  | cons w l ih => rw [List.foldl_cons, List.foldl_cons, ih (Mem.wf_writeO h _ _), get_writeO_byteOf h]

/-- A byte that a later write covers is not named any more; the others are as they were. -/
theorem byteOf_under (w : GWrite) (pa : Nat) (bs : List (Option Byte)) (x : Nat) :
    byteOf (w.under pa bs) x = if pa ≤ x ∧ (bs.getD (x - pa) none).isSome then none else byteOf w x := by
  unfold byteOf GWrite.under
  dsimp only
  by_cases hx : w.pa ≤ x
  · simp only [if_pos hx, List.getD_eq_getElem?_getD, List.getElem?_mapIdx, show w.pa + (x - w.pa) = x by omega]
    cases w.bytes[x - w.pa]? with
    | none => simp
    | some b => simp
  · rw [if_neg hx, if_neg hx, ite_self]

/-- The bytes that writes under a later one still name. -/
theorem foldl_hidden (l : List GWrite) (pa : Nat) (bs : List (Option Byte)) (x : Nat) (b : Byte) :
    ((Machine.hidden l pa bs).filter fun w => w.pub).foldl (fun b w => (byteOf w x).getD b) b =
      (l.filter fun w => w.pub).foldl (fun b w => (byteOf (w.under pa bs) x).getD b) b := by
  induction l generalizing b with
  | nil => rfl
  | cons w l ih =>
    have hnone (h : (w.under pa bs).bytes.any Option.isSome = false) : byteOf (w.under pa bs) x = none := by
      rw [List.any_eq_false] at h
      rw [byteOf, List.getD_eq_getElem?_getD]
      cases hb : (w.under pa bs).bytes[x - (w.under pa bs).pa]? with
      | none => simp
      | some y =>
        have : y = none := by simpa using h y (List.mem_of_getElem? hb)
        simp [this]
    have hpub : (w.under pa bs).pub = w.pub := rfl
    have hcons : Machine.hidden (w :: l) pa bs =
        if (w.under pa bs).bytes.any Option.isSome then w.under pa bs :: Machine.hidden l pa bs else Machine.hidden l pa bs := by
      rw [Machine.hidden, List.map_cons, List.filter_cons]; rfl
    rw [hcons, List.filter_cons]
    cases hany : (w.under pa bs).bytes.any Option.isSome <;> cases hp : w.pub
    · simpa using ih b
    · simpa [hnone hany] using ih b
    · simpa [hpub, hp] using ih b
    · simpa [hpub, hp] using ih _

/-- R246, R251: a write of bytes that every agent sees reads as written, and every other byte as before. -/
theorem latest_acceptWide {s : State} (h : s.gmem.wf = true) {pa : Nat} (hpa : homeOf pa ≠ none) (bs : List Byte) :
    (∀ i b, bs[i]? = some b → (s.acceptWide pa (bs.map some)).latest.get (pa + i) = b) ∧
      ∀ x, x < pa ∨ pa + bs.length ≤ x → (s.acceptWide pa (bs.map some)).latest.get x = s.latest.get x := by
  have heq : s.acceptWide pa (bs.map some) =
      { s with gmem := s.gmem.writeO pa (bs.map some), ghist := Machine.hidden s.ghist pa (bs.map some) } := by
    rw [State.acceptWide, if_neg (by simpa using hpa)]
  have hget (x : Nat) : (s.acceptWide pa (bs.map some)).latest.get x = (s.ghist.filter fun w => w.pub).foldl
      (fun b w => (byteOf (w.under pa (bs.map some)) x).getD b) ((s.gmem.writeO pa (bs.map some)).get x) := by
    rw [heq]
    exact (get_foldl_writeO (Mem.wf_writeO h _ _) _ x).trans (foldl_hidden ..)
  refine ⟨fun i b hb => ?_, fun x hx => ?_⟩
  · have hat : (bs.map some).getD (pa + i - pa) none = some b := by
      rw [List.getD_eq_getElem?_getD, Nat.add_sub_cancel_left, List.getElem?_map, hb]; rfl
    have hkeep (l : List GWrite) (c : Byte) :
        l.foldl (fun b w => (byteOf (w.under pa (bs.map some)) (pa + i)).getD b) c = c := by
      induction l with
      | nil => rfl
      | cons w l ih =>
        rw [List.foldl_cons, byteOf_under, if_pos ⟨Nat.le_add_right _ _, by rw [hat]; rfl⟩, Option.getD_none, ih]
    rw [hget, hkeep, get_writeO h, if_pos (Nat.le_add_right _ _), hat, Option.getD_some]
  · have hat : ¬ (pa ≤ x ∧ ((bs.map some).getD (x - pa) none).isSome = true) := by
      rintro ⟨hle, hsome⟩
      rw [List.getD_eq_getElem?_getD, List.getElem?_eq_none (by rw [List.length_map]; omega)] at hsome
      cases hsome
    have hmem : (s.gmem.writeO pa (bs.map some)).get x = s.gmem.get x := by
      rw [Mem.writeO_some, Mem.get_write h, if_neg (by omega)]
    rw [hget, hmem]
    simp only [byteOf_under, hat, if_false]
    exact (get_foldl_writeO h _ x).symm

/-! ## The fault queue -/

section
variable {s : State} {p t : Nat} {r : Rec}

/-- `a` waits before `b`: its wall cycle is lower, or the same and its place before. -/
def OlderRec (a b : Nat × Rec) : Prop :=
  a.2.toNat / 2 ^ 448 < b.2.toNat / 2 ^ 448 ∨ a.2.toNat / 2 ^ 448 = b.2.toNat / 2 ^ 448 ∧ a.1 ≤ b.1

/-- The records that wait first in the troupes of partition `p`. -/
def firstRecs (s : State) (p : Nat) : List (Nat × Rec) :=
  (s.troupes.mapIdx fun t tr => (t, tr)).filterMap fun q =>
    if q.2.part = p then q.2.recs.head?.map fun r => (q.1, r) else none

theorem mem_firstRecs {j : Nat} {q : Rec} : (j, q) ∈ firstRecs s p ↔
    ∃ x, s.troupe? j = some x ∧ x.part = p ∧ x.recs.head? = some q := by
  simp only [firstRecs, List.mem_filterMap]
  constructor
  · rintro ⟨⟨i, x⟩, hm, he⟩
    obtain ⟨k, hk⟩ := List.getElem?_of_mem hm
    rw [List.getElem?_mapIdx] at hk
    obtain ⟨y, hy, hyx⟩ := Option.map_eq_some_iff.1 hk
    cases hyx
    split at he
    · obtain ⟨z, hz, hzq⟩ := Option.map_eq_some_iff.1 he
      cases hzq
      exact ⟨x, hy, by assumption, hz⟩
    · cases he
  · rintro ⟨x, hx, hp, hq⟩
    refine ⟨(j, x), List.mem_of_getElem? (i := j) ?_, by simp [hp, hq]⟩
    rw [List.getElem?_mapIdx, show s.troupes[j]? = some x from hx]; rfl

theorem firstRecs_sorted (s : State) (p : Nat) : (firstRecs s p).Pairwise fun a b => a.1 < b.1 := by
  refine List.Pairwise.filterMap (R := fun a b => a.1 < b.1) _ (fun a b hab x hx y hy => ?_) ?_
  · split at hx
    · split at hy
      · obtain ⟨_, -, rfl⟩ := Option.map_eq_some_iff.1 hx
        obtain ⟨_, -, rfl⟩ := Option.map_eq_some_iff.1 hy
        exact hab
      · cases hy
    · cases hx
  · rw [List.pairwise_iff_getElem]
    intro i j hi hj hij
    simpa using hij

theorem foldl_older (l : List (Nat × Rec)) (b : Nat × Rec) (hl : l.Pairwise fun a b => a.1 < b.1)
    (hb : ∀ g ∈ l, b.1 < g.1) : ∃ x, l.foldl (fun b r => match b with
      | none => some r
      | some x => if r.2.toNat / 2 ^ 448 < x.2.toNat / 2 ^ 448 then some r else some x) (some b) = some x ∧
    (x = b ∨ x ∈ l) ∧ OlderRec x b ∧ ∀ g ∈ l, OlderRec x g := by
  induction l generalizing b with
  | nil => exact ⟨b, rfl, .inl rfl, .inr ⟨rfl, Nat.le_refl _⟩, by simp⟩
  | cons y l ih =>
    obtain ⟨hy, hl⟩ := List.pairwise_cons.1 hl
    obtain ⟨hby, hbl⟩ := List.forall_mem_cons.1 hb
    have htrans {a b c : Nat × Rec} (h1 : OlderRec a b) (h2 : OlderRec b c) : OlderRec a c := by
      unfold OlderRec at *; omega
    rw [List.foldl_cons]
    dsimp only
    split
    case isTrue hlt =>
      obtain ⟨x, he, hm, hxy, hxl⟩ := ih y hl hy
      exact ⟨x, he, .inr (hm.elim (fun e => e ▸ List.mem_cons_self) (List.mem_cons_of_mem _)), htrans hxy (.inl hlt),
        List.forall_mem_cons.2 ⟨hxy, hxl⟩⟩
    case isFalse hge =>
      obtain ⟨x, he, hm, hxb, hxl⟩ := ih b hl hbl
      exact ⟨x, he, hm.imp id (List.mem_cons_of_mem _), hxb,
        List.forall_mem_cons.2 ⟨htrans hxb (by unfold OlderRec; omega), hxl⟩⟩

/-- The oldest waiting record of a partition, by its wall cycle and then by its place (R280). -/
theorem oldestRec_of (hm : (t, r) ∈ firstRecs s p) (hold : ∀ g ∈ firstRecs s p, OlderRec (t, r) g) :
    s.oldestRec p = some (t, r) := by
  have hsort := firstRecs_sorted s p
  show (firstRecs s p).foldl _ none = _
  cases hl : firstRecs s p with
  | nil => rw [hl] at hm; cases hm
  | cons b l =>
    rw [hl] at hm hold hsort
    obtain ⟨hb, hls⟩ := List.pairwise_cons.1 hsort
    obtain ⟨x, he, hx, hxb, hxl⟩ := foldl_older l b hls hb
    refine he.trans ?_
    have hxm : x ∈ b :: l := hx.elim (fun e => e ▸ List.mem_cons_self) (List.mem_cons_of_mem _)
    have h1 : OlderRec x (t, r) := (List.forall_mem_cons.2 ⟨hxb, hxl⟩ : ∀ g ∈ b :: l, OlderRec x g) _ hm
    have h2 := hold x hxm
    have hfirst : x.1 = t := by
      unfold OlderRec at h1 h2
      dsimp only at h1 h2
      omega
    obtain ⟨j, q⟩ := x
    obtain rfl : j = t := hfirst
    rw [← hl] at hxm hm
    obtain ⟨y, hy, -, hyq⟩ := mem_firstRecs.1 hxm
    obtain ⟨z, hz, -, hzq⟩ := mem_firstRecs.1 hm
    obtain rfl : y = z := Option.some.inj (hy.symm.trans hz)
    rw [Option.some.inj (hyq.symm.trans hzq)]

theorem bank_modBank (s : State) (hp : p < 12) (f : Bank → Bank) : (s.modBank p f).bank p = f (s.bank p) :=
  vget_vset_same _ _ _ _ hp

/-- A pending bit of a partition changes its bank, and beside it the management cores alone. -/
theorem setIp_spec (s : State) (hp : p < 12) (i : Nat) :
    (s.setIp p i).bank p = { s.bank p with ip := (s.bank p).ip ||| BitVec.ofNat 8 (2 ^ i) } ∧
      (s.setIp p i).gmem = s.gmem ∧ (s.setIp p i).ghist = s.ghist ∧ (s.setIp p i).troupes = s.troupes :=
  ⟨bank_modBank s hp _, rfl, rfl, rfl⟩

theorem acceptWide_rest (s : State) (pa : Nat) (bs : List (Option Byte)) :
    (s.acceptWide pa bs).troupes = s.troupes ∧ (s.acceptWide pa bs).banks = s.banks := by
  unfold State.acceptWide
  split <;> exact ⟨rfl, rfl⟩

theorem frqSlot_eq (b : Bank) :
    b.frqSlot = b.frqBase.toNat / 4096 * 4096 + 64 * (b.frqHead.toNat % 2 ^ b.frqLsz.toNat) := by
  have h : b.frqBase.toNat / 4096 % 2 ^ 52 = b.frqBase.toNat / 4096 := Nat.mod_eq_of_lt (by have := b.frqBase.isLt; omega)
  rw [Bank.frqSlot]
  exact congrArg (fun x => x * 4096 + 64 * (b.frqHead.toNat % 2 ^ b.frqLsz.toNat)) h

theorem exec_faultRecordWrite (hp : p < 12) (ho : s.oldestRec p = some (t, r)) : exec (.faultRecordWrite p) s =
    if (s.bank p).frqFull then .next ((s.modBank p fun b => { b with frqStuck := true }).setIp p 6)
    else if s.portDown (s.bank p).frqSlot || !s.planeFree (s.bank p).frqSlot then .refused (.notEnabled "FAULT_RECORD_WRITE")
    else .next ((((s.acceptWide (s.bank p).frqSlot ((leBytes 64 r.toNat).map some)).modBank p fun b =>
      { b with frqHead := b.frqHead + 1, frqStuck := false }).modTroupe t fun tr => { tr with recs := tr.recs.drop 1 }).setIp p 0) := by
  show execFaultRecordWrite p s = _
  simp only [execFaultRecordWrite, Nat.not_le.2 hp, if_false, ho]
  rfl

theorem frqFull_iff (b : Bank) : b.frqFull = true ↔ 2 ^ b.frqLsz.toNat ≤ (b.frqHead - b.frqTail).toNat :=
  decide_eq_true_iff

/-- The record that leaves goes to its slot, and only the queue's head, the pending bits and the troupe's records change. -/
theorem recordWrite_spec {tr : Troupe} {l : List Rec} (hp : p < 12) (ht : s.troupe? t = some tr) (hr : tr.recs = r :: l)
    (pa : Nat) (bs : List (Option Byte)) :
    let u := (((s.acceptWide pa bs).modBank p fun b => { b with frqHead := b.frqHead + 1, frqStuck := false }).modTroupe t
      fun tr => { tr with recs := tr.recs.drop 1 }).setIp p 0
    (u.bank p).frqHead = (s.bank p).frqHead + 1 ∧ (u.bank p).ip = (s.bank p).ip ||| 1 ∧
      u.troupes = (s.setTroupe t { tr with recs := l }).troupes ∧ u.latest = (s.acceptWide pa bs).latest := by
  intro u
  obtain ⟨htr, hbanks⟩ := acceptWide_rest s pa bs
  have hbank : (s.acceptWide pa bs).bank p = s.bank p := congrArg (fun v => vget Bank.reset v p) hbanks
  have hmod : u = (((s.acceptWide pa bs).modBank p fun b => { b with frqHead := b.frqHead + 1, frqStuck := false }).setTroupe t
      { tr with recs := l }).setIp p 0 := by
    simp only [u]
    rw [modTroupe_of_some (x := tr) ((troupe?_modBank ..).trans ((troupe?_acceptWide ..).trans ht)), hr]
    rfl
  obtain ⟨hb, hg, hh, hts⟩ := setIp_spec (((s.acceptWide pa bs).modBank p fun b =>
    { b with frqHead := b.frqHead + 1, frqStuck := false }).setTroupe t { tr with recs := l }) hp 0
  have hb' : (((s.acceptWide pa bs).modBank p fun b => { b with frqHead := b.frqHead + 1, frqStuck := false }).setTroupe t
      { tr with recs := l }).bank p = { s.bank p with frqHead := (s.bank p).frqHead + 1, frqStuck := false } :=
    (bank_modBank _ hp _).trans (by rw [hbank])
  rw [hb'] at hb
  rw [hmod, hb]
  refine ⟨rfl, rfl, hts.trans ?_, ?_⟩
  · show (s.acceptWide pa bs).troupes.set t _ = s.troupes.set t _
    rw [htr]
  · simp only [State.latest, hg, hh]
    rfl

theorem oldestRec_of_first {tr : Troupe} {l : List Rec} (ht : s.troupe? t = some tr) (htp : tr.part = p)
    (hr : tr.recs = r :: l) (hold : ∀ j x q, s.troupe? j = some x → x.part = p → x.recs.head? = some q →
      r.toNat / 2 ^ 448 < q.toNat / 2 ^ 448 ∨ r.toNat / 2 ^ 448 = q.toNat / 2 ^ 448 ∧ t ≤ j) :
    s.oldestRec p = some (t, r) :=
  oldestRec_of (mem_firstRecs.2 ⟨tr, ht, htp, by rw [hr]; rfl⟩) fun ⟨j, q⟩ hg => by
    obtain ⟨x, hx, hxp, hq⟩ := mem_firstRecs.1 hg
    exact hold j x q hx hxp hq

end

/-! ## Samples -/

/-- A sample's records are noted one after the other. -/
theorem foldl_note {s : State} {t : Nat} {tr : Troupe} (ht : s.troupe? t = some tr) (l : List Core)
    (vcc data : Nat) :
    l.foldl (fun s c => s.note t s.wall vcc c.pc 0 c.rank 3 none data) s = s.setTroupe t { tr with trec := tr.trec ++
      (if (s.bank tr.part).dbEn.getLsbD 2 then
        l.map fun c => (c.rank * 8 + 3, traceRec s.wall vcc c.pc 0 tr.num c.rank 3 none data)
      else []) } := by
  have hnote {u : State} {x : Troupe} (hx : u.troupe? t = some x) (c : Core) :
      u.note t u.wall vcc c.pc 0 c.rank 3 none data = if (u.bank x.part).dbEn.getLsbD 2 then
        u.setTroupe t { x with trec := x.trec ++ [(c.rank * 8 + 3, traceRec u.wall vcc c.pc 0 x.num c.rank 3 none data)] }
      else u := by
    simp only [State.note, hx]
  cases hen : (s.bank tr.part).dbEn.getLsbD 2 with
  | false =>
    rw [if_neg (by decide), List.append_nil, show s.setTroupe t { tr with trec := tr.trec } = s from setTroupe_self ht]
    induction l with
    | nil => rfl
    | cons c l ih => rw [List.foldl_cons, hnote ht, if_neg (by rw [hen]; decide), ih]
  | true =>
    rw [if_pos rfl]
    induction l generalizing s tr with
    | nil => rw [List.map_nil, List.append_nil]; exact (setTroupe_self ht).symm
    | cons c l ih =>
      rw [List.foldl_cons, hnote ht, if_pos hen, ih (tr := { tr with trec := tr.trec ++
        [(c.rank * 8 + 3, traceRec s.wall vcc c.pc 0 tr.num c.rank 3 none data)] }) (troupe_setTroupe_same ht) hen, setTroupe_setTroupe, List.map_cons]
      simp only [List.append_assoc, List.singleton_append, State.setTroupe_wall]

theorem recordsWritten : RecordsWritten := by
  refine ⟨fun s p t r l tr hp ht htp hr hold => ?_, fun s t tr ht hcur hst hfresh => ?_⟩
  · intro b at' full
    have hexec := exec_faultRecordWrite hp (oldestRec_of_first ht htp hr hold)
    have hslot : (s.bank p).frqSlot = at' := frqSlot_eq b
    have hfull : (s.bank p).frqFull = true ↔ full := frqFull_iff b
    rw [hslot] at hexec
    refine ⟨fun hn hw => ?_, fun hgo => ?_⟩
    · rw [hexec, if_neg (mt hfull.1 hn), if_pos]
      obtain h | h := hw <;> simp [h]
    · by_cases hf : full
      · rw [if_pos (hfull.2 hf)] at hexec
        refine ⟨_, hexec, fun _ => ?_, fun hn => absurd hf hn⟩
        obtain ⟨hb, hg, -, hts⟩ := setIp_spec (s.modBank p fun b => { b with frqStuck := true }) hp 6
        rw [bank_modBank s hp] at hb
        rw [hb]
        exact ⟨hg, rfl, rfl, hts⟩
      · obtain ⟨hport, hplane⟩ := hgo.resolve_left hf
        rw [if_neg (mt hfull.1 hf), if_neg (by simp [hport, hplane])] at hexec
        obtain ⟨hhead, hip, htroupes, hlatest⟩ := recordWrite_spec hp ht hr at' ((leBytes 64 r.toNat).map some)
        refine ⟨_, hexec, fun h => absurd h hf, fun _ => ⟨hhead, hip, htroupes, fun hwf hhome => ?_⟩⟩
        obtain ⟨hin, hout⟩ := latest_acceptWide hwf hhome (leBytes 64 r.toNat)
        rw [hlatest]
        refine ⟨fun i hi => hin i _ ?_, fun x hx => hout x ?_⟩
        · rw [leBytes, getElem?_tab, if_pos hi]
        · rwa [leBytes, length_tab]
  · intro n
    have hsample : exec (.traceSample t) s = if n = 0 ∨ tr.vcc.toNat % 2 ^ n ≠ 0 then .refused (.notEnabled "TRACE_SAMPLE")
        else .next (tr.cores.foldl (fun s c => s.note t s.wall tr.vcc.toNat c.pc 0 c.rank 3 none tr.heldTotal) s) := by
      show execTraceSample t s = _
      simp only [execTraceSample, ht, hst, hcur, freshCycle_of hfresh, bne_self_eq_false, Bool.not_true, ne_eq, not_true,
        decide_false, Bool.or_false, Bool.or_eq_true, decide_eq_true_eq]
      rfl
    refine ⟨fun hn hm => ?_, fun h => by rw [hsample, if_pos h]⟩
    rw [hsample, if_neg (not_or.2 ⟨hn, not_not.2 hm⟩)]
    rw [foldl_note ht]

/-- Settles O41, the records by the layout of their fields (`holdsFields_pack`). -/
theorem holdsAndRecords : Obligations.HoldsAndRecords :=
  ⟨holds, safePointDistance, ticks, recordFields_hold, waitFailures, recordsWritten⟩

end Sys2Proof.Proofs.ExecutionModel
end

section
/-! Pre-emption, the save and restore phases and their violation, and retirement (R35 to R39, R255, R279, R282 to R286). -/

namespace Sys2Proof.Proofs.ExecutionModel

open Sys2Proof Sys2Proof.Machine Sys2Proof.Claims

/-! ## Pre-emption -/

section
variable {s : State} {t : Nat} {tr : Troupe}

theorem lowestBit_of {v : BitVec 5} {i : Nat} (hi : i < 5) (hv : v.getLsbD i = true)
    (hlow : ∀ j < i, v.getLsbD j = false) : lowestBit v = i := by
  have hfind : (tab 5 id).find? (fun j => v.getLsbD j) = some i := by
    rw [List.find?_eq_some_iff_getElem]
    have hat (j : Nat) (hj : j < (tab 5 (id : Nat → Nat)).length) : (tab 5 id)[j] = j := by
      have h5 : j < 5 := by simpa using hj
      have := getElem?_tab 5 id j
      rw [if_pos h5, List.getElem?_eq_getElem hj] at this
      exact Option.some.inj this
    refine ⟨hv, i, by simpa using hi, hat i _, fun j hj => ?_⟩
    rw [hat j, hlow j hj]; rfl
  rw [lowestBit, hfind, Option.getD_some]

/-- What a pre-emption makes of a core. -/
def preemptCore (s : State) (t : Nat) (tr : Troupe) (r : Nat) (c : Core) : Core :=
  if c.fin.isSome then { c with routineDone := true }
  else { c with pc := ((tr.streamOf c.rank).sps.getD (s.spi (.core t r) c) (0, 0)).1, xfer := none, routineDone := false,
                s := vset c.s 63 (BitVec.ofNat 64 (64 * (tr.streamOf c.rank).bundles)) }

/-- The troupe once a pre-emption is taken. -/
def preempted (s : State) (t : Nat) (tr : Troupe) : Troupe :=
  { tr with st := .saving, rcount := 0, prq := 0, stepNow := 0, preCause := some (0x40 + lowestBit tr.prq),
            spix := s.spi (.core t (tr.lowestUnfinished.getD (0, Core.launch)).1) (tr.lowestUnfinished.getD (0, Core.launch)).2,
            kept := tr.cores.map (fun c => (c.pc, c.fin)), cores := tr.cores.mapIdx (preemptCore s t tr) }

theorem exec_preemptionTaken (ht : s.troupe? t = some tr) (hcur : s.cursor = .bundle t 0) :
    exec (.preemptionTaken t) s = if s.preempts t tr then .next (s.setTroupe t (preempted s t tr))
      else .refused (.notEnabled "PREEMPTION_TAKEN") := by
  show execPreemptionTaken t s = _
  simp only [execPreemptionTaken, ht, hcur, ne_eq, not_true, decide_false, Bool.false_or, Bool.not_eq_true']
  by_cases h : s.preempts t tr = true
  · rw [if_pos h, if_neg (by simp [h])]; rfl
  · rw [if_neg h, if_pos (by simpa using h)]; rfl

theorem rs_vset_63 (c k : Core) (v : BitVec 64) (hk : k.s = vset c.s 63 v) (d : SReg) :
    k.rs d = if d = 63 then v else c.rs d := by
  rw [Core.rs, hk]
  by_cases hd : d = 63
  · subst hd
    rw [if_neg (by decide), if_pos rfl]
    exact vget_vset_same _ _ _ _ (by decide)
  · have hne : 63 ≠ d.toNat := fun h => hd (BitVec.eq_of_toNat_eq h.symm)
    rw [if_neg hd, vget_vset_ne _ _ _ _ _ hne, Core.rs]

theorem preemption : Preemption := by
  intro s t tr ht hcur hst hfresh
  have hexec := exec_preemptionTaken ht hcur
  refine ⟨fun hask hun hall => ?_, fun hno => ?_⟩
  · obtain ⟨c0, hc0, hf0⟩ := hun
    have hu : tr.allFinished = false := by
      obtain ⟨r, hr⟩ := List.getElem?_of_mem hc0
      exact allFinished_eq_false hr hf0
    have hflight : (tr.cores.all fun c => c.fin.isSome || !c.inFlight tr.adv false) = true := by
      rw [List.all_eq_true]
      intro c hc
      obtain ⟨r, hr⟩ := List.getElem?_of_mem hc
      cases hf : c.fin with
      | some x => rfl
      | none => rw [(hall r c hr hf).2]; rfl
    have hpre : s.preempts t tr = true := by
      rw [State.preempts, hst, freshCycle_of fun k hk => (hfresh k hk).1, raisedAll_of fun k hk => (hfresh k hk).2,
        (atSafePoint_iff hu).2 fun j k hj hk => (hall j k hj hk).1, hflight, bne_iff_ne.2 hask]
      rfl
    rw [if_pos hpre] at hexec
    refine ⟨_, hexec, rfl, rfl, rfl, rfl, rfl, rfl, rfl, fun i hi hv hlow => ?_, by simp [preempted], fun r c hr => ?_⟩
    · rw [← lowestBit_of hi hv hlow]; rfl
    · refine ⟨preemptCore s t tr r c, by simp [preempted, hr], fun hf => ?_, fun hf => ?_⟩
      · rw [preemptCore, if_pos (Option.isSome_iff_ne_none.2 hf)]
      · rw [preemptCore, if_neg (by simp [hf])]
        exact ⟨rfl, rfl, rs_vset_63 c _ _ rfl⟩
  · rw [hexec, if_neg]
    intro hp
    simp only [State.preempts, Bool.and_eq_true, bne_iff_ne] at hp
    obtain ⟨⟨⟨⟨-, hask⟩, hsafe⟩, -⟩, -⟩ := hp
    obtain h0 | ⟨r, c, hr, hf, hm⟩ := hno
    · exact hask h0
    · have := (atSafePoint_iff (allFinished_eq_false hr hf)).1 hsafe r c hr hf
      rw [hm] at this
      cases this

end

/-! ## What publication and parking leave of a troupe -/

/-- A troupe without its cores and its trace. -/
def trimmed (tr : Troupe) : Troupe := { tr with cores := [], trec := [], dev := none }

/-- What the cores' own effects leave of a troupe, and of the state around it. -/
def shell (s : State) (t : Nat) : Option Troupe × Vector Vf 96 × Vector Bank 12 × Nat :=
  ((s.troupe? t).map trimmed, s.vfs, s.banks, s.wall)

section
variable {s u : State} {t : Nat} {tr : Troupe}

theorem shell_troupe (h : shell u t = shell s t) (ht : s.troupe? t = some tr) :
    ∃ y, u.troupe? t = some y ∧ trimmed y = trimmed tr := by
  have h1 : (u.troupe? t).map trimmed = (s.troupe? t).map trimmed := congrArg Prod.fst h
  rw [ht] at h1
  obtain ⟨y, hy, he⟩ := Option.map_eq_some_iff.1 h1
  exact ⟨y, hy, he⟩

theorem shell_vfs (h : shell u t = shell s t) : u.vfs = s.vfs := congrArg (fun x => x.2.1) h
theorem shell_wall (h : shell u t = shell s t) : u.wall = s.wall := congrArg (fun x => x.2.2.2) h

theorem shell_setTroupe (j : Nat) {x y : Troupe} (h : s.troupe? j = some x) (hy : trimmed y = trimmed x) :
    shell (s.setTroupe j y) t = shell s t := by
  by_cases hj : j = t
  · subst hj
    simp only [shell, troupe_setTroupe_same h, h, Option.map_some, hy]
    rfl
  · simp only [shell, troupe_setTroupe_ne hj]
    rfl

theorem shell_modTroupe (s : State) (j : Nat) (f : Troupe → Troupe) (hf : ∀ x, trimmed (f x) = trimmed x) :
    shell (s.modTroupe j f) t = shell s t := by
  cases h : s.troupe? j with
  | none => rw [modTroupe_of_none h]
  | some x => rw [modTroupe_of_some h, shell_setTroupe j h (hf x)]

@[simp] theorem shell_setCore (s : State) (a : Agent) (c : Core) : shell (s.setCore a c) t = shell s t := by
  cases a with
  | core j r => exact shell_modTroupe s j _ fun _ => rfl
  | mgmt m => rfl

@[simp] theorem shell_modCore (s : State) (a : Agent) (f : Core → Core) : shell (s.modCore a f) t = shell s t := by
  cases h : s.core? a with
  | none => rw [modCore_of_none h]
  | some c => rw [modCore_of_some h, shell_setCore]

@[simp] theorem shell_note (s : State) (j wall vcc b hc rank typ : Nat) (slot : Option Nat) (data : Nat) :
    shell (s.note j wall vcc b hc rank typ slot data) t = shell s t := by
  obtain h | ⟨x, l, hx, h⟩ := note_cases s j wall vcc b hc rank typ slot data
  · rw [h]
  · rw [h]; exact shell_setTroupe j hx rfl

@[simp] theorem shell_endDeviation (s : State) (j : Nat) : shell (s.endDeviation j) t = shell s t := by
  cases h : s.troupe? j with
  | none => rw [State.endDeviation, h]
  | some x =>
    obtain ⟨l, hl⟩ := endDeviation_spec h
    rw [hl]; exact shell_setTroupe j h rfl

theorem shell_foldl {α : Type} {f : State → α → State} (h : ∀ s x, shell (f s x) t = shell s t) (l : List α) (s : State) :
    shell (l.foldl f s) t = shell s t := by
  induction l generalizing s with
  | nil => rfl
  | cons x l ih => rw [List.foldl_cons, ih, h]

@[simp] theorem shell_acceptWide (s : State) (pa : Nat) (bs : List (Option Byte)) :
    shell (s.acceptWide pa bs) t = shell s t := by
  unfold State.acceptWide
  split <;> rfl

@[simp] theorem shell_acceptUnit (s : State) (pa : Nat) (bs : List (Option Byte)) :
    shell (s.acceptUnit pa bs) t = shell s t := by
  rw [State.acceptUnit, shell_foldl (fun s g => ?_), shell_acceptWide]
  split
  · exact shell_acceptWide ..
  · split
    · exact shell_acceptWide ..
    · rfl

@[simp] theorem shell_writeG (s : State) (asid va : Nat) (l : List Byte) : shell (s.writeG asid va l) t = shell s t := by
  rw [State.writeG, shell_foldl]
  intro s r
  split
  · exact shell_acceptUnit ..
  · rfl

@[simp] theorem shell_renew (s : State) (a : Agent) : shell (s.renew a) t = shell s t := by
  unfold State.renew
  split
  · rfl
  · exact shell_setCore s a _

@[simp] theorem shell_publish (s : State) (die loc k : Nat) : shell (s.publish die loc k) t = shell s t := by
  unfold State.publish
  dsimp only
  split <;> rfl

@[simp] theorem shell_completePhase (s : State) (a : Agent) (k : Nat) : shell (s.completePhase a k) t = shell s t := by
  unfold State.completePhase
  split
  · rfl
  · simp

@[simp] theorem shell_publishAll (s : State) (j : Nat) (x : Troupe) : shell (s.publishAll j x) t = shell s t :=
  shell_foldl (fun s r => shell_completePhase s (.core j r) 5) _ s

@[simp] theorem shell_writeGranule (s : State) (g : Granule) : shell (s.writeGranule g) t = shell s t := by
  unfold State.writeGranule State.appliedFor
  dsimp only
  have hflight (l : List Granule) : shell { s with flight := l } t = shell s t := rfl
  split
  · split
    · exact (shell_modCore ..).trans (hflight _)
    · exact (shell_modCore ..).trans (hflight _)
  · split
    · exact (shell_modCore ..).trans ((shell_modCore ..).trans (hflight _))
    · exact (shell_modCore ..).trans (hflight _)

@[simp] theorem shell_parkTroupe (s : State) (j : Nat) : shell (s.parkTroupe j) t = shell s t := by
  unfold State.parkTroupe
  exact shell_foldl (fun s g => shell_writeGranule s _) _ _

/-! ## Memory while a troupe is parked -/

@[simp] theorem gmem_setCore (s : State) (a : Agent) (c : Core) : (s.setCore a c).gmem = s.gmem := by
  rw [State.setCore_frame]

@[simp] theorem gmem_modCore (s : State) (a : Agent) (f : Core → Core) : (s.modCore a f).gmem = s.gmem := by
  cases h : s.core? a with
  | none => rw [modCore_of_none h]
  | some c => rw [modCore_of_some h, gmem_setCore]

@[simp] theorem gmem_modTroupe (s : State) (j : Nat) (f : Troupe → Troupe) : (s.modTroupe j f).gmem = s.gmem := by
  rw [State.modTroupe_frame]

@[simp] theorem gmem_endDeviation (s : State) (j : Nat) : (s.endDeviation j).gmem = s.gmem := by
  cases h : s.troupe? j with
  | none => rw [State.endDeviation, h]
  | some x =>
    obtain ⟨l, hl⟩ := endDeviation_spec h
    rw [hl]; rfl

theorem gmem_writeGranule (s : State) (g : Granule) : (s.writeGranule g).gmem = s.gmem := by
  unfold State.writeGranule State.appliedFor
  dsimp only
  split
  · split
    · exact gmem_modCore ..
    · exact gmem_modCore ..
  · split
    · exact (gmem_modCore ..).trans (gmem_modCore ..)
    · exact gmem_modCore ..

@[simp] theorem gmem_parkTroupe (s : State) (j : Nat) : (s.parkTroupe j).gmem = s.gmem := by
  have h (l : List Granule) (f : Granule → Granule) (u : State) :
      (l.foldl (fun s g => s.writeGranule (f g)) u).gmem = u.gmem := by
    induction l generalizing u with
    | nil => rfl
    | cons g l ih => rw [List.foldl_cons, ih, gmem_writeGranule]
  unfold State.parkTroupe
  exact h _ _ _

/-! ## The routine phases -/

theorem exec_routineEnd {r : Nat} {c : Core} (ht : s.troupe? t = some tr) (h : s.core? (.core t r) = some c)
    (hst : tr.st = .saving ∨ tr.st = .restoring) (hi : c.idle = false) (hcur : s.cursor = .bundle t r) :
    exec (.routineEnd t r) s = if c.pc = s.streamEnd (.core t r) then
        .next { s.setCore (.core t r) { c with routineDone := true, xfer := none, done := 0xFF } with cursor := .bundle t (r + 1) }
      else .refused (.notEnabled "ROUTINE_END") := by
  have hs : (tr.st != .saving && tr.st != .restoring) = false := by
    obtain h | h := hst <;> rw [h] <;> rfl
  show execRoutineEnd t r s = _
  simp only [execRoutineEnd, ht, h, hs, hi, hcur, Bool.false_or, ne_eq, not_true, decide_false, Bool.or_false,
    decide_eq_true_eq]
  by_cases hpc : c.pc = s.streamEnd (.core t r)
  · rw [if_pos hpc, if_neg (not_not.2 hpc)]
  · rw [if_neg hpc, if_pos hpc]; rfl

theorem routinesOver_of (h : ∀ c ∈ tr.cores, c.routineDone = true) : tr.routinesOver = true := by
  rw [Troupe.routinesOver, List.all_eq_true]; exact h

theorem none_inFlight {m : Bool} (h : ∀ c ∈ tr.cores, c.fin = none → c.inFlight tr.adv m = false) :
    (tr.cores.any fun c => c.fin.isNone && c.inFlight tr.adv m) = false := by
  rw [List.any_eq_false]
  intro c hc
  cases hf : c.fin with
  | none => simp [h c hc hf]
  | some x => simp

/-- The address of a core's save region. -/
def saveRegion (s : State) (tr : Troupe) (k : Nat) : Nat := (s.vf tr.vf).saveAt tr.slot + 2 ^ 17 * k

/-- The kept state of the cores, written to their save regions. -/
def savedState (s : State) (t : Nat) (tr : Troupe) : State :=
  (tr.cores.mapIdx fun r c => (r, c)).foldl (fun z q => z.writeG (s.vf tr.vf).asid.toNat (saveRegion s tr q.1)
    (z.keptBlock t q.1 tr q.2)) (s.publishAll t tr)

/-- The troupe as it stands pre-empted at its queue. -/
def parkedTroupe (tr : Troupe) (wall : Nat) (x : Troupe) : Troupe :=
  { x with st := .preempted, recs := x.recs ++ [tr.preRecord wall], seq := x.seq + 1, cores := [], holds := [], run := 0,
           since := wall, preCause := none }

/-- The save phase's end of a task that stays. -/
def parkedState (s : State) (t : Nat) (tr : Troupe) : State :=
  let u := ((savedState s t tr).endDeviation t).note t (savedState s t tr).wall tr.vcc.toNat 0 0 0 5 none 2
  (((u.parkTroupe t).modTroupe t (parkedTroupe tr u.wall)).modVf tr.vf fun v => v.modQueue tr.queue fun q =>
    { q with resume := q.resume ++ [tr.num] }).setIp tr.part 1

/-- The first core's save region that does not translate, with its sub-cause. -/
def badRegion (s : State) (t : Nat) (tr : Troupe) : Option Nat :=
  (tab tr.cores.length id).findSome? fun k =>
    (s.publishAll t tr).writeFault (s.vf tr.vf).asid.toNat (saveRegion s tr k) 0x20000

theorem vf_publishAll (s : State) (t v : Nat) (tr : Troupe) : (s.publishAll t tr).vf v = s.vf v := by
  rw [State.vf, shell_vfs (shell_publishAll (t := t) s t tr), State.vf]

theorem exec_savePhaseEnd (ht : s.troupe? t = some tr) (hst : tr.st = .saving)
    (hover : tr.routinesOver = true) (hra : tr.raisedAll = [])
    (hfl : (tr.cores.any fun c => c.fin.isNone && c.inFlight tr.adv true) = false) (hpub : s.allPublished t tr = true)
    (hsw : s.saveWaits tr = false) : exec (.savePhaseEnd t) s =
      match tr.status, badRegion s t tr with
      | some st, _ => .next ((s.publishAll t tr).modTroupe t fun x => { x.retireWith st with normal := false })
      | none, some sub => .next ((s.publishAll t tr).modTroupe t fun x =>
          { x.retireWith (BitVec.ofNat 16 (0x0A00 + sub)) with normal := false })
      | none, none => .next (parkedState s t tr) := by
  show execSavePhaseEnd t s = _
  simp only [execSavePhaseEnd, ht, hst, hover, hra, hfl, hpub, hsw, vf_publishAll]
  rfl

theorem tab_id (n : Nat) : tab n id = List.range n := by rw [Laws.Network.tab_eq_map, List.map_id]

theorem findSome?_tab_none {f : Nat → Option Nat} {n : Nat} (h : ∀ k < n, f k = none) : (tab n id).findSome? f = none := by
  rw [tab_id, List.findSome?_eq_none_iff]
  exact fun k hk => h k (List.mem_range.1 hk)

/-- The first of a list of numbers that a function answers for. -/
theorem findSome?_tab {f : Nat → Option Nat} {n k z : Nat} (hk : k < n) (hz : f k = some z) (hlow : ∀ j < k, f j = none) :
    (tab n id).findSome? f = some z := by
  obtain ⟨m, rfl⟩ : ∃ m, n = k + (m + 1) := ⟨n - k - 1, by omega⟩
  rw [tab_id, List.range_add, List.findSome?_append, List.range_succ_eq_map, List.map_cons, List.findSome?_cons, Nat.add_zero, hz,
    List.findSome?_eq_none_iff.2 fun j hj => hlow j (List.mem_range.1 hj)]
  rfl

/-- A task that does not stay retires with the status. -/
theorem retires_spec (ht : s.troupe? t = some tr) (status : BitVec 16) (normal : Bool) :
    ∃ y, ((s.publishAll t tr).modTroupe t fun x => { x.retireWith status with normal := normal }).troupe? t = some y ∧
      y.st = .retiring ∧ y.cores = [] ∧ y.num = tr.num ∧ y.recs = tr.recs ∧ y.vcc = tr.vcc ∧ y.status = some status ∧
      y.normal = normal := by
  obtain ⟨x, hx, hxe⟩ := shell_troupe (shell_publishAll (t := t) s t tr) ht
  rw [modTroupe_of_some hx]
  exact ⟨_, troupe_setTroupe_same hx, rfl, rfl, (congrArg Troupe.num hxe :), (congrArg Troupe.recs hxe :),
    (congrArg Troupe.vcc hxe :), rfl, rfl⟩

theorem queue_modQueue (v : Vf) (q : Nat) (f : LQueue → LQueue) : (v.modQueue q f).queue q = f (v.queue q) := by
  have hlen : q < (v.queues ++ tab (q + 1 - v.queues.length) fun _ => LQueue.none).length := by
    rw [List.length_append, length_tab]; omega
  rw [Vf.modQueue, Vf.queue, Vf.queue, List.getD_eq_getElem?_getD, List.getElem?_modify, List.getElem?_eq_getElem hlen,
    List.getD_eq_getElem?_getD]
  show (if q = q then f _ else _) = f _
  rw [if_pos rfl]
  congr 1
  rw [List.getElem_append]
  split
  case isTrue h => rw [List.getElem?_eq_getElem h]; rfl
  case isFalse h =>
    rw [List.getElem?_eq_none (Nat.le_of_not_lt h)]
    have := getElem?_tab (q + 1 - v.queues.length) (fun _ => LQueue.none) (q - v.queues.length)
    rw [if_pos (by omega), List.getElem?_eq_getElem (by rw [length_tab]; omega)] at this
    exact Option.some.inj this

theorem vf_modVf (s : State) {v : Nat} (hv : v < 96) (f : Vf → Vf) : (s.modVf v f).vf v = f (s.vf v) :=
  vget_vset_same _ _ _ _ hv

theorem vf_setIp (s : State) (p i v : Nat) : (s.setIp p i).vf v = s.vf v := rfl
theorem gmem_setIp (s : State) (p i : Nat) : (s.setIp p i).gmem = s.gmem := rfl
theorem troupe?_setIp (s : State) (p i j : Nat) : (s.setIp p i).troupe? j = s.troupe? j := rfl
theorem troupe?_modVf (s : State) (v : Nat) (f : Vf → Vf) (j : Nat) : (s.modVf v f).troupe? j = s.troupe? j := rfl

theorem parkedState_spec (ht : s.troupe? t = some tr) :
    (∃ y, (parkedState s t tr).troupe? t = some y ∧ y.st = .preempted ∧ y.cores = [] ∧ y.num = tr.num ∧ y.vcc = tr.vcc ∧
      y.recs = tr.recs ++ [tr.preRecord s.wall]) ∧
    (tr.vf < 96 → tr.num ∈ (((parkedState s t tr).vf tr.vf).queue tr.queue).resume) ∧
    (tr.part < 12 → ((parkedState s t tr).bank tr.part).ip.getLsbD 1 = true) ∧
    (parkedState s t tr).gmem = (savedState s t tr).gmem := by
  have hsaved : shell (savedState s t tr) t = shell s t :=
    (shell_foldl (fun z q => shell_writeG ..) _ _).trans (shell_publishAll ..)
  unfold parkedState
  extract_lets u
  have hu : shell u t = shell s t := (shell_note ..).trans ((shell_endDeviation ..).trans hsaved)
  have hpark : shell (u.parkTroupe t) t = shell s t := (shell_parkTroupe u t).trans hu
  obtain ⟨x, hx, hxe⟩ := shell_troupe hpark ht
  refine ⟨?_, fun hv => ?_, fun hp => ?_, ?_⟩
  · rw [troupe?_setIp, troupe?_modVf, modTroupe_of_some hx]
    refine ⟨parkedTroupe tr u.wall x, troupe_setTroupe_same hx, rfl, rfl, (congrArg Troupe.num hxe :),
      (congrArg Troupe.vcc hxe :), ?_⟩
    have hrecs : x.recs = tr.recs := (congrArg Troupe.recs hxe :)
    show x.recs ++ _ = _
    rw [shell_wall hu, hrecs]
  · rw [vf_setIp, vf_modVf _ hv, queue_modQueue]
    simp
  · rw [(setIp_spec _ hp 1).1]
    simp
  · simp only [gmem_setIp, State.modVf_gmem, gmem_modTroupe, gmem_parkTroupe, u, gmem_note, gmem_endDeviation]

theorem badRegion_first {k sub : Nat} (hk : k < tr.cores.length)
    (hbad : (s.publishAll t tr).writeFault (s.vf tr.vf).asid.toNat (saveRegion s tr k) 0x20000 = some sub)
    (hlow : ∀ j < k, ∀ z, ¬ (j < tr.cores.length ∧
      (s.publishAll t tr).writeFault (s.vf tr.vf).asid.toNat (saveRegion s tr j) 0x20000 = some z)) :
    badRegion s t tr = some sub :=
  findSome?_tab hk hbad fun j hj => Option.eq_none_iff_forall_ne_some.2 fun z hz => hlow j hj z ⟨Nat.lt_trans hj hk, hz⟩

theorem badRegion_none (h : ∀ k z, ¬ (k < tr.cores.length ∧
      (s.publishAll t tr).writeFault (s.vf tr.vf).asid.toNat (saveRegion s tr k) 0x20000 = some z)) :
    badRegion s t tr = none :=
  findSome?_tab_none fun k hk => Option.eq_none_iff_forall_ne_some.2 fun z hz => h k z ⟨hk, hz⟩

theorem exec_restorePhaseEnd (ht : s.troupe? t = some tr) (hst : tr.st = .restoring) (hl : tr.loading = false)
    (hover : tr.routinesOver = true) (hra : tr.raisedAll = [])
    (hfl : (tr.cores.any fun c => c.fin.isNone && c.inFlight tr.adv false) = false) :
    exec (.restorePhaseEnd t) s = .next (s.setTroupe t { tr with
      loading := true, loadedAt := s.wall, holds := [], run := 0, noPre := some (tr.adv, tr.prq) }) := by
  show execRestorePhaseEnd t s = _
  simp only [execRestorePhaseEnd, ht, hst, hl, hover, hra, hfl]
  rfl

/-- While a routine runs, no phase ends. -/
theorem exec_phaseEnd_running (ht : s.troupe? t = some tr) (h : tr.routinesOver = false) :
    exec (.savePhaseEnd t) s = .refused (.notEnabled "SAVE_PHASE_END") ∧
      exec (.restorePhaseEnd t) s = .refused (.notEnabled "RESTORE_PHASE_END") := by
  constructor
  · show execSavePhaseEnd t s = _
    simp only [execSavePhaseEnd, ht, h, Bool.not_false, Bool.or_true, Bool.true_or, if_true]
    rfl
  · show execRestorePhaseEnd t s = _
    simp only [execRestorePhaseEnd, ht, h, Bool.not_false, Bool.or_true, Bool.true_or, if_true]
    rfl

theorem routinePhases : RoutinePhases := by
  intro s t tr ht
  refine ⟨fun r c h hst hi hcur => ⟨fun hpc => ?_, fun hpc => ?_⟩, fun hdone => ⟨fun hst hfl hpub hsw => ?_, fun hst hl hfl => ?_⟩,
    fun ⟨c, hc, hd⟩ => exec_phaseEnd_running ht ?_⟩
  · rw [exec_routineEnd ht h hst hi hcur, if_pos hpc]
  · rw [exec_routineEnd ht h hst hi hcur, if_neg hpc]
  · intro asid at' pub bad
    have hexec := exec_savePhaseEnd ht hst (routinesOver_of fun c hc => (hdone c hc).1) (raisedAll_of fun c hc => (hdone c hc).2)
      (none_inFlight hfl) hpub hsw
    cases hs : tr.status with
    | some st =>
      simp only [hs] at hexec
      obtain ⟨y, hy, hyst, hcores, hnum, -, -, hstat, hnorm⟩ := retires_spec (s := s) ht st false
      refine ⟨_, y, hexec, hy, hcores, hnum, fun _ h => ⟨hyst, hstat.trans h, hnorm⟩, fun _ _ h => ?_, fun h => ?_⟩
      · cases h
      · cases h
    | none =>
      cases hb : badRegion s t tr with
      | some sub =>
        simp only [hs, hb] at hexec
        obtain ⟨y, hy, hyst, hcores, hnum, -, -, hstat, hnorm⟩ :=
          retires_spec (s := s) ht (BitVec.ofNat 16 (0x0A00 + sub)) false
        refine ⟨_, y, hexec, hy, hcores, hnum, fun _ h => absurd h nofun, fun k z _ hk hlow => ?_, fun _ hno => ?_⟩
        · have := badRegion_first hk.1 hk.2 hlow
          obtain rfl : sub = z := Option.some.inj (hb.symm.trans this)
          exact ⟨hyst, hstat, hnorm⟩
        · rw [badRegion_none hno] at hb
          cases hb
      | none =>
        simp only [hs, hb] at hexec
        obtain ⟨⟨y, hy, hyst, hcores, hnum, hvcc, hrecs⟩, hres, hip, hmem⟩ := parkedState_spec ht
        refine ⟨_, y, hexec, hy, hcores, hnum, fun _ h => absurd h nofun, fun k z _ hk hlow => ?_,
          fun _ _ => ⟨hyst, hrecs, hvcc, hres, hip, hmem⟩⟩
        rw [badRegion_first hk.1 hk.2 hlow] at hb
        cases hb
  · exact exec_restorePhaseEnd ht hst hl (routinesOver_of fun c hc => (hdone c hc).1) (raisedAll_of fun c hc => (hdone c hc).2)
      (none_inFlight hfl)
  · rw [Troupe.routinesOver, List.all_eq_false]
    exact ⟨c, hc, by simp [hd]⟩

/-! ## Retirement -/

theorem ended_iff : tr.ended = true ↔ (tr.st = .running ∨ tr.st = .held) ∧ tr.loading = false ∧ tr.cores ≠ [] ∧
    ∀ c ∈ tr.cores, c.fin ≠ none ∧ (c.done = 0 ∨ c.done = 0xFF) ∧ c.raised = [] ∧ (∀ k ∈ c.cmds, c.cmdOver k = true) ∧
      c.pend = [] ∧ c.fetches = [] ∧ ∀ g ∈ c.gemv, g.rem = true := by
  have hraised : tr.raisedAll.isEmpty = true ↔ ∀ c ∈ tr.cores, c.raised = [] := by
    simp [Troupe.raisedAll, List.isEmpty_iff]
  have hfin : tr.allFinished = true ↔ ∀ c ∈ tr.cores, c.fin ≠ none ∧ (c.done = 0 ∨ c.done = 0xFF) := by
    simp [Troupe.allFinished, Core.finished, Option.isSome_iff_ne_none]
  have hall : (tr.cores.all fun c => c.sweep.cmds.isEmpty && c.pend.isEmpty && c.fetches.isEmpty && c.gemv.all (·.rem)) = true ↔
      ∀ c ∈ tr.cores, (∀ k ∈ c.cmds, c.cmdOver k = true) ∧ c.pend = [] ∧ c.fetches = [] ∧ ∀ g ∈ c.gemv, g.rem = true := by
    simp [Core.sweep, and_assoc]
  rw [Troupe.ended, Bool.and_eq_true, Bool.and_eq_true, Bool.and_eq_true, Bool.and_eq_true, Bool.and_eq_true, hall, hraised, hfin]
  simp only [Bool.or_eq_true, beq_iff_eq, Bool.not_eq_true', List.isEmpty_eq_false_iff, and_assoc]
  refine and_congr_right fun _ => and_congr_right fun _ => and_congr_right fun _ => ?_
  constructor
  · rintro ⟨hf, hra, hrest⟩ c hc
    obtain ⟨h1, h2⟩ := hf c hc
    exact ⟨h1, h2, hra c hc, hrest c hc⟩
  · intro h
    refine ⟨fun c hc => ?_, fun c hc => ?_, fun c hc => ?_⟩
    · obtain ⟨h1, h2, -⟩ := h c hc
      exact ⟨h1, h2⟩
    · obtain ⟨-, -, h3, -⟩ := h c hc
      exact h3
    · obtain ⟨-, -, -, h4⟩ := h c hc
      exact h4

theorem exec_taskRetire (ht : s.troupe? t = some tr) : exec (.taskRetire t) s = if s.retires t tr then
      .next ((s.publishAll t tr).modTroupe t fun x => { x.retireWith (x.status.getD 0) with normal := x.status.isNone })
    else .refused (.notEnabled "TASK_RETIRE") := by
  show execTaskRetire t s = _
  simp only [execTaskRetire, ht]
  by_cases h : s.retires t tr = true
  · rw [if_pos h, if_neg (by simp [h])]
  · rw [if_neg h, if_pos (by simpa using h)]; rfl

theorem retirement : Retirement := by
  intro s t tr ht ended
  have hended : tr.ended = true ↔ ended := ended_iff
  refine ⟨fun he hpub => ?_, fun hno => ?_⟩
  · have hret : s.retires t tr = true := by rw [State.retires, hended.2 he, hpub]; rfl
    have hexec := exec_taskRetire ht
    rw [if_pos hret] at hexec
    obtain ⟨x, hx, hxe⟩ := shell_troupe (shell_publishAll (t := t) s t tr) ht
    have hstat : x.status = tr.status := (congrArg Troupe.status hxe :)
    rw [modTroupe_of_some hx] at hexec
    refine ⟨_, _, hexec, troupe_setTroupe_same hx, rfl, rfl, (congrArg Troupe.recs hxe :), (congrArg Troupe.vcc hxe :),
      fun h => ?_, fun st h => ?_⟩
    · rw [hstat, h]; exact ⟨rfl, rfl⟩
    · rw [hstat, h]; exact ⟨rfl, rfl⟩
  · rw [exec_taskRetire ht, if_neg]
    rw [State.retires, Bool.and_eq_true]
    rintro ⟨he, hpub⟩
    obtain h | h := hno
    · exact h (hended.1 he)
    · rw [h] at hpub; cases hpub

/-! ## The violation of a routine phase -/

/-- What the end of a routine phase makes of a core: one with something in flight raises the violation (R284, R285). -/
def violated (tr : Troupe) (c : Core) : Core :=
  if c.fin.isNone && c.inFlight tr.adv (tr.st == .saving) then c.raiseAt none 0x06 0x2 c.pc 0 else c

theorem phaseReady_eq_false {nx : Nat} {a : Agent} (h : ∀ c, s.core? a = some c → c.wait = none) :
    s.phaseReady a nx = false := by
  unfold State.phaseReady
  cases hc : s.core? a with
  | none => rfl
  | some c => simp only [h c hc]

/-- The boundary of a troupe whose routines have ended, with something still in flight. -/
theorem step_routineViolation (hcur : s.cursor = .troupe t) (ht : s.troupe? t = some tr)
    (hst : tr.st = .saving ∨ tr.st = .restoring) (hl : tr.loading = false) (hre : tr.realign = false)
    (hall : ∀ c ∈ tr.cores, c.routineDone = true ∧ c.raised = [] ∧ c.wait = none)
    (hbusy : (tr.cores.any fun c => c.fin.isNone && c.inFlight tr.adv (tr.st == .saving)) = true) :
    step s = .next { s.setTroupe t { tr with cores := tr.cores.map (violated tr) } with cursor := .troupe (t + 1) } := by
  have hne : tr.cores.isEmpty = false := by
    cases h : tr.cores with
    | nil => rw [h] at hbusy; cases hbusy
    | cons _ _ => rfl
  have hrep : (tr.cores.any fun c => (c.reportAt tr.nextAdv).isSome) = false := by
    rw [List.any_eq_false]
    intro c hc
    simp [Core.reportAt, (hall c hc).2.2]
  have hphase : (tab tr.cores.length id).find? (fun r => s.phaseReady (.core t r) tr.nextAdv) = none := by
    rw [List.find?_eq_none]
    intro r _
    rw [phaseReady_eq_false fun c h => ?_]
    · decide
    · obtain ⟨x, hx, hc⟩ := core?_core_iff.1 h
      obtain rfl : x = tr := Option.some.inj (hx.symm.trans ht)
      exact (hall c (List.mem_of_getElem? hc)).2.2
  have hsus : (tr.st == .suspended) = false := by obtain h | h := hst <;> rw [h] <;> rfl
  have hrout : (tr.st == .saving || tr.st == .restoring) = true := by obtain h | h := hst <;> rw [h] <;> rfl
  have hmove : s.nextMove = .go { s.routineFault t tr with cursor := .troupe (t + 1) } := by
    simp only [State.nextMove, hcur, State.nextTroupe, ht, hl, hne, hsus, hre, hrep, hphase, hrout, hbusy,
      raisedAll_of fun c hc => (hall c hc).2.1, routinesOver_of fun c hc => (hall c hc).1, Bool.or_false, Bool.false_eq_true,
      if_false, List.isEmpty_nil, Bool.not_true, Bool.and_true, if_true]
  rw [step, hmove]
  rfl

/-- A fatal cause in a routine retires the troupe with its status, where every cause is of that status (R286). -/
theorem settle_fatal {wall : Nat} (hne : tr.raisedAll ≠ [])
    (hall : ∀ f ∈ tr.raisedAll, f.2.cause = 0x06 ∧ f.2.sub = 0x02) :
    (tr.settle wall).st = .retiring ∧ (tr.settle wall).status = some 0x0602 := by
  have hfatal (f : Nat × Raised) (hf : f ∈ tr.raisedAll) : tr.fatal f.2 = true := by
    obtain ⟨hc, hs⟩ := hall f hf
    rw [Troupe.fatal, hc, hs]
    simp [resumeOf]
  cases hl : tr.raisedAll with
  | nil => exact absurd hl hne
  | cons f l =>
    have hf : f ∈ tr.raisedAll := hl ▸ List.mem_cons_self
    have hfind : (f :: l).find? (fun f => tr.fatal f.2) = some f := by
      rw [List.find?_cons, hfatal f hf]
    obtain ⟨hc, hs⟩ := hall f hf
    rw [Troupe.settle, hl]
    dsimp only
    rw [hfind]
    refine ⟨rfl, ?_⟩
    show some (f.2.cause ++ f.2.sub) = _
    rw [hc, hs]
    rfl

theorem routineViolation : RoutineViolation := by
  intro s t tr hcur ht hst hl hre hall busy hex
  have hbusy (c : Core) : (c.fin.isNone && c.inFlight tr.adv (tr.st == .saving)) = true ↔ busy c := by
    simp [busy, Option.isNone_iff_eq_none]
  have hstep := step_routineViolation hcur ht hst hl hre hall (by
    obtain ⟨c, hc, hb⟩ := hex
    exact List.any_eq_true.2 ⟨c, hc, (hbusy c).2 hb⟩)
  have hviol {c : Core} (hc : c ∈ tr.cores) (hb : busy c) : ∃ z, violated tr c = { c with raised := [z] } ∧ z.cause = 0x06 ∧
      z.sub = 0x02 ∧ z.word = none ∧ z.deferred = false ∧ z.baddr = c.pc := by
    obtain ⟨z, hz, hcause, hsub, hword, hdfr, -, hb', -⟩ := raiseAt_eq c none 0x06 0x2 c.pc 0
    refine ⟨z, ?_, hcause, hsub, hword, hdfr, hb'⟩
    rw [violated, if_pos ((hbusy c).2 hb), hz, (hall c hc).2.1]
    rfl
  have hquiet {c : Core} (hb : ¬ busy c) : violated tr c = c := if_neg (mt (hbusy c).1 hb)
  refine ⟨_, _, hstep, rfl, rfl, troupe_setTroupe_same ht, by simp, fun r c hr => ⟨fun hb => ?_, fun hb => ?_⟩,
    settle_fatal ?_ ?_⟩
  · obtain ⟨z, hz, hrest⟩ := hviol (List.mem_of_getElem? hr) hb
    exact ⟨z, by simp [hr, hz], hrest⟩
  · simp [hr, hquiet hb]
  · obtain ⟨c, hc, hb⟩ := hex
    obtain ⟨z, hz, -⟩ := hviol hc hb
    have hm : (c.rank, z) ∈ Troupe.raisedAll { tr with cores := tr.cores.map (violated tr) } := by
      refine List.mem_flatMap.2 ⟨violated tr c, List.mem_map_of_mem hc, ?_⟩
      simp [hz]
    exact List.ne_nil_of_mem hm
  · intro f hf
    obtain ⟨k, hk, hfk⟩ := List.mem_flatMap.1 hf
    obtain ⟨c, hc, rfl⟩ := List.mem_map.1 hk
    by_cases hb : busy c
    · obtain ⟨z, hz, hcause, hsub, -⟩ := hviol hc hb
      obtain rfl : f = (c.rank, z) := by simpa [hz] using hfk
      exact ⟨hcause, hsub⟩
    · rw [hquiet hb, (hall c hc).2.1] at hfk
      cases hfk

/-- Settles O40, with what publication and parking keep of a troupe (`shell`). -/
theorem savingAndRetirement : Obligations.SavingAndRetirement :=
  ⟨preemption, routinePhases, routineViolation, retirement⟩

end

end Sys2Proof.Proofs.ExecutionModel
end

section
/-! Doorbells, the deadlines of heads, selection, binding and the start of a troupe (R28, R249, R255, R268, R311, R313, R317,
R319, R320, R323, R407). -/

namespace Sys2Proof.Proofs.ExecutionModel

open Sys2Proof Sys2Proof.Machine Sys2Proof.Claims

/-! ## Queues -/

section
variable {s : State} {v q : Nat}

/-- A change of a queue counts at what the queue is. -/
theorem modQueue_congr (x : Vf) (q : Nat) {f g : LQueue → LQueue} (h : f (x.queue q) = g (x.queue q)) :
    x.modQueue q f = x.modQueue q g := by
  have hat {y : LQueue} (hy : (x.queues ++ tab (q + 1 - x.queues.length) fun _ => LQueue.none)[q]? = some y) :
      y = x.queue q := by
    have := queue_modQueue x q id
    rw [Vf.modQueue, Vf.queue, List.getD_eq_getElem?_getD, List.getElem?_modify, hy] at this
    simpa using this
  have hlist : (x.queues ++ tab (q + 1 - x.queues.length) fun _ => LQueue.none).modify q f =
      (x.queues ++ tab (q + 1 - x.queues.length) fun _ => LQueue.none).modify q g := by
    refine List.ext_getElem? fun i => ?_
    rw [List.getElem?_modify, List.getElem?_modify]
    by_cases hi : q = i
    · subst hi
      cases hy : (x.queues ++ tab (q + 1 - x.queues.length) fun _ => LQueue.none)[q]? with
      | none => rfl
      | some y =>
        obtain rfl := hat hy
        show some (if q = q then _ else _) = some (if q = q then _ else _)
        rw [if_pos rfl, if_pos rfl, h]
    · simp only [if_neg hi]
  rw [Vf.modQueue, Vf.modQueue, hlist]

theorem modVf_modQueue_congr (s : State) (v q : Nat) {f g : LQueue → LQueue}
    (h : f ((s.vf v).queue q) = g ((s.vf v).queue q)) :
    (s.modVf v fun x => x.modQueue q f) = s.modVf v fun x => x.modQueue q g := by
  have := modQueue_congr (s.vf v) q h
  simp only [State.modVf, vmod]
  rw [show (vget Vf.reset s.vfs v).modQueue q f = (vget Vf.reset s.vfs v).modQueue q g from this]

/-- A queue whose TAIL moves keeps its head, its place and what waits. -/
theorem produce_spec (y : LQueue) (n : BitVec 32) (wall : Nat) : (y.produce n wall).tail = n ∧
    (y.produce n wall).head = y.head ∧ (y.produce n wall).resume = y.resume ∧ (y.produce n wall).held = y.held ∧
    (y.produce n wall).base = y.base ∧ (y.produce n wall).lsz = y.lsz := by
  unfold LQueue.produce LQueue.settleHead
  split <;> exact ⟨rfl, rfl, rfl, rfl, rfl, rfl⟩

/-- What a doorbell of a VF raises in its partition. -/
def rung (s : State) (v : Nat) : State :=
  if (s.vf v).part.toNat < 12 then s.setIp (s.vf v).part.toNat 3 else s

theorem rung_rest (s : State) (v w : Nat) : (rung s v).vf w = s.vf w ∧ (rung s v).wall = s.wall := by
  unfold rung
  split <;> exact ⟨rfl, rfl⟩

theorem exec_queueDoorbell (s : State) (n : BitVec 32) (hv : v < 96) (hq : q < 64) : exec (.queueDoorbell v q n) s =
    if ((s.vf v).queue q).en && !((s.vf v).queue q).prod &&
        decide ((n - ((s.vf v).queue q).head).toNat ≤ 2 ^ ((s.vf v).queue q).lsz) &&
        decide ((n - ((s.vf v).queue q).tail).toNat < 2 ^ 31) then
      .next ((rung s v).modVf v fun x => x.modQueue q fun y => y.produce n (rung s v).wall)
    else .next (rung s v) := by
  show execQueueDoorbell v q n s = _
  rw [execQueueDoorbell, if_neg (by simp; omega)]
  rfl

/-- A head that waits, at a frame tick. -/
theorem exec_launchWaitExpired {l : Launch} {b : Option (List Byte)} (hv : v < 96)
    (hh : s.headOf v ((s.vf v).queue q) = some (.fresh l b)) (hw : s.wall % 4096 = 0) (hen : (s.vf v).en = true)
    (hp : (s.vf v).part ≠ 0xF) (hq : ((s.vf v).queue q).en = true) : exec (.launchWaitExpired v q) s =
      if l.wv = true ∧ s.waitOver v l = false ∧ dlTicks l.wdl ≤ s.wall / 4096 - ((s.vf v).queue q).since / 4096 then
        .next (((s.consume v q).nextHead v q).failLaunch (s.vf v).part.toNat v l 7)
      else .refused (.notEnabled "LAUNCH_WAIT_EXPIRED") := by
  have hexp : s.waitExpired v q = true ↔
      l.wv = true ∧ s.waitOver v l = false ∧ dlTicks l.wdl ≤ s.wall / 4096 - ((s.vf v).queue q).since / 4096 := by
    simp only [State.waitExpired, hh, show s.wall % Config.tick = 0 from hw, hen, hq, bne_iff_ne.2 hp, beq_self_eq_true,
      Bool.true_and, Bool.and_eq_true, Bool.not_eq_true', decide_eq_true_eq, and_assoc]
    rfl
  show execLaunchWaitExpired v q s = _
  simp only [execLaunchWaitExpired, Nat.not_le.2 hv, decide_false, Bool.false_or, Bool.not_eq_true', hh]
  by_cases h : s.waitExpired v q = true
  · rw [if_neg (by simp [h]), if_pos (hexp.1 h)]
  · rw [if_pos (by simpa using h), if_neg (mt hexp.2 h)]; rfl

theorem queueEvents : QueueEvents := by
  refine ⟨fun s v q n hv hq => ?_, fun s v q l b hv => ?_⟩
  · intro y rung' ok
    have hexec := exec_queueDoorbell s n hv hq
    have hok : (y.en && !y.prod && decide ((n - y.head).toNat ≤ 2 ^ y.lsz) && decide ((n - y.tail).toNat < 2 ^ 31)) = true ↔
        ok := by
      simp [ok, and_assoc]
    obtain ⟨hvf, hwall⟩ := rung_rest s v v
    refine ⟨fun h => ?_, fun h => ?_⟩
    · refine ⟨y.produce n s.wall, ?_, produce_spec y n s.wall⟩
      rw [hexec, if_pos (hok.2 h), hwall]
      refine congrArg _ (modVf_modQueue_congr (rung s v) v q ?_)
      rw [hvf]
    · rw [hexec, if_neg (mt hok.1 h)]
      rfl
  · intro y hh hw hen hp hq
    have hexec := exec_launchWaitExpired hv hh hw hen hp hq
    refine ⟨fun h1 h2 h3 => by rw [hexec, if_pos ⟨h1, h2, h3⟩], fun h => ?_⟩
    rw [hexec, if_neg]
    rintro ⟨h1, h2, h3⟩
    obtain h | h | h := h
    · rw [h1] at h; cases h
    · rw [h2] at h; cases h
    · exact Nat.not_le.2 h h3

end

/-! ## Selection -/

section
variable {s : State} {p : Nat} {e : Nat × Nat × Head} {l : List (Nat × Nat × Head)}

/-- The place of a head in cyclic order after `last` (R320). -/
def headKey (last : Nat) (e : Nat × Nat × Head) : Nat := (64 * e.1 + e.2.1 + 6144 - last % 6144 - 1) % 6144

/-- Of two heads, the one that is first in cyclic order; the earlier one where they are level. -/
def nearer (last : Nat) : Option (Nat × Nat × Head) → Nat × Nat × Head → Option (Nat × Nat × Head)
  | none, e => some e
  | some x, e => if headKey last e < headKey last x then some e else some x

theorem nextKey_eq_foldl (last : Nat) (l : List (Nat × Nat × Head)) : nextKey last l = l.foldl (nearer last) none := by
  unfold nextKey
  extract_lets key
  congr 1
  funext b e
  cases b <;> rfl

theorem foldl_nearer (last : Nat) (he : ∀ f ∈ l, f = e ∨ headKey last e < headKey last f) (b : Nat × Nat × Head)
    (hb : b = e ∨ headKey last e < headKey last b) (hm : b = e ∨ e ∈ l) :
    l.foldl (nearer last) (some b) = some e := by
  induction l generalizing b with
  | nil => rw [List.foldl_nil, hm.resolve_right (by simp)]
  | cons f l ih =>
    obtain ⟨hf, hl⟩ := List.forall_mem_cons.1 he
    rw [List.foldl_cons, nearer]
    split
    case isTrue hlt =>
      have hbe : b ≠ e := by
        rintro rfl
        obtain rfl | h := hf
        · exact Nat.lt_irrefl _ hlt
        · omega
      refine ih hl f hf ?_
      obtain h | h := List.mem_cons.1 (hm.resolve_left hbe)
      · exact .inl h.symm
      · exact .inr h
    case isFalse hge =>
      refine ih hl b hb ?_
      obtain h | h := hm
      · exact .inl h
      · obtain rfl | h := List.mem_cons.1 h
        · exact .inl (hb.resolve_right hge)
        · exact .inr h

/-- The head that is alone first in cyclic order is the next. -/
theorem nextKey_of_first (last : Nat) (hm : e ∈ l) (he : ∀ f ∈ l, f = e ∨ headKey last e < headKey last f) :
    nextKey last l = some e := by
  cases l with
  | nil => cases hm
  | cons b l =>
    obtain ⟨hb, hl⟩ := List.forall_mem_cons.1 he
    rw [nextKey_eq_foldl]
    exact foldl_nearer last hl b hb ((List.mem_cons.1 hm).imp Eq.symm id)

theorem foldl_max_of_greatest {f : Nat × Nat × Head → Nat} (hm : e ∈ l) (he : ∀ g ∈ l, f g ≤ f e) :
    (l.map f).foldl max 0 = f e := by
  have hle (l : List Nat) (b k : Nat) (hb : b ≤ k) (hl : ∀ x ∈ l, x ≤ k) : l.foldl max b ≤ k := by
    induction l generalizing b with
    | nil => exact hb
    | cons x l ih =>
      obtain ⟨hx, hl⟩ := List.forall_mem_cons.1 hl
      exact ih (max b x) (max_le hb hx) hl
  have hge (l : List Nat) (b : Nat) : b ≤ l.foldl max b ∧ ∀ x ∈ l, x ≤ l.foldl max b := by
    induction l generalizing b with
    | nil => exact ⟨Nat.le_refl b, by simp⟩
    | cons x l ih =>
      obtain ⟨h1, h2⟩ := ih (max b x)
      exact ⟨(le_max_left b x).trans h1, List.forall_mem_cons.2 ⟨(le_max_right b x).trans h1, h2⟩⟩
  refine Nat.le_antisymm (hle _ 0 _ (Nat.zero_le _) fun x hx => ?_) ((hge _ 0).2 _ (List.mem_map_of_mem hm))
  obtain ⟨g, hg, rfl⟩ := List.mem_map.1 hx
  exact he g hg

/-- The eligible heads of a partition, and the aged priority of a head, as a selection sees them. -/
def candidates (s : State) (p : Nat) : List (Nat × Nat × Head) :=
  (s.heads p).filter fun e => s.eligible p e.1 e.2.2 && !s.headWaits e.1 e.2.2

def effOf (s : State) (e : Nat × Nat × Head) : Nat := s.eff ((s.vf e.1).queue e.2.1) e.2.2

/-- A head that a selection takes: of those of the greatest aged priority, the next in cyclic order. -/
def Taken (s : State) (p : Nat) (e : Nat × Nat × Head) : Prop :=
  e ∈ candidates s p ∧ ∀ f ∈ candidates s p, f = e ∨ effOf s f < effOf s e ∨
    effOf s f = effOf s e ∧ headKey (vget 63 s.last p) e < headKey (vget 63 s.last p) f

theorem top_of_taken (h : Taken s p e) : ((candidates s p).map (effOf s)).foldl max 0 = effOf s e := by
  obtain ⟨hm, hall⟩ := h
  refine foldl_max_of_greatest hm fun f hf => ?_
  obtain rfl | h | ⟨h, -⟩ := hall f hf
  · exact Nat.le_refl _
  · exact Nat.le_of_lt h
  · exact Nat.le_of_eq h

theorem nextKey_of_taken (h : Taken s p e) :
    nextKey (vget 63 s.last p) ((candidates s p).filter fun f => effOf s f == effOf s e) = some e := by
  obtain ⟨hm, hall⟩ := h
  refine nextKey_of_first _ (List.mem_filter.2 ⟨hm, by simp⟩) fun f hf => ?_
  obtain ⟨hf, he⟩ := List.mem_filter.1 hf
  obtain h | h | ⟨-, h⟩ := hall f hf
  · exact .inl h
  · have : effOf s f = effOf s e := by simpa using he
    omega
  · exact .inr h

/-- The head that a selection takes, as the model writes it. -/
theorem nextKey_top (h : Taken s p e) : nextKey (vget 63 s.last p) ((candidates s p).filter fun f =>
    effOf s f == ((candidates s p).map (effOf s)).foldl max 0) = some e := by
  rw [top_of_taken h]
  exact nextKey_of_taken h

theorem selectOne_nil (h : candidates s p = []) : s.selectOne p = (s, false) := by
  unfold State.selectOne
  extract_lets hs eff top
  have hn : nextKey (vget 63 s.last p) (hs.filter fun f => eff f == top) = none := by
    rw [show hs = [] from h]; rfl
  rw [hn]

variable {v q : Nat} {r : Launch} {b : Option (List Byte)}

/-- A record that fails a check is consumed with its status, and the round goes on (R313). -/
theorem selectOne_bad (h : Taken s p (v, q, .fresh r b)) {st : Nat} (hc : (s.consume v q).check p v r b = .bad st) :
    s.selectOne p = ((((s.consume v q).nextHead v q).failLaunch p v r st), true) := by
  unfold State.selectOne
  extract_lets hs eff top
  rw [show nextKey (vget 63 s.last p) (hs.filter fun f => eff f == top) = _ from nextKey_top h]
  simp only [hc]

/-- A record that passes is placed and bound, or held. -/
theorem selectOne_task (h : Taken s p (v, q, .fresh r b)) {img : Image} (hc : (s.consume v q).check p v r b = .task img) :
    s.selectOne p = (s.consume v q).tryBind p v q r (effOf s (v, q, .fresh r b)) ((s.vf v).queue q).since := by
  unfold State.selectOne
  extract_lets hs eff top
  rw [show nextKey (vget 63 s.last p) (hs.filter fun f => eff f == top) = _ from nextKey_top h,
    show top = effOf s (v, q, .fresh r b) from top_of_taken h]
  simp only [hc]

theorem tryBind_binds {eff since : Nat} {cores : List (Nat × Nat)} (hp : s.place p r.shape r.m = some cores)
    (hc : r.nctr = 0 ∨ s.freeRun (cores.headD (0, 0)).1 r.nctr ≠ none) : s.tryBind p v q r eff since =
      (((((s.modVf v fun x => x.modQueue q fun y => { y with held := none }).nextHead v q).bindNew p v q r eff cores).setLast p
        (64 * v + q)), true) := by
  have hok : (r.nctr == 0 || (s.freeRun (cores.headD (0, 0)).1 r.nctr).isSome) = true := by
    rw [Bool.or_eq_true, beq_iff_eq, Option.isSome_iff_ne_none]; exact hc
  simp only [State.tryBind, hp, Option.filter_some, hok, if_true]

theorem tryBind_holds {eff since : Nat} (hn : s.place p r.shape r.m = none ∨ ∃ cores, s.place p r.shape r.m = some cores ∧
      r.nctr ≠ 0 ∧ s.freeRun (cores.headD (0, 0)).1 r.nctr = none) : s.tryBind p v q r eff since =
      ((s.modVf v fun x => x.modQueue q fun y => { y with held := some (r, since) }).nextHead v q, false) := by
  obtain h | ⟨cores, h, h0, hf⟩ := hn
  · simp only [State.tryBind, h, Option.filter_none]
  · have hok : (r.nctr == 0 || (s.freeRun (cores.headD (0, 0)).1 r.nctr).isSome) = false := by
      rw [hf, beq_false_of_ne h0]; rfl
    simp only [State.tryBind, h, Option.filter_some, hok, Bool.false_eq_true, if_false]

theorem selection : Selection := by
  intro s p _ hs eff key taken
  have htaken {e : Nat × Nat × Head} (h : taken e) : Taken s p e := h
  refine ⟨selectOne_nil, fun v q l b h => ?_⟩
  intro used hold
  refine ⟨fun st hc => selectOne_bad (htaken h) hc, fun img hc => ?_⟩
  have htask := selectOne_task (htaken h) hc
  exact ⟨fun cores hp hn => htask.trans (tryBind_binds hp hn), fun hn => htask.trans (tryBind_holds hn)⟩

end

/-! ## What the notes, the writes and the fresh snapshots of a binding leave of a troupe -/

/-- A core without its view of memory, and a troupe of such cores without its trace. -/
def unsnapped (c : Core) : Core := { c with snap := [], spills := [] }

def viewless (x : Troupe) : Troupe := { x with cores := x.cores.map unsnapped, trec := [] }

section
variable {s u : State} {t : Nat} {x y : Troupe}

/-- What a new troupe's place holds. -/
theorem troupe?_putTroupe (h : t ≤ s.troupes.length) : (s.putTroupe t x).troupe? t = some x := by
  unfold State.putTroupe
  split
  case isTrue hlt =>
    exact troupe_setTroupe_same (x := s.troupes[t]) (List.getElem?_eq_getElem hlt)
  case isFalse hge =>
    obtain rfl : t = s.troupes.length := by omega
    show (s.troupes ++ [x])[s.troupes.length]? = _
    simp

theorem freeEntry_le (s : State) : s.freeEntry ≤ s.troupes.length := by
  unfold State.freeEntry
  cases h : s.troupes.findIdx? fun tr => tr.gone with
  | none => exact Nat.le_refl _
  | some i =>
    obtain ⟨hi, -⟩ := List.findIdx?_eq_some_iff_getElem.1 h
    exact Nat.le_of_lt hi

theorem viewless_note (s : State) (j wall vcc b hc rank typ : Nat) (slot : Option Nat) (data : Nat) :
    ((s.note j wall vcc b hc rank typ slot data).troupe? t).map viewless = (s.troupe? t).map viewless := by
  obtain h | ⟨z, l, hz, h⟩ := note_cases s j wall vcc b hc rank typ slot data
  · rw [h]
  · rw [h]
    by_cases hj : j = t
    · subst hj
      rw [troupe_setTroupe_same hz, hz]; rfl
    · rw [troupe_setTroupe_ne hj]

theorem troupes_acceptWide (s : State) (pa : Nat) (bs : List (Option Byte)) : (s.acceptWide pa bs).troupes = s.troupes := by
  unfold State.acceptWide
  split <;> rfl

theorem troupes_writeG (s : State) (asid va : Nat) (l : List Byte) : (s.writeG asid va l).troupes = s.troupes := by
  refine State.foldl_keeps (fun u => u.troupes = s.troupes) _ (fun u r hu => ?_) _ rfl
  split
  · refine State.foldl_keeps (fun w => w.troupes = s.troupes) _ (fun w g hw => ?_) _ ((troupes_acceptWide ..).trans hu)
    split
    · exact (troupes_acceptWide ..).trans hw
    · split
      · exact (troupes_acceptWide ..).trans hw
      · exact hw
  · exact hu

theorem viewless_setCore {r : Nat} {c k : Core} (hc : s.core? (.core t r) = some c) (hk : unsnapped k = unsnapped c) :
    ((s.setCore (.core t r) k).troupe? t).map viewless = (s.troupe? t).map viewless := by
  obtain ⟨z, hz, hr⟩ := core?_core_iff.1 hc
  rw [setCore_core hz, troupe_setTroupe_same hz, hz]
  have hcores : (z.cores.set r k).map unsnapped = z.cores.map unsnapped := by
    rw [List.map_set]
    exact list_set_of_getElem? (by rw [List.getElem?_map, hr, hk]; rfl)
  exact congrArg (fun l => some { z with cores := l, trec := [] }) hcores

/-- A fresh snapshot is all that a renewal changes of a core. -/
theorem viewless_renew (s : State) (r : Nat) :
    ((s.renew (.core t r)).troupe? t).map viewless = (s.troupe? t).map viewless := by
  unfold State.renew
  split
  · rfl
  · next c hc => exact viewless_setCore hc rfl

theorem viewless_renewAll (s : State) (t : Nat) : ((s.renewAll t).troupe? t).map viewless = (s.troupe? t).map viewless :=
  State.foldl_keeps (fun u => (u.troupe? t).map viewless = (s.troupe? t).map viewless) _
    (fun u r hu => (viewless_renew u r).trans hu) _ rfl

theorem gmem_renewAll (s : State) (t : Nat) : (s.renewAll t).gmem = s.gmem := by
  refine State.foldl_keeps (fun u => u.gmem = s.gmem) _ (fun u r hu => ?_) _ rfl
  unfold State.renew
  split
  · exact hu
  · exact (gmem_setCore ..).trans hu

/-- The cores of two such troupes agree in all but their views. -/
theorem core_of_viewless (h : viewless y = viewless x) {r : Nat} {c : Core} (hc : x.cores[r]? = some c) :
    ∃ k, y.cores[r]? = some k ∧ unsnapped k = unsnapped c := by
  have hl : y.cores.map unsnapped = x.cores.map unsnapped := (congrArg Troupe.cores h :)
  have := congrArg (·[r]?) hl
  simp only [List.getElem?_map, hc, Option.map_some] at this
  exact Option.map_eq_some_iff.1 this

theorem length_of_viewless (h : viewless y = viewless x) : y.cores.length = x.cores.length := by
  have hl : y.cores.map unsnapped = x.cores.map unsnapped := (congrArg Troupe.cores h :)
  simpa using congrArg List.length hl

end

/-! ## Binding -/

theorem vget_params (l : List Word) (v : Vector Word 64) {n : Nat} (hn : n ≤ 8) (j : Nat) :
    vget 0 ((tab n id).foldl (fun s i => vset s (8 + i) (l.getD i 0)) v) j =
      if 8 ≤ j ∧ j < 8 + n then l.getD (j - 8) 0 else vget 0 v j := by
  induction n with
  | zero => rw [if_neg (by omega)]; rfl
  | succ n ih =>
    rw [tab_id, List.range_succ, List.foldl_append, ← tab_id, List.foldl_cons, List.foldl_nil]
    by_cases hj : 8 + n = j
    · subst hj
      rw [vget_vset_same _ _ _ _ (by omega), if_pos (by omega), Nat.add_sub_cancel_left]
    · rw [vget_vset_ne _ _ _ _ _ hj, ih (by omega)]
      exact if_congr (by omega) rfl rfl

section
variable {s : State} {p v q prio slot num : Nat} {l : Launch} {img : Image} {cores : List (Nat × Nat)}

/-- The registers of a core at its launch values (R65). -/
theorem rs_launchCore (img : Image) (l : Launch) (a span k : Nat) (at' : Nat × Nat) :
    (launchCore img l a span k at').rs 1 = BitVec.ofNat 64 a ∧
      ∀ i, i < 8 → (launchCore img l a span k at').rs (BitVec.ofNat 6 (8 + i)) = l.params.getD i 0 := by
  have hs (j : Nat) : vget 0 (launchCore img l a span k at').s j = if 8 ≤ j ∧ j < 8 + 8 then l.params.getD (j - 8) 0
      else vget 0 (vset Core.launch.s 1 (BitVec.ofNat 64 a)) j := vget_params l.params _ (Nat.le_refl 8) j
  refine ⟨?_, fun i hi => ?_⟩
  · rw [Core.rs, if_neg (by decide), hs]
    exact vget_vset_same _ _ _ _ (by decide)
  · have hn : (BitVec.ofNat 6 (8 + i)).toNat = 8 + i := by simp; omega
    rw [Core.rs, if_neg (fun h => by rw [h] at hn; simp at hn; omega), hs, hn, if_pos (by omega), Nat.add_sub_cancel_left]

/-- The troupe of a binding without counters. -/
def boundTroupe (s : State) (p v q : Nat) (l : Launch) (img : Image) (prio slot num : Nat) (cores : List (Nat × Nat)) :
    Troupe :=
  newTroupe num v q p l img slot 0 prio s.wall
    (cores.mapIdx fun k at' => launchCore img l ((s.vf v).slotAt slot) ((shapeSize img.shape img.m).getD (1, 1)).1 k at')

theorem bindNew_eq (hslot : s.freeSlot v = some slot) (hnum : s.freeNumber = some num) (himg : s.loadImage v l = some img)
    (hctr : l.nctr = 0) (hw : s.writeFault (s.vf v).asid.toNat ((s.vf v).slotAt slot) 256 = none) :
    s.bindNew p v q l prio cores =
      ((((s.putTroupe s.freeEntry (boundTroupe s p v q l img prio slot num cores)).note s.freeEntry s.wall 0 0 0 0 5 none
        0).writeG (s.vf v).asid.toNat ((s.vf v).slotAt slot) (paramBlock l 0 num v (s.vf v).job)).renewAll s.freeEntry) := by
  simp only [State.bindNew, hslot, hnum, himg, hctr, if_true, hw, Option.isNone_some, Option.isSome_none, Bool.or_self,
    Bool.false_eq_true, if_false, Option.getD_some]
  rfl

theorem binding : Binding := by
  intro s p v q l img prio slot num cores hslot hnum himg hctr hw span
  have hkeep : ((s.bindNew p v q l prio cores).troupe? s.freeEntry).map viewless =
      some (viewless (boundTroupe s p v q l img prio slot num cores)) := by
    rw [bindNew_eq hslot hnum himg hctr hw, viewless_renewAll, State.troupe?, troupes_writeG]
    exact (viewless_note ..).trans (congrArg (Option.map viewless) (troupe?_putTroupe (freeEntry_le s)))
  obtain ⟨y, hy, he⟩ := Option.map_eq_some_iff.1 hkeep
  refine ⟨y, hy, (congrArg Troupe.num he :), (congrArg Troupe.vf he :), (congrArg Troupe.part he :),
    (congrArg Troupe.slot he :), (congrArg Troupe.image he :), (congrArg Troupe.launch he :), (congrArg Troupe.st he :),
    (congrArg Troupe.loading he :), (congrArg Troupe.loadedAt he :), (congrArg Troupe.vcc he :),
    (congrArg Troupe.limit he :), (congrArg Troupe.prq he :), (congrArg Troupe.recs he :),
    (length_of_viewless he).trans List.length_mapIdx, fun k at' c hk hc => ?_⟩
  have hcore : (boundTroupe s p v q l img prio slot num cores).cores[k]? =
      some (launchCore img l ((s.vf v).slotAt slot) span k at') := by
    show (cores.mapIdx _)[k]? = _
    rw [List.getElem?_mapIdx, hk]; rfl
  obtain ⟨c', hc', heq⟩ := core_of_viewless he hcore
  obtain rfl : c = c' := Option.some.inj (hc.symm.trans hc')
  have hs : c.s = (launchCore img l ((s.vf v).slotAt slot) span k at').s := (congrArg Core.s heq :)
  obtain ⟨h1, h8⟩ := rs_launchCore img l ((s.vf v).slotAt slot) span k at'
  refine ⟨(congrArg Core.rank heq :), (congrArg Core.lrank heq :), (congrArg Core.spos heq :), (congrArg Core.die heq :),
    (congrArg Core.loc heq :), (congrArg Core.pc heq :), ?_, fun i hi => ?_⟩
  · rw [Core.rs, hs]; exact h1
  · rw [Core.rs, hs]; exact h8 i hi

end

/-! ## Rounds and starts -/

section
variable {s : State} {t : Nat} {tr : Troupe}

/-- A loaded core at the start of its troupe; `again`: of one that resumes. -/
def startCore (again : Bool) (kept : List (Nat × Option (BitVec 32))) (r : Nat) (c : Core) : Core :=
  let c := { c with chg := c.chg ++ [(c.die, 0x15, 1), (c.die, 0x00, 1)] }
  if again then { c with pc := (kept.getD r (0, none)).1, routineDone := false, done := 0 } else c

def started (tr : Troupe) : Troupe :=
  { tr with st := .running, loading := false, resuming := true, n0 := tr.adv, stepNow := 0,
            unal := tr.st == .restoring && tr.vcc.toNat % Config.tick != 0,
            cores := tr.cores.mapIdx (startCore (tr.st == .restoring) tr.kept) }

theorem exec_troupeStart (ht : s.troupe? t = some tr) (hl : tr.loading = true) (hw : s.wall % 4096 = 0)
    (hst : tr.st = .running ∨ tr.st = .restoring) : exec (.troupeStart t) s =
      if s.wall ≤ tr.loadedAt then .refused (.notEnabled "TROUPE_START")
      else .next (if tr.st == .restoring then
        ((s.setTroupe t (started tr)).note t s.wall tr.vcc.toNat 0 0 0 5 none 1).renewAll t
        else s.setTroupe t (started tr)) := by
  show execTroupeStart t s = _
  have hno : (tr.st != .running && tr.st != .restoring) = false := by
    obtain h | h := hst <;> rw [h] <;> rfl
  rw [execTroupeStart, ht]
  dsimp only
  rw [hl, hno, show s.wall % Config.tick = 0 from hw, Bool.or_false]
  by_cases h : s.wall ≤ tr.loadedAt
  · rw [if_pos (by simp [h]), if_pos h]; rfl
  · rw [if_neg (by simp [h]), if_neg h]; rfl

/-- What a start leaves in the troupe's place. -/
theorem troupeStart_spec (ht : s.troupe? t = some tr) (hl : tr.loading = true) (hw : s.wall % 4096 = 0)
    (hst : tr.st = .running ∨ tr.st = .restoring) (hnew : tr.loadedAt < s.wall) :
    ∃ u y, exec (.troupeStart t) s = .next u ∧ u.troupe? t = some y ∧ viewless y = viewless (started tr) ∧
      u.gmem = s.gmem ∧ (tr.st = .running → y = started tr) := by
  rw [exec_troupeStart ht hl hw hst, if_neg (Nat.not_le.2 hnew)]
  obtain h | h := hst
  · rw [h]
    exact ⟨_, _, rfl, troupe_setTroupe_same ht, rfl, rfl, fun _ => rfl⟩
  · rw [h]
    have hkeep := (viewless_renewAll ((s.setTroupe t (started tr)).note t s.wall tr.vcc.toNat 0 0 0 5 none 1) t).trans
      (viewless_note ..)
    rw [troupe_setTroupe_same ht] at hkeep
    obtain ⟨y, hy, he⟩ := Option.map_eq_some_iff.1 hkeep
    exact ⟨_, y, rfl, hy, he, (gmem_renewAll ..).trans (gmem_note ..), nofun⟩

theorem rounds : Rounds := by
  refine ⟨fun s hw hr => ?_, fun s p k => ?_, fun s t tr ht hl hw hst => ⟨fun hnew => ?_, fun hold => ?_⟩⟩
  · show execDistributorRound s = _
    rw [execDistributorRound, if_neg (by simp [hr, show s.wall % Config.tick = 0 from hw])]
  · rw [State.roundOf]
    obtain ⟨u, b⟩ := s.selectOne p
    cases b <;> rfl
  · obtain ⟨u, y, hu, hy, he, hg, hrun⟩ := troupeStart_spec ht hl hw hst hnew
    have hunal : y.unal = (tr.st == .restoring && tr.vcc.toNat % Config.tick != 0) := (congrArg Troupe.unal he :)
    refine ⟨u, y, hu, hy, (congrArg Troupe.st he :), (congrArg Troupe.loading he :), (congrArg Troupe.resuming he :),
      (congrArg Troupe.vcc he :), (congrArg Troupe.adv he :), (congrArg Troupe.n0 he :), hg, fun h => ?_, fun h => ?_,
      (length_of_viewless he).trans List.length_mapIdx, fun r c hc => ?_⟩
    · rw [hunal, h]; rfl
    · rw [hunal, h]
      simp [Config.tick]
    · have hstart : (started tr).cores[r]? = some (startCore (tr.st == .restoring) tr.kept r c) := by
        show (tr.cores.mapIdx _)[r]? = _
        rw [List.getElem?_mapIdx, hc]; rfl
      obtain ⟨k, hk, heq⟩ := core_of_viewless he hstart
      obtain h | h := hst
      · rw [h] at hstart ⊢
        exact ⟨startCore (TSt.running == TSt.restoring) tr.kept r c, (hrun h).symm ▸ hstart, rfl, rfl, rfl,
          fun _ => ⟨rfl, rfl⟩, nofun⟩
      · rw [h] at heq ⊢
        exact ⟨k, hk, (congrArg Core.s heq :), (congrArg Core.v heq :), (congrArg Core.bank heq :), nofun,
          fun _ => ⟨(congrArg Core.pc heq :), (congrArg Core.done heq :), (congrArg Core.routineDone heq :)⟩⟩
  · rw [exec_troupeStart ht hl hw hst, if_pos hold]

end

/-- Settles O45: what a doorbell and a deadline do, the head that is alone first of the greatest priority, and what the note,
the write of the block and the fresh snapshots of a binding or a start leave of the troupe. -/
theorem launchEvents : Obligations.LaunchEvents := ⟨queueEvents, selection, binding, rounds⟩

end Sys2Proof.Proofs.ExecutionModel
end

section
/-! The special registers (R66, R136, R403): what `csrr` and `csrw` do on a core of a troupe and on a management core. -/

namespace Sys2Proof.Proofs.NumberFormats

open Sys2Proof Sys2Proof.Machine Sys2Proof.Claims

/-! ## The words -/

section
variable {s : State} {x : Iss} {pd : Pd} {d a : SReg} {n : BitVec 12}

/-- A scalar word of class 1 whose meaning is a cause raises it. -/
theorem raises_of_meaning {i : Instr} {f : Iss → Res} {e : Exc} (h : Runs s x pd) (hi : exec i s = coreWord pd (some 0x01) s f)
    (hf : f { x with core := x.core.charge 0x01 1 } = .exc e) : Raises i s x e := by
  rw [Raises, hi, coreWord_of_active _ f h.1 h.2, hf]; rfl

/-- A scalar word of class 1 whose meaning schedules one effect leaves it due and its charge. -/
theorem later_of_meaning {i : Instr} {f : Iss → Res} {k : Nat} {act : Act} (h : Runs s x pd)
    (hi : exec i s = coreWord pd (some 0x01) s f)
    (hf : f { x with core := x.core.charge 0x01 1 } = .done ((x.core.charge 0x01 1).sched x k act)) :
    Later i s x [0x01] [(k, act, 0)] := by
  rw [Later, Leaves, hi, coreWord_of_active _ f h.1 h.2, hf]; rfl

/-- What `csrr` means to the word that issues it: the charge of the word is nothing that a special register shows. -/
theorem exec_csrr (s : State) (pd : Pd) (d : SReg) (n : BitVec 12) :
    exec (.csrr pd d n) s = coreWord pd (some 0x01) s fun x =>
      match s.csr x n.toNat with
      | none => .exc illegalOperand
      | some v => .done (if readsFlags x n.toNat then x.core.sched x 0 (.readFlags d) else x.core.sched x 1 (.wS d v)) := by
  show execCsrr pd d n s = _
  unfold execCsrr
  congr 1
  funext x
  cases s.csr x n.toNat with
  | none => rfl
  | some v => dsimp only; split <;> rfl

theorem csr_charge (s : State) (x : Iss) (k m i : Nat) : s.csr { x with core := x.core.charge k m } i = s.csr x i := rfl

theorem readsFlags_charge (x : Iss) (k m i : Nat) : readsFlags { x with core := x.core.charge k m } i = readsFlags x i := rfl

theorem csrr_reads {v : BitVec 64} (h : Runs s x pd) (hv : s.csr x n.toNat = some v) (hf : readsFlags x n.toNat = false) :
    WritesS (.csrr pd d n) s x 1 d v :=
  later_of_meaning h (exec_csrr s pd d n) (by simp only [csr_charge, readsFlags_charge, hv, hf]; rfl)

theorem csrr_readsFlags {v : BitVec 64} (h : Runs s x pd) (hv : s.csr x n.toNat = some v) (hf : readsFlags x n.toNat = true) :
    Later (.csrr pd d n) s x [0x01] [(0, .readFlags d, 0)] :=
  later_of_meaning h (exec_csrr s pd d n) (by simp only [csr_charge, readsFlags_charge, hv, hf]; rfl)

theorem csrr_raises (h : Runs s x pd) (hv : s.csr x n.toNat = none) : Raises (.csrr pd d n) s x illegalOperand :=
  raises_of_meaning h (exec_csrr s pd d n) (by simp only [csr_charge, hv])

/-- LOOPC0 to LOOPC7 as a register number names them (R66). -/
def loopcAt (c : Core) (i : Nat) : Option (BitVec 64) :=
  if 0x018 ≤ i && i ≤ 0x01F then some ((vget 0 c.loopc (i - 0x018)).zeroExtend 64) else none

theorem loopcAt_eq (c : Core) {i k : Nat} (hk : k < 8) (hi : i = 0x018 + k) :
    loopcAt c i = some ((vget 0 c.loopc k).zeroExtend 64) := by
  subst hi
  rw [loopcAt, if_pos (by simp; omega), Nat.add_sub_cancel_left]

theorem loopcAt_none (c : Core) {i : Nat} (hi : i < 0x018 ∨ 0x01F < i) : loopcAt c i = none :=
  if_neg (by simp; omega)

theorem csr_mgmt {m : Nat} (h : x.ag = .mgmt m) (i : Nat) :
    s.csr x i = if i = 0x002 then some (BitVec.ofNat 64 s.wall) else loopcAt x.core i := by
  simp only [State.csr, h, loopcAt]

/-- The table of R66 on a core of a troupe. -/
theorem csr_core {t r : Nat} {tr : Troupe} (h : x.ag = .core t r) (ht : s.troupe? t = some tr) (i : Nat) :
    s.csr x i =
      if i = 0x000 then some (x.core.flags.zeroExtend 64)
      else if i = 0x001 then some tr.vcc
      else if i = 0x002 then some (BitVec.ofNat 64 s.wall)
      else if i = 0x003 then some (BitVec.ofNat 64 (bit tr.unal + 2 * bit tr.rsmd))
      else if i = 0x004 then some (x.core.place tr.image.shape tr.image.m)
      else if 0x010 ≤ i && i ≤ 0x017 then some (vget 0 x.core.coord (i - 0x010))
      else if i = 0x020 then some (tr.enmtr s.wall)
      else if i = 0x030 then some (BitVec.ofNat 64 x.core.top)
      else if i = 0x031 then some (x.core.rseg.zeroExtend 64)
      else if i = 0x040 then some x.core.qstat
      else loopcAt x.core i := by
  simp only [State.csr, h, ht, loopcAt]

theorem readsFlags_core {t r : Nat} (h : x.ag = .core t r) (i : Nat) : readsFlags x i = (i == 0x000) := by
  simp only [readsFlags, h]

theorem readsFlags_mgmt {m : Nat} (h : x.ag = .mgmt m) (i : Nat) : readsFlags x i = false := by
  simp only [readsFlags, h]

end

/-- Register 0x003 shows in bit 0 whether the troupe lacks its alignment, in bit 1 whether it was resumed (R66). -/
theorem toNat_troupeBits (u r : Bool) :
    (BitVec.ofNat 64 (bit u + 2 * bit r)).toNat = (if u then 1 else 0) + (if r then 2 else 0) := by
  cases u <;> cases r <;> rfl

theorem readSpecialRegister : ReadSpecialRegister := by
  intro s x pd d n t r tr hr hag ht c Reads
  have reads {v : BitVec 64} (hv : s.csr x n.toNat = some v) (h0 : n.toNat ≠ 0) : Reads v :=
    csrr_reads hr hv (by simp [readsFlags_core hag, h0])
  have hcsr := csr_core hag ht n.toNat
  refine ⟨?_, ?_, ?_, ?_, ?_, fun k hk hn => ?_, fun k hk hn => ?_, ?_, ?_, ?_, ?_, fun hn => ?_⟩
  · rintro rfl; exact csrr_readsFlags hr hcsr (readsFlags_core hag _)
  · rintro rfl; exact reads hcsr (by decide)
  · rintro rfl; exact reads hcsr (by decide)
  · rintro rfl; exact ⟨_, reads hcsr (by decide), toNat_troupeBits _ _⟩
  · rintro rfl; exact reads hcsr (by decide)
  · obtain rfl : k = n.toNat - 0x010 := by omega
    refine reads (hcsr.trans ?_) (by omega)
    simp only [Bool.and_eq_true, decide_eq_true_eq]
    repeat rw [if_neg (by omega)]
    rw [if_pos (by omega)]
  · refine reads (hcsr.trans ?_) (by omega)
    rw [loopcAt_eq c hk hn]
    simp only [Bool.and_eq_true, decide_eq_true_eq]
    repeat rw [if_neg (by omega)]
  · rintro rfl; exact reads hcsr (by decide)
  · rintro rfl; exact reads hcsr (by decide)
  · rintro rfl; exact reads hcsr (by decide)
  · rintro rfl; exact reads hcsr (by decide)
  · refine csrr_raises hr (hcsr.trans ?_)
    rw [loopcAt_none c (by omega)]
    simp only [Bool.and_eq_true, decide_eq_true_eq]
    repeat rw [if_neg (by omega)]

/-! ## Writes -/

/-- Whether the issuing core is one of a troupe. -/
def onTroupe (x : Iss) : Bool :=
  match x.ag with
  | .core _ _ => true
  | .mgmt _ => false

/-- The effect that `csrw` of register `n` has at issue+1; `none` where it raises illegal-operand (R66, R84, R403). -/
def csrwAct (user : Bool) (n : Nat) (v : BitVec 64) : Option Act :=
  if user && n == 0x000 then some (.csrFlags v)
  else if 0x018 ≤ n && n ≤ 0x01F then some (.loopc (BitVec.ofNat 3 (n - 0x018)) (v.truncate 32))
  else if user && n == 0x030 then
    if v.toNat % 2 ^ 21 % 16 ≠ 0 || 2 ^ 20 < v.toNat % 2 ^ 21 then none else some (.csrRsp (BitVec.ofNat 64 (v.toNat % 2 ^ 21)))
  else if user && n == 0x040 then some (.csrQstat v)
  else none

theorem exec_csrw (s : State) (pd : Pd) (n : BitVec 12) (a : SReg) :
    exec (.csrw pd n a) s = coreWord pd (some 0x01) s fun x =>
      match csrwAct (onTroupe x) n.toNat (x.core.rs a) with
      | none => .exc illegalOperand
      | some act => .done (x.core.sched x 1 act) := by
  show execCsrw pd n a s = _
  unfold execCsrw csrwAct
  congr 1
  funext x
  cases hag : x.ag <;> simp only [onTroupe, hag] <;> split_ifs <;> rfl

section
variable {s : State} {x : Iss} {pd : Pd} {a : SReg} {n : BitVec 12}

theorem csrw_writes {act : Act} (h : Runs s x pd) (hv : csrwAct (onTroupe x) n.toNat (x.core.rs a) = some act) :
    Later (.csrw pd n a) s x [0x01] [(1, act, 0)] :=
  later_of_meaning h (exec_csrw s pd n a) (by
    have hv' : csrwAct (onTroupe { x with core := x.core.charge 0x01 1 }) n.toNat ((x.core.charge 0x01 1).rs a) = some act := hv
    simp only [hv']; rfl)

theorem csrw_raises (h : Runs s x pd) (hv : csrwAct (onTroupe x) n.toNat (x.core.rs a) = none) :
    Raises (.csrw pd n a) s x illegalOperand :=
  raises_of_meaning h (exec_csrw s pd n a) (by
    have hv' : csrwAct (onTroupe { x with core := x.core.charge 0x01 1 }) n.toNat ((x.core.charge 0x01 1).rs a) = none := hv
    simp only [hv'])

end

/-- LOOPC0 to LOOPC7 are written on both kinds of core. -/
theorem csrwAct_loopc (user : Bool) {n : Nat} {k : BitVec 3} (hn : n = 0x018 + k.toNat) (v : BitVec 64) :
    csrwAct user n v = some (.loopc k (v.truncate 32)) := by
  subst hn
  have hk := k.isLt
  rw [csrwAct, if_neg (by simp), if_pos (by simp; omega), Nat.add_sub_cancel_left, BitVec.ofNat_toNat, BitVec.setWidth_eq]

theorem csrwAct_mgmt {n : Nat} (hn : n < 0x018 ∨ 0x01F < n) (v : BitVec 64) : csrwAct false n v = none := by
  rw [csrwAct, if_neg (by simp), if_neg (by simp; omega), if_neg (by simp), if_neg (by simp)]

theorem csrwAct_other {n : Nat} (h0 : n ≠ 0x000) (h30 : n ≠ 0x030) (h40 : n ≠ 0x040) (hn : n < 0x018 ∨ 0x01F < n) (v : BitVec 64) :
    csrwAct true n v = none := by
  rw [csrwAct, if_neg (by simpa using h0), if_neg (by simp; omega), if_neg (by simpa using h30), if_neg (by simpa using h40)]

theorem csrwAct_rsp (v : BitVec 64) : csrwAct true 0x030 v =
    if v.toNat % 2 ^ 21 % 16 ≠ 0 ∨ 2 ^ 20 < v.toNat % 2 ^ 21 then none else some (.csrRsp (BitVec.ofNat 64 (v.toNat % 2 ^ 21))) := by
  simp [csrwAct]

theorem writeSpecialRegister : WriteSpecialRegister := by
  rintro s x pd n a hr ⟨t, r, hag⟩ A top
  have hu : onTroupe x = true := by simp only [onTroupe, hag]
  have writes {act : Act} (h : csrwAct true n.toNat A = some act) : Later (.csrw pd n a) s x [0x01] [(1, act, 0)] :=
    csrw_writes hr (hu.symm ▸ h)
  have raises (h : csrwAct true n.toNat A = none) : Raises (.csrw pd n a) s x illegalOperand :=
    csrw_raises hr (hu.symm ▸ h)
  have ne {m : BitVec 12} (h : n ≠ m) : n.toNat ≠ m.toNat := fun e => h (BitVec.eq_of_toNat_eq e)
  refine ⟨?_, fun k hn => writes (csrwAct_loopc _ hn _), ?_, ?_, ?_, fun h0 h30 h40 hn =>
    raises (csrwAct_other (ne h0) (ne h30) (ne h40) hn _)⟩
  · rintro rfl; exact writes rfl
  · rintro rfl h1 h2; exact writes ((csrwAct_rsp A).trans (if_neg (by omega)))
  · rintro rfl h; exact raises ((csrwAct_rsp A).trans (if_pos h))
  · rintro rfl; exact writes rfl

theorem managementRegisters : ManagementRegisters := by
  intro s x pd d a n m hr hag A
  have hu : onTroupe x = false := by simp only [onTroupe, hag]
  have hcsr := csr_mgmt (s := s) hag n.toNat
  have hf := readsFlags_mgmt hag n.toNat
  refine ⟨?_, fun k hn => ⟨csrr_reads hr (hcsr.trans ?_) hf, csrw_writes hr (csrwAct_loopc _ hn _)⟩,
    fun hn => ⟨fun h2 => csrr_raises hr (hcsr.trans ?_), csrw_raises hr (hu.symm ▸ csrwAct_mgmt hn _)⟩⟩
  · rintro rfl; exact csrr_reads hr hcsr hf
  · rw [if_neg (by omega), loopcAt_eq _ k.isLt hn]
  · have h2' : n.toNat ≠ 0x002 := fun e => h2 (BitVec.eq_of_toNat_eq e)
    rw [if_neg h2', loopcAt_none _ hn]

/-- Settles O7: a read gives what the table of R66 (`csr_core`) or of R403 (`csr_mgmt`) lists, a write has the one effect that
`csrwAct` names, and a register without a value or an effect raises illegal-operand. -/
theorem specialRegisterAccess : Obligations.SpecialRegisterAccess :=
  ⟨readSpecialRegister, writeSpecialRegister, managementRegisters⟩

end Sys2Proof.Proofs.NumberFormats
end

section
/-! Passes of the matrix unit (R61, R199 to R202): how a pass begins or faults, and the sum of an integer element. -/

namespace Sys2Proof.Proofs.NumberFormats

open Sys2Proof Sys2Proof.Machine Sys2Proof.Claims

/-! ## What the issue checks of a pass read -/

theorem fmtIn_iff (l : List Nat) (f : BitVec 32) : fmtIn l f = true ↔ (f.extractLsb' 0 4).toNat ∈ l := by
  simp [fmtIn, fmtCode]

theorem width_pos (f : BitVec 32) : 0 < (fmtOf f).width := by
  unfold fmtOf
  dsimp only
  split <;> simp [Fmt.width, FF.width]

theorem rowBytes_pos (q : Pass) : 0 < q.rowBytes := by
  have hw := width_pos q.fda
  unfold Pass.rowBytes
  split <;> omega

/-- A footprint that R195 admits passes the checks. -/
theorem footprint_none {c : Core} {al b n : Nat} (hn : 0 < n) (h : MayTouch c al b n) : c.footprint al b n = none := by
  obtain ⟨hal, hend, hheld⟩ := h
  rw [Core.footprint, if_neg (by omega), if_neg (by omega), (ExecutionModel.holds_iff c b n hn).2 hheld]
  rfl

/-- The checks of R201 and R202 raise no other cause than structural. -/
theorem passFault_some {c : Core} {now acc wb lanes last : Nat} (h : c.passFault now acc wb lanes last ≠ none) :
    c.passFault now acc wb lanes last = some structural := by
  rw [Core.passFault] at h ⊢
  exact if_pos (by_contra fun hn => h (if_neg hn))

/-- A buffer holds INT32 exactly where its format is one of the two integer ones. -/
theorem isInt_iff (w : WBuf) : w.isInt = true ↔ w.wf = 6 ∨ w.wf = 9 := by simp [WBuf.isInt]

/-! ## How a pass begins -/

/-- Effects scheduled one after another stand in their order at the end of the pending ones. -/
theorem foldl_sched {x : Iss} (at' : Nat → Nat) (act : Nat → Act) (l : List Nat) {c : Core} (hpc : c.pc = x.core.pc)
    (hr : c.rtnOn = x.core.rtnOn) : l.foldl (fun c i => c.sched x (at' i) (act i)) c =
      { c with pend := c.pend ++ l.map fun i => due x (at' i, act i, 0) } := by
  induction l generalizing c with
  | nil => simp
  | cons i l ih =>
    have hd : c.sched x (at' i) (act i) = { c with pend := c.pend ++ [due x (at' i, act i, 0)] } := by
      rw [Core.sched_eq, hpc, hr]; rfl
    rw [List.foldl_cons, ih (c := c.sched x (at' i) (act i)) hpc hr, hd]
    simp

/-- The bank access of the pass's first row, of which `rtn` says whether it is a routine's (R199). -/
def firstRow (x : Iss) (q : Pass) (rtn : Option Nat) : Access :=
  spanAccess (posOf x.ag) { due x (0, .aRow q.id 0, 0) with rtn := rtn } q.addr q.rowBytes false

/-- The issuing core after pass `q` of word `x` has begun, behind the effects `pre` of the same word; row i of A is due at
issue + `entry i` (R199, R200). -/
def passBegun (x : Iss) (q : Pass) (pre : List Pend) (entry : Nat → Nat) : Core :=
  let c := x.core
  { c with
    nextId := c.nextId + 1, passes := c.passes ++ [q], acc70 := firstRow x q c.rtnOn :: c.acc70,
    chg := c.chg ++ [(c.die, if q.lanes = 2 then 0x07 else 0x08, 1)],
    pend := c.pend ++ pre ++ [due x (131, .accRow q.id 0 (q.readRow c.bank 0).1, (q.readRow c.bank 0).2)] ++
      (List.range (q.rows - 1)).map fun j => due x (entry (j + 1), .aRow q.id (j + 1), 0) }

/-- A pass whose first row meets no other access of its cycle begins (R70, R199). -/
theorem startPass_begins {x : Iss} {q : Pass} (pre : List Pend) (kp : Nat)
    (hfree : ∀ b ∈ x.core.acc70, (firstRow x q x.core.rtnOn).clash b = false) :
    ({ x.core with pend := x.core.pend ++ pre } : Core).startPass x q kp = .done (passBegun x q pre (entryOf q.int kp)) := by
  have hany : (x.core.acc70.any fun b => (firstRow x q x.core.rtnOn).clash b) = false := by simpa using hfree
  have hrows : (tab (q.rows - 1) fun i => i + 1) = (List.range (q.rows - 1)).map fun j => j + 1 := Laws.Network.tab_eq_map ..
  unfold Core.startPass
  dsimp only
  rw [if_neg (by rw [Bool.not_eq_true]; exact hany), foldl_sched (entryOf q.int kp) (.aRow q.id), hrows, List.map_map] <;> rfl

/-! ## The two words -/

section
variable {s : State} {x : Iss} {pd : Pd} {acc : AReg} {wb : WReg} {a : SReg} {f : FReg} {rows : BitVec 7} {xa xb : XReg}
  {sc sp : Bool}

/-- The float pass that `macc` names (R199). -/
def floatPass (x : Iss) (acc : AReg) (wb : WReg) (a : SReg) (f : FReg) (rows : BitVec 7) (xa xb : XReg) (sc : Bool) : Pass :=
  { id := x.core.nextId, iss := x.now, int := false, acc := acc.toNat, wbi := wb.toNat, wb := x.core.wbOf wb,
    addr := (x.core.rs a).toNat, fda := x.core.rf f, rows := rowsOf rows,
    lanes := if fmtIn [3, 4, 6] (x.core.rf f) && decide (3 ≤ (x.core.wbOf wb).wf.toNat) then 1 else 2,
    lastEntry := x.now + rowsOf rows - 1,
    scale := if sc then some (x.core.rx xa ++ x.core.rx (xa + 1), x.core.rx xb ++ x.core.rx (xb + 1)) else none }

/-- The integer pass that `maccp` names (R200). -/
def intPass (x : Iss) (acc : AReg) (wb : WReg) (a : SReg) (f : FReg) (rows : BitVec 7) : Pass :=
  { id := x.core.nextId, iss := x.now, int := true, acc := acc.toNat, wbi := wb.toNat, wb := x.core.wbOf wb,
    addr := (x.core.rs a).toNat, fda := x.core.rf f, rows := rowsOf rows, lanes := 2,
    lastEntry := x.now + (rowsOf rows - 1) * (x.core.wbOf wb).kp / 16, scale := none }

/-- The occupancy check of pass `q` of word `x`. -/
def occupied (x : Iss) (q : Pass) : Option Exc := x.core.passFault x.now q.acc q.wbi q.lanes q.lastEntry

/-- The operands of `macc` that raise illegal-operand (R199). -/
def maccBad (x : Iss) (acc : AReg) (wb : WReg) (f : FReg) (sc sp : Bool) : Bool :=
  sp != (x.core.wbOf wb).spa || (sc && (x.core.wbOf wb).spa) || !fmtIn [1, 2, 3, 4, 6] (x.core.rf f) || (x.core.accOf acc).int

/-- The operands of `maccp` that raise illegal-operand (R200). -/
def maccpBad (x : Iss) (acc : AReg) (wb : WReg) (f : FReg) : Bool :=
  let k := x.core.accOf acc
  !(x.core.wbOf wb).isInt || (x.core.wbOf wb).spa || !k.int || fmtCode (x.core.rf f) ≠ (if k.frac = 9 then 3 else 6)

/-- With scales `maccp` replaces the tags of its accumulator at issue+1 (R200). -/
def newTags (x : Iss) (acc : AReg) (xa xb : XReg) (sc : Bool) : List Pend :=
  if sc then [due x (1, .mtags acc.toNat ((x.core.rx xa).take 128) ((x.core.rx xb).take 128), 0)] else []

/-- The core from which `maccp` begins its pass. -/
def tagged (x : Iss) (acc : AReg) (xa xb : XReg) (sc : Bool) : Core :=
  if sc then x.core.sched x 1 (.mtags acc.toNat ((x.core.rx xa).take 128) ((x.core.rx xb).take 128)) else x.core

theorem tagged_eq (x : Iss) (acc : AReg) (xa xb : XReg) (sc : Bool) :
    tagged x acc xa xb sc = { x.core with pend := x.core.pend ++ newTags x acc xa xb sc } := by
  cases sc
  · rw [newTags, if_neg (by decide), List.append_nil]; rfl
  · rfl

theorem exec_macc (h : Runs s x pd) (hb : maccBad x acc wb f sc sp = false) {q : Pass}
    (hq : floatPass x acc wb a f rows xa xb sc = q) : exec (.macc pd acc wb a f rows xa xb sc sp) s = .next (s.finish x
      (match firstExc [x.core.footprint 4096 q.addr (q.rows * q.rowBytes), occupied x q] with
      | some e => .exc e
      | none => x.core.startPass x q 8)) := by
  subst hq
  exact (coreWord_of_active_none _ h.1 h.2).trans
    (congrArg (fun r => Host.Outcome.next (s.finish x r)) (if_neg (Bool.eq_false_iff.1 hb)))

theorem exec_maccp (h : Runs s x pd) (hb : maccpBad x acc wb f = false) {q : Pass}
    (hq : intPass x acc wb a f rows = q) : exec (.maccp pd acc wb a f rows xa xb sc) s = .next (s.finish x
      (match firstExc [x.core.footprint 4096 q.addr (q.rows * 128), occupied x q] with
      | some e => .exc e
      | none => (tagged x acc xa xb sc).startPass x q q.wb.kp)) := by
  subst hq
  exact (coreWord_of_active_none _ h.1 h.2).trans
    (congrArg (fun r => Host.Outcome.next (s.finish x r)) (if_neg (Bool.eq_false_iff.1 hb)))

theorem macc_illegal (h : Runs s x pd) (hb : maccBad x acc wb f sc sp = true) :
    Raises (.macc pd acc wb a f rows xa xb sc sp) s x illegalOperand :=
  (coreWord_of_active_none _ h.1 h.2).trans (congrArg (fun r => Host.Outcome.next (s.finish x r)) (if_pos hb))

theorem maccp_illegal (h : Runs s x pd) (hb : maccpBad x acc wb f = true) :
    Raises (.maccp pd acc wb a f rows xa xb sc) s x illegalOperand :=
  (coreWord_of_active_none _ h.1 h.2).trans (congrArg (fun r => Host.Outcome.next (s.finish x r)) (if_pos hb))

theorem macc_begins (h : Runs s x pd) (hb : maccBad x acc wb f sc sp = false) {q : Pass}
    (hq : floatPass x acc wb a f rows xa xb sc = q) (hm : MayTouch x.core 4096 q.addr (q.rows * q.rowBytes))
    (ho : occupied x q = none) (hfree : ∀ b ∈ x.core.acc70, (firstRow x q x.core.rtnOn).clash b = false) :
    Leaves (.macc pd acc wb a f rows xa xb sc sp) s x (passBegun x q [] fun i => i) := by
  have hn : 0 < q.rows * q.rowBytes := Nat.mul_pos (hq ▸ Nat.succ_pos _) (rowBytes_pos q)
  have hstart := startPass_begins [] 8 hfree
  rw [List.append_nil] at hstart
  rw [Leaves, exec_macc h hb hq, footprint_none hn hm, ho]
  simp only [firstExc, hstart]
  subst hq
  rfl

theorem maccp_begins (h : Runs s x pd) (hb : maccpBad x acc wb f = false) {q : Pass} (hq : intPass x acc wb a f rows = q)
    (hm : MayTouch x.core 4096 q.addr (q.rows * 128)) (ho : occupied x q = none)
    (hfree : ∀ b ∈ x.core.acc70, (firstRow x q x.core.rtnOn).clash b = false) :
    Leaves (.maccp pd acc wb a f rows xa xb sc) s x
      (passBegun x q (newTags x acc xa xb sc) fun i => i * q.wb.kp / 16) := by
  have hn : 0 < q.rows * 128 := Nat.mul_pos (hq ▸ Nat.succ_pos _) (by decide)
  rw [Leaves, exec_maccp h hb hq, footprint_none hn hm, ho]
  simp only [firstExc, tagged_eq, startPass_begins _ q.wb.kp hfree]
  subst hq
  rfl

theorem macc_structural (h : Runs s x pd) (hb : maccBad x acc wb f sc sp = false) {q : Pass}
    (hq : floatPass x acc wb a f rows xa xb sc = q) (hm : MayTouch x.core 4096 q.addr (q.rows * q.rowBytes))
    (ho : occupied x q ≠ none) : Raises (.macc pd acc wb a f rows xa xb sc sp) s x structural := by
  have hn : 0 < q.rows * q.rowBytes := Nat.mul_pos (hq ▸ Nat.succ_pos _) (rowBytes_pos q)
  rw [Raises, exec_macc h hb hq, footprint_none hn hm, show occupied x q = some structural from passFault_some ho]
  rfl

end

/-- The lanes that `macc` takes: one where both operands are of the narrow formats (R199). -/
theorem lanes_eq (f : BitVec 32) (w : WBuf) : (if fmtIn [3, 4, 6] f && decide (3 ≤ w.wf.toNat) then 1 else 2) =
    if (f.extractLsb' 0 4).toNat ∈ [3, 4, 6] ∧ 3 ≤ w.wf.toNat then 1 else 2 := by
  simp only [Bool.and_eq_true, fmtIn_iff, decide_eq_true_eq]

theorem maccBad_false {x : Iss} {acc : AReg} {wb : WReg} {f : FReg} {sc sp : Bool} (hsp : sp = (x.core.wbOf wb).spa)
    (hsc : sc = true → (x.core.wbOf wb).spa = false) (hcode : ((x.core.rf f).extractLsb' 0 4).toNat ∈ [1, 2, 3, 4, 6])
    (hint : (x.core.accOf acc).int = false) : maccBad x acc wb f sc sp = false := by
  rw [maccBad, (fmtIn_iff ..).2 hcode, hint, hsp]
  simpa using hsc

theorem maccpBad_false {x : Iss} {acc : AReg} {wb : WReg} {f : FReg} (hw : (x.core.wbOf wb).isInt = true)
    (hspa : (x.core.wbOf wb).spa = false) (hint : (x.core.accOf acc).int = true)
    (hcode : fmtCode (x.core.rf f) = if (x.core.accOf acc).frac = 9 then 3 else 6) : maccpBad x acc wb f = false := by
  simp only [maccpBad, hw, hspa, hint, hcode]
  simp

theorem floatAndIntegerPasses : FloatAndIntegerPasses := by
  intro s x pd acc wb a f rows xa xb sc sp hr c w k fd code A r begun
  refine ⟨?_, ?_, ?_, fun hint => ?_, fun hint => ?_⟩
  · rintro lanes rfl q hsp hsc hcode hint hm ho hfree
    have hq : floatPass x acc wb a f rows xa xb sc = q := by
      rw [floatPass, lanes_eq]; rfl
    exact ⟨_, macc_begins hr (maccBad_false hsp hsc hcode hint) hq hm ho hfree⟩
  · intro last q hw hspa hint hcode hm ho hfree
    have hbad := maccpBad_false ((isInt_iff w).2 hw) hspa hint hcode
    exact ⟨_, maccp_begins hr hbad rfl hm ho hfree⟩
  · rintro lanes rfl hsp hsc hcode hint hm ho
    have hq : floatPass x acc wb a f rows xa xb sc = { floatPass x acc wb a f rows xa xb sc with
        lanes := if code ∈ [3, 4, 6] ∧ 3 ≤ w.wf.toNat then 1 else 2 } := by
      rw [floatPass, lanes_eq]; rfl
    exact macc_structural hr (maccBad_false hsp hsc hcode hint) hq hm ho
  · exact macc_illegal hr (by rw [maccBad, show (x.core.accOf acc).int = true from hint]; simp)
  · exact maccp_illegal hr (by rw [maccpBad, show (x.core.accOf acc).int = false from hint]; simp)

/-! ## An integer element -/

theorem intCode_lt (w : Nat) (i : Int) : intCode w i < 2 ^ w := by
  have h0 : (0 : Int) < 2 ^ w := by positivity
  have h1 := Int.emod_nonneg i h0.ne'
  have h2 := Int.emod_lt_of_pos i h0
  zify [intCode]
  rwa [Int.toNat_of_nonneg h1]

theorem ofNat_intCode (w : Nat) (i : Int) : BitVec.ofNat w (intCode w i) = BitVec.ofInt w i := by
  apply BitVec.eq_of_toNat_eq
  rw [BitVec.toNat_ofNat, Nat.mod_eq_of_lt (intCode_lt w i), BitVec.toNat_ofInt, intCode]
  push_cast; rfl

/-- Clamping to INT32 saturates at its limits, with OF (R54, R61). -/
theorem clampInt_int32 (i : Int) : clampInt i 32 true =
    (intCode 32 (max (-2 ^ 31) (min (2 ^ 31 - 1) i)), if i < -2 ^ 31 ∨ 2 ^ 31 - 1 < i then OF else 0) := by
  have hmin : intMin 32 true = -2 ^ 31 := rfl
  have hmax : intMax 32 true = 2 ^ 31 - 1 := rfl
  rw [clampInt, hmin, hmax]
  by_cases hlo : i < -2 ^ 31
  · rw [if_pos hlo, if_pos (.inl hlo)]
    congr 2; omega
  · by_cases hhi : 2 ^ 31 - 1 < i
    · rw [if_neg hlo, if_pos hhi, if_pos (.inr hhi)]
      congr 2; omega
    · rw [if_neg hlo, if_neg hhi, if_neg (by omega)]
      congr 2; omega

/-- An accumulator element of INT32 holds its value below bit 32 and its NaN marker in that bit (R58, R61). -/
theorem int_element (n : Nat) (hn : n < 2 ^ 32) (m : Bool) :
    (BitVec.ofNat 34 (n + bit m * 2 ^ 32)).extractLsb' 0 32 = BitVec.ofNat 32 n ∧
    (BitVec.ofNat 34 (n + bit m * 2 ^ 32)).getLsbD 32 = m := by
  constructor
  · apply BitVec.eq_of_toNat_eq
    rw [BitVec.extractLsb'_toNat, BitVec.toNat_ofNat, BitVec.toNat_ofNat, Nat.shiftRight_zero]
    omega
  · rw [BitVec.getLsbD_ofNat, Nat.add_comm, Nat.mul_comm, Nat.testBit_two_pow_mul_add _ hn]
    cases m <;> rfl

theorem integerAccumulate : IntegerAccumulate := by
  intro acc sum nan r exact
  have hlow : acc.truncate 32 = acc.extractLsb' 0 32 :=
    BitVec.eq_of_toNat_eq (by simp [BitVec.extractLsb'_toNat])
  have hc := clampInt_int32 exact
  have hr : r = (BitVec.ofNat 34 (intCode 32 (max (-2 ^ 31) (min (2 ^ 31 - 1) exact)) + bit (nan || acc.getLsbD 32) * 2 ^ 32),
      (if exact < -2 ^ 31 ∨ 2 ^ 31 - 1 < exact then OF else 0) ||| flagIf nan NFC) := by
    show passElemInt acc sum nan = _
    rw [passElemInt, hlow, hc]; rfl
  obtain ⟨hval, hmark⟩ := int_element _ (intCode_lt 32 (max (-2 ^ 31) (min (2 ^ 31 - 1) exact))) (nan || acc.getLsbD 32)
  rw [hr]
  refine ⟨?_, hmark, ?_⟩
  · rw [hval, ofNat_intCode, BitVec.toInt_ofInt_eq_self (by decide) (by omega) (by omega)]
  · by_cases h : exact < -2 ^ 31 ∨ 2 ^ 31 - 1 < exact
    · simp only [h, iff_true]
      cases nan <;> rfl
    · simp only [h, iff_false]
      cases nan <;> decide

/-- Settles O28: a pass that passes its checks begins (`startPass_begins`), one that fails them raises their cause, and an
integer element is its clamped sum beside its marker. -/
theorem matrixPasses : Obligations.MatrixPasses := ⟨floatAndIntegerPasses, integerAccumulate⟩

end Sys2Proof.Proofs.NumberFormats
end

section
/-! `round_to` (R51 to R53): the exponent and the significand that it forms, the code that it packs them in, and where it
overflows; from these the rounding of every exact value in every format, mode and saturation. -/

namespace Sys2Proof.Proofs.NumberFormats

open Sys2Proof Sys2Proof.Machine Sys2Proof.Claims

/-! ## Rounding to an integer -/

/-- The nearest integer, to even in a tie, of `f + t` (R51). -/
theorem roundInt_rne {n : Bool} {f : Nat} {t : ℚ} (h0 : 0 ≤ t) (h1 : t < 1) {up : Bool}
    (hup : up = true ↔ 1 / 2 < t ∨ t = 1 / 2 ∧ f % 2 = 1) : RoundInt .rne n (f + t) (if up then f + 1 else f) := by
  cases up with
  | false =>
    have h : ¬ (1 / 2 < t ∨ t = 1 / 2 ∧ f % 2 = 1) := by simpa using hup
    push Not at h
    rw [if_neg (by decide), RoundInt, add_sub_cancel_left, abs_of_nonneg h0]
    rcases h.1.lt_or_eq with hlt | heq
    · exact .inl hlt
    · exact .inr ⟨heq, by have := h.2 heq; omega⟩
  | true =>
    have h := hup.1 rfl
    have ha : |(f : ℚ) + t - ((f + 1 : Nat) : ℚ)| = 1 - t := by
      rw [show (f : ℚ) + t - ((f + 1 : Nat) : ℚ) = -(1 - t) by push_cast; ring, abs_neg, abs_of_pos (by linarith)]
    rw [if_pos rfl, RoundInt, ha]
    rcases h with hgt | ⟨heq, hodd⟩
    · exact .inl (by linarith)
    · exact .inr ⟨by linarith, by omega⟩

/-- The next integer not below `f + t`, as the modes that round away from zero take it (R51). -/
theorem ceil_bounds {f : Nat} {t : ℚ} (h0 : 0 ≤ t) (h1 : t < 1) {up : Bool} (hup : up = true ↔ t ≠ 0) :
    (((if up then f + 1 else f : Nat) : ℚ) - 1 < f + t) ∧ (f : ℚ) + t ≤ (if up then f + 1 else f : Nat) := by
  cases up with
  | false =>
    have ht : t = 0 := by simpa using hup
    rw [if_neg (by decide), ht]
    exact ⟨by linarith, by linarith⟩
  | true =>
    have ht : 0 < t := h0.lt_of_ne' (hup.1 rfl)
    rw [if_pos rfl, Nat.cast_succ]
    exact ⟨by linarith, by linarith⟩

/-- `rnd_int` of R52 rounds the quotient of its operands. -/
theorem roundInt_rndInt (a d : Nat) (hd : d ≠ 0) (mode : RMode) (n : Bool) :
    RoundInt mode n ((a : ℚ) / d) (rndInt a d mode n) := by
  have hd0 : (0 : ℚ) < d := by positivity
  obtain ⟨t, ht⟩ : ∃ t : ℚ, t = (a % d : Nat) / d := ⟨_, rfl⟩
  have hrt : ((a % d : Nat) : ℚ) = t * d := by rw [ht]; field_simp
  have hq : (a : ℚ) / d = (a / d : Nat) + t := by
    have ha : (a : ℚ) = d * (a / d : Nat) + (a % d : Nat) := by exact_mod_cast (Nat.div_add_mod a d).symm
    rw [ht]; field_simp; exact ha
  have h0 : 0 ≤ t := by rw [ht]; positivity
  have h1 : t < 1 := by rw [ht, div_lt_one hd0]; exact_mod_cast Nat.mod_lt a (Nat.pos_of_ne_zero hd)
  have hhalf : d < 2 * (a % d) ↔ 1 / 2 < t := by
    rw [← Nat.cast_lt (α := ℚ), Nat.cast_mul, hrt, Nat.cast_ofNat, ← mul_assoc, lt_mul_iff_one_lt_left hd0, div_lt_iff₀' two_pos]
  have htie : 2 * (a % d) = d ↔ t = 1 / 2 := by
    rw [← Nat.cast_inj (R := ℚ), Nat.cast_mul, hrt, Nat.cast_ofNat, ← mul_assoc, mul_eq_right₀ hd0.ne', eq_div_iff two_ne_zero,
      mul_comm t]
  have hz : a % d = 0 ↔ t = 0 := by
    rw [← Nat.cast_inj (R := ℚ), hrt, Nat.cast_zero, mul_eq_zero, or_iff_left hd0.ne']
  have hfloor : ((a / d : Nat) : ℚ) ≤ (a / d : Nat) + t ∧ ((a / d : Nat) : ℚ) + t < (a / d : Nat) + 1 :=
    ⟨by linarith, by linarith⟩
  rw [hq]
  unfold rndInt
  cases mode with
  | rne => exact roundInt_rne h0 h1 (by simp [hhalf, htie])
  | rna =>
    have hle : d ≤ 2 * (a % d) ↔ 1 / 2 ≤ t := by rw [le_iff_lt_or_eq, hhalf, eq_comm, htie, le_iff_lt_or_eq, eq_comm (a := t)]
    by_cases h : 1 / 2 ≤ t
    · simp only [hle, h, decide_true, if_true, RoundInt, Nat.cast_succ]
      exact ⟨by linarith, by linarith⟩
    · simp only [hle, h, decide_false, Bool.false_eq_true, if_false, RoundInt]
      exact ⟨by linarith, by linarith⟩
  | rtz => exact hfloor
  | rup =>
    cases n with
    | false => exact ceil_bounds h0 h1 (by simp [hz])
    | true => simpa [RoundInt] using hfloor
  | rdn =>
    cases n with
    | false => simpa [RoundInt] using hfloor
    | true => exact ceil_bounds h0 h1 (by simp [hz])

/-- A rounded value is within 1 of what it rounds. -/
theorem abs_sub_lt_one {mode : RMode} {n : Bool} {q : ℚ} {k : Nat} (h : RoundInt mode n q k) : |q - k| < 1 := by
  cases mode with
  | rne => rcases h with h | ⟨h, -⟩ <;> linarith
  | rna | rtz =>
    obtain ⟨h1, h2⟩ := h
    exact abs_lt.2 ⟨by linarith, by linarith⟩
  | rup | rdn =>
    cases n <;> obtain ⟨h1, h2⟩ := h <;> exact abs_lt.2 ⟨by linarith, by linarith⟩

/-- Rounding stays below a whole number that bounds the value. -/
theorem le_of_roundInt {mode : RMode} {n : Bool} {q : ℚ} {k m : Nat} (h : RoundInt mode n q k) (hq : q < m) : k ≤ m := by
  have h1 := (abs_lt.1 (abs_sub_lt_one h)).1
  have h2 : (k : ℚ) < (m + 1 : Nat) := by push_cast; linarith
  exact Nat.lt_succ_iff.1 (by exact_mod_cast h2)

/-- Rounding stays at or above a whole number that the value reaches. -/
theorem ge_of_roundInt {mode : RMode} {n : Bool} {q : ℚ} {k m : Nat} (h : RoundInt mode n q k) (hq : (m : ℚ) ≤ q) : m ≤ k := by
  have h1 := (abs_lt.1 (abs_sub_lt_one h)).2
  have h2 : (m : ℚ) < (k + 1 : Nat) := by push_cast; linarith
  exact Nat.lt_succ_iff.1 (by exact_mod_cast h2)

/-- A whole number is rounded to itself. -/
theorem roundInt_whole {mode : RMode} {n : Bool} {k m : Nat} (h : RoundInt mode n m k) : k = m := by
  have h1 := abs_lt.1 (abs_sub_lt_one h)
  have h2 : (k : ℚ) < (m + 1 : Nat) := by push_cast; linarith
  have h3 : (m : ℚ) < (k + 1 : Nat) := by push_cast; linarith
  exact le_antisymm (Nat.lt_succ_iff.1 (by exact_mod_cast h2)) (Nat.lt_succ_iff.1 (by exact_mod_cast h3))

/-! ## Powers of two -/

theorem two_zpow_split (k : Int) : (2 : ℚ) ^ k = 2 ^ k.toNat / 2 ^ (-k).toNat := by
  rcases le_total 0 k with h | h
  · rw [show (-k).toNat = 0 by omega, pow_zero, div_one, ← zpow_natCast, Int.toNat_of_nonneg h]
  · rw [show k.toNat = 0 by omega, pow_zero, one_div, ← zpow_natCast, Int.toNat_of_nonneg (by omega), zpow_neg, inv_inv]

/-- The quotient of the operands that the model scales by a power of two (R52). -/
theorem scaled_div (num den : Nat) (k : Int) :
    ((num * 2 ^ k.toNat : Nat) : ℚ) / (den * 2 ^ (-k).toNat : Nat) = num / den * 2 ^ k := by
  rw [two_zpow_split]; push_cast; rw [mul_div_mul_comm]

theorem log2_bounds {n : Nat} (hn : n ≠ 0) : (2 : ℚ) ^ (n.log2 : Int) ≤ n ∧ (n : ℚ) < 2 ^ ((n.log2 : Int) + 1) := by
  have h1 : 2 ^ n.log2 ≤ n := Nat.log2_self_le hn
  have h2 : n < 2 ^ (n.log2 + 1) := Nat.lt_log2_self
  constructor
  · rw [zpow_natCast]; exact_mod_cast h1
  · rw [← Nat.cast_succ, zpow_natCast]; exact_mod_cast h2

/-- `floorLog2` is the exponent of the binade of a positive quotient. -/
theorem floorLog2_bounds {num den : Nat} (hn : num ≠ 0) (hd : den ≠ 0) :
    (2 : ℚ) ^ floorLog2 num den ≤ num / den ∧ (num : ℚ) / den < 2 ^ (floorLog2 num den + 1) := by
  obtain ⟨n1, n2⟩ := log2_bounds hn
  obtain ⟨d1, d2⟩ := log2_bounds hd
  have hd0 : (0 : ℚ) < den := by positivity
  obtain ⟨k, hk⟩ : ∃ k : Int, k = (num.log2 : Int) - den.log2 := ⟨_, rfl⟩
  have hlow : (2 : ℚ) ^ (k - 1) ≤ num / den := by
    rw [le_div_iff₀ hd0]
    calc (2 : ℚ) ^ (k - 1) * den ≤ 2 ^ (k - 1) * 2 ^ ((den.log2 : Int) + 1) := by gcongr
      _ = 2 ^ (num.log2 : Int) := by rw [← zpow_add₀ two_ne_zero]; congr 1; omega
      _ ≤ num := n1
  have hhigh : (num : ℚ) / den < 2 ^ (k + 1) := by
    rw [div_lt_iff₀ hd0]
    calc (num : ℚ) < 2 ^ ((num.log2 : Int) + 1) := n2
      _ = 2 ^ (k + 1) * 2 ^ (den.log2 : Int) := by rw [← zpow_add₀ two_ne_zero]; congr 1; omega
      _ ≤ 2 ^ (k + 1) * den := by gcongr
  have htest : num * 2 ^ (-k).toNat < den * 2 ^ k.toNat ↔ (num : ℚ) / den < 2 ^ k := by
    rw [two_zpow_split, div_lt_div_iff₀ hd0 (by positivity), mul_comm (2 ^ k.toNat : ℚ)]
    exact_mod_cast Iff.rfl
  rw [floorLog2, ← hk]
  by_cases h : num * 2 ^ (-k).toNat < den * 2 ^ k.toNat
  · rw [if_pos h, sub_add_cancel]
    exact ⟨hlow, htest.1 h⟩
  · rw [if_neg h]
    exact ⟨not_lt.1 (mt htest.2 h), hhigh⟩

/-! ## Formats -/

/-- What every float format keeps: its greatest significand is normal, its exponents fit in their field (R41). -/
theorem format_bounds (f : FF) : 2 ^ f.mb ≤ f.maxSig ∧ f.maxSig < 2 ^ f.prec ∧ f.emin ≤ f.emax ∧ 0 < f.emax + f.bias ∧
    (f.emax + f.bias).toNat < 2 ^ f.eb ∧ f.emin = 1 - f.bias := by
  cases f <;> decide

theorem two_pow_prec (f : FF) : 2 ^ f.prec = 2 * 2 ^ f.mb := by rw [FF.prec, pow_succ, mul_comm]

/-- The value of a code whose fields are given (R41, R42). -/
theorem codeVal_fields (f : FF) {E M : Nat} (hE : E < 2 ^ f.eb) (hM : M < 2 ^ f.mb) :
    codeVal f (E * 2 ^ f.mb + M) =
      if E = 0 then (M : ℚ) * 2 ^ (f.emin - f.mb) else (2 ^ f.mb + M : ℚ) * 2 ^ ((E : Int) - f.bias - f.mb) := by
  have hm : 0 < 2 ^ f.mb := by positivity
  have h1 : (E * 2 ^ f.mb + M) / 2 ^ f.mb = E := by
    rw [Nat.add_comm, Nat.add_mul_div_right _ _ hm, Nat.div_eq_of_lt hM, Nat.zero_add]
  have h2 : (E * 2 ^ f.mb + M) % 2 ^ f.mb = M := by
    rw [Nat.add_comm, Nat.add_mul_mod_self_right, Nat.mod_eq_of_lt hM]
  have h3 : (E * 2 ^ f.mb + M) / 2 ^ (f.eb + f.mb) = 0 := by
    rw [Nat.add_comm f.eb, pow_add, ← Nat.div_div_eq_div_mul, h1, Nat.div_eq_of_lt hE]
  obtain ⟨-, -, -, -, -, hemin⟩ := format_bounds f
  simp only [codeVal, h1, h2, h3, Nat.mod_eq_of_lt hE, Nat.zero_mod, Nat.zero_ne_one, if_false, one_mul, hemin]

/-- A sign bit leaves the exponent and the significand of a code (R41). -/
theorem sign_fields (f : FF) (n : Bool) (c : Nat) :
    (bit n * 2 ^ (f.eb + f.mb) + c) % 2 ^ f.mb = c % 2 ^ f.mb ∧
    (bit n * 2 ^ (f.eb + f.mb) + c) / 2 ^ f.mb % 2 ^ f.eb = c / 2 ^ f.mb % 2 ^ f.eb := by
  have hsplit : bit n * 2 ^ (f.eb + f.mb) = 2 ^ f.mb * (2 ^ f.eb * bit n) := by ring
  rw [hsplit, Nat.mul_add_mod, Nat.mul_add_div (by positivity), Nat.mul_add_mod]
  exact ⟨rfl, rfl⟩

/-- A sign bit negates the value of a code. -/
theorem codeVal_sign (f : FF) (n : Bool) {c : Nat} (hc : c < 2 ^ (f.eb + f.mb)) :
    codeVal f (bit n * 2 ^ (f.eb + f.mb) + c) = (if n then -1 else 1) * codeVal f c := by
  have hs : (bit n * 2 ^ (f.eb + f.mb) + c) / 2 ^ (f.eb + f.mb) = bit n := by
    rw [Nat.add_comm, Nat.add_mul_div_right _ _ (by positivity), Nat.div_eq_of_lt hc, Nat.zero_add]
  obtain ⟨hM, hE⟩ := sign_fields f n c
  simp only [codeVal, hs, hM, hE, Nat.div_eq_of_lt hc, Nat.zero_mod, Nat.zero_ne_one, if_false, one_mul]
  cases n <;> rfl

/-- A significand and its exponent as a float format keeps them: normal, or at the least exponent (R41). -/
def Normal (f : FF) (r : Nat) (e : Int) : Prop := r < 2 ^ f.prec ∧ f.emin ≤ e ∧ (e = f.emin ∨ 2 ^ f.mb ≤ r)

/-- The value of a significand at an exponent. -/
def sigVal (f : FF) (r : Nat) (e : Int) : ℚ := r * 2 ^ (e - f.mb)

/-- A rounded significand, renormalised where it reached the next binade (R52). -/
def renorm (f : FF) (r : Nat) (e : Int) : Nat × Int := if r = 2 ^ f.prec then (2 ^ f.mb, e + 1) else (r, e)

/-- The code of a significand at an exponent, without its sign (R41). -/
def packCode (f : FF) (r : Nat) (e : Int) : Nat :=
  if r < 2 ^ f.mb then r else (e + f.bias).toNat * 2 ^ f.mb + (r - 2 ^ f.mb)

/-- Above the largest finite value (R53). -/
def tooBig (f : FF) (r : Nat) (e : Int) : Bool := decide (f.emax < e) || (e == f.emax && decide (f.maxSig < r))

theorem renorm_normal {f : FF} {r : Nat} {e : Int} (hr : r ≤ 2 ^ f.prec) (he : f.emin ≤ e) (hn : e = f.emin ∨ 2 ^ f.mb ≤ r) :
    Normal f (renorm f r e).1 (renorm f r e).2 ∧ sigVal f (renorm f r e).1 (renorm f r e).2 = sigVal f r e := by
  have hp := two_pow_prec f
  have hm : 0 < 2 ^ f.mb := by positivity
  by_cases h : r = 2 ^ f.prec
  · rw [renorm, if_pos h]
    refine ⟨⟨?_, ?_, .inr le_rfl⟩, ?_⟩
    · omega
    · show f.emin ≤ e + 1
      omega
    · rw [sigVal, sigVal, h, hp, show e + 1 - f.mb = (e - f.mb) + 1 by ring, zpow_add_one₀ two_ne_zero]
      push_cast; ring
  · rw [renorm, if_neg h]
    exact ⟨⟨lt_of_le_of_ne hr h, he, hn⟩, rfl⟩

/-- Of two significands the normal one at the greater exponent has the greater value. -/
theorem sigVal_lt_of_exponent {f : FF} {r r' : Nat} {e e' : Int} (hr : r < 2 ^ f.prec) (hr' : 2 ^ f.mb ≤ r') (he : e < e') :
    sigVal f r e < sigVal f r' e' := by
  have h1 : (r : ℚ) < 2 * 2 ^ f.mb := by rw [two_pow_prec] at hr; exact_mod_cast hr
  have h2 : (2 : ℚ) ^ f.mb ≤ r' := by exact_mod_cast hr'
  calc sigVal f r e < 2 * 2 ^ f.mb * 2 ^ (e - f.mb) := by unfold sigVal; gcongr
    _ = 2 ^ f.mb * 2 ^ (e + 1 - f.mb) := by
      rw [show e + 1 - f.mb = (e - f.mb) + 1 by ring, zpow_add_one₀ two_ne_zero]; ring
    _ ≤ sigVal f r' e' := by
      unfold sigVal
      have h3 : (2 : ℚ) ^ (e + 1 - f.mb) ≤ 2 ^ (e' - f.mb) := zpow_le_zpow_right₀ one_le_two (by omega)
      gcongr

theorem sigVal_lt_iff {f : FF} {r r' : Nat} {e : Int} : sigVal f r e < sigVal f r' e ↔ r < r' := by
  rw [sigVal, sigVal, mul_lt_mul_iff_left₀ (by positivity), Nat.cast_lt]

/-- A significand at an exponent of the format is the value of the code that it is packed in. -/
theorem codeVal_packCode {f : FF} {r : Nat} {e : Int} (h : Normal f r e) (he : e ≤ f.emax) :
    codeVal f (packCode f r e) = sigVal f r e := by
  obtain ⟨hr, hmin, hn⟩ := h
  obtain ⟨-, -, -, -, hE, hemin⟩ := format_bounds f
  rw [two_pow_prec] at hr
  by_cases hsub : r < 2 ^ f.mb
  · obtain rfl : e = f.emin := hn.resolve_right (by omega)
    have hc := codeVal_fields f (E := 0) (by positivity) hsub
    rw [Nat.zero_mul, Nat.zero_add, if_pos rfl] at hc
    rw [packCode, if_pos hsub, hc, sigVal]
  · have hc := codeVal_fields f (E := (e + f.bias).toNat) (M := r - 2 ^ f.mb) (by omega) (by omega)
    rw [packCode, if_neg hsub, hc, if_neg (by omega), sigVal, Int.toNat_of_nonneg (by omega), add_sub_cancel_right,
      Nat.cast_sub (by omega)]
    push_cast; ring

theorem packCode_max (f : FF) : packCode f f.maxSig f.emax = f.maxCode false := by
  rw [packCode, if_neg (not_lt.2 (format_bounds f).1), FF.maxCode, bit, if_neg (by decide), Nat.zero_mul, Nat.zero_add]

/-- The largest finite value (R41). -/
theorem codeVal_maxCode (f : FF) : codeVal f (f.maxCode false) = sigVal f f.maxSig f.emax := by
  obtain ⟨hlow, hhigh, hmin, -⟩ := format_bounds f
  have hc := codeVal_packCode (f := f) ⟨hhigh, hmin, .inr hlow⟩ le_rfl
  rwa [packCode_max] at hc

section
variable {f : FF} {r : Nat} {e : Int} (h : Normal f r e)
include h

/-- A significand is subnormal exactly where its value is below the smallest normal one. -/
theorem subnormal_iff : r < 2 ^ f.mb ↔ sigVal f r e < 2 ^ f.emin := by
  obtain ⟨-, he, hn⟩ := h
  have hz : (2 : ℚ) ^ f.emin = 2 ^ f.mb * 2 ^ (f.emin - f.mb) := by
    rw [← zpow_natCast, ← zpow_add₀ two_ne_zero]; congr 1; ring
  rw [sigVal, hz]
  constructor
  · intro hr
    obtain rfl : e = f.emin := hn.resolve_right (by omega)
    gcongr
    exact_mod_cast hr
  · contrapose!
    intro hr
    have hr' : (2 : ℚ) ^ f.mb ≤ r := by exact_mod_cast hr
    have he' : (2 : ℚ) ^ (f.emin - f.mb) ≤ 2 ^ (e - f.mb) := zpow_le_zpow_right₀ one_le_two (by omega)
    gcongr

/-- The test of R53 for overflow compares with the largest finite value. -/
theorem tooBig_iff : tooBig f r e = true ↔ codeVal f (f.maxCode false) < sigVal f r e := by
  obtain ⟨hr, hmin, hn⟩ := h
  obtain ⟨hlow, hhigh, hle, -⟩ := format_bounds f
  rw [codeVal_maxCode, tooBig, Bool.or_eq_true, Bool.and_eq_true, decide_eq_true_eq, decide_eq_true_eq, beq_iff_eq]
  rcases lt_trichotomy e f.emax with hlt | rfl | hgt
  · have hv := (sigVal_lt_of_exponent hr hlow hlt).not_gt
    exact iff_of_false (by omega) hv
  · rw [sigVal_lt_iff]
    omega
  · have hv := sigVal_lt_of_exponent hhigh (hn.resolve_left (by omega)) hgt
    exact iff_of_true (.inl hgt) hv

/-- The code of a value that does not overflow is at most that of the largest. -/
theorem packCode_le (hb : tooBig f r e = false) : packCode f r e ≤ f.maxCode false := by
  obtain ⟨hr, hmin, hn⟩ := h
  obtain ⟨hlow, hhigh, hle, hpos, -, hemin⟩ := format_bounds f
  simp only [tooBig, Bool.or_eq_false_iff, Bool.and_eq_false_iff, decide_eq_false_iff_not, beq_eq_false_iff_ne] at hb
  obtain ⟨hmax, hsig⟩ := hb
  rw [two_pow_prec] at hr
  rw [← packCode_max, packCode, packCode, if_neg (not_lt.2 hlow)]
  have hone : 2 ^ f.mb ≤ (f.emax + f.bias).toNat * 2 ^ f.mb := Nat.le_mul_of_pos_left _ (by omega)
  by_cases hsub : r < 2 ^ f.mb
  · rw [if_pos hsub]
    omega
  · rw [if_neg hsub]
    rcases (not_lt.1 hmax).lt_or_eq with hlt | rfl
    · have hE : ((e + f.bias).toNat + 1) * 2 ^ f.mb ≤ (f.emax + f.bias).toNat * 2 ^ f.mb :=
        Nat.mul_le_mul_right _ (by omega)
      rw [Nat.succ_mul] at hE
      omega
    · have hs : r ≤ f.maxSig := not_lt.1 (hsig.resolve_left (fun h => h rfl))
      omega

end

/-! ## The steps of `round_to` -/

section
variable (f : FF) (mode : RMode) (n : Bool) (num den : Nat) (exp : Int)

/-- The exponent at which `round_to` rounds (R52). -/
def expOf : Int := max (floorLog2 num den + exp) f.emin

/-- How far the exact value is scaled before it is rounded to an integer. -/
def shiftOf : Int := exp - (expOf f num den exp - f.mb)

/-- The significand that `round_to` rounds to. -/
def sigOf : Nat :=
  rndInt (num * 2 ^ (shiftOf f num den exp).toNat) (den * 2 ^ (-shiftOf f num den exp).toNat) mode n

/-- What `round_to` gives above the largest finite value (R53). -/
def overflow (sat : Bool) : Nat × Fl :=
  if sat || overflowMax mode n then (f.maxCode n, OF ||| NX)
  else (if f.hasInf then f.infCode n else f.canon, OF ||| NX ||| NFP)

/-- The significand loses bits. -/
def inexact : Bool :=
  sigOf f mode n num den exp * (den * 2 ^ (-shiftOf f num den exp).toNat) != num * 2 ^ (shiftOf f num den exp).toNat

variable {f mode n num den exp}

theorem roundTo_fin (hn : num ≠ 0) (sat : Bool) {r' : Nat} {e' : Int}
    (hp : renorm f (sigOf f mode n num den exp) (expOf f num den exp) = (r', e')) :
    roundTo (.fin n num den exp) f mode sat =
      if tooBig f r' e' then overflow f mode n sat
      else (bit n * 2 ^ (f.eb + f.mb) + packCode f r' e',
        flagIf (inexact f mode n num den exp) NX ||| flagIf (inexact f mode n num den exp && decide (r' < 2 ^ f.mb)) UF) := by
  have h : roundTo (.fin n num den exp) f mode sat =
      (let p := renorm f (sigOf f mode n num den exp) (expOf f num den exp)
       if tooBig f p.1 p.2 then
         if sat || overflowMax mode n then (f.maxCode n, OF ||| NX)
         else if f.hasInf then (f.infCode n, OF ||| NX ||| NFP)
         else (f.canon, OF ||| NX ||| NFP)
       else (bit n * 2 ^ (f.eb + f.mb) + packCode f p.1 p.2,
         flagIf (inexact f mode n num den exp) NX ||| flagIf (inexact f mode n num den exp && decide (p.1 < 2 ^ f.mb)) UF)) := by
    rw [roundTo, if_neg hn]
    rfl
  rw [h, hp, overflow]
  cases f.hasInf <;> rfl

theorem expOf_spec (hn : num ≠ 0) (hd : den ≠ 0) : f.emin ≤ expOf f num den exp ∧
    (num / den * 2 ^ exp : ℚ) < 2 ^ (expOf f num den exp + 1) ∧
    (expOf f num den exp = f.emin ∨ 2 ^ expOf f num den exp ≤ (num / den * 2 ^ exp : ℚ)) := by
  obtain ⟨hlow, hhigh⟩ := floorLog2_bounds hn hd
  have hpos : (0 : ℚ) < 2 ^ exp := by positivity
  refine ⟨le_max_right .., ?_, ?_⟩
  · calc (num / den * 2 ^ exp : ℚ) < 2 ^ (floorLog2 num den + 1) * 2 ^ exp := by gcongr
      _ = 2 ^ (floorLog2 num den + exp + 1) := by rw [← zpow_add₀ two_ne_zero]; congr 1; ring
      _ ≤ 2 ^ (expOf f num den exp + 1) := zpow_le_zpow_right₀ one_le_two (by unfold expOf; omega)
  · rcases le_total (floorLog2 num den + exp) f.emin with h | h
    · exact .inl (max_eq_right h)
    · rw [expOf, max_eq_left h, zpow_add₀ two_ne_zero]
      exact .inr (by gcongr)

theorem scaled_eq : ((num * 2 ^ (shiftOf f num den exp).toNat : Nat) : ℚ) / (den * 2 ^ (-shiftOf f num den exp).toNat : Nat) =
    num / den * 2 ^ exp / 2 ^ (expOf f num den exp - f.mb) := by
  rw [scaled_div, shiftOf, zpow_sub₀ two_ne_zero exp, mul_div_assoc]

theorem sigOf_spec (hd : den ≠ 0) : RoundInt mode n (num / den * 2 ^ exp / 2 ^ (expOf f num den exp - f.mb))
    (sigOf f mode n num den exp) := by
  rw [← scaled_eq]
  exact roundInt_rndInt _ _ (by positivity) mode n

theorem inexact_iff (hd : den ≠ 0) : inexact f mode n num den exp = true ↔
    sigVal f (sigOf f mode n num den exp) (expOf f num den exp) ≠ num / den * 2 ^ exp := by
  have hden : ((den * 2 ^ (-shiftOf f num den exp).toNat : Nat) : ℚ) ≠ 0 := by positivity
  have hpow : (2 : ℚ) ^ (expOf f num den exp - f.mb) ≠ 0 := by positivity
  rw [inexact, bne_iff_ne, sigVal, Ne, Ne, ← eq_div_iff hpow, ← scaled_eq, eq_div_iff hden]
  exact_mod_cast Iff.rfl

theorem sigOf_normal (hn : num ≠ 0) (hd : den ≠ 0) : sigOf f mode n num den exp ≤ 2 ^ f.prec ∧
    (expOf f num den exp = f.emin ∨ 2 ^ f.mb ≤ sigOf f mode n num den exp) := by
  obtain ⟨-, hlt, hge⟩ := expOf_spec (f := f) (exp := exp) hn hd
  have hs := sigOf_spec (f := f) (mode := mode) (n := n) (num := num) (exp := exp) hd
  have hpow : (0 : ℚ) < 2 ^ (expOf f num den exp - f.mb) := by positivity
  have hscale (k : Int) : (2 : ℚ) ^ k = 2 ^ (k - (expOf f num den exp - f.mb)) * 2 ^ (expOf f num den exp - f.mb) := by
    rw [← zpow_add₀ two_ne_zero]; congr 1; ring
  constructor
  · refine le_of_roundInt hs ((div_lt_iff₀ hpow).2 (hlt.trans_eq ?_))
    rw [hscale, FF.prec, show expOf f num den exp + 1 - (expOf f num den exp - f.mb) = ((f.mb + 1 : Nat) : Int) by push_cast; ring,
      zpow_natCast]
    push_cast; rfl
  · refine hge.imp_right fun h => ge_of_roundInt hs ((le_div_iff₀ hpow).2 (le_trans (le_of_eq ?_) h))
    rw [hscale (expOf f num den exp), sub_sub_cancel, zpow_natCast]
    push_cast; rfl

end

theorem overflow_eq (f : FF) (mode : RMode) (n sat : Bool) : overflow f mode n sat =
    if sat = true ∨ mode = .rtz ∨ mode = .rup ∧ n = true ∨ mode = .rdn ∧ n = false then (f.maxCode n, OF ||| NX)
    else (if f.hasInf then f.infCode n else f.canon, OF ||| NX ||| NFP) := by
  have h : (sat || overflowMax mode n) = true ↔
      sat = true ∨ mode = .rtz ∨ mode = .rup ∧ n = true ∨ mode = .rdn ∧ n = false := by
    cases mode <;> simp [overflowMax]
  rw [overflow]
  simp only [h]

theorem roundsTo_roundTo {q : ℚ} {num den : Nat} {exp : Int} (hd : den ≠ 0) (hq : |q| = num / den * 2 ^ exp) (f : FF)
    (mode : RMode) (sat n : Bool) : RoundsTo f mode sat q n (roundTo (.fin n num den exp) f mode sat) := by
  have hzero : q = 0 ↔ num = 0 := by
    rw [← abs_eq_zero, hq, mul_eq_zero, or_iff_left (by positivity), div_eq_zero_iff, or_iff_left (by positivity), Nat.cast_eq_zero]
  refine ⟨fun h => by rw [roundTo, if_pos (hzero.1 h)], fun h => ?_⟩
  have hnum : num ≠ 0 := mt hzero.2 h
  obtain ⟨hmin, hlt, hge⟩ := expOf_spec (f := f) (exp := exp) hnum hd
  obtain ⟨hle, hlow⟩ := sigOf_normal (f := f) (mode := mode) (n := n) (exp := exp) hnum hd
  obtain ⟨⟨r', e'⟩, hp⟩ : ∃ p, renorm f (sigOf f mode n num den exp) (expOf f num den exp) = p := ⟨_, rfl⟩
  obtain ⟨hnorm, hval⟩ := renorm_normal hle hmin hlow
  rw [hp] at hnorm hval
  rw [← hq] at hlt hge
  refine ⟨expOf f num den exp, sigOf f mode n num den exp, hmin, hlt, hge, hq ▸ sigOf_spec hd, ?_⟩
  have hy : (sigOf f mode n num den exp : ℚ) * 2 ^ (expOf f num den exp - f.mb) = sigVal f r' e' := hval.symm
  have hx : inexact f mode n num den exp = true ↔ sigVal f r' e' ≠ |q| := by rw [inexact_iff hd, hq, ← hval]
  rw [roundTo_fin hnum sat hp]
  dsimp only
  rw [hy]
  constructor
  · intro hbig
    rw [if_pos ((tooBig_iff hnorm).2 hbig), overflow_eq]
  · intro hfits
    have hb : tooBig f r' e' = false := by rw [← Bool.not_eq_true, tooBig_iff hnorm]; exact not_lt.2 hfits
    rw [if_neg (by rw [hb]; decide)]
    refine ⟨⟨_, packCode_le hnorm hb, rfl, codeVal_packCode hnorm (not_lt.1 fun hgt => ?_)⟩, ?_⟩
    · simp [tooBig, hgt] at hb
    · simp only [← subnormal_iff hnorm]
      by_cases hi : inexact f mode n num den exp = true
      · rw [if_neg (hx.1 hi), hi, Bool.true_and]
        by_cases hs : r' < 2 ^ f.mb <;> simp [hs, flagIf]
      · rw [if_pos (not_not.1 (mt hx.2 hi)), Bool.eq_false_iff.2 hi]
        simp [flagIf]

theorem roundingRule : RoundingRule := by
  intro f mode sat n num den exp hd
  refine roundsTo_roundTo hd ?_ f mode sat n
  rw [abs_mul, abs_of_nonneg (by positivity : (0 : ℚ) ≤ num / den * 2 ^ exp)]
  cases n <;> simp

end Sys2Proof.Proofs.NumberFormats
end

section
/-! The float operations (R59, R62, R143, R147, R157): each forms the exact value and rounds it once. -/

namespace Sys2Proof.Proofs.NumberFormats

open Sys2Proof Sys2Proof.Machine Sys2Proof.Claims

/-! ## Exact values -/

/-- Minus one for a negative sign. -/
def signum (n : Bool) : ℚ := if n then -1 else 1

/-- The exact value that a finite `Num` stands for, and its sign. -/
def HasValue (x : Machine.Num) (q : ℚ) (n : Bool) : Prop :=
  ∃ (num den : Nat) (exp : Int), x = .fin n num den exp ∧ den ≠ 0 ∧ q = signum n * (num / den * 2 ^ exp)

theorem abs_signum_mul (n : Bool) {v : ℚ} (h : 0 ≤ v) : |signum n * v| = v := by
  rw [abs_mul, abs_of_nonneg h]
  cases n <;> simp [signum]

theorem signum_mul_signum (n m : Bool) : signum n * signum m = signum (n != m) := by
  cases n <;> cases m <;> simp [signum]

/-- The sign of a value that is not zero is that of its `Num`. -/
theorem HasValue.sign_eq {x : Machine.Num} {q : ℚ} {n : Bool} (h : HasValue x q n) (hq : q ≠ 0) : n = decide (q < 0) := by
  obtain ⟨num, den, exp, -, -, rfl⟩ := h
  have hv : (0 : ℚ) ≤ num / den * 2 ^ exp := by positivity
  cases n with
  | false => simpa [signum] using hv
  | true =>
    have hpos : (0 : ℚ) < num / den * 2 ^ exp := hv.lt_of_ne' (by rintro h; exact hq (by rw [h, mul_zero]))
    simpa [signum] using hpos

theorem signOf_zero {q : ℚ} {z : Bool} (h : q = 0) : signOf q z = z := if_pos h

theorem signOf_ne {q : ℚ} {z : Bool} (h : q ≠ 0) : signOf q z = decide (q < 0) := if_neg h

theorem HasValue.signOf_eq {x : Machine.Num} {q : ℚ} {n : Bool} (h : HasValue x q n) : signOf q n = n := by
  by_cases hq : q = 0
  · rw [signOf_zero hq]
  · rw [signOf_ne hq, ← h.sign_eq hq]

theorem HasValue.neg {x : Machine.Num} {q : ℚ} {n : Bool} (h : HasValue x q n) : HasValue x.neg (-q) (!n) := by
  obtain ⟨num, den, exp, rfl, hd, rfl⟩ := h
  refine ⟨num, den, exp, rfl, hd, ?_⟩
  cases n <;> simp [signum]

theorem HasValue.mul {x y : Machine.Num} {q r : ℚ} {n m : Bool} (hx : HasValue x q n) (hy : HasValue y r m) :
    HasValue (x.mul y).1 (q * r) (n != m) ∧ (x.mul y).2 = 0 := by
  obtain ⟨num, den, exp, rfl, hd, rfl⟩ := hx
  obtain ⟨num', den', exp', rfl, hd', rfl⟩ := hy
  refine ⟨⟨_, _, _, rfl, Nat.mul_ne_zero hd hd', ?_⟩, rfl⟩
  rw [← signum_mul_signum, zpow_add₀ two_ne_zero]
  push_cast; field_simp

theorem signum_natAbs (v : Int) : signum (decide (v < 0)) * (v.natAbs : ℚ) = v := by
  rcases lt_or_ge v 0 with h | h
  · rw [signum, if_pos (decide_eq_true h), Nat.cast_natAbs, abs_of_neg h]; push_cast; ring
  · rw [signum, if_neg (by simpa using h), Nat.cast_natAbs, abs_of_nonneg h, one_mul]

/-- A term of a sum, over the common denominator at the lesser exponent. -/
theorem cast_at (n : Bool) (a d d' : Nat) {e m : Int} (hd : d ≠ 0) (hd' : d' ≠ 0) (hm : m ≤ e) :
    (Num.at n a d' e m : ℚ) = signum n * (a / d * 2 ^ e) * (d * d') / 2 ^ m := by
  have hpow : (2 : ℚ) ^ (e - m).toNat = 2 ^ e / 2 ^ m := by
    rw [← zpow_natCast, Int.toNat_of_nonneg (by omega), zpow_sub₀ two_ne_zero]
  have hv : (Num.at n a d' e m : ℚ) = signum n * (a * d' * 2 ^ (e - m).toNat) := by
    cases n <;> simp [Num.at, signum]
  rw [hv, hpow]
  field_simp

theorem HasValue.add {x y : Machine.Num} {q r : ℚ} {n m : Bool} (hx : HasValue x q n) (hy : HasValue y r m) :
    HasValue (x.add y).1 (q + r) (signOf (q + r) (n && m)) ∧ (x.add y).2 = 0 := by
  obtain ⟨a, d, e, rfl, hd, hq⟩ := hx
  obtain ⟨a', d', e', rfl, hd', hr⟩ := hy
  obtain ⟨v, hv⟩ : ∃ v, v = Num.at n a d' e (min e e') + Num.at m a' d e' (min e e') := ⟨_, rfl⟩
  have hsum : q + r = v / (d * d') * 2 ^ min e e' := by
    rw [hv, Int.cast_add, cast_at n a d d' hd hd' (min_le_left ..), cast_at m a' d' d hd' hd (min_le_right ..), ← hq, ← hr]
    field_simp
  have hscale : (0 : ℚ) < 2 ^ min e e' / (d * d') := by positivity
  have hsum' : q + r = v * (2 ^ min e e' / (d * d')) := by rw [hsum]; ring
  have hzero : q + r = 0 ↔ v = 0 := by rw [hsum', mul_eq_zero, or_iff_left hscale.ne', Int.cast_eq_zero]
  have hneg : q + r < 0 ↔ v < 0 := by
    rw [hsum', mul_neg_iff, or_iff_right (fun h => hscale.not_gt h.2), and_iff_left hscale, Int.cast_lt_zero]
  have hadd : Machine.Num.add (.fin n a d e) (.fin m a' d' e') =
      if v = 0 then (.fin (n && m) 0 1 0, 0) else (.fin (decide (v < 0)) v.natAbs (d * d') (min e e'), 0) := by
    rw [hv]; rfl
  rw [hadd]
  by_cases h : v = 0
  · rw [if_pos h, signOf_zero (hzero.2 h), hzero.2 h]
    exact ⟨⟨0, 1, 0, rfl, one_ne_zero, by simp⟩, rfl⟩
  · rw [if_neg h, signOf_ne (mt hzero.1 h)]
    refine ⟨⟨v.natAbs, d * d', min e e', by simp only [hneg], Nat.mul_ne_zero hd hd', ?_⟩, rfl⟩
    simp only [hneg]
    rw [hsum, ← signum_natAbs v]
    push_cast; ring

/-! ## Finite codes -/

theorem HasValue.finite {x : Machine.Num} {q : ℚ} {n : Bool} (h : HasValue x q n) : x.finite = true := by
  obtain ⟨_, _, _, rfl, -, -⟩ := h
  rfl

/-- A code that is neither NaN nor infinite stands for its value (R42). -/
theorem decode_hasValue {f : FF} {b : Nat} (hnan : f.isNanCode b = false)
    (hinf : (f.hasInf && b / 2 ^ f.mb % 2 ^ f.eb == 2 ^ f.eb - 1) = false) :
    HasValue (f.decode b) (codeVal f b) (b / 2 ^ (f.eb + f.mb) % 2 == 1) := by
  obtain ⟨-, -, -, -, -, hemin⟩ := format_bounds f
  have hsign : signum (b / 2 ^ (f.eb + f.mb) % 2 == 1) = if b / 2 ^ (f.eb + f.mb) % 2 = 1 then -1 else 1 := by
    simp [signum]
  simp only [FF.decode, hnan, hinf, Bool.false_eq_true, if_false, codeVal, ← hsign]
  by_cases hE : b / 2 ^ f.mb % 2 ^ f.eb = 0
  · rw [if_pos hE, if_pos hE]
    exact ⟨_, _, _, rfl, one_ne_zero, by rw [hemin]; simp⟩
  · rw [if_neg hE, if_neg hE]
    exact ⟨_, _, _, rfl, one_ne_zero, by push_cast; ring⟩

/-- The codes up to that of the largest value are finite, with either sign. -/
theorem finite_of_le_maxCode {f : FF} {c : Nat} (hc : c ≤ f.maxCode false) (n : Bool) :
    f.isNanCode (bit n * 2 ^ (f.eb + f.mb) + c) = false ∧
    (f.hasInf && (bit n * 2 ^ (f.eb + f.mb) + c) / 2 ^ f.mb % 2 ^ f.eb == 2 ^ f.eb - 1) = false := by
  obtain ⟨hM, hE⟩ := sign_fields f n c
  cases f with
  | e2m1 => exact ⟨rfl, rfl⟩
  | e4m3 =>
    have hmax : c ≤ 126 := hc.trans_eq (by decide)
    have hcode : (bit n * 128 + c) % 128 = c := by rw [Nat.mul_add_mod_self_right, Nat.mod_eq_of_lt (by omega)]
    refine ⟨?_, rfl⟩
    show ((bit n * 128 + c) % 128 == 127) = false
    rw [hcode, beq_eq_false_iff_ne]
    omega
  | bf16 | fp16 | e5m2 | fp32 | acc =>
    simp only [FF.isNanCode, hM, hE]
    simp [FF.maxCode, FF.emax, FF.maxSig, FF.prec, FF.eb, FF.mb, FF.bias, FF.hasInf, bit] at hc ⊢
    omega

/-! ## FP32 -/

theorem bit_mul_le (n : Bool) (k : Nat) : bit n * k ≤ k := by
  cases n <;> simp [bit]

/-- What `round_to` gives in FP32 fits in 32 bits. -/
theorem roundsTo_fp32_lt {mode : RMode} {sat n : Bool} {q : ℚ} {r : Nat × Fl} (h : RoundsTo .fp32 mode sat q n r) :
    r.1 < 2 ^ 32 := by
  have hsign : bit n * 2 ^ (FF.eb .fp32 + FF.mb .fp32) ≤ 2 ^ 31 := bit_mul_le n _
  have hmax : FF.maxCode .fp32 false = 0x7F7FFFFF := by decide
  obtain ⟨hzero, hother⟩ := h
  by_cases hq : q = 0
  · rw [hzero hq]
    exact hsign.trans_lt (by decide)
  · obtain ⟨e, k, -, -, -, -, hbig, hfits⟩ := hother hq
    rcases lt_or_ge (codeVal .fp32 (FF.maxCode .fp32 false)) ((k : ℚ) * 2 ^ (e - FF.mb .fp32)) with hy | hy
    · rw [hbig hy]
      cases n <;> split <;> decide
    · obtain ⟨⟨c, hc, hr, -⟩, -⟩ := hfits hy
      rw [hr]
      omega

/-- A code of at most 32 bits is what the register holds. -/
theorem roundsTo_ofNat {mode : RMode} {sat n : Bool} {q : ℚ} {r : Nat × Fl} (h : RoundsTo .fp32 mode sat q n r) :
    RoundsTo .fp32 mode sat q n ((BitVec.ofNat 32 r.1).toNat, r.2) := by
  rwa [BitVec.toNat_ofNat, Nat.mod_eq_of_lt (roundsTo_fp32_lt h)]

/-- An exact value is rounded in every format. -/
theorem HasValue.roundsTo {x : Machine.Num} {q : ℚ} {n : Bool} (h : HasValue x q n) (f : FF) (mode : RMode) (sat : Bool) :
    RoundsTo f mode sat q n (roundTo x f mode sat) := by
  obtain ⟨num, den, exp, rfl, hd, rfl⟩ := h
  exact roundingRule f mode sat n num den exp hd

theorem HasValue.rounded {x : Machine.Num} {q : ℚ} {n : Bool} (h : HasValue x q n) : Rounded q n (round32 x) :=
  roundsTo_ofNat (h.roundsTo .fp32 .rne false)

theorem getLsbD_31 (b : BitVec 32) : (b.toNat / 2 ^ 31 % 2 == 1) = b.getLsbD 31 := by
  rw [BitVec.getLsbD, Nat.testBit_eq_decide_div_mod_eq]; rfl

theorem isFin_iff (b : BitVec 32) : IsFin b ↔ b.toNat / 2 ^ 23 % 2 ^ 8 ≠ 255 := by
  rw [IsFin, Ne, ← BitVec.toNat_inj, BitVec.extractLsb'_toNat, Nat.shiftRight_eq_div_pow]; rfl

section
variable {b : BitVec 32} (hb : IsFin b)
include hb

theorem isNanCode_fin : FF.isNanCode .fp32 b.toNat = false := by
  have h := (isFin_iff b).1 hb
  simpa [FF.isNanCode, FF.eb, FF.mb] using fun h' => absurd h' h

/-- A finite operand stands for its value. -/
theorem f32_hasValue : HasValue (f32 b) (fval b) (b.getLsbD 31) := by
  have h := (isFin_iff b).1 hb
  rw [← getLsbD_31]
  exact decode_hasValue (isNanCode_fin hb) (by simpa [FF.hasInf, FF.eb, FF.mb] using h)

/-- Reading a finite operand raises nothing (R142). -/
theorem readFl_fin : FF.readFl .fp32 b.toNat = 0 := by
  have hs : FF.isSnan .fp32 b.toNat = false := by simp [FF.isSnan, isNanCode_fin hb]
  rw [FF.readFl, nfc, show (FF.decode .fp32 b.toNat).finite = true from (f32_hasValue hb).finite, hs]
  simp [flagIf]

end

theorem orFl_eq_zero {l : List Fl} (h : ∀ x ∈ l, x = 0) : orFl l = 0 := by
  induction l with
  | nil => rfl
  | cons a l ih =>
    rw [orFl, List.foldl_cons, h a List.mem_cons_self]
    exact ih fun x hx => h x (List.mem_cons_of_mem a hx)

theorem readFl_eq_zero {l : List (BitVec 32)} (h : ∀ b ∈ l, IsFin b) : readFl l = 0 :=
  orFl_eq_zero fun x hx => by
    obtain ⟨b, hb, rfl⟩ := List.mem_map.1 hx
    exact readFl_fin (h b hb)

theorem withFl_zero (r : BitVec 32 × Fl) : withFl 0 r = r := by
  simp [withFl]

/-! ## Sums and products of finite operands -/

theorem HasValue.isNan {x : Machine.Num} {q : ℚ} {n : Bool} (h : HasValue x q n) : x.isNan = false := by
  obtain ⟨_, _, _, rfl, -, -⟩ := h
  rfl

theorem addExact_rounded {x y : Machine.Num} {q r : ℚ} {n m : Bool} (hx : HasValue x q n) (hy : HasValue y r m) :
    Rounded (q + r) (signOf (q + r) (n && m)) (addExact x y) := by
  obtain ⟨hv, hf⟩ := hx.add hy
  simp only [addExact, hx.isNan, hy.isNan, hf, Bool.or_self, Bool.false_eq_true, ne_eq, not_true_eq_false, if_false]
  exact hv.rounded

/-- The product that a fused sum adds to, negated where the word says so. -/
theorem HasValue.product (neg : Bool) {x y : Machine.Num} {q r : ℚ} {n m : Bool} (hx : HasValue x q n) (hy : HasValue y r m) :
    HasValue (if neg then (x.mul y).1.neg else (x.mul y).1) (if neg then -(q * r) else q * r) (neg ^^ n ^^ m) := by
  obtain ⟨hv, -⟩ := hx.mul hy
  cases neg with
  | false => simpa using hv
  | true => simpa using hv.neg

section
variable {neg : Bool} {x y z : Machine.Num} {q r u : ℚ} {n m k : Bool}

/-- A product of finite operands is rounded once (R143). -/
theorem fmaExact_product (hx : HasValue x q n) (hy : HasValue y r m) :
    fmaExact neg x y none = round32 (if neg then (x.mul y).1.neg else (x.mul y).1) := by
  have hp := HasValue.product neg hx hy
  simp only [fmaExact, (hx.mul hy).2, hp.isNan, Option.map_none, Option.getD_none, Bool.or_self, Bool.false_eq_true, ne_eq,
    not_true_eq_false, if_false]

/-- A fused sum of finite operands is rounded once (R143). -/
theorem fmaExact_rounded (hx : HasValue x q n) (hy : HasValue y r m) (hz : HasValue z u k) :
    Rounded ((if neg then -(q * r) else q * r) + u)
      (signOf ((if neg then -(q * r) else q * r) + u) ((neg ^^ n ^^ m) && k)) (fmaExact neg x y (some z)) := by
  have hp := HasValue.product neg hx hy
  obtain ⟨hv, hf⟩ := hp.add hz
  simp only [fmaExact, (hx.mul hy).2, hp.isNan, hz.isNan, hf, Option.map_some, Option.getD_some, Bool.or_self, Bool.false_eq_true,
    ne_eq, not_true_eq_false, if_false]
  exact hv.rounded

end

theorem floatRounding : FloatRounding := by
  intro n p q c hp hq hc P Q C m t
  have hP := f32_hasValue hp
  have hQ := f32_hasValue hq
  have hC := f32_hasValue hc
  have h2 : readFl [p, q] = 0 := readFl_eq_zero (by simp [hp, hq])
  have h3 : readFl [p, q, c] = 0 := readFl_eq_zero (by simp [hp, hq, hc])
  refine ⟨?_, ?_, ?_, ?_⟩
  · rw [fadd32, h2, withFl_zero]
    exact addExact_rounded hP hQ
  · rw [fsub32, h2, withFl_zero, sub_eq_add_neg]
    exact addExact_rounded hP hQ.neg
  · rw [fmul32, h2, withFl_zero, fmaExact_product hP hQ]
    exact (hP.mul hQ).1.rounded
  · rw [ffma32, h3, withFl_zero]
    exact fmaExact_rounded hP hQ hC

/-! ## Sums (R59, R157) -/

theorem HasValue.nonpos {x : Machine.Num} {q : ℚ} (h : HasValue x q true) : q ≤ 0 := by
  obtain ⟨num, den, exp, -, -, rfl⟩ := h
  have hv : (0 : ℚ) ≤ num / den * 2 ^ exp := by positivity
  simpa [signum] using hv

/-- An exact zero is −0 only where every term so far, and the next, is negative (R59). -/
theorem signOf_add {S v : ℚ} {neg n : Bool} (hneg : neg = true → S ≤ 0) (hn : v ≠ 0 → n = decide (v < 0)) :
    signOf (S + v) (signOf S neg && n) = signOf (S + v) (neg && n) := by
  by_cases h : S + v = 0
  · rw [signOf_zero h, signOf_zero h]
    rcases lt_trichotomy S 0 with hS | hS | hS
    · have hv : ¬ v < 0 := by linarith
      rw [hn (by linarith), decide_eq_false hv, Bool.and_false, Bool.and_false]
    · rw [signOf_zero hS]
    · have hf : neg = false := Bool.eq_false_iff.2 fun ht => (hneg ht).not_gt hS
      rw [signOf_ne hS.ne', hf, decide_eq_false hS.not_gt]
  · rw [signOf_ne h, signOf_ne h]

/-- What the exact sum of a list keeps of its terms: their values, and whether all are negative. -/
theorem foldl_add_hasValue {l : List (BitVec 32)} (hl : ∀ b ∈ l, IsFin b) {x : Machine.Num} {S : ℚ} {neg : Bool}
    (hx : HasValue x S (signOf S neg)) (hneg : neg = true → S ≤ 0) :
    HasValue ((l.map f32).foldl (fun a b => (a.add b).1) x) (S + (l.map fval).sum)
      (signOf (S + (l.map fval).sum) (neg && l.all fun b => b.getLsbD 31)) := by
  induction l generalizing x S neg with
  | nil => simpa using hx
  | cons b l ih =>
    have hb := f32_hasValue (hl b List.mem_cons_self)
    have hadd := (hx.add hb).1
    rw [signOf_add hneg hb.sign_eq] at hadd
    have hneg' : (neg && b.getLsbD 31) = true → S + fval b ≤ 0 := fun h => by
      obtain ⟨h1, h2⟩ := Bool.and_eq_true_iff.1 h
      exact add_nonpos (hneg h1) (h2 ▸ hb).nonpos
    have hrest := ih (fun c hc => hl c (List.mem_cons_of_mem b hc)) hadd hneg'
    rwa [Bool.and_assoc, add_assoc] at hrest

theorem HasValue.not_opposed {l : List Machine.Num} (h : ∀ x ∈ l, ∃ q n, HasValue x q n) : Num.opposed l = false := by
  have hc : l.contains (Num.inf false) = false := by
    rw [List.contains_eq_mem, decide_eq_false_iff_not]
    intro hm
    obtain ⟨q, n, hq⟩ := h _ hm
    exact Bool.noConfusion hq.finite
  rw [Num.opposed, hc, Bool.false_and]

theorem sumRounding : SumRounding := by
  intro l hne hl t
  obtain ⟨b, l, rfl⟩ := List.exists_cons_of_ne_nil hne
  have hvals : ∀ x ∈ (b :: l).map f32, ∃ q n, HasValue x q n := fun x hx => by
    obtain ⟨c, hc, rfl⟩ := List.mem_map.1 hx
    exact ⟨_, _, f32_hasValue (hl c hc)⟩
  have hnan : ((b :: l).map f32).any Num.isNan = false := by
    rw [List.any_eq_false]
    intro x hx
    obtain ⟨q, n, hq⟩ := hvals x hx
    simp [hq.isNan]
  have hb := f32_hasValue (hl b List.mem_cons_self)
  have hsum := foldl_add_hasValue (fun c hc => hl c (List.mem_cons_of_mem b hc)) (neg := b.getLsbD 31)
    (by rwa [hb.signOf_eq]) (fun h => (h ▸ hb).nonpos)
  have hval : Num.sum ((b :: l).map f32) = ((l.map f32).foldl (fun a b => (a.add b).1) (f32 b), 0) := by
    unfold Num.sum
    rw [hnan, HasValue.not_opposed hvals]; rfl
  rw [fsumAll, readFl_eq_zero hl, hval]
  simp only [List.isEmpty_cons, Bool.false_eq_true, if_false, ne_eq, not_true_eq_false, withFl_zero]
  exact hsum.rounded

end Sys2Proof.Proofs.NumberFormats
end

section
/-! Conversions (R52, R54, R147): an FP32 value to an integer, an integer to FP32, and an FP32 value through a narrower float
format and back, which widens exactly. -/

namespace Sys2Proof.Proofs.NumberFormats

open Sys2Proof Sys2Proof.Machine Sys2Proof.Claims

/-! ## Integers -/

/-- An integer within the limits of a format is the value of its code (R45). -/
theorem intVal_intCode {w : Nat} (hw : 0 < w) {sg : Bool} {i : Int} (hlo : intMin w sg ≤ i) (hhi : i ≤ intMax w sg) :
    intVal w sg (intCode w i) = i := by
  obtain ⟨p, hp⟩ : ∃ p : Nat, p = 2 ^ (w - 1) := ⟨_, rfl⟩
  have h2 : 2 ^ w = 2 * p := by rw [hp, ← pow_succ']; congr 1; omega
  have hpZ : (2 : Int) ^ (w - 1) = p := by rw [hp]; push_cast; rfl
  have h2Z : (2 : Int) ^ w = 2 * p := by exact_mod_cast h2
  have hpos : 0 < p := by rw [hp]; positivity
  rw [intVal, Nat.mod_eq_of_lt (intCode_lt w i), intCode]
  rw [intMin, hpZ] at hlo
  rw [intMax, hpZ] at hhi
  simp only [h2Z, ← hp] at *
  cases sg with
  | false =>
    simp only [Bool.false_eq_true, if_false, Bool.false_and] at *
    rw [Int.emod_eq_of_lt hlo (by omega), Int.toNat_of_nonneg hlo]
  | true =>
    simp only [if_true, Bool.true_and, decide_eq_true_eq] at *
    rcases lt_or_ge i 0 with hneg | hnn
    · have hm : i % (2 * p) = i + 2 * p := by
        rw [← Int.add_emod_right, Int.emod_eq_of_lt (by omega) (by omega)]
      rw [hm, if_pos (by omega)]
      omega
    · rw [Int.emod_eq_of_lt hnn (by omega), if_neg (by omega), Int.toNat_of_nonneg hnn]

theorem intMin_le_intMax (w : Nat) (sg : Bool) : intMin w sg ≤ intMax w sg := by
  have h1 : (0 : Int) < 2 ^ (w - 1) := by positivity
  have h2 : (0 : Int) < 2 ^ w := by positivity
  rw [intMin, intMax]
  split <;> omega

/-- `sat_int` of R52 on a finite value: the integer that it rounds to, clamped with IV, inexact with NX. -/
theorem satInt_finite {x : Machine.Num} {q : ℚ} {n : Bool} (h : HasValue x q n) (w : Nat) (sg : Bool) (mode : RMode) :
    ∃ k : Nat, RoundInt mode n |q| k ∧
      let i : Int := if n then -(k : Int) else k
      (i < intMin w sg → satInt x w sg mode = (intCode w (intMin w sg), IV)) ∧
      (intMax w sg < i → satInt x w sg mode = (intCode w (intMax w sg), IV)) ∧
      (intMin w sg ≤ i → i ≤ intMax w sg → satInt x w sg mode = (intCode w i, if (i : ℚ) = q then 0 else NX)) := by
  obtain ⟨num, den, exp, rfl, hd, rfl⟩ := h
  have habs := abs_signum_mul n (by positivity : (0 : ℚ) ≤ num / den * 2 ^ exp)
  have hden : ((den * 2 ^ (-exp).toNat : Nat) : ℚ) ≠ 0 := by positivity
  obtain ⟨k, hk⟩ : ∃ k, k = rndInt (num * 2 ^ exp.toNat) (den * 2 ^ (-exp).toNat) mode n := ⟨_, rfl⟩
  have hround := roundInt_rndInt (num * 2 ^ exp.toNat) (den * 2 ^ (-exp).toNat) (by positivity) mode n
  rw [scaled_div, ← hk] at hround
  have hexact : k * (den * 2 ^ (-exp).toNat) = num * 2 ^ exp.toNat ↔ (k : ℚ) = num / den * 2 ^ exp := by
    rw [← scaled_div, eq_div_iff hden]; exact_mod_cast Iff.rfl
  have hcast : (((if n then -(k : Int) else k : Int) : ℚ) = signum n * (num / den * 2 ^ exp)) ↔ (k : ℚ) = num / den * 2 ^ exp := by
    cases n <;> simp [signum]
  refine ⟨k, by rwa [habs], fun hlo => ?_, fun hhi => ?_, fun hlo hhi => ?_⟩
  · rw [satInt, ← hk, if_pos hlo]
  · rw [satInt, ← hk, if_neg (not_lt.2 ((intMin_le_intMax w sg).trans hhi.le)), if_pos hhi]
  · rw [satInt, ← hk, if_neg (not_lt.2 hlo), if_neg (not_lt.2 hhi)]
    simp only [hcast, ← hexact]
    by_cases he : k * (den * 2 ^ (-exp).toNat) = num * 2 ^ exp.toNat <;> simp [he, flagIf]

/-- An integer is its own exact value. -/
theorem ofInt_hasValue (i : Int) : HasValue (Machine.Num.ofInt i) i (decide (i < 0)) :=
  ⟨_, _, _, rfl, one_ne_zero, by rw [← signum_natAbs]; simp⟩

theorem intVal_word (sg : Bool) (a : BitVec 32) : intVal 32 sg a.toNat = if sg then a.toInt else a.toNat := by
  have ha := a.isLt
  rw [intVal, Nat.mod_eq_of_lt ha, BitVec.toInt_eq_toNat_cond]
  cases sg with
  | false => rfl
  | true =>
    simp only [Bool.true_and, decide_eq_true_eq, if_true]
    split <;> split <;> omega

/-! ## Descriptors -/

/-- The integer formats that a descriptor names (R49). -/
theorem fmtOf_int {fd : BitVec 32} {w : Nat} {sg : Bool} (h : fmtOf fd = .int w sg) : sg = fd.getLsbD 4 ∧
    w = (if (fd.extractLsb' 0 4).toNat = 6 then 8 else if (fd.extractLsb' 0 4).toNat = 7 then 16 else 32) := by
  rw [BitVec.getLsbD_eq_getElem (by decide)]
  rw [fmtOf] at h
  split at h <;> cases h <;> simp_all

/-- The narrow float formats that a descriptor names (R49). -/
theorem fmtOf_flt {fd : BitVec 32} {g : FF} (h : fmtOf fd = .flt g) (h32 : g ≠ .fp32) (h4 : g ≠ .e2m1) :
    g = (if (fd.extractLsb' 0 4).toNat = 1 then .bf16 else if (fd.extractLsb' 0 4).toNat = 2 then .fp16
      else if (fd.extractLsb' 0 4).toNat = 3 then .e4m3 else .e5m2) ∧
    ((fd.extractLsb' 0 4).toNat ≠ 3 → g ≠ .e4m3) := by
  rw [fmtOf] at h
  split at h <;> cases h <;> simp_all

section
variable {mode : RMode} {fd : BitVec 32} {g : BitVec 32 → BitVec 32 × Fl}

theorem cvtElem_fi (h : cvtElem .fi mode fd = some g) : ∃ w sg, fmtOf fd = .int w sg ∧
    ∀ a, g a = (BitVec.ofInt 32 (intVal w sg (satInt (f32 a) w sg mode).1), (satInt (f32 a) w sg mode).2 ||| readFl [a]) := by
  cases hf : fmtOf fd with
  | int w sg =>
    simp only [cvtElem, hf, Option.some.injEq] at h
    exact ⟨w, sg, rfl, fun a => by rw [← h]⟩
  | flt _ | bpi _ _ _ => simp [cvtElem, hf] at h

theorem cvtElem_if (h : cvtElem .if' mode fd = some g) : ∃ sg, fmtOf fd = .int 32 sg ∧
    ∀ a, g a = (BitVec.ofNat 32 (roundTo (Machine.Num.ofInt (intVal 32 sg a.toNat)) .fp32 mode false).1,
      (roundTo (Machine.Num.ofInt (intVal 32 sg a.toNat)) .fp32 mode false).2) := by
  cases hf : fmtOf fd with
  | int w sg =>
    by_cases hw : w = 32
    · subst hw
      simp only [cvtElem, hf, Option.some.injEq] at h
      exact ⟨sg, rfl, fun a => by rw [← h]⟩
    · unfold cvtElem at h
      split at h <;> simp_all
  | flt _ | bpi _ _ _ => simp [cvtElem, hf] at h

theorem cvtElem_ff (h : cvtElem .ff mode fd = some g) : ∃ F, fmtOf fd = .flt F ∧ F ≠ .fp32 ∧ F ≠ .e2m1 ∧
    ∀ a, g a = ((round32 (F.decode (roundTo (f32 a) F mode (fmtSat fd)).1)).1,
      (roundTo (f32 a) F mode (fmtSat fd)).2 ||| readFl [a]) := by
  cases hf : fmtOf fd with
  | flt F =>
    simp only [cvtElem, hf] at h
    split at h
    · cases h
    · rename_i hF
      simp only [Option.some.injEq, Bool.or_eq_true, decide_eq_true_eq, not_or] at h hF
      exact ⟨F, rfl, hF.1, hF.2, fun a => by rw [← h]⟩
  | int _ _ | bpi _ _ _ => simp [cvtElem, hf] at h

end

/-- No flag adds none (R57). -/
theorem or_noFlag (f : Fl) : f ||| 0 = f := BitVec.or_zero

/-! ## Operands that are not finite -/

section
variable {a : BitVec 32}

theorem isNanCode_of_isNan (h : IsNan a) : FF.isNanCode .fp32 a.toNat = true := by
  obtain ⟨h1, h2⟩ := h
  rw [← BitVec.toNat_inj, BitVec.extractLsb'_toNat, Nat.shiftRight_eq_div_pow] at h1
  rw [Ne, ← BitVec.toNat_inj, BitVec.extractLsb'_toNat, Nat.shiftRight_zero] at h2
  simpa [FF.isNanCode, FF.eb, FF.mb] using ⟨h1, h2⟩

theorem f32_nan (h : IsNan a) : f32 a = .nan := by
  rw [f32, FF.decode, if_pos (isNanCode_of_isNan h)]

/-- The fields of an infinite operand. -/
theorem toNat_inf (h : IsInf a) : a.toNat = FF.infCode .fp32 (a.getLsbD 31) := by
  obtain ⟨h1, h2⟩ := h
  rw [← BitVec.toNat_inj, BitVec.extractLsb'_toNat, Nat.shiftRight_eq_div_pow] at h1
  rw [← BitVec.toNat_inj, BitVec.extractLsb'_toNat, Nat.shiftRight_zero] at h2
  have hE : a.toNat / 2 ^ 23 % 2 ^ 8 = 255 := h1
  have hM : a.toNat % 2 ^ 23 = 0 := h2
  have hs := getLsbD_31 a
  have ha := a.isLt
  have hinf (n : Bool) : FF.infCode .fp32 n = bit n * 2 ^ 31 + 255 * 2 ^ 23 := rfl
  rw [hinf, ← hs]
  simp only [bit, beq_iff_eq]
  split <;> omega

theorem f32_inf (h : IsInf a) : f32 a = .inf (a.getLsbD 31) := by
  rw [f32, toNat_inf h]
  cases a.getLsbD 31 <;> decide

theorem readFl_inf (h : IsInf a) : readFl [a] = NFC := by
  rw [readFl, List.map_singleton, toNat_inf h]
  cases a.getLsbD 31 <;> decide

end

/-! ## Widening -/

/-- The codes of finite values leave the sign bit free. -/
theorem lt_of_le_maxCode {f : FF} {c : Nat} (hc : c ≤ f.maxCode false) : c / 2 ^ f.mb ≤ (f.emax + f.bias).toNat ∧
    c < 2 ^ (f.eb + f.mb) := by
  obtain ⟨hlow, hhigh, -, -, hE, -⟩ := format_bounds f
  rw [two_pow_prec] at hhigh
  rw [← packCode_max, packCode, if_neg (not_lt.2 hlow)] at hc
  have hlt : c < ((f.emax + f.bias).toNat + 1) * 2 ^ f.mb := by rw [Nat.succ_mul]; omega
  refine ⟨Nat.lt_succ_iff.1 ((Nat.div_lt_iff_lt_mul (by positivity)).2 hlt), hlt.trans_le ?_⟩
  rw [pow_add]
  exact Nat.mul_le_mul_right _ hE

/-- The value of a finite code without a sign, as a significand of 24 bits at an exponent of FP32 (R41, R54). -/
theorem codeVal_fp32 {f : FF} {c : Nat} (hc : c ≤ f.maxCode false) (hmb : f.mb ≤ 23) (hb : f.bias ≤ 127) (he : f.emax ≤ 127) :
    ∃ (M : Nat) (E : Int), M < 2 ^ 24 ∧ -149 ≤ E ∧ E ≤ 104 ∧ codeVal f c = M * 2 ^ E := by
  obtain ⟨hdiv, hlt⟩ := lt_of_le_maxCode hc
  obtain ⟨-, -, -, hpos, hEb, -⟩ := format_bounds f
  have hM : c % 2 ^ f.mb < 2 ^ f.mb := Nat.mod_lt _ (by positivity)
  have hval := codeVal_fields f (E := c / 2 ^ f.mb) (hdiv.trans_lt hEb) hM
  rw [Nat.div_add_mod'] at hval
  obtain ⟨D, hD⟩ : ∃ D, D = c / 2 ^ f.mb := ⟨_, rfl⟩
  rw [← hD] at hdiv hval
  have hpow : 2 ^ f.mb * 2 ^ (23 - f.mb) = 2 ^ 23 := by rw [← pow_add]; congr 1; omega
  have hscale (m : ℚ) (e : Int) : m * 2 ^ (e - f.mb) = m * 2 ^ (23 - f.mb) * 2 ^ (e - 23) := by
    rw [mul_assoc, ← zpow_natCast, ← zpow_add₀ two_ne_zero]; congr 2; omega
  by_cases h0 : D = 0
  · refine ⟨c % 2 ^ f.mb * 2 ^ (23 - f.mb), f.emin - 23, ?_, ?_, ?_, ?_⟩
    · have := Nat.mul_lt_mul_of_pos_right hM (show 0 < 2 ^ (23 - f.mb) by positivity)
      omega
    · unfold FF.emin; omega
    · unfold FF.emin; omega
    · rw [hval, if_pos h0, hscale]
      push_cast; rfl
  · refine ⟨(2 ^ f.mb + c % 2 ^ f.mb) * 2 ^ (23 - f.mb), (D : Int) - f.bias - 23, ?_, ?_, ?_, ?_⟩
    · have := Nat.mul_lt_mul_of_pos_right hM (show 0 < 2 ^ (23 - f.mb) by positivity)
      rw [Nat.add_mul]
      omega
    · omega
    · omega
    · rw [hval, if_neg h0, hscale]
      push_cast; rfl

/-- A sign and the code of a finite value make a finite FP32 element. -/
theorem fval_of_toNat {b : BitVec 32} {n : Bool} {c : Nat} (hc : c ≤ FF.maxCode .fp32 false)
    (hb : b.toNat = bit n * 2 ^ (FF.eb .fp32 + FF.mb .fp32) + c) :
    IsFin b ∧ b.getLsbD 31 = n ∧ fval b = signum n * codeVal .fp32 c := by
  have hmax : c ≤ 0x7F7FFFFF := hc.trans_eq (by decide)
  have hb' : b.toNat = bit n * 2 ^ 31 + c := hb
  have hfields : b.toNat / 2 ^ 23 % 2 ^ 8 ≠ 255 ∧ (b.toNat / 2 ^ 31 % 2 == 1) = n := by
    rw [hb']
    clear hb hb' hc
    cases n <;> simp [bit] <;> omega
  refine ⟨(isFin_iff b).2 hfields.1, by rw [← getLsbD_31, hfields.2], ?_⟩
  rw [fval, hb, codeVal_sign _ _ (lt_of_le_maxCode hc).2]; rfl

/-- A value that FP32 holds is rounded to itself. -/
theorem round32_exact {x : Machine.Num} {q : ℚ} {n : Bool} (h : HasValue x q n) {M : Nat} {E : Int} (hM : M < 2 ^ 24)
    (hlow : -149 ≤ E) (hhigh : E ≤ 104) (hq : |q| = M * 2 ^ E) :
    IsFin (round32 x).1 ∧ (round32 x).1.getLsbD 31 = n ∧ fval (round32 x).1 = q := by
  have hsign : q = signum n * |q| := by
    obtain ⟨num, den, exp, -, -, hx⟩ := h
    rw [hx, abs_signum_mul n (by positivity)]
  obtain ⟨hzero, hother⟩ := h.rounded
  by_cases h0 : q = 0
  · have hr : (round32 x).1.toNat = bit n * 2 ^ (FF.eb .fp32 + FF.mb .fp32) + 0 := by
      rw [Nat.add_zero]; exact congrArg Prod.fst (hzero h0)
    obtain ⟨h1, h2, h3⟩ := fval_of_toNat (c := 0) (Nat.zero_le _) hr
    refine ⟨h1, h2, h3.trans ?_⟩
    rw [h0, show codeVal .fp32 0 = 0 by simp [codeVal], mul_zero]
  · obtain ⟨e, k, hmin, -, hge, hround, -, hfits⟩ := hother h0
    have hmin' : (-126 : Int) ≤ e := hmin
    have he : e - FF.mb .fp32 ≤ E := by
      rcases hge with hge | hge
      · have : e = -126 := hge
        show e - 23 ≤ E
        omega
      · have hlt : (2 : ℚ) ^ e < 2 ^ (24 + E) := by
          calc (2 : ℚ) ^ e ≤ M * 2 ^ E := hq ▸ hge
            _ < 2 ^ 24 * 2 ^ E := by gcongr; exact_mod_cast hM
            _ = 2 ^ (24 + E) := by rw [zpow_add₀ two_ne_zero]; rfl
        have := (zpow_lt_zpow_iff_right₀ one_lt_two).1 hlt
        show e - 23 ≤ E
        omega
    have hwhole : |q| / 2 ^ (e - FF.mb .fp32) = (M * 2 ^ (E - (e - FF.mb .fp32)).toNat : Nat) := by
      rw [hq, mul_div_assoc, ← zpow_sub₀ two_ne_zero, Nat.cast_mul, Nat.cast_pow, ← zpow_natCast, Int.toNat_of_nonneg (by omega)]
      rfl
    rw [hwhole] at hround
    have hk : (k : ℚ) * 2 ^ (e - FF.mb .fp32) = |q| := by
      rw [roundInt_whole hround, ← hwhole, div_mul_cancel₀ _ (by positivity)]
    have hmax : |q| ≤ codeVal .fp32 (FF.maxCode .fp32 false) := by
      have hM' : (M : ℚ) ≤ (2 ^ 24 - 1 : Nat) := by exact_mod_cast Nat.le_sub_one_of_lt hM
      have hE' : (2 : ℚ) ^ E ≤ 2 ^ (104 : Int) := zpow_le_zpow_right₀ one_le_two hhigh
      rw [codeVal_maxCode, hq]
      exact mul_le_mul hM' hE' (by positivity) (by positivity)
    rw [hk] at hfits
    obtain ⟨⟨c, hc, hr, hval⟩, -⟩ := hfits hmax
    obtain ⟨h1, h2, h3⟩ := fval_of_toNat hc hr
    exact ⟨h1, h2, by rw [h3, hval, ← hsign]⟩

/-- The narrow float formats widen into FP32 exactly (R54). -/
theorem widen_exact {f : FF} (hmb : f.mb ≤ 23) (hb : f.bias ≤ 127) (he : f.emax ≤ 127) {c : Nat} (hc : c ≤ f.maxCode false)
    (n : Bool) :
    let w := (round32 (f.decode (bit n * 2 ^ (f.eb + f.mb) + c))).1
    IsFin w ∧ w.getLsbD 31 = n ∧ fval w = codeVal f (bit n * 2 ^ (f.eb + f.mb) + c) := by
  obtain ⟨hnan, hinf⟩ := finite_of_le_maxCode hc n
  have hlt := (lt_of_le_maxCode hc).2
  have hv := decode_hasValue hnan hinf
  have hs : ((bit n * 2 ^ (f.eb + f.mb) + c) / 2 ^ (f.eb + f.mb) % 2 == 1) = n := by
    rw [Nat.add_comm, Nat.add_mul_div_right _ _ (by positivity), Nat.div_eq_of_lt hlt, Nat.zero_add]
    cases n <;> rfl
  rw [hs] at hv
  obtain ⟨M, E, hM, hlow, hhigh, hval⟩ := codeVal_fp32 hc hmb hb he
  refine round32_exact hv hM hlow hhigh ?_
  rw [codeVal_sign f n hlt, hval]
  exact abs_signum_mul n (by positivity)

section
variable {mode : RMode} {fd : BitVec 32} {g : BitVec 32 → BitVec 32 × Fl} {a : BitVec 32}

/-- An FP32 value to an integer (R52, R147). -/
theorem convert_fi (h : cvtElem .fi mode fd = some g) {w : Nat} {sg : Bool} (hf : fmtOf fd = .int w sg) (hw : 0 < w) :
    (IsNan a → g a = (0, IV ||| readFl [a])) ∧
    (IsInf a → g a = (BitVec.ofInt 32 (if a.getLsbD 31 then intMin w sg else intMax w sg), IV ||| NFC)) ∧
    (IsFin a → ∃ k, RoundInt mode (a.getLsbD 31) |fval a| k ∧
      let n : Int := if a.getLsbD 31 then -(k : Int) else k
      (n < intMin w sg → g a = (BitVec.ofInt 32 (intMin w sg), IV)) ∧
      (intMax w sg < n → g a = (BitVec.ofInt 32 (intMax w sg), IV)) ∧
      (intMin w sg ≤ n → n ≤ intMax w sg → g a = (BitVec.ofInt 32 n, if (n : ℚ) = fval a then 0 else NX))) := by
  obtain ⟨w', sg', hf', hg⟩ := cvtElem_fi h
  obtain ⟨rfl, rfl⟩ := Fmt.int.inj (hf.symm.trans hf')
  have hle := intMin_le_intMax w sg
  have hmin := intVal_intCode hw (sg := sg) le_rfl hle
  have hmax := intVal_intCode hw (sg := sg) hle le_rfl
  refine ⟨fun hn => ?_, fun hn => ?_, fun hn => ?_⟩
  · have h0 : intVal w sg 0 = 0 := by simp [intVal]
    rw [hg, f32_nan hn, satInt, h0]; rfl
  · rw [hg, f32_inf hn, readFl_inf hn, satInt]
    cases a.getLsbD 31
    · simp only [Bool.false_eq_true, if_false, hmax]
    · simp only [if_true, hmin]
  · have hfl : readFl [a] = 0 := readFl_eq_zero (by simpa using hn)
    obtain ⟨k, hk, h1, h2, h3⟩ := satInt_finite (f32_hasValue hn) w sg mode
    refine ⟨k, hk, fun hlt => ?_, fun hgt => ?_, fun hge hle => ?_⟩
    · rw [hg, h1 hlt, hfl, hmin, or_noFlag]
    · rw [hg, h2 hgt, hfl, hmax, or_noFlag]
    · rw [hg, h3 hge hle, hfl, intVal_intCode hw hge hle, or_noFlag]

/-- An integer to FP32 (R52, R147). -/
theorem convert_if (h : cvtElem .if' mode fd = some g) :
    let v : Int := if fd.getLsbD 4 then a.toInt else a.toNat
    RoundsTo .fp32 mode false v (decide (v < 0)) ((g a).1.toNat, (g a).2) := by
  obtain ⟨sg, hf, hg⟩ := cvtElem_if h
  obtain ⟨rfl, -⟩ := fmtOf_int hf
  rw [hg, intVal_word]
  exact roundsTo_ofNat ((ofInt_hasValue _).roundsTo .fp32 mode false)

/-- The formats that `.ff` converts through. -/
theorem narrow_bounds {F : FF} (h32 : F ≠ .fp32) (h4 : F ≠ .e2m1) (hacc : F ≠ .acc) :
    F.mb ≤ 23 ∧ F.bias ≤ 127 ∧ F.emax ≤ 127 ∧ F.decode F.canon = .nan ∧
      (F.hasInf = true → ∀ n, F.decode (F.infCode n) = .inf n) ∧ (F ≠ .e4m3 → F.hasInf = true) := by
  cases F with
  | fp32 | e2m1 | acc => contradiction
  | bf16 | fp16 | e4m3 | e5m2 => decide

theorem round32_inf (n : Bool) : (round32 (.inf n)).1 = BitVec.ofNat 32 (FF.infCode .fp32 n) := rfl

/-- An FP32 value through a narrower format (R54, R147). -/
theorem convert_ff (h : cvtElem .ff mode fd = some g) {F : FF} (hf : fmtOf fd = .flt F) :
    (IsNan a → g a = (0x7FC00000, readFl [a])) ∧
    (IsInf a → F ≠ .e4m3 → g a = (a, NFC ||| NFP)) ∧
    (IsFin a → ∃ r, RoundsTo F mode (fd.getLsbD 18) (fval a) (a.getLsbD 31) r ∧ (g a).2 = r.2 ∧
      (F.isNanCode r.1 = true → (g a).1 = 0x7FC00000) ∧
      (r.1 = F.infCode false → F.hasInf = true → (g a).1 = 0x7F800000) ∧
      (r.1 = F.infCode true → F.hasInf = true → (g a).1 = 0xFF800000) ∧
      (∀ s c, r.1 = bit s * 2 ^ (F.eb + F.mb) + c → c ≤ F.maxCode false →
        IsFin (g a).1 ∧ (g a).1.getLsbD 31 = s ∧ fval (g a).1 = codeVal F r.1)) := by
  obtain ⟨F', hf', h32, h4, hg⟩ := cvtElem_ff h
  obtain rfl := Fmt.flt.inj (hf.symm.trans hf')
  have hacc : F ≠ .acc := by
    rintro rfl
    rw [fmtOf] at hf
    split at hf <;> cases hf
  obtain ⟨hmb, hb, he, hnan, hinf, h8⟩ := narrow_bounds h32 h4 hacc
  refine ⟨fun hn => ?_, fun hn h3 => ?_, fun hn => ?_⟩
  · rw [hg, f32_nan hn, roundTo, hnan]
    exact Prod.ext rfl BitVec.zero_or
  · have ha : (round32 (.inf (a.getLsbD 31))).1 = a := BitVec.eq_of_toNat_eq (by
      rw [round32_inf, BitVec.toNat_ofNat, ← toNat_inf hn, Nat.mod_eq_of_lt a.isLt])
    rw [hg, f32_inf hn, readFl_inf hn, roundTo, if_pos (h8 h3), hinf (h8 h3), ha]
    exact Prod.ext rfl (BitVec.or_comm ..)
  · have hfl : readFl [a] = 0 := readFl_eq_zero (by simpa using hn)
    refine ⟨_, (f32_hasValue hn).roundsTo F mode _, ?_, fun hc => ?_, fun hc hi => ?_, fun hc hi => ?_, fun s c hr hc => ?_⟩
    · rw [hg, hfl, or_noFlag]; rfl
    · have hc' : F.isNanCode (roundTo (f32 a) F mode (fmtSat fd)).1 = true := hc
      rw [hg, FF.decode, if_pos hc']; rfl
    · have hc' : (roundTo (f32 a) F mode (fmtSat fd)).1 = F.infCode false := hc
      rw [hg, hc', hinf hi]; rfl
    · have hc' : (roundTo (f32 a) F mode (fmtSat fd)).1 = F.infCode true := hc
      rw [hg, hc', hinf hi]; rfl
    · have hr' : (roundTo (f32 a) F mode (fmtSat fd)).1 = bit s * 2 ^ (F.eb + F.mb) + c := hr
      rw [hg, hr, hr']
      exact widen_exact hmb hb he hc s

end

theorem convertRule : ConvertRule := by
  intro mode fd g a hlegal code sgn
  refine ⟨?_, convert_if, ?_⟩
  · intro h w lo hi
    obtain ⟨w', sg, hf, -⟩ := cvtElem_fi h
    have hw : 0 < w := by
      show 0 < if _ then _ else _
      split
      · decide
      · split <;> decide
    obtain ⟨rfl, rfl⟩ := fmtOf_int hf
    exact convert_fi h hf hw
  · intro h F
    obtain ⟨F', hf, h32, h4, -⟩ := cvtElem_ff h
    obtain ⟨rfl, h3⟩ := fmtOf_flt hf h32 h4
    obtain ⟨h1, h2, h5⟩ := convert_ff (a := a) h hf
    exact ⟨h1, fun hn hc => h2 hn (h3 hc), h5⟩

/-- Settles O3: `round_to` in every format, mode and saturation, and the float operations, sums and conversions that round an
exact value once. -/
theorem roundedResults : Obligations.RoundedResults :=
  ⟨roundingRule, floatRounding, sumRounding, convertRule⟩

end Sys2Proof.Proofs.NumberFormats
end

section
/-!
The fields of a slot word (R93 to R97): what a word composed of values at their places shows in a window of its bits, and
which words have no bit outside the fields of their form.
-/

namespace Sys2Proof.Proofs.BundleAndAssembly

open Sys2Proof

/-! ## The values of fields -/

/-- The value `v` of a field takes `n` bits, by the kind of the field. -/
inductive Takes : Nat → Nat → Prop
  | zero : Takes 0 0
  | one : Takes 1 1
  | two : Takes 2 2
  | num {n : Nat} (x : BitVec n) : Takes x.toNat n
  | flag (b : Bool) : Takes (bit b) 1
  | cond (c : Cond) : Takes c.code 4
  | condI (c : CondI) : Takes c.code 3
  | fcond (c : FCond) : Takes c.code 3
  | cvtKind (c : CvtKind) : Takes c.code 2
  | rmode (c : RMode) : Takes c.code 3
  | redOp (c : RedOp) : Takes c.code 4
  | keyT (c : KeyT) : Takes c.code 2
  | atomOp (c : AtomOp) : Takes c.code 4
  | scope (c : Scope) : Takes c.code 3

theorem Takes.lt {v n : Nat} (h : Takes v n) : v < 2 ^ n := by
  cases h with
  | num x => exact x.isLt
  | zero | one | two => decide
  | flag c | cond c | condI c | fcond c | cvtKind c | rmode c | redOp c | keyT c | atomOp c | scope c =>
    cases c <;> decide

theorem code_lt : (∀ c : Cond, c.code < 10) ∧ (∀ c : FCond, c.code < 8) ∧ (∀ c : CvtKind, c.code < 3) ∧
    (∀ c : RMode, c.code < 5) ∧ (∀ c : RedOp, c.code < 11) ∧ (∀ c : KeyT, c.code < 3) ∧ (∀ c : AtomOp, c.code < 13) ∧
    ∀ c : Scope, c.code < 6 := by
  refine ⟨?_, ?_, ?_, ?_, ?_, ?_, ?_, ?_⟩ <;> intro c <;> cases c <;> decide

theorem ofCode_atomOp (c : AtomOp) : AtomOp.ofCode c.code = c := by cases c <;> rfl

theorem ofCode_code : (∀ c, Cond.ofCode c.code = c) ∧ (∀ c, CondI.ofCode c.code = c) ∧ (∀ c, FCond.ofCode c.code = c) ∧
    (∀ c, CvtKind.ofCode c.code = c) ∧ (∀ c, RMode.ofCode c.code = c) ∧ (∀ c, RedOp.ofCode c.code = c) ∧
    (∀ c, KeyT.ofCode c.code = c) ∧ ∀ c, Scope.ofCode c.code = c := by
  refine ⟨?_, ?_, ?_, ?_, ?_, ?_, ?_, ?_⟩ <;> intro c <;> cases c <;> rfl

theorem bit_beq_one (b : Bool) : (bit b == 1) = b := by cases b <;> rfl

theorem ofNat_toNat_self {n : Nat} (x : BitVec n) : BitVec.ofNat n x.toNat = x := by simp

/-! ## Values at their places -/

/-- Two values at their places share no bit: the lower one ends before the higher one begins. -/
def Clear (f g : Nat × Nat) : Prop :=
  f.2 ≤ g.2 ∧ f.1 < 2 ^ (g.2 - f.2) ∨ g.2 ≤ f.2 ∧ g.1 < 2 ^ (f.2 - g.2)

/-- The values at their places, put together bit by bit. -/
def merge : List (Nat × Nat) → Nat
  | [] => 0
  | f :: fs => f.1 * 2 ^ f.2 ||| merge fs

theorem testBit_of_lt {v m n : Nat} (h : v < 2 ^ m) (hmn : m ≤ n) : v.testBit n = false :=
  Nat.testBit_lt_two_pow (Nat.lt_of_lt_of_le h (Nat.pow_le_pow_right (by decide) hmn))

/-- Numbers that share no bit add up without a carry. -/
theorem add_eq_lor {x y : Nat} (h : x &&& y = 0) : x + y = x ||| y := by
  have hn : x + y < 2 ^ (x + y) := Nat.lt_two_pow_self
  have hx : x % 2 ^ (x + y) = x := Nat.mod_eq_of_lt (by omega)
  have hy : y % 2 ^ (x + y) = y := Nat.mod_eq_of_lt (by omega)
  have hbv : BitVec.ofNat (x + y) x &&& BitVec.ofNat (x + y) y = 0 := by
    rw [← BitVec.ofNat_and, h]; rfl
  have := congrArg BitVec.toNat (BitVec.add_eq_or_of_and_eq_zero _ _ hbv)
  rwa [BitVec.toNat_add_of_and_eq_zero hbv, BitVec.toNat_or, BitVec.toNat_ofNat, BitVec.toNat_ofNat, hx, hy] at this

theorem land_eq_zero_of_clear {f g : Nat × Nat} (h : Clear f g) : f.1 * 2 ^ f.2 &&& g.1 * 2 ^ g.2 = 0 := by
  have below : ∀ {v l u m : Nat}, l ≤ m → v < 2 ^ (m - l) → v * 2 ^ l &&& u * 2 ^ m = 0 := by
    intro v l u m hl hv
    refine Nat.eq_of_testBit_eq fun i => ?_
    rw [Nat.testBit_and, Nat.testBit_mul_two_pow, Nat.testBit_mul_two_pow, Nat.zero_testBit]
    by_cases hi : m ≤ i
    · simp [testBit_of_lt hv (show m - l ≤ i - l by omega)]
    · simp [hi]
  rcases h with ⟨hl, hv⟩ | ⟨hl, hv⟩
  · exact below hl hv
  · rw [Nat.and_comm]; exact below hl hv

theorem land_merge_eq_zero {f : Nat × Nat} {gs : List (Nat × Nat)} (h : ∀ g ∈ gs, Clear f g) :
    f.1 * 2 ^ f.2 &&& merge gs = 0 := by
  induction gs with
  | nil => exact Nat.and_zero _
  | cons g gs ih =>
    obtain ⟨hg, hgs⟩ := List.forall_mem_cons.mp h
    rw [merge, Nat.and_or_distrib_left, land_eq_zero_of_clear hg, ih hgs, Nat.or_zero]

theorem sum_eq_merge {fs : List (Nat × Nat)} (h : fs.Pairwise Clear) :
    (fs.map fun f => f.1 * 2 ^ f.2).sum = merge fs := by
  induction fs with
  | nil => rfl
  | cons f fs ih =>
    obtain ⟨hf, hfs⟩ := List.pairwise_cons.mp h
    rw [List.map_cons, List.sum_cons, ih hfs, merge, add_eq_lor (land_merge_eq_zero hf)]

theorem testBit_merge (fs : List (Nat × Nat)) (i : Nat) :
    (merge fs).testBit i = true ↔ ∃ f ∈ fs, f.2 ≤ i ∧ f.1.testBit (i - f.2) = true := by
  induction fs with
  | nil => simp [merge]
  | cons f fs ih => simp [merge, ih, Nat.testBit_mul_two_pow]

/-! ## Windows -/

/-- The windows, each the place of its lowest bit and a width, share no bit and no place, and lie in [50:0]. -/
abbrev Windows (ws : List (Nat × Nat)) : Prop :=
  (∀ a ∈ ws, a.1 < 51 ∧ a.1 + a.2 ≤ 51) ∧
    ws.Pairwise fun a b => a.1 < b.1 ∧ a.1 + a.2 ≤ b.1 ∨ b.1 < a.1 ∧ b.1 + b.2 ≤ a.1

theorem testBit_fld (w lo n i : Nat) : (fld w lo n).testBit i = (decide (i < n) && w.testBit (i + lo)) := by
  rw [fld, Nat.testBit_mod_two_pow, Nat.testBit_div_two_pow]

theorem bv_eq_ofNat_fld (w lo n : Nat) : bv w lo n = BitVec.ofNat n (fld w lo n) := by
  apply BitVec.eq_of_toNat_eq
  simp [bv, fld]

/-- What windows show of a word, put together again. -/
theorem sum_windows {ws : List (Nat × Nat)} (h : Windows ws) (w : Nat) :
    (ws.map fun a => fld w a.1 a.2 * 2 ^ a.1).sum = merge (ws.map fun a => (fld w a.1 a.2, a.1)) := by
  have lt : ∀ (a : Nat × Nat) {k : Nat}, a.2 ≤ k → fld w a.1 a.2 < 2 ^ k := fun a _ hk =>
    Nat.lt_of_lt_of_le (Nat.mod_lt _ (Nat.two_pow_pos _)) (Nat.pow_le_pow_right (by decide) hk)
  rw [← sum_eq_merge, List.map_map]
  · rfl
  · refine List.pairwise_map.mpr (h.2.imp fun {a b} hab => ?_)
    rcases hab with ⟨hlt, hab⟩ | ⟨hlt, hab⟩
    · exact .inl ⟨hlt.le, lt a (by dsimp only; omega)⟩
    · exact .inr ⟨hlt.le, lt b (by dsimp only; omega)⟩

/-- A word has no bit of [50:0] outside the windows exactly when each of those bits that is set lies in one (R96). -/
theorem clean_iff {ws : List (Nat × Nat)} (h : Windows ws) (w : Nat) :
    clean w ws = true ↔ ∀ i, i < 51 → w.testBit i = true → ∃ a ∈ ws, a.1 ≤ i ∧ i < a.1 + a.2 := by
  have bits : ∀ i, (merge (ws.map fun a => (fld w a.1 a.2, a.1))).testBit i = true ↔
      w.testBit i = true ∧ ∃ a ∈ ws, a.1 ≤ i ∧ i < a.1 + a.2 := by
    intro i
    rw [testBit_merge]
    simp only [List.mem_map, exists_exists_and_eq_and, testBit_fld, Bool.and_eq_true, decide_eq_true_eq]
    constructor
    · rintro ⟨a, ha, hai, hn, hw⟩
      rw [Nat.sub_add_cancel hai] at hw
      exact ⟨hw, a, ha, hai, by omega⟩
    · rintro ⟨hw, a, ha, hai, hn⟩
      exact ⟨a, ha, hai, by omega, by rwa [Nat.sub_add_cancel hai]⟩
  rw [clean, beq_iff_eq, sum_windows h]
  constructor
  · intro he i hi hw
    exact ((bits i).mp (by rw [← he, Nat.testBit_mod_two_pow]; simp [hi, hw])).2
  · intro hw
    refine Nat.eq_of_testBit_eq fun i => Bool.eq_iff_iff.mpr ?_
    rw [bits, Nat.testBit_mod_two_pow, Bool.and_eq_true, decide_eq_true_eq]
    constructor
    · rintro ⟨hi, hb⟩
      exact ⟨hb, hw i hi hb⟩
    · rintro ⟨hb, a, ha, -, hlt⟩
      exact ⟨Nat.lt_of_lt_of_le hlt (h.1 a ha).2, hb⟩

/-! ## Slot words -/

/-- The values `fs` at their places take the bits that the windows `ss` name. -/
inductive Sized : List (Nat × Nat) → List (Nat × Nat) → Prop
  | nil : Sized [] []
  | cons {v n lo : Nat} {fs ss : List (Nat × Nat)} : Takes v n → Sized fs ss → Sized ((v, lo) :: fs) ((lo, n) :: ss)

theorem Sized.window {fs ss : List (Nat × Nat)} (h : Sized fs ss) {f : Nat × Nat} (hf : f ∈ fs) :
    ∃ s ∈ ss, s.1 = f.2 ∧ f.1 < 2 ^ s.2 := by
  induction h with
  | nil => cases hf
  | cons hv _ ih =>
    rcases List.mem_cons.mp hf with rfl | hf
    · exact ⟨_, List.mem_cons_self, rfl, hv.lt⟩
    · obtain ⟨s, hs, hp⟩ := ih hf
      exact ⟨s, List.mem_cons_of_mem _ hs, hp⟩

theorem Sized.clear {fs ss : List (Nat × Nat)} (h : Sized fs ss) (hw : Windows ss) : fs.Pairwise Clear := by
  induction h with
  | nil => exact .nil
  | @cons v n lo fs ss hv h ih =>
    obtain ⟨hb, hp⟩ := hw
    obtain ⟨hp1, hp2⟩ := List.pairwise_cons.mp hp
    refine List.pairwise_cons.mpr ⟨fun g hg => ?_, ih ⟨(List.forall_mem_cons.mp hb).2, hp2⟩⟩
    obtain ⟨s, hs, hsg, hlt⟩ := h.window hg
    have le : ∀ {u k m : Nat}, u < 2 ^ k → k ≤ m → u < 2 ^ m := fun hu hk =>
      Nat.lt_of_lt_of_le hu (Nat.pow_le_pow_right (by decide) hk)
    rcases hp1 s hs with ⟨hlo, hle⟩ | ⟨hlo, hle⟩ <;> simp only [hsg] at hlo hle
    · exact .inl ⟨hlo.le, le hv.lt (by dsimp only; omega)⟩
    · exact .inr ⟨hlo.le, le hlt (by dsimp only; omega)⟩

/-- The values of a slot word at their places: OP, PNEG and PRED (R93), then those of its form. -/
def parts (pd : Pd) (op : Nat) (fs : List (Nat × Nat)) : List (Nat × Nat) :=
  (op, 56) :: (bit pd.neg, 55) :: (pd.reg.toNat, 51) :: fs

theorem sum_cons_place (v l : Nat) (fs : List (Nat × Nat)) :
    (((v, l) :: fs).map fun f => f.1 * 2 ^ f.2).sum = v * 2 ^ l + (fs.map fun f => f.1 * 2 ^ f.2).sum := rfl

theorem parts_clear {fs ss : List (Nat × Nat)} (h : Sized fs ss) (hw : Windows ss) (pd : Pd) (op : Nat) :
    (parts pd op fs).Pairwise Clear := by
  have low : ∀ v l, 51 ≤ l → ∀ f ∈ fs, Clear (v, l) f := fun v l hl f hf => by
    obtain ⟨s, hs, hsf, hlt⟩ := h.window hf
    obtain ⟨h1, h2⟩ := hw.1 s hs
    exact .inr ⟨by dsimp only; omega, Nat.lt_of_lt_of_le hlt (Nat.pow_le_pow_right (by decide) (by dsimp only; omega))⟩
  have hn : bit pd.neg < 2 ^ 1 := (Takes.flag _).lt
  have hr : pd.reg.toNat < 2 ^ 4 := pd.reg.isLt
  refine List.pairwise_cons.mpr ⟨?_, List.pairwise_cons.mpr ⟨?_, List.pairwise_cons.mpr ⟨low _ _ le_rfl, h.clear hw⟩⟩⟩
  · rw [List.forall_mem_cons, List.forall_mem_cons]
    exact ⟨.inr ⟨by simp, hn⟩, .inr ⟨by simp, hr.trans (by simp)⟩, low _ _ (by simp)⟩
  · rw [List.forall_mem_cons]
    exact ⟨.inr ⟨by simp, hr⟩, low _ _ (by simp)⟩

theorem word_eq_merge {fs ss : List (Nat × Nat)} (h : Sized fs ss) (hw : Windows ss) (pd : Pd) (op : Nat) :
    word pd op fs = merge (parts pd op fs) := by
  rw [← sum_eq_merge (parts_clear h hw pd op), parts, sum_cons_place, sum_cons_place, sum_cons_place, word, head,
    Nat.add_assoc, Nat.add_assoc]

theorem sum_lt {fs ss : List (Nat × Nat)} (h : Sized fs ss) (hw : Windows ss) :
    (fs.map fun f => f.1 * 2 ^ f.2).sum < 2 ^ 51 := by
  rw [sum_eq_merge (h.clear hw)]
  refine Nat.lt_pow_two_of_testBit _ fun i hi => Bool.eq_false_iff.mpr fun hb => ?_
  obtain ⟨f, hf, hfi, hv⟩ := (testBit_merge fs i).mp hb
  obtain ⟨s, hs, hsf, hlt⟩ := h.window hf
  have := (hw.1 s hs).2
  rw [testBit_of_lt hlt (by omega)] at hv
  cases hv

/-- The bits of the opcode, the predicate and the form of a word. -/
theorem word_split {fs ss : List (Nat × Nat)} (h : Sized fs ss) (hw : Windows ss) (pd : Pd) (op : Nat) :
    word pd op fs / 2 ^ 56 = op ∧ pdOf (word pd op fs) = pd ∧
      word pd op fs % 2 ^ 51 = (fs.map fun f => f.1 * 2 ^ f.2).sum := by
  have hs := sum_lt h hw
  have hn : bit pd.neg < 2 ^ 1 := (Takes.flag _).lt
  have hr : pd.reg.toNat < 2 ^ 4 := pd.reg.isLt
  generalize hsum : (fs.map fun f => f.1 * 2 ^ f.2).sum = S at hs
  have hword : word pd op fs = op * 2 ^ 56 + bit pd.neg * 2 ^ 55 + pd.reg.toNat * 2 ^ 51 + S := by
    rw [word, head, hsum]
  have hneg : fld (word pd op fs) 55 1 = bit pd.neg := by rw [hword, fld]; omega
  have hreg : fld (word pd op fs) 51 4 = pd.reg.toNat := by rw [hword, fld]; omega
  refine ⟨by rw [hword]; omega, ?_, by rw [hword]; omega⟩
  rw [pdOf, hneg, bv_eq_ofNat_fld, hreg, bit_beq_one, ofNat_toNat_self]

theorem testBit_word {fs ss : List (Nat × Nat)} (h : Sized fs ss) (hw : Windows ss) (pd : Pd) (op : Nat) {i : Nat}
    (hi : i < 51) : (word pd op fs).testBit i = true ↔ ∃ f ∈ fs, f.2 ≤ i ∧ f.1.testBit (i - f.2) = true := by
  rw [← testBit_merge, ← sum_eq_merge (h.clear hw), ← (word_split h hw pd op).2.2, Nat.testBit_mod_two_pow]
  simp [hi]

/-- The value at a place, 0 where there is none. -/
def valueAt : List (Nat × Nat) → Nat → Nat
  | [], _ => 0
  | f :: fs, lo => if f.2 = lo then f.1 else valueAt fs lo

/-- A window that holds the field at its own place whole, if there is one, and meets no other. -/
def shows : List (Nat × Nat) → Nat → Nat → Bool
  | [], lo, n => decide (1 ≤ n ∧ lo + n ≤ 51)
  | s :: ss, lo, n => decide (s.1 = lo ∧ s.2 ≤ n ∨ s.1 + s.2 ≤ lo ∨ lo + n ≤ s.1) && shows ss lo n

theorem shows_iff (ss : List (Nat × Nat)) (lo n : Nat) : shows ss lo n = true ↔
    (1 ≤ n ∧ lo + n ≤ 51) ∧ ∀ s ∈ ss, s.1 = lo ∧ s.2 ≤ n ∨ s.1 + s.2 ≤ lo ∨ lo + n ≤ s.1 := by
  induction ss with
  | nil => simp [shows]
  | cons s ss ih => rw [shows, Bool.and_eq_true, ih, decide_eq_true_eq, List.forall_mem_cons]; tauto

theorem testBit_valueAt {fs ss : List (Nat × Nat)} (h : Sized fs ss) (hw : Windows ss) (lo i : Nat) :
    (valueAt fs lo).testBit i = true ↔ ∃ f ∈ fs, f.2 = lo ∧ f.1.testBit i = true := by
  induction h with
  | nil => simp [valueAt]
  | @cons v n l fs ss hv h ih =>
    obtain ⟨hb, hp⟩ := hw
    obtain ⟨hp1, hp2⟩ := List.pairwise_cons.mp hp
    have hrest : l = lo → ∀ f ∈ fs, f.2 ≠ lo := by
      rintro rfl f hf rfl
      obtain ⟨s, hs, hsf, -⟩ := h.window hf
      rcases hp1 s hs with ⟨hlo, -⟩ | ⟨hlo, -⟩ <;> simp only [hsf, lt_irrefl] at hlo
    rw [List.exists_mem_cons_iff, ← ih ⟨(List.forall_mem_cons.mp hb).2, hp2⟩, valueAt]
    by_cases hl : l = lo
    · simp only [hl, if_true, true_and]
      refine ⟨.inl, fun hor => hor.resolve_right fun hv => ?_⟩
      obtain ⟨f, hf, hfl, -⟩ := (ih ⟨(List.forall_mem_cons.mp hb).2, hp2⟩).mp hv
      exact hrest hl f hf hfl
    · simp [hl]

/-- What a decoder reads of the word with opcode `op`, predicate `pd` and the values `fs` at their places. -/
structure Reads (w : Nat) (pd : Pd) (op : Nat) (fs ss : List (Nat × Nat)) : Prop where
  op_eq : w / 2 ^ 56 = op
  pd_eq : pdOf w = pd
  fld_eq : ∀ lo n, shows ss lo n = true → fld w lo n = valueAt fs lo
  clean_eq : ∀ ws, Windows ws → (∀ s ∈ ss, s.2 = 0 ∨ ∃ a ∈ ws, a.1 ≤ s.1 ∧ s.1 + s.2 ≤ a.1 + a.2) → clean w ws = true

theorem reads_word {fs ss : List (Nat × Nat)} (h : Sized fs ss) (hw : Windows ss) (pd : Pd) (op : Nat) :
    Reads (word pd op fs) pd op fs ss := by
  obtain ⟨hop, hpd, -⟩ := word_split h hw pd op
  refine ⟨hop, hpd, fun lo n hshow => ?_, fun ws hws hc => (clean_iff hws _).mpr fun i hi hb => ?_⟩
  · obtain ⟨⟨hpos, hn⟩, hs⟩ := (shows_iff ss lo n).mp hshow
    refine Nat.eq_of_testBit_eq fun i => Bool.eq_iff_iff.mpr ?_
    rw [testBit_valueAt h hw, testBit_fld, Bool.and_eq_true, decide_eq_true_eq]
    constructor
    · rintro ⟨hi, hb⟩
      obtain ⟨f, hf, hfi, hv⟩ := (testBit_word h hw pd op (by omega)).mp hb
      obtain ⟨s, hss, hsf, hlt⟩ := h.window hf
      have hbit : i + lo - f.2 < s.2 := by
        by_contra hge
        rw [testBit_of_lt hlt (by omega)] at hv
        cases hv
      have hlo : f.2 = lo := by have := hs s hss; omega
      exact ⟨f, hf, hlo, by rwa [hlo, Nat.add_sub_cancel] at hv⟩
    · rintro ⟨f, hf, rfl, hv⟩
      obtain ⟨s, hss, hsf, hlt⟩ := h.window hf
      have hbit : i < s.2 := by
        by_contra hge
        rw [testBit_of_lt hlt (by omega)] at hv
        cases hv
      have hin : i < n := by have := hs s hss; omega
      exact ⟨hin, (testBit_word h hw pd op (by omega)).mpr ⟨f, hf, by omega, by rwa [Nat.add_sub_cancel]⟩⟩
  · obtain ⟨f, hf, hfi, hv⟩ := (testBit_word h hw pd op hi).mp hb
    obtain ⟨s, hss, hsf, hlt⟩ := h.window hf
    have hbit : i - f.2 < s.2 := by
      by_contra hge
      rw [testBit_of_lt hlt (by omega)] at hv
      cases hv
    rcases hc s hss with h0 | ⟨a, ha, h1, h2⟩
    · omega
    · exact ⟨a, ha, by omega, by omega⟩

theorem Reads.bv_eq {w op : Nat} {pd : Pd} {fs ss : List (Nat × Nat)} (r : Reads w pd op fs ss) (lo n : Nat)
    (h : shows ss lo n = true) : bv w lo n = BitVec.ofNat n (valueAt fs lo) := by
  rw [bv_eq_ofNat_fld, r.fld_eq lo n h]

/-- A form accepts the word of a well-formed instruction whose fields it names and reads. -/
theorem Reads.form_ok {w op : Nat} {pd : Pd} {fs ss ws : List (Nat × Nat)} {lim : Bool} {i j : Instr}
    (r : Reads w pd op fs ss) (hi : i.wf = true) (hw : Windows ws)
    (hc : ∀ s ∈ ss, s.2 = 0 ∨ ∃ a ∈ ws, a.1 ≤ s.1 ∧ s.1 + s.2 ≤ a.1 + a.2) (hl : lim = true) (hj : j = i) :
    form w ws lim j = .ok i := by
  rw [form, r.clean_eq ws hw hc, hj, hl, hi]
  rfl

/-- To read a word back it is enough to know what it shows. -/
theorem readBack (dec : Nat → Dec) {pd : Pd} {op : Nat} {fs ss : List (Nat × Nat)} {d : Dec} (h : Sized fs ss)
    (hw : Windows ss) (hd : ∀ w, Reads w pd op fs ss → dec w = d) : dec (word pd op fs) = d :=
  hd _ (reads_word h hw pd op)

end Sys2Proof.Proofs.BundleAndAssembly
end

section
/-!
Decode and encode agree (R93 to R103): the decoder of each slot reads every well-formed word of that slot back from its
encoding. A word is split along its instruction: the opcode selects the line of the slot's map, and the fields of that line
show the operands. The words that share an opcode, or whose fields depend on a modifier, first choose their line.
-/

namespace Sys2Proof.Proofs.BundleAndAssembly

open Sys2Proof

theorem decodeOpS_encode (i : Instr) (h : i.wf = true) (hs : i.slot = .S) : decodeOpS (encode i) = .ok i := by
  cases i with
  | add | sub | mul | mulh | mulhu | div | divu | rem_ | remu | and_ | or_ | xor_ | andn | min_ | max_ | minu | maxu
  | shl | shr | sar | rol | clz | ctz | popc | sel | cmp | cmpp | addi | andi | ori | xori | shli | shri | sari | muli
  | cmpi | cmppi | li | lui | fmt | br | jr | call | callr | ret | loop | ldb | stb | ldt | stt | ldg | stg | cadd
  | carm | cread | hgive | htake | hquery | phase | realign | locq | csrr | csrw | trap | sprd | spwr | eret | halt =>
    refine readBack decodeOpS (by repeat constructor) (by decide) fun w r => ?_
    rw [decodeOpS, r.op_eq]
    refine r.form_ok h (by decide) (by decide) ?_ ?_ <;>
      simp only [r.pd_eq, r.bv_eq, r.fld_eq, shows, valueAt, Nat.reduceEqDiff, Nat.reduceAdd, Nat.reduceLeDiff,
        reduceIte, eq_self, and_self, true_or, or_true, decide_true, Bool.and_self, ofNat_toNat_self, bit_beq_one,
        ofCode_code, code_lt, beq_self_eq_true]
  | cwait | cwaitArmed =>
    refine readBack decodeOpS (by repeat constructor) (by decide) fun w r => ?_
    rw [decodeOpS, r.op_eq, r.fld_eq 12 5 (by decide)]
    refine r.form_ok h (by decide) (by decide) ?_ ?_ <;>
      simp only [r.pd_eq, r.bv_eq, shows, valueAt, Nat.reduceEqDiff, Nat.reduceAdd, Nat.reduceLeDiff, reduceIte,
        eq_self, and_self, true_or, or_true, decide_true, Bool.and_self, ofNat_toNat_self, beq_self_eq_true]
  | syscRetire pd a =>
    refine readBack decodeOpS (by repeat constructor) (by decide) fun w r => ?_
    rw [decodeOpS, r.op_eq, r.fld_eq 23 16 (by decide)]
    refine r.form_ok h (by decide) (by decide) rfl ?_
    simp only [r.pd_eq, r.bv_eq, shows, valueAt, Nat.reduceAdd, Nat.reduceLeDiff, reduceIte, eq_self,
      and_self, true_or, decide_true, Bool.and_self, ofNat_toNat_self]
  | syscCall pd d code a =>
    have hcode : ¬ (code.toNat == 0) = true := by simpa [Instr.wf, BitVec.toNat_eq] using h
    refine readBack decodeOpS (by repeat constructor) (by decide) fun w r => ?_
    rw [decodeOpS, r.op_eq, r.fld_eq 23 16 (by decide)]
    refine (if_neg hcode).trans (r.form_ok h (by decide) (by decide) rfl ?_)
    simp only [r.pd_eq, r.bv_eq, shows, valueAt, Nat.reduceEqDiff, Nat.reduceAdd, Nat.reduceLeDiff, reduceIte, eq_self,
      and_self, true_or, or_true, decide_true, Bool.and_self, ofNat_toNat_self]
  | _ => cases hs

/-- The scan operations name QN among their fields only where QD is set (R184, R186). -/
theorem decodeOpV_encode_scan (i : Instr) (h : i.wf = true) (hs : i.isScan = true) : decodeOpV (encode i) = .ok i := by
  cases i with
  | sort pd kt asc d a cnt qd qn | topk pd kt asc d a cnt qd qn | pfx pd kt asc d a cnt qd qn | comp pd kt d a cnt qd qn
  | cntoff pd d a cnt qd qn k =>
    have hqn : qd = true ∨ qd = false ∧ qn = false := by cases qd <;> simp_all [Instr.wf, scanWf]
    obtain rfl | ⟨rfl, rfl⟩ := hqn
    all_goals
      refine readBack decodeOpV (by repeat constructor) (by decide) fun w r => ?_
      have hqd := r.fld_eq 40 1 (by decide)
      simp only [valueAt, Nat.reduceEqDiff, reduceIte] at hqd
      rw [decodeOpV, r.op_eq, hqd]
      refine r.form_ok h (by decide) (by decide) ?_ ?_ <;>
        simp only [r.pd_eq, r.bv_eq, r.fld_eq, shows, valueAt, Nat.reduceEqDiff, Nat.reduceAdd, Nat.reduceLeDiff,
          reduceIte, eq_self, and_self, true_or, or_true, decide_true, Bool.and_self, ofNat_toNat_self, bit_beq_one,
          ofCode_code, code_lt, beq_self_eq_true]
  | _ => cases hs

theorem decodeOpV_encode (i : Instr) (h : i.wf = true) (hs : i.slot = .V) : decodeOpV (encode i) = .ok i := by
  cases i with
  | vadd | vsub | vmul | vfma | vfnma | vmin | vmax | vabs | vneg | vcmp | fclass | cvt | viadd | visub | vimul | vimin
  | vimax | viminu | vimaxu | vand | vor | vxor | vshl | vshr | vsar | vicmp | vsel | vexp2 | vlog2 | vrcp | vrsqrt
  | vsqrt | vsin | vcos | vtanh | vsigm | vgelu | verf | rotr | rotc | bcr | bcc | redr | redc | vins | pcnt | ppop
  | pand | por | pxor | pandn | pnot | vld | vst | vldt | vstt | vstg | solve | radd | rmul | rnar | rshr | rleak | rmark
  | uadd | umul | unar | ushr | uleak | ucheck =>
    refine readBack decodeOpV (by repeat constructor) (by decide) fun w r => ?_
    rw [decodeOpV, r.op_eq]
    refine r.form_ok h (by decide) (by decide) ?_ ?_ <;>
      simp only [r.pd_eq, r.bv_eq, r.fld_eq, shows, valueAt, Nat.reduceEqDiff, Nat.reduceAdd, Nat.reduceLeDiff,
        reduceIte, eq_self, and_self, true_or, or_true, decide_true, Bool.and_self, ofNat_toNat_self, bit_beq_one,
        ofCode_code, code_lt, beq_self_eq_true]
  | vsplat | vsplatQ | vextQ =>
    refine readBack decodeOpV (by repeat constructor) (by decide) fun w r => ?_
    rw [decodeOpV, r.op_eq, r.fld_eq 11 5 (by decide)]
    refine r.form_ok h (by decide) (by decide) ?_ ?_ <;>
      simp only [r.pd_eq, r.bv_eq, r.fld_eq, shows, valueAt, Nat.reduceEqDiff, Nat.reduceAdd, Nat.reduceLeDiff,
        reduceIte, eq_self, and_self, true_or, or_true, decide_true, Bool.and_self, ofNat_toNat_self, beq_self_eq_true]
  | vext pd sx =>
    have hsx : bit sx ≤ 1 ∧ ¬ (bit sx == 2) = true := by cases sx <;> decide
    refine readBack decodeOpV (by repeat constructor) (by decide) fun w r => ?_
    rw [decodeOpV, r.op_eq, r.fld_eq 11 5 (by decide)]
    refine (if_neg hsx.2).trans (r.form_ok h (by decide) (by decide) (decide_eq_true hsx.1) ?_)
    simp only [r.pd_eq, r.bv_eq, r.fld_eq, shows, valueAt, Nat.reduceEqDiff, Nat.reduceAdd, Nat.reduceLeDiff, reduceIte,
      eq_self, and_self, true_or, or_true, decide_true, Bool.and_self, ofNat_toNat_self, bit_beq_one]
  | vldg | vldgFf =>
    refine readBack decodeOpV (by repeat constructor) (by decide) fun w r => ?_
    rw [decodeOpV, r.op_eq, r.fld_eq 26 1 (by decide)]
    refine r.form_ok h (by decide) (by decide) rfl ?_
    simp only [r.pd_eq, r.bv_eq, shows, valueAt, Nat.reduceEqDiff, Nat.reduceAdd, Nat.reduceLeDiff, reduceIte, eq_self,
      and_self, true_or, or_true, decide_true, Bool.and_self, ofNat_toNat_self]
  | sort | topk | pfx | comp | cntoff => exact decodeOpV_encode_scan _ h rfl
  | _ => cases hs

/-- A drain names KOR and KSD among its fields only where DRP is set, and RES only where its modifier is (R204). -/
theorem decodeOpM_encode_mdrain (pd : Pd) (acc : AReg) (a : SReg) (f : FReg) (rows : BitVec 7) (res : Bool) (rs : SReg)
    (drp : Bool) (ks ko : KReg) (h : (Instr.mdrain pd acc a f rows res rs drp ks ko).wf = true) :
    decodeOpM (encode (.mdrain pd acc a f rows res rs drp ks ko)) = .ok (.mdrain pd acc a f rows res rs drp ks ko) := by
  have hres : res = true ∨ res = false ∧ rs = 0 := by cases res <;> simp_all [Instr.wf]
  have hdrp : drp = true ∨ drp = false ∧ ks = 0 ∧ ko = 0 := by cases drp <;> simp_all [Instr.wf]
  obtain rfl | ⟨rfl, rfl⟩ := hres <;> obtain rfl | ⟨rfl, rfl, rfl⟩ := hdrp
  all_goals
    refine readBack decodeOpM (by repeat constructor) (by decide) fun w r => ?_
    have h33 := r.fld_eq 33 1 (by decide)
    have h32 := r.fld_eq 32 1 (by decide)
    simp only [valueAt, Nat.reduceEqDiff, reduceIte] at h33 h32
    rw [decodeOpM, r.op_eq, r.fld_eq 31 1 (by decide), h33, h32]
    refine r.form_ok h (by decide) (by decide) rfl ?_
    simp only [r.pd_eq, r.bv_eq, shows, valueAt, Nat.reduceEqDiff, Nat.reduceAdd, Nat.reduceLeDiff, reduceIte, eq_self,
      and_self, true_or, or_true, decide_true, Bool.and_self, ofNat_toNat_self, bit_beq_one]

theorem decodeOpM_encode (i : Instr) (h : i.wf = true) (hs : i.slot = .M) : decodeOpM (encode i) = .ok i := by
  cases i with
  | mldw | mldwt | macc | maccp | mscale | mswap | mcomp | msave | mrstr | mcall | mset | mgemv | mend =>
    refine readBack decodeOpM (by repeat constructor) (by decide) fun w r => ?_
    rw [decodeOpM, r.op_eq]
    refine r.form_ok h (by decide) (by decide) rfl ?_
    simp only [r.pd_eq, r.bv_eq, r.fld_eq, shows, valueAt, Nat.reduceEqDiff, Nat.reduceAdd, Nat.reduceLeDiff, reduceIte,
      eq_self, and_self, true_or, or_true, decide_true, Bool.and_self, ofNat_toNat_self, bit_beq_one]
  | mzero | mzeroInt =>
    refine readBack decodeOpM (by repeat constructor) (by decide) fun w r => ?_
    rw [decodeOpM, r.op_eq, r.fld_eq 22 1 (by decide)]
    refine r.form_ok h (by decide) (by decide) rfl ?_
    simp only [r.pd_eq, r.bv_eq, shows, valueAt, Nat.reduceEqDiff, Nat.reduceAdd, Nat.reduceLeDiff, reduceIte, eq_self,
      and_self, true_or, or_true, decide_true, Bool.and_self, ofNat_toNat_self]
  | mdrainRev | mdrainUndo =>
    refine readBack decodeOpM (by repeat constructor) (by decide) fun w r => ?_
    rw [decodeOpM, r.op_eq, r.fld_eq 31 1 (by decide), r.fld_eq 32 1 (by decide)]
    refine r.form_ok h (by decide) (by decide) ?_ ?_ <;>
      simp only [r.pd_eq, r.bv_eq, r.fld_eq, shows, valueAt, Nat.reduceEqDiff, Nat.reduceAdd, Nat.reduceLeDiff,
        reduceIte, eq_self, and_self, true_or, or_true, decide_true, Bool.and_self, ofNat_toNat_self, beq_self_eq_true]
  | mdrain => exact decodeOpM_encode_mdrain _ _ _ _ _ _ _ _ _ _ h
  | _ => cases hs

theorem decodeOpC_encode (i : Instr) (h : i.wf = true) (hs : i.slot = .C) : decodeOpC (encode i) = .ok i := by
  cases i with
  | xcpy | xfill | xstore | xtld | xtst | xrsp | xrfl | xmig | xscl | xwin | xmcast | xget | xrts | xenq | cdrive
  | ccatch =>
    refine readBack decodeOpC (by repeat constructor) (by decide) fun w r => ?_
    rw [decodeOpC, r.op_eq]
    refine r.form_ok h (by decide) (by decide) ?_ ?_ <;>
      simp only [r.pd_eq, r.bv_eq, r.fld_eq, shows, valueAt, Nat.reduceEqDiff, Nat.reduceAdd, Nat.reduceLeDiff,
        reduceIte, eq_self, and_self, true_or, or_true, decide_true, Bool.and_self, ofNat_toNat_self, bit_beq_one,
        beq_self_eq_true]
  | xrows | xrowsSc =>
    refine readBack decodeOpC (by repeat constructor) (by decide) fun w r => ?_
    rw [decodeOpC, r.op_eq, r.fld_eq 20 1 (by decide)]
    refine r.form_ok h (by decide) (by decide) rfl ?_
    simp only [r.pd_eq, r.bv_eq, shows, valueAt, Nat.reduceEqDiff, Nat.reduceAdd, Nat.reduceLeDiff, reduceIte, eq_self,
      and_self, true_or, or_true, decide_true, Bool.and_self, ofNat_toNat_self]
  | xsendMsg =>
    refine readBack decodeOpC (by repeat constructor) (by decide) fun w r => ?_
    rw [decodeOpC, r.op_eq, r.fld_eq 33 6 (by decide), r.fld_eq 21 6 (by decide)]
    refine r.form_ok h (by decide) (by decide) rfl ?_
    simp only [r.pd_eq, r.bv_eq, shows, valueAt, Nat.reduceEqDiff, Nat.reduceAdd, Nat.reduceLeDiff, reduceIte, eq_self,
      and_self, true_or, or_true, decide_true, Bool.and_self, ofNat_toNat_self]
  | xsend pd d a n ctr ac dly =>
    have hdn : ¬ (d.toNat == 0 && n.toNat == 0) = true := by
      simpa [Instr.wf, BitVec.toNat_eq, imp_iff_not_or] using h
    refine readBack decodeOpC (by repeat constructor) (by decide) fun w r => ?_
    rw [decodeOpC, r.op_eq, r.fld_eq 33 6 (by decide), r.fld_eq 21 6 (by decide)]
    refine (if_neg hdn).trans (r.form_ok h (by decide) (by decide) ?_ ?_) <;>
      simp only [r.pd_eq, r.bv_eq, r.fld_eq, shows, valueAt, Nat.reduceEqDiff, Nat.reduceAdd, Nat.reduceLeDiff,
        reduceIte, eq_self, and_self, true_or, or_true, decide_true, Bool.and_self, ofNat_toNat_self, beq_self_eq_true]
  | xbat pd aop a n ctr ac dly =>
    have hac : aop.onCounter = false ∨ aop.onCounter = true ∧ ac = 0 := by
      cases hc : aop.onCounter <;> simp_all [Instr.wf]
    obtain hc | ⟨hc, rfl⟩ := hac
    all_goals
      refine readBack decodeOpC (by repeat constructor) (by decide) fun w r => ?_
      have hop : AtomOp.ofCode (fld w 17 4) = aop := by
        rw [r.fld_eq 17 4 (by decide)]
        exact ofCode_atomOp aop
      rw [decodeOpC, r.op_eq, hop, hc]
      refine r.form_ok h (by decide) (by decide) ?_ ?_ <;>
        simp only [r.pd_eq, r.bv_eq, r.fld_eq, shows, valueAt, Nat.reduceEqDiff, Nat.reduceAdd, Nat.reduceLeDiff,
          reduceIte, eq_self, and_self, true_or, or_true, decide_true, Bool.and_self, ofNat_toNat_self, code_lt]
  | _ => cases hs

/-- Settles O57: each slot's decoder reads the words of its slot back, by the cases of the instruction. -/
theorem encodeDecode : Obligations.EncodeDecode := fun i h =>
  ⟨decodeOpS_encode i h, decodeOpV_encode i h, decodeOpM_encode i h, decodeOpC_encode i h⟩

end Sys2Proof.Proofs.BundleAndAssembly
end

section
/-!
The words written out from the encodings (R95 to R97, R100 to R103), and what a step does with the word or the input that
it has reached (R89, R94, R97, R274).
-/

namespace Sys2Proof.Proofs.BundleAndAssembly

open Sys2Proof Sys2Proof.Machine

/-- Settles O56: every word is a numeral, and its decoder computes. -/
theorem wordsDecode : Obligations.WordsDecode := by
  unfold Obligations.WordsDecode
  exact ⟨rfl, rfl, rfl, rfl, rfl, rfl, rfl, rfl, rfl, rfl, rfl, rfl, rfl, rfl⟩

/-! ## The word that is fetched -/

/-- No running routine takes the place of word `x`. -/
def FromBundle (x : Iss) : Prop := x.w = 5 → x.core.rtnOn = none

theorem FromBundle.no_routine {x : Iss} (hb : FromBundle x) : (if x.w = 5 then x.core.rtnOn else none) = none := by
  split
  · next hw => exact hb hw
  · rfl

theorem FromBundle.fetchWord_of_ok {s : State} {x : Iss} {i : Instr} (hb : FromBundle x) (img : Option Image)
    (h : decodeSlot x.w (s.word x.ag x.core x.w) = .ok i) : s.fetchWord x img = .ok i := by
  unfold State.fetchWord
  simp only [hb.no_routine, h]

theorem FromBundle.fetchWord_of_bad {s : State} {x : Iss} {sub : Nat} (hb : FromBundle x) (img : Option Image)
    (h : decodeSlot x.w (s.word x.ag x.core x.w) = .bad sub) :
    s.fetchWord x img = .error { cause := 0x01, sub := sub } := by
  unfold State.fetchWord
  simp only [hb.no_routine, h]

theorem FromBundle.ownWord_eq {x : Iss} (hb : FromBundle x) (s : State) : s.ownWord x = x.core := by
  unfold State.ownWord
  split
  · next h =>
    obtain ⟨hw, -⟩ := Bool.and_eq_true_iff.mp h
    rw [← hb (of_decide_eq_true hw)]
  · rfl

/-! ## What a step does at its cursor -/

section Word
variable {s : State} {t r w : Nat} {tr : Troupe} {c : Core} (hcur : s.cursor = .word t r w) (hw : w ≤ 7)
  (htr : s.troupe? t = some tr) (hc : s.core? (.core t r) = some c) (hf : c.failed = false)
  (hstop : ∀ k, c.stop = some k → w < k) (hd : c.done.getLsbD w = false)

include hw hf hstop in
/-- Neither a fault of the core nor the end of its bundle keeps the word from issuing. -/
theorem not_past_bundle : (c.failed || (c.stop.any fun k => decide (k ≤ w)) || decide (8 < w)) = false := by
  have hs : (c.stop.any fun k => decide (k ≤ w)) = false := by
    simpa [Option.any_eq_false] using hstop
  have h8 : decide (8 < w) = false := by simpa using Nat.le_succ_of_le hw
  rw [hf, hs, h8]
  rfl

include hcur hw htr hc hf hstop hd

/-- A Calliope word is set aside when it is reached before every troupe has had its turn. -/
theorem step_word_setAside (h : c.late = none ∧ 6 ≤ w ∧ isCalliope w (s.word (.core t r) c w) = true) :
    step s = .next { s.setCore (.core t r) { c with late := some [] } with cursor := .bundle t (r + 1) } := by
  obtain ⟨hl, h6, hcal⟩ := h
  unfold step State.nextMove
  simp only [hcur]
  unfold State.nextWordMove
  simp only [htr, hc, not_past_bundle hw hf hstop, hl, h6, hd, hcal]
  rfl

theorem step_word (h : ¬ (c.late = none ∧ 6 ≤ w ∧ isCalliope w (s.word (.core t r) c w) = true)) :
    (∀ i, s.fetchWord ⟨.core t r, w, tr.adv, c⟩ (some tr.image) = .ok i → step s = exec i s) ∧
    ∀ e, s.fetchWord ⟨.core t r, w, tr.adv, c⟩ (some tr.image) = .error e →
      step s = .next (s.except ⟨.core t r, w, tr.adv, c⟩ (s.ownWord ⟨.core t r, w, tr.adv, c⟩) e) := by
  have hnot : (c.late.isNone && decide (6 ≤ w) && !false && isCalliope w (s.word (.core t r) c w)) = false := by
    simpa using h
  have h8 : w ≠ 8 := by omega
  constructor <;> intro _ hfetch
  all_goals
    unfold step State.nextMove
    simp only [hcur]
    unfold State.nextWordMove
    simp only [htr, hc, not_past_bundle hw hf hstop, hd, hnot, h8, hfetch, if_false, Bool.false_eq_true]

end Word

theorem step_mword {s : State} {m w : Nat} (hcur : s.cursor = .mword m w) (hw : w = 2 ∨ w = 6 ∨ w = 7)
    (hd : (s.mg m).core.done.getLsbD w = false) :
    (∀ i, s.fetchWord ⟨.mgmt m, w, (s.mg m).adv, (s.mg m).core⟩ none = .ok i → step s = exec i s) ∧
    ∀ e, s.fetchWord ⟨.mgmt m, w, (s.mg m).adv, (s.mg m).core⟩ none = .error e →
      step s = .next (s.except ⟨.mgmt m, w, (s.mg m).adv, (s.mg m).core⟩ (s.mg m).core e) := by
  constructor <;> intro _ hfetch
  all_goals
    unfold step State.nextMove
    simp only [hcur]
    rcases hw with rfl | rfl | rfl <;> simp only [State.nextMword, hd, hfetch] <;> rfl

/-- Settles O55, by the cursor that the step finds. -/
theorem stepRunsInstruction : Obligations.StepRunsInstruction := by
  unfold Obligations.StepRunsInstruction
  refine ⟨fun s t r w tr c hcur _ hw htr hc hf hstop hd => ⟨step_word_setAside hcur hw htr hc hf hstop hd, fun h => ?_⟩,
    fun s m w hcur hw hd => ?_, fun s n i l hcur htrip hscript hn => ?_⟩
  · obtain ⟨hok, herr⟩ := step_word hcur hw htr hc hf hstop hd h
    refine ⟨hok, herr, fun hr => ?_⟩
    have hb : FromBundle ⟨.core t r, w, tr.adv, c⟩ := hr
    refine ⟨fun i hi => hok i (hb.fetchWord_of_ok _ hi), fun sub hsub => ?_⟩
    rw [herr _ (hb.fetchWord_of_bad _ hsub), hb.ownWord_eq]
  · obtain ⟨hok, herr⟩ := step_mword hcur hw hd
    have hb : FromBundle ⟨.mgmt m, w, (s.mg m).adv, (s.mg m).core⟩ := fun h5 => by
      change w = 5 at h5
      omega
    exact ⟨fun i hi => hok i (hb.fetchWord_of_ok _ hi), fun sub hsub => herr _ (hb.fetchWord_of_bad _ hsub)⟩
  · unfold step State.nextMove
    simp only [hcur, State.nextIdle, htrip, hscript, hn, if_true, if_false, Bool.false_eq_true]

end Sys2Proof.Proofs.BundleAndAssembly
end

section
/-!
The privileged words (R98, R139, R265, R273): what they do on a core of a troupe and on a management core, and that a bundle
that holds one of them alone is well formed.
-/

namespace Sys2Proof.Proofs.BundleAndAssembly

open Sys2Proof Sys2Proof.Machine Sys2Proof.Claims

/-! ## Privileged words in general -/

theorem mgmtWord_of_core {pd : Pd} {s : State} {x : Iss} (f : Iss → Nat → State ⊕ Exc) (h : Runs s x pd)
    (hx : OnCore x) : mgmtWord pd s f = .next (s.except x x.core privilege) := by
  obtain ⟨hi, hp⟩ := h
  obtain ⟨t, r, hag⟩ := hx
  rw [mgmtWord, pkgWord_of_active _ hi hp]
  simp only [hag]

theorem mgmtWord_of_mgmt {pd : Pd} {s : State} {x : Iss} {m : Nat} {t : State} (f : Iss → Nat → State ⊕ Exc)
    (h : Runs s x pd) (hx : x.ag = .mgmt m) (hf : f { x with core := charged x.core [0x01] } m = .inl t) :
    mgmtWord pd s f = .next t := by
  obtain ⟨hi, hp⟩ := h
  have hk : x.core.charge 0x01 1 = charged x.core [0x01] := rfl
  rw [mgmtWord, pkgWord_of_active _ hi hp]
  simp only [hx] at hf ⊢
  rw [hk, hf]

theorem mgmtWord_of_fault {pd : Pd} {s : State} {x : Iss} {m : Nat} {e : Exc} (f : Iss → Nat → State ⊕ Exc)
    (h : Runs s x pd) (hx : x.ag = .mgmt m) (hf : f { x with core := charged x.core [0x01] } m = .inr e) :
    mgmtWord pd s f = .next (s.except x x.core e) := by
  obtain ⟨hi, hp⟩ := h
  have hk : x.core.charge 0x01 1 = charged x.core [0x01] := rfl
  rw [mgmtWord, pkgWord_of_active _ hi hp]
  simp only [hx] at hf ⊢
  rw [hk, hf]

/-! ## System registers -/

theorem sysFault_of_listed {code : Nat} {lvl : BitVec 2} (h : sysListed.contains code = true) :
    sysFault code lvl = if lvl.toNat < code / 2 ^ 14 then some privilege else none := by
  simp only [sysFault, h, Bool.not_true, Bool.false_eq_true, if_false]

theorem sysFault_of_unlisted {code : Nat} {lvl : BitVec 2} (h : sysListed.contains code = false) :
    sysFault code lvl = some illegalOperand := by
  simp only [sysFault, h, Bool.not_false, if_true]

section Words
variable {s : State} {x : Iss} {pd : Pd} {m : Nat} (d a : SReg) {code : BitVec 16} (h : Runs s x pd)
  (hx : x.ag = .mgmt m)
include h hx

theorem sprd_of_fault {e : Exc} (he : sysFault code.toNat (s.mg m).lvl = some e) : Raises (.sprd pd d code) s x e := by
  show execSprd pd d code s = _
  exact mgmtWord_of_fault _ h hx (by simp only [he])

theorem spwr_of_fault {e : Exc} (he : sysFault code.toNat (s.mg m).lvl = some e) : Raises (.spwr pd code a) s x e := by
  show execSpwr pd code a s = _
  exact mgmtWord_of_fault _ h hx (by simp only [he])

theorem spwr_writes (he : sysFault code.toNat (s.mg m).lvl = none) :
    Later (.spwr pd code a) s x [0x01] [(1, .sys code (x.core.rs a) (s.mg m).lvl, 0)] := by
  show execSpwr pd code a s = _
  exact mgmtWord_of_mgmt _ h hx (by simp only [he]; rfl)

/-- A read has the register's value at issue+1. -/
theorem sprd_reads (he : sysFault code.toNat (s.mg m).lvl = none) (hc : code ≠ 0x8051 ∨ s.ptSt ≠ 2) :
    WritesS (.sprd pd d code) s x 1 d (s.sysRead m code.toNat) := by
  have hno : (decide (code = 0x8051) && s.ptSt == 2) = false := by
    simpa [Classical.or_iff_not_imp_left] using hc
  show execSprd pd d code s = _
  exact mgmtWord_of_mgmt _ h hx (by simp only [he, hno]; rfl)

/-- R326: a read of PT_RES acknowledges the result that stands. -/
theorem sprd_acknowledges (he : sysFault code.toNat (s.mg m).lvl = none) (hc : code = 0x8051) (hp : s.ptSt = 2) :
    exec (.sprd pd d code) s = .next (({ s with ptSt := 0 } : State).did x
      { charged x.core [0x01] with pend := x.core.pend ++ [due x (1, .wS d (s.sysRead m code.toNat), 0)] }) := by
  have hyes : (decide (code = 0x8051) && s.ptSt == 2) = true := by simp [hc, hp]
  show execSprd pd d code s = _
  exact mgmtWord_of_mgmt _ h hx (by simp only [he, hyes]; rfl)

theorem halt_stops : exec (.halt pd) s =
    .next ((s.setMg m { s.mg m with halted := true }).did x (charged x.core [0x01])) := by
  show execHalt pd s = _
  exact mgmtWord_of_mgmt _ h hx rfl

end Words

/-- On a core of a troupe every privileged word faults. -/
theorem raises_privilege {s : State} {x : Iss} {pd : Pd} (h : Runs s x pd) (hx : OnCore x) (d a : SReg)
    (code : BitVec 16) : Raises (.sprd pd d code) s x privilege ∧ Raises (.spwr pd code a) s x privilege ∧
      Raises (.eret pd) s x privilege ∧ Raises (.halt pd) s x privilege := by
  refine ⟨?_, ?_, ?_, ?_⟩
  · show execSprd pd d code s = _
    exact mgmtWord_of_core _ h hx
  · show execSpwr pd code a s = _
    exact mgmtWord_of_core _ h hx
  · show execEret pd s = _
    exact mgmtWord_of_core _ h hx
  · show execHalt pd s = _
    exact mgmtWord_of_core _ h hx

/-! ## A bundle with one word -/

theorem slotBad_of_empty (mg : Bool) : slotBad mg 3 0 0 = none ∧ slotBad mg 4 0 0 = none ∧ slotBad mg 5 0 0 = none ∧
    slotBad mg 6 0 0 = none ∧ slotBad mg 7 0 0 = none := by
  cases mg <;> exact ⟨rfl, rfl, rfl, rfl, rfl⟩

/-- A bundle whose only word is a well-formed word of S. -/
theorem bundleBad_of_scalar (mg : Bool) {i : Instr} (h : i.wf = true) (hs : i.slot = .S) :
    bundleBad mg 0 0 (encode i) 0 0 0 0 0 = none := by
  have hslot : slotBad mg 2 (encode i) 0 = none := by
    have hdec : decodeSlot 2 (encode i) = .ok i := decodeOpS_encode i h hs
    cases mg <;> simp [slotBad, hdec]
  have hhead : headBad 0 = none := rfl
  have hnet : (if mg && (0 : Nat) != 0 && (netBad 0).isNone then some 6 else netBad 0) = none := by
    cases mg <;> rfl
  obtain ⟨h3, h4, h5, h6, h7⟩ := slotBad_of_empty mg
  simp only [bundleBad, hhead, hnet, hslot, h3, h4, h5, h6, h7, Option.map_none]

/-- Settles O9, word by word. -/
theorem privilegedWords : Obligations.PrivilegedWords := by
  unfold Obligations.PrivilegedWords
  intro s x pd d a code h
  refine ⟨fun hx => raises_privilege h hx d a code,
    fun m hx => ⟨fun hl hle => ?_, fun hl hlt => ?_, fun hl => ?_, halt_stops h hx⟩, fun mg i hi => ?_⟩
  · have he : sysFault code.toNat (s.mg m).lvl = none := by
      rw [sysFault_of_listed hl, if_neg (Nat.not_lt.mpr hle)]
    exact ⟨sprd_reads d h hx he, sprd_acknowledges d h hx he, spwr_writes a h hx he⟩
  · have he : sysFault code.toNat (s.mg m).lvl = some privilege := by rw [sysFault_of_listed hl, if_pos hlt]
    exact ⟨sprd_of_fault d h hx he, spwr_of_fault a h hx he⟩
  · have he : sysFault code.toNat (s.mg m).lvl = some illegalOperand := sysFault_of_unlisted hl
    exact ⟨sprd_of_fault d h hx he, spwr_of_fault a h hx he⟩
  · simp only [List.mem_cons, List.not_mem_nil, or_false] at hi
    rcases hi with rfl | rfl | rfl | rfl <;> exact bundleBad_of_scalar mg rfl rfl

end Sys2Proof.Proofs.BundleAndAssembly
end

section
/-!
Words in general (R29, R93, R94, R133, R134, R274): an inactive word, form by form; what the completion of a word leaves
unchanged; and the words that only advance.
-/

namespace Sys2Proof.Proofs.BundleAndAssembly

open Sys2Proof Sys2Proof.Machine Sys2Proof.Claims

/-! ## Inactive words (R94) -/

section Inactive
variable {pd : Pd} {s : State} {x : Iss} (h : s.issuer = some x) (hp : x.core.on pd = false)
include h hp

theorem scalarOp_of_inactive (d : SReg) (lat : Nat) (f : Core → BitVec 64) :
    scalarOp pd d lat s f = .next (s.did x x.core) := coreWord_of_inactive _ _ h hp

theorem predOp_of_inactive (d : PReg) (f : Core → Bool) : predOp pd d s f = .next (s.did x x.core) :=
  coreWord_of_inactive _ _ h hp

theorem branchOp_of_inactive (link : Option SReg) (target : Core → Nat) :
    branchOp pd s link target = .next (s.did x x.core) := coreWord_of_inactive _ _ h hp

theorem mgmtWord_of_inactive (f : Iss → Nat → State ⊕ Exc) : mgmtWord pd s f = .next (s.did x x.core) :=
  pkgWord_of_inactive _ h hp

theorem saveOp_of_inactive (mode : Nat) (acc : AReg) (a : SReg) (rows : BitVec 7) :
    saveOp mode pd acc a rows s = .next (s.did x x.core) := coreWord_of_inactive _ _ h hp

theorem copyWord_of_inactive (dly : BitVec 12) (ac : BitVec 2) (f : Iss → List (Option Exc) × CopyOp) :
    copyWord pd dly ac s f = .next (s.did x x.core) := coreWord_of_inactive _ _ h hp

theorem rowsWord_of_inactive (sc : Bool) (d a map : SReg) (ac : ACls) (dly : BitVec 12) :
    rowsWord sc pd d a map ac dly s = .next (s.did x x.core) := copyWord_of_inactive h hp _ _ _

theorem execCdrive_of_inactive (a : SReg) : execCdrive pd a s = .next (s.did x x.core) := by
  simp only [execCdrive, h, hp, Bool.not_false, if_true]

theorem execCcatch_of_inactive (a : SReg) (pos : BitVec 3) : execCcatch pd a pos s = .next (s.did x x.core) := by
  simp only [execCcatch, h, hp, Bool.not_false, if_true]

end Inactive

/-- The predicate that a word's encoding shows is the one that the word is under. -/
theorem off_of_encoded {c : Core} {pd pd' : Pd} {op : Nat} {fs ss : List (Nat × Nat)} (hoff : c.on pd' = false)
    (hpd : pdOf (word pd op fs) = pd') (h : Sized fs ss) (hw : Windows ss) : c.on pd = false := by
  rwa [(word_split h hw pd op).2.1.symm.trans hpd]

theorem execNop_of_issuer {s : State} {x : Iss} (h : s.issuer = some x) : Leaves .nop s x x.core := by
  show execNop s = _
  simp only [execNop, h]

theorem inactive_scalar (i : Instr) {s : State} {x : Iss} (h : s.issuer = some x)
    (hoff : x.core.on (pdOf (encode i)) = false) (hs : i.slot = .S) : Leaves i s x x.core := by
  unfold Leaves
  cases i with
  | nop => exact execNop_of_issuer h
  | add | sub | mul | mulh | mulhu | div | divu | rem_ | remu | and_ | or_ | xor_ | andn | min_ | max_ | minu | maxu
  | shl | shr | sar | rol | clz | ctz | popc | sel | cmp | addi | andi | ori | xori | shli | shri | sari | muli | cmpi
  | li | lui =>
    unfold exec; dsimp only
    exact scalarOp_of_inactive h (off_of_encoded hoff rfl (by repeat constructor) (by decide)) _ _ _
  | cmpp | cmppi =>
    unfold exec; dsimp only
    exact predOp_of_inactive h (off_of_encoded hoff rfl (by repeat constructor) (by decide)) _ _
  | br | jr | call | callr | ret =>
    unfold exec; dsimp only
    exact branchOp_of_inactive h (off_of_encoded hoff rfl (by repeat constructor) (by decide)) _ _
  | fmt | loop | ldb | stb | ldt | stt | ldg | stg | hgive | htake | hquery | phase | realign | locq | csrr | csrw
  | trap | syscRetire | syscCall =>
    unfold exec; dsimp only
    exact coreWord_of_inactive _ _ h (off_of_encoded hoff rfl (by repeat constructor) (by decide))
  | cadd | cwait | cwaitArmed | carm | cread =>
    unfold exec; dsimp only
    exact pkgWord_of_inactive _ h (off_of_encoded hoff rfl (by repeat constructor) (by decide))
  | sprd | spwr | eret | halt =>
    unfold exec; dsimp only
    exact mgmtWord_of_inactive h (off_of_encoded hoff rfl (by repeat constructor) (by decide)) _
  | _ => cases hs

theorem inactive_matrix (i : Instr) {s : State} {x : Iss} (h : s.issuer = some x)
    (hoff : x.core.on (pdOf (encode i)) = false) (hs : i.slot = .M) : Leaves i s x x.core := by
  unfold Leaves
  cases i with
  | mldw | mldwt | mzero | mzeroInt | macc | maccp | mscale | mswap | mcomp | mdrain | mdrainRev | mdrainUndo | mcall
  | mset | mgemv | mend =>
    unfold exec; dsimp only
    exact coreWord_of_inactive _ _ h (off_of_encoded hoff rfl (by repeat constructor) (by decide))
  | msave | mrstr =>
    unfold exec; dsimp only
    exact saveOp_of_inactive h (off_of_encoded hoff rfl (by repeat constructor) (by decide)) _ _ _ _
  | _ => cases hs

theorem inactive_copy (i : Instr) {s : State} {x : Iss} (h : s.issuer = some x)
    (hoff : x.core.on (pdOf (encode i)) = false) (hs : i.slot = .C) : Leaves i s x x.core := by
  unfold Leaves
  cases i with
  | xcpy | xfill | xstore | xtld | xtst | xrsp | xrfl | xmig | xscl | xwin | xmcast | xsend | xsendMsg | xget | xrts
  | xbat | xenq =>
    unfold exec; dsimp only
    exact copyWord_of_inactive h (off_of_encoded hoff rfl (by repeat constructor) (by decide)) _ _ _
  | xrows | xrowsSc =>
    unfold exec; dsimp only
    exact rowsWord_of_inactive h (off_of_encoded hoff rfl (by repeat constructor) (by decide)) _ _ _ _ _ _
  | cdrive =>
    unfold exec; dsimp only
    exact execCdrive_of_inactive h (off_of_encoded hoff rfl (by repeat constructor) (by decide)) _
  | ccatch =>
    unfold exec; dsimp only
    exact execCcatch_of_inactive h (off_of_encoded hoff rfl (by repeat constructor) (by decide)) _ _
  | _ => cases hs

theorem inactiveWord : InactiveWord := by
  rintro i s x _ h hoff rfl (hs | hs | hs)
  · exact inactive_scalar i h hoff hs
  · exact inactive_matrix i h hoff hs
  · exact inactive_copy i h hoff hs

/-! ## The completion of a word (R274) -/

theorem did_core_of_ne {s : State} {x : Iss} {c : Core} {a : Agent} (h : a ≠ x.ag) :
    (s.did x c).core? a = s.core? a := core_setCore_ne (s := s) (c := c.tookEffect x.w) h

theorem did_core_same {s : State} {x : Iss} {c : Core} (h : s.issuer = some x) :
    (s.did x c).core? x.ag = some (c.tookEffect x.w) := core_setCore_same (core_of_issuer h)

theorem setCore_core_mgmt (s : State) (t r : Nat) (c : Core) : (s.setCore (.core t r) c).mgmt = s.mgmt := by
  simp only [State.setCore, State.modTroupe]
  cases s.troupe? t <;> rfl

/-- Only the two management cores issue. -/
theorem lt_two_of_issuer {s : State} {x : Iss} {m : Nat} (h : s.issuer = some x) (hx : x.ag = .mgmt m) : m < 2 := by
  have hc := core_of_issuer h
  rw [hx] at hc
  by_contra hm
  simp [State.core?, hm] at hc

theorem didFrame : DidFrame := by
  intro s x c h
  refine ⟨did_core_same h, fun a => did_core_of_ne, ?_, ?_, ?_, ?_, ?_⟩
  · rw [s.did_frame x c]
  · rintro ⟨t, r, hx⟩
    show (s.setCore x.ag (c.tookEffect x.w)).mgmt = s.mgmt
    rw [hx, setCore_core_mgmt]
  · intro m hx
    show (s.setCore x.ag (c.tookEffect x.w)).troupes = s.troupes ∧ (s.setCore x.ag (c.tookEffect x.w)).mg m =
      { s.mg m with core := ((s.setCore x.ag (c.tookEffect x.w)).mg m).core }
    have hset : s.setCore x.ag (c.tookEffect x.w) = s.setMg m { s.mg m with core := c.tookEffect x.w } := by rw [hx]; rfl
    rw [hset, mg_setMg_same (lt_two_of_issuer h hx)]
    exact ⟨rfl, rfl⟩
  · intro t r w hcur
    rw [s.did_frame x c, hcur]
    rfl
  · intro m w hcur
    rw [s.did_frame x c, hcur]
    rfl

/-! ## What an access pays changes nothing else (R289) -/

/-- The core `k` is `c` but for its charges and the leaves that it has walked. -/
def PaysOnly (c k : Core) : Prop := k = { c with chg := k.chg, walked := k.walked }

theorem PaysOnly.refl (c : Core) : PaysOnly c c := Eq.refl c

theorem PaysOnly.trans {c k l : Core} (h : PaysOnly c k) (h' : PaysOnly k l) : PaysOnly c l := by
  unfold PaysOnly at *
  rw [h', h]

theorem paysOnly_addCharges (c : Core) (l : List (Nat × Nat × Nat)) : PaysOnly c (c.addCharges l) := Eq.refl (c.addCharges l)

theorem paysOnly_payWalk (s : State) (cx : Ctx) (va : Nat) (c : Core) : PaysOnly c (s.payWalk cx va c) := by
  unfold State.payWalk
  split
  · exact .refl c
  · split
    · exact paysOnly_addCharges c _
    · split
      · exact .refl c
      · rfl

theorem paysOnly_payG (s : State) (a : Agent) (cx : Ctx) (need : Need) (runs : List (Nat × Nat)) (c : Core) :
    PaysOnly c (s.payG a cx need runs c) := by
  cases a with
  | mgmt m => exact .refl c
  | core t r =>
    unfold State.payG
    dsimp only
    induction runs generalizing c with
    | nil => exact .refl c
    | cons g runs ih =>
      rw [List.foldl_cons]
      refine PaysOnly.trans ?_ (ih _)
      split
      · exact (paysOnly_payWalk s cx g.1 c).trans (paysOnly_addCharges _ _)
      · exact paysOnly_payWalk s cx g.1 c

theorem paysOnly_payEgress (s : State) (a : Agent) (c : Core) : PaysOnly c (s.payEgress a c) :=
  paysOnly_payG s a _ _ _ c

theorem PaysOnly.pend_eq {c k : Core} (h : PaysOnly c k) : k.pend = c.pend := (congrArg Core.pend h).trans rfl

theorem PaysOnly.pc_eq {c k : Core} (h : PaysOnly c k) : k.pc = c.pc := (congrArg Core.pc h).trans rfl

theorem PaysOnly.rtnOn_eq {c k : Core} (h : PaysOnly c k) : k.rtnOn = c.rtnOn := (congrArg Core.rtnOn h).trans rfl

/-- A core that has paid schedules what is due from word `x` as it would have done before. -/
theorem PaysOnly.sched_eq {x : Iss} {k : Core} (h : PaysOnly (charged x.core [0x01]) k) (y : Iss) (hy : y.now = x.now)
    (hw : y.w = x.w) (n : Nat) (act : Act) :
    k.sched y n act = { k with pend := x.core.pend ++ [due x (n, act, 0)] } := by
  rw [Core.sched, h.pend_eq, h.pc_eq, h.rtnOn_eq, hy, hw]
  rfl

/-! ## Realign and phase (R29, R133) -/

section Active
variable {s : State} {x : Iss} {pd : Pd} (h : s.issuer = some x) (hp : x.core.on pd = true)
include h hp

theorem realign_asks : Leaves (.realign pd) s x { charged x.core [0x01] with realign := true } := by
  show execRealign pd s = _
  rw [execRealign, coreWord_of_active _ _ h hp]
  rfl

theorem phase_core : Leaves (.phase pd .core) s x
    { s.payEgress x.ag (charged x.core [0x01]) with pend := x.core.pend ++ [due x (0, .phaseCore, 0)] } := by
  show execPhase pd .core s = _
  rw [execPhase, coreWord_of_active _ _ h hp]
  have hk := paysOnly_payEgress s x.ag (charged x.core [0x01])
  rw [← hk.sched_eq { x with core := charged x.core [0x01] } rfl rfl]
  rfl

/-- The wait of a phase wider than its core. -/
def phaseWait (s : State) (x : Iss) (sc : Scope) : Wait :=
  { kind := .phase sc.code, d := 0, handle := 0, dl := 0, ticks := 0, baddr := x.core.pc, since := s.wall,
    formed := none, report := none, iss := x.now, op := 0, markers := [] }

theorem phase_wide {sc : Scope} (hsc : sc ≠ .core) : Leaves (.phase pd sc) s x
    { s.payEgress x.ag (charged x.core [0x01]) with wait := some (phaseWait s x sc) } := by
  show execPhase pd sc s = _
  rw [execPhase, coreWord_of_active _ _ h hp]
  have hpc : (s.payEgress x.ag (charged x.core [0x01])).pc = x.core.pc := (paysOnly_payEgress s x.ag _).pc_eq
  have hnum : Scope.num sc ≠ 0 := by
    cases sc with
    | core => exact absurd rfl hsc
    | _ => decide
  unfold phaseWait
  rw [← hpc]
  show (Host.Outcome.next (s.finish x (if Scope.num sc = 0 then _ else _)) : Host.Outcome State Fault Refusal) = _
  rw [if_neg hnum]
  rfl

end Active

theorem phaseRealignNop : PhaseRealignNop := by
  intro s x pd sc h
  refine ⟨execNop_of_issuer h, fun hp => ⟨realign_asks h hp, paysOnly_payEgress s x.ag _, fun hsc => ?_, fun hsc => ?_⟩⟩
  · subst hsc
    exact phase_core h hp
  · exact ⟨phaseWait s x sc, phase_wide h hp hsc, rfl, rfl, rfl, rfl, rfl, rfl⟩

/-- Settles O14, part by part. -/
theorem wordsInGeneral : Obligations.WordsInGeneral := ⟨inactiveWord, didFrame, phaseRealignNop⟩

end Sys2Proof.Proofs.BundleAndAssembly
end

section
/-!
The scalar operations as functions of their operands (R112 to R116): each of the model's value functions against the arithmetic
or the bits that the spec gives it.
-/

namespace Sys2Proof.Proofs.ScalarSlot

open Sys2Proof Sys2Proof.Machine Sys2Proof.Claims

/-! ## Products and quotients -/

/-- An integer in the range of a signed word is the value of the word that it makes. -/
theorem toInt_ofInt_of_range {z : Int} (h1 : -2 ^ 63 ≤ z) (h2 : z < 2 ^ 63) : (BitVec.ofInt 64 z).toInt = z := by
  rw [BitVec.toInt_ofInt]
  exact Int.bmod_eq_of_le (by simpa using h1) (by simpa using h2)

theorem toInt_range (a : BitVec 64) : -2 ^ 63 ≤ a.toInt ∧ a.toInt < 2 ^ 63 :=
  ⟨by simpa using a.le_toInt, by simpa using a.toInt_lt⟩

/-- A signed product lies within 2^126 of 0, so its high half is a signed word. -/
theorem toInt_mulHigh (a b : BitVec 64) : (mulHigh a b).toInt = (a.toInt * b.toInt).fdiv (2 ^ 64) := by
  obtain ⟨ha, ha'⟩ := toInt_range a
  obtain ⟨hb, hb'⟩ := toInt_range b
  have hlow : -2 ^ 126 ≤ a.toInt * b.toInt := by nlinarith
  have hhigh : a.toInt * b.toInt ≤ 2 ^ 126 := by nlinarith
  rw [mulHigh, Int.fdiv_eq_ediv_of_nonneg _ (by decide)]
  exact toInt_ofInt_of_range (by omega) (by omega)

theorem toNat_mulHighU (a b : BitVec 64) : (mulHighU a b).toNat = a.toNat * b.toNat / 2 ^ 64 := by
  have hlt : a.toNat * b.toNat < 2 ^ 64 * 2 ^ 64 := Nat.mul_lt_mul'' a.isLt b.isLt
  rw [mulHighU, BitVec.toNat_ofNat, Nat.mod_eq_of_lt (Nat.div_lt_of_lt_mul hlt)]

/-- The two edge cases of R113 are the division by 0 and the quotient that no signed word holds. -/
theorem toInt_divS (a b : BitVec 64) : (divS a b).toInt =
    if b = 0 then -1 else if a.toInt = -2 ^ 63 ∧ b.toInt = -1 then -2 ^ 63 else a.toInt.tdiv b.toInt := by
  have hdiv : (BitVec.ofInt 64 (a.toInt.tdiv b.toInt)).toInt = (a.sdiv b).toInt := by
    rw [BitVec.toInt_ofInt, BitVec.toInt_sdiv]
  unfold divS
  split_ifs with hb hedge
  · rfl
  · rw [hedge.1, hedge.2]
    rfl
  · refine hdiv.trans (BitVec.toInt_sdiv_of_ne_or_ne a b ?_)
    by_contra hne
    push Not at hne
    exact hedge ⟨by rw [hne.1]; rfl, by rw [hne.2]; rfl⟩

theorem toNat_divU (a b : BitVec 64) : (divU a b).toNat = if b = 0 then 2 ^ 64 - 1 else a.toNat / b.toNat := by
  unfold divU
  split_ifs with hb
  · rfl
  · rw [BitVec.toNat_ofNat, Nat.mod_eq_of_lt (lt_of_le_of_lt (Nat.div_le_self _ _) a.isLt)]

theorem toInt_remS (a b : BitVec 64) : (remS a b).toInt = if b = 0 then a.toInt else a.toInt.tmod b.toInt := by
  unfold remS
  split_ifs with hb
  · rfl
  · rw [← BitVec.toInt_srem, BitVec.ofInt_toInt]

theorem toNat_remU (a b : BitVec 64) : (remU a b).toNat = if b = 0 then a.toNat else a.toNat % b.toNat := by
  unfold remU
  split_ifs with hb
  · rfl
  · rw [BitVec.toNat_ofNat, Nat.mod_eq_of_lt (lt_of_le_of_lt (Nat.mod_le _ _) a.isLt)]

/-! ## Shifts and halves -/

theorem toNat_shiftLeft_mul (a : BitVec 64) (k : Nat) : (a <<< k).toNat = a.toNat * 2 ^ k % 2 ^ 64 := by
  rw [BitVec.toNat_shiftLeft, Nat.shiftLeft_eq]

theorem toNat_ushiftRight_div (a : BitVec 64) (k : Nat) : (a >>> k).toNat = a.toNat / 2 ^ k := by
  rw [BitVec.toNat_ushiftRight, Nat.shiftRight_eq_div_pow]

theorem toInt_sshiftRight_fdiv (a : BitVec 64) (k : Nat) : (a.sshiftRight k).toInt = a.toInt.fdiv (2 ^ k) := by
  rw [BitVec.toInt_sshiftRight, Int.shiftRight_eq_div_pow, Int.fdiv_eq_ediv_of_nonneg _ (by positivity)]
  norm_cast

/-- A rotation by `k` takes bit `j` to bit `j + k` modulo 64. -/
theorem getLsbD_rotateLeft_add (a : BitVec 64) {k j : Nat} (hk : k < 64) (hj : j < 64) :
    (a.rotateLeft k).getLsbD ((j + k) % 64) = a.getLsbD j := by
  rw [BitVec.getLsbD_rotateLeft, Nat.mod_eq_of_lt hk]
  by_cases hwrap : j + k < 64
  · rw [Nat.mod_eq_of_lt hwrap]
    simp [hwrap]
  · have hmod : (j + k) % 64 = j + k - 64 := by omega
    have hback : 64 - k + (j + k - 64) = j := by omega
    rw [hmod, hback, decide_eq_true (by omega), cond_true]

theorem toNat_append_low (imm : BitVec 32) (a : BitVec 64) :
    (imm ++ a.truncate 32 : BitVec 64).toNat = imm.toNat * 2 ^ 32 + a.toNat % 2 ^ 32 := by
  rw [BitVec.toNat_append, ← Nat.shiftLeft_add_eq_or_of_lt (BitVec.isLt _), Nat.shiftLeft_eq]
  rfl

/-! ## Minima and maxima -/

theorem toInt_min (a b : BitVec 64) : (if a.slt b then a else b).toInt = min a.toInt b.toInt := by
  simp only [BitVec.slt_iff_toInt_lt]
  split <;> omega

theorem toInt_max (a b : BitVec 64) : (if a.slt b then b else a).toInt = max a.toInt b.toInt := by
  simp only [BitVec.slt_iff_toInt_lt]
  split <;> omega

theorem toNat_min (a b : BitVec 64) : (if a.ult b then a else b).toNat = min a.toNat b.toNat := by
  simp only [BitVec.ult_iff_toNat_lt]
  split <;> omega

theorem toNat_max (a b : BitVec 64) : (if a.ult b then b else a).toNat = max a.toNat b.toNat := by
  simp only [BitVec.ult_iff_toNat_lt]
  split <;> omega

/-! ## Counts of bits -/

theorem toNat_ofNat_count {n : Nat} (h : n ≤ 64) : (BitVec.ofNat 64 n).toNat = n := by
  rw [BitVec.toNat_ofNat]; omega

theorem leadZeros_le (a : BitVec 64) : leadZeros a ≤ 64 := by
  unfold leadZeros
  split <;> omega

/-- The leading zeros end where the highest set bit stands. -/
theorem leadZeros_spec (a : BitVec 64) : a.toNat < 2 ^ (64 - leadZeros a) ∧
    (leadZeros a < 64 → 2 ^ (63 - leadZeros a) ≤ a.toNat) := by
  unfold leadZeros
  split_ifs with ha
  · exact ⟨by simp [ha], fun h => absurd h (by decide)⟩
  · have hne : a.toNat ≠ 0 := fun h => ha (BitVec.eq_of_toNat_eq h)
    have hlog : a.toNat.log2 < 64 := (Nat.log2_lt hne).mpr a.isLt
    have hup : 64 - (63 - a.toNat.log2) = a.toNat.log2 + 1 := by omega
    have hlo : 63 - (63 - a.toNat.log2) = a.toNat.log2 := by omega
    rw [hup, hlo]
    exact ⟨Nat.lt_log2_self, fun _ => Nat.log2_self_le hne⟩

/-- A number and its complement to 2^64 share their lowest set bit alone. -/
theorem and_complement {n : Nat} (hn : n < 2 ^ 64) {k m : Nat} (h : n = 2 ^ (k + 1) * m + 2 ^ k) :
    n &&& (2 ^ 64 - n) = 2 ^ k := by
  have hpos : 0 < 2 ^ k := Nat.two_pow_pos k
  have hle : 2 ^ k < 2 ^ (k + 1) := Nat.pow_lt_pow_right (by decide) (Nat.lt_succ_self k)
  obtain ⟨p, hp⟩ : ∃ p, n = p + 1 := ⟨n - 1, by omega⟩
  have hpred : p = 2 ^ (k + 1) * m + (2 ^ k - 1) := by omega
  refine Nat.eq_of_testBit_eq fun i => ?_
  rw [Nat.testBit_and, hp, Nat.testBit_two_pow_sub_succ (by omega), ← hp, h, hpred,
    Nat.testBit_two_pow_mul_add m hle, Nat.testBit_two_pow_mul_add m (by omega), Nat.testBit_two_pow,
    Nat.testBit_two_pow_sub_one]
  by_cases hik : i < k + 1
  · rw [if_pos hik, if_pos hik]
    have hk64 : k < 64 := (Nat.pow_lt_pow_iff_right (a := 2) (by decide)).mp (by omega)
    by_cases he : k = i
    · subst he; simp [hk64]
    · simp [he]
  · rw [if_neg hik, if_neg hik, decide_eq_false (show ¬ k = i by omega)]
    cases m.testBit (i - (k + 1)) <;> simp

theorem trailZeros_le (a : BitVec 64) : trailZeros a ≤ 64 := by
  unfold trailZeros
  split_ifs with ha
  · exact Nat.le_refl _
  · rcases Nat.eq_zero_or_pos (a.toNat &&& (2 ^ 64 - a.toNat)) with hz | hz
    · rw [hz]; decide
    · exact Nat.le_of_lt ((Nat.log2_lt (by omega)).mpr (Nat.lt_of_le_of_lt Nat.and_le_left a.isLt))

/-- The trailing zeros end where the lowest set bit stands. -/
theorem trailZeros_spec {a : BitVec 64} (ha : a ≠ 0) : a.getLsbD (trailZeros a) = true ∧
    ∀ j < trailZeros a, a.getLsbD j = false := by
  have hne : a.toNat ≠ 0 := fun h => ha (BitVec.eq_of_toNat_eq h)
  obtain ⟨k, o, ⟨m, rfl⟩, hk⟩ := Nat.exists_eq_two_pow_mul_odd hne
  have hform : a.toNat = 2 ^ (k + 1) * m + 2 ^ k := by rw [hk, pow_succ]; ring
  have hle : 2 ^ k < 2 ^ (k + 1) := Nat.pow_lt_pow_right (by decide) (Nat.lt_succ_self k)
  have hcount : trailZeros a = k := by
    rw [trailZeros, if_neg ha, and_complement a.isLt hform, Nat.log2_two_pow]
  have hbit (j : Nat) (hj : j ≤ k) : a.getLsbD j = decide (k = j) := by
    rw [BitVec.getLsbD, hform, Nat.testBit_two_pow_mul_add m hle, if_pos (by omega), Nat.testBit_two_pow]
  rw [hcount]
  exact ⟨by simpa using hbit k (Nat.le_refl k), fun j hj => by simpa [Nat.ne_of_gt hj] using hbit j (Nat.le_of_lt hj)⟩

/-- A sum of bits counts those that are set. -/
theorem sum_bit_eq_countP (p : Nat → Bool) (l : List Nat) : (l.map fun i => bit (p i)).sum = l.countP p := by
  induction l with
  | nil => rfl
  | cons i l ih => rw [List.map_cons, List.sum_cons, ih, List.countP_cons]; cases p i <;> simp [bit]; omega

theorem ones64_eq_countP (a : BitVec 64) : ones64 a = (List.range 64).countP fun j => a.getLsbD j := by
  rw [ones64, Laws.Network.tab_eq_map, sum_bit_eq_countP]

theorem ones64_le (a : BitVec 64) : ones64 a ≤ 64 := by
  rw [ones64_eq_countP]
  exact List.countP_le_length.trans (by simp)

/-! ## Conditions -/

/-- The model's conditions are those of R114. -/
theorem holds_iff_meets {n : Nat} (cc : Cond) (a b : BitVec n) : cc.holds a b = true ↔ Meets cc a b := by
  cases cc <;> simp [Cond.holds, Meets, BitVec.slt_eq_decide, BitVec.ult_eq_decide]

end Sys2Proof.Proofs.ScalarSlot
end

section
/-!
Words of the scalar slot that compute (R112 to R117, R137, R138): arithmetic, shifts, counts, compares, immediates, `fmt`,
`trap` and `sysc`.
-/

namespace Sys2Proof.Proofs.ScalarSlot

open Sys2Proof Sys2Proof.Machine Sys2Proof.Claims
open Sys2Proof.Proofs.NumberFormats (raises_of_meaning later_of_meaning)
open Sys2Proof.Proofs.BundleAndAssembly (clean_iff testBit_fld)

/-! ## Words that write one register -/

section
variable {s : State} {x : Iss} {pd : Pd} {i : Instr} {d : SReg} {lat : Nat}

/-- A word whose meaning is a value of the core's operands writes that value. -/
theorem writes_of_core (f : Core → BitVec 64) (h : Runs s x pd) (hi : exec i s = scalarOp pd d lat s f) :
    WritesS i s x lat d (f (x.core.charge 0x01 1)) :=
  later_of_meaning h hi rfl

theorem writes_of_two (f : BitVec 64 → BitVec 64 → BitVec 64) {a b : SReg} (h : Runs s x pd)
    (hi : exec i s = scalarOp pd d lat s fun c => f (c.rs a) (c.rs b)) :
    WritesS i s x lat d (f (x.core.rs a) (x.core.rs b)) :=
  writes_of_core (fun c => f (c.rs a) (c.rs b)) h hi

theorem writes_of_one (f : BitVec 64 → BitVec 64) {a : SReg} (h : Runs s x pd)
    (hi : exec i s = scalarOp pd d lat s fun c => f (c.rs a)) : WritesS i s x lat d (f (x.core.rs a)) :=
  writes_of_core (fun c => f (c.rs a)) h hi

/-- A compare into a predicate writes its one result to every bit. -/
theorem predOp_writes (f : BitVec 64 → BitVec 64 → Bool) {p : PReg} {a b : SReg} (h : Runs s x pd)
    (hi : exec i s = predOp pd p s fun c => f (c.rs a) (c.rs b)) :
    Later i s x [0x01] [(1, .wP p (if f (x.core.rs a) (x.core.rs b) then BitVec.allOnes 1024 else 0), 0)] :=
  later_of_meaning h hi rfl

end

theorem scalarIntegers : ScalarIntegers := by
  intro s x pd d a b h A B
  refine ⟨⟨_, writes_of_two (· + ·) h rfl, BitVec.toNat_add A B⟩, ⟨_, writes_of_two (· - ·) h rfl, ?_⟩,
    ⟨_, writes_of_two (· * ·) h rfl, BitVec.toNat_mul A B⟩, ⟨_, writes_of_two mulHigh h rfl, toInt_mulHigh A B⟩,
    ⟨_, writes_of_two mulHighU h rfl, toNat_mulHighU A B⟩,
    ⟨_, writes_of_two (· &&& ·) h rfl, fun k _ => BitVec.getLsbD_and⟩,
    ⟨_, writes_of_two (· ||| ·) h rfl, fun k _ => BitVec.getLsbD_or⟩,
    ⟨_, writes_of_two (· ^^^ ·) h rfl, fun k _ => BitVec.getLsbD_xor⟩,
    ⟨_, writes_of_two (fun a b => a &&& ~~~b) h rfl, fun k hk => ?_⟩⟩
  · rw [BitVec.toNat_sub, Nat.add_comm]
  · simp [hk, A, B]

theorem scalarDivision : ScalarDivision := by
  intro s x pd d a b h A B
  exact ⟨⟨_, writes_of_two divS h rfl, toInt_divS A B⟩, ⟨_, writes_of_two divU h rfl, toNat_divU A B⟩,
    ⟨_, writes_of_two remS h rfl, toInt_remS A B⟩, ⟨_, writes_of_two remU h rfl, toNat_remU A B⟩⟩

theorem scalarImmediates : ScalarImmediates := by
  intro s x pd d a imm n h A I
  exact ⟨⟨_, writes_of_one (· + sext32 imm) h rfl, BitVec.toNat_add A I⟩,
    ⟨_, writes_of_one (· &&& sext32 imm) h rfl, fun k _ => BitVec.getLsbD_and⟩,
    ⟨_, writes_of_one (· ||| sext32 imm) h rfl, fun k _ => BitVec.getLsbD_or⟩,
    ⟨_, writes_of_one (· ^^^ sext32 imm) h rfl, fun k _ => BitVec.getLsbD_xor⟩,
    ⟨_, writes_of_one (· <<< n.toNat) h rfl, toNat_shiftLeft_mul A n.toNat⟩,
    ⟨_, writes_of_one (· >>> n.toNat) h rfl, toNat_ushiftRight_div A n.toNat⟩,
    ⟨_, writes_of_one (·.sshiftRight n.toNat) h rfl, toInt_sshiftRight_fdiv A n.toNat⟩,
    ⟨_, writes_of_one (· * sext32 imm) h rfl, BitVec.toNat_mul A I⟩,
    ⟨_, writes_of_core (fun _ => sext32 imm) h rfl, BitVec.toInt_signExtend_of_le (by decide)⟩,
    ⟨_, writes_of_one (fun a => imm ++ a.truncate 32) h rfl, toNat_append_low imm A⟩⟩

theorem scalarShiftsAndCounts : ScalarShiftsAndCounts := by
  intro s x pd d a b h A B k
  have hk : k < 64 := Nat.mod_lt _ (by decide)
  have hclz := toNat_ofNat_count (leadZeros_le A)
  have hctz := toNat_ofNat_count (trailZeros_le A)
  have hpopc := toNat_ofNat_count (ones64_le A)
  refine ⟨⟨_, writes_of_two (fun a b => if a.slt b then a else b) h rfl, toInt_min A B⟩,
    ⟨_, writes_of_two (fun a b => if a.slt b then b else a) h rfl, toInt_max A B⟩,
    ⟨_, writes_of_two (fun a b => if a.ult b then a else b) h rfl, toNat_min A B⟩,
    ⟨_, writes_of_two (fun a b => if a.ult b then b else a) h rfl, toNat_max A B⟩,
    ⟨_, writes_of_two (fun a b => a <<< (b.toNat % 64)) h rfl, toNat_shiftLeft_mul A k⟩,
    ⟨_, writes_of_two (fun a b => a >>> (b.toNat % 64)) h rfl, toNat_ushiftRight_div A k⟩,
    ⟨_, writes_of_two (fun a b => a.sshiftRight (b.toNat % 64)) h rfl, toInt_sshiftRight_fdiv A k⟩,
    ⟨_, writes_of_two (fun a b => a.rotateLeft (b.toNat % 64)) h rfl, fun j hj => getLsbD_rotateLeft_add A hk hj⟩,
    ⟨_, writes_of_one (fun a => BitVec.ofNat 64 (leadZeros a)) h rfl, ?_⟩,
    ⟨_, writes_of_one (fun a => BitVec.ofNat 64 (trailZeros a)) h rfl, ?_⟩,
    ⟨_, writes_of_one (fun a => BitVec.ofNat 64 (ones64 a)) h rfl, hpopc.trans (ones64_eq_countP A)⟩⟩
  · rw [hclz]
    exact ⟨leadZeros_le A, leadZeros_spec A⟩
  · rw [hctz]
    exact ⟨trailZeros_le A, fun hz => if_pos hz, fun hz => trailZeros_spec hz⟩

/-- The word that a compare writes is 1 where its condition is met, else 0. -/
theorem compare_value (cc : Cond) (A B : BitVec 64) :
    (Meets cc A B → BitVec.ofNat 64 (bit (cc.holds A B)) = 1) ∧ (¬ Meets cc A B → BitVec.ofNat 64 (bit (cc.holds A B)) = 0) := by
  rw [← holds_iff_meets]
  cases cc.holds A B <;> simp [bit]

theorem compare_bits (cc : Cond) (A B : BitVec 64) {e : Nat} (he : e < 1024) :
    (if cc.holds A B then BitVec.allOnes 1024 else 0).getLsbD e = true ↔ Meets cc A B := by
  rw [← holds_iff_meets]
  cases cc.holds A B
  · simp
  · rw [if_pos rfl, BitVec.getLsbD_allOnes]
    simpa using he

theorem scalarCompareSelect : ScalarCompareSelect := by
  intro s x pd d a b p cc ci imm h A B I
  exact ⟨⟨_, writes_of_two (fun a b => BitVec.ofNat 64 (bit (cc.holds a b))) h rfl, compare_value cc A B⟩,
    ⟨_, writes_of_one (fun a => BitVec.ofNat 64 (bit (ci.toCond.holds a (sext32 imm)))) h rfl, compare_value ci.toCond A I⟩,
    ⟨_, predOp_writes (cc.holds · ·) h rfl, fun e he => compare_bits cc A B he⟩,
    ⟨_, predOp_writes (b := a) (fun a _ => ci.toCond.holds a (sext32 imm)) h rfl, fun e he => compare_bits ci.toCond A I he⟩,
    writes_of_core (fun c => if (c.rp p).getLsbD 0 then c.rs a else c.rs b) h rfl⟩

theorem formatDescriptor : FormatDescriptor := by
  intro s x pd f a imm h V
  have hexec : exec (.fmt pd f a imm) s = coreWord pd (some 0x01) s fun x =>
      let v : BitVec 32 := (x.core.rs a + sext32 imm).truncate 32
      if fmtLegal v then .done (x.core.sched x 4 (.wF f v)) else .exc illegalOperand := rfl
  exact ⟨fun hv => later_of_meaning h hexec (if_pos hv),
    fun hv => raises_of_meaning h hexec (if_neg (ne_true_of_eq_false hv))⟩

/-- Settles O1: each word writes one value of its operands, whose bits the value lemmas give. -/
theorem scalarLogic : Obligations.ScalarLogic := ⟨scalarShiftsAndCounts, scalarCompareSelect⟩

/-- Settles O2, part by part. -/
theorem scalarArithmetic : Obligations.ScalarArithmetic :=
  ⟨scalarIntegers, scalarDivision, scalarImmediates, formatDescriptor⟩

/-! ## Traps and services (R137, R138) -/

theorem form_eq_ok_iff {w : Nat} {fs : List (Nat × Nat)} {lim : Bool} {i j : Instr} :
    form w fs lim i = .ok j ↔ clean w fs = true ∧ (lim && i.wf) = true ∧ i = j := by
  unfold form
  split_ifs <;> simp_all

/-- Of the scalar slot's forms only that of opcode 0x70 gives `trap`, and its fields are CODE and a. -/
theorem clean_of_decodes_trap {w : Nat} {pd : Pd} {code : BitVec 16} {a : SReg}
    (h : decodeOpS w = .ok (.trap pd code a)) : clean w [(23, 16), (39, 6)] = true := by
  rw [decodeOpS] at h
  split at h <;> simp only [form_eq_ok_iff, ite_eq_iff, Dec.ok.injEq, reduceCtorEq, and_false, or_self] at h
  exact h.1

theorem fld_of_decodes_trap {w : Nat} {pd : Pd} {code : BitVec 16} {a : SReg}
    (h : decodeSlot 2 w = .ok (.trap pd code a)) : fld w 45 6 = 0 := by
  have hclean := (clean_iff (by decide) w).mp (clean_of_decodes_trap h)
  refine Nat.eq_of_testBit_eq fun i => ?_
  rw [testBit_fld, Nat.zero_testBit, Bool.and_eq_false_imp, decide_eq_true_eq]
  intro hi
  by_contra hb
  obtain ⟨f, hf, hlo, hhi⟩ := hclean (i + 45) (by omega) (by simpa using hb)
  simp only [List.mem_cons, List.not_mem_nil, or_false] at hf
  rcases hf with rfl | rfl <;> omega

/-- Settles O8: each service from what its word means, and the fields of `trap` from its form. -/
theorem trapsAndServices : Obligations.TrapsAndServices := by
  unfold Obligations.TrapsAndServices
  intro s x pd d a code h k A
  have hsys : exec (.syscCall pd d code a) s = coreWord pd (some 0x01) s fun x =>
      if code.toNat < 0x100 then .exc illegalOperand
      else .doneExc { x.core with sysc := some d } { cause := 0x21, aux0 := x.core.rs a, code := code } := rfl
  refine ⟨?_, ?_, fun hc => ?_, fun hc => raises_of_meaning h hsys (if_pos hc), fun w => fld_of_decodes_trap⟩
  · show execTrap pd code a s = _
    rw [execTrap, coreWord_of_active _ _ h.1 h.2]
    rfl
  · show execSyscRetire pd a s = _
    rw [execSyscRetire, coreWord_of_active _ _ h.1 h.2]
    rfl
  · rw [hsys, coreWord_of_active _ _ h.1 h.2, if_neg (Nat.not_lt.mpr hc)]
    rfl

end Sys2Proof.Proofs.ScalarSlot
end

section
/-!
Control transfer and loops (R31, R118 to R120, R283): where a branch goes and what it links, its faults, and the level that
`loop` arms.
-/

namespace Sys2Proof.Proofs.ScalarSlot

open Sys2Proof Sys2Proof.Machine Sys2Proof.Claims
open Sys2Proof.Proofs.NumberFormats (raises_of_meaning)

/-- A scalar word of class 1 whose meaning is a core takes effect and leaves it. -/
theorem leaves_of_meaning {s : State} {x : Iss} {pd : Pd} {i : Instr} {f : Iss → Res} {c : Core} (h : Runs s x pd)
    (hi : exec i s = coreWord pd (some 0x01) s f) (hf : f { x with core := x.core.charge 0x01 1 } = .done c) :
    Leaves i s x c := by
  rw [Leaves, hi, coreWord_of_active _ f h.1 h.2, hf]; rfl

/-! ## The cases of R119 -/

section
variable {s : State} {x : Iss} {target : Nat}

theorem offStream_iff : OffStream s x target ↔
    (target % 64 ≠ 0 || (s.streamEnd x.ag ≤ target && !(s.inRoutine x.ag && target == s.streamEnd x.ag))) = true := by
  show (target % 64 ≠ 0 ∨ s.streamEnd x.ag ≤ target ∧ ¬ (s.inRoutine x.ag = true ∧ target = s.streamEnd x.ag)) ↔ _
  simp only [Bool.or_eq_true, Bool.and_eq_true, Bool.not_eq_true', decide_eq_true_eq, ← Bool.not_eq_true, beq_iff_eq]

theorem nearLoopEnd_iff (c : Core) : c.nearLoopEnd = true ↔
    ∃ l ∈ c.lvl.toList, l.active = true ∧ (l.fin = c.pc ∨ l.fin = c.pc + 64 ∨ l.fin = c.pc + 128) := by
  simp only [Core.nearLoopEnd, List.any_eq_true, Bool.and_eq_true, Bool.or_eq_true, beq_iff_eq, or_assoc]
  rfl

theorem badlyPlaced_iff : BadlyPlaced s x ↔
    (x.core.xfer.isSome || (!s.inRoutine x.ag && x.core.nearLoopEnd)) = true := by
  rw [BadlyPlaced, Bool.or_eq_true, Bool.and_eq_true, nearLoopEnd_iff, Option.isSome_iff_ne_none, Bool.not_eq_true']

/-- The fault of a transfer, by the two conditions of R119. -/
theorem transferFault_eq : s.transferFault x target =
    if (target % 64 ≠ 0 || (s.streamEnd x.ag ≤ target && !(s.inRoutine x.ag && target == s.streamEnd x.ag))) = true then
      some (addressFault target)
    else if (x.core.xfer.isSome || (!s.inRoutine x.ag && x.core.nearLoopEnd)) = true then some illegalOperand
    else none := by
  unfold State.transferFault
  cases x.core.xfer.isSome <;> simp

theorem transferFault_off (h : OffStream s x target) : s.transferFault x target = some (addressFault target) := by
  rw [transferFault_eq, if_pos (offStream_iff.mp h)]

theorem transferFault_placed (h : ¬ OffStream s x target) (hp : BadlyPlaced s x) :
    s.transferFault x target = some illegalOperand := by
  rw [transferFault_eq, if_neg (offStream_iff.not.mp h), if_pos (badlyPlaced_iff.mp hp)]

theorem transferFault_none (h : MayTransfer s x target) : s.transferFault x target = none := by
  rw [transferFault_eq, if_neg (offStream_iff.not.mp h.1), if_neg (badlyPlaced_iff.not.mp h.2)]

end

/-! ## Branches -/

/-- The pending effects of a core whose branch links in `link`. -/
def linked (x : Iss) : Option SReg → List Pend
  | none => x.core.pend
  | some d => x.core.pend ++ [due x (1, .wS d (BitVec.ofNat 64 (x.core.pc + 192)), 0)]

/-- The core after a taken transfer, its link scheduled. -/
def branched (s : State) (x : Iss) (target : Nat) (link : Option SReg) : Core :=
  { (charged x.core [0x01]).transfer target (s.inRoutine x.ag) with pend := linked x link }

theorem branched_transferred (s : State) (x : Iss) (target : Nat) (link : Option SReg) :
    Transferred s x target (branched s x target link) := by
  unfold Transferred
  refine ⟨rfl, rfl, fun hr => if_pos hr, fun hr k hk => ?_⟩
  show vget (⟨false, 0, 0⟩ : Level) (if s.inRoutine x.ag = true then _ else _) k = _
  rw [hr, if_neg (by decide), vget_gen, if_pos hk]
  simp only [Bool.and_eq_true, Bool.not_eq_true', decide_eq_true_eq, ← Bool.not_eq_true]
  rfl

section
variable {s : State} {x : Iss} {pd : Pd} {i : Instr} {link : Option SReg} {f : Core → Nat} {target : Nat}
variable (h : Runs s x pd) (hi : exec i s = branchOp pd s link f) (ht : f (x.core.charge 0x01 1) = target)
include h hi ht

theorem branch_leaves (hm : MayTransfer s x target) : Leaves i s x (branched s x target link) := by
  have hfault : s.transferFault { x with core := x.core.charge 0x01 1 } target = none := transferFault_none hm
  refine leaves_of_meaning h hi ?_
  simp only [ht, hfault]
  cases link <;> rfl

theorem branch_transfers (hm : MayTransfer s x target) :
    ∃ c, Leaves i s x c ∧ Transferred s x target c ∧ c.pend = linked x link :=
  ⟨_, branch_leaves h hi ht hm, branched_transferred s x target link, rfl⟩

theorem branch_raises {e : Exc} (he : s.transferFault x target = some e) : Raises i s x e := by
  have hfault : s.transferFault { x with core := x.core.charge 0x01 1 } target = some e := he
  refine raises_of_meaning h hi ?_
  simp only [ht, hfault]

theorem branch_faults : BadTransfer i s x target :=
  ⟨fun ho => branch_raises h hi ht (transferFault_off ho), fun ho hp => branch_raises h hi ht (transferFault_placed ho hp)⟩

end

section
variable {s : State} {x : Iss} {pd : Pd} {d a : SReg} {disp : BitVec 32}

theorem exec_br : exec (.br pd disp) s = branchOp pd s none fun c => relTarget c.pc disp := rfl
theorem exec_call : exec (.call pd d disp) s = branchOp pd s (some d) fun c => relTarget c.pc disp := rfl
theorem exec_jr : exec (.jr pd a) s = branchOp pd s none fun c => (c.rs a).toNat := rfl
theorem exec_ret : exec (.ret pd a) s = branchOp pd s none fun c => (c.rs a).toNat := rfl
theorem exec_callr : exec (.callr pd d a) s = branchOp pd s (some d) fun c => (c.rs a).toNat := rfl

end

theorem controlTransfer : ControlTransfer := by
  intro s x pd d a disp h rel ind link
  exact ⟨fun hm => ⟨branch_transfers h exec_br rfl hm, branch_transfers h exec_call rfl hm⟩,
    fun hm => ⟨branch_transfers h exec_jr rfl hm, branch_transfers h exec_ret rfl hm, branch_transfers h exec_callr rfl hm⟩,
    branch_faults h exec_br rfl, branch_faults h exec_call rfl, branch_faults h exec_jr rfl, branch_faults h exec_ret rfl,
    branch_faults h exec_callr rfl⟩

/-! ## Loops (R31, R120) -/

/-- The level's entry of the loop table: its type, then the count or the parameter that holds it (R31). -/
theorem tripCount_core {s : State} {t : Nat} {tr : Troupe} (ht : s.troupe? t = some tr) (r k : Nat) :
    s.tripCount (.core t r) k =
      if (vget 0 tr.image.loop k).extractLsb' 62 2 ≠ 1 then none
      else if (vget 0 tr.image.loop k).getLsbD 61 = true then
        some ((tr.launch.params.getD ((vget 0 tr.image.loop k).toNat % 2 ^ 8) 0).toNat % 2 ^ 32)
      else some ((vget 0 tr.image.loop k).toNat % 2 ^ 32) := by
  have htype : fld (vget 0 tr.image.loop k).toNat 62 2 ≠ 1 ↔ (vget 0 tr.image.loop k).extractLsb' 62 2 ≠ 1 := by
    rw [ne_eq, ne_eq, ← BitVec.toNat_inj, BitVec.extractLsb'_toNat, Nat.shiftRight_eq_div_pow]
    rfl
  simp only [State.tripCount, ht, Option.bind_some, htype]
  simp only [fld, pow_zero, Nat.div_one]
  rfl

/-- The core that `loop` leaves where the trip count is `n`. -/
def looped (x : Iss) (l : Lvl) (disp : BitVec 32) : Nat → Core
  | 0 => { x.core with xfer := some (1, relTarget x.core.pc disp + 64) }
  | t + 1 => { x.core with
      lvl := vset x.core.lvl l.toNat ⟨true, x.core.pc + 64, relTarget x.core.pc disp⟩,
      pend := x.core.pend ++ [due x (1, .loopc l (BitVec.ofNat 32 t), 0)] }

section
variable {s : State} {x : Iss} {pd : Pd} {l : Lvl} {disp : BitVec 32}

theorem exec_loop : exec (.loop pd l disp) s = coreWord pd (some 0x01) s fun x =>
    if s.inRoutine x.ag || x.core.xfer.isSome then .exc illegalOperand
    else (s.tripCount x.ag l.toNat).elim (.exc illegalOperand) fun n => .done (looped x l disp n) := by
  show execLoop pd l disp s = _
  unfold execLoop
  congr 1
  funext x
  cases s.tripCount x.ag l.toNat with
  | none => rfl
  | some n => cases n <;> rfl

theorem loop_illegal (h : Runs s x pd)
    (hb : s.inRoutine x.ag = true ∨ x.core.xfer ≠ none ∨ s.tripCount x.ag l.toNat = none) :
    Raises (.loop pd l disp) s x illegalOperand := by
  refine raises_of_meaning h exec_loop ?_
  show (if (s.inRoutine x.ag || x.core.xfer.isSome) = true then _ else (s.tripCount x.ag l.toNat).elim _ _) = _
  split_ifs with hp
  · rfl
  · rw [Bool.or_eq_true, Option.isSome_iff_ne_none] at hp
    rw [show s.tripCount x.ag l.toNat = none by tauto]
    rfl

/-- Where `loop` is legal its trip count decides what it does. -/
theorem loop_counts (h : Runs s x pd) {n : Nat} (hr : s.inRoutine x.ag = false) (hx : x.core.xfer = none)
    (hn : s.tripCount x.ag l.toNat = some n) :
    Leaves (.loop pd l disp) s x (looped { x with core := charged x.core [0x01] } l disp n) := by
  refine leaves_of_meaning h exec_loop ?_
  show (if (s.inRoutine x.ag || x.core.xfer.isSome) = true then _ else (s.tripCount x.ag l.toNat).elim _ _) = _
  rw [hr, hx, hn]
  rfl

end

theorem loopInstruction : LoopInstruction := by
  unfold LoopInstruction
  refine ⟨fun s x pd l disp h => ⟨fun hr hx hn => loop_counts h hr hx hn, fun t hr hx hn => loop_counts h hr hx hn,
    loop_illegal h⟩, fun s t r tr k ht => ?_⟩
  dsimp only
  rw [tripCount_core ht r k]
  refine ⟨fun hne => if_pos hne, fun he hd => ?_, fun he hd => ?_⟩
  · rw [if_neg (not_not.mpr he), if_neg (by simpa using hd)]
  · rw [if_neg (not_not.mpr he), if_pos hd]

/-- Settles O4: a branch transfers or raises its fault (`transferFault_eq`), and `loop` acts by its trip count. -/
theorem controlWords : Obligations.ControlWords := ⟨controlTransfer, loopInstruction⟩

end Sys2Proof.Proofs.ScalarSlot
end

section
/-!
Loads and stores of G by the scalar slot, `locq`, and the counter words (R121, R123, R125 to R131, R135, R289, R292).
-/

namespace Sys2Proof.Proofs.ScalarSlot

open Sys2Proof Sys2Proof.Machine Sys2Proof.Claims
open Sys2Proof.Proofs.NumberFormats (raises_of_meaning)
open Sys2Proof.Proofs.BundleAndAssembly (paysOnly_payG)

/-! ## What is paid (R289, R292) -/

theorem chg_prefix_payWalk (s : State) (cx : Ctx) (va : Nat) (c : Core) : c.chg <+: (s.payWalk cx va c).chg := by
  unfold State.payWalk
  split
  · exact List.prefix_refl _
  · split
    · exact List.prefix_append _ _
    · split
      · exact List.prefix_refl _
      · exact List.prefix_append _ _

/-- What an access pays is added after the charges that stand. -/
theorem chg_prefix_payG (s : State) (a : Agent) (cx : Ctx) (need : Need) (runs : List (Nat × Nat)) (c : Core) :
    c.chg <+: (s.payG a cx need runs c).chg := by
  cases a with
  | mgmt m => exact List.prefix_refl _
  | core t r =>
    unfold State.payG
    dsimp only
    induction runs generalizing c with
    | nil => exact List.prefix_refl _
    | cons g runs ih =>
      rw [List.foldl_cons]
      refine List.IsPrefix.trans ?_ (ih _)
      split
      · exact (chg_prefix_payWalk s cx g.1 c).trans (List.prefix_append _ _)
      · exact chg_prefix_payWalk s cx g.1 c

theorem paymentFrame : PaymentFrame := by
  refine ⟨fun s a cx need runs c => ⟨paysOnly_payG s a cx need runs c, chg_prefix_payG s a cx need runs c, ?_⟩,
    fun s x h answer => ?_⟩
  · rintro m rfl
    rfl
  · dsimp only
    unfold State.payCtr
    cases hx : x.ag with
    | mgmt m => exact ⟨rfl, List.prefix_refl _, fun _ _ => rfl⟩
    | core t r => exact ⟨rfl, List.prefix_append _ _, fun m hm => nomatch hm⟩

/-! ## Accesses to G -/

/-- A checked address, or the fault that its check raises. -/
def onAddress (r : Except Exc Nat) (f : Nat → Res) : Res :=
  match r with
  | .error e => .exc e
  | .ok v => f v

section
variable {c : Core} {a : SReg} {off : BitVec 24} {sz : Size} {w : Nat}

theorem effAddr_ok (h : (c.rs a + off.signExtend 64).toNat < 2 ^ w) (hn : (c.rs a + off.signExtend 64).toNat % 2 ^ sz.toNat = 0) :
    effAddr c a off sz w = .ok (c.rs a + off.signExtend 64).toNat :=
  (if_neg (Nat.not_le.mpr h)).trans (if_neg (not_not.mpr hn))

theorem effAddr_wide (h : 2 ^ w ≤ (c.rs a + off.signExtend 64).toNat) :
    effAddr c a off sz w = .error (addressFault (c.rs a + off.signExtend 64).toNat) := if_pos h

theorem effAddr_misaligned (h : (c.rs a + off.signExtend 64).toNat < 2 ^ w)
    (hn : (c.rs a + off.signExtend 64).toNat % 2 ^ sz.toNat ≠ 0) :
    effAddr c a off sz w = .error (misaligned (c.rs a + off.signExtend 64).toNat) :=
  (if_neg (Nat.not_le.mpr h)).trans (if_pos hn)

end

section
variable {s : State} {x : Iss} {pd : Pd} {d a : SReg} {off : BitVec 24} {sz : Size} {sx : Bool} {ac : ACls}

theorem exec_ldg : exec (.ldg pd d a off sz sx ac) s = coreWord pd (some 0x01) s fun x =>
    onAddress (effAddr x.core a off sz 57) fun v => .done
      (s.payG x.ag (s.ctx x.ag) .rd (pageRuns v (szBytes sz)) (x.core.fetch x 640 (.ldg d (szBytes sz) sx) v ac)) := rfl

theorem exec_stg : exec (.stg pd d a off sz ac) s = coreWord pd (some 0x01) s fun x =>
    onAddress (effAddr x.core a off sz 57) fun v =>
      if 8192 ≤ x.core.egressUsed then .exc { cause := 0x0D, addr := v }
      else .done { x.core with egress := x.core.egress ++
        [{ va := v, bytes := (leBytes (szBytes sz) (x.core.rs d).toNat).map some, ac := ac, iss := x.now, word := x.w,
           baddr := x.core.pc, cap := 1, inPath := false, failed := none }] } := rfl

theorem exec_locq : exec (.locq pd d a) s = coreWord pd (some 0x01) s fun x =>
    if 2 ^ 57 ≤ (x.core.rs a).toNat then .exc (addressFault (x.core.rs a).toNat)
    else .done (s.payG x.ag (s.ctx x.ag) .any [((x.core.rs a).toNat, 0)]
      (x.core.fetch x 8 (.locq d) (x.core.rs a).toNat 0)) := rfl

/-- A word that checks an address raises what the check does. -/
theorem raises_of_address {i : Instr} {f : Iss → Nat → Res} {e : Exc} (h : Runs s x pd)
    (hi : exec i s = coreWord pd (some 0x01) s fun x => onAddress (effAddr x.core a off sz 57) (f x))
    (he : effAddr x.core a off sz 57 = .error e) : Raises i s x e :=
  raises_of_meaning h hi (congrArg (onAddress · _) he)

theorem leaves_of_address {i : Instr} {f : Iss → Nat → Res} {v : Nat} {c : Core} (h : Runs s x pd)
    (hi : exec i s = coreWord pd (some 0x01) s fun x => onAddress (effAddr x.core a off sz 57) (f x))
    (hv : effAddr x.core a off sz 57 = .ok v) (hf : f { x with core := x.core.charge 0x01 1 } v = .done c) :
    Leaves i s x c :=
  leaves_of_meaning h hi ((congrArg (onAddress · _) hv).trans hf)

end

/-- Settles O6: the check of the address decides between the faults, the load and the store. -/
theorem globalLoadStore : Obligations.GlobalLoadStore := by
  refine ⟨paymentFrame, fun s x pd d a off sz sx ac h => ?_⟩
  intro V n A
  refine ⟨fun hV hn => ?_, fun hV => ?_, fun hV hn => ?_, fun hA => ?_, fun hA => ?_⟩
  · have hok : effAddr x.core a off sz 57 = .ok V := effAddr_ok hV hn
    refine ⟨leaves_of_address h exec_ldg hok rfl, fun hroom => ?_, fun hfull => ?_⟩
    · exact leaves_of_address h exec_stg hok (if_neg (Nat.not_le.mpr hroom))
    · exact raises_of_meaning h exec_stg ((congrArg (onAddress · _) hok).trans (if_pos hfull))
  · have hbad : effAddr x.core a off sz 57 = .error (addressFault V) := effAddr_wide hV
    exact ⟨raises_of_address h exec_ldg hbad, raises_of_address h exec_stg hbad⟩
  · have hbad : effAddr x.core a off sz 57 = .error (misaligned V) := effAddr_misaligned hV hn
    exact ⟨raises_of_address h exec_ldg hbad, raises_of_address h exec_stg hbad⟩
  · exact leaves_of_meaning h exec_locq (if_neg (Nat.not_le.mpr hA))
  · exact raises_of_meaning h exec_locq (if_pos hA)

/-! ## Counter words (R126 to R131) -/

/-- A counter word: the handle in `a` is checked, then the operation leaves as `f` says. -/
def counterMeaning (s : State) (a : SReg) (f : Iss → State ⊕ Exc) (x : Iss) : State ⊕ Exc :=
  if !s.handleOk x.ag (x.core.rs a) then .inr counterHandle else f x

section
variable {s : State} {x : Iss} {pd : Pd} {i : Instr} {a : SReg} {f : Iss → State ⊕ Exc}

theorem counterMeaning_good (hh : s.handleOk x.ag (x.core.rs a) = true) :
    counterMeaning s a f { x with core := x.core.charge 0x01 1 } = f { x with core := x.core.charge 0x01 1 } :=
  if_neg (by rw [Bool.not_eq_true', Bool.not_eq_false]; exact hh)

variable (h : Runs s x pd) (hi : exec i s = pkgWord pd s (counterMeaning s a f))
include h hi

theorem counterWord_badHandle (hh : s.handleOk x.ag (x.core.rs a) = false) : Raises i s x counterHandle := by
  have hbad : counterMeaning s a f { x with core := x.core.charge 0x01 1 } = .inr counterHandle :=
    if_pos (by rw [Bool.not_eq_true']; exact hh)
  rw [Raises, hi, pkgWord_of_active _ h.1 h.2, hbad]

theorem counterWord_sends (hh : s.handleOk x.ag (x.core.rs a) = true) {u : State}
    (hf : f { x with core := x.core.charge 0x01 1 } = .inl u) : exec i s = .next u := by
  rw [hi, pkgWord_of_active _ h.1 h.2, counterMeaning_good hh, hf]

theorem counterWord_raises (hh : s.handleOk x.ag (x.core.rs a) = true) {e : Exc}
    (hf : f { x with core := x.core.charge 0x01 1 } = .inr e) : Raises i s x e := by
  rw [Raises, hi, pkgWord_of_active _ h.1 h.2, counterMeaning_good hh, hf]

end

section
variable {s : State} {pd : Pd} {d a b : SReg} {dl : BitVec 16}

theorem exec_cadd : exec (.cadd pd a b) s = pkgWord pd s (counterMeaning s a fun x =>
    .inl ((s.postCtr ((x.core.rs a).truncate 32) (.add (x.core.rs b)) x.src).did x (s.payCtr x (x.core.rs a) false))) := rfl

theorem exec_cwait : exec (.cwait pd d a b dl) s = pkgWord pd s (counterMeaning s a fun x =>
    .inl (s.beginWait x (x.core.rs a) d (.target (x.core.rs b)) (.wait (x.core.rs b)) dl)) := rfl

theorem exec_cwaitArmed : exec (.cwaitArmed pd d a dl) s = pkgWord pd s (counterMeaning s a fun x =>
    .inl (s.beginWait x (x.core.rs a) d .armed .waitArmed dl)) := rfl

theorem exec_cread : exec (.cread pd d a) s = pkgWord pd s (counterMeaning s a fun x =>
    .inl (s.beginWait x (x.core.rs a) d .read .read 0)) := rfl

theorem exec_carm : exec (.carm pd a b) s = pkgWord pd s (counterMeaning s a fun x =>
    if (x.core.rs b).toNat = 0 || 2 ^ 32 ≤ (x.core.rs b).toNat then .inr illegalOperand
    else .inl ((s.postCtr ((x.core.rs a).truncate 32) (.arm (BitVec.ofNat 32 (x.core.rs b).toNat)) x.src).did x
      (s.payCtr x (x.core.rs a) false))) := rfl

end

/-- Settles O12: past the check of the handle each word sends its operation, `carm` where its count is in range. -/
theorem counterWords : Obligations.CounterWords := by
  unfold Obligations.CounterWords
  intro s x pd d a b dl h H B paid sent waiting wait
  refine ⟨fun hh => ⟨counterWord_sends h exec_cadd hh rfl, counterWord_sends h exec_cwait hh rfl,
    counterWord_sends h exec_cwaitArmed hh rfl, counterWord_sends h exec_cread hh rfl, fun hpos hlt => ?_, fun hbad => ?_⟩,
    fun hh => ⟨counterWord_badHandle h exec_cadd hh, counterWord_badHandle h exec_cwait hh,
      counterWord_badHandle h exec_cwaitArmed hh, counterWord_badHandle h exec_carm hh, counterWord_badHandle h exec_cread hh⟩⟩
  · refine (counterWord_sends h exec_carm hh (if_neg ?_)).trans ?_
    · show ¬ (decide (B.toNat = 0) || decide (2 ^ 32 ≤ B.toNat)) = true
      simp only [Bool.or_eq_true, decide_eq_true_eq]
      omega
    · have hcount : BitVec.ofNat 32 B.toNat = B.truncate 32 := BitVec.ofNat_toNat ..
      show Host.Outcome.next ((s.postCtr H (.arm (BitVec.ofNat 32 B.toNat)) x.src).did x (paid false)) = _
      rw [hcount]
      rfl
  · refine counterWord_raises h exec_carm hh (if_pos ?_)
    show (decide (B.toNat = 0) || decide (2 ^ 32 ≤ B.toNat)) = true
    simpa only [Bool.or_eq_true, decide_eq_true_eq] using hbad

end Sys2Proof.Proofs.ScalarSlot
end

section
/-!
Counters at their home engines, refusals, and waits (R126 to R131, R241, R405).
-/

namespace Sys2Proof.Proofs.ScalarSlot

open Sys2Proof Sys2Proof.Machine Sys2Proof.Claims
open Sys2Proof.Proofs.ExecutionModel (modCore_of_some)

/-! ## Operations that apply (R127, R130, R241) -/

theorem toNat_add_value (c : Counter) (amt : Nat) :
    (c.add amt).value.toNat = min (c.value.toNat + amt) (2 ^ 64 - 1) := by
  show (BitVec.ofNat 64 (min (c.value.toNat + amt) (2 ^ 64 - 1))).toNat = _
  rw [BitVec.toNat_ofNat, Nat.mod_eq_of_lt (by omega)]

/-- The target of a counter in strict mode has been passed by an add. -/
theorem add_past_iff (c : Counter) (amt : Nat) :
    (c.st != 0 && decide (c.target.toNat < min (c.value.toNat + amt) (2 ^ 64 - 1))) = true ↔
      c.st ≠ 0 ∧ c.target.ult (c.add amt).value = true := by
  rw [BitVec.ult_iff_toNat_lt, toNat_add_value]
  simp only [Bool.and_eq_true, bne_iff_ne, decide_eq_true_eq]

theorem add_overrun {c : Counter} {amt : Nat} (h : c.st ≠ 0 ∧ c.target.ult (c.add amt).value = true) :
    (c.add amt).ovb = true ∧
      (c.add amt).ovr.toNat = min ((c.add amt).value.toNat - c.target.toNat) (2 ^ 32 - 1) := by
  have hp := (add_past_iff c amt).mpr h
  have hovb : (c.add amt).ovb = (c.ovb || (c.st != 0 && decide (c.target.toNat < min (c.value.toNat + amt) (2 ^ 64 - 1)))) :=
    rfl
  have hovr : (c.add amt).ovr = BitVec.ofNat 32 (min (min (c.value.toNat + amt) (2 ^ 64 - 1) - c.target.toNat) (2 ^ 32 - 1)) :=
    if_pos hp
  rw [hovb, hovr, hp, Bool.or_true, toNat_add_value, BitVec.toNat_ofNat, Nat.mod_eq_of_lt (by omega)]
  exact ⟨rfl, rfl⟩

theorem add_no_overrun {c : Counter} {amt : Nat} (h : ¬ (c.st ≠ 0 ∧ c.target.ult (c.add amt).value = true)) :
    (c.add amt).ovb = c.ovb ∧ (c.add amt).ovr = c.ovr := by
  have hp := (add_past_iff c amt).not.mpr h
  have hovb : (c.add amt).ovb = (c.ovb || (c.st != 0 && decide (c.target.toNat < min (c.value.toNat + amt) (2 ^ 64 - 1)))) :=
    rfl
  rw [hovb, Bool.eq_false_of_not_eq_true hp, Bool.or_false]
  exact ⟨rfl, if_neg hp⟩

theorem add_opens_iff (c : Counter) (amt : Nat) :
    (decide (c.st = 1) && decide (c.target.toNat ≤ min (c.value.toNat + amt) (2 ^ 64 - 1))) = true ↔
      c.st = 1 ∧ c.target.ule (c.add amt).value = true := by
  rw [BitVec.ule_iff_toNat_le, toNat_add_value]
  simp only [Bool.and_eq_true, decide_eq_true_eq]

theorem armRefused_iff (c : Counter) : c.armRefused = true ↔ c.st = 1 ∨ c.ovb = true := by
  simp only [Counter.armRefused, Bool.or_eq_true, beq_iff_eq]

section
variable {s : State} {o : CtrOp} {c : Counter}

theorem posted_enabled (hp : Posted s o) :
    (!s.ctrFirst o || s.ctrMoving o.handle || (!o.stands && !s.ctrOpen o)) = false := by
  obtain ⟨-, hfirst, hmove, hopen⟩ := hp
  rcases hopen with h | h <;> simp [hfirst, hmove, h]

/-! A posted operation that is no wait applies at a live counter, by its kind. -/

theorem counterOperation_add (hp : Posted s o) (hc : s.ctr? o.handle = some c) (hl : c.lost = false) {amt : BitVec 64}
    (hk : o.kind = .add amt) : exec (.counterOperation o.id) s =
      .next ((((s.dropCtr o).setCtr (c.add amt.toNat)).engineOp o.handle).appliedFor o.src) := by
  show execCounterOperation o.id s = _
  have hw : o.kind.isWait = false := by rw [hk]; rfl
  simp only [execCounterOperation, hp.1, hc, posted_enabled hp, hl, hw, Bool.false_eq_true, if_false]
  rw [hk]

theorem counterOperation_arm (hp : Posted s o) (hc : s.ctr? o.handle = some c) (hl : c.lost = false) {b : BitVec 32}
    (hk : o.kind = .arm b) : exec (.counterOperation o.id) s =
      if c.armRefused then .next (((s.dropCtr o).engineOp o.handle).refuseCtr o 0x03)
      else .next (((s.dropCtr o).setCtr (c.arm b)).engineOp o.handle) := by
  show execCounterOperation o.id s = _
  have hw : o.kind.isWait = false := by rw [hk]; rfl
  simp only [execCounterOperation, hp.1, hc, posted_enabled hp, hl, hw, Bool.false_eq_true, if_false]
  rw [hk]

theorem counterOperation_clear (hp : Posted s o) (hc : s.ctr? o.handle = some c) (hl : c.lost = false)
    (hk : o.kind = .clear) : exec (.counterOperation o.id) s =
      .next (((s.dropCtr o).setCtr c.clear).engineOp o.handle) := by
  show execCounterOperation o.id s = _
  have hw : o.kind.isWait = false := by rw [hk]; rfl
  simp only [execCounterOperation, hp.1, hc, posted_enabled hp, hl, hw, Bool.false_eq_true, if_false]
  rw [hk]

/-! ## Refusals (R405) -/

section
variable (hp : Posted s o) (ha : o.src.agent.any s.away = false)
include hp ha

theorem counterRefusal_enabled :
    (!s.ctrFirst o || s.ctrMoving o.handle || (!o.stands && !s.ctrOpen o) || o.src.agent.any s.away) = false := by
  rw [posted_enabled hp, ha]
  rfl

theorem counterRefusal_dead (hc : s.ctr? o.handle = none) (hw : o.kind.isWait = false) :
    exec (.counterRefusal o.id) s = .next ((s.dropCtr o).refuseCtr o 0x13) := by
  show execCounterRefusal o.id s = _
  simp only [execCounterRefusal, hp.1, hc, counterRefusal_enabled hp ha, hw, Bool.false_eq_true, if_false]

theorem counterRefusal_lost (hc : s.ctr? o.handle = some c) (hl : c.lost = true) (hw : o.kind.isWait = false) :
    exec (.counterRefusal o.id) s = .next ((s.dropCtr o).refuseCtr o 0x11) := by
  show execCounterRefusal o.id s = _
  simp only [execCounterRefusal, hp.1, hc, counterRefusal_enabled hp ha, hl, hw, Bool.false_eq_true, if_false, Bool.not_false,
    Bool.and_true, if_true]

/-- A wait on a counter that is not live is orphaned (R129). -/
theorem counterRefusal_orphan (hc : s.ctr? o.handle = none) (hw : o.kind.isWait = true) :
    exec (.counterRefusal o.id) s = .next ((s.dropCtr o).formReport o .orphan) := by
  show execCounterRefusal o.id s = _
  simp only [execCounterRefusal, hp.1, hc, counterRefusal_enabled hp ha, hw, Bool.false_eq_true, if_false, if_true]

end

end

theorem counterEngine : CounterEngine := by
  intro s o hp
  refine ⟨fun c hc hl => ⟨fun amt hk => ?_, fun b hk => ⟨fun hst hov => ?_, fun hbad => ?_⟩, counterOperation_clear hp hc hl⟩,
    fun ha => ⟨counterRefusal_dead hp ha, fun c => counterRefusal_lost hp ha⟩⟩
  · exact ⟨c.add amt.toNat, counterOperation_add hp hc hl hk, rfl, toNat_add_value c amt.toNat, add_overrun, add_no_overrun,
      fun h => if_pos ((add_opens_iff c amt.toNat).mpr h), fun h => if_neg ((add_opens_iff c amt.toNat).not.mpr h)⟩
  · have hok : ¬ c.armRefused = true := by
      rw [armRefused_iff, hov]
      simpa using hst
    rw [counterOperation_arm hp hc hl hk, if_neg hok]
    rfl
  · rw [counterOperation_arm hp hc hl hk, if_pos ((armRefused_iff c).mpr hbad)]

/-- What a late cause leaves of a core. -/
theorem raiseLate_spec (c : Core) (w b cause : Nat) (hnd : BitVec 32) :
    let k := c.raiseLate w b { cause := cause, hnd := hnd }
    k = { c with raised := k.raised } ∧
      ∃ z, k.raised = c.raised ++ [z] ∧ z.word = some w ∧ z.baddr = b ∧ z.cause.toNat = cause % 256 ∧ z.hnd = hnd :=
  ⟨rfl, _, rfl, rfl, rfl, BitVec.toNat_ofNat .., rfl⟩

theorem refusalReaches : RefusalReaches := by
  intro s o cause
  refine ⟨fun h => ?_, fun a w b c h hc => ?_, fun a id c k h hc hk => ?_⟩
  · rw [State.refuseCtr, h]
  · refine ⟨c.raiseLate w b { cause := cause, hnd := o.handle }, ?_, raiseLate_spec c w b cause o.handle⟩
    simp only [State.refuseCtr, h]
    exact modCore_of_some hc _
  · obtain ⟨-, hz⟩ := raiseLate_spec c k.word k.baddr cause o.handle
    refine ⟨{ (c.raiseLate k.word k.baddr { cause := cause, hnd := o.handle }) with
      cmds := c.cmds.map fun j => if j.id == id then { j with outstanding := j.outstanding - 1 } else j }, ?_, rfl, hz, ?_⟩
    · simp only [State.refuseCtr, h]
      rw [modCore_of_some hc]
      simp only [hk]
    · simp only [beq_iff_eq]

/-! ## Waits (R128, R129, R131) -/

section
variable {s : State} {o : CtrOp} {c : Counter}

theorem counterOperation_forms (hp : Posted s o) (hc : s.ctr? o.handle = some c) (hw : o.kind.isWait = true) {r : CtrRep}
    (hr : c.waitOutcome o.kind = some r) : exec (.counterOperation o.id) s =
      .next ((if o.stands then s.dropCtr o else (s.dropCtr o).engineOp o.handle).formReport o r) := by
  show execCounterOperation o.id s = _
  simp only [execCounterOperation, hp.1, hc, posted_enabled hp, hw, hr, Bool.false_eq_true, if_false, if_true]

theorem counterOperation_waits (hp : Posted s o) (hc : s.ctr? o.handle = some c) (hw : o.kind.isWait = true)
    (hr : c.waitOutcome o.kind = none) : exec (.counterOperation o.id) s =
      if o.stands then notEnabled "COUNTER_OPERATION" else .next ((s.standCtr o c).engineOp o.handle) := by
  show execCounterOperation o.id s = _
  simp only [execCounterOperation, hp.1, hc, posted_enabled hp, hw, hr, Bool.false_eq_true, if_false, if_true]

/-- An unsatisfied wait stands at the engine as `kind`, where it is not there already. -/
theorem counterOperation_stands (hp : Posted s o) (hc : s.ctr? o.handle = some c) (hw : o.kind.isWait = true)
    (hr : c.waitOutcome o.kind = none) {kind : CtrKind} (hk : (if o.kind = .waitArmed then .wait c.target else o.kind) = kind) :
    (o.stands = false → exec (.counterOperation o.id) s = .next ({ s with ctrOps := s.ctrOps.map fun (p : CtrOp) =>
      if p.id = o.id then { p with kind := kind, stands := true } else p }.engineOp o.handle)) ∧
    (o.stands = true → exec (.counterOperation o.id) s = .refused (.notEnabled "COUNTER_OPERATION")) := by
  rw [counterOperation_waits hp hc hw hr]
  refine ⟨fun hs => ?_, fun hs => by rw [hs]; rfl⟩
  rw [hs, if_neg (by decide)]
  simp only [State.standCtr, hk, beq_iff_eq]

theorem formReport_waiting {a : Agent} {k : Core} {w : Wait} (r : CtrRep) (ha : o.src.agent = some a)
    (hk : s.core? a = some k) (hw : k.wait = some w) (ho : w.op = o.id) :
    s.formReport o r = s.setCore a { k with wait := some { w with formed := some r } } := by
  simp only [State.formReport, ha]
  rw [modCore_of_some hk]
  simp [hw, ho]

end

/-! The outcome of a wait, by its kind. -/

section
variable {c : Counter}

theorem waitOutcome_lost {k : CtrKind} (h : c.lost = true) (hk : k ≠ .read) : c.waitOutcome k = some .orphan := by
  show (if c.lost then some (if k = .read then CtrRep.homeLost else .orphan) else _) = _
  rw [h, if_neg hk]
  rfl

theorem waitOutcome_read_lost (h : c.lost = true) : c.waitOutcome .read = some .homeLost := by
  show (if c.lost then _ else _) = _
  rw [h]
  rfl

variable (h : c.lost = false)
include h

theorem waitOutcome_read : c.waitOutcome .read = some (.value c.value) := by
  show (if c.lost then _ else _) = _
  rw [h]
  rfl

theorem waitOutcome_wait (t : BitVec 64) : c.waitOutcome (.wait t) =
    if c.ovb then some (.overrun c.target c.ovr) else if t.toNat ≤ c.value.toNat then some (.value c.value) else none := by
  show (if c.lost then _ else _) = _
  rw [h]
  rfl

theorem waitOutcome_armed : c.waitOutcome .waitArmed =
    if c.ovb then some (.overrun c.target c.ovr)
    else if c.st = 0 then some (.notArmed c.target c.value)
    else if c.target.toNat ≤ c.value.toNat then some (.value c.value) else none := by
  show (if c.lost then _ else _) = _
  rw [h]
  rfl

end

section
variable {s : State} {a : Agent} {c : Core} {w : Wait} (hc : s.core? a = some c) (hw : c.wait = some w)
include hc hw

theorem wait_of_agent : (s.core? a).bind (·.wait) = some w := by rw [hc]; exact hw

theorem counterReport_reaches {r : CtrRep} (hr : w.report = none) (hf : w.formed = some r)
    (hpl : s.planeFree (ctrAddr w.handle) = true) : exec (.counterReport a) s =
      .next (s.setCore a { c with wait := some { w with report := some r } }) := by
  show execCounterReport a s = _
  simp only [execCounterReport, wait_of_agent hc hw, hf, hr, hpl, if_true]
  rw [modCore_of_some hc]

/-- A wait whose last tick has passed without a report is reported as expired. -/
theorem deadline_expires (hr : w.report = none) (hop : w.op ≠ 0) (ht : w.ticks = 0)
    (hk : (∃ t, w.kind = .target t) ∨ w.kind = .armed) : exec (.cwaitDeadlineExpiry a) s =
      .next ({ s with ctrOps := s.ctrOps.filter fun o => o.id != w.op }.setCore a
        { c with wait := some { w with report := some (.expired (w.target (s.ctr? w.handle))
          (((s.ctr? w.handle).map Counter.value).getD 0)) } }) := by
  have hc' : ({ s with ctrOps := s.ctrOps.filter fun o => o.id != w.op } : State).core? a = some c := by
    rw [← hc]
    cases a <;> rfl
  show execCwaitDeadlineExpiry a s = _
  unfold execCwaitDeadlineExpiry
  rw [wait_of_agent hc hw]
  dsimp only
  rw [if_pos, modCore_of_some hc']
  rcases hk with ⟨t, hk⟩ | hk <;> simp [hr, hop, ht, hk]

end

theorem counterWaits : CounterWaits := by
  refine ⟨fun s o c hp hc => ?_, fun s o hp hc hw ha => counterRefusal_orphan hp ha hc hw,
    fun s o a c w r ha hc hw ho => formReport_waiting r ha hc hw ho, fun s a c w hc hw hr =>
    ⟨fun r hf hpl => counterReport_reaches hc hw hr hf hpl, fun hop ht hk =>
      ⟨_, _, deadline_expires hc hw hr hop ht hk, fun z hz => ?_, fun k hk' => ⟨?_, fun ha => ?_⟩⟩⟩⟩
  · have forms {r : CtrRep} (hw : o.kind.isWait = true) (hr : c.waitOutcome o.kind = some r) :=
      counterOperation_forms hp hc hw hr
    refine ⟨fun hl => ⟨fun hk => ?_, fun hw hk => forms hw (waitOutcome_lost hl hk)⟩, fun hl => ⟨fun t hk => ?_, fun hk => ?_,
      fun hk => forms (by rw [hk]; rfl) (by rw [hk, waitOutcome_read hl])⟩⟩
    · exact forms (by rw [hk]; rfl) (by rw [hk, waitOutcome_read_lost hl])
    · have hw : o.kind.isWait = true := by rw [hk]; rfl
      have hout := waitOutcome_wait hl t
      rw [← hk] at hout
      refine ⟨fun ho => forms hw (hout.trans (if_pos ho)), fun ho hle => forms hw ?_,
        fun ho hlt => counterOperation_stands hp hc hw ?_ (by rw [hk]; rfl)⟩
      · rw [hout, ho, if_neg (by decide), if_pos (BitVec.ule_iff_toNat_le.mp hle)]
      · rw [hout, ho, if_neg (by decide), if_neg (Nat.not_le.mpr (BitVec.ult_iff_toNat_lt.mp hlt))]
    · have hw : o.kind.isWait = true := by rw [hk]; rfl
      have hout := waitOutcome_armed hl
      rw [← hk] at hout
      refine ⟨fun ho => forms hw (hout.trans (if_pos ho)), fun ho hst => forms hw ?_, fun ho hst hle => forms hw ?_,
        fun ho hst hlt => counterOperation_stands hp hc hw ?_ (if_pos hk)⟩
      · rw [hout, ho, if_neg (by decide), if_pos hst]
      · rw [hout, ho, if_neg (by decide), if_neg hst, if_pos (BitVec.ule_iff_toNat_le.mp hle)]
      · rw [hout, ho, if_neg (by decide), if_neg hst, if_neg (Nat.not_le.mpr (BitVec.ult_iff_toNat_lt.mp hlt))]
  · simp only [Wait.target, hz]
  · rw [hk']; rfl
  · simp only [Wait.target, ha, hk', Option.map_some, Option.getD_some]

/-- Settles O34, part by part. -/
theorem counters : Obligations.Counters := ⟨counterEngine, refusalReaches, counterWaits⟩

end Sys2Proof.Proofs.ScalarSlot
end

section
/-!
What the walk of an access to G decides (R123, R125, R135, R165 to R167, R212, R253, R335): the bytes that a read returns, the
translations of the pages that an access touches, and the outcome of its walk.
-/

namespace Sys2Proof.Proofs.ScalarSlot

open Sys2Proof Sys2Proof.Machine Sys2Proof.Claims
open Sys2Proof.Proofs.ExecutionModel (tab_id)

/-! ## The bytes of a read (R125, R253) -/

section
variable {own l l' : List Egress} {ac : BitVec 2} {free va : Nat} {b v : Byte}

theorem ownByte_untouched (h : ∀ e ∈ own, e.byteAt va = none) : ownByte own ac free va b = b := by
  unfold ownByte
  induction own generalizing b with
  | nil => rfl
  | cons e own ih =>
    obtain ⟨he, hown⟩ := List.forall_mem_cons.mp h
    rw [List.foldl_cons, he, Option.getD_none, ite_self]
    exact ih hown

/-- The youngest store that touches the byte gives it, where the read sees that store. -/
theorem ownByte_youngest {e : Egress} (hv : e.byteAt va = some v) (hs : e.inPath = true ∨ e.ac = ac)
    (hl : ∀ z ∈ l', z.byteAt va = none) : ownByte (l ++ e :: l') ac free va b = v := by
  have hsees (p : Bool) : (e.inPath || e.ac == ac || p) = true := by
    rcases hs with h | h <;> simp [h]
  unfold ownByte
  rw [List.foldl_append, List.foldl_cons, if_pos (hsees _), hv, Option.getD_some]
  exact ownByte_untouched hl

theorem ownByte_reads (snap : Mem) (own : List Egress) (ac : BitVec 2) (free va pa : Nat) :
    OwnRead snap own ac free va pa (ownByte own ac free va (snap.cell free pa)) :=
  ⟨ownByte_untouched, fun _ _ _ _ ho hv hs hl => by rw [ho]; exact ownByte_youngest hv hs hl⟩

end

section
variable {snap : Mem} {own : List Egress} {ac : BitVec 2} {free va n i p : Nat} {pa : Nat → Option Nat}

theorem length_readOwn : (readOwn snap own ac free va n pa).length = n := length_tab n _

theorem readOwn_reads (hi : i < n) (hp : pa (va + i) = some p) :
    ∃ b, (readOwn snap own ac free va n pa)[i]? = some b ∧ OwnRead snap own ac free (va + i) p b := by
  refine ⟨_, ?_, ownByte_reads snap own ac free (va + i) p⟩
  rw [readOwn, getElem?_tab, if_pos hi, hp]

/-- The same of a byte that the read is known to have returned. -/
theorem reads_of_readOwn {b : Byte} (hb : (readOwn snap own ac free va n pa)[i]? = some b) (hp : pa (va + i) = some p) :
    OwnRead snap own ac free (va + i) p b := by
  have hi : i < n := by
    have := (List.getElem?_eq_some_iff.mp hb).1
    rwa [length_readOwn] at this
  obtain ⟨b', hb', hread⟩ := readOwn_reads (snap := snap) (own := own) (ac := ac) (free := free) hi hp
  rwa [Option.some.inj (hb.symm.trans hb')]

end

/-! ## The pages of an access -/

/-- The pages that runs of bytes touch. -/
def touched (runs : List (Option Nat × Nat)) : List Nat :=
  runs.flatMap fun g => match g.1 with
    | some va => if g.2 = 0 then [] else tab ((va + g.2 - 1) / 4096 - va / 4096 + 1) fun i => va / 4096 + i
    | none => []

theorem mem_touched {runs : List (Option Nat × Nat)} {va n pg : Nat} (h : (some va, n) ∈ runs) (hn : 0 < n)
    (hlo : va / 4096 ≤ pg) (hhi : pg ≤ (va + n - 1) / 4096) : pg ∈ touched runs := by
  refine List.mem_flatMap.mpr ⟨_, h, ?_⟩
  dsimp only
  rw [if_neg (by omega), Laws.Network.tab_eq_map, List.mem_map]
  exact ⟨pg - va / 4096, List.mem_range.mpr (by omega), by omega⟩

section
variable {s : State} {cx : Ctx} {need : Need} {ac : Option (BitVec 2)} {how : Lookup} {runs : List (Option Nat × Nat)}

/-- How a page translates for an access; one at 2^57 or beyond is absent (log 41). -/
def pageOutcome (s : State) (cx : Ctx) (need : Need) (ac : Option (BitVec 2)) (how : Lookup) (pg : Nat) :
    Except Nat (Nat × BitVec 64) :=
  if 2 ^ 45 ≤ pg then .error 1 else s.translate cx (pg * 4096) need ac how

theorem pageOutcome_error_iff {pg sub : Nat} : pageOutcome s cx need ac how pg = .error sub ↔
    2 ^ 45 ≤ pg ∧ sub = 1 ∨ pg < 2 ^ 45 ∧ s.translate cx (pg * 4096) need ac how = .error sub := by
  unfold pageOutcome
  split_ifs with h
  · simp only [Except.error.injEq, h, true_and, Nat.not_lt.mpr h, false_and, or_false, eq_comm]
  · simp only [h, false_and, Nat.not_le.mp h, true_and, false_or]

theorem pageOutcome_ok {pg pa : Nat} {pte : BitVec 64} (hpg : pg < 2 ^ 45)
    (h : s.translate cx (pg * 4096) need ac how = .ok (pa, pte)) : pageOutcome s cx need ac how pg = .ok (pa, pte) :=
  (if_neg (Nat.not_le.mpr hpg)).trans h

theorem pagesOf_eq : s.pagesOf cx need ac how runs =
    (touched runs).eraseDups.map fun pg => (pg, pageOutcome s cx need ac how pg) := rfl

/-- A page that an access touches is listed with its translation. -/
theorem find?_pagesOf {pg : Nat} (h : pg ∈ touched runs) :
    (s.pagesOf cx need ac how runs).find? (fun q => q.1 == pg) = some (pg, pageOutcome s cx need ac how pg) := by
  have hfind : (touched runs).eraseDups.find? (fun q => q == pg) = some pg := by
    cases hf : (touched runs).eraseDups.find? (fun q => q == pg) with
    | none => simpa using List.find?_eq_none.mp hf pg (List.mem_eraseDups.mpr h)
    | some q => rw [beq_iff_eq.mp (List.find?_some (p := fun q => q == pg) hf)]
  rw [pagesOf_eq, List.find?_map]
  exact congrArg (Option.map _) hfind

theorem pagePa_ok {va pa : Nat} {pte : BitVec 64} (h : va / 4096 ∈ touched runs)
    (ht : pageOutcome s cx need ac how (va / 4096) = .ok (pa, pte)) :
    pagePa (s.pagesOf cx need ac how runs) va = some (pa + va % 4096) := by
  rw [pagePa, find?_pagesOf h, ht]
  rfl

theorem pagePa_error {va sub : Nat} (h : va / 4096 ∈ touched runs)
    (ht : pageOutcome s cx need ac how (va / 4096) = .error sub) :
    pagePa (s.pagesOf cx need ac how runs) va = none := by
  rw [pagePa, find?_pagesOf h, ht]
  rfl

end

/-! ## The elements of a vector access (R165 to R167) -/

/-- The first number of a range at which a function has an answer. -/
theorem findSome?_range_first {β : Type} {f : Nat → Option β} {n k : Nat} {z : β} (hk : k < n) (hz : f k = some z)
    (hlow : ∀ j < k, f j = none) : (List.range n).findSome? f = some z := by
  obtain ⟨m, rfl⟩ : ∃ m, n = k + (m + 1) := ⟨n - k - 1, by omega⟩
  have hnone : (List.range k).findSome? f = none :=
    List.findSome?_eq_none_iff.mpr fun j hj => hlow j (List.mem_range.mp hj)
  rw [List.range_add, List.findSome?_append, hnone, List.range_succ_eq_map, List.map_cons, List.findSome?_cons,
    Nat.add_zero, hz]
  rfl

/-- Entry `e * n + i` of blocks of length n is entry i of block e. -/
theorem getElem?_flatMap_blocks {α : Type} {g : Nat → List α} {n k e i : Nat} (hg : ∀ e, (g e).length = n) (he : e < k)
    (hi : i < n) : ((List.range k).flatMap g)[e * n + i]? = (g e)[i]? := by
  induction k with
  | zero => omega
  | succ k ih =>
    have hlen : ((List.range k).flatMap g).length = k * n := by
      simp [List.length_flatMap, hg]
    rw [List.range_succ, List.flatMap_append]
    rcases Nat.lt_succ_iff_lt_or_eq.mp he with hlt | rfl
    · have hle : (e + 1) * n ≤ k * n := Nat.mul_le_mul_right n hlt
      rw [Nat.add_mul] at hle
      rw [List.getElem?_append_left (by omega)]
      exact ih hlt
    · rw [List.getElem?_append_right (by omega), hlen, Nat.add_sub_cancel_left]
      simp

theorem width_of_bytes (f : BitVec 32) :
    8 ≤ (fmtOf f).width ∨ fmtOf f = .flt .e2m1 ∨ ∃ m n sg, fmtOf f = .bpi m n sg := by
  unfold fmtOf
  dsimp only
  split <;> simp [Fmt.width, FF.width, FF.eb, FF.mb]

theorem gBytes_pos (f : BitVec 32) : 0 < (gBytes f).getD 4 := by
  unfold gBytes
  split
  · decide
  · decide
  · rename_i hne hnb
    rcases width_of_bytes f with hw | he | ⟨m, n, sg, hb⟩
    · exact Nat.div_pos hw (by decide)
    · exact absurd he hne
    · exact absurd hb (hnb m n sg)

section
variable {s : State} {cx : Ctx} {need : Need} {ac : Option (BitVec 2)} {how : Lookup} {va n : Nat} {mask : BitVec 1024}

/-- Element `e` of a vector access lies on a page that fails. -/
def ElementFails (s : State) (cx : Ctx) (need : Need) (ac : Option (BitVec 2)) (how : Lookup) (va n : Nat) (mask : BitVec 1024)
    (e sub : Nat) : Prop :=
  e < 1024 ∧ mask.getLsbD e = true ∧ pageOutcome s cx need ac how ((va + e * n) / 4096) = .error sub

theorem touched_of_active (hn : 0 < n) {e i : Nat} (he : e < 1024) (hm : mask.getLsbD e = true) (hi : i < n)
    (hpg : (va + e * n + i) / 4096 = (va + e * n) / 4096) : (va + e * n + i) / 4096 ∈ touched (vecRuns va n mask) := by
  have hrun : (some (va + e * n), n) ∈ vecRuns va n mask :=
    List.mem_map.mpr ⟨e, List.mem_filter.mpr ⟨by rw [tab_id]; exact List.mem_range.mpr he, hm⟩, rfl⟩
  exact mem_touched hrun hn (by omega) (by omega)

theorem touched_of_active_first (hn : 0 < n) {e : Nat} (he : e < 1024) (hm : mask.getLsbD e = true) :
    (va + e * n) / 4096 ∈ touched (vecRuns va n mask) := touched_of_active (i := 0) hn he hm hn rfl

/-- What the search for the lowest failing element answers at element `e`. -/
def badAt (l : List (Nat × Except Nat (Nat × BitVec 64))) (va n : Nat) (mask : BitVec 1024) (e : Nat) : Option (Nat × Nat) :=
  if !mask.getLsbD e then none
  else match l.find? fun q => q.1 == (va + e * n) / 4096 with
    | some (_, .error sub) => some (e, sub)
    | _ => none

theorem firstBad_eq (l : List (Nat × Except Nat (Nat × BitVec 64))) :
    firstBad l va n mask = (List.range 1024).findSome? (badAt l va n mask) := by
  rw [firstBad, tab_id]
  rfl

theorem badAt_of_fails (hn : 0 < n) {e sub : Nat} (h : ElementFails s cx need ac how va n mask e sub) :
    badAt (s.pagesOf cx need ac how (vecRuns va n mask)) va n mask e = some (e, sub) := by
  obtain ⟨he, hm, ho⟩ := h
  rw [badAt, hm, find?_pagesOf (touched_of_active_first hn he hm), ho]
  rfl

theorem badAt_of_not_fails (hn : 0 < n) {e : Nat} (he : e < 1024) (h : ∀ sub, ¬ ElementFails s cx need ac how va n mask e sub) :
    badAt (s.pagesOf cx need ac how (vecRuns va n mask)) va n mask e = none := by
  unfold badAt
  split_ifs with hm
  · rfl
  · rw [Bool.not_eq_true', Bool.not_eq_false] at hm
    rw [find?_pagesOf (touched_of_active_first hn he hm)]
    cases ho : pageOutcome s cx need ac how ((va + e * n) / 4096) with
    | error sub => exact absurd ⟨he, hm, ho⟩ (h sub)
    | ok r => rfl

theorem firstBad_none (hn : 0 < n) (h : ∀ e sub, ¬ ElementFails s cx need ac how va n mask e sub) :
    firstBad (s.pagesOf cx need ac how (vecRuns va n mask)) va n mask = none := by
  rw [firstBad_eq, List.findSome?_eq_none_iff]
  exact fun e he => badAt_of_not_fails hn (List.mem_range.mp he) (h e)

theorem firstBad_some (hn : 0 < n) {e sub : Nat} (h : ElementFails s cx need ac how va n mask e sub)
    (hlow : ∀ j < e, ∀ z, ¬ ElementFails s cx need ac how va n mask j z) :
    firstBad (s.pagesOf cx need ac how (vecRuns va n mask)) va n mask = some (e, sub) := by
  rw [firstBad_eq]
  exact findSome?_range_first h.1 (badAt_of_fails hn h)
    fun j hj => badAt_of_not_fails hn (Nat.lt_trans hj h.1) (hlow j hj)

/-- The bytes of the first `k` elements of a vector access, those of an inactive element 0. -/
def elementBytes (f : Fetch) (free n : Nat) (mask : BitVec 1024) (pages : List (Nat × Except Nat (Nat × BitVec 64))) (k : Nat) :
    List Byte :=
  (tab k id).flatMap fun e =>
    if mask.getLsbD e then readOwn f.snap f.own f.ac free (f.va + e * n) n (pagePa pages) else tab n fun _ => 0

theorem length_elementBlock (f : Fetch) (free : Nat) (pages : List (Nat × Except Nat (Nat × BitVec 64))) (e : Nat) :
    (if mask.getLsbD e then readOwn f.snap f.own f.ac free (f.va + e * n) n (pagePa pages) else tab n fun _ => 0).length = n := by
  split
  · exact length_readOwn
  · exact length_tab n _

theorem length_elementBytes (f : Fetch) (free : Nat) (pages : List (Nat × Except Nat (Nat × BitVec 64))) (k : Nat) :
    (elementBytes f free n mask pages k).length = k * n := by
  rw [elementBytes, tab_id, List.length_flatMap]
  simp only [length_elementBlock, List.map_const', List.length_range, List.sum_replicate, smul_eq_mul]

/-- The bytes of an active element whose page translates are those of its reads. -/
theorem elementBytes_reads (f : Fetch) (free : Nat) (hn : 0 < n) {k e i pa : Nat} {pte : BitVec 64} (he : e < k) (hk : k ≤ 1024)
    (hm : mask.getLsbD e = true) (ht : pageOutcome s cx need ac how ((f.va + e * n) / 4096) = .ok (pa, pte)) (hi : i < n)
    (hpg : (f.va + e * n + i) / 4096 = (f.va + e * n) / 4096) :
    ∃ b, (elementBytes f free n mask (s.pagesOf cx need ac how (vecRuns f.va n mask)) k)[e * n + i]? = some b ∧
      OwnRead f.snap f.own f.ac free (f.va + e * n + i) (pa + (f.va + e * n + i) % 4096) b := by
  have htouch := touched_of_active (va := f.va) hn (Nat.lt_of_lt_of_le he hk) hm hi hpg
  rw [elementBytes, tab_id, getElem?_flatMap_blocks (length_elementBlock f free _) he hi, if_pos hm]
  exact readOwn_reads hi (pagePa_ok htouch (hpg ▸ ht))

/-- The bytes that a vector load has before its first failing element (R166). -/
theorem elementBytes_hold (f : Fetch) (hn : 0 < n) {k : Nat} (hk : k ≤ 1024)
    (hok : ∀ e < k, ∀ sub, ¬ ElementFails s cx need ac how f.va n mask e sub) :
    let bs := elementBytes f s.free n mask (s.pagesOf cx need ac how (vecRuns f.va n mask)) k
    bs.length = k * n ∧ ∀ e < k, mask.getLsbD e = true → ∀ pa pte,
      s.translate cx ((f.va + e * n) / 4096 * 4096) need ac how = .ok (pa, pte) →
      ∀ i < n, (f.va + e * n + i) / 4096 = (f.va + e * n) / 4096 →
        ∃ b, bs[e * n + i]? = some b ∧
          OwnRead f.snap f.own f.ac s.free (f.va + e * n + i) (pa + (f.va + e * n + i) % 4096) b := by
  refine ⟨length_elementBytes f s.free _ k, fun e he hm pa pte ht i hi hpg => ?_⟩
  have hnear : (f.va + e * n) / 4096 < 2 ^ 45 := by
    by_contra hfar
    exact hok e he 1 ⟨Nat.lt_of_lt_of_le he hk, hm, pageOutcome_error_iff.mpr (.inl ⟨Nat.not_lt.mp hfar, rfl⟩)⟩
  exact elementBytes_reads f s.free hn he hk hm (pageOutcome_ok hnear ht) hi hpg

end

/-! ## The outcomes (R335) -/

section
variable {s : State} {a : Agent} {f : Fetch} {how : Lookup}

theorem walked_locq_error {d : BitVec 6} {sub : Nat} (hk : f.kind = .locq d)
    (ht : s.translate (s.ctx a) f.va .rd none how = .error sub) : s.walked a f how = .arrived (leBytes 8 0) := by
  simp only [State.walked, hk, ht]

theorem ldg_decides {d : BitVec 6} {sz : Nat} {x : Bool} (hk : f.kind = .ldg d sz x) :
    (∀ sub, s.translate (s.ctx a) f.va .rd (some f.ac) how = .error sub →
      s.walked a f how = .failed 0x0A (BitVec.ofNat 8 sub) 0 f.va) ∧
    (∀ pa pte, s.translate (s.ctx a) f.va .rd (some f.ac) how = .ok (pa, pte) → ∃ bs, s.walked a f how = .ready bs ∧
      bs.length = sz ∧ ∀ i b, bs[i]? = some b → OwnRead f.snap f.own f.ac s.free (f.va + i) (pa + i) b) := by
  refine ⟨fun sub ht => ?_, fun pa pte ht => ⟨_, by simp only [State.walked, hk, ht]; rfl, length_readOwn, fun i b hb => ?_⟩⟩
  · simp only [State.walked, hk, ht]
    rfl
  · refine reads_of_readOwn hb ?_
    rw [Nat.add_sub_cancel_left]

theorem firstSet_eq_some_iff {mask : BitVec 1024} {e : Nat} (he : e < 1024) (hm : mask.getLsbD e = true) :
    firstSet mask = some e ↔ ∀ j < e, mask.getLsbD j = false := by
  rw [firstSet, tab_id, List.find?_range_eq_some]
  simp [he, hm]

section
variable {d : BitVec 5} {fd : BitVec 32} {mask : BitVec 1024} {cnt : Option (BitVec 6)} {n : Nat}
variable (hn : (gBytes fd).getD 4 = n)
include hn

/-- A vector load has the bytes of its active elements, those of the elements before the first that fails, or fails there. -/
theorem walked_vldg (hk : f.kind = .vldg d fd mask cnt) :
    let pages := s.pagesOf (s.ctx a) .rd (some f.ac) how (vecRuns f.va n mask)
    (firstBad pages f.va n mask = none → s.walked a f how = .ready (elementBytes f s.free n mask pages 1024)) ∧
    (∀ e sub, firstBad pages f.va n mask = some (e, sub) → s.walked a f how =
      if cnt.isSome && some e ≠ firstSet mask then .ready (elementBytes f s.free n mask pages e)
      else translationFault sub e (f.va + e * n)) := by
  subst hn
  refine ⟨fun hb => ?_, fun e sub hb => ?_⟩
  · simp only [State.walked, hk, hb]
    rfl
  · simp only [State.walked, hk, hb]
    rfl

theorem walked_vstg (hk : f.kind = .vstg fd mask) :
    let pages := s.pagesOf (s.ctx a) .wr (some f.ac) how (vecRuns f.va n mask)
    (firstBad pages f.va n mask = none → s.walked a f how = .arrived []) ∧
    (∀ e sub, firstBad pages f.va n mask = some (e, sub) → s.walked a f how = translationFault sub e (f.va + e * n)) := by
  subst hn
  refine ⟨fun hb => ?_, fun e sub hb => ?_⟩ <;> simp only [State.walked, hk, hb]

end

end

theorem elementFails_iff {s : State} {cx : Ctx} {need : Need} {ac : Option (BitVec 2)} {how : Lookup} {va n : Nat}
    {mask : BitVec 1024} {e sub : Nat} : ElementFails s cx need ac how va n mask e sub ↔
      e < 1024 ∧ mask.getLsbD e = true ∧ (2 ^ 45 ≤ (va + e * n) / 4096 ∧ sub = 1 ∨ (va + e * n) / 4096 < 2 ^ 45 ∧
        s.translate cx ((va + e * n) / 4096 * 4096) need ac how = .error sub) := by
  rw [ElementFails, pageOutcome_error_iff]

theorem walkDecides : WalkDecides := by
  intro s a f how
  refine ⟨fun d sz x hk => ldg_decides hk, fun d sub hk ht => ⟨_, walked_locq_error hk ht, by decide⟩, ?_⟩
  intro fd mask need hkind
  dsimp only
  simp only [← elementFails_iff]
  have hn := gBytes_pos fd
  refine ⟨fun d cnt hk => ?_, fun hk => ?_⟩
  · obtain rfl : need = .rd := by
      rcases hkind with ⟨_, _, _, h⟩ | ⟨h, -⟩
      · exact h
      · rw [hk] at h; cases h
    obtain ⟨hall, hsome⟩ := walked_vldg (s := s) (a := a) (how := how) rfl hk
    refine ⟨fun h => ⟨_, hall (firstBad_none hn h), elementBytes_hold f hn (Nat.le_refl _) fun e _ sub => h e sub⟩,
      fun e sub ⟨h, hlow⟩ hc => ?_, fun e sub ⟨h, hlow⟩ hc ⟨j, hj, hm⟩ => ?_⟩
    · rw [hsome e sub (firstBad_some hn h hlow), if_neg]
      · rfl
      · rcases hc with hc | hc
        · simp [hc]
        · simp [(firstSet_eq_some_iff h.1 h.2.1).mpr hc]
    · refine ⟨_, (hsome e sub (firstBad_some hn h hlow)).trans (if_pos ?_),
        elementBytes_hold f hn (Nat.le_of_lt h.1) fun i hi sub => hlow i hi sub⟩
      have hfirst : some e ≠ firstSet mask := fun he => by
        have := (firstSet_eq_some_iff h.1 h.2.1).mp he.symm j hj
        rw [hm] at this
        cases this
      simp [Option.isSome_iff_ne_none.mpr hc, hfirst]
  · obtain rfl : need = .wr := by
      rcases hkind with ⟨_, _, h, _⟩ | ⟨-, h⟩
      · rw [hk] at h; cases h
      · exact h
    obtain ⟨hall, hsome⟩ := walked_vstg (s := s) (a := a) (how := how) rfl hk
    exact ⟨fun h => hall (firstBad_none hn h), fun e sub ⟨h, hlow⟩ => hsome e sub (firstBad_some hn h hlow)⟩

end Sys2Proof.Proofs.ScalarSlot
end

section
/-!
What the walks of a product decide (R212): the pages of B, the stack on which each stands, and the outcome.
-/

namespace Sys2Proof.Proofs.ScalarSlot

open Sys2Proof Sys2Proof.Machine Sys2Proof.Claims

theorem eraseDups_of_nodup {α : Type} [BEq α] [LawfulBEq α] {l : List α} (h : l.Nodup) : l.eraseDups = l := by
  induction l with
  | nil => rfl
  | cons x l ih =>
    obtain ⟨hx, hl⟩ := List.nodup_cons.mp h
    have hkeep : l.filter (fun y => !y == x) = l :=
      List.filter_eq_self.mpr fun y hy => by simpa using fun e : y = x => hx (e ▸ hy)
    rw [List.eraseDups_cons, hkeep, ih hl]

/-! ## The pages of B -/

/-- The stack on which a page stands for a product's reads: none where it does not translate or lies in the far tier. -/
def pageStack (s : State) (cx : Ctx) (how : Lookup) (pg : Nat) : Option Nat :=
  match pageOutcome s cx .rd (some 0) how pg with
  | .ok (pa, _) => if isFar pa then none else homeOf pa
  | .error _ => none

section
variable {s : State} {cx : Ctx} {how : Lookup}

theorem pageStack_eq_some_iff {pg d : Nat} : pageStack s cx how pg = some d ↔ pg < 2 ^ 45 ∧ ∃ pa pte,
    s.translate cx (pg * 4096) .rd (some 0) how = .ok (pa, pte) ∧ isFar pa = false ∧ homeOf pa = some d := by
  unfold pageStack pageOutcome
  by_cases hpg : 2 ^ 45 ≤ pg
  · rw [if_pos hpg]
    exact ⟨fun h => (nomatch h), fun h => absurd h.1 (Nat.not_lt.mpr hpg)⟩
  · rw [if_neg hpg]
    simp only [Nat.not_le.mp hpg, true_and]
    cases s.translate cx (pg * 4096) .rd (some 0) how with
    | error sub => simp
    | ok r => cases hf : isFar r.1 <;> simp [hf, Prod.ext_iff]

variable {b n : Nat}

/-- The pages of n bytes at b, lowest first. -/
theorem touched_single (hn : 0 < n) : touched [(some b, n)] =
    (List.range ((b + n - 1) / 4096 - b / 4096 + 1)).map fun i => b / 4096 + i := by
  rw [touched, List.flatMap_singleton]
  dsimp only
  rw [if_neg (by omega), Laws.Network.tab_eq_map]

theorem nodup_touched_single (hn : 0 < n) : (touched [(some b, n)]).Nodup := by
  rw [touched_single hn]
  exact List.nodup_range.map fun i j h => Nat.add_left_cancel h

theorem mem_touched_single {pg : Nat} (hn : 0 < n) :
    pg ∈ touched [(some b, n)] ↔ b / 4096 ≤ pg ∧ pg ≤ (b + n - 1) / 4096 := by
  have hle : b / 4096 ≤ (b + n - 1) / 4096 := Nat.div_le_div_right (by omega)
  rw [touched_single hn, List.mem_map]
  constructor
  · rintro ⟨i, hi, rfl⟩
    have := List.mem_range.mp hi
    omega
  · rintro ⟨hlo, hhi⟩
    exact ⟨pg - b / 4096, List.mem_range.mpr (by omega), by omega⟩

theorem pagesOf_single (hn : 0 < n) : s.pagesOf cx .rd (some 0) how [(some b, n)] =
    (touched [(some b, n)]).map fun pg => (pg, pageOutcome s cx .rd (some 0) how pg) := by
  rw [pagesOf_eq, eraseDups_of_nodup (nodup_touched_single hn)]

/-- The lowest page of n bytes at b that meets a test. -/
theorem find?_touched_single {p : Nat → Bool} {pg : Nat} (hn : 0 < n) (hm : pg ∈ touched [(some b, n)]) (hp : p pg = true)
    (hlow : ∀ q ∈ touched [(some b, n)], q < pg → p q = false) : (touched [(some b, n)]).find? p = some pg := by
  obtain ⟨hlo, hhi⟩ := (mem_touched_single hn).mp hm
  have hfirst : (List.range ((b + n - 1) / 4096 - b / 4096 + 1)).find? (p ∘ fun i => b / 4096 + i) = some (pg - b / 4096) := by
    rw [List.find?_range_eq_some]
    refine ⟨?_, List.mem_range.mpr (by omega), fun j hj => ?_⟩
    · rw [Function.comp_apply, Nat.add_sub_cancel' hlo, hp]
    · rw [Function.comp_apply, hlow _ ((mem_touched_single hn).mpr (by omega)) (by omega)]
      rfl
  rw [touched_single hn, List.find?_map, hfirst, Option.map_some, Nat.add_sub_cancel' hlo]

/-- The stack that the walks of a product see a page of B on. -/
theorem home_eq_pageStack {pg : Nat} (h : pg ∈ touched [(some b, n)]) :
    ((pagePa (s.pagesOf cx .rd (some 0) how [(some b, n)]) (pg * 4096)).bind fun pa => if isFar pa then none else homeOf pa) =
      pageStack s cx how pg := by
  have hpg : pg * 4096 / 4096 = pg := Nat.mul_div_cancel _ (by decide)
  have hmem : pg * 4096 / 4096 ∈ touched [(some b, n)] := hpg.symm ▸ h
  unfold pageStack
  cases ho : pageOutcome s cx .rd (some 0) how pg with
  | error sub => rw [pagePa_error hmem (hpg.symm ▸ ho)]; rfl
  | ok r =>
    obtain ⟨pa, pte⟩ := r
    rw [pagePa_ok hmem (hpg.symm ▸ ho), Nat.mul_mod_left, Nat.add_zero]
    rfl

end

/-! ## The outcome -/

section
variable {s : State} {a : Agent} {g : Gemv} {how : Lookup}

/-- A page of B that a product cannot use: it stands nowhere, or not where the first page does. -/
def misplaced (s : State) (a : Agent) (g : Gemv) (how : Lookup) (pg : Nat) : Bool :=
  (pageStack s (s.ctx a) how pg).isNone || pageStack s (s.ctx a) how pg != pageStack s (s.ctx a) how (g.bva / 4096)

theorem misplaced_eq_false_iff {pg : Nat} : misplaced s a g how pg = false ↔
    ∃ d, pageStack s (s.ctx a) how (g.bva / 4096) = some d ∧ pageStack s (s.ctx a) how pg = some d := by
  rw [misplaced, Bool.or_eq_false_iff, bne_eq_false_iff_eq, ← Option.not_isSome, Bool.not_eq_false', Option.isSome_iff_exists]
  constructor
  · rintro ⟨⟨d, hd⟩, he⟩
    exact ⟨d, he ▸ hd, hd⟩
  · rintro ⟨d, h1, h2⟩
    exact ⟨⟨d, h2⟩, h2.trans h1.symm⟩

/-- The page that stops a product, as its walks find it. -/
theorem find?_misplaced (hn : 0 < g.size) :
    let pages := s.pagesOf (s.ctx a) .rd (some 0) how [(some g.bva, g.size)]
    let home (pg : Nat) : Option Nat := (pagePa pages (pg * 4096)).bind fun pa => if isFar pa then none else homeOf pa
    (pages.find? fun q => (home q.1).isNone || home q.1 != home (g.bva / 4096)) =
      ((touched [(some g.bva, g.size)]).find? (misplaced s a g how)).map
        fun pg => (pg, pageOutcome s (s.ctx a) .rd (some 0) how pg) := by
  intro pages home
  have hhome {pg : Nat} (h : pg ∈ touched [(some g.bva, g.size)]) : home pg = pageStack s (s.ctx a) how pg :=
    home_eq_pageStack h
  have hfirst : g.bva / 4096 ∈ touched [(some g.bva, g.size)] :=
    (mem_touched_single hn).mpr ⟨Nat.le_refl _, Nat.div_le_div_right (by omega)⟩
  show (s.pagesOf (s.ctx a) .rd (some 0) how [(some g.bva, g.size)]).find? _ = _
  rw [pagesOf_single hn, List.find?_map]
  congr 1
  refine List.find?_congr fun pg hpg => ?_
  rw [Function.comp_apply, hhome hpg, hhome hfirst]
  rfl

theorem walkedGemv_ready (hn : 0 < g.size) (h : ∀ pg ∈ touched [(some g.bva, g.size)], misplaced s a g how pg = false) :
    s.walkedGemv a g how = .ready (readOwn g.snap g.own 0 s.free g.bva g.size
      (pagePa (s.pagesOf (s.ctx a) .rd (some 0) how [(some g.bva, g.size)]))) := by
  have hfind := find?_misplaced (s := s) (a := a) (how := how) hn
  rw [List.find?_eq_none.mpr fun pg hpg => ne_true_of_eq_false (h pg hpg)] at hfind
  unfold State.walkedGemv
  dsimp only at hfind ⊢
  rw [hfind]
  rfl

theorem walkedGemv_failed (hn : 0 < g.size) {pg : Nat} (hm : pg ∈ touched [(some g.bva, g.size)])
    (hbad : misplaced s a g how pg = true) (hlow : ∀ q ∈ touched [(some g.bva, g.size)], q < pg → misplaced s a g how q = false) :
    s.walkedGemv a g how = .failed 0x08 0 0 (max g.bva (pg * 4096)) := by
  have hfind := find?_misplaced (s := s) (a := a) (how := how) hn
  rw [find?_touched_single hn hm hbad hlow] at hfind
  unfold State.walkedGemv
  dsimp only at hfind ⊢
  rw [hfind]
  rfl

end

theorem walkDecidesProduct : WalkDecidesProduct := by
  intro s a g how hn
  dsimp only
  simp only [← pageStack_eq_some_iff, ← mem_touched_single hn]
  refine ⟨fun d h => ?_, fun pg hm hbad hlow => ?_⟩
  · have hfirst := h (g.bva / 4096) ((mem_touched_single hn).mpr ⟨Nat.le_refl _, Nat.div_le_div_right (by omega)⟩)
    refine ⟨_, walkedGemv_ready hn fun pg hpg => misplaced_eq_false_iff.mpr ⟨d, hfirst, h pg hpg⟩, length_readOwn,
      fun i b hb pa pte ht => reads_of_readOwn hb ?_⟩
    have hi : i < g.size := by
      have := (List.getElem?_eq_some_iff.mp hb).1
      rwa [length_readOwn] at this
    have hpg : (g.bva + i) / 4096 ∈ touched [(some g.bva, g.size)] :=
      (mem_touched_single hn).mpr ⟨Nat.div_le_div_right (by omega), Nat.div_le_div_right (by omega)⟩
    exact pagePa_ok hpg (pageOutcome_ok (pageStack_eq_some_iff.mp (h _ hpg)).1 ht)
  · refine walkedGemv_failed hn hm ?_ fun q hq hlt => misplaced_eq_false_iff.mpr (hlow q hq hlt)
    by_contra hgood
    obtain ⟨d, h1, h2⟩ := misplaced_eq_false_iff.mp (Bool.eq_false_of_not_eq_true hgood)
    exact hbad d h1 h2

end Sys2Proof.Proofs.ScalarSlot
end

section
/-!
The events of loads (R123, R124, R165, R212, R338, R371): a finished walk and those that share it, the arrival of data, poison,
and the failures that are due.
-/

namespace Sys2Proof.Proofs.ScalarSlot

open Sys2Proof Sys2Proof.Machine Sys2Proof.Claims
open Sys2Proof.Proofs.ExecutionModel (modCore_of_some modCore_of_none raiseLate_eq)

/-! ## What a walk leaves in the caches (R338) -/

/-- A walk changes the caches only. -/
theorem fill_frame (s : State) (cx : Ctx) (va : Nat) (how : Lookup) : ∃ l, s.fill cx va how = { s with tlbs := l } := by
  unfold State.fill
  split
  · exact ⟨_, rfl⟩
  · split
    · exact ⟨_, rfl⟩
    · refine State.foldl_keeps (fun t => ∃ l, t = { s with tlbs := l }) _ (fun t e ⟨l, ht⟩ => ?_) _ ⟨_, rfl⟩
      subst ht
      dsimp only
      exact (ite_eq_or_eq ..).elim (fun h => ⟨_, h⟩) fun h => ⟨_, h⟩

theorem fillAll_frame (s : State) (cx : Ctx) (pages : List Nat) (how : Lookup) :
    ∃ l, s.fillAll cx pages how = { s with tlbs := l } := by
  refine State.foldl_keeps (fun t => ∃ l, t = { s with tlbs := l }) _ (fun t va ⟨l, ht⟩ => ?_) _ ⟨_, rfl⟩
  subst ht
  exact fill_frame _ cx va how

/-- The state once the walks of some pages have left what they read. -/
def walkRead (s : State) (cx : Ctx) (pages : List Nat) (how : Lookup) : State :=
  { s.fillAll cx pages how with free := s.free + 1 }

/-- What the walks read changes neither cores, nor memories, nor counters. -/
theorem walkRead_spec (s : State) (cx : Ctx) (pages : List Nat) (how : Lookup) :
    let t := walkRead s cx pages how
    t.gmem = s.gmem ∧ t.hmem = s.hmem ∧ t.ctrs = s.ctrs ∧ ∀ a, t.core? a = s.core? a := by
  obtain ⟨l, hl⟩ := fillAll_frame s cx pages how
  rw [walkRead, hl]
  exact ⟨rfl, rfl, rfl, fun a => by cases a <;> rfl⟩

/-! ## Accesses that share a walk (R338) -/

/-- Core `k` is `c` but for accesses that were walking, and for its commands. -/
def Shared (c k : Core) : Prop :=
  k = { c with fetches := k.fetches, gemv := k.gemv, cmds := k.cmds } ∧
  (∃ u : Fetch → Fetch, k.fetches = c.fetches.map u ∧ ∀ g, (u g).id = g.id ∧ (g.st ≠ .walking → u g = g)) ∧
  (∃ u : Gemv → Gemv, k.gemv = c.gemv.map u ∧ ∀ g, (u g).id = g.id ∧ (g.st ≠ .walking → u g = g))

theorem Shared.refl (c : Core) : Shared c c :=
  ⟨rfl, ⟨id, (List.map_id _).symm, fun _ => ⟨rfl, fun _ => rfl⟩⟩, ⟨id, (List.map_id _).symm, fun _ => ⟨rfl, fun _ => rfl⟩⟩⟩

theorem Shared.trans {c k l : Core} (h : Shared c k) (h' : Shared k l) : Shared c l := by
  obtain ⟨he, ⟨u, hu, hu'⟩, ⟨v, hv, hv'⟩⟩ := h
  obtain ⟨he', ⟨p, hp, hp'⟩, ⟨q, hq, hq'⟩⟩ := h'
  refine ⟨?_, ⟨p ∘ u, by rw [hp, hu, List.map_map], fun g => ⟨(hp' _).1.trans (hu' g).1, fun hg => ?_⟩⟩,
    ⟨q ∘ v, by rw [hq, hv, List.map_map], fun g => ⟨(hq' _).1.trans (hv' g).1, fun hg => ?_⟩⟩⟩
  · rw [he', he]
  · have hug := (hu' g).2 hg
    exact (congrArg p hug).trans ((hp' g).2 hg)
  · have hvg := (hv' g).2 hg
    exact (congrArg q hvg).trans ((hq' g).2 hg)

/-- A shared walk changes accesses that were walking. -/
theorem shareWalk_shared {s : State} {a : Agent} {c : Core} (cx : Ctx) (found : List Nat) (b : Agent)
    (hc : s.core? a = some c) : ∃ k, (s.shareWalk cx found b).core? a = some k ∧ Shared c k := by
  unfold State.shareWalk
  by_cases hb : a = b
  · subst hb
    rw [modCore_of_some hc, core_setCore_same hc]
    refine ⟨_, rfl, rfl, ?_, ?_⟩
    · split
      · exact ⟨id, (List.map_id _).symm, fun _ => ⟨rfl, fun _ => rfl⟩⟩
      · refine ⟨_, rfl, fun g => ?_⟩
        dsimp only
        split
        · rename_i hg
          simp only [Bool.and_eq_true, beq_iff_eq] at hg
          exact ⟨rfl, fun hne => absurd hg.1.1 hne⟩
        · exact ⟨rfl, fun _ => rfl⟩
    · split
      · exact ⟨id, (List.map_id _).symm, fun _ => ⟨rfl, fun _ => rfl⟩⟩
      · refine ⟨_, rfl, fun g => ?_⟩
        dsimp only
        split
        · rename_i hg
          simp only [Bool.and_eq_true, beq_iff_eq] at hg
          exact ⟨rfl, fun hne => absurd hg.1.1 hne⟩
        · exact ⟨rfl, fun _ => rfl⟩
  · refine ⟨c, ?_, .refl c⟩
    cases hcb : s.core? b with
    | none => rwa [modCore_of_none hcb]
    | some k => rwa [modCore_of_some hcb, core_setCore_ne hb]

/-- What the sharing of a walk leaves: memories, counters, and every core but for its walking accesses. -/
theorem shareWalks_spec {s : State} {a : Agent} {c : Core} (cx : Ctx) (found : List Nat) (hc : s.core? a = some c) :
    let t := s.shareWalks cx found
    t.gmem = s.gmem ∧ t.hmem = s.hmem ∧ t.ctrs = s.ctrs ∧ ∃ k, t.core? a = some k ∧ Shared c k := by
  unfold State.shareWalks
  refine State.foldl_keeps (fun t => t.gmem = s.gmem ∧ t.hmem = s.hmem ∧ t.ctrs = s.ctrs ∧
    ∃ k, t.core? a = some k ∧ Shared c k) _ (fun t b ht => ?_) _ ⟨rfl, rfl, rfl, c, hc, .refl c⟩
  obtain ⟨hg, hh, hct, k, hk, hs⟩ := ht
  obtain ⟨l, hl, hs'⟩ := shareWalk_shared cx found b hk
  exact ⟨by rw [State.shareWalk, State.modCore_gmem, hg], by rw [State.shareWalk, State.modCore_hmem, hh],
    by rw [State.shareWalk, State.modCore_ctrs, hct], l, hl, hs.trans hs'⟩

/-! ## A finished walk -/

theorem walkDone_spec {s : State} {a : Agent} {c : Core} (cx : Ctx) (pages : List Nat) (how : Lookup) (k : Core)
    (hc : s.core? a = some c) :
    let t := ((walkRead s cx pages how).setCore a k).shareWalks cx pages
    t.gmem = s.gmem ∧ t.hmem = s.hmem ∧ t.ctrs = s.ctrs ∧ ∃ l, t.core? a = some l ∧ Shared k l := by
  obtain ⟨hg, hh, hct, hcore⟩ := walkRead_spec s cx pages how
  obtain ⟨hg', hh', hct', hk⟩ := shareWalks_spec cx pages (core_setCore_same (c := k) ((hcore a).trans hc))
  exact ⟨hg'.trans ((State.setCore_gmem ..).trans hg), hh'.trans ((State.setCore_hmem ..).trans hh),
    hct'.trans ((State.setCore_ctrs ..).trans hct), hk⟩

theorem walked_ne_walking (s : State) (a : Agent) (f : Fetch) (how : Lookup) : s.walked a f how ≠ .walking := by
  unfold State.walked
  dsimp only
  split
  · split <;> nofun
  · split <;> nofun
  · split
    · nofun
    · split <;> nofun
  · split <;> nofun

theorem walkedGemv_ne_walking (s : State) (a : Agent) (g : Gemv) (how : Lookup) : s.walkedGemv a g how ≠ .walking := by
  unfold State.walkedGemv
  dsimp only
  split <;> nofun

/-- The core in whose accesses the walk of fetch `i` has ended with `st`. -/
def fetchBecomes (c : Core) (i : Nat) (st : FetchSt) : Core :=
  { c with fetches := c.fetches.map fun (g : Fetch) => if g.id = i then { g with st := st } else g }

def gemvBecomes (c : Core) (i : Nat) (st : FetchSt) : Core :=
  { c with gemv := c.gemv.map fun (g : Gemv) => if g.id = i then { g with st := st } else g }

section
variable {c k : Core} {i : Nat} {st : FetchSt}

/-- What accesses that share the walk leave of a core whose fetch has been decided. -/
theorem fetch_of_shared (hst : st ≠ .walking) (h : Shared (fetchBecomes c i st) k) :
    k.fetches.length = c.fetches.length ∧ ∀ g ∈ k.fetches, g.id = i → g.st = st := by
  obtain ⟨-, ⟨u, hu, hu'⟩, -⟩ := h
  refine ⟨by simp [hu, fetchBecomes], fun g hg hi => ?_⟩
  simp only [hu, fetchBecomes, List.map_map, List.mem_map, Function.comp_apply] at hg
  obtain ⟨f, -, rfl⟩ := hg
  rw [(hu' _).1] at hi
  split_ifs at hi ⊢ with hf
  · rw [(hu' _).2 hst]
  · exact absurd hi hf

theorem gemv_of_shared (hst : st ≠ .walking) (h : Shared (gemvBecomes c i st) k) : ∀ g ∈ k.gemv, g.id = i → g.st = st := by
  obtain ⟨-, -, ⟨u, hu, hu'⟩⟩ := h
  intro g hg hi
  simp only [hu, gemvBecomes, List.map_map, List.mem_map, Function.comp_apply] at hg
  obtain ⟨f, -, rfl⟩ := hg
  rw [(hu' _).1] at hi
  split_ifs at hi ⊢ with hf
  · rw [(hu' _).2 hst]
  · exact absurd hi hf

end

section
variable {s : State} {a : Agent} {c : Core} (hc : s.core? a = some c)
include hc

theorem walkComplete_fetch {f : Fetch} {cached : Bool}
    (hf : c.fetches.find? (fun g => g.id == f.id) = some f) (hst : f.st = .walking) (haw : s.awaitsResume a f.due = false)
    (htd : ∀ va ∈ f.pages, s.tablesDown (s.ctx a) va (.of cached) = false) :
    exec (.walkComplete a f.id cached) s = .next (((walkRead s (s.ctx a) f.pages (.of cached)).setCore a
      (fetchBecomes c f.id (s.walked a f (.of cached)))).shareWalks (s.ctx a) f.pages) := by
  have hwalk : c.fetches.find? (fun (g : Fetch) => g.id == f.id && g.st == .walking) = some f := by
    obtain ⟨-, l, l', hl, hbefore⟩ := List.find?_eq_some_iff_append.mp hf
    refine List.find?_eq_some_iff_append.mpr ⟨by simp [hst], l, l', hl, fun g hg => ?_⟩
    have := hbefore g hg
    simp only [Bool.not_eq_true'] at this
    simp [this]
  have hreach : (s.awaitsResume a f.due || f.pages.any fun va => s.tablesDown (s.ctx a) va (.of cached)) = false := by
    rw [haw, Bool.false_or, List.any_eq_false]
    exact fun va hva => ne_true_of_eq_false (htd va hva)
  have hc' := ((walkRead_spec s (s.ctx a) f.pages (.of cached)).2.2.2 a).trans hc
  rw [← modCore_of_some hc' fun c => fetchBecomes c f.id (s.walked a f (.of cached))]
  show execWalkComplete a f.id cached s = _
  simp only [execWalkComplete, hc, hwalk, hreach, Bool.false_eq_true, if_false]
  rfl

theorem walkComplete_gemv {g : Gemv} {cached : Bool} (hid : ∀ h ∈ c.fetches, h.id ≠ g.id)
    (hg : c.gemv.find? (fun h => h.id == g.id && h.st == .walking) = some g) (haw : s.awaitsResume a g.due = false)
    (htd : ∀ va ∈ g.pages, s.tablesDown (s.ctx a) va (.of cached) = false) :
    exec (.walkComplete a g.id cached) s = .next (((walkRead s (s.ctx a) g.pages (.of cached)).setCore a
      (gemvBecomes c g.id (s.walkedGemv a g (.of cached)))).shareWalks (s.ctx a) g.pages) := by
  have hnone : c.fetches.find? (fun (h : Fetch) => h.id == g.id && h.st == .walking) = none :=
    List.find?_eq_none.mpr fun h hh => by simp [hid h hh]
  have hreach : (s.awaitsResume a g.due || g.pages.any fun va => s.tablesDown (s.ctx a) va (.of cached)) = false := by
    rw [haw, Bool.false_or, List.any_eq_false]
    exact fun va hva => ne_true_of_eq_false (htd va hva)
  have hc' := ((walkRead_spec s (s.ctx a) g.pages (.of cached)).2.2.2 a).trans hc
  rw [← modCore_of_some hc' fun c => gemvBecomes c g.id (s.walkedGemv a g (.of cached))]
  show execWalkComplete a g.id cached s = _
  simp only [execWalkComplete, hc, hnone, hg, hreach, Bool.false_eq_true, if_false]
  rfl

/-! ## Arrivals (R123, R165, R212, R371) -/

theorem loadDataArrival_fetch {i : Nat} {f : Fetch} {data : List Byte} (hf : c.fetches.find? (fun g => g.id == i) = some f)
    (hst : f.st = .ready data) (hpd : s.anyPortDown (s.ctx a) f.pages = false) :
    exec (.loadDataArrival a i) s = .next (s.setCore a (fetchBecomes c i (.arrived data))) := by
  show execLoadDataArrival a i s = _
  simp only [execLoadDataArrival, hc, hf, hst, hpd, Bool.false_eq_true, if_false]
  rfl

theorem cxlPoison_fetch {i : Nat} {f : Fetch} {data : List Byte} (hf : c.fetches.find? (fun g => g.id == i) = some f)
    (hst : f.st = .ready data) (hfar : s.anyFar (s.ctx a) f.pages = true) :
    exec (.cxlPoison a i) s = .next (s.setCore a (fetchBecomes c i (.failed 0x0B 0 0 f.va))) := by
  show execCxlPoison a i s = _
  simp only [execCxlPoison, hc, hf, hst, hfar, if_true]
  rfl

theorem loadDataArrival_gemv {g : Gemv} {data : List Byte} (hnone : c.fetches.find? (fun h => h.id == g.id) = none)
    (hg : c.gemv.find? (fun h => h.id == g.id) = some g) (hst : g.st = .ready data) (hnb : g.arrived < g.nb)
    (hpd : s.anyPortDown (s.ctx a) g.pages = false) :
    exec (.loadDataArrival a g.id) s = .next (s.setCore a { c with gemv := c.gemv.map fun (h : Gemv) =>
      if h.id = g.id then { h with arrived := h.arrived + 1 } else h }) := by
  show execLoadDataArrival a g.id s = _
  have hmore : (decide (g.nb ≤ g.arrived) || s.anyPortDown (s.ctx a) g.pages) = false := by
    rw [hpd, Bool.or_false, decide_eq_false (Nat.not_le.mpr hnb)]
  simp only [execLoadDataArrival, hc, hnone, hg, hst, hmore, Bool.false_eq_true, if_false]

end

/-! ## Failures that are due (R124) -/

/-- A record of a failure as it becomes known after its cycle: of a word, its bundle and its exception. -/
def LateRecord (q : Nat × Nat × Exc) (z : Raised) : Prop :=
  z.cause = BitVec.ofNat 8 q.2.2.cause ∧ z.sub = BitVec.ofNat 8 q.2.2.sub ∧ z.word = some q.1 ∧ z.deferred = true ∧
    z.baddr = q.2.1 ∧ z.addr = BitVec.ofNat 64 q.2.2.addr

/-- Failures raised one after the other add a record of each. -/
theorem foldl_raiseLate (fs : List (Nat × Nat × Exc)) (c : Core) : ∃ zs,
    (fs.foldl (fun c q => c.raiseLate q.1 q.2.1 q.2.2) c) = { c with raised := c.raised ++ zs } ∧
      ∀ q ∈ fs, ∃ z ∈ zs, LateRecord q z := by
  induction fs generalizing c with
  | nil => exact ⟨[], by simp, by simp⟩
  | cons q fs ih =>
    obtain ⟨z, hz, hcause, hsub, hword, hdef, hb, haddr, -⟩ := raiseLate_eq c q.1 q.2.1 q.2.2
    obtain ⟨zs, hzs, hall⟩ := ih (c.raiseLate q.1 q.2.1 q.2.2)
    refine ⟨z :: zs, ?_, fun p hp => ?_⟩
    · rw [List.foldl_cons, hzs, hz, List.append_assoc, List.singleton_append]
    · rcases List.mem_cons.mp hp with rfl | hp
      · exact ⟨z, List.mem_cons_self, hcause, hsub, hword, hdef, hb, haddr⟩
      · obtain ⟨y, hy, hry⟩ := hall p hp
        exact ⟨y, List.mem_cons_of_mem _ hy, hry⟩

theorem mem_dueFailures {c : Core} {f : Fetch} {now : Nat} {cause sub : BitVec 8} {e addr : Nat} (hf : f ∈ c.fetches)
    (hst : f.st = .failed cause sub e addr) (hdue : f.due ≤ now) :
    (f.word, f.baddr, { cause := cause.toNat, sub := sub.toNat, addr := addr }) ∈ c.dueFailures now :=
  List.mem_append_left _ (List.mem_filterMap.mpr ⟨f, hf, by simp [hst, hdue]⟩)

/-- An access that failed and is due walks again. -/
def walksAgain (now due : Nat) (st : FetchSt) : FetchSt :=
  match st with
  | .failed .. => if due ≤ now then .walking else st
  | _ => st

theorem walksAgain_ne_failed {now due : Nat} (h : due ≤ now) (st : FetchSt) (x : BitVec 8) (y : BitVec 8) (z w : Nat) :
    walksAgain now due st ≠ .failed x y z w := by
  cases st <;> simp [walksAgain, h]

section
variable {s : State} {a : Agent} {c : Core} (hc : s.core? a = some c)
include hc

theorem deferredFault_raises (hne : c.dueFailures (s.now a) ≠ []) : ∃ zs, exec (.deferredFault a) s = .next (s.setCore a
      { c with raised := c.raised ++ zs,
               fetches := c.fetches.map fun f => { f with st := walksAgain (s.now a) f.due f.st },
               gemv := c.gemv.map fun g => { g with st := walksAgain (s.now a) g.due g.st } }) ∧
    ∀ q ∈ c.dueFailures (s.now a), ∃ z ∈ zs, LateRecord q z := by
  obtain ⟨zs, hfold, hall⟩ := foldl_raiseLate (c.dueFailures (s.now a)) c
  refine ⟨zs, ?_, hall⟩
  show execDeferredFault a s = _
  simp only [execDeferredFault, hc, hfold, List.isEmpty_eq_false_iff.mpr hne, Bool.false_eq_true, if_false]
  rfl

end

theorem loadEvents : LoadEvents := by
  intro s a c f hc hf
  refine ⟨fun hst haw cached htd => ?_, fun g hid hg haw cached htd => ?_, fun data hst => ⟨fun hpd => ?_, fun hfar => ?_⟩,
    fun cause sub e addr hst hdue => ?_, fun g data hnone hg hst hnb hpd => loadDataArrival_gemv hc hnone hg hst hnb hpd⟩
  · obtain ⟨hgm, hhm, hct, k, hk, hshared⟩ := walkDone_spec (s.ctx a) f.pages (.of cached)
      (fetchBecomes c f.id (s.walked a f (.of cached))) hc
    obtain ⟨hlen, hdec⟩ := fetch_of_shared (walked_ne_walking s a f (.of cached)) hshared
    obtain ⟨hk', -, -⟩ := hshared
    refine ⟨_, k, walkComplete_fetch hc hf hst haw htd, hk, ?_, ?_, ?_, ?_, ?_, ?_, ?_, ?_, hlen, hdec, hgm, hhm, hct⟩ <;>
      rw [hk'] <;> rfl
  · obtain ⟨hgm, -, -, k, hk, hshared⟩ := walkDone_spec (s.ctx a) g.pages (.of cached)
      (gemvBecomes c g.id (s.walkedGemv a g (.of cached))) hc
    have hdec := gemv_of_shared (walkedGemv_ne_walking s a g (.of cached)) hshared
    obtain ⟨hk', -, -⟩ := hshared
    refine ⟨_, k, walkComplete_gemv hc hid hg haw htd, hk, ?_, ?_, ?_, hgm, hdec⟩ <;> rw [hk'] <;> rfl
  · exact loadDataArrival_fetch hc hf hst hpd
  · exact cxlPoison_fetch hc hf hst hfar
  · have hmem := mem_dueFailures (List.mem_of_find?_eq_some hf) hst hdue
    obtain ⟨zs, hexec, hall⟩ := deferredFault_raises hc (List.ne_nil_of_mem hmem)
    obtain ⟨z, hz, hcause, hsub, hword, hdef, hb, haddr⟩ := hall _ hmem
    refine ⟨_, _, hexec, core_setCore_same hc,
      ⟨z, List.mem_append_right _ hz, by simpa using hcause, by simpa using hsub, hword, hdef, hb, haddr⟩, fun g hg hgd => ?_⟩
    obtain ⟨g', -, rfl⟩ := List.mem_map.mp hg
    exact walksAgain_ne_failed hgd g'.st

end Sys2Proof.Proofs.ScalarSlot
end

section
/-!
The store path (R246, R248, R253, R255, R337): what accepting an entry takes from the entries before it, and the outcomes of
a drain.
-/

namespace Sys2Proof.Proofs.ScalarSlot

open Sys2Proof Sys2Proof.Machine Sys2Proof.Claims
open Sys2Proof.Proofs.ExecutionModel (raiseLate_eq core?_core_iff setCore_core modTroupe_of_some setTroupe_setTroupe)

/-! ## Bytes of entries in coherence order (R246, R253) -/

section
variable {e f : Egress}

theorem byteAt_eq (e : Egress) (x : Nat) : e.byteAt x = if e.va ≤ x then e.bytes.getD (x - e.va) none else none := by
  unfold Egress.byteAt
  by_cases h : e.va ≤ x
  · by_cases h' : x < e.va + e.bytes.length
    · simp [h, h']
    · simp [h, h', List.getD_eq_getElem?_getD, show e.bytes[x - e.va]? = none from List.getElem?_eq_none (by omega)]
  · simp [h]

/-- Stores that do not meet have no byte in common. -/
theorem byteAt_of_not_meets (h : f.meets e = false) {x : Nat} (hx : (e.byteAt x).isSome = true) : f.byteAt x = none := by
  rw [byteAt_eq f]
  split
  · rename_i hle
    rw [List.getD_eq_getElem?_getD]
    cases hb : f.bytes[x - f.va]? with
    | none => rfl
    | some b =>
      have hmem : (b.isSome && (e.byteAt (f.va + (x - f.va))).isSome) ∈
          f.bytes.mapIdx fun i b => b.isSome && (e.byteAt (f.va + i)).isSome :=
        List.mem_of_getElem? (i := x - f.va) (by rw [List.getElem?_mapIdx, hb]; rfl)
      have hnot := List.any_eq_false.mp h _ hmem
      rw [Nat.add_sub_cancel' hle, hx, Bool.and_true] at hnot
      simpa using hnot
  · rfl

theorem beneath_frame : f.beneath e = { f with bytes := (f.beneath e).bytes, cut := (f.beneath e).cut } := by
  unfold Egress.beneath
  split <;> rfl

/-- An entry beneath an accepted one keeps the bytes that the accepted one does not store. -/
theorem byteAt_beneath (x : Nat) : (f.beneath e).byteAt x = if (e.byteAt x).isSome then none else f.byteAt x := by
  unfold Egress.beneath
  cases hm : f.meets e with
  | false =>
    rw [if_neg Bool.false_ne_true]
    split_ifs with hx
    · exact byteAt_of_not_meets hm hx
    · rfl
  | true =>
    rw [if_pos rfl, byteAt_eq, byteAt_eq f]
    by_cases hle : f.va ≤ x
    · simp only [if_pos hle, List.getD_eq_getElem?_getD, List.getElem?_mapIdx, Nat.add_sub_cancel' hle]
      cases f.bytes[x - f.va]? with
      | none => simp
      | some b => simp
    · rw [if_neg hle, if_neg hle, ite_self]

theorem acceptedOf_append {l l' : List Egress} (h : e ∉ l) :
    acceptedOf e (l ++ e :: l') = l.map (fun f => f.beneath e) ++ l' := by
  induction l with
  | nil => simp [acceptedOf]
  | cons f l ih =>
    obtain ⟨hf, hl⟩ := not_or.mp (List.mem_cons.not.mp h)
    rw [List.cons_append, acceptedOf, if_neg (Ne.symm hf), ih hl, List.map_cons, List.cons_append]

theorem blank_iff : e.blank = true ↔ e.cut = false ∧ ∀ b ∈ e.bytes, b = none := by
  simp [Egress.blank]

theorem not_blank_iff : e.blank = false ↔ e.cut = true ∨ ∃ b ∈ e.bytes, b ≠ none := by
  rw [← Bool.not_eq_true, blank_iff]
  simp [imp_iff_not_or]

end

/-! ## Accepting a narrow write -/

theorem acceptNarrow_frame (s : State) (pa : Nat) (bs : List (Option Byte)) (pub : Bool) (die loc : Nat) :
    ∃ h, s.acceptNarrow pa bs pub die loc = { s with ghist := h } := by
  unfold State.acceptNarrow
  split <;> exact ⟨_, rfl⟩

theorem ghist_acceptNarrow_none {s : State} {pa : Nat} {bs : List (Option Byte)} (pub : Bool) (die loc : Nat)
    (h : homeOf pa = none ∨ ∀ b ∈ bs, b = none) : (s.acceptNarrow pa bs pub die loc).ghist = s.ghist := by
  rw [State.acceptNarrow, if_pos]
  simpa using h

theorem ghist_acceptNarrow {s : State} {pa : Nat} {bs : List (Option Byte)} (pub : Bool) (die loc : Nat)
    (hpa : homeOf pa ≠ none) (hbs : ∃ b ∈ bs, b ≠ none) : (s.acceptNarrow pa bs pub die loc).ghist = s.ghist ++
      [{ pa := pa, bytes := bs, pub := pub, scope := 0, die := die, loc := loc, seen := [] }] := by
  rw [State.acceptNarrow, if_neg]
  simpa [hpa] using hbs

/-! ## The drain -/

/-- The core once memory has accepted an entry at `pa`. -/
def acceptedCore (c : Core) (e : Egress) (pa : Nat) : Core :=
  { c with egress := acceptedOf e c.egress,
           snap := if (homeOf pa).isSome && e.pub then c.snap.writeO pa e.bytes else c.snap,
           accd := if (homeOf pa).isSome && !e.pub then c.accd ++ [e] else c.accd }

/-- The write of an entry that memory accepts at `pa`, which no other agent sees yet. -/
def narrowWrite (c : Core) (a : Agent) (e : Egress) (pa : Nat) : GWrite :=
  { pa := pa, bytes := e.bytes, pub := e.pub, scope := 0, die := (c.site a).1, loc := (c.site a).2, seen := [] }

/-- The state once memory has accepted an entry at `pa`. -/
def acceptedState (s : State) (a : Agent) (c : Core) (e : Egress) (pa : Nat) : State :=
  let t := s.fill (s.ctx a) e.va .any
  { (t.setCore a (acceptedCore c e pa)).acceptNarrow pa e.bytes e.pub (c.site a).1 (c.site a).2 with free := t.free + 1 }

section
variable {s : State} {a : Agent} {c : Core} {e : Egress}

theorem acceptedState_spec (hc : s.core? a = some c) (pa : Nat) :
    let t := acceptedState s a c e pa
    t.core? a = some (acceptedCore c e pa) ∧ t.gmem = s.gmem ∧ t.hmem = s.hmem ∧ t.ctrs = s.ctrs ∧
      (homeOf pa = none ∨ (∀ b ∈ e.bytes, b = none) → t.ghist = s.ghist) ∧
      (homeOf pa ≠ none → (∃ b ∈ e.bytes, b ≠ none) → t.ghist = s.ghist ++ [narrowWrite c a e pa]) := by
  obtain ⟨l, hl⟩ := fill_frame s (s.ctx a) e.va .any
  have hc' : ({ s with tlbs := l } : State).core? a = some c := by
    rw [← hc]; cases a <;> rfl
  obtain ⟨h, hh⟩ := acceptNarrow_frame (({ s with tlbs := l } : State).setCore a (acceptedCore c e pa)) pa e.bytes e.pub
    (c.site a).1 (c.site a).2
  unfold acceptedState
  rw [hl]
  refine ⟨?_, ?_, ?_, ?_, fun hn => ?_, fun hpa hbs => ?_⟩
  · rw [← core_setCore_same (c := acceptedCore c e pa) hc']
    dsimp only
    rw [hh]
    cases a <;> rfl
  · dsimp only; rw [hh]; exact State.setCore_gmem ..
  · dsimp only; rw [hh]; exact State.setCore_hmem ..
  · dsimp only; rw [hh]; exact State.setCore_ctrs ..
  · exact (ghist_acceptNarrow_none _ _ _ hn).trans (State.setCore_ghist ..)
  · exact (ghist_acceptNarrow _ _ _ hpa hbs).trans (congrArg (· ++ _) (State.setCore_ghist ..))

variable (hc : s.core? a = some c) (he : s.drainNext a c = some e)
include hc he

theorem storePathDrain_blank (hb : e.blank = true) :
    exec (.storePathDrain a) s = .next (s.setCore a { c with egress := c.egress.erase e }) := by
  show execStorePathDrain a s = _
  simp only [execStorePathDrain, hc, Option.bind_some, he, Option.map_some, hb, if_true]

theorem storePathDrain_accepts (hb : e.blank = false) {pa : Nat} {pte : BitVec 64}
    (ht : s.translate (s.ctx a) e.va .wr (some e.ac) .any = .ok (pa, pte)) :
    exec (.storePathDrain a) s = .next (acceptedState s a c e pa) := by
  have ht' : s.entryTarget a e = .ok (pa, pte) := ht
  show execStorePathDrain a s = _
  simp only [execStorePathDrain, hc, Option.bind_some, he, Option.map_some, hb, Bool.false_eq_true, if_false, ht']
  cases a <;> rfl

theorem storePathDrain_fails (hb : e.blank = false) {sub : Nat}
    (ht : s.translate (s.ctx a) e.va .wr (some e.ac) .any = .error sub) (hp : s.publishing a = false) :
    exec (.storePathDrain a) s = .next (s.setCore a (({ c with egress := c.egress.map fun f =>
        if f = e then { f with failed := some (BitVec.ofNat 8 sub) } else f } : Core).raiseLate e.word e.baddr
          { cause := 0x0A, sub := sub, addr := e.va })) := by
  have ht' : s.entryTarget a e = .error sub := ht
  show execStorePathDrain a s = _
  simp only [execStorePathDrain, hc, Option.bind_some, he, Option.map_some, hb, Bool.false_eq_true, if_false, ht', hp]

end

section
variable {s : State} {t r : Nat} {c : Core} {e : Egress} (hc : s.core? (.core t r) = some c) (he : s.drainNext (.core t r) c = some e)
include hc he

theorem storePathDrain_discards (hb : e.blank = false) {sub : Nat}
    (ht : s.translate (s.ctx (.core t r)) e.va .wr (some e.ac) .any = .error sub) (hp : s.publishing (.core t r) = true) :
    exec (.storePathDrain (.core t r)) s =
      .next ((s.setCore (.core t r) { c with egress := c.egress.erase e }).modTroupe t fun x =>
        { x with status := some (x.status.getD (BitVec.ofNat 16 (0x0A00 + sub))) }) := by
  have ht' : s.entryTarget (.core t r) e = .error sub := ht
  show execStorePathDrain (.core t r) s = _
  simp only [execStorePathDrain, hc, Option.bind_some, he, Option.map_some, hb, Bool.false_eq_true, if_false, ht', hp, if_true]

end

/-- Setting a core and then the status of its troupe. -/
theorem setCore_status {s : State} {t r : Nat} {c : Core} (hc : s.core? (.core t r) = some c) (k : Core) (f : Troupe → BitVec 16) :
    let u := (s.setCore (.core t r) k).modTroupe t fun x => { x with status := some (f x) }
    u.core? (.core t r) = some k ∧ ∃ x, s.troupe? t = some x ∧
      u.troupe? t = some { x with cores := x.cores.set r k, status := some (f { x with cores := x.cores.set r k }) } := by
  obtain ⟨x, hx, hr⟩ := core?_core_iff.mp hc
  obtain ⟨hlt, -⟩ := List.getElem?_eq_some_iff.mp hr
  dsimp only
  rw [setCore_core hx, modTroupe_of_some (troupe_setTroupe_same hx), setTroupe_setTroupe]
  exact ⟨core?_core_iff.mpr ⟨_, troupe_setTroupe_same hx, List.getElem?_set_self hlt⟩, x, hx, troupe_setTroupe_same hx⟩

theorem storePath : StorePath := by
  intro s a c e hc he
  dsimp only
  simp only [← not_blank_iff]
  refine ⟨fun hcut hbs => storePathDrain_blank hc he (blank_iff.mpr ⟨hcut, hbs⟩), fun hb =>
    ⟨fun pa pte ht => ?_, fun sub ht hp => ?_, fun sub t r ht hp ha => ?_⟩⟩
  · obtain ⟨hk, hgm, hhm, hct, hkeep, hadd⟩ := acceptedState_spec (e := e) hc pa
    refine ⟨_, _, storePathDrain_accepts hc he hb ht, hk, rfl, rfl, rfl, rfl, hgm, hhm, hct, fun l l' hl hnot => ?_,
      fun hpa => ⟨?_, fun hbs => ⟨narrowWrite c a e pa, hadd hpa hbs, rfl, rfl, rfl, rfl, rfl, rfl, rfl⟩⟩, hkeep, fun hpa => ?_⟩
    · refine ⟨l.map fun f => f.beneath e, ?_, List.length_map _, fun i f g hf hg => ?_⟩
      · rw [← acceptedOf_append hnot, ← hl]; rfl
      · rw [List.getElem?_map, hf] at hg
        obtain rfl := Option.some.inj hg
        exact ⟨beneath_frame, byteAt_beneath⟩
    · simp [acceptedCore, Option.isSome_iff_ne_none.mpr hpa]
    · simp [acceptedCore, hpa]
  · obtain ⟨z, hz, hcause, hsub, hword, hdef, hbaddr, haddr, -⟩ := raiseLate_eq ({ c with egress := c.egress.map fun f =>
      if f = e then { f with failed := some (BitVec.ofNat 8 sub) } else f } : Core) e.word e.baddr
        { cause := 0x0A, sub := sub, addr := e.va }
    refine ⟨_, storePathDrain_fails hc he hb ht hp, ?_⟩
    rw [hz]
    refine ⟨List.length_map _, fun d hd => ?_, z, rfl, hcause, hsub, haddr, hword, hbaddr, hdef⟩
    obtain ⟨f, hf, rfl⟩ := List.mem_map.mp hd
    split_ifs with hfe
    · exact .inl (by rw [hfe])
    · exact .inr hf
  · subst ha
    obtain ⟨hk, x, hx, hy⟩ := setCore_status hc { c with egress := c.egress.erase e }
      fun x => x.status.getD (BitVec.ofNat 16 (0x0A00 + sub))
    refine ⟨_, storePathDrain_discards hc he hb ht hp, hk, ?_, ?_, fun y hxy => ⟨_, hy, ?_⟩⟩
    · rw [State.modTroupe_gmem, State.setCore_gmem]
    · rw [State.modTroupe_ghist, State.setCore_ghist]
    · rw [Option.some.inj (hxy.symm.trans hx)]

end Sys2Proof.Proofs.ScalarSlot
end

section
/-!
Writes that every agent sees (R246, R251, R252, R331, R403), and phases (R247, R249).
-/

namespace Sys2Proof.Proofs.ScalarSlot

open Sys2Proof Sys2Proof.Machine Sys2Proof.Claims
open Sys2Proof.Proofs.ExecutionModel (byteOf get_writeO_byteOf get_foldl_writeO byteOf_under foldl_hidden setCore_setCore)

/-! ## Wide writes -/

/-- A write names no byte at an address exactly where each of its bytes stands elsewhere. -/
theorem byteOf_eq_none_iff {w : GWrite} {x : Nat} :
    byteOf w x = none ↔ ∀ i b, w.bytes[i]? = some (some b) → x ≠ w.pa + i := by
  unfold byteOf
  constructor
  · rintro h i b hb rfl
    rw [if_pos (Nat.le_add_right ..), Nat.add_sub_cancel_left, List.getD_eq_getElem?_getD, hb] at h
    cases h
  · intro h
    split
    · rename_i hle
      rw [List.getD_eq_getElem?_getD]
      match hb : w.bytes[x - w.pa]? with
      | none => rfl
      | some none => rfl
      | some (some b) => exact absurd (Nat.add_sub_cancel' hle).symm (h _ b hb)
    · rfl

theorem byteOf_eq_some {w : GWrite} {i : Nat} {b : Byte} (h : w.bytes[i]? = some (some b)) : byteOf w (w.pa + i) = some b := by
  rw [byteOf, if_pos (Nat.le_add_right ..), Nat.add_sub_cancel_left, List.getD_eq_getElem?_getD, h]
  rfl

section
variable {w v : GWrite} {x : Nat}

/-- What an earlier write names once a later one stands over it. -/
theorem byteOf_under_write : byteOf (v.under w.pa w.bytes) x = if (byteOf w x).isSome then none else byteOf v x := by
  have hw : byteOf w x = if w.pa ≤ x then w.bytes.getD (x - w.pa) none else none := rfl
  rw [byteOf_under, hw]
  by_cases h : w.pa ≤ x <;> simp [h]

end

/-- Bytes at an address as a write that every agent sees. -/
def wideWrite (pa : Nat) (bs : List (Option Byte)) : GWrite :=
  { pa := pa, bytes := bs, pub := true, scope := 3, die := 0, loc := 0, seen := [] }

section
variable {s : State} {pa : Nat} {bs : List (Option Byte)}

theorem acceptWide_eq (hpa : homeOf pa ≠ none) :
    s.acceptWide pa bs = { s with gmem := s.gmem.writeO pa bs, ghist := hidden s.ghist pa bs } := by
  rw [State.acceptWide, if_neg (by simpa using hpa)]

variable (hwf : s.gmem.wf = true) (hpa : homeOf pa ≠ none)
include hwf hpa

/-- A byte of memory after a write that every agent sees. -/
theorem get_gmem_acceptWide (x : Nat) :
    (s.acceptWide pa bs).gmem.get x = (byteOf (wideWrite pa bs) x).getD (s.gmem.get x) := by
  rw [acceptWide_eq hpa]
  exact get_writeO_byteOf hwf (wideWrite pa bs) x

/-- The same of G as the agents without a snapshot read it. -/
theorem get_latest_acceptWide (x : Nat) :
    (s.acceptWide pa bs).latest.get x = (byteOf (wideWrite pa bs) x).getD (s.latest.get x) := by
  have hget : (s.acceptWide pa bs).latest.get x = (s.ghist.filter fun v => v.pub).foldl
      (fun b v => (byteOf (v.under pa bs) x).getD b) ((byteOf (wideWrite pa bs) x).getD (s.gmem.get x)) := by
    rw [← get_gmem_acceptWide hwf hpa, acceptWide_eq hpa]
    exact (get_foldl_writeO (Mem.wf_writeO hwf _ _) _ x).trans (foldl_hidden ..)
  have hlatest : s.latest.get x = (s.ghist.filter fun v => v.pub).foldl (fun b v => (byteOf v x).getD b) (s.gmem.get x) :=
    get_foldl_writeO hwf _ x
  have hunder (v : GWrite) : byteOf (v.under pa bs) x = if (byteOf (wideWrite pa bs) x).isSome then none else byteOf v x :=
    byteOf_under_write (w := wideWrite pa bs)
  rw [hget, hlatest]
  simp only [hunder]
  cases byteOf (wideWrite pa bs) x with
  | none => rfl
  | some b => simp

end

theorem wideWrites : WideWrites := by
  intro s pa bs hwf
  refine ⟨fun hpa => by rw [State.acceptWide, if_pos (by simp [hpa])], fun hpa =>
    ⟨_, rfl, by rw [acceptWide_eq hpa], fun i b hb => ?_, fun x hx => ?_⟩⟩
  · have hat : byteOf (wideWrite pa bs) (pa + i) = some b := byteOf_eq_some hb
    rw [get_gmem_acceptWide hwf hpa, get_latest_acceptWide hwf hpa, hat]
    exact ⟨rfl, rfl⟩
  · have hat : byteOf (wideWrite pa bs) x = none := byteOf_eq_none_iff.mpr hx
    rw [get_gmem_acceptWide hwf hpa, get_latest_acceptWide hwf hpa, hat]
    exact ⟨rfl, rfl⟩

/-! ## Publication (R247) -/

/-- A core's own writes. -/
def ownWrite (die loc : Nat) (w : GWrite) : Prop := w.die = die ∧ w.loc = loc

theorem hidden_keeps {P : GWrite → Prop} (hP : ∀ w pa bs, P w → P (w.under pa bs)) {l : List GWrite} (h : ∀ w ∈ l, P w)
    (pa : Nat) (bs : List (Option Byte)) : ∀ w ∈ hidden l pa bs, P w := by
  intro w hw
  obtain ⟨v, hv, rfl⟩ := List.mem_map.mp (List.mem_filter.mp hw).1
  exact hP v pa bs (h v hv)

/-- What stays narrow when writes become visible everywhere is none of them. -/
theorem settleWide_kept {mine : GWrite → Bool} (hmine : ∀ w pa bs, mine (w.under pa bs) = mine w) (l : List GWrite) {m : Mem}
    {kept : List GWrite} (h : ∀ w ∈ kept, mine w = false) : ∀ w ∈ (settleWide mine m kept l).2, mine w = false := by
  induction l generalizing m kept with
  | nil => exact h
  | cons w l ih =>
    unfold settleWide
    split_ifs with hw
    · exact ih (hidden_keeps (P := fun w => mine w = false) (fun v pa bs hv => (hmine v pa bs).trans hv) h _ _)
    · refine ih fun v hv => ?_
      rcases List.mem_append.mp hv with hv | hv
      · exact h v hv
      · rw [List.mem_singleton.mp hv]
        exact Bool.eq_false_of_not_eq_true hw

/-- A byte of memory that none of the writes names stays when they become visible everywhere. -/
theorem get_settleWide {mine : GWrite → Bool} {x : Nat} (l : List GWrite) {m : Mem} {kept : List GWrite} (hwf : m.wf = true)
    (h : ∀ w ∈ l, mine w = true → byteOf w x = none) : (settleWide mine m kept l).1.get x = m.get x := by
  induction l generalizing m kept with
  | nil => rfl
  | cons w l ih =>
    obtain ⟨hw, hl⟩ := List.forall_mem_cons.mp h
    unfold settleWide
    split_ifs with hm
    · rw [ih (Mem.wf_writeO hwf _ _) hl, get_writeO_byteOf hwf, hw hm, Option.getD_none]
    · exact ih hwf hl

section
variable {s : State} {die loc k : Nat}

theorem publish_narrow (hk : k < 3) : (s.publish die loc k).gmem = s.gmem ∧
    ∀ g ∈ (s.publish die loc k).ghist, ownWrite die loc g → g.pub = true ∧ k ≤ g.scope := by
  rw [State.publish, if_pos hk]
  refine ⟨rfl, fun g hg hown => ?_⟩
  obtain ⟨w, -, rfl⟩ := List.mem_map.mp hg
  split_ifs at hown ⊢ with hw
  · exact ⟨rfl, Nat.le_max_right ..⟩
  · exact absurd (by simpa [ownWrite] using hown) hw

theorem publish_wide (hk : 3 ≤ k) (hwf : s.gmem.wf = true) : (∀ g ∈ (s.publish die loc k).ghist, ¬ ownWrite die loc g) ∧
    ∀ x, (∀ g ∈ s.ghist, ownWrite die loc g → byteOf g x = none) → (s.publish die loc k).gmem.get x = s.gmem.get x := by
  rw [State.publish, if_neg (Nat.not_lt.mpr hk)]
  refine ⟨fun g hg hown => ?_, fun x hx => get_settleWide s.ghist hwf fun w hw hm => hx w hw (by simpa [ownWrite] using hm)⟩
  have hkept := settleWide_kept (mine := fun w => w.die == die && w.loc == loc) (fun _ _ _ => rfl) s.ghist (m := s.gmem)
    (fun _ h => absurd h List.not_mem_nil) g hg
  exact Bool.eq_false_iff.mp hkept (by simpa [ownWrite] using hown)

end

/-- A publication changes the memory G and the writes accepted. -/
theorem publish_frame (s : State) (die loc k : Nat) : ∃ m h, s.publish die loc k = { s with gmem := m, ghist := h } := by
  unfold State.publish
  split <;> exact ⟨_, _, rfl⟩

theorem publish_hmem (s : State) (die loc k : Nat) : (s.publish die loc k).hmem = s.hmem := by
  obtain ⟨m, h, hp⟩ := publish_frame s die loc k
  rw [hp]

theorem publish_ctrs (s : State) (die loc k : Nat) : (s.publish die loc k).ctrs = s.ctrs := by
  obtain ⟨m, h, hp⟩ := publish_frame s die loc k
  rw [hp]

/-! ## The snapshot of a phase (R249) -/

/-- A renewal of a snapshot notes who has observed a write, and changes nothing else of it. -/
theorem mem_snapOf {die loc free : Nat} {m : Mem} {l : List GWrite} {g : GWrite} (h : g ∈ (snapOf die loc free m l).2.1) :
    ∃ w ∈ l, g = { w with seen := g.seen } := by
  induction l generalizing m free with
  | nil => exact absurd h List.not_mem_nil
  | cons w l ih =>
    have hcons {n : Nat} {m' : Mem} {v : GWrite} (hv : v = { w with seen := v.seen })
        (hg : g ∈ v :: (snapOf die loc n m' l).2.1) : ∃ w' ∈ w :: l, g = { w' with seen := g.seen } := by
      rcases List.mem_cons.mp hg with rfl | hg
      · exact ⟨w, List.mem_cons_self, hv⟩
      · obtain ⟨w', hw', hg'⟩ := ih hg
        exact ⟨w', List.mem_cons_of_mem _ hw', hg'⟩
    unfold snapOf at h
    dsimp only at h
    split_ifs at h
    · exact hcons rfl h
    · exact hcons rfl h
    · exact hcons (v := { w with seen := (die * 32 + loc) :: w.seen }) rfl h
    · exact hcons rfl h

/-! ## The end of a phase -/

section
variable {s : State} {a : Agent} {c : Core}

theorem core?_publish (hc : s.core? a = some c) (die loc k : Nat) : (s.publish die loc k).core? a = some c := by
  obtain ⟨m, h, hp⟩ := publish_frame s die loc k
  rw [hp, ← hc]
  cases a <;> rfl

/-- The renewed snapshot of an agent's core, with the history and the choices that it leaves. -/
def renewal (s : State) (a : Agent) (c : Core) : Mem × List GWrite × Nat :=
  snapOf (c.site a).1 (c.site a).2 s.free s.gmem s.ghist

theorem renew_eq (hc : s.core? a = some c) : s.renew a = { s.setCore a { c with snap := (renewal s a c).1, spills := [] } with
    ghist := (renewal s a c).2.1, free := (renewal s a c).2.2 } := by
  rw [State.renew, hc]
  rfl

theorem renew_spec (hc : s.core? a = some c) :
    (s.renew a).core? a = some { c with snap := (renewal s a c).1, spills := [] } ∧
    (s.renew a).gmem = s.gmem ∧ (s.renew a).hmem = s.hmem ∧ (s.renew a).ctrs = s.ctrs ∧
    ∀ g ∈ (s.renew a).ghist, ∃ w ∈ s.ghist, g = { w with seen := g.seen } := by
  rw [renew_eq hc]
  refine ⟨?_, State.setCore_gmem .., State.setCore_hmem .., State.setCore_ctrs .., fun g hg => mem_snapOf hg⟩
  rw [← core_setCore_same (c := { c with snap := (renewal s a c).1, spills := [] }) hc]
  cases a <;> rfl

/-- The state in which a phase publishes: its core no longer waits, and its accepted writes are the publication's. -/
def publishing (s : State) (a : Agent) (c : Core) : State := s.setCore a { c with wait := none, accd := [] }

/-- What the completion of a phase leaves: the core with its snapshot renewed, and what the phase published. -/
theorem completePhase_spec (hc : s.core? a = some c) (k : Nat) :
    let t := (s.setCore a { c with wait := none }).completePhase a k
    let p := (publishing s a c).publish (c.site a).1 (c.site a).2 k
    ∃ m, t.core? a = some { c with wait := none, spills := [], accd := [], snap := m } ∧
      t.gmem = p.gmem ∧ t.hmem = s.hmem ∧ t.ctrs = s.ctrs ∧ ∀ g ∈ t.ghist, ∃ w ∈ p.ghist, g = { w with seen := g.seen } := by
  intro t p
  have hsite : ({ c with wait := none } : Core).site a = c.site a := by cases a <;> rfl
  have ht : t = p.renew a := by
    show State.completePhase _ a k = _
    rw [State.completePhase, core_setCore_same hc]
    dsimp only
    rw [setCore_setCore, hsite]
    rfl
  obtain ⟨hcore, hgm, hhm, hct, hhist⟩ := renew_spec (core?_publish (core_setCore_same hc) (c.site a).1 (c.site a).2 k :
    p.core? a = some { c with wait := none, accd := [] })
  rw [ht]
  exact ⟨_, hcore, hgm, hhm.trans ((publish_hmem ..).trans (State.setCore_hmem ..)),
    hct.trans ((publish_ctrs ..).trans (State.setCore_ctrs ..)), hhist⟩

section
variable {w : Wait} {k : Nat} (hc : s.core? a = some c) (hw : c.wait = some w) (hk : w.kind = .phase k)
include hc hw hk

theorem phaseComplete_completes (hcov : s.covered a c k w.iss = true) (hm : w.marked k = true) :
    exec (.phaseComplete a) s = .next ((s.setCore a { c with wait := none }).completePhase a k) := by
  show execPhaseComplete a s = _
  simp only [execPhaseComplete, hc, hw, hk, hcov, hm, Bool.and_self, if_true]

theorem phaseComplete_waits (h : s.covered a c k w.iss = false ∨ w.marked k = false) :
    exec (.phaseComplete a) s = .refused (.notEnabled "PHASE_COMPLETE") := by
  have hno : (s.covered a c k w.iss && w.marked k) = false := Bool.and_eq_false_iff.mpr h
  show execPhaseComplete a s = _
  simp only [execPhaseComplete, hc, hw, hk, hno, Bool.false_eq_true, if_false]
  rfl

end

end

theorem phases : Phases := by
  intro s a c w k hc hw hk hwf
  refine ⟨fun hcov hm => ?_, phaseComplete_waits hc hw hk⟩
  obtain ⟨m, hcore, hgm, hhm, hct, hhist⟩ := completePhase_spec hc k
  have hgm' : (publishing s a c).gmem = s.gmem := State.setCore_gmem ..
  have hhist' : (publishing s a c).ghist = s.ghist := State.setCore_ghist ..
  refine ⟨_, _, phaseComplete_completes hc hw hk hcov hm, hcore, rfl, hhm, hct, fun hlt => ?_, fun hge => ?_⟩
  · obtain ⟨hsame, hpub⟩ := publish_narrow (s := publishing s a c) (die := (c.site a).1) (loc := (c.site a).2) hlt
    refine ⟨hgm.trans (hsame.trans hgm'), fun g hg hown => ?_⟩
    obtain ⟨v, hv, hgv⟩ := hhist g hg
    rw [hgv] at hown ⊢
    exact hpub v hv hown
  · obtain ⟨hnone, hkeep⟩ := publish_wide (s := publishing s a c) (die := (c.site a).1) (loc := (c.site a).2) hge
      (by rw [hgm', hwf])
    refine ⟨fun g hg hown => ?_, fun x hx => ?_⟩
    · obtain ⟨v, hv, hgv⟩ := hhist g hg
      rw [hgv] at hown
      exact hnone v hv hown
    · rw [hgm, hkeep x fun g hg hown => byteOf_eq_none_iff.mpr (hx g (hhist' ▸ hg) hown), hgm']

/-- Settles O36: walks, arrivals, the store path, wide writes and phases, part by part. -/
theorem memoryEvents : Obligations.MemoryEvents :=
  ⟨walkDecides, walkDecidesProduct, loadEvents, storePath, wideWrites, phases⟩

end Sys2Proof.Proofs.ScalarSlot
end

section
/-!
The words of the vector slots (R94, R140, R142, R149, R159, R160): how a word ends, what one that works element by element
writes, and the flags that it raises.
-/

namespace Sys2Proof.Proofs.VectorSlot

open Sys2Proof Sys2Proof.Machine Sys2Proof.Claims
open Sys2Proof.Proofs.ExecutionModel (tab_id)

/-! ## Flags (R57) -/

theorem getLsbD_foldl_or (l : List Fl) (a : Fl) (j : Nat) :
    (l.foldl (· ||| ·) a).getLsbD j = true ↔ a.getLsbD j = true ∨ ∃ f ∈ l, f.getLsbD j = true := by
  induction l generalizing a with
  | nil => simp
  | cons b l ih => rw [List.foldl_cons, ih, BitVec.getLsbD_or, Bool.or_eq_true, or_assoc, List.exists_mem_cons_iff]

/-- A flag is raised where one of those combined raises it. -/
theorem getLsbD_orFl (l : List Fl) (j : Nat) : (orFl l).getLsbD j = true ↔ ∃ f ∈ l, f.getLsbD j = true := by
  simp [orFl, getLsbD_foldl_or]

/-- The flags of an element-wise word are those of its active elements. -/
theorem getLsbD_elementFlags (m : BitVec 1024) (f : Nat → Fl) (j : Nat) :
    (orFl ((tab 1024 id).map fun e => if m.getLsbD e then f e else 0)).getLsbD j = true ↔
      ∃ e, e < 1024 ∧ m.getLsbD e = true ∧ (f e).getLsbD j = true := by
  simp only [getLsbD_orFl, tab_id, List.mem_map, List.mem_range, exists_exists_and_eq_and]
  refine exists_congr fun e => ?_
  cases m.getLsbD e <;> simp

/-! ## How a vector word ends -/

/-- The word as its meaning sees it: its charge is made where an element is active (R292). -/
def paid (x : Iss) (pd : Pd) (cls : Nat) : Iss := { x with core := charged x.core (vcls x pd cls) }

theorem paid_eq (x : Iss) (pd : Pd) (cls : Nat) :
    paid x pd cls = if x.core.mask pd = 0 then x else { x with core := x.core.charge cls 1 } := by
  unfold paid vcls
  split_ifs
  · simp only [Claims.charged, List.map_nil, List.append_nil]
  · rfl

section
variable {s : State} {x : Iss} {pd : Pd} {i : Instr} {cls lat : Nat}

theorem vecWord_eq {f : Iss → BitVec 1024 → Res} (h : s.issuer = some x) :
    vecWord pd (some cls) s f = .next (s.finish x (f (paid x pd cls) (x.core.mask pd))) := by
  rw [vecWord_of_issuer cls f h, paid_eq]

theorem leaves_of_vecWord {f : Iss → BitVec 1024 → Res} {c : Core} (h : s.issuer = some x)
    (hi : exec i s = vecWord pd (some cls) s f) (hf : f (paid x pd cls) (x.core.mask pd) = .done c) : Leaves i s x c := by
  rw [Leaves, hi, vecWord_eq h, hf]; rfl

theorem raises_of_vecWord {f : Iss → BitVec 1024 → Res} {e : Exc} (h : s.issuer = some x)
    (hi : exec i s = vecWord pd (some cls) s f) (hf : f (paid x pd cls) (x.core.mask pd) = .exc e) : Raises i s x e := by
  rw [Raises, hi, vecWord_eq h, hf]; rfl

/-- A word that schedules one effect leaves it due, and its charge. -/
theorem later_of_vecWord {f : Iss → BitVec 1024 → Res} {act : Act} {fl : Fl} (h : s.issuer = some x)
    (hi : exec i s = vecWord pd (some cls) s f)
    (hf : f (paid x pd cls) (x.core.mask pd) = .done ((paid x pd cls).core.sched (paid x pd cls) lat act fl)) :
    Later i s x (vcls x pd cls) [(lat, act, fl)] := leaves_of_vecWord h hi hf

/-! ## Words that work element by element (R140, R142) -/

theorem el_vmap (f : Nat → BitVec 32) {e : Nat} (he : e < 1024) : el (vmap f) e = f e := by
  rw [el, vmap, vget_gen, if_pos he]

/-- A word that schedules one vector, made element by element, writes it. -/
theorem writesV_of_meaning {f : Iss → BitVec 1024 → Res} {d : VRegN} {g : Nat → BitVec 32 × Fl} (h : s.issuer = some x)
    (hi : exec i s = vecWord pd (some cls) s f)
    (hf : f (paid x pd cls) (x.core.mask pd) = .done ((paid x pd cls).core.sched (paid x pd cls) lat
      (.wV d (vmap fun e => (g e).1) (x.core.mask pd))
      (orFl ((tab 1024 id).map fun e => if (x.core.mask pd).getLsbD e then (g e).2 else 0)))) :
    WritesV x.core i s x pd cls lat d g :=
  ⟨vmap fun e => (g e).1, orFl ((tab 1024 id).map fun e => if (x.core.mask pd).getLsbD e then (g e).2 else 0),
    later_of_vecWord h hi hf, fun _ he _ => el_vmap _ he, getLsbD_elementFlags (x.core.mask pd) fun e => (g e).2⟩

theorem writesV_of_elemOp {d : VRegN} {f : Core → Nat → BitVec 32 × Fl} {g : Nat → BitVec 32 × Fl} (h : s.issuer = some x)
    (hi : exec i s = elemOp pd d lat s f) (hg : f (paid x pd 0x02).core = g) : WritesV x.core i s x pd 0x02 lat d g := by
  subst hg
  exact writesV_of_meaning h hi rfl

/-- What a vector word writes is told by the values at the elements of a register. -/
theorem writesV_congr {k : Core} {d : VRegN} {g g' : Nat → BitVec 32 × Fl}
    (hw : WritesV k i s x pd cls lat d g) (hg : ∀ e, e < 1024 → g e = g' e) : WritesV k i s x pd cls lat d g' := by
  obtain ⟨v, fl, hl, hv, hfl⟩ := hw
  refine ⟨v, fl, hl, fun e he hm => hg e he ▸ hv e he hm, fun j => (hfl j).trans (exists_congr fun e => ?_)⟩
  exact and_congr_right fun he => by rw [hg e he]

end

/-! ## Words that write a predicate (R140, R149, R160) -/

/-- The number whose binary digits are `f 0` to `f (n - 1)`. -/
def digitSum (f : Nat → Bool) (n : Nat) : Nat := ((List.range n).map fun e => bit (f e) * 2 ^ e).sum

theorem digitSum_succ (f : Nat → Bool) (n : Nat) : digitSum f (n + 1) = 2 ^ n * bit (f n) + digitSum f n := by
  simp [digitSum, List.range_succ, Nat.mul_comm, Nat.add_comm]

theorem digitSum_lt (f : Nat → Bool) (n : Nat) : digitSum f n < 2 ^ n := by
  induction n with
  | zero => exact Nat.one_pos
  | succ n ih =>
    have hbit : 2 ^ n * bit (f n) ≤ 2 ^ n := by cases f n <;> simp [bit]
    rw [digitSum_succ, pow_succ]
    omega

theorem testBit_digitSum (f : Nat → Bool) {n e : Nat} (he : e < n) : (digitSum f n).testBit e = f e := by
  induction n with
  | zero => omega
  | succ n ih =>
    rw [digitSum_succ, Nat.testBit_two_pow_mul_add _ (digitSum_lt f n)]
    rcases Nat.lt_succ_iff_lt_or_eq.mp he with hlt | rfl
    · rw [if_pos hlt, ih hlt]
    · rw [if_neg (Nat.lt_irrefl _), Nat.sub_self]
      cases f e <;> rfl

theorem getLsbD_pmap (f : Nat → Bool) {e : Nat} (he : e < 1024) : (pmap f).getLsbD e = f e := by
  have hsum : ((tab 1024 fun e => bit (f e) * 2 ^ e)).sum = digitSum f 1024 := by rw [Laws.Network.tab_eq_map, digitSum]
  rw [pmap, hsum, BitVec.getLsbD_ofNat, decide_eq_true he, Bool.true_and, testBit_digitSum f he]

section
variable {s : State} {x : Iss} {pd : Pd} {i : Instr} {lat : Nat} {d : PReg} (h : s.issuer = some x)
include h

theorem writesP_of_predElemOp {f : Core → Nat → Bool × Fl} {b : Nat → Bool} {fl : Nat → Fl}
    (hi : exec i s = predElemOp pd d lat s f) (hf : f (paid x pd 0x02).core = fun e => (b e, fl e)) :
    WritesP i s x pd lat d b fl := by
  refine ⟨_, _, later_of_vecWord h hi rfl, fun e he => ?_, fun j => ?_⟩
  · rw [getLsbD_pmap _ he, hf]
  · rw [hf]
    exact getLsbD_elementFlags _ fl j

/-- A word that schedules one predicate, without flags, writes it. -/
theorem writesP_of_meaning {f : Iss → BitVec 1024 → Res} {v : BitVec 1024} {b : Nat → Bool}
    (hi : exec i s = vecWord pd (some 0x02) s f)
    (hf : f (paid x pd 0x02) (x.core.mask pd) = .done ((paid x pd 0x02).core.sched (paid x pd 0x02) lat (.wP d v)))
    (hv : ∀ e, e < 1024 → v.getLsbD e = ((x.core.mask pd).getLsbD e && b e)) : WritesP i s x pd lat d b fun _ => 0 :=
  ⟨v, 0, later_of_vecWord h hi hf, hv, fun j => by simp⟩

theorem writesP_of_predLogic (f : Core → BitVec 1024) {b : Nat → Bool} (hi : exec i s = predLogic pd d s f)
    (hb : ∀ e, e < 1024 → (f (paid x pd 0x02).core).getLsbD e = b e) : WritesP i s x pd 1 d b fun _ => 0 :=
  writesP_of_meaning h hi rfl fun e he => by rw [BitVec.getLsbD_and, hb e he]

end

/-! ## Words that act as a whole and write a scalar register (R158, R159) -/

theorem later_of_vecScalar {s : State} {x : Iss} {pd : Pd} {i : Instr} {lat : Nat} {d : VRegN} (h : s.issuer = some x)
    (hp : x.core.on pd = true) {f : Core → BitVec 1024 → BitVec 64} (hi : exec i s = vecScalar pd d lat s f) {v : BitVec 64}
    (hv : f (x.core.charge 0x02 1) (x.core.mask pd) = v) :
    Later i s x [0x02] [(lat, .wS (d.zeroExtend 6) v, 0)] := by
  rw [Later, Leaves, hi, vecScalar, coreWord_of_active _ _ h hp, ← hv]; rfl

end Sys2Proof.Proofs.VectorSlot
end

section
/-!
Integer arithmetic of the vector slots, and predicates (R148, R149, R159, R160).
-/

namespace Sys2Proof.Proofs.VectorSlot

open Sys2Proof Sys2Proof.Machine Sys2Proof.Claims
open Sys2Proof.Proofs.ExecutionModel (tab_id)
open Sys2Proof.Proofs.ScalarSlot (sum_bit_eq_countP holds_iff_meets)

/-! ## INT32 results (R148) -/

section
variable (p q : BitVec 32)

theorem toInt_lesser : (if p.slt q then p else q).toInt = min p.toInt q.toInt := by
  simp only [BitVec.slt_iff_toInt_lt]
  split <;> omega

theorem toInt_greater : (if p.slt q then q else p).toInt = max p.toInt q.toInt := by
  simp only [BitVec.slt_iff_toInt_lt]
  split <;> omega

theorem toNat_lesser : (if p.ult q then p else q).toNat = min p.toNat q.toNat := by
  simp only [BitVec.ult_iff_toNat_lt]
  split <;> omega

theorem toNat_greater : (if p.ult q then q else p).toNat = max p.toNat q.toNat := by
  simp only [BitVec.ult_iff_toNat_lt]
  split <;> omega

theorem toNat_sub_wrapped : (p - q).toNat = (p.toNat + (2 ^ 32 - q.toNat)) % 2 ^ 32 := by
  rw [BitVec.toNat_sub, Nat.add_comm]

theorem toNat_shiftedLeft (k : Nat) : (p <<< k).toNat = p.toNat * 2 ^ k % 2 ^ 32 := by
  rw [BitVec.toNat_shiftLeft, Nat.shiftLeft_eq]

theorem toNat_shiftedRight (k : Nat) : (p >>> k).toNat = p.toNat / 2 ^ k := by
  rw [BitVec.toNat_ushiftRight, Nat.shiftRight_eq_div_pow]

theorem toInt_shiftedRight (k : Nat) : (p.sshiftRight k).toInt = p.toInt.fdiv (2 ^ k) := by
  rw [BitVec.toInt_sshiftRight, Int.shiftRight_eq_div_pow, Int.fdiv_eq_ediv_of_nonneg _ (by positivity)]
  norm_cast

end

/-- A word of R148 writes the one function of its operands' elements that its meaning names. -/
theorem writesV_of_intOp {s : State} {x : Iss} {pd : Pd} {i : Instr} {d a b : VRegN} (f : BitVec 32 → BitVec 32 → BitVec 32)
    (h : s.issuer = some x) (hi : exec i s = intOp pd d a b s f) :
    WritesV x.core i s x pd 0x02 2 d fun e => (f (el (x.core.rv a) e) (el (x.core.rv b) e), 0) :=
  writesV_of_elemOp h hi rfl

theorem vectorIntegerArithmetic : VectorIntegerArithmetic := by
  intro s x pd d a b h Does
  refine ⟨⟨_, ?_, writesV_of_intOp (· + ·) h rfl⟩,
    ⟨_, ?_, writesV_of_intOp (· - ·) h rfl⟩,
    ⟨_, ?_, writesV_of_intOp (· * ·) h rfl⟩,
    ⟨fun p q => if p.slt q then p else q, ?_, writesV_of_intOp (fun p q => if p.slt q then p else q) h rfl⟩,
    ⟨fun p q => if p.slt q then q else p, ?_, writesV_of_intOp (fun p q => if p.slt q then q else p) h rfl⟩,
    ⟨fun p q => if p.ult q then p else q, ?_, writesV_of_intOp (fun p q => if p.ult q then p else q) h rfl⟩,
    ⟨fun p q => if p.ult q then q else p, ?_, writesV_of_intOp (fun p q => if p.ult q then q else p) h rfl⟩,
    ⟨_, ?_, writesV_of_intOp (· &&& ·) h rfl⟩,
    ⟨_, ?_, writesV_of_intOp (· ||| ·) h rfl⟩,
    ⟨_, ?_, writesV_of_intOp (· ^^^ ·) h rfl⟩,
    ⟨fun p q => p <<< (q.toNat % 32), ?_, writesV_of_intOp (fun p q => p <<< (q.toNat % 32)) h rfl⟩,
    ⟨fun p q => p >>> (q.toNat % 32), ?_, writesV_of_intOp (fun p q => p >>> (q.toNat % 32)) h rfl⟩,
    ⟨fun p q => p.sshiftRight (q.toNat % 32), ?_, writesV_of_intOp (fun p q => p.sshiftRight (q.toNat % 32)) h rfl⟩⟩
  · exact BitVec.toNat_add
  · exact toNat_sub_wrapped
  · exact BitVec.toNat_mul
  · exact toInt_lesser
  · exact toInt_greater
  · exact toNat_lesser
  · exact toNat_greater
  · exact fun _ _ _ _ => BitVec.getLsbD_and
  · exact fun _ _ _ _ => BitVec.getLsbD_or
  · exact fun _ _ _ _ => BitVec.getLsbD_xor
  · exact fun p q => toNat_shiftedLeft p _
  · exact fun p q => toNat_shiftedRight p _
  · exact fun p q => toInt_shiftedRight p _

/-! ## Counts (R159) -/

theorem popcount_eq_countP (m : BitVec 1024) : popcount m = (List.range 1024).countP fun e => m.getLsbD e := by
  rw [popcount, Laws.Network.tab_eq_map, sum_bit_eq_countP]

/-- One step of `keepFirst`: a set bit is kept while fewer than `n` are. -/
def keepStep (n : Nat) (m : BitVec 1024) (acc : Nat × Nat) (e : Nat) : Nat × Nat :=
  if m.getLsbD e && decide (acc.2 < n) then (acc.1 + 2 ^ e, acc.2 + 1) else acc

/-- Bit `e` is among the first `n` set bits. -/
def amongFirst (n : Nat) (m : BitVec 1024) (e : Nat) : Bool :=
  m.getLsbD e && decide ((List.range e).countP (fun j => m.getLsbD j) < n)

/-- The first `k` steps keep the bits below `k` that are among the first `n`, and count them. -/
theorem foldl_keepStep (n : Nat) (m : BitVec 1024) (k : Nat) : (List.range k).foldl (keepStep n m) (0, 0) =
    (digitSum (amongFirst n m) k, min n ((List.range k).countP fun j => m.getLsbD j)) := by
  induction k with
  | zero => simp [digitSum]
  | succ k ih =>
    rw [List.range_succ, List.foldl_append, ih, List.countP_append, List.foldl_cons, List.foldl_nil, digitSum_succ,
      List.countP_singleton, keepStep, amongFirst]
    obtain ⟨c, hc⟩ : ∃ c, c = (List.range k).countP fun j => m.getLsbD j := ⟨_, rfl⟩
    rw [← hc]
    cases m.getLsbD k with
    | false => simp [bit]
    | true =>
      by_cases hn : c < n
      · simp [hn, bit, Nat.add_comm]
        omega
      · simp [hn, bit]
        omega

theorem getLsbD_keepFirst (n : Nat) (m : BitVec 1024) {e : Nat} (he : e < 1024) :
    (keepFirst n m).getLsbD e = amongFirst n m e := by
  have hfold : ((tab 1024 id).foldl (keepStep n m) (0, 0)).1 = digitSum (amongFirst n m) 1024 := by
    rw [tab_id, foldl_keepStep]
  have hkeep : keepFirst n m = BitVec.ofNat 1024 ((tab 1024 id).foldl (keepStep n m) (0, 0)).1 := rfl
  rw [hkeep, hfold, BitVec.getLsbD_ofNat, decide_eq_true he, Bool.true_and, testBit_digitSum _ he]

/-! ## Predicates (R149, R160) -/

section
variable {s : State} {x : Iss} {pd : Pd} (h : s.issuer = some x)
include h

/-- `pcnt` keeps the first of the bits that its predicate and its operand share. -/
theorem pcnt_writes (p q : PReg) (t : SReg) (imm : BitVec 16) : WritesP (.pcnt pd p q t imm) s x pd 2 p
    (fun e => (x.core.rp q).getLsbD e && decide ((List.range e).countP
      (fun j => (x.core.mask pd).getLsbD j && (x.core.rp q).getLsbD j) < (x.core.rs t + imm.signExtend 64).toNat))
    fun _ => 0 := by
  have hi : exec (.pcnt pd p q t imm) s = vecWord pd (some 0x02) s fun x m =>
      .done (x.core.sched x 2 (.wP p (keepFirst (x.core.rs t + sext16 imm).toNat (m &&& x.core.rp q)))) := rfl
  refine writesP_of_meaning h hi rfl fun e he => ?_
  rw [getLsbD_keepFirst _ _ he, amongFirst, BitVec.getLsbD_and, Bool.and_assoc]
  simp only [BitVec.getLsbD_and]
  rfl

theorem ppop_writes (d : VRegN) (q : PReg) (hp : x.core.on pd = true) :
    ∃ v, Later (.ppop pd d q) s x [0x02] [(2, .wS (d.zeroExtend 6) v, 0)] ∧
      v.toNat = (List.range 1024).countP fun e => (x.core.mask pd).getLsbD e && (x.core.rp q).getLsbD e := by
  have hi : exec (.ppop pd d q) s = vecScalar pd d 2 s fun c m => BitVec.ofNat 64 (popcount (m &&& c.rp q)) := rfl
  have hle : (List.range 1024).countP (fun e => (x.core.mask pd &&& x.core.rp q).getLsbD e) ≤ 1024 :=
    List.countP_le_length.trans_eq List.length_range
  refine ⟨BitVec.ofNat 64 (popcount (x.core.mask pd &&& x.core.rp q)), later_of_vecScalar h hp hi rfl, ?_⟩
  rw [popcount_eq_countP, BitVec.toNat_ofNat, Nat.mod_eq_of_lt (by omega)]
  simp only [BitVec.getLsbD_and]

end

theorem vectorPredicates : VectorPredicates := by
  intro s x pd d a b p q r cc t imm h P Q none
  have hsel : exec (.vsel pd d a b q) s = elemOp pd d 2 s fun c e =>
      (if (c.rp q).getLsbD e then el (c.rv a) e else el (c.rv b) e, 0) := rfl
  have hcmp : exec (.vicmp pd cc p a b) s = predElemOp pd p 2 s fun c e =>
      (cc.holds (el (c.rv a) e) (el (c.rv b) e), 0) := rfl
  refine ⟨⟨fun e => cc.holds (el (x.core.rv a) e) (el (x.core.rv b) e), fun e => holds_iff_meets .., ?_⟩,
    writesV_of_elemOp h hsel rfl, ?_, ?_, ?_, ?_, ?_, ⟨_, fun e _ => ?_, pcnt_writes h p q t imm⟩, ppop_writes h d q⟩
  · exact writesP_of_predElemOp h hcmp rfl
  · exact writesP_of_predLogic h (fun c => c.rp q &&& c.rp r) rfl fun e _ => BitVec.getLsbD_and
  · exact writesP_of_predLogic h (fun c => c.rp q ||| c.rp r) rfl fun e _ => BitVec.getLsbD_or
  · exact writesP_of_predLogic h (fun c => c.rp q ^^^ c.rp r) rfl fun e _ => BitVec.getLsbD_xor
  · refine writesP_of_predLogic h (fun c => c.rp q &&& ~~~ (c.rp r)) rfl fun e he => ?_
    have hnot : (~~~ Q).getLsbD e = !Q.getLsbD e := by rw [BitVec.getLsbD_not, decide_eq_true he, Bool.true_and]
    exact BitVec.getLsbD_and.trans (congrArg _ hnot)
  · refine writesP_of_predLogic h (fun c => ~~~ (c.rp q)) rfl fun e he => ?_
    exact BitVec.getLsbD_not.trans (by rw [decide_eq_true he, Bool.true_and]; rfl)
  · rw [Bool.and_eq_true, decide_eq_true_eq]

/-- Settles O15: the INT32 words element by element, and what each predicate word makes of its operands' bits. -/
theorem vectorIntegers : Obligations.VectorIntegers := ⟨vectorIntegerArithmetic, vectorPredicates⟩

end Sys2Proof.Proofs.VectorSlot
end

section
/-!
What rounding to a float format determines (R41, R51 to R53), the order of codes, and the exact FP32 sum of a reduction, which
does not depend on the order of its terms (R59, R157).
-/

namespace Sys2Proof.Proofs.VectorSlot

open Sys2Proof Sys2Proof.Machine Sys2Proof.Claims
open Sys2Proof.Proofs.NumberFormats

/-! ## The order of codes (R41, R42) -/

/-- The next code has the greater value: the fraction grows, or the exponent does and the fraction starts anew. -/
theorem codeVal_lt_succ (f : FF) {c : Nat} (hc : c + 1 < 2 ^ (f.eb + f.mb)) : codeVal f c < codeVal f (c + 1) := by
  have hm : 0 < 2 ^ f.mb := by positivity
  obtain ⟨E, hE⟩ : ∃ E, E = c / 2 ^ f.mb := ⟨_, rfl⟩
  obtain ⟨M, hM⟩ : ∃ M, M = c % 2 ^ f.mb := ⟨_, rfl⟩
  have hMlt : M < 2 ^ f.mb := hM ▸ Nat.mod_lt _ hm
  have hsplit : c = E * 2 ^ f.mb + M := by rw [hE, hM, Nat.div_add_mod']
  have hEb : E * 2 ^ f.mb + M + 1 < 2 ^ f.eb * 2 ^ f.mb := by rw [← hsplit, ← pow_add]; exact hc
  have hElt : E < 2 ^ f.eb := by
    by_contra h
    have := Nat.mul_le_mul_right (2 ^ f.mb) (Nat.not_lt.1 h)
    omega
  obtain ⟨-, -, -, -, -, hemin⟩ := format_bounds f
  rw [hsplit, codeVal_fields f hElt hMlt, Nat.add_assoc]
  rcases Nat.lt_or_ge (M + 1) (2 ^ f.mb) with hlt | hge
  · rw [codeVal_fields f hElt hlt]
    split_ifs
    · gcongr; exact Nat.lt_succ_self M
    · gcongr; exact Nat.lt_succ_self M
  · have hnext : E * 2 ^ f.mb + (M + 1) = (E + 1) * 2 ^ f.mb + 0 := by rw [Nat.succ_mul]; omega
    have hE1 : E + 1 < 2 ^ f.eb := by
      by_contra h
      have := Nat.mul_le_mul_right (2 ^ f.mb) (Nat.not_lt.1 h)
      omega
    have hMq : (M : ℚ) < 2 ^ f.mb := by exact_mod_cast hMlt
    rw [hnext, codeVal_fields f hE1 hm, if_neg (Nat.succ_ne_zero E)]
    split_ifs with h0
    · subst h0
      rw [hemin, Nat.cast_zero, add_zero, show ((0 + 1 : Nat) : Int) - f.bias - f.mb = 1 - f.bias - f.mb by push_cast; ring]
      gcongr
    · rw [show ((E + 1 : Nat) : Int) - f.bias - f.mb = ((E : Int) - f.bias - f.mb) + 1 by push_cast; ring,
        zpow_add_one₀ two_ne_zero, Nat.cast_zero, add_zero, mul_comm _ (2 : ℚ), ← mul_assoc]
      gcongr
      linarith

theorem codeVal_lt (f : FF) {c c' : Nat} (h : c < c') (hc : c' < 2 ^ (f.eb + f.mb)) : codeVal f c < codeVal f c' := by
  induction c', h using Nat.le_induction with
  | base => exact codeVal_lt_succ f hc
  | succ n _ ih => exact (ih (by omega)).trans (codeVal_lt_succ f hc)

/-- Without their signs, codes stand in the order of their values. -/
theorem codeVal_lt_iff (f : FF) {c c' : Nat} (hc : c < 2 ^ (f.eb + f.mb)) (hc' : c' < 2 ^ (f.eb + f.mb)) :
    codeVal f c < codeVal f c' ↔ c < c' := by
  refine ⟨fun h => ?_, fun h => codeVal_lt f h hc'⟩
  by_contra hn
  rcases (Nat.not_lt.1 hn).lt_or_eq with hlt | rfl
  · exact absurd h (codeVal_lt f hlt hc).not_gt
  · exact absurd h (lt_irrefl _)

theorem codeVal_inj (f : FF) {c c' : Nat} (hc : c < 2 ^ (f.eb + f.mb)) (hc' : c' < 2 ^ (f.eb + f.mb))
    (h : codeVal f c = codeVal f c') : c = c' :=
  le_antisymm (Nat.not_lt.1 (mt (codeVal_lt_iff f hc' hc).2 h.not_gt)) (Nat.not_lt.1 (mt (codeVal_lt_iff f hc hc').2 h.not_lt))

/-! ## Rounding determines its result -/

theorem roundInt_le {mode : RMode} {n : Bool} {q : ℚ} {k k' : Nat} (h : RoundInt mode n q k) (h' : RoundInt mode n q k') :
    k' ≤ k := by
  by_contra hlt
  have hk : (k : ℚ) + 1 ≤ k' := by exact_mod_cast Nat.succ_le_of_lt (Nat.not_le.1 hlt)
  cases mode with
  | rne =>
    have hsum : (k' : ℚ) - k ≤ |q - k| + |q - k'| := by
      have h1 := le_abs_self (q - k)
      have h2 := neg_abs_le (q - k')
      linarith
    rcases h with h | ⟨h, he⟩
    · rcases h' with h' | ⟨h', -⟩ <;> linarith
    · rcases h' with h' | ⟨h', he'⟩
      · linarith
      · have hnext : (k' : ℚ) ≤ (k + 1 : Nat) := by push_cast; linarith
        have : k' ≤ k + 1 := by exact_mod_cast hnext
        omega
  | rna | rtz =>
    obtain ⟨-, h2⟩ := h
    obtain ⟨h1, -⟩ := h'
    linarith
  | rup | rdn =>
    cases n <;> (obtain ⟨h1, h2⟩ := h; obtain ⟨h3, h4⟩ := h'; linarith)

theorem roundInt_unique {mode : RMode} {n : Bool} {q : ℚ} {k k' : Nat} (h : RoundInt mode n q k) (h' : RoundInt mode n q k') :
    k = k' := le_antisymm (roundInt_le h' h) (roundInt_le h h')

/-- The exponent at which a value is rounded is that of its binade, or the least of the format. -/
theorem binade_le {v : ℚ} {m e e' : Int} (hm : m ≤ e) (hlt : v < 2 ^ (e + 1)) (h' : e' = m ∨ 2 ^ e' ≤ v) : e' ≤ e := by
  rcases h' with rfl | h'
  · exact hm
  · have := (zpow_lt_zpow_iff_right₀ (one_lt_two (α := ℚ))).1 (h'.trans_lt hlt)
    omega

/-- R52, R53: a value and its sign have one code and one set of flags in a format, mode and saturation. -/
theorem roundsTo_unique {f : FF} {mode : RMode} {sat n : Bool} {q : ℚ} {r r' : Nat × Fl} (h : RoundsTo f mode sat q n r)
    (h' : RoundsTo f mode sat q n r') : r = r' := by
  obtain ⟨hz, hn⟩ := h
  obtain ⟨hz', hn'⟩ := h'
  by_cases hq : q = 0
  · rw [hz hq, hz' hq]
  obtain ⟨e, k, h1, h2, h3, hk, hbig, hfit⟩ := hn hq
  obtain ⟨e', k', h1', h2', h3', hk', hbig', hfit'⟩ := hn' hq
  obtain rfl : e = e' := le_antisymm (binade_le h1' h2' h3) (binade_le h1 h2 h3')
  obtain rfl := roundInt_unique hk hk'
  rcases lt_or_ge (codeVal f (f.maxCode false)) ((k : ℚ) * 2 ^ (e - f.mb)) with hy | hy
  · rw [hbig hy, hbig' hy]
  · obtain ⟨⟨c, hc, hr, hv⟩, hfl⟩ := hfit hy
    obtain ⟨⟨c', hc', hr', hv'⟩, hfl'⟩ := hfit' hy
    obtain rfl := codeVal_inj f (lt_of_le_maxCode hc).2 (lt_of_le_maxCode hc').2 (hv.trans hv'.symm)
    exact Prod.ext (hr.trans hr'.symm) (hfl.trans hfl'.symm)

theorem rounded_unique {q : ℚ} {n : Bool} {r r' : BitVec 32 × Fl} (h : Rounded q n r) (h' : Rounded q n r') : r = r' := by
  obtain ⟨hcode, hflags⟩ := Prod.mk.inj (roundsTo_unique h h')
  exact Prod.ext (BitVec.eq_of_toNat_eq hcode) hflags

/-! ## The flags of operands (R142) -/

theorem orFl_cons (f : Fl) (l : List Fl) : orFl (f :: l) = f ||| orFl l := by
  refine BitVec.eq_of_getLsbD_eq fun j _ => ?_
  rw [Bool.eq_iff_iff, BitVec.getLsbD_or, Bool.or_eq_true, getLsbD_orFl, getLsbD_orFl, List.exists_mem_cons_iff]

theorem readFl_cons (b : BitVec 32) (l : List (BitVec 32)) : readFl (b :: l) = readFl [b] ||| readFl l := by
  rw [readFl, readFl, readFl, List.map_cons, orFl_cons, List.map_singleton, orFl_cons]
  exact congrArg (· ||| _) (BitVec.or_zero ..).symm

theorem getLsbD_readFl (l : List (BitVec 32)) (j : Nat) :
    (readFl l).getLsbD j = true ↔ ∃ b ∈ l, (readFl [b]).getLsbD j = true := by
  simp only [readFl, getLsbD_orFl, List.map_singleton, List.mem_map, List.mem_singleton, exists_exists_and_eq_and,
    exists_eq_left]

theorem readFl_perm {l l' : List (BitVec 32)} (h : l.Perm l') : readFl l = readFl l' := by
  refine BitVec.eq_of_getLsbD_eq fun j _ => ?_
  rw [Bool.eq_iff_iff, getLsbD_readFl, getLsbD_readFl]
  simp only [h.mem_iff]

/-- Every code is finite, infinite or NaN. -/
theorem fin_or_inf_or_nan (b : BitVec 32) : IsFin b ∨ IsInf b ∨ IsNan b := by
  by_cases h : b.extractLsb' 23 8 = 0xFF
  · by_cases h' : b.extractLsb' 0 23 = 0
    · exact .inr (.inl ⟨h, h'⟩)
    · exact .inr (.inr ⟨h, h'⟩)
  · exact .inl h

/-! ## Exact sums (R59, R157) -/

/-- What a sum of terms that are no NaN comes to where an infinity of one sign, and none of the other, is among them. -/
theorem foldl_add_inf {n : Bool} {l : List Machine.Num} (hl : ∀ y ∈ l, y.isNan = false ∧ y ≠ .inf (!n)) {x : Machine.Num}
    (hx : x.isNan = false ∧ x ≠ .inf (!n)) (h : x = .inf n ∨ .inf n ∈ l) :
    l.foldl (fun a b => (Machine.Num.add a b).1) x = .inf n := by
  induction l generalizing x with
  | nil => exact h.resolve_right (by simp)
  | cons y l ih =>
    obtain ⟨⟨hyn, hyi⟩, hl⟩ := List.forall_mem_cons.1 hl
    obtain ⟨hxn, hxi⟩ := hx
    rw [List.foldl_cons]
    have hsum : ((x.add y).1.isNan = false ∧ (x.add y).1 ≠ .inf (!n)) ∧ (x = .inf n ∨ y = .inf n → (x.add y).1 = .inf n) := by
      cases x with
      | nan => cases hxn
      | inf a =>
        obtain rfl : a = n := by cases a <;> cases n <;> simp_all
        cases y with
        | nan => cases hyn
        | inf b =>
          obtain rfl : b = a := by cases a <;> cases b <;> simp_all
          simp [Machine.Num.add, Num.isNan]
        | fin => simp [Machine.Num.add, Num.isNan]
      | fin m num den exp =>
        cases y with
        | nan => cases hyn
        | inf b =>
          obtain rfl : b = n := by cases n <;> cases b <;> simp_all
          simp [Machine.Num.add, Num.isNan]
        | fin m' num' den' exp' =>
          simp only [Machine.Num.add]
          split <;> simp [Num.isNan]
    refine ih hl hsum.1 ?_
    rcases h with h | h
    · exact .inl (hsum.2 (.inl h))
    · rcases List.mem_cons.1 h with h | h
      · exact .inl (hsum.2 (.inr h.symm))
      · exact .inr h

/-- A sum that is NaN whatever its other terms are: one of them is NaN, or both infinities are among them (R59). -/
def Undefined (l : List (BitVec 32)) : Bool := (l.map f32).any Num.isNan || Num.opposed (l.map f32)

theorem fsumAll_undefined {l : List (BitVec 32)} (h : Undefined l = true) : fsumAll l =
    if Num.opposed (l.map f32) then (canon32, IV ||| NFP ||| readFl l) else withFl (readFl l) (round32 .nan) := by
  have hne : l.isEmpty = false := by
    cases l with
    | nil => cases h
    | cons _ _ => rfl
  have hsum : Num.sum (l.map f32) = (.nan, flagIf (Num.opposed (l.map f32)) IV) := by
    unfold Num.sum
    rw [← Undefined, if_pos h]
  rw [fsumAll, hne, hsum]
  cases Num.opposed (l.map f32) <;> rfl

theorem fsumAll_infinite {l : List (BitVec 32)} (h : Undefined l = false) {n : Bool} (hn : .inf n ∈ l.map f32) :
    fsumAll l = withFl (readFl l) (round32 (.inf n)) := by
  obtain ⟨hnan, hopp⟩ := Bool.or_eq_false_iff.1 h
  have hterm : ∀ y ∈ l.map f32, y.isNan = false ∧ y ≠ .inf (!n) := by
    refine fun y hy => ⟨by simpa using List.any_eq_false.1 hnan y hy, ?_⟩
    rintro rfl
    have hboth : Num.opposed (l.map f32) = true := by
      rw [Num.opposed, Bool.and_eq_true, List.contains_iff_mem, List.contains_iff_mem]
      cases n with
      | false => exact ⟨hn, hy⟩
      | true => exact ⟨hy, hn⟩
    exact Bool.noConfusion (hopp.symm.trans hboth)
  obtain ⟨b, l, rfl⟩ : ∃ b t, l = b :: t := by
    cases l with
    | nil => cases hn
    | cons b t => exact ⟨b, t, rfl⟩
  obtain ⟨hb, hl⟩ := List.forall_mem_cons.1 hterm
  have hsum : Num.sum ((b :: l).map f32) = (.inf n, 0) := by
    unfold Num.sum
    rw [if_neg (by rw [← Undefined, h]; decide)]
    exact Prod.ext (foldl_add_inf hl hb ((List.mem_cons.1 hn).imp Eq.symm id)) rfl
  rw [fsumAll, hsum]
  rfl

/-- Where no term is NaN or infinite all are finite. -/
theorem isFin_of_no_inf {l : List (BitVec 32)} (h : Undefined l = false) (hi : ∀ n, .inf n ∉ l.map f32) :
    ∀ b ∈ l, IsFin b := by
  intro b hb
  obtain ⟨hnan, -⟩ := Bool.or_eq_false_iff.1 h
  have hmem := List.mem_map_of_mem (f := f32) hb
  rcases fin_or_inf_or_nan b with hf | hf | hf
  · exact hf
  · exact absurd (f32_inf hf ▸ hmem) (hi _)
  · exact absurd (List.any_eq_false.1 hnan _ hmem) (by rw [f32_nan hf]; decide)

section
variable {l l' : List (BitVec 32)} (h : l.Perm l')
include h

theorem opposed_perm : Num.opposed (l.map f32) = Num.opposed (l'.map f32) := by
  simp only [Num.opposed, List.contains_eq_mem, (h.map f32).mem_iff]

theorem undefined_perm : Undefined l = Undefined l' := by
  rw [Undefined, Undefined, opposed_perm h, (h.map f32).any_eq]

end

/-- Settles O19: the special cases ask only which terms are there, and finite terms have one exact sum, which is rounded
once. -/
theorem sumOrderFree : Obligations.SumOrderFree := by
  unfold Obligations.SumOrderFree
  intro l l' h
  cases hu : Undefined l with
  | true => rw [fsumAll_undefined hu, fsumAll_undefined ((undefined_perm h).symm.trans hu), opposed_perm h, readFl_perm h]
  | false =>
    have hu' := (undefined_perm h).symm.trans hu
    by_cases hi : ∃ n, .inf n ∈ l.map f32
    · obtain ⟨n, hn⟩ := hi
      rw [fsumAll_infinite hu hn, fsumAll_infinite hu' ((h.map f32).mem_iff.1 hn), readFl_perm h]
    · have hfin := isFin_of_no_inf hu (not_exists.1 hi)
      rcases l.eq_nil_or_concat with rfl | ⟨_, _, hne⟩
      · rw [h.nil_eq]
      · have hne : l ≠ [] := by rw [hne]; simp
        have hsum := sumRounding l hne hfin
        have hsum' := sumRounding l' (fun h0 => hne (h0 ▸ h).eq_nil) fun b hb => hfin b (h.mem_iff.2 hb)
        rw [← (h.map fval).sum_eq, ← h.all_eq] at hsum'
        exact rounded_unique hsum hsum'

end Sys2Proof.Proofs.VectorSlot
end

section
/-!
Rearrangement and reductions (R156 to R158).
-/

namespace Sys2Proof.Proofs.VectorSlot

open Sys2Proof Sys2Proof.Machine Sys2Proof.Claims
open Sys2Proof.Proofs.ExecutionModel (tab_id)

/-! ## Rearrangement (R156, R158) -/

section
variable {s : State} {x : Iss} {pd : Pd} {i : Instr} {d a : VRegN} {lat : Nat} (h : s.issuer = some x)
include h

/-- What an element-wise word writes is told by the values at the elements of a register. -/
theorem writesV_of_elements {f : Core → Nat → BitVec 32 × Fl} {g : Nat → BitVec 32 × Fl} (hi : exec i s = elemOp pd d lat s f)
    (hg : ∀ e, e < 1024 → f (paid x pd 0x02).core e = g e) : WritesV x.core i s x pd 0x02 lat d g :=
  writesV_congr (writesV_of_elemOp h hi rfl) hg

theorem writesV_of_rearrange {src : Core → Nat → Nat} {g : Nat → BitVec 32 × Fl} (hi : exec i s = rearrange pd d a lat s src)
    (hg : ∀ e, (el (x.core.rv a) (src (paid x pd 0x02).core e), 0) = g e) : WritesV x.core i s x pd 0x02 lat d g :=
  writesV_of_elements h (f := fun c e => (el (c.rv a) (src c e), 0)) hi fun e _ => hg e

end

theorem extend_word (b : BitVec 32) : (extend 4 false b.toNat).toNat = b.toNat ∧ (extend 4 true b.toNat).toInt = b.toInt := by
  have hb := b.isLt
  have hmod : b.toNat % 2 ^ (8 * 4) = b.toNat := Nat.mod_eq_of_lt hb
  constructor
  · rw [extend, Bool.false_and, if_neg (by decide), BitVec.toNat_ofNat]
    omega
  · rw [extend, hmod, BitVec.toInt_eq_toNat_cond b]
    simp only [Bool.true_and, decide_eq_true_eq]
    split_ifs with h1 h2 h2
    · omega
    · rw [BitVec.toInt_ofInt]
      exact Int.bmod_eq_of_le (by omega) (by omega)
    · rw [BitVec.toInt_eq_toNat_cond, BitVec.toNat_ofNat]
      omega
    · omega

theorem rearrangement : Rearrangement := by
  intro s x pd d a t imm idx q sx h n A Does
  have hrotr : exec (.rotr pd d a t imm) s = rearrange pd d a 2 s fun c e =>
      e / 64 * 64 + (e % 64 + 64 - axisAmt c t imm 64) % 64 := rfl
  have hrotc : exec (.rotc pd d a t imm) s = rearrange pd d a 6 s fun c e =>
      (e / 64 + 16 - axisAmt c t imm 16) % 16 * 64 + e % 64 := rfl
  have hbcr : exec (.bcr pd d a t imm) s = rearrange pd d a 2 s fun c e => e / 64 * 64 + axisAmt c t imm 64 := rfl
  have hbcc : exec (.bcc pd d a t imm) s = rearrange pd d a 6 s fun c e => axisAmt c t imm 16 * 64 + e % 64 := rfl
  have hsplat : exec (.vsplat pd d t imm) s = elemOp pd d 2 s fun c _ => ((c.rs t + sext16 imm).truncate 32, 0) := rfl
  have hq : exec (.vsplatQ pd d q) s = elemOp pd d 2 s fun c e => (el (c.qimage q.toNat) e, 0) := rfl
  have hins : exec (.vins pd d a t idx) s = elemOp pd d 2 s fun c e =>
      (if e = idx.toNat then (c.rs t).truncate 32 else el (c.rv a) e, 0) := rfl
  have hext : exec (.vext pd sx d a t imm) s = vecScalar pd d 4 s fun c _ =>
      extend 4 sx (el (c.rv a) (axisAmt c t imm 1024)).toNat := rfl
  have hextQ : exec (.vextQ pd d q) s = vecScalar pd d 4 s fun c _ => c.qword q.toNat := rfl
  refine ⟨writesV_of_rearrange h hrotr fun _ => rfl, writesV_of_rearrange h hrotc fun _ => rfl,
    writesV_of_rearrange h hbcr fun _ => rfl, writesV_of_rearrange h hbcc fun _ => rfl,
    writesV_of_elements h hsplat fun e _ => ?_, writesV_of_elements h hq fun e he => ?_, writesV_of_elements h hins fun e _ => ?_,
    fun hp => ⟨⟨_, later_of_vecScalar h hp hext rfl, ?_, ?_⟩, ⟨_, later_of_vecScalar h hp hextQ rfl, ?_⟩⟩⟩
  · exact congrArg (·, 0) (BitVec.ofNat_toNat ..).symm
  · rw [el, Core.qimage, vget_gen, if_pos he]
    dsimp only
    rw [Nat.div_add_mod']
    rfl
  · dsimp only [A]
    rw [Nat.div_add_mod']
    rfl
  · rintro rfl
    exact (extend_word _).1
  · rintro rfl
    exact (extend_word _).2
  · have h0 := ((x.core.qhead q.toNat).getD 0 0).isLt
    have h1 := ((x.core.qhead q.toNat).getD 1 0).isLt
    show (BitVec.ofNat 64 (((x.core.qhead q.toNat).getD 0 0).toNat + 2 ^ 32 * ((x.core.qhead q.toNat).getD 1 0).toNat)).toNat = _
    rw [BitVec.toNat_ofNat, Nat.mod_eq_of_lt (by omega)]

/-! ## Reductions along an axis (R157) -/

/-- The terms of a reduction: the active elements among those listed. -/
def activeTerms (m : BitVec 1024) (v : VReg) (l : List Nat) : List (BitVec 32) :=
  (l.filter fun e => m.getLsbD e).map fun e => el v e

/-- A reduction of nothing raises nothing. -/
theorem reduce_nil_flags (op : RedOp) : (reduce op []).2 = 0 := by
  cases op <;> rfl

theorem activeTerms_ne_nil {m : BitVec 1024} {v : VReg} {l : List Nat} (h : activeTerms m v l ≠ []) :
    ∃ e ∈ l, m.getLsbD e = true := by
  obtain ⟨b, hb⟩ := List.exists_mem_of_ne_nil _ h
  obtain ⟨e, he, -⟩ := List.mem_map.1 hb
  exact ⟨e, List.mem_filter.1 he⟩

section
variable {s : State} {x : Iss} {pd : Pd} {i : Instr} {op : RedOp} {d a : VRegN} {lat axes : Nat} {elems : Nat → List Nat}
  {axisOf : Nat → Nat}

/-- A reduction writes to each element what the active elements of its axis give; `hax` and `helem` say that the axes part
the elements. -/
theorem writesV_of_reduceOp (h : s.issuer = some x) (hi : exec i s = reduceOp pd op d a lat axes elems axisOf s)
    (hax : ∀ e, e < 1024 → axisOf e < axes) (helem : ∀ k, k < axes → ∀ e ∈ elems k, e < 1024 ∧ axisOf e = k) :
    WritesV x.core i s x pd 0x02 lat d fun e =>
      reduce op (activeTerms (x.core.mask pd) (x.core.rv a) (elems (axisOf e))) := by
  obtain ⟨red, hred⟩ : ∃ red : Nat → BitVec 32 × Fl,
    red = fun k => reduce op (activeTerms (x.core.mask pd) (x.core.rv a) (elems k)) := ⟨_, rfl⟩
  have hlist : ∀ k, k < axes → (tab axes red).getD k (0, 0) = red k := fun k hk => by
    rw [List.getD_eq_getElem?_getD, getElem?_tab, if_pos hk, Option.getD_some]
  have hlater : Later i s x (vcls x pd 0x02) [(lat, .wV d (vmap fun e => ((tab axes red).getD (axisOf e) (0, 0)).1)
      (x.core.mask pd), orFl ((tab axes red).map (·.2)))] := by
    subst hred
    exact later_of_vecWord h hi rfl
  refine ⟨_, _, hlater, fun e he _ => ?_, fun j => ?_⟩
  · rw [el_vmap _ he, hlist _ (hax e he), hred]
  · simp only [getLsbD_orFl, Laws.Network.tab_eq_map, List.mem_map, List.mem_range, exists_exists_and_eq_and]
    constructor
    · rintro ⟨k, hk, hj⟩
      have hne : activeTerms (x.core.mask pd) (x.core.rv a) (elems k) ≠ [] := fun hnil => by
        simp [hred, hnil, reduce_nil_flags] at hj
      obtain ⟨e, hmem, hm⟩ := activeTerms_ne_nil hne
      obtain ⟨he, rfl⟩ := helem k hk e hmem
      exact ⟨e, he, hm, by rwa [hred] at hj⟩
    · rintro ⟨e, he, -, hj⟩
      exact ⟨axisOf e, hax e he, by rwa [hred]⟩

end

/-! ## The integer reductions (R157) -/

/-- The sum is that of the numbers, modulo 2^32. -/
theorem toNat_foldl_add (l : List (BitVec 32)) (a : BitVec 32) :
    (l.foldl (· + ·) a).toNat = (a.toNat + (l.map BitVec.toNat).sum) % 2 ^ 32 := by
  induction l generalizing a with
  | nil => simp [Nat.mod_eq_of_lt a.isLt]
  | cons b l ih => rw [List.foldl_cons, ih, BitVec.toNat_add, List.map_cons, List.sum_cons, Nat.mod_add_mod, Nat.add_assoc]

/-- An operation that takes the operand of greater rank finds a term of the greatest rank. -/
theorem foldl_greatest {op : BitVec 32 → BitVec 32 → BitVec 32} {rank : BitVec 32 → Int}
    (hsel : ∀ p q, op p q = p ∨ op p q = q) (hmax : ∀ p q, rank (op p q) = max (rank p) (rank q)) (a : BitVec 32)
    (l : List (BitVec 32)) : l.foldl op a ∈ a :: l ∧ ∀ b ∈ a :: l, rank b ≤ rank (l.foldl op a) := by
  induction l generalizing a with
  | nil => simp
  | cons c l ih =>
    obtain ⟨hmem, hle⟩ := ih (op a c)
    rw [List.foldl_cons]
    obtain ⟨hhead, htail⟩ := List.forall_mem_cons.1 hle
    rw [hmax, max_le_iff] at hhead
    refine ⟨?_, List.forall_mem_cons.2 ⟨hhead.1, List.forall_mem_cons.2 ⟨hhead.2, htail⟩⟩⟩
    rcases List.mem_cons.1 hmem with heq | hin
    · rw [heq]
      rcases hsel a c with hs | hs <;> rw [hs] <;> simp
    · exact List.mem_cons_of_mem _ (List.mem_cons_of_mem _ hin)

section
variable (k : Nat) (l : List (BitVec 32)) (a : BitVec 32)

theorem getLsbD_foldl_and : (l.foldl (· &&& ·) a).getLsbD k = (a :: l).all fun b => b.getLsbD k := by
  induction l generalizing a with
  | nil => simp
  | cons b l ih => rw [List.foldl_cons, ih, List.all_cons, BitVec.getLsbD_and, Bool.and_assoc]; rfl

theorem getLsbD_foldl_ior : (l.foldl (· ||| ·) a).getLsbD k = (a :: l).any fun b => b.getLsbD k := by
  induction l generalizing a with
  | nil => simp
  | cons b l ih => rw [List.foldl_cons, ih, List.any_cons, BitVec.getLsbD_or, Bool.or_assoc]; rfl

theorem getLsbD_foldl_xor : (l.foldl (· ^^^ ·) a).getLsbD k =
    decide (((a :: l).countP fun b => b.getLsbD k) % 2 = 1) := by
  induction l generalizing a with
  | nil => cases hk : a.getLsbD k <;> simp [hk]
  | cons b l ih =>
    rw [List.foldl_cons, ih]
    simp only [List.countP_cons, BitVec.getLsbD_xor]
    cases a.getLsbD k <;> cases b.getLsbD k <;> simp
    omega

end

theorem integerReductions (l : List (BitVec 32)) (hl : l ≠ []) :
    (reduce .isum l).1.toNat = (l.map BitVec.toNat).sum % 2 ^ 32 ∧
    ((reduce .imax l).1 ∈ l ∧ ∀ b ∈ l, b.toInt ≤ (reduce .imax l).1.toInt) ∧
    ((reduce .imin l).1 ∈ l ∧ ∀ b ∈ l, (reduce .imin l).1.toInt ≤ b.toInt) ∧
    ((reduce .umax l).1 ∈ l ∧ ∀ b ∈ l, b.toNat ≤ (reduce .umax l).1.toNat) ∧
    ((reduce .umin l).1 ∈ l ∧ ∀ b ∈ l, (reduce .umin l).1.toNat ≤ b.toNat) ∧
    (∀ k, k < 32 → (reduce .and' l).1.getLsbD k = l.all fun b => b.getLsbD k) ∧
    (∀ k, k < 32 → (reduce .or' l).1.getLsbD k = l.any fun b => b.getLsbD k) ∧
    (∀ k, k < 32 → (reduce .xor' l).1.getLsbD k = decide ((l.countP fun b => b.getLsbD k) % 2 = 1)) := by
  obtain ⟨a, t, rfl⟩ := List.exists_cons_of_ne_nil hl
  refine ⟨toNat_foldl_add t a, ?_, ?_, ?_, ?_, fun k _ => getLsbD_foldl_and k t a, fun k _ => getLsbD_foldl_ior k t a,
    fun k _ => getLsbD_foldl_xor k t a⟩
  · exact foldl_greatest (op := fun p q => if p.slt q then q else p) (rank := BitVec.toInt)
      (fun p q => (ite_eq_or_eq _ q p).symm) toInt_greater a t
  · have h := foldl_greatest (op := fun p q => if p.slt q then p else q) (rank := fun b => -b.toInt)
      (fun p q => ite_eq_or_eq _ p q) (fun p q => by rw [toInt_lesser, max_neg_neg]) a t
    exact ⟨h.1, fun b hb => neg_le_neg_iff.1 (h.2 b hb)⟩
  · have h := foldl_greatest (op := fun p q => if p.ult q then q else p) (rank := fun b => b.toNat)
      (fun p q => (ite_eq_or_eq _ q p).symm) (fun p q => by rw [toNat_greater, Nat.cast_max]) a t
    exact ⟨h.1, fun b hb => Int.ofNat_le.1 (h.2 b hb)⟩
  · have h := foldl_greatest (op := fun p q => if p.ult q then p else q) (rank := fun b => -(b.toNat : Int))
      (fun p q => ite_eq_or_eq _ p q) (fun p q => by rw [toNat_lesser, Nat.cast_min, max_neg_neg]) a t
    exact ⟨h.1, fun b hb => Int.ofNat_le.1 (neg_le_neg_iff.1 (h.2 b hb))⟩

theorem mem_tab {n e : Nat} {f : Nat → Nat} : e ∈ tab n f ↔ ∃ j < n, f j = e := by
  simp [Laws.Network.tab_eq_map]

theorem reductions : Reductions := by
  refine ⟨fun s x pd op d a h => ?_, integerReductions⟩
  have hrow := writesV_of_reduceOp (i := .redr pd op d a) h rfl (fun e he => by omega) fun k _ e he => by
    obtain ⟨j, hj, rfl⟩ := mem_tab.1 he
    omega
  have hcol := writesV_of_reduceOp (i := .redc pd op d a) h rfl (fun e he => by omega) fun k _ e he => by
    obtain ⟨j, hj, rfl⟩ := mem_tab.1 he
    omega
  constructor
  · refine writesV_congr hrow fun e _ => ?_
    rw [Laws.Network.tab_eq_map]
    rfl
  · refine writesV_congr hcol fun e _ => ?_
    rw [Laws.Network.tab_eq_map]
    rfl

/-- Settles O18: where the elements of each rearrangement come from, and what a reduction of an axis gives. -/
theorem rearrangeAndReduce : Obligations.RearrangeAndReduce := ⟨rearrangement, reductions⟩

end Sys2Proof.Proofs.VectorSlot
end

section
/-!
FP32 words of the vector slots (R142 to R146): operands that are NaN or infinite, the order of values, minima, sign operations,
compares and classes.
-/

namespace Sys2Proof.Proofs.VectorSlot

open Sys2Proof Sys2Proof.Machine Sys2Proof.Claims
open Sys2Proof.Proofs.NumberFormats

/-! ## Kinds of operand (R43, R142) -/

section
variable {b : BitVec 32}

theorem IsFin_not_nan (h : IsFin b) : ¬ IsNan b := fun hn => h hn.1

theorem IsFin_not_inf (h : IsFin b) : ¬ IsInf b := fun hi => h hi.1

theorem IsInf_not_nan (h : IsInf b) : ¬ IsNan b := fun hn => hn.2 h.2

theorem isNan_f32 (b : BitVec 32) : (f32 b).isNan = true ↔ IsNan b := by
  rcases fin_or_inf_or_nan b with h | h | h
  · simp [(f32_hasValue h).isNan, IsFin_not_nan h]
  · simp [f32_inf h, Num.isNan, IsInf_not_nan h]
  · simp [f32_nan h, Num.isNan, h]

theorem isNan_f32_false (h : ¬ IsNan b) : (f32 b).isNan = false := by
  rwa [← Bool.not_eq_true, isNan_f32]

theorem readFl_of_fin (h : IsFin b) : readFl [b] = 0 := readFl_eq_zero (by simpa using h)

theorem isSnan_iff (b : BitVec 32) : FF.isSnan .fp32 b.toNat = (FF.isNanCode .fp32 b.toNat && !b.getLsbD 22) := by
  have hbit : (b.toNat / 2 ^ 22 % 2 == 0) = !b.getLsbD 22 := by
    rw [BitVec.getLsbD, Nat.testBit_eq_decide_div_mod_eq, Bool.eq_iff_iff]
    simp only [beq_iff_eq, Bool.not_eq_true', decide_eq_false_iff_not]
    omega
  rw [← hbit]
  rfl

theorem readFl_of_nan (h : IsNan b) : readFl [b] = NFC ||| flagIf (!b.getLsbD 22) IV := by
  have hdec : FF.decode .fp32 b.toNat = .nan := f32_nan h
  rw [readFl, List.map_singleton, orFl_cons, FF.readFl, hdec, isSnan_iff, isNanCode_of_isNan h, Bool.true_and]
  exact BitVec.or_zero ..

/-- The flags that reading one operand can raise. -/
theorem readFl_cases (b : BitVec 32) : readFl [b] = 0 ∧ IsFin b ∨ readFl [b] = NFC ∧ (IsInf b ∨ IsNan b ∧ ¬ IsSnan b) ∨
    readFl [b] = NFC ||| IV ∧ IsSnan b := by
  rcases fin_or_inf_or_nan b with h | h | h
  · exact .inl ⟨readFl_of_fin h, h⟩
  · exact .inr (.inl ⟨readFl_inf h, .inl h⟩)
  · cases hq : b.getLsbD 22 with
    | true => exact .inr (.inl ⟨by rw [readFl_of_nan h, hq]; rfl, .inr ⟨h, fun hs => Bool.noConfusion (hq.symm.trans hs.2)⟩⟩)
    | false => exact .inr (.inr ⟨by rw [readFl_of_nan h, hq]; rfl, h, hq⟩)

theorem readFl_bits (b : BitVec 32) : ((readFl [b]).getLsbD 5 = true ↔ IsNan b ∨ IsInf b) ∧
    ((readFl [b]).getLsbD 0 = true ↔ IsSnan b) ∧ readFl [b] &&& ~~~ (NFC ||| IV) = 0 := by
  rcases readFl_cases b with ⟨hf, h⟩ | ⟨hf, h⟩ | ⟨hf, h⟩
  · have hs : ¬ IsSnan b := fun hs => IsFin_not_nan h hs.1
    rw [hf]
    exact ⟨by simp [IsFin_not_nan h, IsFin_not_inf h], by simp [hs], by decide⟩
  · have hs : ¬ IsSnan b := h.elim (fun hi hs => IsInf_not_nan hi hs.1) fun hn => hn.2
    rw [hf]
    exact ⟨iff_of_true (by decide) (h.symm.imp And.left id), iff_of_false (by decide) hs, by decide⟩
  · rw [hf]
    exact ⟨iff_of_true (by decide) (.inl h.1), iff_of_true (by decide) h, by decide⟩

end

theorem operandFlags : OperandFlags := by
  intro l
  refine ⟨?_, ?_, ?_⟩
  · rw [getLsbD_readFl]
    exact exists_congr fun b => and_congr_right fun _ => (readFl_bits b).1
  · rw [getLsbD_readFl]
    exact exists_congr fun b => and_congr_right fun _ => (readFl_bits b).2.1
  · induction l with
    | nil => rfl
    | cons b l ih => rw [readFl_cons, BitVec.and_or_distrib_right, (readFl_bits b).2.2, ih]; rfl

/-! ## Sums and products with operands that are not finite (R143) -/

theorem withFl_canon (fl : Fl) : withFl fl (canon32, 0) = (0x7FC00000, fl) := Prod.ext rfl BitVec.zero_or

theorem withFl_nfc (b : BitVec 32) : withFl NFC (b, NFP) = (b, NFC ||| NFP) :=
  Prod.ext rfl (BitVec.or_comm ..)

/-- An infinite result is the code of its sign, with NFP. -/
theorem round32_inf_code {p : BitVec 32} (h : IsInf p) : round32 (.inf (p.getLsbD 31)) = (p, NFP) := by
  refine Prod.ext (BitVec.eq_of_toNat_eq ?_) rfl
  rw [round32_inf, BitVec.toNat_ofNat, ← toNat_inf h, Nat.mod_eq_of_lt p.isLt]

theorem round32_inf_sign {n : Bool} {p : BitVec 32} (h : IsInf p) (hn : p.getLsbD 31 = n) : round32 (.inf n) = (p, NFP) :=
  hn ▸ round32_inf_code h

theorem inf_eq_iff {p q : BitVec 32} (hp : IsInf p) (hq : IsInf q) : p = q ↔ p.getLsbD 31 = q.getLsbD 31 := by
  refine ⟨fun h => h ▸ rfl, fun h => BitVec.eq_of_toNat_eq ?_⟩
  rw [toNat_inf hp, toNat_inf hq, h]

theorem isInf_flip {p : BitVec 32} (h : IsInf p) : IsInf (p ^^^ 0x80000000) ∧
    (p ^^^ 0x80000000).getLsbD 31 = !p.getLsbD 31 := by
  refine ⟨?_, by simp⟩
  rcases (show p = 0x7F800000 ∨ p = 0xFF800000 by
    have hp := toNat_inf h
    cases hs : p.getLsbD 31 with
    | false => exact .inl (BitVec.eq_of_toNat_eq (by rw [hp, hs]; rfl))
    | true => exact .inr (BitVec.eq_of_toNat_eq (by rw [hp, hs]; rfl))) with rfl | rfl <;> unfold IsInf <;> decide

section
variable {x y : Machine.Num}

theorem addExact_nan (h : x.isNan = true ∨ y.isNan = true) : addExact x y = (canon32, 0) := by
  rw [addExact, if_pos (by simpa using h)]

theorem addExact_exact (hx : x.isNan = false) (hy : y.isNan = false) (h : (x.add y).2 = 0) :
    addExact x y = round32 (x.add y).1 := by
  rw [addExact, hx, hy]
  simp [h]

theorem addExact_invalid (hx : x.isNan = false) (hy : y.isNan = false) (h : (x.add y).2 ≠ 0) :
    addExact x y = (canon32, IV ||| NFP) := by
  rw [addExact, hx, hy]
  exact (if_neg (by decide)).trans (if_pos h)

theorem isNan_neg (x : Machine.Num) : x.neg.isNan = x.isNan := by
  cases x <;> rfl

theorem mul_nan (h : x.isNan = true ∨ y.isNan = true) : Machine.Num.mul x y = (.nan, 0) := by
  cases x <;> cases y <;> simp_all [Num.isNan, Machine.Num.mul]

variable {neg : Bool} {c : Option Machine.Num}

theorem fmaExact_invalid (h : (Machine.Num.mul x y).2 ≠ 0) : fmaExact neg x y c = (canon32, IV ||| NFP) := by
  rw [fmaExact]
  exact if_pos h

theorem fmaExact_nan_product (h : x.isNan = true ∨ y.isNan = true) : fmaExact neg x y c = (canon32, 0) := by
  rw [fmaExact, mul_nan h]
  cases neg <;> rfl

theorem fmaExact_nan_addend {z : Machine.Num} (h : (Machine.Num.mul x y).2 = 0) (hz : z.isNan = true) :
    fmaExact neg x y (some z) = (canon32, 0) := by
  rw [fmaExact]
  simp [h, hz]

end

section
variable {p q : BitVec 32}

/-- A code of 0 in either sign stands for no magnitude. -/
theorem f32_zero (h : q.extractLsb' 0 31 = 0) : ∃ n e, f32 q = .fin n 0 1 e := by
  have hq : q = 0 ∨ q = 0x80000000 := by
    have hlow : q.toNat % 2 ^ 31 = 0 := by
      rwa [← BitVec.toNat_inj, BitVec.extractLsb'_toNat, Nat.shiftRight_zero] at h
    have := q.isLt
    rcases (show q.toNat = 0 ∨ q.toNat = 2 ^ 31 by omega) with h0 | h0
    · exact .inl (BitVec.eq_of_toNat_eq h0)
    · exact .inr (BitVec.eq_of_toNat_eq h0)
  rcases hq with rfl | rfl
  · exact ⟨false, _, rfl⟩
  · exact ⟨true, _, rfl⟩

/-- The value of a finite code as the model has it: a significand at an exponent, 0 only for the codes of zero. -/
theorem f32_form (h : IsFin q) : ∃ num e, f32 q = .fin (q.getLsbD 31) num 1 e ∧ (num = 0 ↔ q.extractLsb' 0 31 = 0) ∧
    num < 2 ^ 24 ∧ -149 ≤ e ∧ e ≤ 104 := by
  have hfin := (isFin_iff q).1 h
  have hcode := isNanCode_fin h
  have hE : (q.toNat / 2 ^ 23 % 2 ^ 8 == 255) = false := by simpa using hfin
  have hdec : f32 q = if q.toNat / 2 ^ 23 % 2 ^ 8 = 0 then .fin (q.getLsbD 31) (q.toNat % 2 ^ 23) 1 (-149)
      else .fin (q.getLsbD 31) (q.toNat % 2 ^ 23 + 2 ^ 23) 1 ((q.toNat / 2 ^ 23 % 2 ^ 8 : Nat) - 127 - 23) := by
    rw [← getLsbD_31, f32, FF.decode, if_neg (by rw [hcode]; decide)]
    show (if (true && (q.toNat / 2 ^ 23 % 2 ^ 8 == 255)) = true then _ else _) = _
    rw [hE]
    rfl
  have hz : q.extractLsb' 0 31 = 0 ↔ q.toNat % 2 ^ 31 = 0 := by
    rw [← BitVec.toNat_inj, BitVec.extractLsb'_toNat, Nat.shiftRight_zero]
    rfl
  rw [hdec, hz]
  by_cases h0 : q.toNat / 2 ^ 23 % 2 ^ 8 = 0
  · rw [if_pos h0]
    exact ⟨_, _, rfl, by omega, by omega, by omega, by omega⟩
  · rw [if_neg h0]
    exact ⟨_, _, rfl, by omega, by omega, by omega, by omega⟩

theorem f32_fin (h : IsFin q) : ∃ num e, f32 q = .fin (q.getLsbD 31) num 1 e ∧ (num = 0 ↔ q.extractLsb' 0 31 = 0) := by
  obtain ⟨num, e, hf, hz, -⟩ := f32_form h
  exact ⟨num, e, hf, hz⟩

theorem zero_isFin (h : q.extractLsb' 0 31 = 0) : IsFin q := by
  rw [isFin_iff]
  have hlow : q.toNat % 2 ^ 31 = 0 := by
    rwa [← BitVec.toNat_inj, BitVec.extractLsb'_toNat, Nat.shiftRight_zero] at h
  omega

/-- 0 × inf has no value (R59). -/
theorem mul_inf_zero (hp : IsInf p) (hq : q.extractLsb' 0 31 = 0) :
    (Machine.Num.mul (f32 p) (f32 q)).2 ≠ 0 ∧ (Machine.Num.mul (f32 q) (f32 p)).2 ≠ 0 := by
  obtain ⟨n, e, hf⟩ := f32_zero hq
  have hiv : IV ≠ 0 := by decide
  rw [f32_inf hp, hf]
  exact ⟨hiv, hiv⟩

/-- An infinity times anything but NaN and 0 is an infinity. -/
theorem mul_inf (hp : IsInf p) (hq : ¬ IsNan q) (h0 : q.extractLsb' 0 31 ≠ 0) :
    Machine.Num.mul (f32 p) (f32 q) = (.inf (p.getLsbD 31 != q.getLsbD 31), 0) := by
  rcases fin_or_inf_or_nan q with h | h | h
  · obtain ⟨num, e, hf, hnum⟩ := f32_fin h
    rw [f32_inf hp, hf, Machine.Num.mul, if_neg (mt hnum.1 h0)]
  · rw [f32_inf hp, f32_inf h, Machine.Num.mul]
  · exact absurd h hq

theorem readFl_pair (p q : BitVec 32) : readFl [p, q] = readFl [p] ||| readFl [q] := readFl_cons p [q]

theorem readFl_triple (p q c : BitVec 32) : readFl [p, q, c] = readFl [p] ||| (readFl [q] ||| readFl [c]) := by
  rw [readFl_cons, readFl_pair]

theorem readFl_swap (p q : BitVec 32) : readFl [p, q] = readFl [q, p] := readFl_perm (List.Perm.swap q p [])

/-- Reading raises NFC once an operand is infinite, and more only where one is a signalling NaN. -/
theorem invalid_flags (c : BitVec 32) : IV ||| NFP ||| (NFC ||| readFl [c]) = IV ||| NFP ||| NFC := by
  rcases readFl_cases c with ⟨hf, -⟩ | ⟨hf, -⟩ | ⟨hf, -⟩ <;> rw [hf] <;> decide

theorem nan_operand (h : IsNan p ∨ IsNan q) : fadd32 p q = (0x7FC00000, readFl [p, q]) ∧
    fsub32 p q = (0x7FC00000, readFl [p, q]) ∧ fmul32 p q = (0x7FC00000, readFl [p, q]) := by
  have hx : (f32 p).isNan = true ∨ (f32 q).isNan = true := by rwa [isNan_f32, isNan_f32]
  refine ⟨?_, ?_, ?_⟩
  · rw [fadd32, addExact_nan hx, withFl_canon]
  · rw [fsub32, addExact_nan (by rwa [isNan_neg]), withFl_canon]
  · rw [fmul32, fmaExact_nan_product hx, withFl_canon]

theorem addExact_inf_inf (a b : Bool) : addExact (.inf a) (.inf b) = if a = b then round32 (.inf a) else (canon32, IV ||| NFP) := by
  by_cases h : a = b
  · subst h
    rw [if_pos rfl, addExact_exact rfl rfl (by simp [Machine.Num.add])]
    simp [Machine.Num.add]
  · rw [if_neg h]
    exact addExact_invalid rfl rfl (by simp [Machine.Num.add, h]; decide)

theorem addExact_inf_fin (a n : Bool) (num den : Nat) (e : Int) : addExact (.inf a) (.fin n num den e) = round32 (.inf a) :=
  addExact_exact rfl rfl rfl

theorem addExact_fin_inf (a n : Bool) (num den : Nat) (e : Int) : addExact (.fin n num den e) (.inf a) = round32 (.inf a) :=
  addExact_exact rfl rfl rfl

theorem inf_inf_sum (hp : IsInf p) (hq : IsInf q) :
    (p ≠ q → fadd32 p q = (0x7FC00000, IV ||| NFP ||| NFC) ∧ (fsub32 p q).1 = p) ∧
    (p = q → (fadd32 p q).1 = p ∧ fsub32 p q = (0x7FC00000, IV ||| NFP ||| NFC)) := by
  have hfl : readFl [p, q] = NFC := by rw [readFl_pair, readFl_inf hp, readFl_inf hq]; rfl
  have hadd : fadd32 p q = withFl NFC (if p.getLsbD 31 = q.getLsbD 31 then (p, NFP) else (canon32, IV ||| NFP)) := by
    rw [fadd32, f32_inf hp, f32_inf hq, addExact_inf_inf, hfl, round32_inf_code hp]
  have hsub : fsub32 p q = withFl NFC (if p.getLsbD 31 = !q.getLsbD 31 then (p, NFP) else (canon32, IV ||| NFP)) := by
    rw [fsub32, f32_inf hp, f32_inf hq, Machine.Num.neg, addExact_inf_inf, hfl, round32_inf_code hp]
  rw [Ne, inf_eq_iff hp hq, hadd, hsub]
  cases p.getLsbD 31 <;> cases q.getLsbD 31 <;> simp [withFl, canon32]

theorem inf_times_zero (n : Bool) (c : BitVec 32) (hp : IsInf p) (hq : q.extractLsb' 0 31 = 0) :
    ffma32 n p q c = (0x7FC00000, IV ||| NFP ||| NFC) ∧ ffma32 n q p c = (0x7FC00000, IV ||| NFP ||| NFC) ∧
    fmul32 p q = (0x7FC00000, IV ||| NFP ||| NFC) ∧ fmul32 q p = (0x7FC00000, IV ||| NFP ||| NFC) := by
  obtain ⟨hpq, hqp⟩ := mul_inf_zero hp hq
  have h2 : readFl [p, q] = NFC := by rw [readFl_pair, readFl_inf hp, readFl_of_fin (zero_isFin hq)]; rfl
  have h3 : readFl [p, q, c] = NFC ||| readFl [c] := by
    rw [readFl_triple, readFl_inf hp, readFl_of_fin (zero_isFin hq)]
    exact congrArg (NFC ||| ·) BitVec.zero_or
  have h3' : readFl [q, p, c] = NFC ||| readFl [c] := by rw [readFl_perm (List.Perm.swap p q [c]), h3]
  refine ⟨?_, ?_, ?_, ?_⟩
  · rw [ffma32, fmaExact_invalid hpq, h3]
    exact Prod.ext rfl (invalid_flags c)
  · rw [ffma32, fmaExact_invalid hqp, h3']
    exact Prod.ext rfl (invalid_flags c)
  · rw [fmul32, fmaExact_invalid hpq, h2]
    rfl
  · rw [fmul32, fmaExact_invalid hqp, readFl_swap, h2]
    rfl

/-- An infinite product meets an addend that is NaN, or infinite of the other sign (R143). -/
theorem inf_product_addend (n : Bool) {c : BitVec 32} (hp : IsInf p) (hq : ¬ IsNan q) (h0 : q.extractLsb' 0 31 ≠ 0) :
    (IsNan c → ffma32 n p q c = (0x7FC00000, readFl [p, q, c])) ∧
    (IsInf c → c.getLsbD 31 ≠ (n ^^ p.getLsbD 31 ^^ q.getLsbD 31) → ffma32 n p q c = (0x7FC00000, IV ||| NFP ||| NFC)) := by
  have hm := mul_inf hp hq h0
  constructor
  · intro hc
    rw [ffma32, fmaExact_nan_addend (by rw [hm]) ((isNan_f32 c).2 hc), withFl_canon]
  · intro hc hs
    have hfl : readFl [p, q, c] = NFC := by
      rw [readFl_triple, readFl_inf hp, readFl_inf hc]
      rcases readFl_cases q with ⟨hf, -⟩ | ⟨hf, -⟩ | ⟨-, hq'⟩
      · rw [hf]; rfl
      · rw [hf]; rfl
      · exact absurd hq'.1 hq
    rw [ffma32, hfl, fmaExact, hm, f32_inf hc]
    revert hs
    cases n <;> cases p.getLsbD 31 <;> cases q.getLsbD 31 <;> cases c.getLsbD 31 <;> decide

theorem inf_fin (hp : IsInf p) (hq : IsFin q) : fadd32 p q = (p, NFC ||| NFP) ∧ fsub32 p q = (p, NFC ||| NFP) ∧
    fsub32 q p = (p ^^^ 0x80000000, NFC ||| NFP) ∧
    (q.extractLsb' 0 31 ≠ 0 → fmul32 p q = (if q.getLsbD 31 then p ^^^ 0x80000000 else p, NFC ||| NFP)) := by
  obtain ⟨num, e, hf, -⟩ := f32_fin hq
  obtain ⟨hflip, hsign⟩ := isInf_flip hp
  have hfl : readFl [p, q] = NFC := by rw [readFl_pair, readFl_inf hp, readFl_of_fin hq]; rfl
  refine ⟨?_, ?_, ?_, fun h0 => ?_⟩
  · rw [fadd32, hfl, f32_inf hp, hf, addExact_inf_fin, round32_inf_code hp, withFl_nfc]
  · rw [fsub32, hfl, f32_inf hp, hf, Machine.Num.neg, addExact_inf_fin, round32_inf_code hp, withFl_nfc]
  · rw [fsub32, readFl_swap, hfl, f32_inf hp, hf, Machine.Num.neg, addExact_fin_inf,
      round32_inf_sign hflip hsign, withFl_nfc]
  · have hmul : fmul32 p q = withFl NFC (round32 (.inf (p.getLsbD 31 != q.getLsbD 31))) := by
      rw [fmul32, hfl, fmaExact, mul_inf hp (IsFin_not_nan hq) h0]
      rfl
    rw [hmul]
    cases hs : q.getLsbD 31 with
    | false =>
      rw [round32_inf_sign hp (by simp), withFl_nfc]
      rfl
    | true =>
      rw [round32_inf_sign hflip (by rw [hsign]; simp), withFl_nfc]
      rfl

theorem add_comm_num (x y : Machine.Num) : Machine.Num.add x y = Machine.Num.add y x := by
  cases x with
  | nan => cases y <;> rfl
  | inf a =>
    cases y with
    | inf b => cases a <;> cases b <;> rfl
    | nan | fin => rfl
  | fin n a d e =>
    cases y with
    | nan | inf => rfl
    | fin m b k i => simp only [Machine.Num.add, min_comm e i, Bool.and_comm n m, Nat.mul_comm d k, Int.add_comm (Num.at n a k e _)]

theorem mul_comm_num (x y : Machine.Num) : Machine.Num.mul x y = Machine.Num.mul y x := by
  cases x with
  | nan => cases y <;> rfl
  | inf a =>
    cases y with
    | nan => rfl
    | inf b => simp only [Machine.Num.mul, bne_comm (a := a)]
    | fin m b k i => simp only [Machine.Num.mul, bne_comm (a := a)]
  | fin n a d e =>
    cases y with
    | nan => rfl
    | inf b => simp only [Machine.Num.mul, bne_comm (a := n)]
    | fin m b k i => simp only [Machine.Num.mul, bne_comm (a := n), Nat.mul_comm a b, Nat.mul_comm d k, Int.add_comm e i]

theorem sum_product_comm (p q : BitVec 32) : fadd32 p q = fadd32 q p ∧ fmul32 p q = fmul32 q p := by
  constructor
  · rw [fadd32, fadd32, readFl_swap, addExact, addExact, add_comm_num, Bool.or_comm]
  · rw [fmul32, fmul32, readFl_swap, fmaExact, fmaExact, mul_comm_num]

/-- The code of an exact zero. -/
theorem rounded_zero {n : Bool} {r : BitVec 32 × Fl} (h : Rounded 0 n r) : r = (if n then 0x80000000 else 0, 0) := by
  obtain ⟨hcode, hfl⟩ := Prod.mk.inj (h.1 rfl)
  refine Prod.ext (BitVec.eq_of_toNat_eq (hcode.trans ?_)) hfl
  cases n <;> rfl

theorem fval_zero : fval 0 = 0 := by
  simp [fval, codeVal]

theorem exact_zeros (hp : IsFin p) : fsub32 p p = (0, 0) ∧
    fmul32 p 0 = (if p.getLsbD 31 then 0x80000000 else 0, 0) := by
  have h0 : IsFin 0 := by unfold IsFin; decide
  obtain ⟨-, hsub, -, -⟩ := floatRounding false p p 0 hp hp h0
  obtain ⟨-, -, hmul, -⟩ := floatRounding false p 0 0 hp h0 h0
  rw [sub_self, signOf_zero rfl, Bool.and_not_self] at hsub
  rw [fval_zero, mul_zero] at hmul
  refine ⟨rounded_zero hsub, ?_⟩
  have hm := rounded_zero hmul
  rwa [show (0 : BitVec 32).getLsbD 31 = false from rfl, Bool.xor_false] at hm

end

theorem vectorFloatArithmetic : VectorFloatArithmetic := by
  refine ⟨fun s x pd d a b c h => ?_, fun p q => nan_operand, fun p q => inf_inf_sum, fun n p q c => inf_times_zero n c,
    fun n p q c => inf_product_addend n, fun p q => inf_fin, sum_product_comm,
    fun p hn hi => exact_zeros ((fin_or_inf_or_nan p).resolve_right (not_or.2 ⟨hi, hn⟩)), ?_⟩
  · exact ⟨writesV_of_elemOp (f := fun c e => fadd32 (el (c.rv a) e) (el (c.rv b) e)) h rfl rfl,
      writesV_of_elemOp (f := fun c e => fsub32 (el (c.rv a) e) (el (c.rv b) e)) h rfl rfl,
      writesV_of_elemOp (f := fun c e => fmul32 (el (c.rv a) e) (el (c.rv b) e)) h rfl rfl,
      writesV_of_elemOp (f := fun k e => ffma32 false (el (k.rv a) e) (el (k.rv b) e) (el (k.rv c) e)) h rfl rfl,
      writesV_of_elemOp (f := fun k e => ffma32 true (el (k.rv a) e) (el (k.rv b) e) (el (k.rv c) e)) h rfl rfl⟩
  · decide +kernel

end Sys2Proof.Proofs.VectorSlot
end

section
/-!
The order of FP32 values, minima and maxima, sign operations, compares and classes (R144 to R146).
-/

namespace Sys2Proof.Proofs.VectorSlot

open Sys2Proof Sys2Proof.Machine Sys2Proof.Claims
open Sys2Proof.Proofs.NumberFormats

/-! ## The order of values (R144, R145) -/

/-- A value is that of its code without the sign, negated where the sign says so. -/
theorem fval_eq (b : BitVec 32) : fval b = signum (b.getLsbD 31) * codeVal .fp32 (b.toNat % 2 ^ 31) := by
  have hlt : b.toNat % 2 ^ 31 < 2 ^ (FF.eb .fp32 + FF.mb .fp32) := Nat.mod_lt _ (by positivity)
  have hsplit : b.toNat = bit (b.getLsbD 31) * 2 ^ (FF.eb .fp32 + FF.mb .fp32) + b.toNat % 2 ^ 31 := by
    rw [← getLsbD_31]
    show b.toNat = bit (b.toNat / 2 ^ 31 % 2 == 1) * 2 ^ 31 + b.toNat % 2 ^ 31
    have := b.isLt
    simp only [bit, beq_iff_eq]
    split <;> omega
  have hsign := codeVal_sign .fp32 (b.getLsbD 31) hlt
  rw [← hsplit] at hsign
  exact hsign

theorem codeVal_zero : codeVal .fp32 0 = 0 := by simp [codeVal]

/-- Values stand in the order of R145. -/
theorem fval_lt_iff (p q : BitVec 32) : fval p < fval q ↔ fkey p < fkey q := by
  obtain ⟨a, ha⟩ : ∃ a, a = p.toNat % 2 ^ 31 := ⟨_, rfl⟩
  obtain ⟨b, hb⟩ : ∃ b, b = q.toNat % 2 ^ 31 := ⟨_, rfl⟩
  have ha' : a < 2 ^ (FF.eb .fp32 + FF.mb .fp32) := ha ▸ Nat.mod_lt _ (by positivity)
  have hb' : b < 2 ^ (FF.eb .fp32 + FF.mb .fp32) := hb ▸ Nat.mod_lt _ (by positivity)
  have hlt := codeVal_lt_iff .fp32 ha' hb'
  have hgt := codeVal_lt_iff .fp32 hb' ha'
  have hnn {c : Nat} (hc : c < 2 ^ (FF.eb .fp32 + FF.mb .fp32)) :
      0 ≤ codeVal .fp32 c ∧ (0 < codeVal .fp32 c ↔ 0 < c) := by
    have h0 := codeVal_lt_iff .fp32 (c := 0) (by positivity) hc
    have hn := codeVal_lt_iff .fp32 (c' := 0) hc (by positivity)
    rw [codeVal_zero] at h0 hn
    exact ⟨not_lt.1 (mt hn.1 (Nat.not_lt_zero c)), h0⟩
  obtain ⟨ha0, hap⟩ := hnn ha'
  obtain ⟨hb0, hbp⟩ := hnn hb'
  rw [fval_eq, fval_eq, fkey, fkey, ← ha, ← hb]
  cases p.getLsbD 31 <;> cases q.getLsbD 31 <;> simp only [signum, Bool.false_eq_true, if_false, if_true, one_mul, neg_mul]
  · rw [hlt]; omega
  · exact iff_of_false (by linarith) (by omega)
  · have hpos : -codeVal .fp32 a < codeVal .fp32 b ↔ 0 < codeVal .fp32 a ∨ 0 < codeVal .fp32 b := by
      constructor
      · intro h
        by_contra hn
        push Not at hn
        linarith [hn.1, hn.2]
      · rintro (h | h) <;> linarith
    rw [hpos, hap, hbp]; omega
  · rw [neg_lt_neg_iff, hgt]; omega

theorem sign_eq_of_iff {a b : Int} (h1 : a < 0 ↔ b < 0) (h2 : 0 < a ↔ 0 < b) : a.sign = b.sign := by
  rcases lt_trichotomy a 0 with h | h | h
  · rw [Int.sign_eq_neg_one_of_neg h, Int.sign_eq_neg_one_of_neg (h1.1 h)]
  · rw [h, show b = 0 by omega]
  · rw [Int.sign_eq_one_of_pos h, Int.sign_eq_one_of_pos (h2.1 h)]

/-- The model compares finite values by the sign of their difference. -/
theorem cmp_values {x y : Machine.Num} {q r : ℚ} {n m : Bool} (hx : HasValue x q n) (hy : HasValue y r m) {k : Int}
    (h1 : q < r ↔ k < 0) (h2 : r < q ↔ 0 < k) : Machine.Num.cmp x y = k.sign := by
  obtain ⟨a, d, e, rfl, hd, hq⟩ := hx
  obtain ⟨a', d', e', rfl, hd', hr⟩ := hy
  obtain ⟨v, hv⟩ : ∃ v, v = Num.at n a d' e (min e e') - Num.at m a' d e' (min e e') := ⟨_, rfl⟩
  have hscale : (0 : ℚ) < d * d' / 2 ^ min e e' := by positivity
  have hdiff : (v : ℚ) = (q - r) * (d * d' / 2 ^ min e e') := by
    rw [hv, Int.cast_sub, cast_at n a d d' hd hd' (min_le_left ..), cast_at m a' d' d hd' hd (min_le_right ..), ← hq, ← hr]
    ring
  have hcmp : Machine.Num.cmp (.fin n a d e) (.fin m a' d' e') = v.sign := by rw [hv]; rfl
  rw [hcmp]
  refine sign_eq_of_iff ?_ ?_
  · rw [← h1, ← Int.cast_lt_zero (R := ℚ), hdiff, mul_neg_iff, or_iff_right (fun h => hscale.not_gt h.2), and_iff_left hscale,
      sub_neg]
  · rw [← h2, ← Int.cast_pos (R := ℚ), hdiff, mul_pos_iff_of_pos_right hscale, sub_pos]

section
variable {p q : BitVec 32}

/-- The key of an infinity is beyond that of every finite code. -/
theorem fkey_inf (h : IsInf p) : fkey p = if p.getLsbD 31 then -0x7F800000 else 0x7F800000 := by
  have hp := toNat_inf h
  rw [fkey, hp]
  cases p.getLsbD 31 <;> rfl

theorem fkey_fin (h : IsFin p) : -0x7F800000 < fkey p ∧ fkey p < 0x7F800000 := by
  have hp := (isFin_iff p).1 h
  have := p.isLt
  rw [fkey]
  split <;> constructor <;> omega

/-- The model's comparison is by the keys of R145. -/
theorem cmp_f32 (hp : ¬ IsNan p) (hq : ¬ IsNan q) : Machine.Num.cmp (f32 p) (f32 q) = (fkey p - fkey q).sign := by
  rcases fin_or_inf_or_nan p with h | h | h
  · rcases fin_or_inf_or_nan q with h' | h' | h'
    · refine cmp_values (f32_hasValue h) (f32_hasValue h') ?_ ?_
      · rw [fval_lt_iff, sub_neg]
      · rw [fval_lt_iff, sub_pos]
    · obtain ⟨num, e, hf, -⟩ := f32_fin h
      obtain ⟨h1, h2⟩ := fkey_fin h
      rw [hf, f32_inf h', fkey_inf h', Machine.Num.cmp]
      cases q.getLsbD 31
      · exact (Int.sign_eq_neg_one_of_neg (by simpa using h2)).symm
      · exact (Int.sign_eq_one_of_pos (by simp; omega)).symm
      all_goals simp
    · exact absurd h' hq
  · rcases fin_or_inf_or_nan q with h' | h' | h'
    · obtain ⟨num, e, hf, -⟩ := f32_fin h'
      obtain ⟨h1, h2⟩ := fkey_fin h'
      rw [hf, f32_inf h, fkey_inf h, Machine.Num.cmp]
      cases p.getLsbD 31
      · exact (Int.sign_eq_one_of_pos (by simpa using h2)).symm
      · exact (Int.sign_eq_neg_one_of_neg (by simp; omega)).symm
      all_goals simp
    · rw [f32_inf h, f32_inf h', fkey_inf h, fkey_inf h', Machine.Num.cmp]
      cases p.getLsbD 31 <;> cases q.getLsbD 31 <;> rfl
    · exact absurd h' hq
  · exact absurd h hp

theorem sign_f32 (hp : ¬ IsNan p) : (f32 p).sign = p.getLsbD 31 := by
  rcases fin_or_inf_or_nan p with h | h | h
  · obtain ⟨num, e, hf, -⟩ := f32_fin h
    rw [hf]
    rfl
  · rw [f32_inf h]
    rfl
  · exact absurd h hp

/-! ## Minima and maxima (R144) -/

theorem fminmax_nan (g : Bool) (p q : BitVec 32) : (IsNan p → ¬ IsNan q → fminmax g p q = q) ∧
    (¬ IsNan p → IsNan q → fminmax g p q = p) ∧ (IsNan p → IsNan q → fminmax g p q = 0x7FC00000) := by
  refine ⟨fun hp hq => ?_, fun hp hq => ?_, fun hp hq => ?_⟩
  · simp [fminmax, (isNan_f32 p).2 hp, isNan_f32_false hq]
  · simp [fminmax, isNan_f32_false hp, (isNan_f32 q).2 hq]
  · simp [fminmax, (isNan_f32 p).2 hp, (isNan_f32 q).2 hq, canon32]

/-- R144 takes the first operand where it comes before the second in the order that has −0 below +0. -/
theorem fminmax_order (g : Bool) (hp : ¬ IsNan p) (hq : ¬ IsNan q) :
    fminmax g p q = if decide (forder p < forder q) != g then p else q := by
  have hless : (decide ((fkey p - fkey q).sign < 0) || ((fkey p - fkey q).sign == 0 && p.getLsbD 31 && !q.getLsbD 31)) =
      decide (forder p < forder q) := by
    rw [Bool.eq_iff_iff]
    simp only [Bool.or_eq_true, Bool.and_eq_true, decide_eq_true_eq, beq_iff_eq, Bool.not_eq_true', Int.sign_eq_zero_iff_zero,
      Int.sign_neg_iff]
    rw [forder, forder, fkey, fkey]
    generalize p.toNat % 2 ^ 31 = a, q.toNat % 2 ^ 31 = b
    cases p.getLsbD 31 <;> cases q.getLsbD 31 <;> simp <;> omega
  simp only [fminmax, isNan_f32_false hp, isNan_f32_false hq, cmp_f32 hp hq, sign_f32 hp, sign_f32 hq, hless]
  simp

theorem forder_inj (h : forder p = forder q) : p = q := by
  refine BitVec.eq_of_toNat_eq ?_
  have hp := p.isLt
  have hq := q.isLt
  rw [forder, forder, ← getLsbD_31, ← getLsbD_31] at h
  simp only [beq_iff_eq] at h
  split at h <;> split at h <;> omega

theorem fminmax_values (hp : ¬ IsNan p) (hq : ¬ IsNan q) : fminmax false p q = (if forder p ≤ forder q then p else q) ∧
    fminmax true p q = (if forder p ≤ forder q then q else p) := by
  rw [fminmax_order false hp hq, fminmax_order true hp hq]
  rcases lt_trichotomy (forder p) (forder q) with h | h | h
  · simp [h, h.le]
  · simp [forder_inj h]
  · simp [h.not_gt, h.not_ge]

/-! ## Compares (R145) -/

theorem fcondHolds_nan (cc : FCond) (h : IsNan p ∨ IsNan q) :
    fcondHolds cc (f32 p) (f32 q) = (cc == .ne || cc == .un) := by
  have hun : ((f32 p).isNan || (f32 q).isNan) = true := by rwa [Bool.or_eq_true, isNan_f32, isNan_f32]
  cases cc <;> simp only [fcondHolds, hun] <;> rfl

theorem fcondHolds_key (cc : FCond) (hp : ¬ IsNan p) (hq : ¬ IsNan q) : fcondHolds cc (f32 p) (f32 q) = match cc with
    | .eq => decide (fkey p = fkey q)
    | .ne => decide (fkey p ≠ fkey q)
    | .lt => decide (fkey p < fkey q)
    | .ge => decide (fkey q ≤ fkey p)
    | .un => false
    | .or => true
    | .gt => decide (fkey q < fkey p)
    | .le => decide (fkey p ≤ fkey q) := by
  simp only [fcondHolds, isNan_f32_false hp, isNan_f32_false hq, cmp_f32 hp hq]
  have hneg : (fkey p - fkey q).sign < 0 ↔ fkey p < fkey q := by rw [Int.sign_neg_iff, sub_neg]
  have hpos : 0 < (fkey p - fkey q).sign ↔ fkey q < fkey p := by rw [Int.sign_pos_iff, sub_pos]
  have hzero : (fkey p - fkey q).sign = 0 ↔ fkey p = fkey q := by rw [Int.sign_eq_zero_iff_zero, sub_eq_zero]
  cases cc with
  | un | or => rfl
  | eq => exact (beq_eq_decide ..).trans (decide_eq_decide.2 hzero)
  | ne => exact (congrArg not ((beq_eq_decide ..).trans (decide_eq_decide.2 hzero))).trans (decide_not ..).symm
  | lt => exact decide_eq_decide.2 hneg
  | gt => exact decide_eq_decide.2 hpos
  | ge => exact decide_eq_decide.2 (by rw [← not_lt, hneg, not_lt])
  | le => exact decide_eq_decide.2 (by rw [← not_lt, hpos, not_lt])

end

/-! ## Classes (R146) -/

section
variable {q : BitVec 32}

theorem fclassOf_nan (h : IsNan q) : fclassOf q = if q.getLsbD 22 then 0x200 else 0x100 := by
  rw [fclassOf, f32_nan h, isSnan_iff, isNanCode_of_isNan h]
  cases q.getLsbD 22 <;> rfl

theorem fclassOf_inf (h : IsInf q) : fclassOf q = if q.getLsbD 31 then 0x001 else 0x080 := by
  rw [fclassOf, f32_inf h]
  cases q.getLsbD 31 <;> rfl

/-- The class of a finite value is told by its sign, its exponent field and whether it is 0. -/
theorem fclassOf_fin (h : IsFin q) : fclassOf q =
    if q.extractLsb' 0 31 = 0 then (if q.getLsbD 31 then 0x008 else 0x010)
    else if q.extractLsb' 23 8 = 0 then (if q.getLsbD 31 then 0x004 else 0x020)
    else (if q.getLsbD 31 then 0x002 else 0x040) := by
  obtain ⟨num, e, hf, hnum⟩ := f32_fin h
  have hexp : fld q.toNat 23 8 = 0 ↔ q.extractLsb' 23 8 = 0 := by
    rw [← BitVec.toNat_inj, BitVec.extractLsb'_toNat, Nat.shiftRight_eq_div_pow]
    rfl
  have hsign : q[31] = q.getLsbD 31 := (BitVec.getLsbD_eq_getElem (by decide)).symm
  rw [fclassOf, hf]
  simp only [hnum, hexp, hsign]
  cases q.getLsbD 31 <;> split_ifs <;> rfl

/-- The fields of a code together are 0 where each is. -/
theorem magnitude_zero_iff (q : BitVec 32) : q.extractLsb' 0 31 = 0 ↔ q.extractLsb' 23 8 = 0 ∧ q.extractLsb' 0 23 = 0 := by
  rw [← BitVec.toNat_inj, ← BitVec.toNat_inj, ← BitVec.toNat_inj, BitVec.extractLsb'_toNat, BitVec.extractLsb'_toNat,
    BitVec.extractLsb'_toNat, Nat.shiftRight_zero, Nat.shiftRight_eq_div_pow]
  show q.toNat % 2 ^ 31 = 0 ↔ q.toNat / 2 ^ 23 % 2 ^ 8 = 0 ∧ q.toNat % 2 ^ 23 = 0
  omega

theorem fclassOf_normal (h1 : q.extractLsb' 23 8 ≠ 0xFF) (h0 : q.extractLsb' 23 8 ≠ 0) :
    fclassOf q = if q.getLsbD 31 then 0x002 else 0x040 := by
  rw [fclassOf_fin h1, if_neg (fun h => h0 ((magnitude_zero_iff q).1 h).1), if_neg h0]

theorem fclassOf_subnormal (h0 : q.extractLsb' 23 8 = 0) (hm : q.extractLsb' 0 23 ≠ 0) :
    fclassOf q = if q.getLsbD 31 then 0x004 else 0x020 := by
  have h1 : IsFin q := by rw [IsFin, h0]; decide
  rw [fclassOf_fin h1, if_neg (fun h => hm ((magnitude_zero_iff q).1 h).2), if_pos h0]

end

theorem signOp_spec (f : BitVec 32 → BitVec 32) (q : BitVec 32) : (¬ IsNan q → (signOp f q).1 = f q) ∧
    (IsNan q → (signOp f q).1 = 0x7FC00000) ∧ (signOp f q).2 = readFl [q] := by
  refine ⟨fun h => ?_, fun h => ?_, rfl⟩
  · rw [signOp, isNan_f32_false h]
    rfl
  · rw [signOp, (isNan_f32 q).2 h]
    rfl

/-- The flags of a compare: those of reading, and IV where its condition signals and an operand is NaN (R145). -/
def compareFl (cc : FCond) (p q : BitVec 32) : Fl :=
  readFl [p, q] ||| flagIf (fcondSignals cc && ((f32 p).isNan || (f32 q).isNan)) IV

theorem compareFl_nan (cc : FCond) {p q : BitVec 32} (h : IsNan p ∨ IsNan q) : compareFl cc p q =
    if cc = .lt ∨ cc = .ge ∨ cc = .gt ∨ cc = .le then readFl [p, q] ||| IV else readFl [p, q] := by
  have hun : ((f32 p).isNan || (f32 q).isNan) = true := by rwa [Bool.or_eq_true, isNan_f32, isNan_f32]
  rw [compareFl, hun]
  cases cc <;> simp [fcondSignals, flagIf]

theorem compareFl_quiet (cc : FCond) {p q : BitVec 32} (hp : ¬ IsNan p) (hq : ¬ IsNan q) : compareFl cc p q = readFl [p, q] := by
  rw [compareFl, isNan_f32_false hp, isNan_f32_false hq, Bool.or_false, Bool.and_false]
  exact BitVec.or_zero ..

theorem vectorFloatCompare : VectorFloatCompare := by
  refine ⟨?_, fminmax_nan, fun p q => fminmax_values⟩
  intro s x pd d a b p cc h A B
  refine ⟨writesV_of_elemOp (f := fun c e => (fminmax false (el (c.rv a) e) (el (c.rv b) e), readFl [el (c.rv a) e, el (c.rv b) e]))
      h rfl rfl,
    writesV_of_elemOp (f := fun c e => (fminmax true (el (c.rv a) e) (el (c.rv b) e), readFl [el (c.rv a) e, el (c.rv b) e]))
      h rfl rfl,
    ⟨signOp (· &&& 0x7FFFFFFF), fun q => (signOp_spec _ q).1, fun q => (signOp_spec _ q).2.1, fun q => (signOp_spec _ q).2.2,
      writesV_of_elemOp (f := fun c e => signOp (· &&& 0x7FFFFFFF) (el (c.rv a) e)) h rfl rfl⟩,
    ⟨signOp (· ^^^ 0x80000000), fun q => (signOp_spec _ q).1, fun q => (signOp_spec _ q).2.1, fun q => (signOp_spec _ q).2.2,
      writesV_of_elemOp (f := fun c e => signOp (· ^^^ 0x80000000) (el (c.rv a) e)) h rfl rfl⟩,
    ⟨fclassOf, fun q => fclassOf_nan, fun q => fclassOf_inf, fun q => fclassOf_normal, fun q => fclassOf_subnormal,
      by decide, by decide, writesV_of_elemOp (f := fun c e => (fclassOf (el (c.rv a) e), 0)) h rfl rfl⟩,
    ⟨fun q r => fcondHolds cc (f32 q) (f32 r), compareFl cc, fun q r hn => ⟨fcondHolds_nan cc hn, compareFl_nan cc hn⟩,
      fun q r hq hr => ⟨compareFl_quiet cc hq hr, fcondHolds_key cc hq hr⟩, ?_⟩⟩
  exact writesP_of_predElemOp (f := fun c e => (fcondHolds cc (f32 (el (c.rv a) e)) (f32 (el (c.rv b) e)),
    compareFl cc (el (c.rv a) e) (el (c.rv b) e))) h rfl rfl

/-- Settles O16: the flags of reading, the arithmetic words with their special operands, and the words that compare. -/
theorem vectorFloats : Obligations.VectorFloats := ⟨operandFlags, vectorFloatArithmetic, vectorFloatCompare⟩

end Sys2Proof.Proofs.VectorSlot
end

section
/-!
Conversions, and the special-function unit (R142, R147, R150, R151): which descriptors suit which kind, when the unit is free, and
the special values.
-/

namespace Sys2Proof.Proofs.VectorSlot

open Sys2Proof Sys2Proof.Machine Sys2Proof.Claims
open Sys2Proof.Proofs.NumberFormats
open Sys2Proof.Proofs.ExecutionModel (tab_id)

/-! ## Conversions (R147) -/

/-- What a word makes of a conversion, if the descriptor suits the kind. -/
def onConversion (g : Option (BitVec 32 → BitVec 32 × Fl)) (f : (BitVec 32 → BitVec 32 × Fl) → Res) : Res :=
  match g with
  | none => .exc illegalOperand
  | some g => f g

section
variable {s : State} {x : Iss} {pd : Pd} {kind : CvtKind} {mode : RMode} {d a : VRegN} {f : FReg}

theorem exec_cvt : exec (.cvt pd kind mode d a f) s = vecWord pd (some 0x02) s fun x m =>
    onConversion (cvtElem kind mode (x.core.rf f)) fun g =>
      .done (x.core.sched x 4 (.wV d (vmap fun e => (g (el (x.core.rv a) e)).1) m)
        (orFl ((tab 1024 id).map fun e => if m.getLsbD e then (g (el (x.core.rv a) e)).2 else 0))) := rfl

theorem cvt_converts (h : s.issuer = some x) {g : BitVec 32 → BitVec 32 × Fl} (hg : cvtElem kind mode (x.core.rf f) = some g) :
    WritesV x.core (.cvt pd kind mode d a f) s x pd 0x02 4 d fun e => g (el (x.core.rv a) e) :=
  writesV_of_meaning h exec_cvt (congrArg (onConversion · _) hg)

theorem cvt_raises (h : s.issuer = some x) (hg : cvtElem kind mode (x.core.rf f) = none) :
    Raises (.cvt pd kind mode d a f) s x illegalOperand :=
  raises_of_vecWord h exec_cvt (congrArg (onConversion · _) hg)

end

/-- Which descriptors suit a kind is told by the format that they name. -/
def Suits (kind : CvtKind) (f : Fmt) : Prop :=
  match kind with
  | .fi => ∃ w sg, f = .int w sg
  | .if' => ∃ sg, f = .int 32 sg
  | .ff => ∃ g, f = .flt g ∧ g ≠ .fp32 ∧ g ≠ .e2m1

theorem cvtElem_isSome (kind : CvtKind) (mode : RMode) (fd : BitVec 32) :
    (cvtElem kind mode fd).isSome = true ↔ Suits kind (fmtOf fd) := by
  cases kind with
  | fi => cases hf : fmtOf fd <;> simp [cvtElem, hf, Suits]
  | if' =>
    refine ⟨fun h => ?_, ?_⟩
    · obtain ⟨g, hg⟩ := Option.isSome_iff_exists.1 h
      obtain ⟨sg, hf, -⟩ := cvtElem_if hg
      exact ⟨sg, hf⟩
    · rintro ⟨sg, hf⟩
      simp [cvtElem, hf]
  | ff =>
    refine ⟨fun h => ?_, ?_⟩
    · obtain ⟨g, hg⟩ := Option.isSome_iff_exists.1 h
      obtain ⟨F, hf, h32, h4, -⟩ := cvtElem_ff hg
      exact ⟨F, hf, h32, h4⟩
    · rintro ⟨F, hf, h32, h4⟩
      simp [cvtElem, hf, h32, h4]

/-- The codes of the formats that suit each kind (R49). -/
theorem suits_fmtOf (kind : CvtKind) (fd : BitVec 32) : Suits kind (fmtOf fd) ↔
    match kind with
    | .fi => fd.extractLsb' 0 4 = 6 ∨ fd.extractLsb' 0 4 = 7 ∨ fd.extractLsb' 0 4 = 8
    | .if' => fd.extractLsb' 0 4 = 8
    | .ff => fd.extractLsb' 0 4 = 1 ∨ fd.extractLsb' 0 4 = 2 ∨ fd.extractLsb' 0 4 = 3 ∨ fd.extractLsb' 0 4 = 4 := by
  unfold fmtOf
  generalize fd.extractLsb' 0 4 = c
  obtain ⟨n, hn⟩ := c
  cases kind <;> interval_cases n <;> simp [Suits]

theorem vectorConvert : VectorConvert := by
  refine ⟨fun s x pd kind mode d a f h => ⟨fun g => cvt_converts h, cvt_raises h⟩, fun kind mode fd _ => ?_,
    ⟨_, rfl, by decide +kernel⟩, ⟨_, rfl, by decide +kernel⟩⟩
  rw [cvtElem_isSome]
  exact suits_fmtOf kind fd

/-! ## The unit (R150) -/

/-- The unit has taken a word less than 4 cycles ago. -/
def sfuBusy (c : Core) (now : Nat) : Bool :=
  match c.sfu with
  | some (t, _) => decide (now < t + 4)
  | none => false

theorem sfuBusy_iff (c : Core) (now : Nat) : sfuBusy c now = true ↔ ¬ ∀ t w, c.sfu = some (t, w) → t + 4 ≤ now := by
  unfold sfuBusy
  cases c.sfu with
  | none => simp
  | some r => obtain ⟨t, w⟩ := r; simp

section
variable {s : State} {x : Iss} {pd : Pd} {i : Instr} {f : SfuFn} {d a : VRegN}

/-- What the function makes of each active element. -/
def sfuResults (f : SfuFn) (m : BitVec 1024) (v : VReg) : List (BitVec 32 × Fl) :=
  (tab 1024 id).map fun e => if m.getLsbD e then sfu f (el v e) else (0, 0)

def sfuImage (f : SfuFn) (m : BitVec 1024) (v : VReg) : VReg := vmap fun e => ((sfuResults f m v).getD e (0, 0)).1

def sfuFlags (f : SfuFn) (m : BitVec 1024) (v : VReg) : Fl := orFl ((sfuResults f m v).map fun r => r.2)

theorem sfuOp_eq : sfuOp pd f d a s = vecWord pd (some 0x03) s fun x m =>
    if m = 0 then .done (x.core.sched x 12 (.wV d VReg.zero 0))
    else if sfuBusy x.core x.now then .exc structural
    else .done ({ x.core with sfu := some (x.now, x.w) }.sched x 12
      (.wV d (sfuImage f m (x.core.rv a)) m) (sfuFlags f m (x.core.rv a))) :=
  rfl

theorem el_sfuImage (m : BitVec 1024) (v : VReg) {e : Nat} (he : e < 1024) (hm : m.getLsbD e = true) :
    el (sfuImage f m v) e = (sfu f (el v e)).1 := by
  rw [sfuImage, el_vmap _ he, sfuResults, tab_id, List.getD_eq_getElem?_getD, List.getElem?_map, List.getElem?_range he]
  simp [hm]

theorem getLsbD_sfuFlags (m : BitVec 1024) (v : VReg) (j : Nat) : (sfuFlags f m v).getLsbD j = true ↔
    ∃ e, e < 1024 ∧ m.getLsbD e = true ∧ (sfu f (el v e)).2.getLsbD j = true := by
  have hfl : ((fun r : BitVec 32 × Fl => r.2) ∘ fun e => if m.getLsbD e then sfu f (el v e) else (0, 0)) =
      fun e => if m.getLsbD e then (sfu f (el v e)).2 else 0 := by
    funext e
    exact apply_ite Prod.snd ..
  rw [← getLsbD_elementFlags, sfuFlags, sfuResults, List.map_map, hfl]

theorem none_active (e : Nat) : ¬ (0 : BitVec 1024).getLsbD e = true := by
  simp

/-- A word that marks the unit and schedules one effect leaves it so. -/
theorem laterFrom_of_sfu {g : Iss → BitVec 1024 → Res} {act : Act} {fl : Fl} (h : s.issuer = some x)
    (hi : exec i s = vecWord pd (some 0x03) s g) (hg : g (paid x pd 0x03) (x.core.mask pd) =
      .done ({ (paid x pd 0x03).core with sfu := some (x.now, x.w) }.sched (paid x pd 0x03) 12 act fl)) :
    LaterFrom { x.core with sfu := some (x.now, x.w) } i s x (vcls x pd 0x03) [(12, act, fl)] := leaves_of_vecWord h hi hg

/-- A word without an active element leaves the unit alone. -/
theorem sfu_inactive (h : s.issuer = some x) (hi : exec i s = sfuOp pd f d a s) (hm : x.core.mask pd = 0) :
    WritesV x.core i s x pd 0x03 12 d fun e => sfu f (el (x.core.rv a) e) := by
  have hl : Later i s x (vcls x pd 0x03) [(12, .wV d VReg.zero (x.core.mask pd), 0)] := by
    refine later_of_vecWord h (hi.trans sfuOp_eq) ?_
    rw [if_pos hm, hm]
  refine ⟨_, _, hl, fun e _ hon => ?_, fun j => ?_⟩
  · exact absurd (hm ▸ hon) (none_active e)
  · refine iff_of_false (by simp) ?_
    rintro ⟨e, -, hon, -⟩
    exact absurd (hm ▸ hon) (none_active e)

/-- An active word that the unit is free for occupies it. -/
theorem sfu_active (h : s.issuer = some x) (hi : exec i s = sfuOp pd f d a s) (hm : x.core.mask pd ≠ 0)
    (hfree : sfuBusy x.core x.now = false) : WritesV { x.core with sfu := some (x.now, x.w) } i s x pd 0x03 12 d
      fun e => sfu f (el (x.core.rv a) e) := by
  have hl : LaterFrom { x.core with sfu := some (x.now, x.w) } i s x (vcls x pd 0x03)
      [(12, .wV d (sfuImage f (x.core.mask pd) (x.core.rv a)) (x.core.mask pd), sfuFlags f (x.core.mask pd) (x.core.rv a))] :=
    laterFrom_of_sfu h (hi.trans sfuOp_eq) ((if_neg hm).trans (if_neg (ne_true_of_eq_false hfree)))
  exact ⟨_, _, hl, fun e he => el_sfuImage _ _ he, getLsbD_sfuFlags _ _⟩

theorem sfu_busy (h : s.issuer = some x) (hi : exec i s = sfuOp pd f d a s) (hm : x.core.mask pd ≠ 0)
    (hbusy : sfuBusy x.core x.now = true) : Raises i s x structural :=
  raises_of_vecWord h (hi.trans sfuOp_eq) ((if_neg hm).trans (if_pos hbusy))

/-- R150: when a special function performs, and when it raises the structural fault. -/
theorem sfu_issues (h : s.issuer = some x) (hi : exec i s = sfuOp pd f d a s) :
    let free := ∀ t w, x.core.sfu = some (t, w) → t + 4 ≤ x.now
    ((free ∨ x.core.mask pd = 0) → WritesV (if x.core.mask pd = 0 then x.core else { x.core with sfu := some (x.now, x.w) })
      i s x pd 0x03 12 d fun e => sfu f (el (x.core.rv a) e)) ∧
    (¬ free → x.core.mask pd ≠ 0 → Raises i s x structural) := by
  refine ⟨fun hf => ?_, fun hf hm => sfu_busy h hi hm ((sfuBusy_iff ..).2 hf)⟩
  by_cases hm : x.core.mask pd = 0
  · rw [if_pos hm]
    exact sfu_inactive h hi hm
  · rw [if_neg hm]
    refine sfu_active h hi hm (Bool.eq_false_iff.2 fun hb => ?_)
    exact (sfuBusy_iff ..).1 hb (hf.resolve_right hm)

end

/-! ## Special values (R142, R151) -/

theorem sfu_nan (f : SfuFn) {b : BitVec 32} (h : IsNan b) : sfu f b = (0x7FC00000, NFP ||| readFl [b]) := by
  have hs : sfuSpecial canon32 = (canon32, NFP) := by decide
  rw [sfu, f32_nan h, hs]
  rfl

/-- What a special function gives for a finite operand that is not 0: reading it raises nothing. -/
theorem sfu_fin (f : SfuFn) {b : BitVec 32} (h : IsFin b) {num : Nat} {e : Int} (hf : f32 b = .fin (b.getLsbD 31) num 1 e)
    (hn : num ≠ 0) : sfu f b = sfuFinite f (b.getLsbD 31) num e := by
  rw [sfu, hf, readFl_of_fin h, withFl_zero]
  exact if_neg hn

/-- A negative finite operand of a function that has no value there. -/
theorem sfu_negative {f : SfuFn} (hf : ∀ num e, sfuFinite f true num e = nanIV) {b : BitVec 32} (hs : b.getLsbD 31 = true)
    (hfin : IsFin b) (h0 : b.extractLsb' 0 31 ≠ 0) : sfu f b = (0x7FC00000, IV ||| NFP) := by
  obtain ⟨num, e, hb, hnum⟩ := f32_fin hfin
  rw [sfu_fin f hfin hb (mt hnum.1 h0), hs, hf]
  decide

theorem specialFunctions : SpecialFunctions := by
  refine ⟨fun s x pd d a h => ?_, fun f b => sfu_nan f, ?_, fun b hs hfin h0 => ?_⟩
  · intro free k Does
    exact ⟨sfu_issues h rfl, sfu_issues h rfl, sfu_issues h rfl, sfu_issues h rfl, sfu_issues h rfl, sfu_issues h rfl,
      sfu_issues h rfl, sfu_issues h rfl, sfu_issues h rfl, sfu_issues h rfl, sfu_issues h rfl⟩
  · decide +kernel
  · exact ⟨sfu_negative (fun _ _ => rfl) hs hfin h0, sfu_negative (fun _ _ => rfl) hs hfin h0,
      sfu_negative (fun _ _ => rfl) hs hfin h0⟩

/-- Settles O17: the conversions, the issue of the special functions, and their special values. -/
theorem conversionsAndFunctions : Obligations.ConversionsAndFunctions := ⟨vectorConvert, specialFunctions⟩

end Sys2Proof.Proofs.VectorSlot
end

section
/-!
The vector loads and stores of G (R165 to R167): the check of the base address, what a load leaves, and the entries that a store
fills in the egress buffer.
-/

namespace Sys2Proof.Proofs.VectorSlot

open Sys2Proof Sys2Proof.Machine Sys2Proof.Claims
open Sys2Proof.Proofs.ExecutionModel (tab_id)
open Sys2Proof.Proofs.BundleAndAssembly (PaysOnly paysOnly_payG)
open Sys2Proof.Proofs.ScalarSlot (onAddress getElem?_flatMap_blocks)

/-! ## Codes and addresses (R165) -/

theorem codeBytes : CodeBytes := by
  intro fd h
  have hle : (fd.extractLsb' 0 4).toNat ≤ 9 := by
    simp only [fmtLegal, Bool.and_eq_true, decide_eq_true_eq] at h
    omega
  unfold gBytes fmtOf
  generalize (fd.extractLsb' 0 4).toNat = c at hle
  interval_cases c <;> simp [Fmt.width, FF.width, FF.eb, FF.mb]

section
variable {f : BitVec 32} {a : BitVec 64} {n : Nat}

theorem gBase_none (h : gBytes f = none) : gBase f a = .error illegalOperand := by
  rw [gBase, h]

theorem gBase_wide (h : gBytes f = some n) (hw : 2 ^ 57 ≤ a.toNat) : gBase f a = .error (addressFault a.toNat) := by
  rw [gBase, h]
  exact if_pos hw

theorem gBase_misaligned (h : gBytes f = some n) (hw : a.toNat < 2 ^ 57) (hm : a.toNat % n ≠ 0) :
    gBase f a = .error (misaligned a.toNat) := by
  rw [gBase, h]
  exact (if_neg (Nat.not_le.2 hw)).trans (if_pos hm)

theorem gBase_ok (h : gBytes f = some n) (hw : a.toNat < 2 ^ 57) (hm : a.toNat % n = 0) : gBase f a = .ok a.toNat := by
  rw [gBase, h]
  exact (if_neg (Nat.not_le.2 hw)).trans (if_neg (not_not.2 hm))

end

/-! ## Words that check a base address -/

section
variable {s : State} {x : Iss} {pd : Pd} {i : Instr} {f : FReg} {t : SReg} {g : Iss → BitVec 1024 → Nat → Res} {n : Nat}
  (h : s.issuer = some x)
  (hi : exec i s = vecWord pd (some 0x06) s fun x m => onAddress (gBase (x.core.rf f) (x.core.rs t)) (g x m))
include h hi

theorem raises_of_gBase {e : Exc} (he : gBase (x.core.rf f) (x.core.rs t) = .error e) : Raises i s x e :=
  raises_of_vecWord h hi (congrArg (onAddress · _) he)

/-- R165: the faults of a G form's operands. -/
theorem gBase_faults :
    (gBytes (x.core.rf f) = none → Raises i s x illegalOperand) ∧
    (gBytes (x.core.rf f) = some n → (x.core.rs t).toNat < 2 ^ 57 → (x.core.rs t).toNat % n ≠ 0 →
      Raises i s x (misaligned (x.core.rs t).toNat)) ∧
    (gBytes (x.core.rf f) = some n → 2 ^ 57 ≤ (x.core.rs t).toNat → Raises i s x (addressFault (x.core.rs t).toNat)) :=
  ⟨fun hn => raises_of_gBase h hi (gBase_none hn), fun hn hw hm => raises_of_gBase h hi (gBase_misaligned hn hw hm),
    fun hn hw => raises_of_gBase h hi (gBase_wide hn hw)⟩

theorem leaves_of_gBase {c : Core} (hn : gBytes (x.core.rf f) = some n) (hw : (x.core.rs t).toNat < 2 ^ 57)
    (hm : (x.core.rs t).toNat % n = 0) (hg : g (paid x pd 0x06) (x.core.mask pd) (x.core.rs t).toNat = .done c) :
    Leaves i s x c :=
  leaves_of_vecWord h hi ((congrArg (onAddress · _) (gBase_ok hn hw hm)).trans hg)

end

/-! ## Loads (R165, R166) -/

/-- What a load of G leaves, `n` being the size of its codes. -/
def loaded (s : State) (x : Iss) (m : BitVec 1024) (kind : FetchKind) (va n : Nat) (ac : ACls) : Core :=
  s.payG x.ag (s.ctx x.ag) .rd ((vecUnits va n 64 m).map fun g => (g, 64))
    (x.core.fetch x 700 kind va ac (if m = 0 then .arrived (List.replicate (1024 * n) 0) else .walking))

section
variable {s : State} {x : Iss} {pd : Pd} {i : Instr} {d : VRegN} {cnt : Option SReg} {f : FReg} {ac : ACls} {t : SReg} {n : Nat}

theorem vldgOp_eq : vldgOp pd d cnt f ac t s = vecWord pd (some 0x06) s fun x m =>
    onAddress (gBase (x.core.rf f) (x.core.rs t)) fun v =>
      .done (loaded s x m (.vldg d (x.core.rf f) m cnt) v ((gBytes (x.core.rf f)).getD 4) ac) := rfl

theorem vldg_leaves (h : s.issuer = some x) (hi : exec i s = vldgOp pd d cnt f ac t s) (hn : gBytes (x.core.rf f) = some n)
    (hw : (x.core.rs t).toNat < 2 ^ 57) (hm : (x.core.rs t).toNat % n = 0) :
    Leaves i s x (loaded s (paid x pd 0x06) (x.core.mask pd) (.vldg d (x.core.rf f) (x.core.mask pd) cnt) (x.core.rs t).toNat n
      ac) := by
  refine leaves_of_gBase h (hi.trans vldgOp_eq) hn hw hm ?_
  have hsize : (gBytes ((paid x pd 0x06).core.rf f)).getD 4 = n := congrArg (Option.getD · 4) hn
  rw [hsize]
  rfl

end

theorem vectorGlobalLoad : VectorGlobalLoad := by
  intro s x pd d cnt t f ac n h fd V m st load
  obtain ⟨h1, h2, h3⟩ := gBase_faults (i := .vldg pd d f ac t) (n := n) h vldgOp_eq
  obtain ⟨k1, k2, k3⟩ := gBase_faults (i := .vldgFf pd d cnt f ac t) (n := n) h vldgOp_eq
  exact ⟨fun hn hw hm => ⟨vldg_leaves (cnt := none) h rfl hn hw hm, vldg_leaves (cnt := some cnt) h rfl hn hw hm⟩,
    fun hn => ⟨h1 hn, k1 hn⟩, fun hn hw hm => ⟨h2 hn hw hm, k2 hn hw hm⟩, fun hn hw => ⟨h3 hn hw, k3 hn hw⟩⟩

/-! ## The bytes of a store (R167) -/

section
variable {fd : BitVec 32} {n : Nat} {v : VReg} {m : BitVec 1024}

/-- The bytes of one element. -/
def elementStored (fd : BitVec 32) (n : Nat) (v : VReg) (m : BitVec 1024) (e : Nat) : List (Option Byte) :=
  if m.getLsbD e then (leBytes n (narrow fd (el v e)).1).map some else tab n fun _ => none

theorem length_elementStored (e : Nat) : (elementStored fd n v m e).length = n := by
  unfold elementStored
  split <;> simp [leBytes]

theorem vstgBytes_eq : vstgBytes fd n v m = (List.range 1024).flatMap (elementStored fd n v m) := by
  rw [← tab_id]
  rfl

theorem length_vstgBytes : (vstgBytes fd n v m).length = 1024 * n := by
  rw [vstgBytes_eq, List.length_flatMap]
  simp only [length_elementStored, List.map_const', List.length_range, List.sum_replicate, smul_eq_mul]

theorem getD_vstgBytes {e j : Nat} (he : e < 1024) (hj : j < n) : (vstgBytes fd n v m).getD (e * n + j) none =
    if m.getLsbD e then some (BitVec.ofNat 8 ((narrow fd (el v e)).1 / 2 ^ (8 * j))) else none := by
  rw [vstgBytes_eq, List.getD_eq_getElem?_getD, getElem?_flatMap_blocks length_elementStored he hj, elementStored]
  cases m.getLsbD e
  · rw [if_neg Bool.false_ne_true, getElem?_tab, if_pos hj]
    rfl
  · rw [if_pos rfl, List.getElem?_map, leBytes, getElem?_tab, if_pos hj]
    rfl

end

/-! ## Granules (R245) -/

/-- Chunks of 64 joined again. -/
theorem flatMap_chunks {α : Type} (l : List α) (k : Nat) :
    ((List.range k).flatMap fun i => (l.drop (64 * i)).take 64) = l.take (64 * k) := by
  induction k with
  | zero => simp
  | succ k ih =>
    rw [List.range_succ, List.flatMap_append, ih, List.flatMap_singleton, Nat.mul_succ, List.take_add]

section
variable {va : Nat} {l : List (Option Byte)}

/-- The granules after the first, which reaches up to an aligned address. -/
def laterGranules (va : Nat) (l : List (Option Byte)) : List (Nat × List (Option Byte)) :=
  let first := 64 - va % 64
  (List.range (((l.drop first).length + 63) / 64)).map fun i => (va + first + 64 * i, ((l.drop first).drop (64 * i)).take 64)

theorem granules_eq : granules va l = (va, l.take (64 - va % 64)) :: laterGranules va l := by
  rw [granules, laterGranules, Laws.Network.tab_eq_map]

theorem flatMap_laterGranules_take {k : Nat} (hk : k ≤ (laterGranules va l).length) :
    ((laterGranules va l).take k).flatMap (fun g => g.2) = (l.drop (64 - va % 64)).take (64 * k) := by
  have hle : k ≤ ((l.drop (64 - va % 64)).length + 63) / 64 := by simpa [laterGranules] using hk
  rw [laterGranules, ← List.map_take, List.take_range, min_eq_left hle, List.flatMap_map, flatMap_chunks]

/-- Together the granules hold the bytes. -/
theorem flatMap_granules : (granules va l).flatMap (fun g => g.2) = l := by
  have hall := flatMap_laterGranules_take (va := va) (l := l) le_rfl
  have hlen : (l.drop (64 - va % 64)).length ≤ 64 * (laterGranules va l).length := by
    simp only [laterGranules, List.length_map, List.length_range]
    omega
  rw [List.take_length, List.take_of_length_le hlen] at hall
  rw [granules_eq, List.flatMap_cons, hall, List.take_append_drop]

/-- Each granule stands behind the bytes of those before it. -/
theorem granule_address {k : Nat} {g : Nat × List (Option Byte)} (hg : (granules va l)[k]? = some g) :
    g.1 = va + (((granules va l).take k).flatMap fun g => g.2).length := by
  rw [granules_eq] at hg ⊢
  cases k with
  | zero =>
    obtain rfl := Option.some.inj hg
    rfl
  | succ k =>
    rw [List.getElem?_cons_succ] at hg
    have hk := (List.getElem?_eq_some_iff.1 hg).1
    have hk' : k < ((l.drop (64 - va % 64)).length + 63) / 64 := by simpa [laterGranules] using hk
    have hva : g.1 = va + (64 - va % 64) + 64 * k := by
      rw [laterGranules, List.getElem?_map, List.getElem?_range hk'] at hg
      exact (congrArg Prod.fst (Option.some.inj hg)).symm
    rw [List.take_succ_cons, List.flatMap_cons, List.length_append, flatMap_laterGranules_take hk.le, hva, List.length_take,
      List.length_take]
    rw [List.length_drop] at hk' ⊢
    omega

end

/-! ## The entries of a store (R125, R167) -/

/-- Entry `i` of a store, which holds granule `g`; the first stands for all the room that the store takes. -/
def storeEntry (x : Iss) (ac : ACls) (need i : Nat) (g : Nat × List (Option Byte)) : Egress :=
  { va := g.1, bytes := g.2, ac := ac, iss := x.now, word := x.w, baddr := x.core.pc, cap := if i = 0 then need else 0,
    inPath := false, failed := none }

def storeEntries (x : Iss) (ac : ACls) (need : Nat) (gs : List (Nat × List (Option Byte))) : List Egress :=
  gs.mapIdx (storeEntry x ac need)

section
variable {x : Iss} {ac : ACls} {need : Nat} {gs : List (Nat × List (Option Byte))}

theorem bytes_storeEntries : (storeEntries x ac need gs).flatMap (fun e => e.bytes) = gs.flatMap fun g => g.2 := by
  rw [storeEntries, List.flatMap_def, List.flatMap_def]
  congr 1
  refine List.ext_getElem? fun k => ?_
  rw [List.getElem?_map, List.getElem?_mapIdx, List.getElem?_map, Option.map_map]
  rfl

theorem take_storeEntries (k : Nat) : (storeEntries x ac need gs).take k = storeEntries x ac need (gs.take k) := by
  refine List.ext_getElem? fun j => ?_
  rw [storeEntries, storeEntries, List.getElem?_take, List.getElem?_mapIdx, List.getElem?_mapIdx, List.getElem?_take]
  split <;> rfl

theorem getElem?_storeEntries {k : Nat} {e : Egress} (h : (storeEntries x ac need gs)[k]? = some e) :
    ∃ g, gs[k]? = some g ∧ e = storeEntry x ac need k g := by
  rw [storeEntries, List.getElem?_mapIdx, Option.map_eq_some_iff] at h
  obtain ⟨g, hg, rfl⟩ := h
  exact ⟨g, hg, rfl⟩

theorem mem_storeEntries {e : Egress} (h : e ∈ storeEntries x ac need gs) : e.inPath = false ∧ e.iss = x.now ∧ e.ac = ac ∧
    e.word = x.w ∧ e.baddr = x.core.pc ∧ e.failed = none := by
  obtain ⟨k, hk⟩ := List.mem_iff_getElem?.1 h
  obtain ⟨g, -, rfl⟩ := getElem?_storeEntries hk
  exact ⟨rfl, rfl, rfl, rfl, rfl, rfl⟩

/-- The first entry takes the room, the others none. -/
theorem room_storeEntries (g : Nat × List (Option Byte)) :
    (((storeEntries x ac need (g :: gs)).filter fun e => !e.inPath).map (·.cap)).sum = need := by
  have hall : (storeEntries x ac need (g :: gs)).filter (fun e => !e.inPath) = storeEntries x ac need (g :: gs) :=
    List.filter_eq_self.2 fun e he => by rw [(mem_storeEntries he).1]; rfl
  have hrest : ((gs.mapIdx fun i => storeEntry x ac need (i + 1)).map (·.cap)).sum = 0 := by
    refine List.sum_eq_zero fun c hc => ?_
    obtain ⟨e, he, rfl⟩ := List.mem_map.1 hc
    obtain ⟨i, hi, rfl⟩ := List.mem_mapIdx.1 he
    rfl
  rw [hall, storeEntries, List.mapIdx_cons, List.map_cons, List.sum_cons, hrest]
  rfl

end

/-! ## Stores (R167) -/

/-- What a store of G leaves where its entries have room: `m` names the active elements, `es` are the entries, `fl` the flags. -/
def stored (s : State) (x : Iss) (m : BitVec 1024) (fd : BitVec 32) (va n : Nat) (ac : ACls) (es : List Egress) (fl : Fl) : Core :=
  let c := s.payG x.ag (s.ctx x.ag) .any ((vecUnits va n 4096 m).map fun g => (g, 0))
    { x.core with egress := x.core.egress ++ es }
  (if m = 0 then c else c.fetch x 6 (.vstg fd m) va ac).sched x 6 .flagsOnly fl

/-- The flags of narrowing the active elements. -/
def storeFlags (fd : BitVec 32) (v : VReg) (m : BitVec 1024) : Fl :=
  orFl ((tab 1024 id).map fun e => if m.getLsbD e then (narrow fd (el v e)).2 else 0)

section
variable {s : State} {x : Iss} {pd : Pd} {d : VRegN} {f : FReg} {ac : ACls} {t : SReg} {n : Nat}

theorem exec_vstg : exec (.vstg pd d f ac t) s = vecWord pd (some 0x06) s fun x m =>
    onAddress (gBase (x.core.rf f) (x.core.rs t)) fun v =>
      if 8192 < x.core.egressUsed + (gBytes (x.core.rf f)).getD 4 * 128 then .exc { cause := 0x0D, addr := v }
      else .done (stored s x m (x.core.rf f) v ((gBytes (x.core.rf f)).getD 4) ac
        (storeEntries x ac ((gBytes (x.core.rf f)).getD 4 * 128)
          (granules v (vstgBytes (x.core.rf f) ((gBytes (x.core.rf f)).getD 4) (x.core.rv d) m)))
        (storeFlags (x.core.rf f) (x.core.rv d) m)) := rfl

/-- What the walk and the flags of a store leave of a core. -/
theorem walked_frame (c : Core) (x : Iss) (m : BitVec 1024) (k : FetchKind) (va : Nat) (ac : ACls) (fl : Fl) :
    let c' := (if m = 0 then c else c.fetch x 6 k va ac).sched x 6 .flagsOnly fl
    c'.pend = c.pend ++ [due { x with core := c } (6, .flagsOnly, fl)] ∧
    (m = 0 → c'.fetches = c.fetches) ∧
    (m ≠ 0 → ∃ g, c'.fetches = c.fetches ++ [g] ∧ g.due = x.now + 6 ∧ g.kind = k ∧ g.va = va ∧ g.ac = ac ∧ g.st = .walking) ∧
    c' = { c with pend := c'.pend, fetches := c'.fetches, nextId := c'.nextId } := by
  by_cases hm : m = 0
  · rw [if_pos hm]
    exact ⟨rfl, fun _ => rfl, fun h => absurd hm h, rfl⟩
  · rw [if_neg hm]
    exact ⟨rfl, fun h => absurd h hm, fun _ => ⟨_, rfl, rfl, rfl, rfl, rfl, rfl⟩, rfl⟩

/-- A core that takes entries and pays, and then changes what it has scheduled and fetches. -/
theorem frame_trans {k c c' : Core} {es : List Egress} (h : PaysOnly { k with egress := es } c)
    (h' : c' = { c with pend := c'.pend, fetches := c'.fetches, nextId := c'.nextId }) :
    c'.egress = es ∧ c' = { k with egress := c'.egress, pend := c'.pend, fetches := c'.fetches, nextId := c'.nextId,
                                   chg := c'.chg, walked := c'.walked } := by
  obtain ⟨ch, wk, rfl⟩ : ∃ ch wk, c = { k with egress := es, chg := ch, walked := wk } := ⟨_, _, h⟩
  have hegress : c'.egress = es := by rw [h']
  have hchg : c'.chg = ch := by rw [h']
  have hwalked : c'.walked = wk := by rw [h']
  rw [hegress, hchg, hwalked]
  exact ⟨rfl, h'⟩

/-- What a store that has room changes of its core. -/
theorem stored_frame (m : BitVec 1024) (fd : BitVec 32) (va n : Nat) (ac : ACls) (es : List Egress) (fl : Fl) :
    let c := stored s (paid x pd 0x06) m fd va n ac es fl
    c.egress = x.core.egress ++ es ∧ c.pend = x.core.pend ++ [due x (6, .flagsOnly, fl)] ∧
    (m = 0 → c.fetches = x.core.fetches) ∧
    (m ≠ 0 → ∃ g, c.fetches = x.core.fetches ++ [g] ∧ g.due = x.now + 6 ∧ g.kind = .vstg fd m ∧ g.va = va ∧ g.ac = ac ∧
      g.st = .walking) ∧
    c = { x.core with egress := c.egress, pend := c.pend, fetches := c.fetches, nextId := c.nextId, chg := c.chg,
                      walked := c.walked } := by
  obtain ⟨p, hp⟩ : ∃ p, p = s.payG x.ag (s.ctx x.ag) .any ((vecUnits va n 4096 m).map fun g => (g, 0))
      { (paid x pd 0x06).core with egress := x.core.egress ++ es } := ⟨_, rfl⟩
  have hpays : PaysOnly { (paid x pd 0x06).core with egress := x.core.egress ++ es } p := hp ▸ paysOnly_payG ..
  have hstored : stored s (paid x pd 0x06) m fd va n ac es fl =
      (if m = 0 then p else p.fetch (paid x pd 0x06) 6 (.vstg fd m) va ac).sched (paid x pd 0x06) 6 .flagsOnly fl := by
    rw [hp]
    rfl
  obtain ⟨hpend, hnone, hsome, hframe⟩ := walked_frame p (paid x pd 0x06) m (.vstg fd m) va ac fl
  rw [← hstored] at hpend hnone hsome hframe
  obtain ⟨hegress, hall⟩ := frame_trans hpays hframe
  have hbefore : p.pend = x.core.pend ∧ p.fetches = x.core.fetches ∧
      due { (paid x pd 0x06) with core := p } (6, .flagsOnly, fl) = due x (6, .flagsOnly, fl) := by
    rw [hpays]
    exact ⟨rfl, rfl, rfl⟩
  obtain ⟨hb1, hb2, hb3⟩ := hbefore
  rw [hb1, hb3] at hpend
  rw [hb2] at hnone hsome
  exact ⟨hegress, hpend, hnone, hsome, hall⟩

end

theorem vectorGlobalStore : VectorGlobalStore := by
  intro s x pd d t f ac n h fd V m code
  obtain ⟨h1, h2, h3⟩ := gBase_faults (i := .vstg pd d f ac t) (n := n) h exec_vstg
  refine ⟨fun hn hw hm hroom => ?_, fun hn hw hm hfull => ?_, h1, h2, h3⟩
  · have hsize : (gBytes ((paid x pd 0x06).core.rf f)).getD 4 = n := congrArg (Option.getD · 4) hn
    obtain ⟨bs, hbs⟩ : ∃ bs, bs = vstgBytes fd n (x.core.rv d) m := ⟨_, rfl⟩
    obtain ⟨es, hes⟩ : ∃ es, es = storeEntries x ac (n * 128) (granules V bs) := ⟨_, rfl⟩
    obtain ⟨hegress, hpend, hnone, hsome, hframe⟩ :=
      stored_frame (s := s) (x := x) (pd := pd) m fd V n ac es (storeFlags fd (x.core.rv d) m)
    have hbytes : (es.flatMap fun e => e.bytes) = bs := by rw [hes, bytes_storeEntries, flatMap_granules]
    refine ⟨stored s (paid x pd 0x06) m fd V n ac es (storeFlags fd (x.core.rv d) m), es, storeFlags fd (x.core.rv d) m,
      leaves_of_gBase h exec_vstg hn hw hm ?_, hegress, ?_, fun e he => ?_, fun k e he => ?_, ?_, fun e j he hj => ?_, hpend,
      getLsbD_elementFlags m fun e => (code e).2, hnone, hsome, hframe⟩
    · rw [hsize, hes, hbs]
      exact if_neg (Nat.not_lt.2 hroom)
    · rw [Core.egressUsed, hegress, List.filter_append, List.map_append, List.sum_append, hes, granules_eq, room_storeEntries]
      rfl
    · rw [hes] at he
      exact mem_storeEntries he
    · rw [hes] at he
      obtain ⟨g, hg, rfl⟩ := getElem?_storeEntries he
      rw [hes, take_storeEntries, bytes_storeEntries]
      exact granule_address hg
    · rw [hbytes, hbs, length_vstgBytes]
    · rw [hbytes, hbs]
      exact getD_vstgBytes he hj
  · have hsize : (gBytes ((paid x pd 0x06).core.rf f)).getD 4 = n := congrArg (Option.getD · 4) hn
    refine raises_of_vecWord h exec_vstg ((congrArg (onAddress · _) (gBase_ok hn hw hm)).trans ?_)
    rw [hsize]
    exact if_pos hfull

/-- Settles O21: the sizes of codes, what a load leaves, and the entries, flags and walk of a store. -/
theorem vectorGlobalMemory : Obligations.VectorGlobalMemory := ⟨codeBytes, vectorGlobalLoad, vectorGlobalStore⟩

end Sys2Proof.Proofs.VectorSlot
end

section
/-!
The tables of the special-function unit (R152): an entry's coefficients, the value that the quadratic gives, how near it stands
to the parabola through the three values, and when it is positive.
-/

namespace Sys2Proof.Proofs.VectorSlot

open Sys2Proof Sys2Proof.Machine Sys2Proof.Claims
open Sys2Proof.Proofs.NumberFormats

/-! ## Coefficients -/

/-- A coefficient is its exact value, rounded to nearest even, with its sign. -/
theorem rneShift_rounds (a k : Int) (neg : Bool) : RoundInt .rne neg (|(a : ℚ)| * 2 ^ (-k)) (rneShift a k).natAbs ∧
    (rneShift a k < 0 → a < 0) ∧ (0 < rneShift a k → 0 < a) := by
  obtain ⟨r, hr⟩ : ∃ r, r = rndInt (a.natAbs * 2 ^ (-k).toNat) (2 ^ k.toNat) .rne false := ⟨_, rfl⟩
  have hround : RoundInt .rne neg (|(a : ℚ)| * 2 ^ (-k)) r := by
    have h := roundInt_rndInt (a.natAbs * 2 ^ (-k).toNat) (2 ^ k.toNat) (by positivity) .rne false
    have hq := scaled_div a.natAbs 1 (-k)
    rw [neg_neg, one_mul, Nat.cast_one, div_one, Nat.cast_natAbs, Int.cast_abs] at hq
    rwa [hq, ← hr] at h
  have hshift : rneShift a k = if a < 0 then -(r : Int) else r := by rw [hr]; rfl
  rw [hshift]
  split
  next ha => exact ⟨by rwa [Int.natAbs_neg, Int.natAbs_natCast], fun _ => ha, fun h => by omega⟩
  next ha =>
    refine ⟨by rwa [Int.natAbs_natCast], fun h => by omega, fun h => lt_of_le_of_ne (not_lt.1 ha) ?_⟩
    rintro rfl
    have h0 := roundInt_whole (k := r) (m := 0) (n := neg) (mode := .rne) (by simpa using hround)
    omega

/-- A coefficient is within half a unit of its exact value. -/
theorem rneShift_near (a k : Int) : |(a : ℚ) * 2 ^ (-k) - rneShift a k| ≤ 1 / 2 := by
  obtain ⟨hround, hneg, hpos⟩ := rneShift_rounds a k false
  have hnear : |(|(a : ℚ)| * 2 ^ (-k)) - ((rneShift a k).natAbs : ℚ)| ≤ 1 / 2 := hround.elim le_of_lt fun h => h.1.le
  rw [Nat.cast_natAbs, Int.cast_abs] at hnear
  rcases lt_trichotomy a 0 with h | rfl | h
  · have hle : ((rneShift a k : Int) : ℚ) ≤ 0 := by exact_mod_cast not_lt.1 fun h' => (hpos h').not_gt h
    rw [abs_of_neg (by exact_mod_cast h : (a : ℚ) < 0), abs_of_nonpos hle] at hnear
    rw [← abs_neg]
    convert hnear using 2
    ring
  · simpa using hnear
  · have hge : (0 : ℚ) ≤ (rneShift a k : Int) := by exact_mod_cast not_lt.1 fun h' => (hneg h').not_gt h
    rwa [abs_of_pos (by exact_mod_cast h : (0 : ℚ) < a), abs_of_nonneg hge] at hnear

/-! ## Entries -/

/-- The exponent of an entry. -/
def entryExp (g0 g1 : Int) : Int := (Nat.log2 (max g0.natAbs g1.natAbs) : Int) - 768

theorem sfuEntry_eq (g0 gh g1 : Int) : sfuEntry g0 gh g1 = (entryExp g0 g1, rneShift g0 (741 + entryExp g0 g1),
    rneShift (-3 * g0 + 4 * gh - g1) (747 + entryExp g0 g1), rneShift (2 * g0 - 4 * gh + 2 * g1) (753 + entryExp g0 g1)) := rfl

theorem entryExp_bounds {g0 g1 : Int} (h : g0 ≠ 0 ∨ g1 ≠ 0) :
    (2 : ℚ) ^ entryExp g0 g1 ≤ max |(g0 : ℚ)| |(g1 : ℚ)| * 2 ^ (-768 : Int) ∧
    max |(g0 : ℚ)| |(g1 : ℚ)| * 2 ^ (-768 : Int) < 2 ^ (entryExp g0 g1 + 1) := by
  have hmax : max |(g0 : ℚ)| |(g1 : ℚ)| = (max g0.natAbs g1.natAbs : Nat) := by
    rw [Nat.cast_max, Nat.cast_natAbs, Nat.cast_natAbs, Int.cast_abs, Int.cast_abs]
  obtain ⟨hlow, hhigh⟩ := log2_bounds (n := max g0.natAbs g1.natAbs) (by omega)
  have hsplit : entryExp g0 g1 + 1 = (Nat.log2 (max g0.natAbs g1.natAbs) : Int) + 1 + -768 := by rw [entryExp]; ring
  rw [hmax, hsplit, entryExp, sub_eq_add_neg, zpow_add₀ two_ne_zero, zpow_add₀ two_ne_zero]
  exact ⟨by gcongr, by gcongr⟩

theorem tableEntry : TableEntry := by
  intro g0 gh g1 h
  obtain ⟨hlow, hhigh⟩ := entryExp_bounds h
  have hcoef (v k : Int) : RoundInt .rne (decide (v < 0)) (|(v : ℚ)| * 2 ^ (-768 : Int) * 2 ^ (k - entryExp g0 g1))
      (rneShift v (768 - k + entryExp g0 g1)).natAbs ∧ (rneShift v (768 - k + entryExp g0 g1) < 0 → v < 0) ∧
      (0 < rneShift v (768 - k + entryExp g0 g1) → 0 < v) := by
    have hround := rneShift_rounds v (768 - k + entryExp g0 g1) (decide (v < 0))
    rwa [show -(768 - k + entryExp g0 g1) = -768 + (k - entryExp g0 g1) by ring, zpow_add₀ two_ne_zero, ← mul_assoc] at hround
  exact ⟨hlow, hhigh, hcoef g0 27, hcoef (-3 * g0 + 4 * gh - g1) 21, hcoef (2 * g0 - 4 * gh + 2 * g1) 15⟩

/-! ## The quadratic -/

/-- The value of a function at point `h` of 256, without the noise of its evaluation. -/
def sample (g : Int → Int) (h : Nat) : Int := fxClean (g ((h : Int) * 2 ^ 760))

/-- The value that an entry gives at u = n / 2^16. -/
def entryVal (t : Int × Int × Int × Int) (n : Nat) : ℚ :=
  (t.2.1 * 2 ^ (-27 : Int) + t.2.2.1 * 2 ^ (-21 : Int) * (n / 2 ^ 16) + t.2.2.2 * 2 ^ (-15 : Int) * (n / 2 ^ 16) ^ 2) * 2 ^ t.1

/-- The entry of a segment. -/
def segment (g : Int → Int) (i : Nat) : Int × Int × Int × Int :=
  sfuEntry (sample g (2 * i)) (sample g (2 * i + 1)) (sample g (2 * i + 2))

theorem quad_eq (g : Int → Int) (i n : Nat) : quad g i n = entryVal (segment g i) n := rfl

theorem sfuAt_eq (g : Int → Int) (i n : Nat) : sfuAt g i n =
    (Num.ofInt ((segment g i).2.1 * 2 ^ 20 + (segment g i).2.2.1 * n * 2 ^ 10 + (segment g i).2.2.2 * n * n)).scale
      ((segment g i).1 - 47) := rfl

theorem hasValue_scale {x : Machine.Num} {q : ℚ} {n : Bool} (h : HasValue x q n) (k : Int) :
    HasValue (x.scale k) (q * 2 ^ k) n := by
  obtain ⟨num, den, exp, rfl, hd, rfl⟩ := h
  exact ⟨num, den, exp + k, rfl, hd, by rw [zpow_add₀ two_ne_zero]; ring⟩

/-- The unit's interpolated value is that of the quadratic. -/
theorem sfuAt_hasValue (g : Int → Int) (i n : Nat) : HasValue (sfuAt g i n) (quad g i n) (decide (quad g i n < 0)) := by
  obtain ⟨v, hv⟩ : ∃ v, v = (segment g i).2.1 * 2 ^ 20 + (segment g i).2.2.1 * n * 2 ^ 10 + (segment g i).2.2.2 * n * n :=
    ⟨_, rfl⟩
  have hval : quad g i n = v * 2 ^ ((segment g i).1 - 47) := by
    rw [quad_eq, entryVal, hv, sub_eq_add_neg, add_comm, zpow_add₀ two_ne_zero]
    push_cast
    norm_num
    ring
  have hsign : quad g i n < 0 ↔ v < 0 := by
    rw [hval, mul_neg_iff, or_iff_right fun h => absurd h.2 (not_lt.2 (by positivity)), and_iff_left (by positivity), Int.cast_lt_zero]
  rw [sfuAt_eq, ← hv, decide_eq_decide.2 hsign, hval]
  exact hasValue_scale (ofInt_hasValue v) _

theorem sfuQ_hasValue (g : Int → Int) (m : Nat) : HasValue (sfuQ g m) (quadAt g m) (decide (quadAt g m < 0)) :=
  sfuAt_hasValue g _ _

/-- The parabola through three values, at 0, 1/2 and 1. -/
def parabola (g0 gh g1 u : ℚ) : ℚ := g0 + (-3 * g0 + 4 * gh - g1) * u + (2 * g0 - 4 * gh + 2 * g1) * u ^ 2

/-- What the rounding of the coefficients changes is small beside the greater end value. -/
theorem quad_near {g : Int → Int} {i n : Nat} (hn : n ≤ 2 ^ 16) :
    |quad g i n - parabola (sample g (2 * i)) (sample g (2 * i + 1)) (sample g (2 * i + 2)) (n / 2 ^ 16) * 2 ^ (-768 : Int)| ≤
      2 ^ entryExp (sample g (2 * i)) (sample g (2 * i + 2)) / 2 ^ 15 := by
  obtain ⟨a, ha⟩ : ∃ a, a = sample g (2 * i) := ⟨_, rfl⟩
  obtain ⟨b, hb⟩ : ∃ b, b = sample g (2 * i + 1) := ⟨_, rfl⟩
  obtain ⟨c, hc⟩ : ∃ c, c = sample g (2 * i + 2) := ⟨_, rfl⟩
  obtain ⟨E, hE⟩ : ∃ E, E = entryExp a c := ⟨_, rfl⟩
  obtain ⟨u, hu⟩ : ∃ u : ℚ, u = n / 2 ^ 16 := ⟨_, rfl⟩
  have hu0 : 0 ≤ u := by rw [hu]; positivity
  have hu1 : u ≤ 1 := by
    rw [hu, div_le_one (by positivity)]
    exact_mod_cast hn
  have hentry : quad g i n = (rneShift a (741 + E) * 2 ^ (-27 : Int) + rneShift (-3 * a + 4 * b - c) (747 + E) * 2 ^ (-21 : Int) * u +
      rneShift (2 * a - 4 * b + 2 * c) (753 + E) * 2 ^ (-15 : Int) * u ^ 2) * 2 ^ E := by
    rw [quad_eq, segment, ← ha, ← hb, ← hc, sfuEntry_eq, entryVal, ← hE, ← hu]
  have hcoef (v k : Int) : ∃ d : ℚ, |d| ≤ 1 / 2 ∧
      (rneShift v (768 - k + E) : ℚ) * 2 ^ (-k) * 2 ^ E = v * 2 ^ (-768 : Int) - d * 2 ^ (-k) * 2 ^ E := by
    refine ⟨v * 2 ^ (-(768 - k + E)) - rneShift v (768 - k + E), rneShift_near v _, ?_⟩
    have hpow : (2 : ℚ) ^ (-(768 - k + E)) * 2 ^ (-k) * 2 ^ E = 2 ^ (-768 : Int) := by
      rw [← zpow_add₀ two_ne_zero, ← zpow_add₀ two_ne_zero]; congr 1; ring
    rw [← hpow]; ring
  obtain ⟨d0, hd0, h0⟩ := hcoef a 27
  obtain ⟨d1, hd1, h1⟩ := hcoef (-3 * a + 4 * b - c) 21
  obtain ⟨d2, hd2, h2⟩ := hcoef (2 * a - 4 * b + 2 * c) 15
  have hdiff : quad g i n - parabola a b c u * 2 ^ (-768 : Int) =
      -(d0 * 2 ^ (-27 : Int) + d1 * 2 ^ (-21 : Int) * u + d2 * 2 ^ (-15 : Int) * u ^ 2) * 2 ^ E := by
    rw [hentry, add_mul, add_mul]
    have h1' := congrArg (· * u) h1
    have h2' := congrArg (· * u ^ 2) h2
    rw [parabola]
    generalize (2 : ℚ) ^ (-768 : Int) = unit at h0 h1' h2' ⊢
    push_cast at h1' h2'
    norm_num only at h0 h1' h2'
    norm_num only
    linear_combination h0 + h1' + h2'
  rw [← ha, ← hb, ← hc, ← hE, ← hu, hdiff, abs_mul, abs_neg, abs_of_pos (by positivity : (0 : ℚ) < 2 ^ E),
    div_eq_mul_inv, mul_comm]
  gcongr
  have hu2 : u ^ 2 ≤ 1 := pow_le_one₀ hu0 hu1
  calc |d0 * 2 ^ (-27 : Int) + d1 * 2 ^ (-21 : Int) * u + d2 * 2 ^ (-15 : Int) * u ^ 2|
      ≤ |d0| * 2 ^ (-27 : Int) + |d1| * 2 ^ (-21 : Int) * u + |d2| * 2 ^ (-15 : Int) * u ^ 2 := by
        refine (abs_add_le _ _).trans (add_le_add ((abs_add_le _ _).trans (add_le_add ?_ ?_)) ?_) <;> simp [abs_mul, abs_of_nonneg hu0]
    _ ≤ 1 / 2 * 2 ^ (-27 : Int) + 1 / 2 * 2 ^ (-21 : Int) * 1 + 1 / 2 * 2 ^ (-15 : Int) * 1 := by gcongr
    _ ≤ (2 ^ 15)⁻¹ := by norm_num

/-! ## Positive values -/

/-- Where no value is more than 8 times another, the parabola stays positive. -/
theorem parabola_ge {A g0 gh g1 u : ℚ} (hA : 0 ≤ A) (h0 : A ≤ g0 ∧ g0 ≤ 8 * A) (hh : A ≤ gh) (h1 : A ≤ g1 ∧ g1 ≤ 8 * A)
    (hu0 : 0 ≤ u) (hu1 : u ≤ 1) : A / 8 ≤ parabola g0 gh g1 u := by
  have hform : parabola g0 gh g1 u = g0 * ((1 - u) * (1 - 2 * u)) + 4 * gh * (u * (1 - u)) - g1 * (u * (1 - 2 * u)) := by
    rw [parabola]; ring
  have hmid : A * (u * (1 - u)) ≤ gh * (u * (1 - u)) := by
    have := mul_nonneg hu0 (sub_nonneg.2 hu1)
    gcongr
  rcases le_total u (1 / 2) with hu | hu
  · have hlow : A * ((1 - u) * (1 - 2 * u)) ≤ g0 * ((1 - u) * (1 - 2 * u)) := by
      have := mul_nonneg (sub_nonneg.2 hu1) (by linarith : 0 ≤ 1 - 2 * u)
      gcongr
      exact h0.1
    have hhigh : g1 * (u * (1 - 2 * u)) ≤ 8 * A * (u * (1 - 2 * u)) := by
      have := mul_nonneg hu0 (by linarith : 0 ≤ 1 - 2 * u)
      gcongr
      exact h1.2
    rw [hform]
    nlinarith [mul_nonneg hA (sq_nonneg (u - 1 / 4))]
  · have hlow : A * (u * (2 * u - 1)) ≤ g1 * (u * (2 * u - 1)) := by
      have := mul_nonneg hu0 (by linarith : 0 ≤ 2 * u - 1)
      gcongr
      exact h1.1
    have hhigh : g0 * ((1 - u) * (2 * u - 1)) ≤ 8 * A * ((1 - u) * (2 * u - 1)) := by
      have := mul_nonneg (sub_nonneg.2 hu1) (by linarith : 0 ≤ 2 * u - 1)
      gcongr
      exact h0.2
    rw [hform]
    nlinarith [mul_nonneg hA (sq_nonneg (u - 3 / 4))]

theorem fxClean_near (a : Int) : a - 2 ^ 63 ≤ fxClean a ∧ fxClean a ≤ a + 2 ^ 63 := by
  rw [fxClean]
  omega

/-- A segment whose values lie in [A, 7A] gives a positive value. -/
theorem quad_pos {g : Int → Int} {i n : Nat} {A : Int} (hA : 2 ^ 80 ≤ A) (hn : n ≤ 2 ^ 16)
    (hg : ∀ h : Nat, 2 * i ≤ h → h ≤ 2 * i + 2 → A ≤ g ((h : Int) * 2 ^ 760) ∧ g ((h : Int) * 2 ^ 760) ≤ 7 * A) :
    0 < quad g i n := by
  have hsample : ∀ h : Nat, 2 * i ≤ h → h ≤ 2 * i + 2 → A - 2 ^ 63 ≤ sample g h ∧ sample g h ≤ 8 * (A - 2 ^ 63) := by
    intro h hlow hhigh
    obtain ⟨h1, h2⟩ := hg h hlow hhigh
    obtain ⟨h3, h4⟩ := fxClean_near (g ((h : Int) * 2 ^ 760))
    rw [sample]
    omega
  obtain ⟨a, ha⟩ : ∃ a, a = sample g (2 * i) := ⟨_, rfl⟩
  obtain ⟨b, hb⟩ : ∃ b, b = sample g (2 * i + 1) := ⟨_, rfl⟩
  obtain ⟨c, hc⟩ : ∃ c, c = sample g (2 * i + 2) := ⟨_, rfl⟩
  obtain ⟨B, hB⟩ : ∃ B, B = A - 2 ^ 63 := ⟨_, rfl⟩
  have hBpos : 0 < B := by omega
  have ha' := hsample (2 * i) (by omega) (by omega)
  have hb' := hsample (2 * i + 1) (by omega) (by omega)
  have hc' := hsample (2 * i + 2) (by omega) (by omega)
  rw [← ha, ← hB] at ha'
  rw [← hb, ← hB] at hb'
  rw [← hc, ← hB] at hc'
  have hne : a ≠ 0 ∨ c ≠ 0 := .inl (by omega)
  have hnear := quad_near (g := g) (i := i) hn
  have hexp := (entryExp_bounds hne).1
  rw [← ha, ← hb, ← hc] at hnear
  have hunit : (0 : ℚ) < 2 ^ (-768 : Int) := by positivity
  have cast {x : Int} (h : B ≤ x ∧ x ≤ 8 * B) : (B : ℚ) ≤ x ∧ (x : ℚ) ≤ 8 * B := by exact_mod_cast h
  have hBq : (0 : ℚ) < B := by exact_mod_cast hBpos
  have hmost : max |(a : ℚ)| |(c : ℚ)| ≤ 8 * B := by
    obtain ⟨a1, a2⟩ := cast ha'
    obtain ⟨c1, c2⟩ := cast hc'
    rw [abs_of_nonneg (by linarith), abs_of_nonneg (by linarith)]
    exact max_le a2 c2
  have hu1 : (n : ℚ) / 2 ^ 16 ≤ 1 := by
    rw [div_le_one (by positivity)]
    exact_mod_cast hn
  have hpar := mul_le_mul_of_nonneg_right
    (parabola_ge hBq.le (cast ha') (cast hb').1 (cast hc') (by positivity : (0 : ℚ) ≤ n / 2 ^ 16) hu1) hunit.le
  have herr := hexp.trans (mul_le_mul_of_nonneg_right hmost hunit.le)
  have hscaled : 0 < (B : ℚ) * 2 ^ (-768 : Int) := by positivity
  have hlow := (abs_le.1 hnear).1
  generalize (2 : ℚ) ^ (-768 : Int) = unit at *
  generalize (2 : ℚ) ^ entryExp a c = top at *
  norm_num only at hlow
  linarith

theorem quadAt_pos {g : Int → Int} {m : Nat} {A : Int} (hA : 2 ^ 80 ≤ A)
    (hg : ∀ h : Nat, 2 * (m / 2 ^ 16) ≤ h → h ≤ 2 * (m / 2 ^ 16) + 2 →
      A ≤ g ((h : Int) * 2 ^ 760) ∧ g ((h : Int) * 2 ^ 760) ≤ 7 * A) : 0 < quadAt g m :=
  quad_pos hA (Nat.mod_lt _ (by positivity)).le hg

end Sys2Proof.Proofs.VectorSlot
end

section
/-!
Operands of the special-function unit as a binade and a fraction, and roundings at the ends of FP32's range.
-/

namespace Sys2Proof.Proofs.VectorSlot

open Sys2Proof Sys2Proof.Machine Sys2Proof.Claims
open Sys2Proof.Proofs.NumberFormats

/-! ## Operands -/

/-- |x| = 2^k × (1 + m / 2^23). -/
def Operand (b : BitVec 32) (k : Int) (m : Nat) : Prop :=
  IsFin b ∧ m < 2 ^ 23 ∧ |fval b| = (2 ^ 23 + m) * 2 ^ (k - 23)

/-- The operand as the model reads it: `num` × 2^`e`, from which it forms `k` and `m`. -/
def Reads (b : BitVec 32) (k : Int) (m num : Nat) (e : Int) : Prop :=
  f32 b = .fin (b.getLsbD 31) num 1 e ∧ num ≠ 0 ∧ k = (Nat.log2 num : Int) + e ∧ m = num * 2 ^ (23 - Nat.log2 num) - 2 ^ 23

/-- Two significands of 24 bits at their exponents are equal only where both parts are. -/
theorem significand_unique {S T : Nat} {i j : Int} (hS : 2 ^ 23 ≤ S ∧ S < 2 ^ 24) (hT : 2 ^ 23 ≤ T ∧ T < 2 ^ 24)
    (h : (S : ℚ) * 2 ^ i = T * 2 ^ j) : i = j ∧ S = T := by
  have hle {S T : Nat} {i j : Int} (hS : 2 ^ 23 ≤ S) (hT : T < 2 ^ 24) (h : (S : ℚ) * 2 ^ i = T * 2 ^ j) : i ≤ j := by
    have hlt : (2 : ℚ) ^ (23 + i) < 2 ^ (24 + j) := by
      calc (2 : ℚ) ^ (23 + i) = (2 ^ 23 : Nat) * 2 ^ i := by rw [zpow_add₀ two_ne_zero]; norm_cast
        _ ≤ S * 2 ^ i := by gcongr
        _ = T * 2 ^ j := h
        _ < (2 ^ 24 : Nat) * 2 ^ j := by gcongr
        _ = 2 ^ (24 + j) := by rw [zpow_add₀ two_ne_zero]; norm_cast
    have := (zpow_lt_zpow_iff_right₀ one_lt_two).1 hlt
    omega
  obtain rfl := le_antisymm (hle hS.1 hT.2 h) (hle hT.1 hS.2 h.symm)
  exact ⟨rfl, by exact_mod_cast mul_right_cancel₀ (by positivity) h⟩

theorem abs_fval {b : BitVec 32} (hb : IsFin b) {num : Nat} {e : Int} (hf : f32 b = .fin (b.getLsbD 31) num 1 e) :
    fval b = signum (b.getLsbD 31) * (num * 2 ^ e) ∧ |fval b| = num * 2 ^ e := by
  obtain ⟨n, d, x, hx, -, hv⟩ := f32_hasValue hb
  rw [hf] at hx
  injection hx with _ hn hd he
  rw [← hn, ← hd, ← he, Nat.cast_one, div_one] at hv
  exact ⟨hv, by rw [hv, abs_signum_mul _ (by positivity)]⟩

/-- A significand shifted to 24 bits. -/
theorem shifted_significand {num : Nat} (h0 : num ≠ 0) (hlt : num < 2 ^ 24) :
    2 ^ 23 ≤ num * 2 ^ (23 - Nat.log2 num) ∧ num * 2 ^ (23 - Nat.log2 num) < 2 ^ 24 ∧ Nat.log2 num ≤ 23 := by
  have hl : Nat.log2 num < 24 := (Nat.log2_lt h0).2 hlt
  have h1 : 2 ^ Nat.log2 num ≤ num := Nat.log2_self_le h0
  have h2 : num < 2 ^ (Nat.log2 num + 1) := Nat.lt_log2_self
  refine ⟨?_, ?_, by omega⟩
  · calc 2 ^ 23 = 2 ^ Nat.log2 num * 2 ^ (23 - Nat.log2 num) := by rw [← pow_add]; congr 1; omega
      _ ≤ num * 2 ^ (23 - Nat.log2 num) := Nat.mul_le_mul_right _ h1
  · calc num * 2 ^ (23 - Nat.log2 num) < 2 ^ (Nat.log2 num + 1) * 2 ^ (23 - Nat.log2 num) :=
          Nat.mul_lt_mul_of_pos_right h2 (by positivity)
      _ = 2 ^ 24 := by rw [← pow_add]; congr 1; omega

/-- What the model forms is the operand's binade and fraction. -/
theorem operand_formed {b : BitVec 32} (hb : IsFin b) {num : Nat} {e : Int} (hf : f32 b = .fin (b.getLsbD 31) num 1 e)
    (h0 : num ≠ 0) (hlt : num < 2 ^ 24) : Operand b (Nat.log2 num + e) (num * 2 ^ (23 - Nat.log2 num) - 2 ^ 23) := by
  obtain ⟨hlow, hhigh, hl⟩ := shifted_significand h0 hlt
  refine ⟨hb, by omega, ?_⟩
  have hsig : (2 ^ 23 + (num * 2 ^ (23 - Nat.log2 num) - 2 ^ 23 : Nat) : ℚ) = num * 2 ^ (23 - (Nat.log2 num : Int)) := by
    rw [Nat.cast_sub hlow, show (23 - (Nat.log2 num : Int)) = (23 - Nat.log2 num : Nat) by omega, zpow_natCast]
    push_cast
    ring
  rw [hsig, (abs_fval hb hf).2, mul_assoc, ← zpow_add₀ two_ne_zero]
  congr 2
  ring

theorem Operand.reads {b : BitVec 32} {k : Int} {m : Nat} (h : Operand b k m) : ∃ num e, Reads b k m num e := by
  obtain ⟨hb, hm, hv⟩ := h
  obtain ⟨num, e, hf, -, hlt, -⟩ := f32_form hb
  have h0 : num ≠ 0 := by
    rintro rfl
    have hz := (abs_fval hb hf).2
    rw [hv, Nat.cast_zero, zero_mul] at hz
    have : (0 : ℚ) < (2 ^ 23 + m) * 2 ^ (k - 23) := by positivity
    exact this.ne' hz
  obtain ⟨-, hm', hv'⟩ := operand_formed hb hf h0 hlt
  have heq : ((2 ^ 23 + m : Nat) : ℚ) * 2 ^ (k - 23) =
      (2 ^ 23 + (num * 2 ^ (23 - Nat.log2 num) - 2 ^ 23) : Nat) * 2 ^ ((Nat.log2 num : Int) + e - 23) := by
    push_cast
    exact hv.symm.trans hv'
  obtain ⟨h1, h2⟩ := significand_unique (by omega) (by omega) heq
  exact ⟨num, e, hf, h0, by omega, by omega⟩

theorem exists_operand {b : BitVec 32} (hb : IsFin b) (h0 : fval b ≠ 0) : ∃ k m, Operand b k m := by
  obtain ⟨num, e, hf, -, hlt, -⟩ := f32_form hb
  refine ⟨_, _, operand_formed hb hf ?_ hlt⟩
  rintro rfl
  exact h0 (by rw [(abs_fval hb hf).1, Nat.cast_zero, zero_mul, mul_zero])

section
variable {b : BitVec 32} {k : Int} {m : Nat} (h : Operand b k m)
include h

/-- The operand's magnitude lies in its binade. -/
theorem Operand.binade : (2 : ℚ) ^ k ≤ |fval b| ∧ |fval b| < 2 ^ (k + 1) := by
  obtain ⟨-, hm, hv⟩ := h
  have hm' : (m : ℚ) < 2 ^ 23 := by exact_mod_cast hm
  have hlow : (2 : ℚ) ^ k = 2 ^ 23 * 2 ^ (k - 23) := by
    rw [← zpow_natCast, ← zpow_add₀ two_ne_zero]; congr 1; push_cast; ring
  have hhigh : (2 : ℚ) ^ (k + 1) = (2 ^ 23 + 2 ^ 23) * 2 ^ (k - 23) := by
    rw [zpow_add₀ two_ne_zero, hlow]; ring
  rw [hv, hlow, hhigh]
  constructor
  · gcongr
    linarith
  · gcongr

theorem Operand.lt_iff (j : Int) : |fval b| < 2 ^ j ↔ k < j := by
  obtain ⟨hlow, hhigh⟩ := h.binade
  refine ⟨fun hlt => (zpow_lt_zpow_iff_right₀ one_lt_two).1 (hlow.trans_lt hlt), fun hlt => hhigh.trans_le ?_⟩
  exact zpow_le_zpow_right₀ one_le_two hlt

theorem Operand.ne_zero : fval b ≠ 0 := by
  have : (0 : ℚ) < |fval b| := (by positivity : (0 : ℚ) < 2 ^ k).trans_le h.binade.1
  exact abs_pos.1 this

theorem Operand.sign : b.getLsbD 31 = decide (fval b < 0) := (f32_hasValue h.1).sign_eq h.ne_zero

/-- The operand as the model has it. -/
theorem Operand.sfu (f : SfuFn) : ∃ num e, Reads b k m num e ∧ sfu f b = sfuFinite f (b.getLsbD 31) num e := by
  obtain ⟨num, e, hr⟩ := h.reads
  exact ⟨num, e, hr, sfu_fin f h.1 hr.1 hr.2.1⟩

end

/-! ## Codes rounded to themselves -/

/-- The codes of infinity are not finite. -/
theorem not_isFin_infCode {b : BitVec 32} {n : Bool} (h : b.toNat = FF.infCode .fp32 n) : ¬ IsFin b := by
  rw [isFin_iff, h]
  cases n <;> decide

/-- A finite code's value is rounded to that code, exactly. -/
theorem round32_fval {x : Machine.Num} {b : BitVec 32} (hb : IsFin b) (hx : HasValue x (fval b) (b.getLsbD 31)) :
    round32 x = (b, 0) := by
  obtain ⟨num, e, hf, -, hlt, hlow, hhigh⟩ := f32_form hb
  obtain ⟨hfin, hsign, hval⟩ := round32_exact hx hlt hlow hhigh (abs_fval hb hf).2
  have hlt31 (c : BitVec 32) : c.toNat % 2 ^ 31 < 2 ^ (FF.eb .fp32 + FF.mb .fp32) := Nat.mod_lt _ (by positivity)
  have hlow31 : (round32 x).1.toNat % 2 ^ 31 = b.toNat % 2 ^ 31 := by
    refine codeVal_inj .fp32 (hlt31 _) (hlt31 _) ?_
    rw [fval_eq, fval_eq, hsign] at hval
    refine mul_left_cancel₀ ?_ hval
    cases b.getLsbD 31 <;> simp [signum]
  have hcode : (round32 x).1 = b := by
    have h31 := (getLsbD_31 (round32 x).1).trans (hsign.trans (getLsbD_31 b).symm)
    have h1 := (round32 x).1.isLt
    have h2 := b.isLt
    refine BitVec.eq_of_toNat_eq ?_
    rw [Bool.eq_iff_iff, beq_iff_eq, beq_iff_eq] at h31
    omega
  refine Prod.ext hcode ?_
  obtain ⟨hzero, hother⟩ := hx.rounded
  by_cases h0 : fval b = 0
  · exact (Prod.mk.inj (hzero h0)).2
  · obtain ⟨e', k, -, -, -, -, hbig, hfits⟩ := hother h0
    rcases lt_or_ge (codeVal .fp32 (FF.maxCode .fp32 false)) ((k : ℚ) * 2 ^ (e' - FF.mb .fp32)) with hy | hy
    · have hr := congrArg Prod.fst (hbig hy)
      exact absurd hfin (not_isFin_infCode (n := b.getLsbD 31) (hr.trans (by cases b.getLsbD 31 <;> decide)))
    · obtain ⟨⟨c, hc, hr, hcv⟩, hfl⟩ := hfits hy
      have hv := (fval_of_toNat hc hr).2.2
      rw [hval] at hv
      have habs : codeVal .fp32 c = |fval b| := by
        rw [hv, abs_signum_mul _ (by rw [hcv]; positivity)]
      exact hfl.trans (if_pos (hcv.symm.trans habs))

theorem round32_code {b : BitVec 32} (hb : IsFin b) : round32 (f32 b) = (b, 0) := round32_fval hb (f32_hasValue hb)

/-! ## Ends of the range -/

/-- From 2^128 on a value overflows to infinity. -/
theorem rounded_overflow {q : ℚ} {r : BitVec 32 × Fl} (h : Rounded q false r) (hq : (2 : ℚ) ^ (128 : Int) ≤ q) :
    r = (0x7F800000, OF ||| NX ||| NFP) := by
  have hpos : (0 : ℚ) < q := (by positivity : (0 : ℚ) < 2 ^ (128 : Int)).trans_le hq
  obtain ⟨e, k, -, hlt, hge, hround, hbig, -⟩ := h.2 hpos.ne'
  rw [abs_of_pos hpos] at hlt hge hround
  have he : 128 < e + 1 := (zpow_lt_zpow_iff_right₀ one_lt_two).1 (hq.trans_lt hlt)
  have hge' : (2 : ℚ) ^ e ≤ q := hge.resolve_left fun h => by
    have : e = -126 := h
    omega
  have hk : 2 ^ 23 ≤ k := by
    refine ge_of_roundInt hround ?_
    rw [le_div_iff₀ (by positivity)]
    refine le_of_eq_of_le ?_ hge'
    rw [Nat.cast_pow, ← zpow_natCast, Nat.cast_ofNat, ← zpow_add₀ two_ne_zero]
    congr 1
    show ((23 : Nat) : Int) + (e - 23) = e
    omega
  have hy : codeVal .fp32 (FF.maxCode .fp32 false) < (k : ℚ) * 2 ^ (e - FF.mb .fp32) := by
    rw [codeVal_maxCode]
    calc sigVal .fp32 (FF.maxSig .fp32) (FF.emax .fp32) = ((2 ^ 24 - 1 : Nat) : ℚ) * 2 ^ ((127 : Int) - 23) := rfl
      _ < (2 ^ 23 : Nat) * 2 ^ ((128 : Int) - 23) := by norm_num
      _ ≤ k * 2 ^ (e - 23) := by
        have : (2 : ℚ) ^ ((128 : Int) - 23) ≤ 2 ^ (e - 23) := zpow_le_zpow_right₀ one_le_two (by omega)
        gcongr
  obtain ⟨hcode, hfl⟩ := Prod.mk.inj ((hbig hy).trans (if_neg (by simp)))
  exact Prod.ext (BitVec.eq_of_toNat_eq (hcode.trans (by decide))) hfl

/-- Half the least value, and less, underflows to 0. -/
theorem rounded_underflow {q : ℚ} {r : BitVec 32 × Fl} (h : Rounded q false r) (h0 : 0 < q) (hq : q ≤ 2 ^ (-150 : Int)) :
    r = (0, UF ||| NX) := by
  obtain ⟨e, k, hmin, -, hge, hround, -, hfits⟩ := h.2 h0.ne'
  rw [abs_of_pos h0] at hge hround hfits
  have hmin' : (-126 : Int) ≤ e := hmin
  obtain rfl : e = -126 := hge.elim id fun hge => by
    have := (zpow_le_zpow_iff_right₀ one_lt_two).1 (hge.trans hq)
    omega
  have hunit : (0 : ℚ) < 2 ^ ((-126 : Int) - 23) := by positivity
  have hsmall : q / 2 ^ ((-126 : Int) - 23) ≤ 1 / 2 := by
    rw [div_le_iff₀ hunit]
    exact hq.trans_eq (by norm_num)
  have hlarge : 0 < q / 2 ^ ((-126 : Int) - 23) := by positivity
  obtain rfl : k = 0 := by
    by_contra hk
    have hk1 : (1 : ℚ) ≤ k := by exact_mod_cast Nat.one_le_iff_ne_zero.2 hk
    have habs : |q / 2 ^ ((-126 : Int) - 23) - k| = k - q / 2 ^ ((-126 : Int) - 23) := by
      rw [abs_of_nonpos (by linarith)]; ring
    change |q / 2 ^ ((-126 : Int) - 23) - k| < 1 / 2 ∨ |q / 2 ^ ((-126 : Int) - 23) - k| = 1 / 2 ∧ k % 2 = 0 at hround
    rw [habs] at hround
    rcases hround with hlt | ⟨heq, heven⟩
    · linarith
    · have hk2 : (2 : ℚ) ≤ k := by exact_mod_cast (by omega : 2 ≤ k)
      linarith
  rw [Nat.cast_zero, zero_mul, codeVal_maxCode] at hfits
  obtain ⟨⟨c, hc, hr, hcv⟩, hfl⟩ := hfits (by unfold sigVal; positivity)
  obtain rfl : c = 0 := codeVal_inj .fp32 (lt_of_le_maxCode hc).2 (by positivity) (hcv.trans codeVal_zero.symm)
  refine Prod.ext (BitVec.eq_of_toNat_eq (hr.trans (by decide))) (hfl.trans ?_)
  rw [if_neg h0.ne, if_pos (by positivity)]
  decide

/-- A value of 1 or more is not rounded to 0. -/
theorem rounded_ne_zero {q : ℚ} {n : Bool} {r : BitVec 32 × Fl} (h : Rounded q n r) (hq : 1 ≤ |q|) :
    r.1.extractLsb' 0 31 ≠ 0 := by
  intro hz
  have hlow : r.1.toNat % 2 ^ 31 = 0 := by
    rwa [← BitVec.toNat_inj, BitVec.extractLsb'_toNat, Nat.shiftRight_zero] at hz
  have h0 : q ≠ 0 := abs_pos.1 (zero_lt_one.trans_le hq)
  obtain ⟨e, k, -, -, hge, hround, hbig, hfits⟩ := h.2 h0
  have hunit : (2 : ℚ) ^ (e - FF.mb .fp32) ≤ |q| := by
    rcases hge with he | hge
    · obtain rfl : e = -126 := he
      exact hq.trans' (zpow_le_one_of_nonpos₀ one_le_two (by decide))
    · exact hge.trans' (zpow_le_zpow_right₀ one_le_two (Int.sub_le_self _ (by positivity)))
  have hk : 1 ≤ k := ge_of_roundInt hround (by rwa [Nat.cast_one, one_le_div (by positivity)])
  rcases lt_or_ge (codeVal .fp32 (FF.maxCode .fp32 false)) ((k : ℚ) * 2 ^ (e - FF.mb .fp32)) with hy | hy
  · have hr : r.1.toNat = FF.infCode .fp32 n :=
      (Prod.mk.inj (hbig hy)).1.trans (by cases n <;> decide)
    rw [hr] at hlow
    cases n <;> exact absurd hlow (by decide)
  · obtain ⟨⟨c, hc, hr, hcv⟩, -⟩ := hfits hy
    have hc0 : c = 0 := by
      have hc31 : c < 2 ^ 31 := (lt_of_le_maxCode hc).2
      have hr' : r.1.toNat = bit n * 2 ^ 31 + c := hr
      omega
    rw [hc0, codeVal_zero] at hcv
    have : (0 : ℚ) < k * 2 ^ (e - FF.mb .fp32) := by positivity
    exact this.ne hcv

end Sys2Proof.Proofs.VectorSlot
end

section
/-!
The special functions of finite operands, apart from the exponential and its kin: reciprocals, roots and logarithms, sine and cosine,
and the activation functions outside their tables (R153, R154).
-/

namespace Sys2Proof.Proofs.VectorSlot

open Sys2Proof Sys2Proof.Machine Sys2Proof.Claims
open Sys2Proof.Proofs.NumberFormats

/-! ## Values without a sign -/

theorem hasValue_signed (neg : Bool) {x : Machine.Num} {q : ℚ} (h : HasValue x q false) :
    HasValue (if neg then x.neg else x) ((if neg then -1 else 1) * q) neg := by
  cases neg with
  | false => simpa using h
  | true => simpa using h.neg

theorem sfuQ_positive {g : Int → Int} {m : Nat} (h : 0 < quadAt g m) : HasValue (sfuQ g m) (quadAt g m) false := by
  have hv := sfuQ_hasValue g m
  rwa [decide_eq_false (not_lt.2 h.le)] at hv

theorem exists_rounded {x : Machine.Num} {q : ℚ} {n : Bool} (h : HasValue x q n) : ∃ z, Rounded q (signOf q z) (round32 x) :=
  ⟨n, by rw [h.signOf_eq]; exact h.rounded⟩

/-! ## Fixed point -/

theorem fxOne_pow : fxOne = 2 ^ 768 := rfl

theorem fxOne_eq : fxOne = 256 * 2 ^ 760 := by
  rw [fxOne_pow, show (256 : Int) = 2 ^ 8 by norm_num, ← pow_add]

theorem two_pow_760 : (2 : Int) ^ 80 ≤ 2 ^ 760 := pow_le_pow_right₀ one_le_two (by norm_num)

theorem fxDiv_bounds {a b lo hi : Int} (hb : 0 < b) (hlo : lo * b ≤ a * fxOne) (hhi : a * fxOne ≤ hi * b) :
    lo ≤ fxDiv a b ∧ fxDiv a b ≤ hi :=
  ⟨(Int.le_ediv_iff_mul_le hb).2 hlo, Int.ediv_le_of_le_mul hb hhi⟩

theorem fxSqrt_bounds {a lo hi : Int} (hlo0 : 0 ≤ lo) (hhi0 : 0 ≤ hi) (hlo : lo * lo ≤ a * fxOne) (hhi : a * fxOne ≤ hi * hi) :
    lo ≤ fxSqrt a ∧ fxSqrt a ≤ hi := by
  lift lo to Nat using hlo0
  lift hi to Nat using hhi0
  obtain ⟨v, hv⟩ : ∃ v : Nat, (v : Int) = a * fxOne := ⟨(a * fxOne).toNat, Int.toNat_of_nonneg (hlo.trans' (by positivity))⟩
  have hsqrt : fxSqrt a = (v.sqrt : Nat) := by
    show (((a * fxOne).toNat.sqrt : Nat) : Int) = _
    rw [← hv, Int.toNat_natCast]
  rw [← hv] at hlo hhi
  rw [hsqrt]
  constructor
  · exact_mod_cast Nat.le_sqrt.2 (by exact_mod_cast hlo)
  · have hle : v ≤ hi * hi := by exact_mod_cast hhi
    exact_mod_cast (Nat.sqrt_le_sqrt hle).trans_eq (Nat.sqrt_eq hi)

/-- The points of a table lie between 0 and 1. -/
theorem point_bounds {m h : Nat} (hm : m < 2 ^ 23) (hh : h ≤ 2 * (m / 2 ^ 16) + 2) :
    0 ≤ (h : Int) * 2 ^ 760 ∧ (h : Int) * 2 ^ 760 ≤ fxOne := by
  refine ⟨by positivity, ?_⟩
  rw [fxOne_eq]
  have : (h : Int) ≤ 256 := by omega
  gcongr

/-! ## Reciprocals and roots -/

def rcpFn (m : Int) : Int := fxDiv fxOne (fxOne + m)

def sqrtFn (h : Nat) (m : Int) : Int := fxSqrt (2 ^ h * (fxOne + m))

def rsqrtFn (h : Nat) (m : Int) : Int := fxDiv fxOne (sqrtFn h m)

section
variable {x : Int} (hx : 0 ≤ x ∧ x ≤ fxOne)
include hx

theorem rcpFn_bounds : 128 * 2 ^ 760 ≤ rcpFn x ∧ rcpFn x ≤ 7 * (128 * 2 ^ 760) := by
  have hone := fxOne_eq
  have hp : (0 : Int) < 2 ^ 760 := by positivity
  refine fxDiv_bounds ?_ ?_ ?_ <;> generalize fxOne = one at * <;> generalize (2 : Int) ^ 760 = p at * <;> nlinarith

theorem sqrtFn_bounds {h : Nat} (hh : h ≤ 1) : fxOne ≤ sqrtFn h x ∧ sqrtFn h x ≤ 2 * fxOne := by
  have hp : (0 : Int) ≤ fxOne := by rw [fxOne_eq]; positivity
  interval_cases h <;> refine fxSqrt_bounds hp (by linarith) ?_ ?_ <;> generalize fxOne = p at * <;> nlinarith

theorem rsqrtFn_bounds {h : Nat} (hh : h ≤ 1) : 128 * 2 ^ 760 ≤ rsqrtFn h x ∧ rsqrtFn h x ≤ 7 * (128 * 2 ^ 760) := by
  have hs := sqrtFn_bounds hx hh
  have hone := fxOne_eq
  have hp : (0 : Int) < 2 ^ 760 := by positivity
  refine fxDiv_bounds ?_ ?_ ?_ <;> generalize fxOne = one at * <;> generalize (2 : Int) ^ 760 = p at * <;> nlinarith

end

section
variable {m : Nat} (hm : m < 2 ^ 23)
include hm

theorem rcp_pos : 0 < quadAt rcpFn m :=
  quadAt_pos (two_pow_760.trans (by norm_num)) fun _ _ hh => rcpFn_bounds (point_bounds hm hh)

theorem rsqrt_pos {h : Nat} (hh : h ≤ 1) : 0 < quadAt (rsqrtFn h) m :=
  quadAt_pos (two_pow_760.trans (by norm_num)) fun _ _ hp => rsqrtFn_bounds (point_bounds hm hp) hh

theorem sqrt_pos {h : Nat} (hh : h ≤ 1) : 0 < quadAt (sqrtFn h) m := by
  refine quadAt_pos (A := fxOne) (two_pow_760.trans ?_) fun j _ hp => ?_
  · rw [fxOne_eq]
    norm_num
  · obtain ⟨h1, h2⟩ := sqrtFn_bounds (point_bounds hm hp) hh
    refine ⟨h1, h2.trans ?_⟩
    rw [fxOne_eq]
    norm_num

end

/-! What the unit forms for an operand ± 2^k (1 + m / 2^23). -/

section
variable {neg : Bool} {k e : Int} {m num : Nat} (hk : k = (Nat.log2 num : Int) + e) (hm : m = num * 2 ^ (23 - Nat.log2 num) - 2 ^ 23)
include hk hm

theorem sfuFinite_rcp : sfuFinite .rcp neg num e =
    round32 (if neg then ((sfuQ rcpFn m).scale (-k)).neg else (sfuQ rcpFn m).scale (-k)) := by
  rw [hk, hm]
  rfl

theorem sfuFinite_log2 : sfuFinite .log2 false num e =
    round32 (Machine.Num.add (Num.ofInt k) (sfuQ (fun m => fxDiv (fxLn1p m) fxLn2) m)).1 := by
  rw [hk, hm]
  rfl

theorem sfuFinite_rsqrt : sfuFinite .rsqrt false num e =
    round32 ((sfuQ (rsqrtFn (k % 2).toNat) m).scale (-((k - (k % 2).toNat) / 2))) := by
  rw [hk, hm]
  rfl

theorem sfuFinite_sqrt : sfuFinite .sqrt false num e =
    round32 ((sfuQ (sqrtFn (k % 2).toNat) m).scale ((k - (k % 2).toNat) / 2)) := by
  rw [hk, hm]
  rfl

end

section
variable {b : BitVec 32} {k : Int} {m : Nat} (h : Operand b k m)
include h

theorem rcp_rounded : Rounded ((if b.getLsbD 31 then -1 else 1) * (quadAt rcpFn m * 2 ^ (-k))) (b.getLsbD 31) (sfu .rcp b) := by
  obtain ⟨num, e, ⟨-, -, hk, hm⟩, hs⟩ := h.sfu .rcp
  rw [hs, sfuFinite_rcp hk hm]
  exact (hasValue_signed _ (hasValue_scale (sfuQ_positive (rcp_pos h.2.1)) (-k))).rounded

variable (hneg : b.getLsbD 31 = false)
include hneg

theorem log2_rounded :
    let t := k + quadAt (fun m => fxDiv (fxLn1p m) fxLn2) m
    Rounded t (signOf t false) (sfu .log2 b) := by
  intro t
  obtain ⟨hv, -⟩ := (ofInt_hasValue k).add (sfuQ_hasValue (fun m => fxDiv (fxLn1p m) fxLn2) m)
  have hsign : signOf t (decide (k < 0) && decide (quadAt (fun m => fxDiv (fxLn1p m) fxLn2) m < 0)) = signOf t false := by
    by_cases ht : t = 0
    · rw [signOf_zero ht, signOf_zero ht, Bool.and_eq_false_iff, decide_eq_false_iff_not, decide_eq_false_iff_not]
      by_contra! hboth
      obtain ⟨h1, h2⟩ := hboth
      have h1' : (k : ℚ) < 0 := by exact_mod_cast h1
      exact (add_neg h1' h2).ne ht
    · rw [signOf_ne ht, signOf_ne ht]
  obtain ⟨num, e, ⟨-, -, hk, hm⟩, hs⟩ := h.sfu .log2
  rw [hs, hneg, sfuFinite_log2 hk hm, ← hsign]
  exact hv.rounded

theorem rsqrt_rounded : Rounded (quadAt (rsqrtFn (k % 2).toNat) m * 2 ^ (-((k - (k % 2).toNat) / 2))) false (sfu .rsqrt b) := by
  obtain ⟨num, e, ⟨-, -, hk, hm⟩, hs⟩ := h.sfu .rsqrt
  rw [hs, hneg, sfuFinite_rsqrt hk hm]
  exact (hasValue_scale (sfuQ_positive (rsqrt_pos h.2.1 (by omega))) _).rounded

theorem sqrt_rounded : Rounded (quadAt (sqrtFn (k % 2).toNat) m * 2 ^ ((k - (k % 2).toNat) / 2)) false (sfu .sqrt b) := by
  obtain ⟨num, e, ⟨-, -, hk, hm⟩, hs⟩ := h.sfu .sqrt
  rw [hs, hneg, sfuFinite_sqrt hk hm]
  exact (hasValue_scale (sfuQ_positive (sqrt_pos h.2.1 (by omega))) _).rounded

end

/-! ## Sine and cosine -/

/-- The fraction of a quotient, cut to j bits. -/
theorem fraction_bits (a : Int) (d j : Nat) : ((a % d) * 2 ^ j / d : Int) = ⌊Int.fract ((a : ℚ) / d) * 2 ^ j⌋ := by
  rw [Int.fract_div_intCast_eq_div_intCast_mod, div_mul_eq_mul_div]
  rw [← Rat.floor_intCast_div_natCast]
  push_cast
  rfl

/-- R153: the octant and the fraction of x / (2π), in units of 2^-26. -/
def turn (a : Int) (e : Int) : Nat :=
  if 0 ≤ e then 0 else ((a % 2 ^ (-e).toNat) * 2 ^ 26 / 2 ^ (-e).toNat).toNat

theorem turn_eq (a e : Int) : turn a e = (⌊Int.fract ((a : ℚ) * 2 ^ e) * 2 ^ 26⌋ : Int).toNat := by
  unfold turn
  split
  next he =>
    have hwhole : (a : ℚ) * 2 ^ e = (a * 2 ^ e.toNat : Int) := by
      rw [Int.cast_mul, Int.cast_pow, Int.cast_ofNat, ← zpow_natCast, Int.toNat_of_nonneg he]
    rw [hwhole, Int.fract_intCast, zero_mul, Int.floor_zero]
    rfl
  next he =>
    have hdiv : (a : ℚ) * 2 ^ e = a / (2 ^ (-e).toNat : Nat) := by
      rw [two_zpow_split, show e.toNat = 0 by omega]
      push_cast
      ring
    rw [hdiv, ← fraction_bits]
    push_cast
    rfl

theorem turn_lt (a e : Int) : turn a e < 2 ^ 26 := by
  rw [turn_eq, Int.toNat_lt (Int.floor_nonneg.2 (by have := Int.fract_nonneg ((a : ℚ) * 2 ^ e); positivity)), Int.floor_lt]
  have := Int.fract_lt_one ((a : ℚ) * 2 ^ e)
  push_cast
  linarith

/-- The function that a table of R153 holds: C or S. -/
def trigFn (cos : Bool) (x : Int) : Int := if cos then fxCos (fxMul x fxPi / 4) else fxSin (fxMul x fxPi / 4)

/-- A table read at w or at 1 − w. -/
def trigRead (g : Int → Int) (back : Bool) (w : Nat) : ℚ :=
  if back then (if w = 0 then quad g 127 (2 ^ 16) else quadAt g (2 ^ 23 - w)) else quadAt g w

theorem sfuTrig_hasValue (cos rev : Bool) (w : Nat) : ∃ n, HasValue (sfuTrig cos rev w) (trigRead (trigFn cos) rev w) n := by
  have hdef : sfuTrig cos rev w = if rev then (if w = 0 then sfuAt (trigFn cos) 127 (2 ^ 16) else sfuQ (trigFn cos) (2 ^ 23 - w))
      else sfuQ (trigFn cos) w := rfl
  rw [hdef]
  unfold trigRead
  split
  · split
    · exact ⟨_, sfuAt_hasValue _ _ _⟩
    · exact ⟨_, sfuQ_hasValue _ _⟩
  · exact ⟨_, sfuQ_hasValue _ _⟩

/-- What an octant reads, with its sign. -/
def octantValue (t : Bool × Bool × Bool) (w : Nat) : ℚ :=
  if t.2.2 then -trigRead (trigFn t.1) t.2.1 w else trigRead (trigFn t.1) t.2.1 w

theorem sfuSinCos_hasValue (cos : Bool) {neg : Bool} {num r : Nat} {e : Int}
    (hr : turn (if neg then -(num * invTwoPi : Int) else num * invTwoPi) (e - 160) = r) :
    ∃ n, HasValue (sfuSinCos cos neg num e) (octantValue (octant cos (r / 2 ^ 23 % 8)) (r % 2 ^ 23)) n := by
  obtain ⟨t, ht⟩ : ∃ t, t = octant cos (r / 2 ^ 23 % 8) := ⟨_, rfl⟩
  have hdef : sfuSinCos cos neg num e =
      if t.2.2 then (sfuTrig t.1 t.2.1 (r % 2 ^ 23)).neg else sfuTrig t.1 t.2.1 (r % 2 ^ 23) := by
    rw [ht, ← hr]
    rfl
  rw [hdef, ← ht, octantValue]
  obtain ⟨n, hn⟩ := sfuTrig_hasValue t.1 t.2.1 (r % 2 ^ 23)
  split
  · exact ⟨_, hn.neg⟩
  · exact ⟨_, hn⟩

theorem sfuFinite_trig {neg : Bool} {k e : Int} {num : Nat} (hk : k = (Nat.log2 num : Int) + e) :
    sfuFinite .sin neg num e = (if k < -12 then round32 (.fin neg num 1 e) else round32 (sfuSinCos false neg num e)) ∧
    sfuFinite .cos neg num e = (if k < -12 then (f32One, 0) else round32 (sfuSinCos true neg num e)) := by
  rw [hk]
  exact ⟨rfl, rfl⟩

/-- The octants of R153 for sine. -/
def sinAt (o w : Nat) : ℚ :=
  let S (back : Bool) := trigRead (trigFn false) back w
  let C (back : Bool) := trigRead (trigFn true) back w
  [S false, C true, C false, S true, -S false, -C true, -C false, -S true].getD o 0

/-- The octants of R153 for cosine. -/
def cosAt (o w : Nat) : ℚ :=
  let S (back : Bool) := trigRead (trigFn false) back w
  let C (back : Bool) := trigRead (trigFn true) back w
  [C false, S true, -S false, -C true, -C false, -S true, S false, C true].getD o 0

theorem octantValue_eq {o : Nat} (ho : o < 8) (w : Nat) :
    octantValue (octant false o) w = sinAt o w ∧ octantValue (octant true o) w = cosAt o w := by
  interval_cases o <;> exact ⟨rfl, rfl⟩

section
variable {b : BitVec 32} {k : Int} {m : Nat} (h : Operand b k m)
include h

theorem trig_small (hk : k < -12) : sfu .sin b = (b, 0) ∧ sfu .cos b = (0x3F800000, 0) := by
  obtain ⟨num, e, ⟨hf, -, hk1, -⟩, hs⟩ := h.sfu .sin
  obtain ⟨num', e', ⟨-, -, hk2, -⟩, hs'⟩ := h.sfu .cos
  constructor
  · rw [hs, (sfuFinite_trig hk1).1, if_pos hk, ← hf, round32_code h.1]
  · rw [hs', (sfuFinite_trig hk2).2, if_pos hk]
    rfl

/-- The operand's turns, as the unit forms them. -/
theorem turn_operand {num : Nat} {e : Int} (hf : f32 b = .fin (b.getLsbD 31) num 1 e) :
    turn (if b.getLsbD 31 then -(num * invTwoPi : Int) else num * invTwoPi) (e - 160) =
      (⌊Int.fract (fval b * (invTwoPi / 2 ^ 160)) * 2 ^ 26⌋ : Int).toNat := by
  have hval : ((if b.getLsbD 31 then -(num * invTwoPi : Int) else num * invTwoPi : Int) : ℚ) * 2 ^ (e - 160) =
      fval b * (invTwoPi / 2 ^ 160) := by
    rw [(abs_fval h.1 hf).1, zpow_sub₀ two_ne_zero, signum]
    generalize invTwoPi = c
    cases b.getLsbD 31
    · simp only [Bool.false_eq_true, if_false, Int.cast_mul, Int.cast_natCast]
      norm_num
      ring
    · simp only [if_true, Int.cast_neg, Int.cast_mul, Int.cast_natCast]
      norm_num
      ring
  rw [turn_eq, hval]

theorem trig_large (hk : ¬ k < -12) :
    let r := (⌊Int.fract (fval b * (invTwoPi / 2 ^ 160)) * 2 ^ 26⌋ : Int).toNat
    let sin := sinAt (r / 2 ^ 23) (r % 2 ^ 23)
    let cos := cosAt (r / 2 ^ 23) (r % 2 ^ 23)
    (∃ z, Rounded sin (signOf sin z) (sfu .sin b)) ∧ (∃ z, Rounded cos (signOf cos z) (sfu .cos b)) := by
  intro r sin cos
  obtain ⟨num, e, ⟨hf, -, hk1, -⟩, hs⟩ := h.sfu .sin
  obtain ⟨num', e', ⟨hf', -, hk2, -⟩, hs'⟩ := h.sfu .cos
  have hlt : r < 2 ^ 26 := (turn_operand h hf).symm.trans_lt (turn_lt _ _)
  have ho : r / 2 ^ 23 < 8 := by omega
  have hsin := sfuSinCos_hasValue false (turn_operand h hf)
  have hcos := sfuSinCos_hasValue true (turn_operand h hf')
  rw [Nat.mod_eq_of_lt ho, (octantValue_eq ho _).1] at hsin
  rw [Nat.mod_eq_of_lt ho, (octantValue_eq ho _).2] at hcos
  constructor
  · rw [hs, (sfuFinite_trig hk1).1, if_neg hk]
    exact exists_rounded hsin.choose_spec
  · rw [hs', (sfuFinite_trig hk2).2, if_neg hk]
    exact exists_rounded hcos.choose_spec

end

theorem circularFunctions : CircularFunctions := by
  intro b hb h0
  obtain ⟨k, m, h⟩ := exists_operand hb h0
  exact ⟨fun hsmall => trig_small h ((h.lt_iff _).1 hsmall),
    fun hlarge => trig_large h fun hk => ((h.lt_iff _).2 hk).not_ge hlarge⟩

/-! ## Activation functions outside their tables -/

/-- An operand's magnitude in fixed point, its fraction being m. -/
def binadeArg (k m : Int) : Int := if 0 ≤ k then (fxOne + m) * 2 ^ k.toNat else (fxOne + m) / 2 ^ (-k).toNat

section
variable {neg : Bool} {k e : Int} {m num : Nat} (hk : k = (Nat.log2 num : Int) + e)
include hk

theorem sfuFinite_below {f : SfuFn}
    (hf : f = .tanh ∧ k < -12 ∨ f = .sigm ∧ k < -12 ∨ f = .gelu ∧ k < -24 ∨ f = .erf ∧ k < -12) :
    sfuFinite f neg num e = actOutside f neg true (.fin neg num 1 e) := by
  rw [hk] at hf
  rcases hf with ⟨rfl, hlt⟩ | ⟨rfl, hlt⟩ | ⟨rfl, hlt⟩ | ⟨rfl, hlt⟩ <;> exact if_pos hlt

theorem sfuFinite_above {f : SfuFn} (hf : f = .tanh ∧ 3 < k ∨ f = .sigm ∧ 4 < k ∨ f = .gelu ∧ 3 < k ∨ f = .erf ∧ 2 < k) :
    sfuFinite f neg num e = actOutside f neg false (.fin neg num 1 e) := by
  rw [hk] at hf
  rcases hf with ⟨rfl, hlt⟩ | ⟨rfl, hlt⟩ | ⟨rfl, hlt⟩ | ⟨rfl, hlt⟩ <;> exact (if_neg (by omega)).trans (if_pos hlt)

variable (hm : m = num * 2 ^ (23 - Nat.log2 num) - 2 ^ 23)
include hm

/-- Inside its binades an odd function is read at the magnitude. -/
theorem sfuFinite_odd :
    (-12 ≤ k → k ≤ 3 → sfuFinite .tanh neg num e = round32 (if neg then (sfuQ (fun m => fxTanh (binadeArg k m)) m).neg
      else sfuQ (fun m => fxTanh (binadeArg k m)) m)) ∧
    (-12 ≤ k → k ≤ 2 → sfuFinite .erf neg num e = round32 (if neg then (sfuQ (fun m => fxErf (binadeArg k m)) m).neg
      else sfuQ (fun m => fxErf (binadeArg k m)) m)) := by
  rw [hk, hm]
  constructor <;> intro hlo hhi <;> refine (if_neg (not_lt.2 hlo)).trans ((if_neg (not_lt.2 hhi)).trans ?_) <;> cases neg <;> rfl

/-- Inside its binades another function is read at the operand. -/
theorem sfuFinite_signed :
    (-12 ≤ k → k ≤ 4 → sfuFinite .sigm neg num e =
      round32 (sfuQ (fun m => fxSigm (if neg then -binadeArg k m else binadeArg k m)) m)) ∧
    (-24 ≤ k → k ≤ 3 → sfuFinite .gelu neg num e =
      round32 (sfuQ (fun m => fxGelu (if neg then -binadeArg k m else binadeArg k m)) m)) := by
  rw [hk, hm]
  constructor <;> intro hlo hhi <;> refine (if_neg (not_lt.2 hlo)).trans ((if_neg (not_lt.2 hhi)).trans ?_) <;> cases neg <;> rfl

end

end Sys2Proof.Proofs.VectorSlot
end

section
/-! The activation functions outside their tables, and inside where they have the operand's sign (R154). -/

namespace Sys2Proof.Proofs.VectorSlot

open Sys2Proof Sys2Proof.Machine Sys2Proof.Claims
open Sys2Proof.Proofs.NumberFormats

/-! ## Constants -/

/-- The model's ln 2. -/
theorem fxLn2_bounds : 6931471803 * fxOne < fxLn2 * 10 ^ 10 ∧ fxLn2 * 10 ^ 10 < 6931471808 * fxOne := by
  decide +kernel

theorem fxOne_pos : 0 < fxOne := by
  rw [fxOne_pow]
  positivity

theorem fxOne_unit : (fxOne : ℚ) * 2 ^ (-768 : Int) = 1 := by
  rw [fxOne_pow, Int.cast_pow, Int.cast_ofNat, ← zpow_natCast, ← zpow_add₀ two_ne_zero]
  exact zpow_zero _

theorem fxLn2_pos : 0 < fxLn2 ∧ fxLn2 < fxOne := by
  obtain ⟨h1, h2⟩ := fxLn2_bounds
  have := fxOne_pos
  constructor <;> linarith

/-- A constant in units of 2^-768 as the model has it. -/
theorem constant_hasValue {c : Int} (h : 0 ≤ c) : HasValue (.fin false c.toNat 1 (-768)) (c * 2 ^ (-768 : Int)) false := by
  refine ⟨c.toNat, 1, -768, rfl, one_ne_zero, ?_⟩
  rw [← Int.cast_natCast, Int.toNat_of_nonneg h, signum, Nat.cast_one, div_one]
  exact (one_mul _).symm

/-- 1 / ln 2. -/
theorem invLn2_ge : fxOne ≤ fxDiv fxOne fxLn2 := by
  obtain ⟨h1, h2⟩ := fxLn2_pos
  exact (Int.le_ediv_iff_mul_le h1).2 (mul_le_mul_of_nonneg_left h2.le fxOne_pos.le)

/-- 2 / √π. -/
theorem erfScale_nonneg : 0 ≤ fxDiv (2 * fxOne) (fxSqrt fxPi) := by
  have h1 : 0 ≤ fxSqrt fxPi := Int.natCast_nonneg _
  have h2 : 0 ≤ 2 * fxOne * fxOne := mul_nonneg (mul_nonneg zero_le_two fxOne_pos.le) fxOne_pos.le
  exact Int.ediv_nonneg h2 h1

theorem half_hasValue : HasValue (.fin false 1 1 (-1)) (1 / 2) false :=
  ⟨1, 1, -1, rfl, one_ne_zero, by norm_num [signum]⟩

section
variable {b : BitVec 32} {k : Int} {m : Nat} (h : Operand b k m)
include h

/-! ## Below the tables -/

/-- An activation function below its tables. -/
theorem sfu_below {f : SfuFn}
    (hf : f = .tanh ∧ k < -12 ∨ f = .sigm ∧ k < -12 ∨ f = .gelu ∧ k < -24 ∨ f = .erf ∧ k < -12) :
    sfu f b = actOutside f (b.getLsbD 31) true (f32 b) := by
  obtain ⟨num, e, ⟨hb, -, hk, -⟩, hs⟩ := h.sfu f
  rw [hs, sfuFinite_below hk hf, hb]

theorem tanh_below (hk : k < -12) : sfu .tanh b = (b, 0) :=
  (sfu_below h (.inl ⟨rfl, hk⟩)).trans (round32_code h.1)

theorem sigm_below (hk : k < -12) : Rounded (1 / 2 + fval b / 4) false (sfu .sigm b) := by
  obtain ⟨hv, -⟩ := half_hasValue.add (hasValue_scale (f32_hasValue h.1) (-2))
  have hval : (1 / 2 : ℚ) + fval b * 2 ^ (-2 : Int) = 1 / 2 + fval b / 4 := by norm_num; ring
  have hpos : 0 < (1 / 2 : ℚ) + fval b / 4 := by
    have hsmall := ((h.lt_iff (-12)).2 hk).trans_le (by norm_num : (2 : ℚ) ^ (-12 : Int) ≤ 1)
    linarith [(abs_lt.1 hsmall).1]
  rw [hval, signOf_ne hpos.ne', decide_eq_false hpos.not_gt] at hv
  rw [sfu_below h (.inr (.inl ⟨rfl, hk⟩))]
  exact hv.rounded

theorem erf_below (hk : k < -12) :
    Rounded (fval b * (fxDiv (2 * fxOne) (fxSqrt fxPi) * 2 ^ (-768 : Int))) (b.getLsbD 31) (sfu .erf b) := by
  obtain ⟨hv, -⟩ := (f32_hasValue h.1).mul (constant_hasValue erfScale_nonneg)
  rw [sfu_below h (.inr (.inr (.inr ⟨rfl, hk⟩)))]
  rw [Bool.bne_false] at hv
  exact hv.rounded

theorem gelu_below (hk : k < -24) : Rounded (fval b / 2) (b.getLsbD 31) (sfu .gelu b) := by
  have hv := hasValue_scale (f32_hasValue h.1) (-1)
  rw [show (2 : ℚ) ^ (-1 : Int) = 2⁻¹ by norm_num, ← div_eq_mul_inv] at hv
  rw [sfu_below h (.inr (.inr (.inl ⟨rfl, hk⟩)))]
  exact hv.rounded

/-! ## Above the tables -/

/-- An activation function above its tables. -/
theorem sfu_above {f : SfuFn} (hf : f = .tanh ∧ 3 < k ∨ f = .sigm ∧ 4 < k ∨ f = .gelu ∧ 3 < k ∨ f = .erf ∧ 2 < k) :
    sfu f b = actOutside f (b.getLsbD 31) false (f32 b) := by
  obtain ⟨num, e, ⟨hb, -, hk, -⟩, hs⟩ := h.sfu f
  rw [hs, sfuFinite_above hk hf, hb]

theorem tanh_above (hk : 3 < k) : sfu .tanh b = (if b.getLsbD 31 then 0xBF800000 else 0x3F800000, 0) :=
  sfu_above h (.inl ⟨rfl, hk⟩)

theorem erf_above (hk : 2 < k) : sfu .erf b = (if b.getLsbD 31 then 0xBF800000 else 0x3F800000, 0) :=
  sfu_above h (.inr (.inr (.inr ⟨rfl, hk⟩)))

theorem gelu_above (hk : 3 < k) : sfu .gelu b = (if b.getLsbD 31 then 0x80000000 else b, 0) := by
  have hdef : actOutside .gelu (b.getLsbD 31) false (f32 b) = if b.getLsbD 31 then (nZero, 0) else round32 (f32 b) := rfl
  rw [sfu_above h (.inr (.inr (.inl ⟨rfl, hk⟩))), hdef, round32_code h.1]
  cases b.getLsbD 31 <;> rfl

theorem sigm_above (hk : 4 < k) (hneg : b.getLsbD 31 = false) : sfu .sigm b = (0x3F800000, 0) := by
  rw [sfu_above h (.inr (.inl ⟨rfl, hk⟩)), hneg]
  rfl

/-- x / ln 2 stays a number other than 0. -/
theorem sigmExponent_ge (hk : 4 < k) : 1 ≤ |fval b * (fxDiv fxOne fxLn2 * 2 ^ (-768 : Int))| := by
  have hc : (1 : ℚ) ≤ fxDiv fxOne fxLn2 * 2 ^ (-768 : Int) := by
    rw [← fxOne_unit]
    have : (fxOne : ℚ) ≤ fxDiv fxOne fxLn2 := by exact_mod_cast invLn2_ge
    gcongr
  have hx : 1 ≤ |fval b| := h.binade.1.trans' (one_le_zpow₀ one_le_two (by omega))
  rw [abs_mul]
  exact one_le_mul_of_one_le_of_one_le hx (hc.trans (le_abs_self _))

omit h in
theorem withFl_eq (fl : Fl) (r : BitVec 32 × Fl) : withFl fl r = (r.1, fl ||| r.2) := Prod.ext rfl (BitVec.or_comm ..)

/-- R154: a sigmoid far below 0 is 2 to the power x / ln 2. -/
theorem sigm_negative (hk : 4 < k) (hneg : b.getLsbD 31 = true) :
    ∃ y, Rounded (fval b * (fxDiv fxOne fxLn2 * 2 ^ (-768 : Int))) true y ∧
      (IsFin y.1 → sfu .sigm b = ((sfu .exp2 y.1).1, y.2 ||| (sfu .exp2 y.1).2)) ∧
      (IsInf y.1 → sfu .sigm b = (0, y.2)) := by
  obtain ⟨y, hy⟩ : ∃ y, y = round32 (Machine.Num.mul (f32 b) (.fin false (fxDiv fxOne fxLn2).toNat 1 (-768))).1 := ⟨_, rfl⟩
  obtain ⟨hv, -⟩ := (f32_hasValue h.1).mul (constant_hasValue (fxOne_pos.le.trans invLn2_ge))
  have hround := hv.rounded
  rw [← hy, hneg] at hround
  have hsigm : sfu .sigm b = match f32 y.1 with
      | .fin n a _ e => withFl y.2 (round32 (sfuExp2 n a e))
      | _ => withFl y.2 (sfuInf .exp2 true) := by
    rw [sfu_above h (.inr (.inl ⟨rfl, hk⟩)), hneg, hy]
    rfl
  refine ⟨y, hround, fun hfin => ?_, fun hinf => ?_⟩
  · obtain ⟨num, e, hf, hz⟩ := f32_fin hfin
    have hexp : sfu .exp2 y.1 = round32 (sfuExp2 (y.1.getLsbD 31) num e) :=
      sfu_fin .exp2 hfin hf (mt hz.1 (rounded_ne_zero hround (sigmExponent_ge h hk)))
    rw [hsigm, hexp, hf]
    exact withFl_eq _ _
  · have hzero : sfuInf .exp2 true = (0, 0) := by decide
    rw [hsigm, f32_inf hinf, hzero]
    exact (withFl_eq y.2 (0, 0)).trans (Prod.ext rfl BitVec.or_zero)

/-! ## Inside the tables -/

theorem sigm_inside (hlo : -12 ≤ k) (hhi : k ≤ 4) :
    let q := quadAt (fun m => fxSigm (if b.getLsbD 31 then -binadeArg k m else binadeArg k m)) m
    ∃ z, Rounded q (signOf q z) (sfu .sigm b) := by
  obtain ⟨num, e, ⟨-, -, hk, hm⟩, hs⟩ := h.sfu .sigm
  rw [hs, (sfuFinite_signed hk hm).1 hlo hhi]
  exact exists_rounded (sfuQ_hasValue _ _)

theorem gelu_inside (hlo : -24 ≤ k) (hhi : k ≤ 3) :
    let q := quadAt (fun m => fxGelu (if b.getLsbD 31 then -binadeArg k m else binadeArg k m)) m
    ∃ z, Rounded q (signOf q z) (sfu .gelu b) := by
  obtain ⟨num, e, ⟨-, -, hk, hm⟩, hs⟩ := h.sfu .gelu
  rw [hs, (sfuFinite_signed hk hm).2 hlo hhi]
  exact exists_rounded (sfuQ_hasValue _ _)

theorem tanh_inside (hlo : -12 ≤ k) (hhi : k ≤ 3) (hpos : 0 < quadAt (fun m => fxTanh (binadeArg k m)) m) :
    Rounded ((if b.getLsbD 31 then -1 else 1) * quadAt (fun m => fxTanh (binadeArg k m)) m) (b.getLsbD 31) (sfu .tanh b) := by
  obtain ⟨num, e, ⟨-, -, hk, hm⟩, hs⟩ := h.sfu .tanh
  rw [hs, (sfuFinite_odd hk hm).1 hlo hhi]
  exact (hasValue_signed _ (sfuQ_positive hpos)).rounded

theorem erf_inside (hlo : -12 ≤ k) (hhi : k ≤ 2) (hpos : 0 < quadAt (fun m => fxErf (binadeArg k m)) m) :
    Rounded ((if b.getLsbD 31 then -1 else 1) * quadAt (fun m => fxErf (binadeArg k m)) m) (b.getLsbD 31) (sfu .erf b) := by
  obtain ⟨num, e, ⟨-, -, hk, hm⟩, hs⟩ := h.sfu .erf
  rw [hs, (sfuFinite_odd hk hm).2 hlo hhi]
  exact (hasValue_signed _ (sfuQ_positive hpos)).rounded

end

end Sys2Proof.Proofs.VectorSlot
end

section
/-! How near the model's fixed-point exponential stands to the exponential (log 10). -/

namespace Sys2Proof.Proofs.VectorSlot

open Sys2Proof Sys2Proof.Machine Sys2Proof.Claims
open Sys2Proof.Proofs.ExecutionModel (tab_id)

/-! ## Fixed point as real numbers -/

/-- A fixed-point number. -/
@[irreducible] noncomputable def fx (a : Int) : ℝ := a / 2 ^ 768

theorem fxOne_cast : (fxOne : ℝ) = 2 ^ 768 := by
  rw [fxOne_pow, Int.cast_pow, Int.cast_ofNat]

theorem fx_eq (a : Int) : fx a = a / fxOne := by
  rw [fx, fxOne_cast]

theorem fxOne_large : (10 : ℝ) ^ 20 ≤ fxOne := by
  rw [fxOne_cast]
  exact (by norm_num : (10 : ℝ) ^ 20 ≤ 2 ^ 100).trans (pow_le_pow_right₀ one_le_two (by norm_num))

theorem fxOne_cast_pos : (0 : ℝ) < fxOne := by
  exact_mod_cast fxOne_pos

theorem fx_one : fx fxOne = 1 := by
  rw [fx_eq]
  exact div_self (by exact_mod_cast fxOne_pos.ne')

theorem fx_add (a b : Int) : fx (a + b) = fx a + fx b := by
  rw [fx, fx, fx, Int.cast_add, add_div]

theorem fx_neg (a : Int) : fx (-a) = -fx a := by
  rw [fx, fx, Int.cast_neg, neg_div]

theorem fx_sub (a b : Int) : fx (a - b) = fx a - fx b := by
  rw [sub_eq_add_neg, fx_add, fx_neg, ← sub_eq_add_neg]

theorem fx_int_mul (n a : Int) : fx (n * a) = n * fx a := by
  rw [fx, fx, Int.cast_mul, mul_div_assoc]

theorem fx_le {a b : Int} : fx a ≤ fx b ↔ a ≤ b := by
  rw [fx, fx, div_le_div_iff_of_pos_right (by positivity), Int.cast_le]

theorem fx_lt {a b : Int} : fx a < fx b ↔ a < b := by
  rw [fx, fx, div_lt_div_iff_of_pos_right (by positivity), Int.cast_lt]

theorem fx_zero : fx 0 = 0 := by
  rw [fx, Int.cast_zero, zero_div]

/-- A quotient of integers is at most 1 below the real one. -/
theorem cast_ediv (a : Int) {b : Int} (hb : 0 < b) : ((a / b : Int) : ℝ) ≤ a / b ∧ (a : ℝ) / b < (a / b : Int) + 1 := by
  have hb' : (0 : ℝ) < b := by exact_mod_cast hb
  constructor
  · rw [le_div_iff₀ hb']
    exact_mod_cast Int.ediv_mul_le a hb.ne'
  · rw [div_lt_iff₀ hb']
    exact_mod_cast Int.lt_ediv_add_one_mul_self a hb

theorem fxMul_near (a b : Int) : (fxMul a b : ℝ) ≤ a * fx b ∧ (a : ℝ) * fx b < fxMul a b + 1 := by
  have h := cast_ediv (a * b) (b := fxOne) fxOne_pos
  rw [Int.cast_mul, mul_div_assoc, ← fx_eq] at h
  exact h

/-! ## Series -/

/-- The sum of a series and its last term, after `n` steps. -/
def seriesSteps (t0 : Int) (f : Nat → Int → Int) : Nat → Int × Int
  | 0 => (t0, t0)
  | n + 1 => ((seriesSteps t0 f n).1 + f (n + 1) (seriesSteps t0 f n).2, f (n + 1) (seriesSteps t0 f n).2)

theorem fxSeries_eq (n : Nat) (t0 : Int) (f : Nat → Int → Int) : fxSeries n t0 f = (seriesSteps t0 f n).1 := by
  rw [fxSeries, tab_id]
  refine congrArg Prod.fst ?_
  induction n with
  | zero => rfl
  | succ n ih =>
    rw [List.range_succ, List.foldl_append, ih]
    rfl

/-- One term of the exponential's series from the one before. -/
def expTerm (r : Int) (k : Nat) (t : Int) : Int := fxMul t r / k

/-- The terms of the exponential's series. -/
noncomputable def powerTerm (x : ℝ) (n : Nat) : ℝ := x ^ n / n.factorial

theorem powerTerm_succ (x : ℝ) (n : Nat) : powerTerm x (n + 1) = powerTerm x n * x / (n + 1) := by
  rw [powerTerm, powerTerm, pow_succ, Nat.factorial_succ]
  push_cast
  field_simp

section
variable {r : Int} (hr : 0 ≤ r ∧ r ≤ fxOne)
include hr

theorem fx_unit_interval : 0 ≤ fx r ∧ fx r ≤ 1 := by
  rw [← fx_zero, ← fx_one, fx_le, fx_le]
  exact hr

/-- A step cuts a term at most 2 units further below the exact one. -/
theorem expTerm_near {t : Int} {P : ℝ} {n : Nat} (ht0 : 0 ≤ t) (hhigh : (t : ℝ) ≤ P) (hlow : P - 2 * n ≤ t) :
    0 ≤ expTerm r (n + 1) t ∧ (expTerm r (n + 1) t : ℝ) ≤ P * fx r / (n + 1) ∧
    P * fx r / (n + 1) - 2 * (n + 1) ≤ expTerm r (n + 1) t := by
  obtain ⟨hr0, hr1⟩ := fx_unit_interval hr
  have hpos : 0 ≤ r := hr.1
  clear hr
  obtain ⟨hm1, hm2⟩ := fxMul_near t r
  obtain ⟨hd1, hd2⟩ := cast_ediv (fxMul t r) (b := (n + 1 : Nat)) (by positivity)
  rw [Int.cast_natCast, Nat.cast_add_one (R := ℝ)] at hd1 hd2
  have hn1 : (0 : ℝ) < n + 1 := by positivity
  refine ⟨Int.ediv_nonneg (Int.ediv_nonneg (mul_nonneg ht0 hpos) (by positivity)) (by positivity), ?_, ?_⟩
  · exact hd1.trans (div_le_div_of_nonneg_right (hm1.trans (mul_le_mul_of_nonneg_right hhigh hr0)) hn1.le)
  · have h1 : P * fx r ≤ fxMul t r + (1 + 2 * n) := by
      have hcut : (P - 2 * n) * fx r ≤ t * fx r := by gcongr
      have herr : 2 * (n : ℝ) * fx r ≤ 2 * n * 1 := by gcongr
      linarith
    have h2 : P * fx r / (n + 1) ≤ fxMul t r / (n + 1) + (1 + 2 * n) := by
      rw [div_le_iff₀ hn1, add_mul, div_mul_cancel₀ _ hn1.ne']
      nlinarith [n.cast_nonneg (α := ℝ)]
    have h3 : ((fxMul t r : Int) : ℝ) / (n + 1) < expTerm r (n + 1) t + 1 := hd2
    linarith

/-- Each term is cut at most 2 units a step below the power series' one, each sum accordingly. -/
theorem expSteps_near (n : Nat) :
    (0 ≤ (seriesSteps fxOne (expTerm r) n).2 ∧
      ((seriesSteps fxOne (expTerm r) n).2 : ℝ) ≤ fxOne * powerTerm (fx r) n ∧
      fxOne * powerTerm (fx r) n - 2 * n ≤ (seriesSteps fxOne (expTerm r) n).2) ∧
    ((seriesSteps fxOne (expTerm r) n).1 : ℝ) ≤ fxOne * ∑ j ∈ Finset.range (n + 1), powerTerm (fx r) j ∧
    fxOne * ∑ j ∈ Finset.range (n + 1), powerTerm (fx r) j - n * (n + 1) ≤ (seriesSteps fxOne (expTerm r) n).1 := by
  induction n with
  | zero => simp [seriesSteps, powerTerm, fxOne_pos.le]
  | succ n ih =>
    obtain ⟨⟨ht0, hthigh, htlow⟩, hshigh, hslow⟩ := ih
    obtain ⟨h0, hhigh, hlow⟩ := expTerm_near hr ht0 hthigh htlow
    rw [mul_assoc, mul_div_assoc, ← powerTerm_succ] at hhigh hlow
    rw [Finset.sum_range_succ, mul_add, seriesSteps, Int.cast_add]
    push_cast
    exact ⟨⟨h0, hhigh, hlow⟩, by linarith, by linarith⟩

end

/-! ## The exponential -/

/-- The series of 200 terms that the model sums. -/
def expSeries (r : Int) : Int := fxSeries 200 fxOne (expTerm r)

theorem expSeries_near {r : Int} (hr : 0 ≤ r ∧ r ≤ fxOne) :
    fx (expSeries r) ≤ Real.exp (fx r) ∧ Real.exp (fx r) - 1 / 10 ^ 9 ≤ fx (expSeries r) := by
  obtain ⟨-, hhigh, hlow⟩ := expSteps_near hr 200
  rw [← fxSeries_eq] at hhigh hlow
  change ((expSeries r : Int) : ℝ) ≤ _ at hhigh
  change _ ≤ ((expSeries r : Int) : ℝ) at hlow
  obtain ⟨hr0, hr1⟩ := fx_unit_interval hr
  obtain ⟨P, hP⟩ : ∃ P, P = ∑ j ∈ Finset.range (200 + 1), powerTerm (fx r) j := ⟨_, rfl⟩
  have hle : P ≤ Real.exp (fx r) := hP ▸ Real.sum_le_exp_of_nonneg hr0 _
  have hge : Real.exp (fx r) ≤ P + 1 / 10 ^ 10 := by
    have hb := Real.exp_bound' hr0 hr1 (n := 201) (by norm_num)
    have hfact : (10 : ℝ) ^ 12 ≤ (Nat.factorial 201 : ℝ) := by
      exact_mod_cast (by decide : 10 ^ 12 ≤ Nat.factorial 20).trans (Nat.factorial_le (by norm_num))
    have hpow : fx r ^ 201 ≤ 1 := pow_le_one₀ hr0 hr1
    refine hb.trans (add_le_add (hP ▸ le_rfl) ?_)
    generalize (Nat.factorial 201 : ℝ) = F at *
    have hF : 0 < F := by linarith
    rw [div_le_div_iff₀ (by positivity) (by positivity)]
    push_cast
    nlinarith
  have hone := fxOne_large
  have hone0 := fxOne_cast_pos
  rw [← hP] at hhigh hlow
  rw [fx_eq (expSeries r), div_le_iff₀ hone0, le_div_iff₀ hone0]
  generalize (fxOne : ℝ) = one at *
  push_cast at hlow
  constructor
  · nlinarith
  · nlinarith

/-- The model's ln 2 and the real one agree to 9 digits. -/
theorem ln2_near : |fx fxLn2 - Real.log 2| ≤ 5 / 10 ^ 10 ∧ 6931471803 / 10 ^ 10 < fx fxLn2 ∧ fx fxLn2 < 6931471808 / 10 ^ 10 := by
  obtain ⟨h1, h2⟩ := fxLn2_bounds
  have hone0 := fxOne_cast_pos
  have h1' : (6931471803 : ℝ) * fxOne < fxLn2 * 10 ^ 10 := by exact_mod_cast h1
  have h2' : (fxLn2 : ℝ) * 10 ^ 10 < 6931471808 * fxOne := by exact_mod_cast h2
  have hlow : 6931471803 / 10 ^ 10 < fx fxLn2 := by
    rw [fx_eq, div_lt_div_iff₀ (by positivity) hone0]
    exact h1'
  have hhigh : fx fxLn2 < 6931471808 / 10 ^ 10 := by
    rw [fx_eq, div_lt_div_iff₀ hone0 (by positivity)]
    exact h2'
  have hlog1 := Real.log_two_gt_d9
  have hlog2 := Real.log_two_lt_d9
  refine ⟨abs_le.2 ⟨?_, ?_⟩, hlow, hhigh⟩ <;> norm_num at * <;> linarith

theorem fxExp_eq (x : Int) : fxExp x = if 0 ≤ x / fxLn2 then expSeries (x - x / fxLn2 * fxLn2) * 2 ^ (x / fxLn2).toNat
    else expSeries (x - x / fxLn2 * fxLn2) / 2 ^ (-(x / fxLn2)).toNat := rfl

/-- Below ln 2 the exponential is its series. -/
theorem fxExp_small {x : Int} (h0 : 0 ≤ x) (h1 : x < fxLn2) : fxExp x = expSeries x := by
  rw [fxExp_eq, Int.ediv_eq_zero_of_lt h0 h1, zero_mul, sub_zero, if_pos le_rfl, Int.toNat_zero, pow_zero, mul_one]

/-- Below 0 the exponential is a series over a power of 2. -/
theorem fxExp_negative {z : Int} (hz : 0 ≤ z) : ∃ (N : Nat) (r : Int), 0 ≤ r ∧ r < fxLn2 ∧ r = N * fxLn2 - z ∧
    fxExp (-z) = expSeries r / 2 ^ N := by
  obtain ⟨hpos, -⟩ := fxLn2_pos
  obtain ⟨n, hn⟩ : ∃ n, n = -z / fxLn2 := ⟨_, rfl⟩
  have hr : -z - n * fxLn2 = -z % fxLn2 := by
    rw [hn, Int.emod_def, mul_comm]
  have hn0 : n ≤ 0 := hn ▸ Int.ediv_le_of_le_mul hpos (by linarith)
  refine ⟨(-n).toNat, -z - n * fxLn2, ?_, ?_, ?_, ?_⟩
  · rw [hr]
    exact Int.emod_nonneg _ hpos.ne'
  · rw [hr]
    exact Int.emod_lt_of_pos _ hpos
  · rw [Int.toNat_of_nonneg (by omega)]
    ring
  · rw [fxExp_eq, ← hn]
    split
    next h =>
      obtain rfl : n = 0 := le_antisymm hn0 h
      rw [neg_zero, Int.toNat_zero, pow_zero, mul_one, Int.ediv_one]
    next => rfl

/-- The reduction to a power of 2 costs little. -/
theorem reduction_near {N : Nat} {r z : Int} (hr : r = N * fxLn2 - z) (hr1 : r < fxLn2) (hz0 : 0 ≤ z) (hz : z ≤ 40 * fxOne) :
    |Real.exp (fx r) / 2 ^ N - Real.exp (-fx z)| ≤ 6 / 10 ^ 8 := by
  obtain ⟨hnear, hlow, hhigh⟩ := ln2_near
  have hz0' : 0 ≤ fx z := by rwa [← fx_zero, fx_le]
  have hz' : fx z ≤ 40 := by
    have h := fx_le.2 hz
    rwa [fx_int_mul, fx_one, Int.cast_ofNat, mul_one] at h
  have hr' : fx r = N * fx fxLn2 - fx z := by
    rw [hr, fx_sub, fx_int_mul, Int.cast_natCast]
  have hN : (N : ℝ) ≤ 60 := by
    have h := fx_lt.2 hr1
    rw [hr'] at h
    nlinarith
  obtain ⟨d, hd⟩ : ∃ d, d = N * (fx fxLn2 - Real.log 2) := ⟨_, rfl⟩
  have hd' : |d| ≤ 3 / 10 ^ 8 := by
    rw [hd, abs_mul, Nat.abs_cast]
    calc (N : ℝ) * |fx fxLn2 - Real.log 2| ≤ 60 * (5 / 10 ^ 10) :=
        mul_le_mul hN hnear (abs_nonneg _) (by norm_num)
      _ = 3 / 10 ^ 8 := by norm_num
  have hsplit : Real.exp (fx r) / 2 ^ N = Real.exp (-fx z) * Real.exp d := by
    have h2 : (2 : ℝ) ^ N = Real.exp (N * Real.log 2) := by
      rw [mul_comm, Real.exp_mul, Real.exp_log two_pos, Real.rpow_natCast]
    rw [h2, ← Real.exp_sub, ← Real.exp_add, hr', hd]
    congr 1
    ring
  have hone : |Real.exp d - 1| ≤ 2 * |d| := Real.abs_exp_sub_one_le (hd'.trans (by norm_num))
  have hexp : Real.exp (-fx z) ≤ 1 := Real.exp_le_one_iff.2 (by linarith)
  rw [hsplit, show Real.exp (-fx z) * Real.exp d - Real.exp (-fx z) = Real.exp (-fx z) * (Real.exp d - 1) by ring, abs_mul,
    abs_of_pos (Real.exp_pos _)]
  calc Real.exp (-fx z) * |Real.exp d - 1| ≤ 1 * (2 * (3 / 10 ^ 8)) :=
        mul_le_mul hexp (hone.trans (by linarith)) (abs_nonneg _) zero_le_one
    _ = 6 / 10 ^ 8 := by norm_num

/-- The model's exponential of a negative number, to 7 digits. -/
theorem fxExp_near {z : Int} (hz0 : 0 ≤ z) (hz : z ≤ 40 * fxOne) : |fx (fxExp (-z)) - Real.exp (-fx z)| ≤ 1 / 10 ^ 7 := by
  obtain ⟨N, r, hr0, hr1, hr, hexp⟩ := fxExp_negative hz0
  obtain ⟨hs1, hs2⟩ := expSeries_near ⟨hr0, hr1.le.trans fxLn2_pos.2.le⟩
  have hred := abs_le.1 (reduction_near hr hr1 hz0 hz)
  obtain ⟨hd1, hd2⟩ := cast_ediv (expSeries r) (b := 2 ^ N) (by positivity)
  rw [← hexp] at hd1 hd2
  have hone := fxOne_large
  have hone0 := fxOne_cast_pos
  have hpow : (1 : ℝ) ≤ 2 ^ N := one_le_pow₀ one_le_two
  have hquot : ((expSeries r : Int) : ℝ) / ((2 ^ N : Int) : ℝ) = fx (expSeries r) / 2 ^ N * fxOne := by
    rw [fx_eq, Int.cast_pow, Int.cast_ofNat]
    field_simp
  have hval : (fxExp (-z) : ℝ) = fx (fxExp (-z)) * fxOne := by
    rw [fx_eq, div_mul_cancel₀ _ hone0.ne']
  rw [hquot, hval] at hd1 hd2
  have hlow : Real.exp (fx r) / 2 ^ N - 1 / 10 ^ 9 ≤ fx (expSeries r) / 2 ^ N := by
    have h1 : (1 / 10 ^ 9 : ℝ) / 2 ^ N ≤ 1 / 10 ^ 9 := div_le_self (by positivity) hpow
    have h2 := div_le_div_of_nonneg_right hs2 (by positivity : (0 : ℝ) ≤ 2 ^ N)
    rw [sub_div] at h2
    linarith
  have hhigh : fx (expSeries r) / 2 ^ N ≤ Real.exp (fx r) / 2 ^ N := div_le_div_of_nonneg_right hs1 (by positivity)
  have hup : fx (fxExp (-z)) ≤ fx (expSeries r) / 2 ^ N := le_of_mul_le_mul_right hd1 hone0
  have hdown : fx (expSeries r) / 2 ^ N - 1 / 10 ^ 9 ≤ fx (fxExp (-z)) := by
    refine le_of_mul_le_mul_right ?_ hone0
    generalize (fxOne : ℝ) = one at *
    nlinarith
  rw [abs_le]
  constructor <;> linarith

end Sys2Proof.Proofs.VectorSlot
end

section
/-! The power of two (R153): its table's values lie in [1, 2], and with them its results over the whole range. -/

namespace Sys2Proof.Proofs.VectorSlot

open Sys2Proof Sys2Proof.Machine Sys2Proof.Claims
open Sys2Proof.Proofs.NumberFormats

/-! ## The table -/

def exp2Fn (m : Int) : Int := fxExp (fxMul m fxLn2)

/-- The first and the last segment, evaluated. -/
theorem exp2_segments : segment exp2Fn 0 = (0, 134217728, 11356, 0) ∧ segment exp2Fn 127 = (1, 133492875, 11295, 0) := by
  decide +kernel

/-- 2^(1/256), by the model's ln 2. -/
noncomputable def exp2Step : ℝ := Real.exp (fx fxLn2 / 256)

theorem exp2Step_bounds : 1 + 27 / 10 ^ 4 ≤ exp2Step ∧ exp2Step ≤ 2 := by
  obtain ⟨-, h1, h2⟩ := ln2_near
  constructor
  · have := Real.add_one_le_exp (fx fxLn2 / 256)
    rw [exp2Step]
    linarith
  · rw [exp2Step, ← Real.exp_log two_pos, Real.exp_le_exp]
    have := Real.log_two_gt_d9
    norm_num at *
    linarith

theorem exp2Step_pow_le {h : Nat} (hh : h ≤ 254) : exp2Step ^ h ≤ 1998 / 1000 := by
  obtain ⟨hlow, -⟩ := exp2Step_bounds
  have hlast : exp2Step ^ 256 ≤ 2 * (1 + 1 / 10 ^ 8) := by
    have hd := ln2_near.1
    have hexp : exp2Step ^ 256 = 2 * Real.exp (fx fxLn2 - Real.log 2) := by
      rw [exp2Step, ← Real.exp_nat_mul, Real.exp_sub, Real.exp_log two_pos]
      push_cast
      rw [mul_div_cancel₀ _ (by norm_num), mul_div_cancel₀ _ (by norm_num)]
    have hone := (abs_le.1 (Real.abs_exp_sub_one_le (hd.trans (by norm_num)))).2
    rw [hexp]
    linarith
  have htwo : (1 + 54 / 10 ^ 4) * exp2Step ^ 254 ≤ exp2Step ^ 256 := by
    rw [show exp2Step ^ 256 = exp2Step ^ 2 * exp2Step ^ 254 by rw [← pow_add]]
    have hsq : (1 + 54 / 10 ^ 4 : ℝ) ≤ exp2Step ^ 2 := by nlinarith
    exact mul_le_mul_of_nonneg_right hsq (pow_pos (by linarith) 254).le
  have hmono : exp2Step ^ h ≤ exp2Step ^ 254 := pow_le_pow_right₀ (by linarith) hh
  linarith

theorem fxClean_fx (a : Int) : |fx (fxClean a) - fx a| ≤ 1 / 10 ^ 10 := by
  obtain ⟨h1, h2⟩ := fxClean_near a
  have hnoise : fx (2 ^ 63) ≤ 1 / 10 ^ 10 := by
    rw [fx, Int.cast_pow, Int.cast_ofNat, div_le_iff₀ (by positivity)]
    have hunit : (2 : ℝ) ^ 63 * 10 ^ 10 ≤ 2 ^ 768 :=
      (by norm_num : (2 : ℝ) ^ 63 * 10 ^ 10 ≤ 2 ^ 100).trans (pow_le_pow_right₀ one_le_two (by norm_num))
    generalize (2 : ℝ) ^ 768 = one at *
    linarith
  have h1' := fx_le.2 h1
  have h2' := fx_le.2 h2
  rw [fx_sub] at h1'
  rw [fx_add] at h2'
  generalize (2 : Int) ^ 63 = noise at *
  rw [abs_le]
  constructor <;> linarith

/-- A point of 256 of a table. -/
def point (h : Nat) : Int := h * 2 ^ 760

theorem point_nonneg (h : Nat) : 0 ≤ point h := by
  unfold point
  positivity

theorem point_cast (h : Nat) : (point h : ℝ) = h / 256 * fxOne := by
  rw [point, fxOne_cast, Int.cast_mul, Int.cast_natCast, Int.cast_pow, Int.cast_ofNat, show (768 : Nat) = 8 + 760 from rfl,
    pow_add]
  generalize (2 : ℝ) ^ 760 = p
  ring

/-- The point's exponent, cut to a fixed-point number. -/
theorem exp2Arg_bounds {h : Nat} (hh : h ≤ 254) : 0 ≤ fxMul (point h) fxLn2 ∧ fxMul (point h) fxLn2 < fxLn2 ∧
    |fx (fxMul (point h) fxLn2) - h * (fx fxLn2 / 256)| ≤ 1 / 10 ^ 10 := by
  obtain ⟨hpos, -⟩ := fxLn2_pos
  obtain ⟨hm1, hm2⟩ := fxMul_near (point h) fxLn2
  have hone := fxOne_large
  have hone0 := fxOne_cast_pos
  obtain ⟨x, hx⟩ : ∃ x, x = fxMul (point h) fxLn2 := ⟨_, rfl⟩
  have hval : (x : ℝ) = fx x * fxOne := by
    rw [fx_eq, div_mul_cancel₀ _ hone0.ne']
  rw [← hx, point_cast, hval] at hm1 hm2
  have hx0 : 0 ≤ x := by
    rw [hx]
    exact Int.ediv_nonneg (mul_nonneg (point_nonneg h) hpos.le) (by positivity)
  rw [← hx]
  clear hx
  have hl : 0 < fx fxLn2 := by
    rw [← fx_zero]
    exact fx_lt.2 hpos
  rw [← fx_lt]
  clear hpos
  generalize (fxOne : ℝ) = one at *
  generalize fx fxLn2 = l at *
  have hup : fx x ≤ h * (l / 256) := le_of_mul_le_mul_right (by linarith) hone0
  have hdown : h * (l / 256) - 1 / 10 ^ 10 ≤ fx x := by
    refine le_of_mul_le_mul_right ?_ hone0
    linarith
  have hh' : (h : ℝ) ≤ 254 := by exact_mod_cast hh
  refine ⟨hx0, by nlinarith, ?_⟩
  rw [abs_le]
  constructor <;> linarith

/-- A table's value is the power of the step. -/
theorem exp2_sample {h : Nat} (hh : h ≤ 254) : |fx (sample exp2Fn h) - exp2Step ^ h| ≤ 2 / 10 ^ 9 := by
  obtain ⟨h0, h1, harg⟩ := exp2Arg_bounds hh
  have hsample : sample exp2Fn h = fxClean (expSeries (fxMul (point h) fxLn2)) := by
    rw [← fxExp_small h0 h1]
    rfl
  generalize fxMul (point h) fxLn2 = x at *
  obtain ⟨hs1, hs2⟩ := expSeries_near ⟨h0, h1.le.trans fxLn2_pos.2.le⟩
  have hclean := abs_le.1 (fxClean_fx (expSeries x))
  have hpow : exp2Step ^ h = Real.exp (h * (fx fxLn2 / 256)) := by
    rw [exp2Step, ← Real.exp_nat_mul]
  clear h0 h1
  obtain ⟨d, hd⟩ : ∃ d, d = fx x - h * (fx fxLn2 / 256) := ⟨_, rfl⟩
  rw [← hd] at harg
  have hexp : Real.exp (fx x) = exp2Step ^ h * Real.exp d := by
    rw [hpow, ← Real.exp_add, hd, add_sub_cancel]
  have hone : |Real.exp d - 1| ≤ 2 * |d| := Real.abs_exp_sub_one_le (harg.trans (by norm_num))
  have hbound : exp2Step ^ h ≤ 2 := (exp2Step_pow_le hh).trans (by norm_num)
  have hpos : 0 < exp2Step ^ h := by rw [hpow]; exact Real.exp_pos _
  have hdiff : |exp2Step ^ h * (Real.exp d - 1)| ≤ 4 / 10 ^ 10 := by
    rw [abs_mul, abs_of_pos hpos]
    calc exp2Step ^ h * |Real.exp d - 1| ≤ 2 * (2 * (1 / 10 ^ 10)) :=
          mul_le_mul hbound (hone.trans (by linarith)) (abs_nonneg _) zero_le_two
      _ = 4 / 10 ^ 10 := by norm_num
  rw [hexp] at hs1 hs2
  obtain ⟨hd1, hd2⟩ := abs_le.1 hdiff
  rw [mul_sub, mul_one] at hd1 hd2
  rw [hsample, abs_le]
  constructor <;> linarith

/-- What an inner segment's values have of a growing and convex function. -/
theorem exp2_inner {i : Nat} (h1 : 1 ≤ i) (h126 : i ≤ 126) : let s (j : Nat) := sample exp2Fn (2 * i + j)
    fxOne ≤ s 0 ∧ fxOne ≤ s 2 ∧ 0 ≤ -3 * s 0 + 4 * s 1 - s 2 ∧ 0 ≤ 2 * s 0 - 4 * s 1 + 2 * s 2 ∧
    1000 * s 2 ≤ 1999 * fxOne := by
  intro s
  obtain ⟨hy1, hy2⟩ := exp2Step_bounds
  obtain ⟨a, ha⟩ : ∃ a, a = exp2Step ^ (2 * i) := ⟨_, rfl⟩
  have near (j : Nat) (hj : j ≤ 2) : |fx (s j) - a * exp2Step ^ j| ≤ 2 / 10 ^ 9 := by
    rw [ha, ← pow_add]
    exact exp2_sample (by omega)
  obtain ⟨n0, m0⟩ := abs_le.1 (near 0 (by omega))
  obtain ⟨n1, m1⟩ := abs_le.1 (near 1 (by omega))
  obtain ⟨n2, m2⟩ := abs_le.1 (near 2 (by omega))
  have ha1 : 1 + 54 / 10 ^ 4 ≤ a := by
    calc (1 + 54 / 10 ^ 4 : ℝ) ≤ (1 + 27 / 10 ^ 4) ^ 2 := by norm_num
      _ ≤ exp2Step ^ 2 := pow_le_pow_left₀ (by norm_num) hy1 2
      _ ≤ exp2Step ^ (2 * i) := pow_le_pow_right₀ (by linarith) (by omega)
      _ = a := ha.symm
  have hay : a * exp2Step ^ 2 ≤ 1998 / 1000 := by
    rw [ha, ← pow_add]
    exact exp2Step_pow_le (by omega)
  have hsq : (27 / 10 ^ 4 : ℝ) ^ 2 ≤ a * (exp2Step - 1) ^ 2 := by
    have h1 : (27 / 10 ^ 4 : ℝ) ^ 2 ≤ (exp2Step - 1) ^ 2 := pow_le_pow_left₀ (by norm_num) (by linarith) 2
    nlinarith [sq_nonneg (exp2Step - 1)]
  generalize exp2Step = y at *
  rw [pow_zero, mul_one] at n0 m0
  rw [pow_one] at n1 m1
  refine ⟨?_, ?_, ?_, ?_, ?_⟩
  all_goals rw [← fx_le]
  · rw [fx_one]
    linarith
  · rw [fx_one]
    nlinarith
  · rw [fx_zero, fx_sub, fx_add, fx_int_mul, fx_int_mul]
    push_cast
    nlinarith
  · rw [fx_zero, fx_add, fx_sub, fx_int_mul, fx_int_mul, fx_int_mul]
    push_cast
    nlinarith
  · rw [fx_int_mul, fx_int_mul, fx_one]
    push_cast
    linarith

theorem rneShift_nonneg {a : Int} (h : 0 ≤ a) (k : Int) : 0 ≤ rneShift a k :=
  not_lt.1 fun hneg => h.not_gt ((rneShift_rounds a k false).2.1 hneg)

/-- The exponent of an entry whose values lie between 1 and 2. -/
theorem entryExp_zero {a b : Int} (ha : fxOne ≤ a) (hab : a ≤ b) (hb : 1000 * b ≤ 1999 * fxOne) : entryExp a b = 0 := by
  have hone := fxOne_pos
  obtain ⟨hlow, hhigh⟩ := entryExp_bounds (g0 := a) (g1 := b) (.inl (by omega))
  have ha0 : (0 : ℚ) ≤ a := by exact_mod_cast (by omega : 0 ≤ a)
  have hab' : (a : ℚ) ≤ b := by exact_mod_cast hab
  rw [abs_of_nonneg ha0, abs_of_nonneg (ha0.trans hab'), max_eq_right hab'] at hlow hhigh
  have hunit := fxOne_unit
  have hpos : (0 : ℚ) < 2 ^ (-768 : Int) := by positivity
  have hge : (1 : ℚ) ≤ b * 2 ^ (-768 : Int) := by
    rw [← hunit]
    have : (fxOne : ℚ) ≤ b := by exact_mod_cast ha.trans hab
    exact mul_le_mul_of_nonneg_right this hpos.le
  have hlt : (b : ℚ) * 2 ^ (-768 : Int) < 2 ^ (1 : Int) := by
    have hb' : (b : ℚ) ≤ 1999 / 1000 * fxOne := by
      have : (1000 : ℚ) * b ≤ 1999 * fxOne := by exact_mod_cast hb
      linarith
    calc (b : ℚ) * 2 ^ (-768 : Int) ≤ 1999 / 1000 * fxOne * 2 ^ (-768 : Int) := mul_le_mul_of_nonneg_right hb' hpos.le
      _ = 1999 / 1000 := by rw [mul_assoc, hunit, mul_one]
      _ < 2 ^ (1 : Int) := by norm_num
  have h1 := (zpow_lt_zpow_iff_right₀ (one_lt_two (α := ℚ))).1 (hlow.trans_lt hlt)
  have h2 := (zpow_lt_zpow_iff_right₀ (one_lt_two (α := ℚ))).1 ((zpow_zero (2 : ℚ)).trans_le hge |>.trans_lt hhigh)
  omega

/-- A growing, convex segment between 1 and 1.999 gives values between 1 and 2. -/
theorem quad_growing {g : Int → Int} {i n : Nat} (hn : n ≤ 2 ^ 16) (h0 : fxOne ≤ sample g (2 * i))
    (h2 : 1000 * sample g (2 * i + 2) ≤ 1999 * fxOne)
    (hlin : 0 ≤ -3 * sample g (2 * i) + 4 * sample g (2 * i + 1) - sample g (2 * i + 2))
    (hsq : 0 ≤ 2 * sample g (2 * i) - 4 * sample g (2 * i + 1) + 2 * sample g (2 * i + 2)) :
    1 ≤ quad g i n ∧ quad g i n ≤ 2 := by
  have hnear := quad_near (g := g) (i := i) hn
  have hentry := quad_eq g i n
  rw [segment, sfuEntry_eq, entryVal] at hentry
  generalize sample g (2 * i) = a at *
  generalize sample g (2 * i + 1) = b at *
  generalize sample g (2 * i + 2) = c at *
  rw [entryExp_zero h0 (by omega) h2] at hentry hnear
  simp only [add_zero] at hentry
  obtain ⟨u, hu⟩ : ∃ u : ℚ, u = n / 2 ^ 16 := ⟨_, rfl⟩
  have hu0 : 0 ≤ u := by rw [hu]; positivity
  have hu1 : u ≤ 1 := by
    rw [hu, div_le_one (by positivity)]
    exact_mod_cast hn
  rw [← hu] at hnear hentry
  have hlin' : (0 : ℚ) ≤ -3 * a + 4 * b - c := by exact_mod_cast hlin
  have hsq' : (0 : ℚ) ≤ 2 * a - 4 * b + 2 * c := by exact_mod_cast hsq
  constructor
  · have hc0 : (2 ^ 27 : ℚ) ≤ rneShift a 741 := by
      obtain ⟨hround, -, -⟩ := rneShift_rounds a 741 false
      have ha0 : 0 ≤ a := fxOne_pos.le.trans h0
      have hge : 2 ^ 27 ≤ (rneShift a 741).natAbs := by
        refine ge_of_roundInt hround ?_
        have ha : (fxOne : ℚ) ≤ |(a : ℚ)| := (Int.cast_le.2 h0).trans (le_abs_self _)
        have hp : (fxOne : ℚ) * 2 ^ (-741 : Int) = (2 ^ 27 : Nat) := by
          rw [fxOne_pow, Int.cast_pow, Int.cast_ofNat, ← zpow_natCast, ← zpow_add₀ two_ne_zero, Nat.cast_pow, ← zpow_natCast]
          rfl
        rw [← hp]
        exact mul_le_mul_of_nonneg_right ha (by positivity)
      have hcoef : 2 ^ 27 ≤ rneShift a 741 := by
        have := rneShift_nonneg ha0 741
        omega
      exact_mod_cast hcoef
    have hc1 : (0 : ℚ) ≤ rneShift (-3 * a + 4 * b - c) 747 := by exact_mod_cast rneShift_nonneg hlin 747
    have hc2 : (0 : ℚ) ≤ rneShift (2 * a - 4 * b + 2 * c) 753 := by exact_mod_cast rneShift_nonneg hsq 753
    have hrest : 0 ≤ (rneShift (-3 * a + 4 * b - c) 747 : ℚ) * 2 ^ (-21 : Int) * u +
        rneShift (2 * a - 4 * b + 2 * c) 753 * 2 ^ (-15 : Int) * u ^ 2 := by positivity
    have hfirst : (1 : ℚ) ≤ rneShift a 741 * 2 ^ (-27 : Int) := by
      rw [show (1 : ℚ) = 2 ^ 27 * 2 ^ (-27 : Int) by norm_num]
      exact mul_le_mul_of_nonneg_right hc0 (by positivity)
    rw [hentry, zpow_zero, mul_one, add_assoc]
    exact hfirst.trans (le_add_of_nonneg_right hrest)
  · have hpar : parabola a b c u ≤ c := by
      rw [parabola]
      nlinarith [mul_le_of_le_one_right hlin' hu1, mul_le_of_le_one_right hsq' (pow_le_one₀ hu0 hu1 : u ^ 2 ≤ 1)]
    have hc : (c : ℚ) ≤ 1999 / 1000 * fxOne := by
      have : (1000 : ℚ) * c ≤ 1999 * fxOne := by exact_mod_cast h2
      linarith
    have hscaled : parabola a b c u * 2 ^ (-768 : Int) ≤ 1999 / 1000 := by
      calc parabola a b c u * 2 ^ (-768 : Int) ≤ 1999 / 1000 * fxOne * 2 ^ (-768 : Int) :=
            mul_le_mul_of_nonneg_right (hpar.trans hc) (by positivity)
        _ = 1999 / 1000 := by rw [mul_assoc, fxOne_unit, mul_one]
    have herr := (abs_le.1 hnear).2
    rw [zpow_zero] at herr
    generalize parabola a b c u * 2 ^ (-768 : Int) = p at *
    linarith

/-- The table of the power of two stays between 1 and 2. -/
theorem exp2_table {m : Nat} (hm : m < 2 ^ 23) : 1 ≤ quadAt exp2Fn m ∧ quadAt exp2Fn m ≤ 2 := by
  obtain ⟨hfirst, hlast⟩ := exp2_segments
  obtain ⟨i, hi⟩ : ∃ i, i = m / 2 ^ 16 := ⟨_, rfl⟩
  obtain ⟨n, hn⟩ : ∃ n, n = m % 2 ^ 16 := ⟨_, rfl⟩
  have hn16 : n ≤ 2 ^ 16 := by omega
  have hi128 : i < 128 := by omega
  clear hm
  have hu0 : (0 : ℚ) ≤ n / 2 ^ 16 := by positivity
  have hu1 : (n : ℚ) / 2 ^ 16 ≤ 1 := by
    rw [div_le_one (by positivity)]
    exact_mod_cast hn16
  rw [quadAt, ← hi, ← hn]
  clear hi hn
  rcases Nat.eq_zero_or_pos i with rfl | h0
  · rw [quad_eq, hfirst, entryVal]
    norm_num at hu0 hu1 ⊢
    constructor <;> linarith
  · rcases Nat.lt_or_ge i 127 with h127 | h127
    · obtain ⟨h1, -, hlin, hsq, h2⟩ := exp2_inner h0 (by omega)
      exact quad_growing hn16 h1 h2 hlin hsq
    · obtain rfl : i = 127 := by omega
      rw [quad_eq, hlast, entryVal]
      norm_num at hu0 hu1 ⊢
      constructor <;> linarith

end Sys2Proof.Proofs.VectorSlot
end

section
/-! The power of two of a finite operand (R153). -/

namespace Sys2Proof.Proofs.VectorSlot

open Sys2Proof Sys2Proof.Machine Sys2Proof.Claims
open Sys2Proof.Proofs.NumberFormats

/-! ## Whole part and fraction of the operand -/

/-- An exponent, cut where the result has long left FP32. -/
def cutExp (n : Int) : Int := max (-1000) (min 1000 n)

/-- The whole part of a × 2^e, cut, and 23 bits of its fraction. -/
def exp2Parts (a e : Int) : Int × Nat :=
  if 0 ≤ e then (cutExp (a * 2 ^ (min e 20).toNat), 0)
  else (cutExp (a / 2 ^ (-e).toNat), ((a - a / 2 ^ (-e).toNat * 2 ^ (-e).toNat) * 2 ^ 23 / 2 ^ (-e).toNat).toNat)

theorem sfuExp2_eq (neg : Bool) (num : Nat) (e : Int) : sfuExp2 neg num e =
    (sfuQ exp2Fn (exp2Parts (if neg then -(num : Int) else num) e).2).scale (exp2Parts (if neg then -(num : Int) else num) e).1 := by
  unfold sfuExp2 exp2Parts
  by_cases h : 0 ≤ e
  · simp only [if_pos h]
    rfl
  · simp only [if_neg h]
    rfl

/-- The exponent of a whole operand is capped at 20, beyond the range in question. -/
theorem capped_whole {a e v w : Int} (hw : w = a * 2 ^ e.toNat) (hv : v = a * 2 ^ (min e 20).toNat) :
    (-150 ≤ w → w < 128 → v = w) ∧ (128 ≤ w → 128 ≤ v) ∧ (w < -150 → v < -150) := by
  rcases le_total e 20 with he | he
  · obtain rfl : v = w := by rw [hv, hw, min_eq_left he]
    exact ⟨fun _ _ => rfl, id, id⟩
  · rw [min_eq_right he] at hv
    obtain ⟨p, hp⟩ : ∃ p : Int, p = 2 ^ e.toNat := ⟨_, rfl⟩
    have hp20 : 2 ^ 20 ≤ p := hp ▸ pow_le_pow_right₀ one_le_two (by omega)
    have hv' : v = a * 1048576 := hv
    rw [← hp] at hw
    rcases lt_trichotomy a 0 with ha | rfl | ha
    · have : w ≤ -2 ^ 20 := by rw [hw]; nlinarith
      omega
    · omega
    · have : 2 ^ 20 ≤ w := by rw [hw]; nlinarith
      omega

/-- What the parts are of the operand's value. -/
theorem exp2Parts_spec (a e : Int) : let x : ℚ := a * 2 ^ e
    (exp2Parts a e).2 < 2 ^ 23 ∧
    (-150 ≤ x → x < 128 → exp2Parts a e = (⌊x⌋, (⌊Int.fract x * 2 ^ 23⌋ : Int).toNat)) ∧
    (128 ≤ x → 128 ≤ (exp2Parts a e).1) ∧ (x < -150 → (exp2Parts a e).1 ≤ -151) := by
  intro x
  rcases lt_or_ge e 0 with he | he
  · obtain ⟨d, hd⟩ : ∃ d : Nat, d = 2 ^ (-e).toNat := ⟨_, rfl⟩
    have hx : x = a / d := by
      show (a : ℚ) * 2 ^ e = a / d
      rw [two_zpow_split, show e.toNat = 0 by omega, hd]
      push_cast
      ring
    have hparts : exp2Parts a e = (cutExp ⌊x⌋, (⌊Int.fract x * 2 ^ 23⌋ : Int).toNat) := by
      have hfloor : ⌊x⌋ = a / d := by rw [hx, Rat.floor_intCast_div_natCast]
      have hd' : (2 : Int) ^ (-e).toNat = d := by rw [hd]; push_cast; rfl
      rw [exp2Parts, if_neg (not_le.2 he), hd', hfloor, hx, ← fraction_bits, Int.emod_def, mul_comm (d : Int)]
    have hfrac := Int.fract_lt_one x
    refine ⟨?_, fun h1 h2 => ?_, fun h => ?_, fun h => ?_⟩ <;> rw [hparts]
    · rw [Int.toNat_lt (Int.floor_nonneg.2 (by have := Int.fract_nonneg x; positivity)), Int.floor_lt]
      push_cast
      linarith
    · have hl : -150 ≤ ⌊x⌋ := Int.le_floor.2 (by exact_mod_cast h1)
      have hu : ⌊x⌋ < 128 := Int.floor_lt.2 (by exact_mod_cast h2)
      rw [cutExp, show max (-1000) (min 1000 ⌊x⌋) = ⌊x⌋ by omega]
    · have hl : 128 ≤ ⌊x⌋ := Int.le_floor.2 (by exact_mod_cast h)
      simp only [cutExp]
      omega
    · have hu : ⌊x⌋ < -150 := Int.floor_lt.2 (by exact_mod_cast h)
      simp only [cutExp]
      omega
  · obtain ⟨w, hw⟩ : ∃ w, w = a * 2 ^ e.toNat := ⟨_, rfl⟩
    have hx : x = w := by
      show (a : ℚ) * 2 ^ e = w
      rw [hw, Int.cast_mul, Int.cast_pow, Int.cast_ofNat, ← zpow_natCast, Int.toNat_of_nonneg he]
    obtain ⟨v, hv⟩ : ∃ v, v = a * 2 ^ (min e 20).toNat := ⟨_, rfl⟩
    have hparts : exp2Parts a e = (cutExp v, 0) := by rw [exp2Parts, if_pos he, hv]
    obtain ⟨hin, hhigh, hlow⟩ := capped_whole hw hv
    rw [hx, Int.floor_intCast, Int.fract_intCast, zero_mul, Int.floor_zero, hparts]
    refine ⟨by positivity, fun h1 h2 => ?_, fun h => ?_, fun h => ?_⟩
    · have h1' : -150 ≤ w := by exact_mod_cast h1
      have h2' : w < 128 := by exact_mod_cast h2
      rw [hin h1' h2', cutExp, show max (-1000) (min 1000 w) = w by omega]
      rfl
    · have := hhigh (by exact_mod_cast h)
      simp only [cutExp]
      omega
    · have := hlow (by exact_mod_cast h)
      simp only [cutExp]
      omega

section
variable {b : BitVec 32} {k : Int} {m : Nat} (h : Operand b k m)
include h

/-- R153: the power of two of an operand: one value of the table, scaled by the operand's whole part. -/
theorem exp2_parts : ∃ (n : Int) (j : Nat), j < 2 ^ 23 ∧ Rounded (quadAt exp2Fn j * 2 ^ n) false (sfu .exp2 b) ∧
    (-150 ≤ fval b → fval b < 128 → n = ⌊fval b⌋ ∧ j = (⌊Int.fract (fval b) * 2 ^ 23⌋ : Int).toNat) ∧
    (128 ≤ fval b → 128 ≤ n) ∧ (fval b < -150 → n ≤ -151) := by
  obtain ⟨num, e, ⟨hf, -⟩, hs⟩ := h.sfu .exp2
  obtain ⟨a, ha⟩ : ∃ a, a = if b.getLsbD 31 then -(num : Int) else num := ⟨_, rfl⟩
  have hval : fval b = a * 2 ^ e := by
    rw [(abs_fval h.1 hf).1, ha, signum]
    cases b.getLsbD 31 <;> simp
  obtain ⟨hj, hin, hhigh, hlow⟩ := exp2Parts_spec a e
  rw [← hval] at hin hhigh hlow
  have hexp : sfu .exp2 b = round32 ((sfuQ exp2Fn (exp2Parts a e).2).scale (exp2Parts a e).1) := by
    rw [hs, ha, ← sfuExp2_eq]
    rfl
  refine ⟨(exp2Parts a e).1, (exp2Parts a e).2, hj, ?_, fun h1 h2 => ?_, hhigh, hlow⟩
  · rw [hexp]
    exact (hasValue_scale (sfuQ_positive (zero_lt_one.trans_le (exp2_table hj).1)) _).rounded
  · rw [hin h1 h2]
    exact ⟨rfl, rfl⟩

theorem exp2_rounded (h1 : -150 ≤ fval b) (h2 : fval b < 128) :
    Rounded (quadAt exp2Fn (⌊Int.fract (fval b) * 2 ^ 23⌋ : Int).toNat * 2 ^ (⌊fval b⌋ : Int)) false (sfu .exp2 b) := by
  obtain ⟨n, j, -, hr, hin, -⟩ := exp2_parts h
  obtain ⟨rfl, rfl⟩ := hin h1 h2
  exact hr

theorem exp2_overflow (h1 : 128 ≤ fval b) : sfu .exp2 b = (0x7F800000, OF ||| NX ||| NFP) := by
  obtain ⟨n, j, hj, hr, -, hn, -⟩ := exp2_parts h
  refine rounded_overflow hr ?_
  calc (2 : ℚ) ^ (128 : Int) ≤ 2 ^ n := zpow_le_zpow_right₀ one_le_two (hn h1)
    _ ≤ quadAt exp2Fn j * 2 ^ n := le_mul_of_one_le_left (by positivity) (exp2_table hj).1

theorem exp2_underflow (h1 : fval b < -150) : sfu .exp2 b = (0, UF ||| NX) := by
  obtain ⟨n, j, hj, hr, -, -, hn⟩ := exp2_parts h
  obtain ⟨hlow, hhigh⟩ := exp2_table hj
  refine rounded_underflow hr (mul_pos (zero_lt_one.trans_le hlow) (by positivity)) ?_
  calc quadAt exp2Fn j * 2 ^ n ≤ 2 * 2 ^ (-151 : Int) :=
        mul_le_mul hhigh (zpow_le_zpow_right₀ one_le_two (hn h1)) (by positivity) zero_le_two
    _ = 2 ^ (-150 : Int) := by norm_num

end

theorem powerFunctions : PowerFunctions := by
  intro b k m hb hm hv
  have h : Operand b k m := ⟨hb, hm, hv⟩
  exact ⟨rcp_rounded h, fun hneg => ⟨log2_rounded h hneg, rsqrt_rounded h hneg, sqrt_rounded h hneg⟩,
    exp2_rounded h, exp2_overflow h, exp2_underflow h⟩

end Sys2Proof.Proofs.VectorSlot
end

section
/-! The odd activation functions inside their tables: the segments' values stay close enough to give a positive quadratic (R154). -/

namespace Sys2Proof.Proofs.VectorSlot

open Sys2Proof Sys2Proof.Machine Sys2Proof.Claims

/-! ## Arguments of a binade -/

/-- A binade's points are evenly spaced. -/
theorem binadeArg_point {k : Int} (hk : -12 ≤ k) (h : Nat) : binadeArg k (point h) = (256 + h) * 2 ^ (760 + k).toNat := by
  have hsum : fxOne + point h = (256 + h) * 2 ^ 760 := by
    rw [fxOne_eq, point]
    exact (add_mul ..).symm
  rw [binadeArg, hsum]
  split
  next h0 => rw [mul_assoc, ← pow_add, show (760 + k).toNat = 760 + k.toNat by omega]
  next h0 =>
    rw [show (760 : Nat) = (760 + k).toNat + (-k).toNat by omega, pow_add, ← mul_assoc]
    exact Int.mul_ediv_cancel _ (by positivity)

/-- The points of a binade up to that of 2^K, in units of 2^-768. -/
theorem binadeArg_bounds {k : Int} {K h : Nat} (hk : -12 ≤ k) (hK : k ≤ K) (hh : h ≤ 256) :
    fxOne ≤ 4096 * binadeArg k (point h) ∧ binadeArg k (point h) ≤ 2 ^ (K + 1) * fxOne := by
  have hu : (0 : Int) ≤ 2 ^ (760 + k).toNat := by positivity
  have hlow : (2 : Int) ^ 748 ≤ 2 ^ (760 + k).toNat := pow_le_pow_right₀ one_le_two (by omega)
  have hhigh : (2 : Int) ^ (760 + k).toNat ≤ 2 ^ (760 + K) := pow_le_pow_right₀ one_le_two (by omega)
  have hone : fxOne = 1048576 * 2 ^ 748 := by
    rw [fxOne_pow, show (1048576 : Int) = 2 ^ 20 by norm_num, ← pow_add]
  have htop : 2 ^ (K + 1) * fxOne = 512 * 2 ^ (760 + K) := by
    rw [fxOne_eq, show (512 : Int) = 2 * 256 by norm_num, pow_succ, pow_add]
    generalize (2 : Int) ^ 760 = p
    ring
  have hh' : (h : Int) ≤ 256 := by exact_mod_cast hh
  rw [binadeArg_point hk, htop, hone]
  generalize (2 : Int) ^ 748 = a at *
  generalize (2 : Int) ^ (760 + k).toNat = u at *
  generalize (2 : Int) ^ (760 + K) = b at *
  have h1 : 0 ≤ (h : Int) * u := mul_nonneg (Int.natCast_nonneg h) hu
  have h2 : (h : Int) * u ≤ 256 * u := mul_le_mul_of_nonneg_right hh' hu
  constructor <;> linarith

/-- From one point of a segment to another an argument grows by at most 1 in 128. -/
theorem binadeArg_segment {k : Int} (hk : -12 ≤ k) {i h : Nat} (h1 : 2 * i ≤ h) (h2 : h ≤ 2 * i + 2) :
    binadeArg k (point (2 * i)) ≤ binadeArg k (point h) ∧
    128 * binadeArg k (point h) ≤ 129 * binadeArg k (point (2 * i)) := by
  have hu : (0 : Int) ≤ 2 ^ (760 + k).toNat := by positivity
  rw [binadeArg_point hk, binadeArg_point hk, ← mul_assoc, ← mul_assoc]
  exact ⟨mul_le_mul_of_nonneg_right (by omega) hu, mul_le_mul_of_nonneg_right (by omega) hu⟩

/-- A function between 2/5 and 5/2 of its argument, cut at 1. -/
def NearCut (g : Int → Int) (top : Int) : Prop :=
  ∀ v, fxOne ≤ 4096 * v → v ≤ top * fxOne → 2 * min v fxOne ≤ 5 * g v + 5 ∧ 2 * g v ≤ 5 * min v fxOne

/-- Such a function gives positive values in the tables of its binades. -/
theorem quadAt_pos_of_nearCut {g : Int → Int} {k : Int} {K m : Nat} (hg : NearCut g (2 ^ (K + 1))) (hk : -12 ≤ k) (hK : k ≤ K)
    (hm : m < 2 ^ 23) : 0 < quadAt (fun m => g (binadeArg k m)) m := by
  obtain ⟨v0, hv0⟩ : ∃ v0, v0 = binadeArg k (point (2 * (m / 2 ^ 16))) := ⟨_, rfl⟩
  have hone : 2 ^ 100 ≤ fxOne := by
    rw [fxOne_pow]
    exact pow_le_pow_right₀ one_le_two (by norm_num)
  have h0 : fxOne ≤ 4096 * v0 := hv0 ▸ (binadeArg_bounds hk hK (by omega)).1
  refine quadAt_pos (A := 2 * min v0 fxOne / 5 - 1) (by omega) fun h hlow hhigh => ?_
  obtain ⟨hb1, hb2⟩ := binadeArg_bounds hk hK (by omega : h ≤ 256)
  obtain ⟨hs1, hs2⟩ := binadeArg_segment hk hlow hhigh
  obtain ⟨hg1, hg2⟩ := hg _ hb1 hb2
  rw [← hv0] at hs1 hs2
  change _ ≤ g (binadeArg k (point h)) ∧ g (binadeArg k (point h)) ≤ _
  clear hb2
  generalize g (binadeArg k (point h)) = y at *
  generalize binadeArg k (point h) = v at *
  clear hg
  generalize fxOne = one at *
  omega

/-! ## tanh -/

theorem fxDiv_near {a b : Int} (hb : 0 < b) : fx (fxDiv a b) ≤ fx a / fx b ∧ fx a / fx b < fx (fxDiv a b) + fx 1 := by
  have h := cast_ediv (a * fxOne) hb
  change ((fxDiv a b : Int) : ℝ) ≤ _ ∧ _ < ((fxDiv a b : Int) : ℝ) + 1 at h
  have hone := fxOne_cast_pos
  have hb' : (0 : ℝ) < b := by exact_mod_cast hb
  have hquot : fx a / fx b = ((a * fxOne : Int) : ℝ) / b / fxOne := by
    rw [fx_eq, fx_eq, Int.cast_mul]
    field_simp
  rw [hquot, ← fx_add, fx_eq (fxDiv a b), fx_eq (fxDiv a b + 1), div_le_div_iff_of_pos_right hone,
    div_lt_div_iff_of_pos_right hone, Int.cast_add, Int.cast_one]
  exact h

theorem fx_min (a b : Int) : fx (min a b) = min (fx a) (fx b) := by
  rcases le_total a b with h | h
  · rw [min_eq_left h, min_eq_left (fx_le.2 h)]
  · rw [min_eq_right h, min_eq_right (fx_le.2 h)]

/-- A number that is a quotient cut to units lies where the quotient does. -/
theorem nearCut_of_quotient {g c : Int} {q : ℝ} (hg1 : fx g ≤ q) (hg2 : q < fx g + fx 1) (h1 : 2 / 5 * fx c ≤ q)
    (h2 : q ≤ 5 / 2 * fx c) : 2 * c ≤ 5 * g + 5 ∧ 2 * g ≤ 5 * c := by
  constructor
  · rw [← fx_le, fx_add, fx_int_mul, fx_int_mul, show (5 : Int) = 5 * 1 by norm_num, fx_int_mul 5 1]
    push_cast
    linarith
  · rw [← fx_le, fx_int_mul, fx_int_mul]
    push_cast
    linarith

/-- (1 − t) / (1 + t) for t near exp(−2y) stays near y, cut at 1. -/
theorem tanh_ratio {y t : ℝ} (hy : 1 / 4096 ≤ y) (ht : |t - Real.exp (-(2 * y))| ≤ 1 / 10 ^ 7) :
    0 < 1 + t ∧ 2 / 5 * min y 1 ≤ (1 - t) / (1 + t) ∧ (1 - t) / (1 + t) ≤ 5 / 2 * min y 1 := by
  have hexp0 := Real.exp_pos (-(2 * y))
  have hexp1 : Real.exp (-(2 * y)) * (1 + 2 * y) ≤ 1 := by
    have h := Real.add_one_le_exp (2 * y)
    rw [Real.exp_neg, inv_mul_le_iff₀ (Real.exp_pos _)]
    linarith
  have hexp2 := Real.add_one_le_exp (-(2 * y))
  obtain ⟨h1, h2⟩ := abs_le.1 ht
  generalize Real.exp (-(2 * y)) = w at *
  norm_num at h1 h2 hy
  have hpos : 0 < 1 + t := by linarith
  refine ⟨hpos, ?_, ?_⟩
  · rw [le_div_iff₀ hpos]
    rcases le_total y 1 with hy1 | hy1
    · rw [min_eq_left hy1]
      have ht' : t * (1 + 2 * y) ≤ 1 + 3 / 10000000 := by nlinarith
      refine le_of_mul_le_mul_right ?_ (by linarith : 0 < 1 + 2 * y)
      nlinarith
    · rw [min_eq_right hy1]
      nlinarith
  · rw [div_le_iff₀ hpos]
    rcases le_total y 1 with hy1 | hy1
    · rw [min_eq_left hy1]
      nlinarith
    · rw [min_eq_right hy1]
      nlinarith

theorem fxTanh_nearCut : NearCut fxTanh 16 := by
  intro v hlow hhigh
  obtain ⟨t, ht⟩ : ∃ t, t = fxExp (-(2 * v)) := ⟨_, rfl⟩
  have hone := fxOne_pos
  have hnear := fxExp_near (z := 2 * v) (by omega) (by omega)
  rw [← ht, fx_int_mul, Int.cast_ofNat] at hnear
  have hy : 1 / 4096 ≤ fx v := by
    have h := fx_le.2 hlow
    rw [fx_one, fx_int_mul, Int.cast_ofNat] at h
    linarith
  obtain ⟨hpos, hr1, hr2⟩ := tanh_ratio hy hnear
  have htanh : fxTanh v = fxDiv (fxOne - t) (fxOne + t) := by
    rw [ht, ← neg_mul]
    rfl
  have hb : 0 < fxOne + t := by rwa [← fx_lt, fx_zero, fx_add, fx_one]
  obtain ⟨hd1, hd2⟩ := fxDiv_near (a := fxOne - t) hb
  rw [← htanh, fx_sub, fx_add, fx_one] at hd1 hd2
  have hmin := fx_min v fxOne
  rw [fx_one] at hmin
  rw [← hmin] at hr1 hr2
  exact nearCut_of_quotient hd1 hd2 hr1 hr2

end Sys2Proof.Proofs.VectorSlot
end

section
/-!
The error function inside its tables (R154): its power series, which stays between two thirds and twice its argument cut at 1, and
the model's fixed-point sum of 620 of its terms.
-/

namespace Sys2Proof.Proofs.VectorSlot

open Sys2Proof Sys2Proof.Machine Sys2Proof.Claims
open Sys2Proof.Proofs.ExecutionModel (tab_id)

/-! ## The series as a function -/

/-- The sum of 620 terms of the integral of exp(−t²) from 0 to y. -/
noncomputable def erfSum (y : ℝ) : ℝ :=
  ∑ j ∈ Finset.range 620, ((-1) ^ j / (j.factorial * (2 * j + 1)) : ℝ) * y ^ (2 * j + 1)

/-- Its derivative. -/
noncomputable def gaussSum (y : ℝ) : ℝ := ∑ j ∈ Finset.range 620, powerTerm (-y ^ 2) j

theorem erfSum_hasDerivAt (y : ℝ) : HasDerivAt erfSum (gaussSum y) y := by
  refine HasDerivAt.fun_sum fun j _ => ?_
  have hterm : powerTerm (-y ^ 2) j =
      ((-1) ^ j / (j.factorial * (2 * j + 1)) : ℝ) * ((2 * j + 1 : Nat) * y ^ (2 * j + 1 - 1)) := by
    have hj : (2 * (j : ℝ) + 1) ≠ 0 := by positivity
    rw [powerTerm, neg_pow, ← pow_mul, Nat.add_sub_cancel]
    push_cast
    field_simp
  rw [hterm]
  exact (hasDerivAt_pow (2 * j + 1) y).const_mul _

theorem erfSum_zero : erfSum 0 = 0 :=
  Finset.sum_eq_zero fun j _ => by rw [zero_pow (by omega), mul_zero]

/-- The derivative is exp(−y²) but for a small remainder. -/
theorem gaussSum_near {y : ℝ} (h0 : 0 ≤ y) (h8 : y ≤ 8) : |gaussSum y - Real.exp (-y ^ 2)| ≤ 1 / 10 ^ 9 := by
  have hsq : |(-y ^ 2)| ≤ 64 := by
    rw [abs_neg, abs_of_nonneg (sq_nonneg y)]
    nlinarith
  have hnorm : ‖((-y ^ 2 : ℝ) : ℂ)‖ ≤ 64 := by rwa [Complex.norm_real]
  have hb := Complex.exp_bound' (x := ((-y ^ 2 : ℝ) : ℂ)) (n := 620)
    ((div_le_div_of_nonneg_right hnorm (by positivity)).trans (by norm_num))
  have hcast : Complex.exp ((-y ^ 2 : ℝ) : ℂ) - ∑ j ∈ Finset.range 620, ((-y ^ 2 : ℝ) : ℂ) ^ j / (j.factorial : ℂ) =
      ((Real.exp (-y ^ 2) - gaussSum y : ℝ) : ℂ) := by
    rw [gaussSum]
    simp only [powerTerm]
    push_cast
    rfl
  rw [hcast, Complex.norm_real, Real.norm_eq_abs, abs_sub_comm] at hb
  refine hb.trans ?_
  have hfact : (64 : ℝ) ^ 620 * (2 * 10 ^ 9) ≤ (Nat.factorial 620 : ℝ) := by
    exact_mod_cast (by decide +kernel : 64 ^ 620 * (2 * 10 ^ 9) ≤ Nat.factorial 620)
  have hpow : ‖((-y ^ 2 : ℝ) : ℂ)‖ ^ 620 ≤ 64 ^ 620 := pow_le_pow_left₀ (norm_nonneg _) hnorm 620
  have hpos : (0 : ℝ) < Nat.factorial 620 := by positivity
  generalize (Nat.factorial 620 : ℝ) = f at *
  generalize (64 : ℝ) ^ 620 = p at *
  generalize ‖((-y ^ 2 : ℝ) : ℂ)‖ ^ 620 = z at *
  rw [div_mul_eq_mul_div, div_le_div_iff₀ hpos (by positivity)]
  linarith

/-! ## Bounds by derivatives -/

theorem le_of_deriv_nonneg {f f' : ℝ → ℝ} {a b : ℝ} (hab : a ≤ b) (hd : ∀ x ∈ Set.Icc a b, HasDerivAt f (f' x) x)
    (hn : ∀ x ∈ Set.Icc a b, 0 ≤ f' x) : f a ≤ f b := by
  have hm : MonotoneOn f (Set.Icc a b) := by
    refine monotoneOn_of_hasDerivWithinAt_nonneg (f' := f') (convex_Icc a b)
      (fun x hx => (hd x hx).continuousAt.continuousWithinAt)
      (fun x hx => (hd x (interior_subset hx)).hasDerivWithinAt) fun x hx => hn x (interior_subset hx)
  exact hm (Set.left_mem_Icc.2 hab) (Set.right_mem_Icc.2 hab) hab

section
variable {y : ℝ} (h0 : 0 ≤ y) (h8 : y ≤ 8)
include h0 h8

theorem gaussSum_le : gaussSum y ≤ 1 + 1 / 10 ^ 9 := by
  have h := (abs_le.1 (gaussSum_near h0 h8)).2
  have hexp : Real.exp (-y ^ 2) ≤ 1 := Real.exp_le_one_iff.2 (neg_nonpos.2 (sq_nonneg y))
  linarith

theorem gaussSum_ge : -(1 / 10 ^ 9) ≤ gaussSum y ∧ 1 - y ^ 2 - 1 / 10 ^ 9 ≤ gaussSum y := by
  have h := (abs_le.1 (gaussSum_near h0 h8)).1
  have hexp := Real.add_one_le_exp (-y ^ 2)
  have hpos := Real.exp_pos (-y ^ 2)
  constructor <;> linarith

theorem gaussSum_le_inv (hy : 1 ≤ y) : gaussSum y ≤ (y ^ 2)⁻¹ + 1 / 10 ^ 9 := by
  have h := (abs_le.1 (gaussSum_near h0 h8)).2
  have hexp : Real.exp (-y ^ 2) ≤ (y ^ 2)⁻¹ := by
    rw [Real.exp_neg]
    exact inv_anti₀ (by positivity) ((le_add_of_nonneg_right zero_le_one).trans (Real.add_one_le_exp _))
  linarith

/-- The sum grows at most like its argument. -/
theorem erfSum_le : erfSum y ≤ (1 + 1 / 10 ^ 9) * y := by
  have hmono := le_of_deriv_nonneg (f := fun t => (1 + 1 / 10 ^ 9) * t - erfSum t) (f' := fun t => (1 + 1 / 10 ^ 9) * 1 - gaussSum t) h0
    (fun t _ => ((hasDerivAt_id t).const_mul _).sub (erfSum_hasDerivAt t))
    fun t ht => by linarith [gaussSum_le ht.1 (ht.2.trans h8)]
  simp only [erfSum_zero] at hmono
  linarith

/-- Up to 1 the sum is at least y − y³/3. -/
theorem erfSum_ge_small (h1 : y ≤ 1) : (2 / 3 - 1 / 10 ^ 9) * y ≤ erfSum y := by
  have hmono := le_of_deriv_nonneg (f := fun t => erfSum t + (1 / 10 ^ 9 - 1) * t + 1 / 3 * t ^ 3)
    (f' := fun t => gaussSum t + (1 / 10 ^ 9 - 1) * 1 + 1 / 3 * ((3 : Nat) * t ^ 2)) h0
    (fun t _ => ((erfSum_hasDerivAt t).add ((hasDerivAt_id t).const_mul _)).add ((hasDerivAt_pow 3 t).const_mul _))
    fun t ht => by
      have := (gaussSum_ge ht.1 (ht.2.trans h8)).2
      push_cast
      linarith
  simp only [erfSum_zero] at hmono
  have hcube : y ^ 3 ≤ y := by nlinarith [mul_nonneg h0 h0]
  norm_num at hmono ⊢
  linarith

omit h0 in
/-- From 1 on the sum stays where it was. -/
theorem erfSum_ge_large (h1 : 1 ≤ y) : 2 / 3 - 1 / 10 ^ 8 ≤ erfSum y := by
  have hmono := le_of_deriv_nonneg (f := fun t => erfSum t + 1 / 10 ^ 9 * t) (f' := fun t => gaussSum t + 1 / 10 ^ 9 * 1) h1
    (fun t _ => (erfSum_hasDerivAt t).add ((hasDerivAt_id t).const_mul _))
    fun t ht => by linarith [(gaussSum_ge (zero_le_one.trans ht.1) (ht.2.trans h8)).1]
  have hone := erfSum_ge_small (y := 1) zero_le_one (by norm_num) le_rfl
  linarith

omit h0 in
theorem erfSum_le_large (h1 : 1 ≤ y) : erfSum y ≤ 2 + 1 / 10 ^ 8 := by
  have hmono := le_of_deriv_nonneg (f := fun t => 1 / 10 ^ 9 * t - t⁻¹ - erfSum t)
    (f' := fun t => 1 / 10 ^ 9 * 1 - -(t ^ 2)⁻¹ - gaussSum t) h1
    (fun t ht => (((hasDerivAt_id t).const_mul _).sub (hasDerivAt_inv (by linarith [ht.1]))).sub (erfSum_hasDerivAt t))
    fun t ht => by linarith [gaussSum_le_inv (zero_le_one.trans ht.1) (ht.2.trans h8) ht.1]
  have hone := erfSum_le (y := 1) zero_le_one (by norm_num)
  have hinv : 0 < y⁻¹ := inv_pos.2 (by linarith)
  simp only [inv_one] at hmono
  linarith

/-- The sum stays between two thirds and twice its argument, cut at 1. -/
theorem erfSum_bounds : (2 / 3 - 1 / 10 ^ 8) * min y 1 ≤ erfSum y ∧ erfSum y ≤ (2 + 1 / 10 ^ 8) * min y 1 := by
  rcases le_total y 1 with h1 | h1
  · rw [min_eq_left h1]
    have hge := erfSum_ge_small h0 h8 h1
    have hle := erfSum_le h0 h8
    constructor <;> nlinarith
  · rw [min_eq_right h1, mul_one, mul_one]
    exact ⟨erfSum_ge_large h8 h1, erfSum_le_large h8 h1⟩

end

end Sys2Proof.Proofs.VectorSlot
end

section
/-! The model's fixed-point sum of the error function's series (R154, log 10), and what follows for the tables of `verf`. -/

namespace Sys2Proof.Proofs.VectorSlot

open Sys2Proof Sys2Proof.Machine Sys2Proof.Claims
open Sys2Proof.Proofs.ExecutionModel (tab_id)

/-! ## The terms -/

/-- The term after the n-th, x2 being the argument's square. -/
def erfTerm (x2 : Int) (n : Nat) (t : Int) : Int := -(fxMul t x2 / ((n : Int) + 1))

/-- The sum of n terms and the next term. -/
def erfSteps (x x2 : Int) : Nat → Int × Int
  | 0 => (0, x)
  | n + 1 => ((erfSteps x x2 n).1 + (erfSteps x x2 n).2 / (2 * (n : Int) + 1), erfTerm x2 n (erfSteps x x2 n).2)

theorem erfSteps_foldl (x x2 : Int) (n : Nat) : (List.range n).foldl (fun (acc : Int × Int) (k : Nat) =>
    (acc.1 + acc.2 / (2 * (k : Int) + 1), -(fxMul acc.2 x2 / ((k : Int) + 1)))) (0, x) = erfSteps x x2 n := by
  induction n with
  | zero => rfl
  | succ n ih =>
    rw [List.range_succ, List.foldl_append, ih]
    rfl

theorem fxErf_eq (x : Int) : fxErf x = fxDiv (2 * (erfSteps x (fxMul x x) 620).1) (fxSqrt fxPi) := by
  rw [fxErf, tab_id, erfSteps_foldl]

/-- How far a term can stand from the exact one: the error grows while the terms do. -/
noncomputable def termError (n : Nat) : ℝ := 2 ^ (7 * min n 64) * (n + 1)

theorem termError_succ (n : Nat) : termError n * 64 / (n + 1) + 2 ≤ termError (n + 1) := by
  have hn : (n : ℝ) + 1 ≠ 0 := by positivity
  have hn0 : (0 : ℝ) ≤ n := n.cast_nonneg
  have hcancel : termError n * 64 / (n + 1) = 2 ^ (7 * min n 64) * 64 := by
    rw [termError]
    field_simp
  rw [hcancel, termError]
  push_cast
  have hone : (1 : ℝ) ≤ 2 ^ (7 * min n 64) := one_le_pow₀ one_le_two
  rcases Nat.lt_or_ge n 64 with h | h
  · rw [min_eq_left h.le, min_eq_left (by omega : n + 1 ≤ 64), show 7 * (n + 1) = 7 * n + 7 by ring, pow_add] at *
    norm_num
    nlinarith
  · have hn64 : (64 : ℝ) ≤ n := by exact_mod_cast h
    rw [min_eq_right h, min_eq_right (by omega : 64 ≤ n + 1)] at *
    generalize (2 : ℝ) ^ (7 * 64) = p at *
    nlinarith

theorem termError_le (n : Nat) : termError n ≤ 2 ^ 448 * (n + 1) := by
  rw [termError]
  have : (2 : ℝ) ^ (7 * min n 64) ≤ 2 ^ 448 := pow_le_pow_right₀ one_le_two (by omega)
  exact mul_le_mul_of_nonneg_right this (by positivity)

section
variable {x x2 : Int} (hq : 0 ≤ fx x2 ∧ fx x2 ≤ 64)
include hq

/-- A step multiplies a term's error by at most 64 / (n + 1), and adds at most 2 units. -/
theorem erfTerm_near {n : Nat} {t : Int} {T e : ℝ} (h : |(t : ℝ) - T| ≤ e) :
    |(erfTerm x2 n t : ℝ) - T * -fx x2 / (n + 1)| ≤ e * 64 / (n + 1) + 2 := by
  obtain ⟨hm1, hm2⟩ := fxMul_near t x2
  obtain ⟨hd1, hd2⟩ := cast_ediv (fxMul t x2) (b := (n : Int) + 1) (by positivity)
  have hterm : (erfTerm x2 n t : ℝ) = -((fxMul t x2 / ((n : Int) + 1) : Int) : ℝ) := by
    rw [erfTerm, Int.cast_neg]
  rw [hterm]
  generalize ((fxMul t x2 / ((n : Int) + 1) : Int) : ℝ) = d at *
  push_cast at hd1 hd2
  have hn : (0 : ℝ) < n + 1 := by positivity
  have hn1 : (1 : ℝ) ≤ n + 1 := by linarith [n.cast_nonneg (α := ℝ)]
  have hcut : |(fxMul t x2 : ℝ) / (n + 1) - t * fx x2 / (n + 1)| ≤ 1 := by
    rw [← sub_div, abs_div, abs_of_pos hn, div_le_one hn]
    exact (abs_le.2 ⟨by linarith, by linarith⟩ : |(fxMul t x2 : ℝ) - t * fx x2| ≤ 1).trans hn1
  have hprop : |(t : ℝ) * fx x2 / (n + 1) - T * fx x2 / (n + 1)| ≤ e * 64 / (n + 1) := by
    rw [← sub_div, ← sub_mul, abs_div, abs_mul, abs_of_pos hn, abs_of_nonneg hq.1]
    exact div_le_div_of_nonneg_right (mul_le_mul h hq.2 hq.1 ((abs_nonneg _).trans h)) hn.le
  rw [mul_neg, neg_div, sub_neg_eq_add, neg_add_eq_sub]
  obtain ⟨c1, c2⟩ := abs_le.1 hcut
  obtain ⟨p1, p2⟩ := abs_le.1 hprop
  rw [abs_le]
  constructor <;> linarith

/-- The n-th term. -/
theorem erfSteps_term (n : Nat) : |((erfSteps x x2 n).2 : ℝ) - x * powerTerm (-fx x2) n| ≤ termError n := by
  induction n with
  | zero => simp [erfSteps, powerTerm, termError]
  | succ n ih =>
    have h := (erfTerm_near hq (n := n) ih).trans (termError_succ n)
    rwa [mul_assoc, mul_div_assoc, ← powerTerm_succ] at h

/-- The sum of n terms. -/
theorem erfSteps_sum (n : Nat) :
    |((erfSteps x x2 n).1 : ℝ) - x * ∑ j ∈ Finset.range n, powerTerm (-fx x2) j / (2 * j + 1)| ≤ n * (2 ^ 448 + 1) := by
  induction n with
  | zero => simp [erfSteps]
  | succ n ih =>
    obtain ⟨s, hs⟩ : ∃ s, s = (erfSteps x x2 n).1 := ⟨_, rfl⟩
    obtain ⟨t, ht⟩ : ∃ t, t = (erfSteps x x2 n).2 := ⟨_, rfl⟩
    have hterm := (erfSteps_term hq (x := x) n).trans (termError_le n)
    have hnext : (erfSteps x x2 (n + 1)).1 = s + t / (2 * (n : Int) + 1) := by rw [hs, ht]; rfl
    obtain ⟨hd1, hd2⟩ := cast_ediv t (b := 2 * (n : Int) + 1) (by positivity)
    rw [hnext, Finset.sum_range_succ, mul_add, Int.cast_add]
    rw [← hs] at ih
    rw [← ht] at hterm
    generalize ((t / (2 * (n : Int) + 1) : Int) : ℝ) = d at *
    push_cast at hd1 hd2
    have hn0 : (0 : ℝ) ≤ n := n.cast_nonneg
    have hn : (0 : ℝ) < 2 * n + 1 := by positivity
    have hquot : |(t : ℝ) / (2 * n + 1) - x * (powerTerm (-fx x2) n / (2 * n + 1))| ≤ 2 ^ 448 := by
      rw [← mul_div_assoc, ← sub_div, abs_div, abs_of_pos hn, div_le_iff₀ hn]
      refine hterm.trans (mul_le_mul_of_nonneg_left (by linarith) (by positivity))
    obtain ⟨i1, i2⟩ := abs_le.1 ih
    obtain ⟨q1, q2⟩ := abs_le.1 hquot
    generalize (2 : ℝ) ^ 448 = p at *
    generalize (x : ℝ) * (powerTerm (-fx x2) n / (2 * n + 1)) = w at *
    push_cast
    rw [abs_le]
    constructor <;> linarith

end

/-! ## The sum as a function of the argument -/

/-- The series in the square of the argument. -/
theorem erfSum_eq (y : ℝ) : erfSum y = y * ∑ j ∈ Finset.range 620, powerTerm (-y ^ 2) j / (2 * j + 1) := by
  rw [erfSum, Finset.mul_sum]
  refine Finset.sum_congr rfl fun j _ => ?_
  rw [powerTerm, neg_pow (y ^ 2), ← pow_mul, pow_succ]
  field_simp

/-- The model's sum at x, by the series at the root of the square that the model forms. -/
theorem erfSteps_near {x : Int} {y : ℝ} (hy : 0 < y) (hy8 : y ≤ 8) (hsq : fx (fxMul x x) = y ^ 2) :
    |fx (erfSteps x (fxMul x x) 620).1 - fx x / y * erfSum y| ≤ 1 / 10 ^ 9 := by
  have hq : 0 ≤ fx (fxMul x x) ∧ fx (fxMul x x) ≤ 64 := by
    rw [hsq]
    exact ⟨sq_nonneg y, by nlinarith⟩
  have h := erfSteps_sum hq (x := x) 620
  have hone := fxOne_cast_pos
  have hval : fx x / y * erfSum y = (x : ℝ) * (∑ j ∈ Finset.range 620, powerTerm (-fx (fxMul x x)) j / (2 * j + 1)) / fxOne := by
    rw [erfSum_eq, fx_eq x, hsq]
    field_simp
  have herr : (620 : Nat) * (2 ^ 448 + 1 : ℝ) ≤ 1 / 10 ^ 9 * fxOne := by
    rw [fxOne_cast, show (768 : Nat) = 448 + 320 from rfl, pow_add]
    have hp : (1 : ℝ) ≤ 2 ^ 448 := one_le_pow₀ one_le_two
    have hr : (10 : ℝ) ^ 15 ≤ 2 ^ 320 :=
      (by norm_num : (10 : ℝ) ^ 15 ≤ 2 ^ 100).trans (pow_le_pow_right₀ one_le_two (by norm_num))
    generalize (2 : ℝ) ^ 448 = p at *
    generalize (2 : ℝ) ^ 320 = r at *
    push_cast
    nlinarith
  rw [hval, fx_eq (erfSteps x (fxMul x x) 620).1, ← sub_div, abs_div, abs_of_pos hone, div_le_iff₀ hone]
  exact h.trans herr

/-! ## π and its root -/

theorem fxPi_bounds : 314 * fxOne < 100 * fxPi ∧ 100 * fxPi < 315 * fxOne := by
  decide +kernel

theorem fxSqrtPi_bounds : 448 * 2 ^ 760 ≤ fxSqrt fxPi ∧ fxSqrt fxPi ≤ 464 * 2 ^ 760 := by
  obtain ⟨h1, h2⟩ := fxPi_bounds
  have hone := fxOne_eq
  have hp : (0 : Int) < 2 ^ 760 := by positivity
  generalize fxPi = pi at *
  refine fxSqrt_bounds (by positivity) (by positivity) ?_ ?_ <;> generalize (2 : Int) ^ 760 = p at * <;>
    generalize fxOne = one at * <;> nlinarith

theorem fxSqrtPi_near : 0 < fxSqrt fxPi ∧ 7 / 4 ≤ fx (fxSqrt fxPi) ∧ fx (fxSqrt fxPi) ≤ 29 / 16 := by
  obtain ⟨h1, h2⟩ := fxSqrtPi_bounds
  have hp : (0 : Int) < 2 ^ 760 := by positivity
  have hone := fx_one
  rw [fxOne_eq, fx_int_mul] at hone
  have h1' := fx_le.2 h1
  have h2' := fx_le.2 h2
  rw [fx_int_mul] at h1' h2'
  generalize fx (2 ^ 760) = p at *
  push_cast at h1' h2' hone
  exact ⟨by omega, by linarith, by linarith⟩

/-! ## The tables -/

/-- A root and what it was formed from, but for the square's rounding. -/
theorem root_near {X y : ℝ} (hX : 1 / 4096 ≤ X) (hy : 0 ≤ y) (h1 : y ^ 2 ≤ X ^ 2) (h2 : X ^ 2 ≤ y ^ 2 + 1 / 10 ^ 20) :
    0 < y ∧ y ≤ X ∧ X ≤ (1 + 1 / 10 ^ 9) * y := by
  have hy2 : 5 / 10 ^ 8 ≤ y ^ 2 := by nlinarith
  have hypos : 0 < y := lt_of_le_of_ne hy fun h => by
    rw [← h] at hy2
    norm_num at hy2
  refine ⟨hypos, le_of_sq_le_sq h1 (by linarith), le_of_sq_le_sq ?_ (by positivity)⟩
  rw [mul_pow]
  nlinarith

/-- The model's sum stays between two thirds and twice its argument, cut at 1. -/
theorem erfSteps_bounds {v : Int} (hlow : fxOne ≤ 4096 * v) (hhigh : v ≤ 8 * fxOne) :
    (2 / 3 - 1 / 10 ^ 5) * min (fx v) 1 ≤ fx (erfSteps v (fxMul v v) 620).1 ∧
    fx (erfSteps v (fxMul v v) 620).1 ≤ (2 + 1 / 10 ^ 5) * min (fx v) 1 := by
  have hX : 1 / 4096 ≤ fx v := by
    have h := fx_le.2 hlow
    rw [fx_one, fx_int_mul, Int.cast_ofNat] at h
    linarith
  have hX8 : fx v ≤ 8 := by
    have h := fx_le.2 hhigh
    rw [fx_int_mul, fx_one, Int.cast_ofNat] at h
    linarith
  obtain ⟨X, hXdef⟩ : ∃ X, X = fx v := ⟨_, rfl⟩
  obtain ⟨y, hydef⟩ : ∃ y, y = Real.sqrt (fx (fxMul v v)) := ⟨_, rfl⟩
  have hmul : fx (fxMul v v) ≤ X ^ 2 ∧ X ^ 2 ≤ fx (fxMul v v) + 1 / 10 ^ 20 := by
    obtain ⟨h1, h2⟩ := fxMul_near v v
    have hone := fxOne_cast_pos
    have hlarge := fxOne_large
    have hv : (v : ℝ) * fx v = X ^ 2 * fxOne := by
      rw [hXdef, fx_eq]
      field_simp
    rw [hv] at h1 h2
    rw [fx_eq (fxMul v v)]
    generalize ((fxMul v v : Int) : ℝ) = z at *
    constructor
    · rwa [div_le_iff₀ hone]
    · rw [← sub_le_iff_le_add, le_div_iff₀ hone, sub_mul]
      linarith
  have hq0 : 0 ≤ fx (fxMul v v) := by
    rw [← fx_zero, fx_le]
    exact Int.ediv_nonneg (mul_self_nonneg v) (by positivity)
  have hsq : fx (fxMul v v) = y ^ 2 := by rw [hydef, Real.sq_sqrt hq0]
  rw [hsq] at hmul
  rw [← hXdef] at hX hX8 ⊢
  obtain ⟨hy0, hyX, hXy⟩ := root_near hX (hydef ▸ Real.sqrt_nonneg _) hmul.1 hmul.2
  have hnear := abs_le.1 (erfSteps_near hy0 (hyX.trans hX8) hsq)
  obtain ⟨hb1, hb2⟩ := erfSum_bounds hy0.le (hyX.trans hX8)
  rw [← hXdef] at hnear
  have hratio : 1 ≤ X / y ∧ X / y ≤ 1 + 1 / 10 ^ 9 := ⟨(one_le_div hy0).2 hyX, (div_le_iff₀ hy0).2 hXy⟩
  have hcut1 : min X 1 ≤ X / y * min y 1 := by
    rw [mul_min_of_nonneg _ _ (by linarith), div_mul_cancel₀ _ hy0.ne', mul_one]
    exact min_le_min_left X hratio.1
  have hcut2 : X / y * min y 1 ≤ (1 + 1 / 10 ^ 9) * min X 1 :=
    mul_le_mul hratio.2 (min_le_min_right 1 hyX) (le_min hy0.le zero_le_one) (by norm_num)
  have hmu : 1 / 4096 ≤ min X 1 := le_min hX (by norm_num)
  have hlow' := mul_le_mul_of_nonneg_left hb1 (zero_le_one.trans hratio.1)
  have hhigh' := mul_le_mul_of_nonneg_left hb2 (zero_le_one.trans hratio.1)
  generalize X / y * erfSum y = e at *
  generalize fx (erfSteps v (fxMul v v) 620).1 = s at *
  generalize min X 1 = mu at *
  generalize min y 1 = nu at *
  generalize X / y = r at *
  constructor <;> nlinarith

theorem fxErf_nearCut : NearCut fxErf 8 := by
  intro v hlow hhigh
  obtain ⟨hs1, hs2⟩ := erfSteps_bounds hlow hhigh
  obtain ⟨hc0, hc1, hc2⟩ := fxSqrtPi_near
  obtain ⟨hd1, hd2⟩ := fxDiv_near (a := 2 * (erfSteps v (fxMul v v) 620).1) hc0
  have hmin := fx_min v fxOne
  rw [fx_one] at hmin
  rw [← hmin] at hs1 hs2
  rw [← fxErf_eq, fx_int_mul, Int.cast_ofNat] at hd1 hd2
  have hmu : 0 ≤ fx (min v fxOne) := by
    rw [hmin]
    refine le_min ?_ zero_le_one
    rw [← fx_zero, fx_le]
    have := fxOne_pos
    omega
  generalize fx (erfSteps v (fxMul v v) 620).1 = s at *
  have hcpos : 0 < fx (fxSqrt fxPi) := by linarith
  have hquot1 : 2 / 5 * fx (min v fxOne) ≤ 2 * s / fx (fxSqrt fxPi) := by
    rw [le_div_iff₀ hcpos]
    nlinarith
  have hquot2 : 2 * s / fx (fxSqrt fxPi) ≤ 5 / 2 * fx (min v fxOne) := by
    rw [div_le_iff₀ hcpos]
    nlinarith
  exact nearCut_of_quotient hd1 hd2 hquot1 hquot2

end Sys2Proof.Proofs.VectorSlot
end

section
/-! The activation functions, and the special functions of finite operands together (R152 to R154). -/

namespace Sys2Proof.Proofs.VectorSlot

open Sys2Proof Sys2Proof.Machine Sys2Proof.Claims

theorem activationFunctions : ActivationFunctions := by
  intro b k m hb hm hv
  have h : Operand b k m := ⟨hb, hm, hv⟩
  exact ⟨fun ⟨hlo, hhi⟩ => tanh_inside h hlo hhi (quadAt_pos_of_nearCut (K := 3) fxTanh_nearCut hlo hhi hm),
    fun ⟨hlo, hhi⟩ => erf_inside h hlo hhi (quadAt_pos_of_nearCut (K := 2) fxErf_nearCut hlo hhi hm),
    fun ⟨hlo, hhi⟩ => sigm_inside h hlo hhi,
    fun ⟨hlo, hhi⟩ => gelu_inside h hlo hhi,
    fun hk => ⟨tanh_below h hk, sigm_below h hk, erf_below h hk⟩,
    gelu_below h,
    fun hk => ⟨tanh_above h hk, gelu_above h hk⟩,
    erf_above h,
    fun hk => ⟨sigm_above h hk, sigm_negative h hk⟩⟩

/-- Settles O20: the tables' entries and the functions formed from them. The tables of the odd functions, the roots and the power
of two give positive values, so that the sign of a result is the operand's. -/
theorem specialFunctionValues : Obligations.SpecialFunctionValues :=
  ⟨tableEntry, powerFunctions, circularFunctions, activationFunctions⟩

end Sys2Proof.Proofs.VectorSlot
end
